-- ==== Sys2Proof/Word.lean ====
section
/-! DEFINITION. The word types and their plainest arithmetic. -/

namespace Sys2Proof

/-- An instruction word, and a 32-bit register value. -/
abbrev Word := BitVec 32
/-- A 64-bit value: a register pair, an address, a control register. -/
abbrev Quad := BitVec 64
/-- One byte of memory. -/
abbrev Byte := BitVec 8
/-- A set of lanes of a wave: bit `n` is lane `n` (R142). -/
abbrev Lanes := BitVec 32

end Sys2Proof
end

