-- ==== Sys2Proof/Machine/Bits.lean ====
section
/-! DEFINITION. Lanes as lists, bytes of values, and the sign and zero extensions of R280. -/

namespace Sys2Proof.Machine

/-- The lanes of a set, lowest first. -/
def laneList (m : Lanes) : List Nat := (List.range 32).filter fun l => m.getLsbD l

/-- The set of one lane. -/
def laneBit (l : Nat) : Lanes := BitVec.ofNat 32 (2 ^ l)

/-- The set of the lanes of a list for which `f` holds. -/
def lanesWhere (f : Nat → Bool) : Lanes :=
  BitVec.ofNat 32 (((List.range 32).filter f).foldl (fun n l => n + 2 ^ l) 0)

/-- The lowest lane of a set; 0 of the empty set. -/
def lowestLane (m : Lanes) : Nat := (laneList m).headD 0

/-- How many lanes a set holds. -/
def laneCount (m : Lanes) : Nat := (laneList m).length

/-- The low `n` bytes of a number, least significant first (R207). -/
def bytesOfNat : Nat → Nat → List Byte
  | 0, _ => []
  | n + 1, x => BitVec.ofNat 8 x :: bytesOfNat n (x / 256)

/-- The number that bytes make, least significant first (R207). -/
def natOfBytes : List Byte → Nat
  | [] => 0
  | b :: bs => b.toNat + 256 * natOfBytes bs

/-- A number of `n` bits read as a two's complement integer (R280). -/
def signedOf (n x : Nat) : Int :=
  let y := x % 2 ^ n
  if n ≠ 0 ∧ 2 ^ (n - 1) ≤ y then (y : Int) - 2 ^ n else y

/-- The low `n` bits of a word, zero-extended or sign-extended to 64 bits (R280). -/
def extend (signed : Bool) (n : Nat) (x : Quad) : Quad :=
  if signed then BitVec.ofInt 64 (signedOf n x.toNat) else BitVec.ofNat 64 (x.toNat % 2 ^ n)

/-- The low word of a 64-bit value. -/
def lo32 (x : Quad) : Word := x.extractLsb' 0 32
/-- The high word of a 64-bit value. -/
def hi32 (x : Quad) : Word := x.extractLsb' 32 32
/-- A pair of registers as a 64-bit value (R266). -/
def pairOf (lo hi : Word) : Quad := hi ++ lo

/-- Bits `hi` to `lo` of a number. -/
def bitsOf (x lo len : Nat) : Nat := x / 2 ^ lo % 2 ^ len

/-- Ceiling division. -/
def ceilDiv (a b : Nat) : Nat := (a + b - 1) / b

/-- A list with its element at an index replaced. -/
def setAt {α : Type} (l : List α) (n : Nat) (x : α) : List α := l.set n x

/-- The base-2 logarithm of a number, rounded up; 0 of 0 and 1. -/
def clog2 (n : Nat) : Nat := if n ≤ 1 then 0 else Nat.log2 (n - 1) + 1

end Sys2Proof.Machine
end

