-- ==== Sys2Proof/Machine/Fp.lean ====
section
/-! DEFINITION. Floating-point formats, exact values and rounding (R209 to R213), NaN results (R211), the input and output flushes and the minimum and maximum of FPC (R215, R216). Values are numbers of the format's width. -/

namespace Sys2Proof.Machine

/-- A floating-point format: exponent and fraction bits (R209). -/
structure FFmt where
  ebits : Nat
  fbits : Nat
deriving DecidableEq, Repr

/-- binary16. -/
def f16 : FFmt := ⟨5, 10⟩
/-- BF16. -/
def bf16 : FFmt := ⟨8, 7⟩
/-- binary32. -/
def f32 : FFmt := ⟨8, 23⟩
/-- binary64. -/
def f64 : FFmt := ⟨11, 52⟩

/-- The position of the sign bit. -/
def FFmt.top (f : FFmt) : Nat := f.ebits + f.fbits
/-- The bias. -/
def FFmt.bias (f : FFmt) : Int := 2 ^ (f.ebits - 1) - 1
/-- The exponent of the least significant fraction bit of a subnormal. -/
def FFmt.emin (f : FFmt) : Int := 1 - f.bias - f.fbits
/-- The encoding of infinity without a sign. -/
def FFmt.infBits (f : FFmt) : Nat := (2 ^ f.ebits - 1) * 2 ^ f.fbits
/-- A sign in its place. -/
def FFmt.sign (f : FFmt) (neg : Bool) : Nat := if neg then 2 ^ f.top else 0
/-- Infinity, zero, the largest finite value and the canonical NaN (R209, R210). -/
def FFmt.inf (f : FFmt) (neg : Bool) : Nat := f.sign neg + f.infBits
/-- See `inf`. -/
def FFmt.zero (f : FFmt) (neg : Bool) : Nat := f.sign neg
/-- See `inf`. -/
def FFmt.largest (f : FFmt) (neg : Bool) : Nat := f.sign neg + f.infBits - 1
/-- See `inf`. -/
def FFmt.nan (f : FFmt) : Nat := f.infBits + 2 ^ (f.fbits - 1)
/-- FIN and FOUT reach the format (R215). -/
def FFmt.flushes (f : FFmt) : Bool := f.ebits = 8

/-- The fields of an encoding. -/
def FFmt.neg (f : FFmt) (x : Nat) : Bool := x.testBit f.top
/-- See `neg`. -/
def FFmt.exp (f : FFmt) (x : Nat) : Nat := bitsOf x f.fbits f.ebits
/-- See `neg`. -/
def FFmt.frac (f : FFmt) (x : Nat) : Nat := bitsOf x 0 f.fbits
/-- The encoding is a NaN (R210). -/
def FFmt.isNan (f : FFmt) (x : Nat) : Bool := f.exp x = 2 ^ f.ebits - 1 && f.frac x ≠ 0
/-- The encoding is subnormal. -/
def FFmt.isSub (f : FFmt) (x : Nat) : Bool := f.exp x = 0 && f.frac x ≠ 0

/-- A value that is no NaN: an infinity, or (−1)^neg × m × 2^e. -/
inductive FVal where
  | inf (neg : Bool)
  | fin (neg : Bool) (m : Nat) (e : Int)
deriving DecidableEq, Repr

/-- The value of an encoding that is no NaN. -/
def FFmt.value (f : FFmt) (x : Nat) : FVal :=
  if f.exp x = 2 ^ f.ebits - 1 then .inf (f.neg x)
  else if f.exp x = 0 then .fin (f.neg x) (f.frac x) f.emin
  else .fin (f.neg x) (2 ^ f.fbits + f.frac x) (f.emin + f.exp x - 1)

/-! ### Rounding (R212, R213) -/

/-- A rounding mode: 0 to nearest even, 1 toward zero, 2 toward +∞, 3 toward −∞ (R212). -/
abbrev RMode := Nat

/-- Whether the magnitude `n + r / d` of a sign goes up to `n + 1`. -/
def roundsUp (mode : RMode) (neg : Bool) (n r d : Nat) : Bool :=
  match mode with
  | 0 => d < 2 * r || (2 * r = d && n % 2 = 1)
  | 1 => false
  | 2 => !neg && r ≠ 0
  | _ => neg && r ≠ 0

/-- What an overflow becomes (R213). -/
def FFmt.overflow (f : FFmt) (mode : RMode) (neg : Bool) : Nat :=
  match mode with
  | 0 => f.inf neg
  | 1 => f.largest neg
  | 2 => if neg then f.largest neg else f.inf neg
  | _ => if neg then f.inf neg else f.largest neg

/-- `x × 2^k` as a pair of numerator and denominator factors. -/
def scale (p q : Nat) (k : Int) : Nat × Nat := if 0 ≤ k then (p * 2 ^ k.toNat, q) else (p, q * 2 ^ (-k).toNat)

/-- The floor of the base-2 logarithm of p / q, for positive p and q. -/
def log2Ratio (p q : Nat) : Int :=
  let e : Int := (Nat.log2 p : Int) - Nat.log2 q
  let (a, b) := scale p q (-e)
  if a < b then e - 1 else e

/-- The exact magnitude p / q of a sign rounded to a format (R212, R213); zero when p is 0. -/
def FFmt.round (f : FFmt) (mode : RMode) (neg : Bool) (p q : Nat) : Nat :=
  if p = 0 then f.zero neg
  else
    let ulp := max (log2Ratio p q - f.fbits) f.emin
    let (a, b) := scale p q (-ulp)
    let n := a / b
    let n' := if roundsUp mode neg n (a % b) b then n + 1 else n
    let code := (ulp - f.emin).toNat * 2 ^ f.fbits + n'
    if f.infBits ≤ code then f.overflow mode neg else f.sign neg + code

/-- A finite value rounded to a format. -/
def FFmt.roundVal (f : FFmt) (mode : RMode) : FVal → Nat
  | .inf neg => f.inf neg
  | .fin neg m e => let (p, q) := scale m 1 e; f.round mode neg p q

/-! ### Exact operations -/

/-- What an exact operation gives: invalid, an infinity, a zero with its sign, or a magnitude with a sign. -/
inductive FRes where
  | invalid
  | inf (neg : Bool)
  | rat (neg : Bool) (p q : Nat)
deriving DecidableEq, Repr

/-- A result rounded; an invalid one is the canonical NaN (R211). -/
def FFmt.finish (f : FFmt) (mode : RMode) : FRes → Nat
  | .invalid => f.nan
  | .inf neg => f.inf neg
  | .rat neg p q => f.round mode neg p q

/-- A signed integer mantissa. -/
def signed (neg : Bool) (m : Nat) : Int := if neg then -(m : Int) else m

/-- The exact sum of two finite values; a zero sum of opposite signs is +0, or −0 toward −∞ (R213). -/
def exactSum (mode : RMode) (n1 : Bool) (m1 : Nat) (e1 : Int) (n2 : Bool) (m2 : Nat) (e2 : Int) : FRes :=
  let e := min e1 e2
  let s := signed n1 (m1 * 2 ^ (e1 - e).toNat) + signed n2 (m2 * 2 ^ (e2 - e).toNat)
  if s = 0 then .rat (if n1 = n2 then n1 else mode = 3) 0 1
  else let (p, q) := scale s.natAbs 1 e; .rat (s < 0) p q

/-- a + b. -/
def exactAdd (mode : RMode) : FVal → FVal → FRes
  | .inf n1, .inf n2 => if n1 = n2 then .inf n1 else .invalid
  | .inf n1, .fin .. => .inf n1
  | .fin .., .inf n2 => .inf n2
  | .fin n1 m1 e1, .fin n2 m2 e2 => exactSum mode n1 m1 e1 n2 m2 e2

/-- The value with its sign changed. -/
def FVal.negate : FVal → FVal
  | .inf n => .inf !n
  | .fin n m e => .fin (!n) m e

/-- a × b exactly; none for 0 × ∞. -/
def exactMul : FVal → FVal → Option FVal
  | .inf n1, .inf n2 => some (.inf (n1 != n2))
  | .inf n1, .fin n2 m2 _ => if m2 = 0 then none else some (.inf (n1 != n2))
  | .fin n1 m1 _, .inf n2 => if m1 = 0 then none else some (.inf (n1 != n2))
  | .fin n1 m1 e1, .fin n2 m2 e2 => some (.fin (n1 != n2) (m1 * m2) (e1 + e2))

/-- A value as a result. -/
def FVal.res : FVal → FRes
  | .inf n => .inf n
  | .fin n m e => let (p, q) := scale m 1 e; .rat n p q

/-- a × b + c with one rounding to follow (R213). -/
def exactFma (mode : RMode) (a b c : FVal) : FRes :=
  match exactMul a b with
  | none => .invalid
  | some p => exactAdd mode p c

/-- a / b (R298). -/
def exactDiv : FVal → FVal → FRes
  | .inf _, .inf _ => .invalid
  | .inf n1, .fin n2 _ _ => .inf (n1 != n2)
  | .fin n1 _ _, .inf n2 => .rat (n1 != n2) 0 1
  | .fin n1 m1 e1, .fin n2 m2 e2 =>
    if m2 = 0 then (if m1 = 0 then .invalid else .inf (n1 != n2))
    else let (p, q) := scale m1 m2 (e1 - e2); .rat (n1 != n2) p q

/-- The integer square root, by its bits from 2^k down. -/
def isqrtFrom (n : Nat) : Nat → Nat → Nat
  | 0, r => r
  | k + 1, r => let t := r + 2 ^ k; isqrtFrom n k (if t * t ≤ n then t else r)

/-- The integer square root. -/
def isqrt (n : Nat) : Nat := isqrtFrom n (Nat.log2 n / 2 + 1) 0

/-- How many bits roots are taken to: more than twice the widest fraction. -/
def rootBits : Nat := 160

/-- sqrt(a): −0 gives −0, a negative value is invalid (R298). An inexact root lies strictly between two multiples of a unit far below the rounding position and stands as their middle, which rounds as the root does. -/
def exactSqrt : FVal → FRes
  | .inf neg => if neg then .invalid else .inf false
  | .fin neg m e =>
    if m = 0 then .rat neg 0 1
    else if neg then .invalid
    else
      let odd := e % 2 = 1
      let m' := (if odd then 2 * m else m) * 2 ^ (2 * rootBits)
      let e' := (if odd then e - 1 else e) / 2 - rootBits
      let r := isqrt m'
      let (p, q) := scale (if r * r = m' then 2 * r else 2 * r + 1) 2 e'
      .rat false p q

/-- 1 / sqrt(a) (R298). -/
def exactRsqrt : FVal → FRes
  | .inf neg => if neg then .invalid else .rat false 0 1
  | .fin neg m e =>
    if m = 0 then .inf neg
    else if neg then .invalid
    else
      let odd := e % 2 = 1
      let m' := if odd then 2 * m else m
      let e' := (if odd then e - 1 else e) / 2
      let r := isqrt (2 ^ (4 * rootBits) / m')
      let (p, q) := scale (if r * r * m' = 2 ^ (4 * rootBits) then 2 * r else 2 * r + 1) 2 (-e' - 2 * rootBits)
      .rat false p q

/-- A value rounded to an integer in a mode. -/
def roundInt (mode : RMode) (neg : Bool) (m : Nat) (e : Int) : Int :=
  let (p, q) := scale m 1 e
  let n := p / q
  signed neg (if roundsUp mode neg n (p % q) q then n + 1 else n)

/-! ### FPC (R211, R214 to R216) -/

/-- The numeric modes of FPC. -/
structure Fpc where
  fin : Bool
  fout : Bool
  nanp : Bool
  minmax : Bool
  divsq : Bool
  f2i : Bool
deriving DecidableEq, Repr

/-- FPC's fields (R214). -/
def Fpc.of (x : Quad) : Fpc := ⟨x.getLsbD 0, x.getLsbD 1, x.getLsbD 2, x.getLsbD 3, x.getLsbD 4, x.getLsbD 5⟩

/-- No mode set: what the atomics, copies and matrix engines compute under (R220). -/
def Fpc.plain : Fpc := ⟨false, false, false, false, false, false⟩

/-- In(x) (R215). -/
def Fpc.input (c : Fpc) (f : FFmt) (x : Nat) : Nat := if c.fin && f.flushes && f.isSub x then f.zero (f.neg x) else x

/-- A result under FOUT (R215). -/
def Fpc.output (c : Fpc) (f : FFmt) (x : Nat) : Nat := if c.fout && f.flushes && f.isSub x then f.zero (f.neg x) else x

/-- A NaN of one format with its quiet bit set, as a NaN of another: low fraction bits dropped, or zeros added (R211). -/
def quietAs (f g : FFmt) (x : Nat) : Nat :=
  let fr := f.frac x ||| 2 ^ (f.fbits - 1)
  g.sign (f.neg x) + g.infBits + (if g.fbits ≤ f.fbits then fr / 2 ^ (f.fbits - g.fbits) else fr * 2 ^ (g.fbits - f.fbits))

/-- The result of an operation with NaN operands: canonical, or the first NaN operand quieted (R211). -/
def Fpc.nanOf (c : Fpc) (f : FFmt) (xs : List Nat) : Nat :=
  if c.nanp then (match xs.find? f.isNan with | some x => quietAs f f x | none => f.nan) else f.nan

/-- An operation on one operand. -/
def Fpc.op1 (c : Fpc) (f : FFmt) (mode : RMode) (op : FVal → FRes) (a : Nat) : Nat :=
  let x := c.input f a
  if f.isNan x then c.nanOf f [x] else c.output f (f.finish mode (op (f.value x)))

/-- An operation on two operands. -/
def Fpc.op2 (c : Fpc) (f : FFmt) (mode : RMode) (op : FVal → FVal → FRes) (a b : Nat) : Nat :=
  let x := c.input f a
  let y := c.input f b
  if f.isNan x || f.isNan y then c.nanOf f [x, y] else c.output f (f.finish mode (op (f.value x) (f.value y)))

/-- An operation on three operands. -/
def Fpc.op3 (c : Fpc) (f : FFmt) (mode : RMode) (op : FVal → FVal → FVal → FRes) (a b d : Nat) : Nat :=
  let x := c.input f a
  let y := c.input f b
  let z := c.input f d
  if f.isNan x || f.isNan y || f.isNan z then c.nanOf f [x, y, z] else c.output f (f.finish mode (op (f.value x) (f.value y) (f.value z)))

/-- Addition, subtraction, multiplication, fused multiply-add, division. -/
def Fpc.add (c : Fpc) (f : FFmt) (mode : RMode) : Nat → Nat → Nat := c.op2 f mode (exactAdd mode)
/-- See `add`. -/
def Fpc.sub (c : Fpc) (f : FFmt) (mode : RMode) : Nat → Nat → Nat := c.op2 f mode fun a b => exactAdd mode a b.negate
/-- See `add`. -/
def Fpc.mul (c : Fpc) (f : FFmt) (mode : RMode) : Nat → Nat → Nat := c.op2 f mode fun a b => match exactMul a b with | none => .invalid | some p => p.res
/-- See `add`. -/
def Fpc.fma (c : Fpc) (f : FFmt) (mode : RMode) : Nat → Nat → Nat → Nat := c.op3 f mode (exactFma mode)
/-- See `add`. -/
def Fpc.div (c : Fpc) (f : FFmt) (mode : RMode) : Nat → Nat → Nat := c.op2 f mode exactDiv
/-- See `add`. -/
def Fpc.sqrt (c : Fpc) (f : FFmt) (mode : RMode) : Nat → Nat := c.op1 f mode exactSqrt

/-- The order of two values: the sign of a − b (−0 equals +0). -/
def cmpVal : FVal → FVal → Int
  | .inf n1, .inf n2 => if n1 = n2 then 0 else if n1 then -1 else 1
  | .inf n1, .fin .. => if n1 then -1 else 1
  | .fin .., .inf n2 => if n2 then 1 else -1
  | .fin n1 m1 e1, .fin n2 m2 e2 =>
    let e := min e1 e2
    let d := signed n1 (m1 * 2 ^ (e1 - e).toNat) - signed n2 (m2 * 2 ^ (e2 - e).toNat)
    if d < 0 then -1 else if d = 0 then 0 else 1

/-- The minimum or maximum of two operands (R216). -/
def Fpc.pick (c : Fpc) (f : FFmt) (least : Bool) (a b : Nat) : Nat :=
  let x := c.input f a
  let y := c.input f b
  if f.isNan x || f.isNan y then
    if c.minmax && !f.isNan x then c.output f x
    else if c.minmax && !f.isNan y then c.output f y
    else c.nanOf f [x, y]
  else
    let k := cmpVal (f.value x) (f.value y)
    let first : Bool :=
      if k = 0 then c.minmax || f.neg x = f.neg y || f.neg x = least
      else (k < 0) = least
    c.output f (if first then x else y)

/-- The conditions of fcmp and dcmp (R278, R299). -/
def Fpc.compare (c : Fpc) (f : FFmt) (code a b : Nat) : Bool :=
  let x := c.input f a
  let y := c.input f b
  let un := f.isNan x || f.isNan y
  let k := cmpVal (f.value x) (f.value y)
  match code with
  | 0 => !un && k = 0
  | 1 => un || k ≠ 0
  | 2 => !un && k < 0
  | 3 => !un && k ≤ 0
  | 4 => !un && k > 0
  | 5 => !un && k ≥ 0
  | 6 => !un
  | _ => un

/-- Rounding to an integral value of the format: a zero result keeps the operand's sign (R297, R298). -/
def Fpc.integral (c : Fpc) (f : FFmt) (mode : RMode) : Nat → Nat := c.op1 f mode fun v => match v with
  | .inf n => .inf n
  | .fin n m e => let k := roundInt mode n m e; .rat n k.natAbs 1

/-! ### The legacy sequences (R217) -/

/-- ClearLow: fraction bit 0 cleared, but not of 0, ∞ and NaN. -/
def clearLow (x : Nat) : Nat := if f32.exp x = 255 || x % 2 ^ 31 = 0 then x else x / 2 * 2

/-- LegacyRcp, with FIN and FOUT at each step. -/
def Fpc.legacyRcp (c : Fpc) (b : Nat) : Nat := c.output f32 (clearLow (c.op1 f32 1 (fun v => exactDiv (.fin false 1 0) v) b))
/-- LegacyRsq. -/
def Fpc.legacyRsq (c : Fpc) (b : Nat) : Nat := c.output f32 (clearLow (c.op1 f32 1 exactRsqrt b))

/-- fdiv: correctly rounded, or a times the legacy reciprocal of b. A NaN operand counts in the order a, b (R211). -/
def Fpc.fdiv (c : Fpc) (mode : RMode) (a b : Nat) : Nat :=
  if c.divsq && !f32.isNan a && !f32.isNan b then c.mul f32 mode a (c.legacyRcp b) else c.div f32 mode a b
/-- frcp. -/
def Fpc.frcp (c : Fpc) (mode : RMode) (b : Nat) : Nat := if c.divsq then c.legacyRcp b else c.op1 f32 mode (fun v => exactDiv (.fin false 1 0) v) b
/-- frsq. -/
def Fpc.frsq (c : Fpc) (mode : RMode) (b : Nat) : Nat := if c.divsq then c.legacyRsq b else c.op1 f32 mode exactRsqrt b

end Sys2Proof.Machine
end

