-- ==== Sys2Proof/Machine/Bc.lean ====
section
/-! DEFINITION. The published decoders of BC3, BC5 and BC7 (R69): the spec names them and does not give them (PRESUMED, log entry 34). A block is the number that its 16 bytes make, least significant first; texels go row by row. -/

namespace Sys2Proof.Machine

/-- Four 8-bit channels as a texel: R in bits 7:0, then G, B and A. -/
def texelOf (r g b a : Nat) : Word := BitVec.ofNat 32 (r + g * 2 ^ 8 + b * 2 ^ 16 + a * 2 ^ 24)

/-! ### BC3 and BC5 -/

/-- One channel of an 8-byte block of two endpoints and 3-bit codes, with the interpolated values rounded to nearest. -/
def bcChannel (x i : Nat) : Nat :=
  let a := bitsOf x 0 8
  let b := bitsOf x 8 8
  let code := bitsOf x (16 + 3 * i) 3
  if code = 0 then a else if code = 1 then b
  else if b < a then ((8 - code) * a + (code - 1) * b + 3) / 7
  else if code = 6 then 0 else if code = 7 then 255
  else ((6 - code) * a + (code - 1) * b + 2) / 5

/-- An endpoint component of `n` bits widened to eight by repeating its high bits. -/
def widenBits (n x : Nat) : Nat := x * 2 ^ (8 - n) + x / 2 ^ (2 * n - 8)

/-- A component of a BC3 colour block: of two 5:6:5 endpoints, the first bit and the width of the component, and 2-bit codes. -/
def bcColour (x lo n i : Nat) : Nat :=
  let a := widenBits n (bitsOf x lo n)
  let b := widenBits n (bitsOf x (16 + lo) n)
  match bitsOf x (32 + 2 * i) 2 with
  | 0 => a
  | 1 => b
  | 2 => (2 * a + b + 1) / 3
  | _ => (a + 2 * b + 1) / 3

/-- A texel of a BC3 block: alpha in the first eight bytes, colour in the last. -/
def decodeBc3 (x i : Nat) : Word :=
  let c := x / 2 ^ 64
  texelOf (bcColour c 11 5 i) (bcColour c 5 6 i) (bcColour c 0 5 i) (bcChannel x i)

/-- A texel of a BC5 block: R in the first eight bytes, G in the last; B is 0 and A is 255 (R69). -/
def decodeBc5 (x i : Nat) : Word := texelOf (bcChannel x i) (bcChannel (x / 2 ^ 64) i) 0 255

/-! ### BC7 -/

/-- A mode of BC7: its subsets, its partition, rotation and index-selection bits, its colour and alpha bits, whether each endpoint or each subset has a p-bit, and the bits of its two sets of indices. -/
structure Bc7Mode where
  subsets : Nat
  partition : Nat
  rotation : Nat
  selection : Nat
  colour : Nat
  alpha : Nat
  perEnd : Nat
  perSubset : Nat
  index : Nat
  index2 : Nat
deriving DecidableEq, Repr

/-- The eight modes. -/
def bc7Modes : List Bc7Mode :=
  [⟨3, 4, 0, 0, 4, 0, 1, 0, 3, 0⟩, ⟨2, 6, 0, 0, 6, 0, 0, 1, 3, 0⟩, ⟨3, 6, 0, 0, 5, 0, 0, 0, 2, 0⟩, ⟨2, 6, 0, 0, 7, 0, 1, 0, 2, 0⟩,
   ⟨1, 0, 2, 1, 5, 6, 0, 0, 2, 3⟩, ⟨1, 0, 2, 0, 7, 8, 0, 0, 2, 2⟩, ⟨1, 0, 0, 0, 7, 7, 1, 0, 4, 0⟩, ⟨2, 6, 0, 0, 5, 5, 1, 0, 2, 0⟩]

/-- The 64 partitions of two subsets: a bit for each texel. -/
def bc7Two : List Nat :=
  [0xCCCC, 0x8888, 0xEEEE, 0xECC8, 0xC880, 0xFEEC, 0xFEC8, 0xEC80, 0xC800, 0xFFEC, 0xFE80, 0xE800, 0xFFE8, 0xFF00, 0xFFF0, 0xF000,
   0xF710, 0x008E, 0x7100, 0x08CE, 0x008C, 0x7310, 0x3100, 0x8CCE, 0x088C, 0x3110, 0x6666, 0x366C, 0x17E8, 0x0FF0, 0x718E, 0x399C] ++
  [0xAAAA, 0xF0F0, 0x5A5A, 0x33CC, 0x3C3C, 0x55AA, 0x9696, 0xA55A, 0x73CE, 0x13C8, 0x324C, 0x3BDC, 0x6996, 0xC33C, 0x9966, 0x0660,
   0x0272, 0x04E4, 0x4E40, 0x2720, 0xC936, 0x936C, 0x39C6, 0x639C, 0x9336, 0x9CC6, 0x817E, 0xE718, 0xCCF0, 0x0FCC, 0x7744, 0xEE22]

/-- The 64 partitions of three subsets: two bits for each texel. -/
def bc7Three : List Nat :=
  [0xAA685050, 0x6A5A5040, 0x5A5A4200, 0x5450A0A8, 0xA5A50000, 0xA0A05050, 0x5555A0A0, 0x5A5A5050, 0xAA550000, 0xAA555500, 0xAAAA5500, 0x90909090, 0x94949494, 0xA4A4A4A4, 0xA9A59450, 0x2A0A4250,
   0xA5945040, 0x0A425054, 0xA5A5A500, 0x55A0A0A0, 0xA8A85454, 0x6A6A4040, 0xA4A45000, 0x1A1A0500, 0x0050A4A4, 0xAAA59090, 0x14696914, 0x69691400, 0xA08585A0, 0xAA821414, 0x50A4A450, 0x6A5A0200] ++
  [0xA9A58000, 0x5090A0A8, 0xA8A09050, 0x24242424, 0x00AA5500, 0x24924924, 0x24499224, 0x50A50A50, 0x500AA550, 0xAAAA4444, 0x66660000, 0xA5A0A5A0, 0x50A050A0, 0x69286928, 0x44AAAA44, 0x66666600,
   0xAA444444, 0x54A854A8, 0x95809580, 0x96969600, 0xA85454A8, 0x80959580, 0xAA141414, 0x96960000, 0xAAAA1414, 0xA05050A0, 0xA0A5A5A0, 0x96000000, 0x40804080, 0xA9A8A9A8, 0xAAAAAA44, 0x2A4A5254]

/-- The anchor texel of the second of two subsets. -/
def bc7AnchorTwo : List Nat :=
  [15, 15, 15, 15, 15, 15, 15, 15, 15, 15, 15, 15, 15, 15, 15, 15, 15, 2, 8, 2, 2, 8, 8, 15, 2, 8, 2, 2, 8, 8, 2, 2] ++
  [15, 15, 6, 8, 2, 8, 15, 15, 2, 8, 2, 2, 2, 15, 15, 6, 6, 2, 6, 8, 15, 15, 2, 2, 15, 15, 15, 15, 15, 2, 2, 15]

/-- The anchor texel of the second of three subsets. -/
def bc7AnchorMid : List Nat :=
  [3, 3, 15, 15, 8, 3, 15, 15, 8, 8, 6, 6, 6, 5, 3, 3, 3, 3, 8, 15, 3, 3, 6, 10, 5, 8, 8, 6, 8, 5, 15, 15] ++
  [8, 15, 3, 5, 6, 10, 8, 15, 15, 3, 15, 5, 15, 15, 15, 15, 3, 15, 5, 5, 5, 8, 5, 10, 5, 10, 8, 13, 15, 12, 3, 3]

/-- The anchor texel of the third of three subsets. -/
def bc7AnchorLast : List Nat :=
  [15, 8, 8, 3, 15, 15, 3, 8, 15, 15, 15, 15, 15, 15, 15, 8, 15, 8, 15, 3, 15, 8, 15, 8, 3, 15, 6, 10, 15, 15, 10, 8] ++
  [15, 3, 15, 10, 10, 8, 9, 10, 6, 15, 8, 15, 3, 6, 6, 8, 15, 3, 15, 15, 15, 15, 15, 15, 15, 15, 15, 15, 3, 15, 15, 8]

/-- The subset of a texel under a partition of `n` subsets. -/
def bc7Subset (n p i : Nat) : Nat := if n = 2 then bitsOf (bc7Two.getD p 0) i 1 else if n = 3 then bitsOf (bc7Three.getD p 0) (2 * i) 2 else 0

/-- The anchor texels of a partition of `n` subsets: their indices have one bit less. -/
def bc7Anchors (n p : Nat) : List Nat :=
  if n = 2 then [0, bc7AnchorTwo.getD p 0] else if n = 3 then [0, bc7AnchorMid.getD p 0, bc7AnchorLast.getD p 0] else [0]

/-- The weight of an index of `n` bits, in 64ths. -/
def bc7Weight (n k : Nat) : Nat :=
  (if n = 2 then [0, 21, 43, 64] else if n = 3 then [0, 9, 18, 27, 37, 46, 55, 64] else [0, 4, 9, 13, 17, 21, 26, 30, 34, 38, 43, 47, 51, 55, 60, 64]).getD k 0

/-- The index of a texel in a set of indices of `n` bits that begins at bit `at_`. -/
def bc7Index (x at_ n : Nat) (anchors : List Nat) (i : Nat) : Nat :=
  bitsOf x (at_ + n * i - (anchors.filter (· < i)).length) (if anchors.contains i then n - 1 else n)

/-- A texel of a BC7 block whose mode byte is not zero. -/
def decodeBc7In (x i mode : Nat) (m : Bc7Mode) : Word :=
  let at1 := mode + 1
  let p := bitsOf x at1 m.partition
  let rot := bitsOf x (at1 + m.partition) m.rotation
  let sel := bitsOf x (at1 + m.partition + m.rotation) m.selection
  let at2 := at1 + m.partition + m.rotation + m.selection
  let ends := 2 * m.subsets
  let at3 := at2 + 3 * ends * m.colour
  let at4 := at3 + ends * m.alpha
  let at5 := at4 + ends * m.perEnd + m.subsets * m.perSubset
  let anchors := bc7Anchors m.subsets p
  let at6 := at5 + 16 * m.index - m.subsets
  let s := bc7Subset m.subsets p i
  let pbits := m.perEnd + m.perSubset
  let pbit (e : Nat) : Nat := if m.perEnd = 1 then bitsOf x (at4 + e) 1 else bitsOf x (at4 + e / 2) 1
  let endpoint (c e : Nat) : Nat :=
    let n := if c = 3 then m.alpha else m.colour
    let v := bitsOf x (if c = 3 then at3 + e * m.alpha else at2 + (c * ends + e) * m.colour) n
    if n = 0 then 255 else widenBits (n + pbits) (if pbits = 1 then 2 * v + pbit e else v)
  let first := bc7Weight m.index (bc7Index x at5 m.index anchors i)
  let second := if m.index2 = 0 then first else bc7Weight m.index2 (bc7Index x at6 m.index2 [0] i)
  let value (c : Nat) : Nat :=
    let w := if (c = 3) = (sel = 0) then second else first
    ((64 - w) * endpoint c (2 * s) + w * endpoint c (2 * s + 1) + 32) / 64
  let (r, g, b, a) := (value 0, value 1, value 2, value 3)
  match rot with
  | 0 => texelOf r g b a
  | 1 => texelOf a g b r
  | 2 => texelOf r a b g
  | _ => texelOf r g a b

/-- A texel of a BC7 block; all zero where the mode byte is zero (R69). -/
def decodeBc7 (x i : Nat) : Word :=
  match (List.range 8).find? fun k => x.testBit k with
  | none => 0
  | some mode => decodeBc7In x i mode (bc7Modes.getD mode ⟨1, 0, 0, 0, 7, 7, 1, 0, 4, 0⟩)

end Sys2Proof.Machine
end

