-- ==== Sys2Proof/Machine/Astc.lean ====
section
/-! DEFINITION. The published decoder of ASTC 4 × 4 blocks in the LDR profile, decoded to 8-bit unorm (R69): the spec names it and does not give it (PRESUMED, log entry 34). A block is the number that its 16 bytes make, least significant first. -/

namespace Sys2Proof.Machine

/-! ### Integer sequences -/

/-- How integers of a range are coded: plain bits, and whether a trit or a quint goes above them. -/
structure AstcRange where
  bits : Nat
  trit : Bool
  quint : Bool
deriving DecidableEq, Repr

/-- The number of values of a range. -/
def AstcRange.levels (r : AstcRange) : Nat := 2 ^ r.bits * (if r.trit then 3 else if r.quint then 5 else 1)

/-- The bits that `n` integers of a range take. -/
def AstcRange.size (r : AstcRange) (n : Nat) : Nat := n * r.bits + (if r.trit then (8 * n + 4) / 5 else if r.quint then (7 * n + 2) / 3 else 0)

/-- The five trits of a packed byte. -/
def astcTrits (t : Nat) : List Nat :=
  let b (lo len : Nat) : Nat := bitsOf t lo len
  let (c, t3, t4) := if b 2 3 = 7 then (b 5 3 * 4 + b 0 2, 2, 2) else if b 5 2 = 3 then (b 0 5, b 7 1, 2) else (b 0 5, b 5 2, b 7 1)
  let g (lo len : Nat) : Nat := bitsOf c lo len
  if g 0 2 = 3 then [g 3 1 * 2 + (if g 3 1 = 1 then 0 else g 2 1), g 4 1, 2, t3, t4]
  else if g 2 2 = 3 then [g 0 2, 2, 2, t3, t4]
  else [g 1 1 * 2 + (if g 1 1 = 1 then 0 else g 0 1), g 2 2, g 4 1, t3, t4]

/-- The three quints of a packed group of seven bits. -/
def astcQuints (q : Nat) : List Nat :=
  let b (lo len : Nat) : Nat := bitsOf q lo len
  if b 1 2 = 3 && b 5 2 = 0 then
    [4, 4, b 0 1 * 4 + (if b 0 1 = 1 then 0 else b 3 2)]
  else
    let (c, q2) := if b 1 2 = 3 then (b 3 2 * 8 + (3 - b 5 2) * 2 + b 0 1, 4) else (b 0 5, b 5 2)
    if bitsOf c 0 3 = 5 then [bitsOf c 3 2, 4, q2] else [bitsOf c 0 3, bitsOf c 3 2, q2]

/-- The `k`-th integer of a sequence that begins at bit 0 of `x`: its trit or quint, and its bits. -/
def AstcRange.get (r : AstcRange) (x k : Nat) : Nat × Nat :=
  let n := r.bits
  if r.trit then
    let at_ := k / 5 * (5 * n + 8)
    let y (lo len : Nat) : Nat := bitsOf x (at_ + lo) len
    let t := y n 2 + y (2 * n + 2) 2 * 4 + y (3 * n + 4) 1 * 16 + y (4 * n + 5) 2 * 32 + y (5 * n + 7) 1 * 128
    ((astcTrits t).getD (k % 5) 0, y ([0, n + 2, 2 * n + 4, 3 * n + 5, 4 * n + 7].getD (k % 5) 0) n)
  else if r.quint then
    let at_ := k / 3 * (3 * n + 7)
    let y (lo len : Nat) : Nat := bitsOf x (at_ + lo) len
    let q := y n 3 + y (2 * n + 3) 2 * 8 + y (3 * n + 5) 2 * 32
    ((astcQuints q).getD (k % 3) 0, y ([0, n + 3, 2 * n + 5].getD (k % 3) 0) n)
  else (0, bitsOf x (n * k) n)

/-- Bits of a number picked by their indices, most significant first: an index past 15 gives a zero. -/
def pickBits (x : Nat) (l : List Nat) : Nat := l.foldl (fun a i => 2 * a + (if 15 < i then 0 else bitsOf x i 1)) 0

/-- A value of `n` bits widened to `w` by repeating it from its top. -/
def repeatBits (n w x : Nat) : Nat := (List.range w).foldl (fun a k => 2 * a + bitsOf x (n - 1 - k % n) 1) 0

/-- Unquantizing above plain bits: the constant C and the bit pattern B, for a trit and for a quint. -/
def astcScale (d x c w : Nat) (pattern : List Nat) : Nat :=
  let a := if x % 2 = 1 then 2 ^ (w + 1) - 1 else 0
  let t := (d * c + pickBits x pattern) ^^^ a
  (a % 2 ^ w / 2 ^ (w - 1) * 2 ^ (w - 1)) ||| t / 4

/-- A colour value, 0 to 255. -/
def astcColour (r : AstcRange) (v : Nat × Nat) : Nat :=
  let z := 16
  if r.trit then (match r.bits with
    | 1 => astcScale v.1 v.2 204 8 []
    | 2 => astcScale v.1 v.2 93 8 [1, z, z, z, 1, z, 1, 1, z]
    | 3 => astcScale v.1 v.2 44 8 [2, 1, z, z, z, 2, 1, 2, 1]
    | 4 => astcScale v.1 v.2 22 8 [3, 2, 1, z, z, z, 3, 2, 1]
    | 5 => astcScale v.1 v.2 11 8 [4, 3, 2, 1, z, z, z, 4, 3]
    | _ => astcScale v.1 v.2 5 8 [5, 4, 3, 2, 1, z, z, z, 5])
  else if r.quint then (match r.bits with
    | 1 => astcScale v.1 v.2 113 8 []
    | 2 => astcScale v.1 v.2 54 8 [1, z, z, z, z, 1, 1, z, z]
    | 3 => astcScale v.1 v.2 26 8 [2, 1, z, z, z, z, 2, 1, 2]
    | 4 => astcScale v.1 v.2 13 8 [3, 2, 1, z, z, z, z, 3, 2]
    | _ => astcScale v.1 v.2 6 8 [4, 3, 2, 1, z, z, z, z, 4])
  else repeatBits r.bits 8 v.2

/-- A weight, 0 to 64. -/
def astcWeight (r : AstcRange) (v : Nat × Nat) : Nat :=
  let z := 16
  let t := if r.trit then (match r.bits with
      | 0 => [0, 32, 63].getD v.1 0
      | 1 => astcScale v.1 v.2 50 6 []
      | 2 => astcScale v.1 v.2 23 6 [1, z, z, z, 1, z, 1]
      | _ => astcScale v.1 v.2 11 6 [2, 1, z, z, z, 2, 1])
    else if r.quint then (match r.bits with
      | 0 => [0, 16, 32, 47, 63].getD v.1 0
      | 1 => astcScale v.1 v.2 28 6 []
      | _ => astcScale v.1 v.2 13 6 [1, z, z, z, z, 1, z])
    else repeatBits r.bits 6 v.2
  if 32 < t then t + 1 else t

/-! ### The block mode -/

/-- What the block mode gives: the weight grid's width and height, its range and whether there are two planes. -/
structure AstcMode where
  width : Nat
  height : Nat
  range : AstcRange
  dual : Bool
deriving DecidableEq, Repr

/-- The weight ranges by their 3-bit code from 2 up, low precision first. -/
def astcWeightRanges : List AstcRange :=
  [⟨1, false, false⟩, ⟨0, true, false⟩, ⟨2, false, false⟩, ⟨0, false, true⟩, ⟨1, true, false⟩, ⟨3, false, false⟩,
   ⟨1, false, true⟩, ⟨2, true, false⟩, ⟨4, false, false⟩, ⟨2, false, true⟩, ⟨3, true, false⟩, ⟨5, false, false⟩]

/-- The block mode of a block; none where it is reserved. -/
def astcMode (x : Nat) : Option AstcMode :=
  let b (lo len : Nat) : Nat := bitsOf x lo len
  let a := b 5 2
  let range (code high : Nat) : AstcRange := astcWeightRanges.getD (code - 2 + 6 * high) ⟨1, false, false⟩
  if b 0 2 ≠ 0 then
    let (w, h) := match b 2 2 with
      | 0 => (b 7 2 + 4, a + 2)
      | 1 => (b 7 2 + 8, a + 2)
      | 2 => (a + 2, b 7 2 + 8)
      | _ => if b 8 1 = 1 then (b 7 1 + 2, a + 2) else (a + 2, b 7 1 + 6)
    some ⟨w, h, range (b 4 1 + 2 * b 0 2) (b 9 1), b 10 1 = 1⟩
  else if b 2 2 = 0 then none
  else
    let r (high : Nat) : AstcRange := range (b 4 1 + 2 * b 2 2) high
    match b 7 2 with
    | 0 => some ⟨12, a + 2, r (b 9 1), b 10 1 = 1⟩
    | 1 => some ⟨a + 2, 12, r (b 9 1), b 10 1 = 1⟩
    | 2 => some ⟨a + 6, b 9 2 + 6, r 0, false⟩
    | _ => if a = 0 then some ⟨6, 10, r (b 9 1), b 10 1 = 1⟩ else if a = 1 then some ⟨10, 6, r (b 9 1), b 10 1 = 1⟩ else none

/-- How many weights a mode has. -/
def AstcMode.count (m : AstcMode) : Nat := m.width * m.height * (if m.dual then 2 else 1)

/-- The block's bits from the top down, as the weights are read. -/
def astcReversed (x : Nat) : Nat := (List.range 128).foldl (fun a i => 2 * a + bitsOf x i 1) 0

/-- A weight of the grid in a plane. -/
def AstcMode.weight (m : AstcMode) (rev plane k : Nat) : Nat := astcWeight m.range (m.range.get rev (if m.dual then 2 * k + plane else k))

/-- The weight of a texel in a plane, interpolated from the grid. -/
def AstcMode.texelWeight (m : AstcMode) (rev plane i : Nat) : Nat :=
  let gs := (342 * (i % 4) * (m.width - 1) + 32) / 64
  let gt := (342 * (i / 4) * (m.height - 1) + 32) / 64
  let (fs, ft) := (gs % 16, gt % 16)
  let w11 := (fs * ft + 8) / 16
  let v := gs / 16 + gt / 16 * m.width
  let p (k f : Nat) : Nat := if f = 0 then 0 else m.weight rev plane k * f
  (p v (16 + w11 - fs - ft) + p (v + 1) (fs - w11) + p (v + m.width) (ft - w11) + p (v + m.width + 1) w11 + 8) / 16

/-! ### Partitions -/

/-- The published hash of a partition seed. -/
def astcHash (x : Word) : Word :=
  let p1 := x ^^^ x >>> 15
  let p2 := p1 - p1 <<< 17
  let p3 := p2 + p2 <<< 7
  let p4 := p3 + p3 <<< 4
  let p5 := p4 ^^^ p4 >>> 5
  let p6 := p5 + p5 <<< 16
  let p7 := p6 ^^^ p6 >>> 7
  let p8 := p7 ^^^ p7 >>> 3
  let p9 := p8 ^^^ p8 <<< 6
  p9 ^^^ p9 >>> 17

/-- The partition of a texel of a block of fewer than 31 texels. -/
def astcPartition (seed n i : Nat) : Nat :=
  let r := (astcHash (BitVec.ofNat 32 (seed + (n - 1) * 1024))).toNat
  let (x, y) := (2 * (i % 4), 2 * (i / 4))
  let near := if seed / 2 % 2 = 1 then 4 else 5
  let far := if n = 3 then 6 else 5
  let (sh1, sh2) := if seed % 2 = 1 then (near, far) else (far, near)
  let s (lo sh : Nat) : Nat := bitsOf r lo 4 ^ 2 % 256 / 2 ^ sh
  let a := (s 0 sh1 * x + s 4 sh2 * y + r / 2 ^ 14) % 64
  let b := (s 8 sh1 * x + s 12 sh2 * y + r / 2 ^ 10) % 64
  let c := if n < 3 then 0 else (s 16 sh1 * x + s 20 sh2 * y + r / 2 ^ 6) % 64
  let d := if n < 4 then 0 else (s 24 sh1 * x + s 28 sh2 * y + r / 2 ^ 2) % 64
  if b ≤ a && c ≤ a && d ≤ a then 0 else if c ≤ b && d ≤ b then 1 else if d ≤ c then 2 else 3

/-! ### Colour endpoints -/

/-- The colour ranges, from the least precise. -/
def astcColourRanges : List AstcRange :=
  [⟨1, true, false⟩, ⟨3, false, false⟩, ⟨1, false, true⟩, ⟨2, true, false⟩, ⟨4, false, false⟩, ⟨2, false, true⟩, ⟨3, true, false⟩, ⟨5, false, false⟩,
   ⟨3, false, true⟩, ⟨4, true, false⟩, ⟨6, false, false⟩, ⟨4, false, true⟩, ⟨5, true, false⟩, ⟨7, false, false⟩, ⟨5, false, true⟩, ⟨6, true, false⟩, ⟨8, false, false⟩]

/-- The range of `n` colour values in a number of bits: the most precise that fits. -/
def astcColourRange (n bits : Nat) : Option AstcRange := (astcColourRanges.filter fun r => r.size n ≤ bits).getLast?

/-- A base and an offset as two values carry them: the offset is signed, and its old top bit becomes that of the base. -/
def astcOffset (base ofs : Nat) : Int × Int := (((base / 2 + ofs / 128 * 128 : Nat) : Int), signedOf 6 (ofs / 2))

/-- A component clamped to 0 to 255. -/
def clamp255 (x : Int) : Nat := (max 0 (min 255 x)).toNat

/-- Blue contraction of an endpoint. -/
def astcBlue (l : List Int) : List Int := match l with
  | [r, g, b, a] => [Int.fdiv (r + b) 2, Int.fdiv (g + b) 2, b, a]
  | l => l

/-- The two endpoints that a partition's values give in an LDR mode; none in an HDR mode. -/
def astcEnds (mode : Nat) (l : List Nat) : Option (List Nat × List Nat) :=
  let v (k : Nat) : Nat := l.getD k 0
  let i (k : Nat) : Int := (v k : Int)
  let done (a b : List Int) : Option (List Nat × List Nat) := some (a.map clamp255, b.map clamp255)
  let offsets (alpha : Bool) : Option (List Nat × List Nat) :=
    let (r, dr) := astcOffset (v 0) (v 1)
    let (g, dg) := astcOffset (v 2) (v 3)
    let (b, db) := astcOffset (v 4) (v 5)
    let (a, da) := if alpha then astcOffset (v 6) (v 7) else (255, 0)
    if 0 ≤ dr + dg + db then done [r, g, b, a] [r + dr, g + dg, b + db, a + da] else done (astcBlue [r + dr, g + dg, b + db, a + da]) (astcBlue [r, g, b, a])
  let direct (a b : Int) : Option (List Nat × List Nat) :=
    if i 0 + i 2 + i 4 ≤ i 1 + i 3 + i 5 then done [i 0, i 2, i 4, a] [i 1, i 3, i 5, b] else done (astcBlue [i 1, i 3, i 5, b]) (astcBlue [i 0, i 2, i 4, a])
  let scaled (a b : Nat) : Option (List Nat × List Nat) := some ([v 0 * v 3 / 256, v 1 * v 3 / 256, v 2 * v 3 / 256, a], [v 0, v 1, v 2, b])
  match mode with
  | 0 => some ([v 0, v 0, v 0, 255], [v 1, v 1, v 1, 255])
  | 1 =>
    let lo := v 0 / 4 + v 1 / 64 * 64
    let hi := min 255 (lo + v 1 % 64)
    some ([lo, lo, lo, 255], [hi, hi, hi, 255])
  | 4 => some ([v 0, v 0, v 0, v 2], [v 1, v 1, v 1, v 3])
  | 5 =>
    let (g, d) := astcOffset (v 0) (v 1)
    let (a, e) := astcOffset (v 2) (v 3)
    done [g, g, g, a] [g + d, g + d, g + d, a + e]
  | 6 => scaled 255 255
  | 8 => direct 255 255
  | 9 => offsets false
  | 10 => scaled (v 4) (v 5)
  | 12 => direct (i 6) (i 7)
  | 13 => offsets true
  | _ => none

/-! ### The block -/

/-- A texel of a block that is one colour; none where it is HDR or malformed. -/
def astcVoid (x : Nat) : Option Word :=
  let c (k : Nat) : Nat := bitsOf x (12 + 13 * k) 13
  let whole := (List.range 4).all fun k => c k = 2 ^ 13 - 1
  if bitsOf x 9 1 = 1 || bitsOf x 10 2 ≠ 3 || (!whole && (c 1 ≤ c 0 || c 3 ≤ c 2)) then none
  else some (texelOf (bitsOf x 72 8) (bitsOf x 88 8) (bitsOf x 104 8) (bitsOf x 120 8))

/-- The endpoint modes of the partitions, by the six bits of their field and those that stand below the weights. -/
def astcEndModes (n field extra : Nat) : List Nat :=
  let e := field + extra * 64
  if field % 4 = 0 then List.replicate n (field / 4)
  else (List.range n).map fun k => (bitsOf e (2 + k) 1 + field % 4 - 1) * 4 + bitsOf e (2 + n + 2 * k) 2

/-- A texel of a block; none for a block that is illegal, malformed or HDR. -/
def decodeAstc (x i : Nat) : Option Word :=
  if bitsOf x 0 9 = 0x1FC then astcVoid x
  else (astcMode x).bind fun m =>
    let n := bitsOf x 11 2 + 1
    let wbits := m.range.size m.count
    if 4 < m.width || 4 < m.height || 64 < m.count || wbits < 24 || 96 < wbits || (m.dual && n = 4) then none
    else
      let field := bitsOf x 23 6
      let extraBits := if n = 1 || field % 4 = 0 then 0 else 3 * n - 4
      let below := 128 - wbits - extraBits
      let modes := if n = 1 then [bitsOf x 13 4] else astcEndModes n field (bitsOf x below extraBits)
      let start := if n = 1 then 17 else 29
      let sizes := modes.map fun k => 2 * (k / 4 + 1)
      let values := sizes.foldl (· + ·) 0
      let room := below - (if m.dual then 2 else 0) - start
      let plane2 := if m.dual then bitsOf x (below - 2) 2 else 4
      (if 18 < values then none else astcColourRange values room).bind fun r =>
        let part := if n = 1 then 0 else astcPartition (bitsOf x 13 10) n i
        let first := (sizes.take part).foldl (· + ·) 0
        let data := x / 2 ^ start % 2 ^ r.size values
        let ends (p : Nat) : Option (List Nat × List Nat) :=
          astcEnds (modes.getD p 0) ((List.range (sizes.getD p 0)).map fun k => astcColour r (r.get data ((if p = part then first else 0) + k)))
        if (List.range n).any fun p => (ends p).isNone then none
        else (ends part).map fun e =>
          let rev := astcReversed x % 2 ^ wbits
          let value (c : Nat) : Nat :=
            let w := m.texelWeight rev (if c = plane2 then 1 else 0) i
            ((e.1.getD c 0 * 256 + 128) * (64 - w) + (e.2.getD c 0 * 256 + 128) * w + 32) / 64 / 256
          texelOf (value 0) (value 1) (value 2) (value 3)

end Sys2Proof.Machine
end

