-- ==== Sys2Proof/Config.lean ====
section
/-! DEFINITION. What the spec leaves open: free values, and functions whose definition lies outside the spec. None has a body, so no proof can rest on a value of one. -/

namespace Sys2Proof.Config

/-- A byte whose value the spec leaves unpredictable (R73, R359, R385). The argument is the count of free values used so far. -/
opaque freeByte : Nat → Byte

/-- A register value that the spec does not state, by the count of free values used so far. -/
opaque freeWord : Nat → Word

/-- A cell of a tile before the first mxop.zero (R363), by the count of free values used at its mxbeg and the cell index. -/
opaque freeCell : Nat → Nat → BitVec 24

/-- How many core cycles a step takes, by the count of free values used so far (R422). -/
opaque stepCycles : Nat → Nat

/-- What the firmware agent writes to PINSIZE in a step, if anything: the core and the value (R60, R418), by the count of free values used so far. -/
opaque agentPins : Nat → Option (Nat × Nat)

/-- What the host sets on its link in a step, if anything: the base of the HDM range, and whether IDE is enabled (R477), by the count of free values used so far. -/
opaque hostLink : Nat → Option (BitVec 64 × Bool)

/-- Whether the peers' waves arrive at a pod barrier in a step (R154), by the count of free values used so far. -/
opaque peersArrive : Nat → Bool

/-- What a table entry on a poisoned line reads as (R495), by the count of free values and its address. -/
opaque poisonedEntry : Nat → Nat → BitVec 64

/-- What the kiln finds in a firmware image (R490, R491): 0 for a good one, 2 for a malformed header, 3 for a digest mismatch, 4 for a bad signature. -/
opaque imageCause : List Byte → Nat
/-- The version that a firmware image carries (R490). -/
opaque imageVersion : List Byte → Nat
/-- The device identity key, which the kiln's ROM derives from the on-die physically unclonable function (R490). -/
opaque identityKey : List Byte
/-- The answer to an SPDM message (R492), given the key that signs it, the message, the two slots' images and versions, the configuration records (defects, mapping, repairs) and the rollback floor: what the measurements cover. -/
opaque spdmReply : List Byte → List Byte → (List Byte × Nat) → (List Byte × Nat) → (List Nat × List Nat × List (Nat × Nat)) → Nat → List Byte
/-- The package number that a port learns from its partner (R489). -/
opaque partner : Nat → Nat

/-- MBRES[k] after PROOFREAD (R481): the spec does not say how a core's proof set, for each slot its number, PC, TSTAT, counters and wake condition, is laid out there. -/
opaque proofWord : List (Nat × Quad × Quad × Quad × Quad) → Nat → Quad

/-- Whether a patrol visit finds a line uncorrectable (R495), by the count of free values used so far and the line. -/
opaque uncorrectable : Nat → Nat → Bool

/-- What the signed 8-bit K of a ray state holds where a sum leaves its range (R239, R241), by the sum. -/
opaque wideK : Int → BitVec 8

/-- A read of one more node that a query makes in a step, before it completes (R257): the query and its lane, by the count of free values used so far. -/
opaque nodeStep : Nat → Option (Nat × Nat)

/-- The version of Iluistino (R440). -/
opaque iluistino : BitVec 32

/-- How many entries of the code cache the kiln reserves room for (R441). -/
opaque codePlaces : Nat

/-- Whether a node-line or texel buffer still holds a line that it has held (R255, R398: replacement is not architected), by the count of free values used so far. -/
opaque keepsLine : Nat → Bool

end Sys2Proof.Config
end

