-- ==== Sys2Proof/Syntax.lean ====
section
/-! DEFINITION. The instructions: one constructor for every row of the opcode table. A word format is a structure of its fields (R262, R276); a row without an encoding is a step of an engine, the memory, the scheduler, the host or the kiln, and carries the data that names which one. -/

namespace Sys2Proof

/-- Format R (R262): guard, destination, sources a and b, and whether b is scalar. -/
structure FmtR where
  g : BitVec 3
  d : BitVec 7
  a : BitVec 7
  b : BitVec 7
  s : BitVec 1
deriving DecidableEq, Repr

/-- Format P (R262): as R, with a condition code and a destination predicate. -/
structure FmtP where
  g : BitVec 3
  c : BitVec 4
  p : BitVec 3
  a : BitVec 7
  b : BitVec 7
  s : BitVec 1
deriving DecidableEq, Repr

/-- sel (R260, R293): format R with the selector predicate in the place of the guard. -/
structure FmtSel where
  q : BitVec 3
  d : BitVec 7
  a : BitVec 7
  b : BitVec 7
  s : BitVec 1
deriving DecidableEq, Repr

/-- Shift by an immediate (R276, majors 0x19 and 0x1A). -/
structure FmtSh where
  g : BitVec 3
  d : BitVec 7
  a : BitVec 7
  n : BitVec 5
deriving DecidableEq, Repr

/-- Shift by an immediate (R276, majors 0x19 and 0x1A). -/
structure FmtSh64 where
  g : BitVec 3
  d : BitVec 7
  a : BitVec 7
  n : BitVec 6
deriving DecidableEq, Repr

/-- Format I (R262): an 8-bit immediate. -/
structure FmtI where
  g : BitVec 3
  d : BitVec 7
  a : BitVec 7
  i : BitVec 8
deriving DecidableEq, Repr

/-- movi (R276): format I with a zero. -/
structure FmtMovi where
  g : BitVec 3
  d : BitVec 7
  i : BitVec 8
deriving DecidableEq, Repr

/-- Format R with one source, b (R276). -/
structure FmtU where
  g : BitVec 3
  d : BitVec 7
  b : BitVec 7
  s : BitVec 1
deriving DecidableEq, Repr

/-- cvt (R276): target type, source type and the source b. -/
structure FmtCvt where
  g : BitVec 3
  d : BitVec 7
  t : BitVec 4
  u : BitVec 3
  b : BitVec 7
  s : BitVec 1
deriving DecidableEq, Repr

/-- cvt (R276): target type, source type and the source b. -/
structure FmtCvtF where
  g : BitVec 3
  d : BitVec 7
  t : BitVec 4
  u : BitVec 2
  b : BitVec 7
  s : BitVec 1
deriving DecidableEq, Repr

/-- unpk (R276): the mode in the field a. -/
structure FmtUnpk where
  g : BitVec 3
  d : BitVec 7
  m : BitVec 7
  b : BitVec 7
  s : BitVec 1
deriving DecidableEq, Repr

/-- vote (R276): scalar destination, mode and source predicate. -/
structure FmtVote where
  g : BitVec 3
  d : BitVec 7
  m : BitVec 3
  q : BitVec 3
deriving DecidableEq, Repr

/-- redux and scan (R276): the operation code in b, with S zero. -/
structure FmtRdx where
  g : BitVec 3
  d : BitVec 7
  a : BitVec 7
  o : BitVec 7
deriving DecidableEq, Repr

/-- Format B (R262): a displacement in words. -/
structure FmtBra where
  g : BitVec 3
  d : BitVec 22
deriving DecidableEq, Repr

/-- A word with one source register, a. -/
structure FmtA1 where
  g : BitVec 3
  a : BitVec 7
deriving DecidableEq, Repr

/-- Format C (R262): a pair and a displacement in words. -/
structure FmtC where
  g : BitVec 3
  d : BitVec 7
  x : BitVec 15
deriving DecidableEq, Repr

/-- A word with a register d and a register a. -/
structure FmtDA where
  g : BitVec 3
  d : BitVec 7
  a : BitVec 7
deriving DecidableEq, Repr

/-- A word with a guard alone. -/
structure FmtG0 where
  g : BitVec 3
deriving DecidableEq, Repr

/-- bar (R276): the barrier index. -/
structure FmtBar where
  g : BitVec 3
  x : BitVec 4
deriving DecidableEq, Repr

/-- barnet (R276): the scope. -/
structure FmtNet where
  g : BitVec 3
  s : BitVec 3
deriving DecidableEq, Repr

/-- Format M (R262): data, address, offset in units of the access size, order. -/
structure FmtM where
  g : BitVec 3
  d : BitVec 7
  a : BitVec 7
  k : BitVec 6
  o : BitVec 2
deriving DecidableEq, Repr

/-- Format L (R262): ldlod. -/
structure FmtL where
  g : BitVec 3
  d : BitVec 7
  z : BitVec 3
  r : BitVec 5
  l : BitVec 4
  p : BitVec 3
deriving DecidableEq, Repr

/-- Format A (R262): destination, address pair v(2k), operand b, operation and order. -/
structure FmtA where
  g : BitVec 3
  d : BitVec 6
  k : BitVec 5
  b : BitVec 5
  p : BitVec 4
  o : BitVec 2
deriving DecidableEq, Repr

/-- acas (R276): format A with the width in the operation field. -/
structure FmtAcas where
  g : BitVec 3
  d : BitVec 6
  k : BitVec 5
  b : BitVec 5
  w : BitVec 4
  o : BitVec 2
deriving DecidableEq, Repr

/-- red (R276): format A with the width in bit 16. -/
structure FmtRed where
  g : BitVec 3
  w : BitVec 1
  k : BitVec 5
  b : BitVec 5
  p : BitVec 4
  o : BitVec 2
deriving DecidableEq, Repr

/-- mcst (R276): data, destination list, width and order. -/
structure FmtMcst where
  g : BitVec 3
  d : BitVec 7
  l : BitVec 7
  w : BitVec 1
  o : BitVec 2
deriving DecidableEq, Repr

/-- rdst (R276): as mcst, with an operation. -/
structure FmtRdst where
  g : BitVec 3
  d : BitVec 7
  l : BitVec 7
  p : BitVec 4
  w : BitVec 1
  o : BitVec 2
deriving DecidableEq, Repr

/-- txc (R276): the destination predicate. -/
structure FmtTxc where
  g : BitVec 3
  p : BitVec 3
deriving DecidableEq, Repr

/-- fence (R276): scope and order. -/
structure FmtFence where
  g : BitVec 3
  s : BitVec 3
  o : BitVec 2
deriving DecidableEq, Repr

/-- wait (R274): the four counter fields. -/
structure FmtWait where
  g : BitVec 3
  l : BitVec 4
  s : BitVec 4
  c : BitVec 4
  t : BitVec 4
deriving DecidableEq, Repr

/-- Format X (R262): slots, layout bases and the N register. -/
structure FmtX where
  a : BitVec 3
  b : BitVec 3
  x : BitVec 5
  y : BitVec 5
  n : BitVec 5
deriving DecidableEq, Repr

/-- mxbeg (R276): slots, the layout-A base and the N register. -/
structure FmtBeg where
  a : BitVec 3
  b : BitVec 3
  d : BitVec 5
  n : BitVec 5
deriving DecidableEq, Repr

/-- Format K (R262): cpy. -/
structure FmtK where
  g : BitVec 3
  d : BitVec 5
  s : BitVec 5
  c : BitVec 5
  p : BitVec 3
  r : BitVec 1
  q : BitVec 2
deriving DecidableEq, Repr

/-- cpyf (R276, R391): queue mask, scope and rel. -/
structure FmtKf where
  g : BitVec 3
  m : BitVec 4
  s : BitVec 3
  r : BitVec 1
deriving DecidableEq, Repr

/-- Format G (R262): register, registers from a, resource register. -/
structure FmtG where
  g : BitVec 3
  d : BitVec 7
  a : BitVec 7
  s : BitVec 5
deriving DecidableEq, Repr

/-- geosync (R407): the resource register. -/
structure FmtGs where
  g : BitVec 3
  s : BitVec 5
deriving DecidableEq, Repr

/-- Format Y (R262): register and control and status register number. -/
structure FmtY where
  g : BitVec 3
  r : BitVec 7
  c : BitVec 12
deriving DecidableEq, Repr

/-- trapret (R420): the replay bit x. -/
structure FmtTret where
  g : BitVec 3
  x : BitVec 1
deriving DecidableEq, Repr

/-- smask (R421): the mask bit m. -/
structure FmtSmask where
  g : BitVec 3
  m : BitVec 1
deriving DecidableEq, Repr

/-- clock (R422): a destination register. -/
structure FmtD where
  g : BitVec 3
  d : BitVec 7
deriving DecidableEq, Repr

/-- rng (R423). -/
structure FmtRng where
  g : BitVec 3
  d : BitVec 7
  c : BitVec 7
  f : BitVec 1
deriving DecidableEq, Repr

/-- Every row of the opcode table. The rule in a docstring is the row's own. -/
inductive Instr where
  /-- iadd.i32 (R288). -/
  | iadd (f : FmtR)
  /-- isub.i32 (R288). -/
  | isub (f : FmtR)
  /-- imul.i32 (R288). -/
  | imul (f : FmtR)
  /-- imulh.i32 (R288). -/
  | imulhI (f : FmtR)
  /-- imulh.z32 (R288). -/
  | imulhZ (f : FmtR)
  /-- imad.i32 (R288). -/
  | imad (f : FmtR)
  /-- and (R288). -/
  | and (f : FmtR)
  /-- or (R288). -/
  | or (f : FmtR)
  /-- xor (R288). -/
  | xor (f : FmtR)
  /-- shl.i32 (R290). -/
  | shl (f : FmtR)
  /-- shr.z32 (R290). -/
  | shr (f : FmtR)
  /-- sar.i32 (R290). -/
  | sar (f : FmtR)
  /-- rol.i32 (R290). -/
  | rol (f : FmtR)
  /-- bfe (R291). -/
  | bfe (f : FmtR)
  /-- bfi (R291). -/
  | bfi (f : FmtR)
  /-- imin.i32 (R288). -/
  | iminI (f : FmtR)
  /-- imin.z32 (R288). -/
  | iminZ (f : FmtR)
  /-- imax.i32 (R288). -/
  | imaxI (f : FmtR)
  /-- imax.z32 (R288). -/
  | imaxZ (f : FmtR)
  /-- icmp (R292). -/
  | icmp (f : FmtP)
  /-- sel (R293). -/
  | sel (f : FmtSel)
  /-- ladd (R296). -/
  | ladd (f : FmtR)
  /-- iadd.i64 (R288). -/
  | iadd64 (f : FmtR)
  /-- isub.i64 (R288). -/
  | isub64 (f : FmtR)
  /-- icmp.64 (R292). -/
  | icmp64 (f : FmtP)
  /-- shl.i32 (R290). -/
  | shlImm (f : FmtSh)
  /-- shr.z32 (R290). -/
  | shrImm (f : FmtSh)
  /-- sar.i32 (R290). -/
  | sarImm (f : FmtSh)
  /-- rol.i32 (R290). -/
  | rolImm (f : FmtSh)
  /-- shl.i64 (R290). -/
  | shlImm64 (f : FmtSh64)
  /-- shr.z64 (R290). -/
  | shrImm64 (f : FmtSh64)
  /-- sar.i64 (R290). -/
  | sarImm64 (f : FmtSh64)
  /-- rol.i64 (R290). -/
  | rolImm64 (f : FmtSh64)
  /-- iadd.i32 (R294). -/
  | iaddImm (f : FmtI)
  /-- and (R294). -/
  | andImm (f : FmtI)
  /-- movi (R294). -/
  | movi (f : FmtMovi)
  /-- mov (R295). -/
  | mov (f : FmtU)
  /-- mov.64 (R295). -/
  | mov64 (f : FmtU)
  /-- popc (R295). -/
  | popc (f : FmtU)
  /-- popc.64 (R295). -/
  | popc64 (f : FmtU)
  /-- clz (R295). -/
  | clz (f : FmtU)
  /-- clz.64 (R295). -/
  | clz64 (f : FmtU)
  /-- imul.i64 (R288). -/
  | imul64 (f : FmtR)
  /-- fadd (R297). -/
  | fadd (f : FmtR)
  /-- fsub (R297). -/
  | fsub (f : FmtR)
  /-- fmul (R297). -/
  | fmul (f : FmtR)
  /-- ffma (R297). -/
  | ffma (f : FmtR)
  /-- fmin (R297). -/
  | fmin (f : FmtR)
  /-- fmax (R297). -/
  | fmax (f : FmtR)
  /-- fcmp (R299). -/
  | fcmp (f : FmtP)
  /-- fdiv (R297). -/
  | fdiv (f : FmtR)
  /-- frcp (R297). -/
  | frcp (f : FmtU)
  /-- frsq (R297). -/
  | frsq (f : FmtU)
  /-- fsqrt (R297). -/
  | fsqrt (f : FmtU)
  /-- fex2 (R297). -/
  | fex2 (f : FmtU)
  /-- flg2 (R297). -/
  | flg2 (f : FmtU)
  /-- fsin (R297). -/
  | fsin (f : FmtU)
  /-- fcos (R297). -/
  | fcos (f : FmtU)
  /-- frnd (R297). -/
  | frnd (f : FmtU)
  /-- dadd (R300). -/
  | dadd (f : FmtR)
  /-- dsub (R300). -/
  | dsub (f : FmtR)
  /-- dmul (R300). -/
  | dmul (f : FmtR)
  /-- dffma (R300). -/
  | dffma (f : FmtR)
  /-- dmin (R300). -/
  | dmin (f : FmtR)
  /-- dmax (R300). -/
  | dmax (f : FmtR)
  /-- dcmp (R299). -/
  | dcmp (f : FmtP)
  /-- ddiv (R300). -/
  | ddiv (f : FmtR)
  /-- dsqrt (R300). -/
  | dsqrt (f : FmtU)
  /-- drnd (R300). -/
  | drnd (f : FmtU)
  /-- hadd2 (R301). -/
  | hadd2 (f : FmtR)
  /-- hfma2 (R301). -/
  | hfma2 (f : FmtR)
  /-- bfma2 (R301). -/
  | bfma2 (f : FmtR)
  /-- cvt (R303). -/
  | cvtFromInteger (f : FmtCvt)
  /-- cvt (R303). -/
  | cvtFromFloat (f : FmtCvtF)
  /-- pack (R304). -/
  | pack (f : FmtR)
  /-- unpk (R305). -/
  | unpk (f : FmtUnpk)
  /-- shfl.idx (R307). -/
  | shflIdx (f : FmtR)
  /-- shfl.xor (R307). -/
  | shflXor (f : FmtR)
  /-- shfl.up (R307). -/
  | shflUp (f : FmtR)
  /-- shfl.down (R307). -/
  | shflDown (f : FmtR)
  /-- vote (R308). -/
  | vote (f : FmtVote)
  /-- bcast (R309). -/
  | bcast (f : FmtR)
  /-- redux (R310). -/
  | redux (f : FmtRdx)
  /-- scan (R310). -/
  | scan (f : FmtRdx)
  /-- bra (R312). -/
  | bra (f : FmtBra)
  /-- brx (R313). -/
  | brx (f : FmtA1)
  /-- call (R314). -/
  | call (f : FmtC)
  /-- calli (R315). -/
  | calli (f : FmtR)
  /-- ret (R313). -/
  | ret (f : FmtA1)
  /-- meet (R316). -/
  | meetLabel (f : FmtC)
  /-- meet (R316). -/
  | meetRegister (f : FmtDA)
  /-- exit (R317). -/
  | exit (f : FmtG0)
  /-- yield (R319). -/
  | yield (f : FmtG0)
  /-- bar (R320). -/
  | bar (f : FmtBar)
  /-- barnet (R321). -/
  | barnet (f : FmtNet)
  /-- nop (R322). -/
  | nop (f : FmtG0)
  /-- bar.init (R353). -/
  | barInit (f : FmtDA)
  /-- bar.arrive (R353). -/
  | barArrive (f : FmtA1)
  /-- bar.wait (R353). -/
  | barWait (f : FmtDA)
  /-- bar.sync (R353). -/
  | barSync (f : FmtA1)
  /-- ld.z8 (R326). -/
  | ldZ8 (f : FmtM)
  /-- ld.i8 (R326). -/
  | ldI8 (f : FmtM)
  /-- ld.z16 (R326). -/
  | ldZ16 (f : FmtM)
  /-- ld.i16 (R326). -/
  | ldI16 (f : FmtM)
  /-- ld.i32 (R326). -/
  | ld32 (f : FmtM)
  /-- ld.i64 (R326). -/
  | ld64 (f : FmtM)
  /-- st.i8 (R326). -/
  | st8 (f : FmtM)
  /-- st.i16 (R326). -/
  | st16 (f : FmtM)
  /-- st.i32 (R326). -/
  | st32 (f : FmtM)
  /-- st.i64 (R326). -/
  | st64 (f : FmtM)
  /-- lds.i32 (R328). -/
  | lds32 (f : FmtM)
  /-- lds.i64 (R328). -/
  | lds64 (f : FmtM)
  /-- sts.i32 (R329). -/
  | sts32 (f : FmtM)
  /-- sts.i64 (R329). -/
  | sts64 (f : FmtM)
  /-- ldlod (R332). -/
  | ldlod (f : FmtL)
  /-- lck (R334). -/
  | lck (f : FmtDA)
  /-- ulk (R334). -/
  | ulk (f : FmtDA)
  /-- pref (R335). -/
  | pref (f : FmtA1)
  /-- cinv.line (R336). -/
  | cinvLine (f : FmtA1)
  /-- cinv.unl (R336). -/
  | cinvUnl (f : FmtA1)
  /-- cinv.all (R336). -/
  | cinvAll (f : FmtG0)
  /-- cinv.iline (R336). -/
  | cinvIline (f : FmtA1)
  /-- cinv.iall (R336). -/
  | cinvIall (f : FmtG0)
  /-- atom (R337). -/
  | atom32 (f : FmtA)
  /-- atom.i64 (R337). -/
  | atom64 (f : FmtA)
  /-- acas (R338). -/
  | acas (f : FmtAcas)
  /-- red (R339). -/
  | red (f : FmtRed)
  /-- mcst (R342). -/
  | mcst (f : FmtMcst)
  /-- rdst (R342). -/
  | rdst (f : FmtRdst)
  /-- txb (R345). -/
  | txb (f : FmtG0)
  /-- txld.i64 (R346). -/
  | txld (f : FmtDA)
  /-- txst.i64 (R346). -/
  | txst (f : FmtDA)
  /-- txc (R347). -/
  | txc (f : FmtTxc)
  /-- txa (R345). -/
  | txa (f : FmtG0)
  /-- fence (R349). -/
  | fence (f : FmtFence)
  /-- wait (R274). -/
  | wait (f : FmtWait)
  /-- mxop (R365). -/
  | mxop (f : FmtX)
  /-- mxop.zero (R365). -/
  | mxopZero (f : FmtX)
  /-- mxdrn.i32 (R377). -/
  | mxdrnI32 (d : BitVec 5) (n : BitVec 5)
  /-- mxdrn.i64 (R377). -/
  | mxdrnI64 (d : BitVec 5) (n : BitVec 5)
  /-- mxdrn.f32 (R377). -/
  | mxdrnF32 (d : BitVec 5) (n : BitVec 5)
  /-- team (R361). -/
  | team (n : BitVec 5)
  /-- mxbeg (R363). -/
  | mxbeg (f : FmtBeg)
  /-- mxend (R375). -/
  | mxend
  /-- mxfold (R373). -/
  | mxfold (d : BitVec 5)
  /-- mxres (R374). -/
  | mxres
  /-- cpy (R385). -/
  | cpy (f : FmtK)
  /-- cpyf (R391). -/
  | cpyf (f : FmtKf)
  /-- trav (R401). -/
  | trav (f : FmtG)
  /-- trnx (R405). -/
  | trnx (f : FmtG)
  /-- isect (R403). -/
  | isect (f : FmtG)
  /-- rast (R406). -/
  | rast (f : FmtG)
  /-- geosync (R407). -/
  | geosync (f : FmtGs)
  /-- tex (R412). -/
  | tex (f : FmtG)
  /-- texq (R415). -/
  | texq (f : FmtG)
  /-- csrr (R418). -/
  | csrr (f : FmtY)
  /-- csrw (R418). -/
  | csrw (f : FmtY)
  /-- trapret (R420). -/
  | trapret (f : FmtTret)
  /-- smask (R421). -/
  | smask (f : FmtSmask)
  /-- clock (R422). -/
  | clock (f : FmtD)
  /-- rng (R423). -/
  | rng (f : FmtRng)
  /-- hint (R268). -/
  | hintExt (e : BitVec 24)
  /-- hint (R269). -/
  | hintStall (n : BitVec 4)
  /-- hint (R269). -/
  | hintNeg
  /-- hint (R269). -/
  | hintRnd (m : BitVec 2)
  /-- hint (R269). -/
  | hintSat (s : BitVec 1)
  /-- hint (R269). -/
  | hintCache (y : BitVec 1) (x : BitVec 1)
  /-- hint (R269). -/
  | hintNb
  /-- hint (R269). -/
  | hintDtree
  /-- next (R429). -/
  | next (n : BitVec 22)
  /-- next (R429). -/
  | nextVa (a : BitVec 7)
  /-- SDPOST (R38). -/
  | sdpost (f : FmtY)
  /-- CLPOST (R67). -/
  | clpost (f : FmtY)
  /-- SWTRAP (R418). -/
  | swtrap (f : FmtY)
  /-- LEGACY_REGISTER_ACCESS (R219). -/
  | legacyRegisterAccess (write : Bool) (f : FmtY)
  /-- FPC_WRITE (R214). -/
  | fpcWrite (f : FmtY)
  /-- PROOF_PULL_WRITE (R206). -/
  | proofPullWrite (f : FmtY)
  /-- WALK_COMPLETE (R24). -/
  | walkComplete (id : Nat) (lanes : Lanes) (how : Nat)
  /-- LOAD_RETURN (R47). -/
  | loadReturn (id : Nat) (lanes : Lanes) (victim : Option Nat)
  /-- HOME_SLICE_WRITE (R107). -/
  | homeSliceWrite (id : Nat) (lanes : Lanes) (dest : Nat)
  /-- STORE_ACKNOWLEDGE (R272). -/
  | storeAcknowledge (id : Nat) (lanes : Lanes) (dest : Nat)
  /-- ATOMIC_PERFORM (R116). -/
  | atomicPerform (id lane dest : Nat)
  /-- TRANSACTION_COMMIT (R117). -/
  | transactionCommit (id lane : Nat)
  /-- SLICE_WRITEBACK (R64). -/
  | sliceWriteback (line : Nat)
  /-- TRAP_ENTRY (R191). -/
  | trapEntry (wave : Nat)
  /-- COPY_LINE_ARRIVAL (R59). -/
  | copyLineArrival (cmd k : Nat)
  /-- COPY_COMPLETE (R390). -/
  | copyComplete (cmd : Nat)
  /-- QUEUE_FENCE_COMPLETE (R119). -/
  | queueFenceComplete (cmd : Nat)
  /-- RESERVATION_POST (R182). -/
  | reservationPost (wave : Nat)
  /-- MXBEG_ADMISSION (R183). -/
  | mxbegAdmission (quad : Nat)
  /-- PASS_GRANT (R184). -/
  | passGrant (quad : Nat)
  /-- PASS_COMPLETE (R365). -/
  | passComplete (quad : Nat)
  /-- DRAIN_COMPLETE (R378). -/
  | drainComplete (quad : Nat)
  /-- PORT_WAKE (R267). -/
  | portWake (wave : Nat)
  /-- PARTIAL_BATCH_TIMEOUT (R158). -/
  | partialBatchTimeout (queue bin : Nat)
  /-- CONE_PUSH (R93). -/
  | conePush (id : Nat)
  /-- DROP_NOTICE (R92). -/
  | dropNotice (id : Nat)
  /-- TICKET_TURN (R165). -/
  | ticketTurn (wave : Nat)
  /-- QUERY_COMPLETE (R395). -/
  | queryComplete (id : Nat) (lanes : Lanes)
  /-- GEOSYNC_DONE (R407). -/
  | geosyncDone (id : Nat)
  /-- QUANTUM_EXPIRY (R161). -/
  | quantumExpiry (gang : Nat)
  /-- FORCED_SAVE (R161). -/
  | forcedSave (gang : Nat)
  /-- PREEMPT_HOLD_TIMEOUT (R204). -/
  | preemptHoldTimeout (gang : Nat)
  /-- GANG_EVICTION (R200). -/
  | gangEviction (gang : Nat)
  /-- GANG_RESTORE (R203). -/
  | gangRestore (gang : Nat)
  /-- COMMAND_CLAIM (R170). -/
  | commandClaim (queue : Nat)
  /-- LAUNCH (R169). -/
  | launch (id : Nat)
  /-- VXLAUNCH (R426). -/
  | vxlaunch (id : Nat)
  /-- SHOOTDOWN (R38). -/
  | shootdown (id : Nat)
  /-- CLEAN (R67). -/
  | clean (id : Nat)
  /-- CANCEL (R483). -/
  | cancel (id : Nat)
  /-- CKPT (R497). -/
  | ckpt (id : Nat)
  /-- RESTORE (R497). -/
  | restore (id : Nat)
  /-- UNLISTED_OP (R482). -/
  | unlistedOp (id : Nat)
  /-- SIGNAL_CHECK (R171). -/
  | signalCheck (id : Nat)
  /-- LAUNCH_COMPLETE (R172). -/
  | launchComplete (grid : Nat)
  /-- HELD_COMPLETION (R485). -/
  | heldCompletion (queue : Nat)
  /-- CQ_TIMER (R485). -/
  | cqTimer (queue : Nat)
  /-- SHOOTDOWN_COMPLETE (R39). -/
  | shootdownComplete (id : Nat)
  /-- CLEAN_COMPLETE (R68). -/
  | cleanComplete (id : Nat)
  /-- CHECKPOINT_COMPLETE (R497). -/
  | checkpointComplete (id : Nat)
  /-- REGROUP (R431). -/
  | regroup (gang wg : Nat)
  /-- SEGMENT_TRANSLATION (R441). -/
  | segmentTranslation (grid segment : Nat)
  /-- HOST_READ (R478). -/
  | hostRead (addr size : Nat)
  /-- HOST_WRITE (R478). -/
  | hostWrite (addr : Nat) (bytes : List Byte)
  /-- CTXCREATE (R481). -/
  | ctxcreate
  /-- CTXSET (R481). -/
  | ctxset
  /-- CTXRESET (R488). -/
  | ctxreset
  /-- CTXDESTROY (R481). -/
  | ctxdestroy
  /-- SQCREATE (R486). -/
  | sqcreate
  /-- CQCREATE (R486). -/
  | cqcreate
  /-- QDELETE (R486). -/
  | qdelete
  /-- QUANTUM (R481). -/
  | quantum
  /-- PIN (R481). -/
  | pin
  /-- UNPIN (R481). -/
  | unpin
  /-- PROOFREAD (R481). -/
  | proofread
  /-- PROOFPULL (R206). -/
  | proofpull
  /-- EVRING (R487). -/
  | evring
  /-- PEERNUM (R489). -/
  | peernum
  /-- FWSTAGE (R490). -/
  | fwstage
  /-- FWCOMMIT (R490). -/
  | fwcommit
  /-- MAILBOX_BADCMD (R481). -/
  | mailboxBadcmd
  /-- DOORBELL_WHILE_BUSY (R480). -/
  | doorbellWhileBusy
  /-- REGISTER_WRITE (R6). -/
  | registerWrite (addr : Nat) (value : BitVec 64)
  /-- HELD_EVENT_WRITE (R487). -/
  | heldEventWrite
  /-- GO_RUN (R494). -/
  | goRun (quad : Nat)
  /-- GO_CLOCK_GATED (R494). -/
  | goClockGated (quad : Nat)
  /-- GO_RETENTION (R494). -/
  | goRetention (quad : Nat)
  /-- QWAKE (R494). -/
  | qwake (quad : Nat)
  /-- QUAD_MOVE_DONE (R494). -/
  | quadMoveDone (quad : Nat)
  /-- RESET_BOOT (R490). -/
  | resetBoot
  /-- RECOVERY_COMMAND (R491). -/
  | recoveryCommand
  /-- SPDM_MESSAGE (R492). -/
  | spdmMessage (bytes : List Byte)
  /-- LANE_SPARING (R489). -/
  | laneSparing (port : Nat)
  /-- PEER_UNREACHABLE (R489). -/
  | peerUnreachable (id : Nat)
  /-- TAKEOVER (R496). -/
  | takeover (quad spare : Nat)
  /-- QUAD_FAILURE (R496). -/
  | quadFailure (quad : Nat)
  /-- SOFTERR (R495). -/
  | softerr (line : Nat)
  /-- PATROL_SCRUB (R495). -/
  | patrolScrub (line : Nat)
  /-- FIRMWARE_STAGING_WRITE (R490). -/
  | firmwareStagingWrite (offset : Nat) (bytes : List Byte)
deriving DecidableEq, Repr

end Sys2Proof
end

