-- ==== Sys2Proof/Decode.lean ====
section
/-! DEFINITION. Decoding a 32-bit instruction word (R260, R262, R275 to R277) and, after it, encoding. Decoding reads the major, the form field and the must-be-zero fields; a word that fits no row is refused by name. Operand codes and register numbers are read as they stand: whether they are legal is `Instr.legal` (R263 to R266, R278). -/

namespace Sys2Proof

/-- Why a word is no instruction of the table (R275 to R277, R279). -/
inductive DecodeError where
  /-- The opcode map shows ILLOP for the major (R275). -/
  | illegalMajor (major : Nat)
  /-- A form field, a must-be-zero field or a hint payload of this major has a value its rows do not give (R269, R276, R277). -/
  | illegalForm (major : Nat)
deriving DecidableEq, Repr

/-- The field of `w` that begins at bit `lo` and is `len` bits wide. -/
def fieldAt (w : Word) (lo len : Nat) : BitVec len := BitVec.ofNat len (w.toNat / 2 ^ lo)

/-- As a number. -/
def fieldNat (w : Word) (lo len : Nat) : Nat := w.toNat / 2 ^ lo % 2 ^ len

/-- The fields of `FmtR` in the word `w`. -/
def FmtR.ofWord (w : Word) : FmtR :=
  ⟨fieldAt w 22 3, fieldAt w 15 7, fieldAt w 8 7, fieldAt w 1 7, fieldAt w 0 1⟩

/-- The number those fields make in their places. -/
def FmtR.place (f : FmtR) : Nat :=
  f.g.toNat * 2 ^ 22 + f.d.toNat * 2 ^ 15 + f.a.toNat * 2 ^ 8 + f.b.toNat * 2 ^ 1 + f.s.toNat * 2 ^ 0

/-- The fields of `FmtP` in the word `w`. -/
def FmtP.ofWord (w : Word) : FmtP :=
  ⟨fieldAt w 22 3, fieldAt w 18 4, fieldAt w 15 3, fieldAt w 8 7, fieldAt w 1 7, fieldAt w 0 1⟩

/-- The number those fields make in their places. -/
def FmtP.place (f : FmtP) : Nat :=
  f.g.toNat * 2 ^ 22 + f.c.toNat * 2 ^ 18 + f.p.toNat * 2 ^ 15 + f.a.toNat * 2 ^ 8 + f.b.toNat * 2 ^ 1 + f.s.toNat * 2 ^ 0

/-- The fields of `FmtSel` in the word `w`. -/
def FmtSel.ofWord (w : Word) : FmtSel :=
  ⟨fieldAt w 22 3, fieldAt w 15 7, fieldAt w 8 7, fieldAt w 1 7, fieldAt w 0 1⟩

/-- The number those fields make in their places. -/
def FmtSel.place (f : FmtSel) : Nat :=
  f.q.toNat * 2 ^ 22 + f.d.toNat * 2 ^ 15 + f.a.toNat * 2 ^ 8 + f.b.toNat * 2 ^ 1 + f.s.toNat * 2 ^ 0

/-- The fields of `FmtSh` in the word `w`. -/
def FmtSh.ofWord (w : Word) : FmtSh :=
  ⟨fieldAt w 22 3, fieldAt w 15 7, fieldAt w 8 7, fieldAt w 0 5⟩

/-- The number those fields make in their places. -/
def FmtSh.place (f : FmtSh) : Nat :=
  f.g.toNat * 2 ^ 22 + f.d.toNat * 2 ^ 15 + f.a.toNat * 2 ^ 8 + f.n.toNat * 2 ^ 0

/-- The fields of `FmtSh64` in the word `w`. -/
def FmtSh64.ofWord (w : Word) : FmtSh64 :=
  ⟨fieldAt w 22 3, fieldAt w 15 7, fieldAt w 8 7, fieldAt w 0 6⟩

/-- The number those fields make in their places. -/
def FmtSh64.place (f : FmtSh64) : Nat :=
  f.g.toNat * 2 ^ 22 + f.d.toNat * 2 ^ 15 + f.a.toNat * 2 ^ 8 + f.n.toNat * 2 ^ 0

/-- The fields of `FmtI` in the word `w`. -/
def FmtI.ofWord (w : Word) : FmtI :=
  ⟨fieldAt w 22 3, fieldAt w 15 7, fieldAt w 8 7, fieldAt w 0 8⟩

/-- The number those fields make in their places. -/
def FmtI.place (f : FmtI) : Nat :=
  f.g.toNat * 2 ^ 22 + f.d.toNat * 2 ^ 15 + f.a.toNat * 2 ^ 8 + f.i.toNat * 2 ^ 0

/-- The fields of `FmtMovi` in the word `w`. -/
def FmtMovi.ofWord (w : Word) : FmtMovi :=
  ⟨fieldAt w 22 3, fieldAt w 15 7, fieldAt w 0 8⟩

/-- The number those fields make in their places. -/
def FmtMovi.place (f : FmtMovi) : Nat :=
  f.g.toNat * 2 ^ 22 + f.d.toNat * 2 ^ 15 + f.i.toNat * 2 ^ 0

/-- The fields of `FmtU` in the word `w`. -/
def FmtU.ofWord (w : Word) : FmtU :=
  ⟨fieldAt w 22 3, fieldAt w 15 7, fieldAt w 1 7, fieldAt w 0 1⟩

/-- The number those fields make in their places. -/
def FmtU.place (f : FmtU) : Nat :=
  f.g.toNat * 2 ^ 22 + f.d.toNat * 2 ^ 15 + f.b.toNat * 2 ^ 1 + f.s.toNat * 2 ^ 0

/-- The fields of `FmtCvt` in the word `w`. -/
def FmtCvt.ofWord (w : Word) : FmtCvt :=
  ⟨fieldAt w 22 3, fieldAt w 15 7, fieldAt w 11 4, fieldAt w 8 3, fieldAt w 1 7, fieldAt w 0 1⟩

/-- The number those fields make in their places. -/
def FmtCvt.place (f : FmtCvt) : Nat :=
  f.g.toNat * 2 ^ 22 + f.d.toNat * 2 ^ 15 + f.t.toNat * 2 ^ 11 + f.u.toNat * 2 ^ 8 + f.b.toNat * 2 ^ 1 + f.s.toNat * 2 ^ 0

/-- The fields of `FmtCvtF` in the word `w`. -/
def FmtCvtF.ofWord (w : Word) : FmtCvtF :=
  ⟨fieldAt w 22 3, fieldAt w 15 7, fieldAt w 11 4, fieldAt w 9 2, fieldAt w 1 7, fieldAt w 0 1⟩

/-- The number those fields make in their places. -/
def FmtCvtF.place (f : FmtCvtF) : Nat :=
  f.g.toNat * 2 ^ 22 + f.d.toNat * 2 ^ 15 + f.t.toNat * 2 ^ 11 + f.u.toNat * 2 ^ 9 + f.b.toNat * 2 ^ 1 + f.s.toNat * 2 ^ 0

/-- The fields of `FmtUnpk` in the word `w`. -/
def FmtUnpk.ofWord (w : Word) : FmtUnpk :=
  ⟨fieldAt w 22 3, fieldAt w 15 7, fieldAt w 8 7, fieldAt w 1 7, fieldAt w 0 1⟩

/-- The number those fields make in their places. -/
def FmtUnpk.place (f : FmtUnpk) : Nat :=
  f.g.toNat * 2 ^ 22 + f.d.toNat * 2 ^ 15 + f.m.toNat * 2 ^ 8 + f.b.toNat * 2 ^ 1 + f.s.toNat * 2 ^ 0

/-- The fields of `FmtVote` in the word `w`. -/
def FmtVote.ofWord (w : Word) : FmtVote :=
  ⟨fieldAt w 22 3, fieldAt w 15 7, fieldAt w 12 3, fieldAt w 8 3⟩

/-- The number those fields make in their places. -/
def FmtVote.place (f : FmtVote) : Nat :=
  f.g.toNat * 2 ^ 22 + f.d.toNat * 2 ^ 15 + f.m.toNat * 2 ^ 12 + f.q.toNat * 2 ^ 8

/-- The fields of `FmtRdx` in the word `w`. -/
def FmtRdx.ofWord (w : Word) : FmtRdx :=
  ⟨fieldAt w 22 3, fieldAt w 15 7, fieldAt w 8 7, fieldAt w 1 7⟩

/-- The number those fields make in their places. -/
def FmtRdx.place (f : FmtRdx) : Nat :=
  f.g.toNat * 2 ^ 22 + f.d.toNat * 2 ^ 15 + f.a.toNat * 2 ^ 8 + f.o.toNat * 2 ^ 1

/-- The fields of `FmtBra` in the word `w`. -/
def FmtBra.ofWord (w : Word) : FmtBra :=
  ⟨fieldAt w 22 3, fieldAt w 0 22⟩

/-- The number those fields make in their places. -/
def FmtBra.place (f : FmtBra) : Nat :=
  f.g.toNat * 2 ^ 22 + f.d.toNat * 2 ^ 0

/-- The fields of `FmtA1` in the word `w`. -/
def FmtA1.ofWord (w : Word) : FmtA1 :=
  ⟨fieldAt w 22 3, fieldAt w 8 7⟩

/-- The number those fields make in their places. -/
def FmtA1.place (f : FmtA1) : Nat :=
  f.g.toNat * 2 ^ 22 + f.a.toNat * 2 ^ 8

/-- The fields of `FmtC` in the word `w`. -/
def FmtC.ofWord (w : Word) : FmtC :=
  ⟨fieldAt w 22 3, fieldAt w 15 7, fieldAt w 0 15⟩

/-- The number those fields make in their places. -/
def FmtC.place (f : FmtC) : Nat :=
  f.g.toNat * 2 ^ 22 + f.d.toNat * 2 ^ 15 + f.x.toNat * 2 ^ 0

/-- The fields of `FmtDA` in the word `w`. -/
def FmtDA.ofWord (w : Word) : FmtDA :=
  ⟨fieldAt w 22 3, fieldAt w 15 7, fieldAt w 8 7⟩

/-- The number those fields make in their places. -/
def FmtDA.place (f : FmtDA) : Nat :=
  f.g.toNat * 2 ^ 22 + f.d.toNat * 2 ^ 15 + f.a.toNat * 2 ^ 8

/-- The fields of `FmtG0` in the word `w`. -/
def FmtG0.ofWord (w : Word) : FmtG0 :=
  ⟨fieldAt w 22 3⟩

/-- The number those fields make in their places. -/
def FmtG0.place (f : FmtG0) : Nat :=
  f.g.toNat * 2 ^ 22

/-- The fields of `FmtBar` in the word `w`. -/
def FmtBar.ofWord (w : Word) : FmtBar :=
  ⟨fieldAt w 22 3, fieldAt w 0 4⟩

/-- The number those fields make in their places. -/
def FmtBar.place (f : FmtBar) : Nat :=
  f.g.toNat * 2 ^ 22 + f.x.toNat * 2 ^ 0

/-- The fields of `FmtNet` in the word `w`. -/
def FmtNet.ofWord (w : Word) : FmtNet :=
  ⟨fieldAt w 22 3, fieldAt w 0 3⟩

/-- The number those fields make in their places. -/
def FmtNet.place (f : FmtNet) : Nat :=
  f.g.toNat * 2 ^ 22 + f.s.toNat * 2 ^ 0

/-- The fields of `FmtM` in the word `w`. -/
def FmtM.ofWord (w : Word) : FmtM :=
  ⟨fieldAt w 22 3, fieldAt w 15 7, fieldAt w 8 7, fieldAt w 2 6, fieldAt w 0 2⟩

/-- The number those fields make in their places. -/
def FmtM.place (f : FmtM) : Nat :=
  f.g.toNat * 2 ^ 22 + f.d.toNat * 2 ^ 15 + f.a.toNat * 2 ^ 8 + f.k.toNat * 2 ^ 2 + f.o.toNat * 2 ^ 0

/-- The fields of `FmtL` in the word `w`. -/
def FmtL.ofWord (w : Word) : FmtL :=
  ⟨fieldAt w 22 3, fieldAt w 15 7, fieldAt w 12 3, fieldAt w 7 5, fieldAt w 3 4, fieldAt w 0 3⟩

/-- The number those fields make in their places. -/
def FmtL.place (f : FmtL) : Nat :=
  f.g.toNat * 2 ^ 22 + f.d.toNat * 2 ^ 15 + f.z.toNat * 2 ^ 12 + f.r.toNat * 2 ^ 7 + f.l.toNat * 2 ^ 3 + f.p.toNat * 2 ^ 0

/-- The fields of `FmtA` in the word `w`. -/
def FmtA.ofWord (w : Word) : FmtA :=
  ⟨fieldAt w 22 3, fieldAt w 16 6, fieldAt w 11 5, fieldAt w 6 5, fieldAt w 2 4, fieldAt w 0 2⟩

/-- The number those fields make in their places. -/
def FmtA.place (f : FmtA) : Nat :=
  f.g.toNat * 2 ^ 22 + f.d.toNat * 2 ^ 16 + f.k.toNat * 2 ^ 11 + f.b.toNat * 2 ^ 6 + f.p.toNat * 2 ^ 2 + f.o.toNat * 2 ^ 0

/-- The fields of `FmtAcas` in the word `w`. -/
def FmtAcas.ofWord (w : Word) : FmtAcas :=
  ⟨fieldAt w 22 3, fieldAt w 16 6, fieldAt w 11 5, fieldAt w 6 5, fieldAt w 2 4, fieldAt w 0 2⟩

/-- The number those fields make in their places. -/
def FmtAcas.place (f : FmtAcas) : Nat :=
  f.g.toNat * 2 ^ 22 + f.d.toNat * 2 ^ 16 + f.k.toNat * 2 ^ 11 + f.b.toNat * 2 ^ 6 + f.w.toNat * 2 ^ 2 + f.o.toNat * 2 ^ 0

/-- The fields of `FmtRed` in the word `w`. -/
def FmtRed.ofWord (w : Word) : FmtRed :=
  ⟨fieldAt w 22 3, fieldAt w 16 1, fieldAt w 11 5, fieldAt w 6 5, fieldAt w 2 4, fieldAt w 0 2⟩

/-- The number those fields make in their places. -/
def FmtRed.place (f : FmtRed) : Nat :=
  f.g.toNat * 2 ^ 22 + f.w.toNat * 2 ^ 16 + f.k.toNat * 2 ^ 11 + f.b.toNat * 2 ^ 6 + f.p.toNat * 2 ^ 2 + f.o.toNat * 2 ^ 0

/-- The fields of `FmtMcst` in the word `w`. -/
def FmtMcst.ofWord (w : Word) : FmtMcst :=
  ⟨fieldAt w 22 3, fieldAt w 15 7, fieldAt w 8 7, fieldAt w 3 1, fieldAt w 0 2⟩

/-- The number those fields make in their places. -/
def FmtMcst.place (f : FmtMcst) : Nat :=
  f.g.toNat * 2 ^ 22 + f.d.toNat * 2 ^ 15 + f.l.toNat * 2 ^ 8 + f.w.toNat * 2 ^ 3 + f.o.toNat * 2 ^ 0

/-- The fields of `FmtRdst` in the word `w`. -/
def FmtRdst.ofWord (w : Word) : FmtRdst :=
  ⟨fieldAt w 22 3, fieldAt w 15 7, fieldAt w 8 7, fieldAt w 4 4, fieldAt w 3 1, fieldAt w 0 2⟩

/-- The number those fields make in their places. -/
def FmtRdst.place (f : FmtRdst) : Nat :=
  f.g.toNat * 2 ^ 22 + f.d.toNat * 2 ^ 15 + f.l.toNat * 2 ^ 8 + f.p.toNat * 2 ^ 4 + f.w.toNat * 2 ^ 3 + f.o.toNat * 2 ^ 0

/-- The fields of `FmtTxc` in the word `w`. -/
def FmtTxc.ofWord (w : Word) : FmtTxc :=
  ⟨fieldAt w 22 3, fieldAt w 15 3⟩

/-- The number those fields make in their places. -/
def FmtTxc.place (f : FmtTxc) : Nat :=
  f.g.toNat * 2 ^ 22 + f.p.toNat * 2 ^ 15

/-- The fields of `FmtFence` in the word `w`. -/
def FmtFence.ofWord (w : Word) : FmtFence :=
  ⟨fieldAt w 22 3, fieldAt w 3 3, fieldAt w 0 2⟩

/-- The number those fields make in their places. -/
def FmtFence.place (f : FmtFence) : Nat :=
  f.g.toNat * 2 ^ 22 + f.s.toNat * 2 ^ 3 + f.o.toNat * 2 ^ 0

/-- The fields of `FmtWait` in the word `w`. -/
def FmtWait.ofWord (w : Word) : FmtWait :=
  ⟨fieldAt w 22 3, fieldAt w 12 4, fieldAt w 8 4, fieldAt w 4 4, fieldAt w 0 4⟩

/-- The number those fields make in their places. -/
def FmtWait.place (f : FmtWait) : Nat :=
  f.g.toNat * 2 ^ 22 + f.l.toNat * 2 ^ 12 + f.s.toNat * 2 ^ 8 + f.c.toNat * 2 ^ 4 + f.t.toNat * 2 ^ 0

/-- The fields of `FmtX` in the word `w`. -/
def FmtX.ofWord (w : Word) : FmtX :=
  ⟨fieldAt w 22 3, fieldAt w 19 3, fieldAt w 14 5, fieldAt w 9 5, fieldAt w 4 5⟩

/-- The number those fields make in their places. -/
def FmtX.place (f : FmtX) : Nat :=
  f.a.toNat * 2 ^ 22 + f.b.toNat * 2 ^ 19 + f.x.toNat * 2 ^ 14 + f.y.toNat * 2 ^ 9 + f.n.toNat * 2 ^ 4

/-- The fields of `FmtBeg` in the word `w`. -/
def FmtBeg.ofWord (w : Word) : FmtBeg :=
  ⟨fieldAt w 22 3, fieldAt w 19 3, fieldAt w 14 5, fieldAt w 4 5⟩

/-- The number those fields make in their places. -/
def FmtBeg.place (f : FmtBeg) : Nat :=
  f.a.toNat * 2 ^ 22 + f.b.toNat * 2 ^ 19 + f.d.toNat * 2 ^ 14 + f.n.toNat * 2 ^ 4

/-- The fields of `FmtK` in the word `w`. -/
def FmtK.ofWord (w : Word) : FmtK :=
  ⟨fieldAt w 22 3, fieldAt w 17 5, fieldAt w 12 5, fieldAt w 7 5, fieldAt w 4 3, fieldAt w 3 1, fieldAt w 1 2⟩

/-- The number those fields make in their places. -/
def FmtK.place (f : FmtK) : Nat :=
  f.g.toNat * 2 ^ 22 + f.d.toNat * 2 ^ 17 + f.s.toNat * 2 ^ 12 + f.c.toNat * 2 ^ 7 + f.p.toNat * 2 ^ 4 + f.r.toNat * 2 ^ 3 + f.q.toNat * 2 ^ 1

/-- The fields of `FmtKf` in the word `w`. -/
def FmtKf.ofWord (w : Word) : FmtKf :=
  ⟨fieldAt w 22 3, fieldAt w 17 4, fieldAt w 4 3, fieldAt w 3 1⟩

/-- The number those fields make in their places. -/
def FmtKf.place (f : FmtKf) : Nat :=
  f.g.toNat * 2 ^ 22 + f.m.toNat * 2 ^ 17 + f.s.toNat * 2 ^ 4 + f.r.toNat * 2 ^ 3

/-- The fields of `FmtG` in the word `w`. -/
def FmtG.ofWord (w : Word) : FmtG :=
  ⟨fieldAt w 22 3, fieldAt w 15 7, fieldAt w 8 7, fieldAt w 3 5⟩

/-- The number those fields make in their places. -/
def FmtG.place (f : FmtG) : Nat :=
  f.g.toNat * 2 ^ 22 + f.d.toNat * 2 ^ 15 + f.a.toNat * 2 ^ 8 + f.s.toNat * 2 ^ 3

/-- The fields of `FmtGs` in the word `w`. -/
def FmtGs.ofWord (w : Word) : FmtGs :=
  ⟨fieldAt w 22 3, fieldAt w 3 5⟩

/-- The number those fields make in their places. -/
def FmtGs.place (f : FmtGs) : Nat :=
  f.g.toNat * 2 ^ 22 + f.s.toNat * 2 ^ 3

/-- The fields of `FmtY` in the word `w`. -/
def FmtY.ofWord (w : Word) : FmtY :=
  ⟨fieldAt w 22 3, fieldAt w 15 7, fieldAt w 3 12⟩

/-- The number those fields make in their places. -/
def FmtY.place (f : FmtY) : Nat :=
  f.g.toNat * 2 ^ 22 + f.r.toNat * 2 ^ 15 + f.c.toNat * 2 ^ 3

/-- The fields of `FmtTret` in the word `w`. -/
def FmtTret.ofWord (w : Word) : FmtTret :=
  ⟨fieldAt w 22 3, fieldAt w 3 1⟩

/-- The number those fields make in their places. -/
def FmtTret.place (f : FmtTret) : Nat :=
  f.g.toNat * 2 ^ 22 + f.x.toNat * 2 ^ 3

/-- The fields of `FmtSmask` in the word `w`. -/
def FmtSmask.ofWord (w : Word) : FmtSmask :=
  ⟨fieldAt w 22 3, fieldAt w 3 1⟩

/-- The number those fields make in their places. -/
def FmtSmask.place (f : FmtSmask) : Nat :=
  f.g.toNat * 2 ^ 22 + f.m.toNat * 2 ^ 3

/-- The fields of `FmtD` in the word `w`. -/
def FmtD.ofWord (w : Word) : FmtD :=
  ⟨fieldAt w 22 3, fieldAt w 15 7⟩

/-- The number those fields make in their places. -/
def FmtD.place (f : FmtD) : Nat :=
  f.g.toNat * 2 ^ 22 + f.d.toNat * 2 ^ 15

/-- The fields of `FmtRng` in the word `w`. -/
def FmtRng.ofWord (w : Word) : FmtRng :=
  ⟨fieldAt w 22 3, fieldAt w 15 7, fieldAt w 8 7, fieldAt w 3 1⟩

/-- The number those fields make in their places. -/
def FmtRng.place (f : FmtRng) : Nat :=
  f.g.toNat * 2 ^ 22 + f.d.toNat * 2 ^ 15 + f.c.toNat * 2 ^ 8 + f.f.toNat * 2 ^ 3

/-- The instruction of major `m` in the word `w` (R275, R276). -/
def decodeMajor (m : Nat) (w : Word) : Except DecodeError Instr :=
  match m with
  | 0x00 => .ok (.iadd (.ofWord w))
  | 0x01 => .ok (.isub (.ofWord w))
  | 0x02 => .ok (.imul (.ofWord w))
  | 0x03 => .ok (.imulhI (.ofWord w))
  | 0x04 => .ok (.imulhZ (.ofWord w))
  | 0x05 => .ok (.imad (.ofWord w))
  | 0x06 => .ok (.and (.ofWord w))
  | 0x07 => .ok (.or (.ofWord w))
  | 0x08 => .ok (.xor (.ofWord w))
  | 0x09 => .ok (.shl (.ofWord w))
  | 0x0A => .ok (.shr (.ofWord w))
  | 0x0B => .ok (.sar (.ofWord w))
  | 0x0C => .ok (.rol (.ofWord w))
  | 0x0D => .ok (.bfe (.ofWord w))
  | 0x0E => .ok (.bfi (.ofWord w))
  | 0x0F => .ok (.iminI (.ofWord w))
  | 0x10 => .ok (.iminZ (.ofWord w))
  | 0x11 => .ok (.imaxI (.ofWord w))
  | 0x12 => .ok (.imaxZ (.ofWord w))
  | 0x13 => .ok (.icmp (.ofWord w))
  | 0x14 => .ok (.sel (.ofWord w))
  | 0x15 => .ok (.ladd (.ofWord w))
  | 0x16 => .ok (.iadd64 (.ofWord w))
  | 0x17 => .ok (.isub64 (.ofWord w))
  | 0x18 => .ok (.icmp64 (.ofWord w))
  | 0x19 =>
    if fieldNat w 5 3 = 0 then .ok (.shlImm (.ofWord w))
    else if fieldNat w 5 3 = 2 then .ok (.shrImm (.ofWord w))
    else if fieldNat w 5 3 = 4 then .ok (.sarImm (.ofWord w))
    else if fieldNat w 5 3 = 6 then .ok (.rolImm (.ofWord w))
    else .error (.illegalForm 0x19)
  | 0x1A =>
    if fieldNat w 6 2 = 0 then .ok (.shlImm64 (.ofWord w))
    else if fieldNat w 6 2 = 1 then .ok (.shrImm64 (.ofWord w))
    else if fieldNat w 6 2 = 2 then .ok (.sarImm64 (.ofWord w))
    else if fieldNat w 6 2 = 3 then .ok (.rolImm64 (.ofWord w))
    else .error (.illegalForm 0x1A)
  | 0x1B => .ok (.iaddImm (.ofWord w))
  | 0x1C => .ok (.andImm (.ofWord w))
  | 0x1D =>
    if fieldNat w 8 7 = 0 then .ok (.movi (.ofWord w))
    else .error (.illegalForm 0x1D)
  | 0x1E =>
    if fieldNat w 8 7 = 0 then .ok (.mov (.ofWord w))
    else if fieldNat w 8 7 = 1 then .ok (.mov64 (.ofWord w))
    else if fieldNat w 8 7 = 2 then .ok (.popc (.ofWord w))
    else if fieldNat w 8 7 = 3 then .ok (.popc64 (.ofWord w))
    else if fieldNat w 8 7 = 4 then .ok (.clz (.ofWord w))
    else if fieldNat w 8 7 = 5 then .ok (.clz64 (.ofWord w))
    else .error (.illegalForm 0x1E)
  | 0x1F => .ok (.imul64 (.ofWord w))
  | 0x20 => .ok (.fadd (.ofWord w))
  | 0x21 => .ok (.fsub (.ofWord w))
  | 0x22 => .ok (.fmul (.ofWord w))
  | 0x23 => .ok (.ffma (.ofWord w))
  | 0x24 => .ok (.fmin (.ofWord w))
  | 0x25 => .ok (.fmax (.ofWord w))
  | 0x26 => .ok (.fcmp (.ofWord w))
  | 0x27 => .ok (.fdiv (.ofWord w))
  | 0x28 =>
    if fieldNat w 8 7 = 0 then .ok (.frcp (.ofWord w))
    else .error (.illegalForm 0x28)
  | 0x29 =>
    if fieldNat w 8 7 = 0 then .ok (.frsq (.ofWord w))
    else .error (.illegalForm 0x29)
  | 0x2A =>
    if fieldNat w 8 7 = 0 then .ok (.fsqrt (.ofWord w))
    else .error (.illegalForm 0x2A)
  | 0x2B =>
    if fieldNat w 8 7 = 0 then .ok (.fex2 (.ofWord w))
    else .error (.illegalForm 0x2B)
  | 0x2C =>
    if fieldNat w 8 7 = 0 then .ok (.flg2 (.ofWord w))
    else .error (.illegalForm 0x2C)
  | 0x2D =>
    if fieldNat w 8 7 = 0 then .ok (.fsin (.ofWord w))
    else .error (.illegalForm 0x2D)
  | 0x2E =>
    if fieldNat w 8 7 = 0 then .ok (.fcos (.ofWord w))
    else .error (.illegalForm 0x2E)
  | 0x2F =>
    if fieldNat w 8 7 = 0 then .ok (.frnd (.ofWord w))
    else .error (.illegalForm 0x2F)
  | 0x30 => .ok (.dadd (.ofWord w))
  | 0x31 => .ok (.dsub (.ofWord w))
  | 0x32 => .ok (.dmul (.ofWord w))
  | 0x33 => .ok (.dffma (.ofWord w))
  | 0x34 => .ok (.dmin (.ofWord w))
  | 0x35 => .ok (.dmax (.ofWord w))
  | 0x36 => .ok (.dcmp (.ofWord w))
  | 0x37 => .ok (.ddiv (.ofWord w))
  | 0x38 =>
    if fieldNat w 8 7 = 0 then .ok (.dsqrt (.ofWord w))
    else .error (.illegalForm 0x38)
  | 0x39 =>
    if fieldNat w 8 7 = 0 then .ok (.drnd (.ofWord w))
    else .error (.illegalForm 0x39)
  | 0x3A => .ok (.hadd2 (.ofWord w))
  | 0x3B => .ok (.hfma2 (.ofWord w))
  | 0x3C => .ok (.bfma2 (.ofWord w))
  | 0x40 => .ok (.cvtFromInteger (.ofWord w))
  | 0x41 =>
    if fieldNat w 8 1 = 0 then .ok (.cvtFromFloat (.ofWord w))
    else .error (.illegalForm 0x41)
  | 0x42 => .ok (.pack (.ofWord w))
  | 0x43 => .ok (.unpk (.ofWord w))
  | 0x44 => .ok (.shflIdx (.ofWord w))
  | 0x45 => .ok (.shflXor (.ofWord w))
  | 0x46 => .ok (.shflUp (.ofWord w))
  | 0x47 => .ok (.shflDown (.ofWord w))
  | 0x48 =>
    if fieldNat w 11 1 = 0 ∧ fieldNat w 0 8 = 0 then .ok (.vote (.ofWord w))
    else .error (.illegalForm 0x48)
  | 0x49 => .ok (.bcast (.ofWord w))
  | 0x4A =>
    if fieldNat w 0 1 = 0 then .ok (.redux (.ofWord w))
    else .error (.illegalForm 0x4A)
  | 0x4B =>
    if fieldNat w 0 1 = 0 then .ok (.scan (.ofWord w))
    else .error (.illegalForm 0x4B)
  | 0x50 => .ok (.bra (.ofWord w))
  | 0x51 =>
    if fieldNat w 15 7 = 0 ∧ fieldNat w 0 8 = 0 then .ok (.brx (.ofWord w))
    else .error (.illegalForm 0x51)
  | 0x52 => .ok (.call (.ofWord w))
  | 0x53 => .ok (.calli (.ofWord w))
  | 0x54 =>
    if fieldNat w 15 7 = 0 ∧ fieldNat w 0 8 = 0 then .ok (.ret (.ofWord w))
    else .error (.illegalForm 0x54)
  | 0x55 => .ok (.meetLabel (.ofWord w))
  | 0x56 =>
    if fieldNat w 0 8 = 0 then .ok (.meetRegister (.ofWord w))
    else .error (.illegalForm 0x56)
  | 0x57 =>
    if fieldNat w 0 22 = 0 then .ok (.exit (.ofWord w))
    else .error (.illegalForm 0x57)
  | 0x58 =>
    if fieldNat w 0 22 = 0 then .ok (.yield (.ofWord w))
    else .error (.illegalForm 0x58)
  | 0x59 =>
    if fieldNat w 4 18 = 0 then .ok (.bar (.ofWord w))
    else .error (.illegalForm 0x59)
  | 0x5A =>
    if fieldNat w 3 19 = 0 then .ok (.barnet (.ofWord w))
    else .error (.illegalForm 0x5A)
  | 0x5B =>
    if fieldNat w 0 22 = 0 then .ok (.nop (.ofWord w))
    else .error (.illegalForm 0x5B)
  | 0x5C =>
    if fieldNat w 0 8 = 0 then .ok (.barInit (.ofWord w))
    else if fieldNat w 15 7 = 124 ∧ fieldNat w 0 8 = 1 then .ok (.barArrive (.ofWord w))
    else if fieldNat w 0 8 = 2 then .ok (.barWait (.ofWord w))
    else if fieldNat w 15 7 = 124 ∧ fieldNat w 0 8 = 3 then .ok (.barSync (.ofWord w))
    else .error (.illegalForm 0x5C)
  | 0x60 => .ok (.ldZ8 (.ofWord w))
  | 0x61 => .ok (.ldI8 (.ofWord w))
  | 0x62 => .ok (.ldZ16 (.ofWord w))
  | 0x63 => .ok (.ldI16 (.ofWord w))
  | 0x64 => .ok (.ld32 (.ofWord w))
  | 0x65 => .ok (.ld64 (.ofWord w))
  | 0x66 => .ok (.st8 (.ofWord w))
  | 0x67 => .ok (.st16 (.ofWord w))
  | 0x68 => .ok (.st32 (.ofWord w))
  | 0x69 => .ok (.st64 (.ofWord w))
  | 0x6A => .ok (.lds32 (.ofWord w))
  | 0x6B => .ok (.lds64 (.ofWord w))
  | 0x6C => .ok (.sts32 (.ofWord w))
  | 0x6D => .ok (.sts64 (.ofWord w))
  | 0x6E => .ok (.ldlod (.ofWord w))
  | 0x6F =>
    if fieldNat w 0 8 = 0 then .ok (.lck (.ofWord w))
    else if fieldNat w 0 8 = 4 then .ok (.ulk (.ofWord w))
    else if fieldNat w 15 7 = 0 ∧ fieldNat w 0 8 = 8 then .ok (.pref (.ofWord w))
    else if fieldNat w 15 7 = 0 ∧ fieldNat w 0 8 = 12 then .ok (.cinvLine (.ofWord w))
    else if fieldNat w 15 7 = 0 ∧ fieldNat w 0 8 = 16 then .ok (.cinvUnl (.ofWord w))
    else if fieldNat w 0 22 = 20 then .ok (.cinvAll (.ofWord w))
    else if fieldNat w 15 7 = 0 ∧ fieldNat w 0 8 = 24 then .ok (.cinvIline (.ofWord w))
    else if fieldNat w 0 22 = 28 then .ok (.cinvIall (.ofWord w))
    else .error (.illegalForm 0x6F)
  | 0x70 => .ok (.atom32 (.ofWord w))
  | 0x71 => .ok (.atom64 (.ofWord w))
  | 0x72 => .ok (.acas (.ofWord w))
  | 0x73 =>
    if fieldNat w 17 5 = 0 then .ok (.red (.ofWord w))
    else .error (.illegalForm 0x73)
  | 0x74 =>
    if fieldNat w 4 4 = 0 ∧ fieldNat w 2 1 = 0 then .ok (.mcst (.ofWord w))
    else if fieldNat w 2 1 = 1 then .ok (.rdst (.ofWord w))
    else .error (.illegalForm 0x74)
  | 0x75 =>
    if fieldNat w 0 22 = 0 then .ok (.txb (.ofWord w))
    else if fieldNat w 0 8 = 1 then .ok (.txld (.ofWord w))
    else if fieldNat w 0 8 = 2 then .ok (.txst (.ofWord w))
    else if fieldNat w 18 4 = 0 ∧ fieldNat w 0 15 = 3 then .ok (.txc (.ofWord w))
    else if fieldNat w 0 22 = 4 then .ok (.txa (.ofWord w))
    else .error (.illegalForm 0x75)
  | 0x76 =>
    if fieldNat w 6 16 = 0 ∧ fieldNat w 2 1 = 0 then .ok (.fence (.ofWord w))
    else .error (.illegalForm 0x76)
  | 0x77 =>
    if fieldNat w 16 6 = 0 then .ok (.wait (.ofWord w))
    else .error (.illegalForm 0x77)
  | 0x78 =>
    if fieldNat w 0 4 = 0 then .ok (.mxop (.ofWord w))
    else if fieldNat w 0 4 = 1 then .ok (.mxopZero (.ofWord w))
    else .error (.illegalForm 0x78)
  | 0x79 =>
    if fieldNat w 19 6 = 0 ∧ fieldNat w 9 5 = 0 ∧ fieldNat w 0 4 = 0 then .ok (.mxdrnI32 (fieldAt w 14 5) (fieldAt w 4 5))
    else if fieldNat w 19 6 = 0 ∧ fieldNat w 9 5 = 0 ∧ fieldNat w 0 4 = 1 then .ok (.mxdrnI64 (fieldAt w 14 5) (fieldAt w 4 5))
    else if fieldNat w 19 6 = 0 ∧ fieldNat w 9 5 = 0 ∧ fieldNat w 0 4 = 2 then .ok (.mxdrnF32 (fieldAt w 14 5) (fieldAt w 4 5))
    else .error (.illegalForm 0x79)
  | 0x7A =>
    if fieldNat w 19 6 = 0 ∧ fieldNat w 0 14 = 0 then .ok (.team (fieldAt w 14 5))
    else if fieldNat w 9 5 = 0 ∧ fieldNat w 0 4 = 1 then .ok (.mxbeg (.ofWord w))
    else if fieldNat w 0 25 = 2 then .ok (.mxend)
    else if fieldNat w 19 6 = 0 ∧ fieldNat w 0 14 = 3 then .ok (.mxfold (fieldAt w 14 5))
    else if fieldNat w 0 25 = 4 then .ok (.mxres)
    else .error (.illegalForm 0x7A)
  | 0x7C =>
    if fieldNat w 0 1 = 0 then .ok (.cpy (.ofWord w))
    else if fieldNat w 21 1 = 0 ∧ fieldNat w 7 10 = 0 ∧ fieldNat w 0 3 = 1 then .ok (.cpyf (.ofWord w))
    else .error (.illegalForm 0x7C)
  | 0x7D =>
    if fieldNat w 0 3 = 0 then .ok (.trav (.ofWord w))
    else if fieldNat w 0 3 = 1 then .ok (.trnx (.ofWord w))
    else if fieldNat w 0 3 = 2 then .ok (.isect (.ofWord w))
    else if fieldNat w 0 3 = 3 then .ok (.rast (.ofWord w))
    else if fieldNat w 8 14 = 0 ∧ fieldNat w 0 3 = 4 then .ok (.geosync (.ofWord w))
    else if fieldNat w 0 3 = 5 then .ok (.tex (.ofWord w))
    else if fieldNat w 0 3 = 6 then .ok (.texq (.ofWord w))
    else .error (.illegalForm 0x7D)
  | 0x7E =>
    if fieldNat w 0 3 = 0 then .ok (.csrr (.ofWord w))
    else if fieldNat w 0 3 = 1 then .ok (.csrw (.ofWord w))
    else if fieldNat w 4 18 = 0 ∧ fieldNat w 0 3 = 2 then .ok (.trapret (.ofWord w))
    else if fieldNat w 4 18 = 0 ∧ fieldNat w 0 3 = 3 then .ok (.smask (.ofWord w))
    else if fieldNat w 0 15 = 4 then .ok (.clock (.ofWord w))
    else if fieldNat w 4 4 = 0 ∧ fieldNat w 0 3 = 5 then .ok (.rng (.ofWord w))
    else .error (.illegalForm 0x7E)
  | 0x7F =>
    if fieldNat w 24 1 = 1 then .ok (.hintExt (fieldAt w 0 24))
    else if fieldNat w 4 21 = 0 then .ok (.hintStall (fieldAt w 0 4))
    else if fieldNat w 0 25 = 1048576 then .ok (.hintNeg)
    else if fieldNat w 2 23 = 524288 then .ok (.hintRnd (fieldAt w 0 2))
    else if fieldNat w 1 24 = 1572864 then .ok (.hintSat (fieldAt w 0 1))
    else if fieldNat w 2 23 = 1048576 then .ok (.hintCache (fieldAt w 1 1) (fieldAt w 0 1))
    else if fieldNat w 0 25 = 5242880 then .ok (.hintNb)
    else if fieldNat w 0 25 = 6291456 then .ok (.hintDtree)
    else .error (.illegalForm 0x7F)
  | m => .error (.illegalMajor m)

/-- The native reading of a word (R275). -/
def decode (w : Word) : Except DecodeError Instr := decodeMajor (w.toNat / 2 ^ 25) w

/-- The Voxunet reading of a word: an unguarded `bra` word is `next` and an unguarded `brx` word is `next.va`; every other word reads as in a native program (R429). -/
def decodeVox (w : Word) : Except DecodeError Instr :=
  match decode w with
  | .ok (.bra f) => if f.g = 0 then .ok (.next f.d) else .ok (.bra f)
  | .ok (.brx f) => if f.g = 0 then .ok (.nextVa f.a) else .ok (.brx f)
  | r => r

/-- The word of an instruction from its row (R275, R276), as a number; a step without an encoding has none. -/
def encodeNat : Instr → Option Nat
  | .iadd f => some (0x00000000 + f.place)
  | .isub f => some (0x02000000 + f.place)
  | .imul f => some (0x04000000 + f.place)
  | .imulhI f => some (0x06000000 + f.place)
  | .imulhZ f => some (0x08000000 + f.place)
  | .imad f => some (0x0A000000 + f.place)
  | .and f => some (0x0C000000 + f.place)
  | .or f => some (0x0E000000 + f.place)
  | .xor f => some (0x10000000 + f.place)
  | .shl f => some (0x12000000 + f.place)
  | .shr f => some (0x14000000 + f.place)
  | .sar f => some (0x16000000 + f.place)
  | .rol f => some (0x18000000 + f.place)
  | .bfe f => some (0x1A000000 + f.place)
  | .bfi f => some (0x1C000000 + f.place)
  | .iminI f => some (0x1E000000 + f.place)
  | .iminZ f => some (0x20000000 + f.place)
  | .imaxI f => some (0x22000000 + f.place)
  | .imaxZ f => some (0x24000000 + f.place)
  | .icmp f => some (0x26000000 + f.place)
  | .sel f => some (0x28000000 + f.place)
  | .ladd f => some (0x2A000000 + f.place)
  | .iadd64 f => some (0x2C000000 + f.place)
  | .isub64 f => some (0x2E000000 + f.place)
  | .icmp64 f => some (0x30000000 + f.place)
  | .shlImm f => some (0x32000000 + f.place)
  | .shrImm f => some (0x32000040 + f.place)
  | .sarImm f => some (0x32000080 + f.place)
  | .rolImm f => some (0x320000C0 + f.place)
  | .shlImm64 f => some (0x34000000 + f.place)
  | .shrImm64 f => some (0x34000040 + f.place)
  | .sarImm64 f => some (0x34000080 + f.place)
  | .rolImm64 f => some (0x340000C0 + f.place)
  | .iaddImm f => some (0x36000000 + f.place)
  | .andImm f => some (0x38000000 + f.place)
  | .movi f => some (0x3A000000 + f.place)
  | .mov f => some (0x3C000000 + f.place)
  | .mov64 f => some (0x3C000100 + f.place)
  | .popc f => some (0x3C000200 + f.place)
  | .popc64 f => some (0x3C000300 + f.place)
  | .clz f => some (0x3C000400 + f.place)
  | .clz64 f => some (0x3C000500 + f.place)
  | .imul64 f => some (0x3E000000 + f.place)
  | .fadd f => some (0x40000000 + f.place)
  | .fsub f => some (0x42000000 + f.place)
  | .fmul f => some (0x44000000 + f.place)
  | .ffma f => some (0x46000000 + f.place)
  | .fmin f => some (0x48000000 + f.place)
  | .fmax f => some (0x4A000000 + f.place)
  | .fcmp f => some (0x4C000000 + f.place)
  | .fdiv f => some (0x4E000000 + f.place)
  | .frcp f => some (0x50000000 + f.place)
  | .frsq f => some (0x52000000 + f.place)
  | .fsqrt f => some (0x54000000 + f.place)
  | .fex2 f => some (0x56000000 + f.place)
  | .flg2 f => some (0x58000000 + f.place)
  | .fsin f => some (0x5A000000 + f.place)
  | .fcos f => some (0x5C000000 + f.place)
  | .frnd f => some (0x5E000000 + f.place)
  | .dadd f => some (0x60000000 + f.place)
  | .dsub f => some (0x62000000 + f.place)
  | .dmul f => some (0x64000000 + f.place)
  | .dffma f => some (0x66000000 + f.place)
  | .dmin f => some (0x68000000 + f.place)
  | .dmax f => some (0x6A000000 + f.place)
  | .dcmp f => some (0x6C000000 + f.place)
  | .ddiv f => some (0x6E000000 + f.place)
  | .dsqrt f => some (0x70000000 + f.place)
  | .drnd f => some (0x72000000 + f.place)
  | .hadd2 f => some (0x74000000 + f.place)
  | .hfma2 f => some (0x76000000 + f.place)
  | .bfma2 f => some (0x78000000 + f.place)
  | .cvtFromInteger f => some (0x80000000 + f.place)
  | .cvtFromFloat f => some (0x82000000 + f.place)
  | .pack f => some (0x84000000 + f.place)
  | .unpk f => some (0x86000000 + f.place)
  | .shflIdx f => some (0x88000000 + f.place)
  | .shflXor f => some (0x8A000000 + f.place)
  | .shflUp f => some (0x8C000000 + f.place)
  | .shflDown f => some (0x8E000000 + f.place)
  | .vote f => some (0x90000000 + f.place)
  | .bcast f => some (0x92000000 + f.place)
  | .redux f => some (0x94000000 + f.place)
  | .scan f => some (0x96000000 + f.place)
  | .bra f => some (0xA0000000 + f.place)
  | .brx f => some (0xA2000000 + f.place)
  | .call f => some (0xA4000000 + f.place)
  | .calli f => some (0xA6000000 + f.place)
  | .ret f => some (0xA8000000 + f.place)
  | .meetLabel f => some (0xAA000000 + f.place)
  | .meetRegister f => some (0xAC000000 + f.place)
  | .exit f => some (0xAE000000 + f.place)
  | .yield f => some (0xB0000000 + f.place)
  | .bar f => some (0xB2000000 + f.place)
  | .barnet f => some (0xB4000000 + f.place)
  | .nop f => some (0xB6000000 + f.place)
  | .barInit f => some (0xB8000000 + f.place)
  | .barArrive f => some (0xB83E0001 + f.place)
  | .barWait f => some (0xB8000002 + f.place)
  | .barSync f => some (0xB83E0003 + f.place)
  | .ldZ8 f => some (0xC0000000 + f.place)
  | .ldI8 f => some (0xC2000000 + f.place)
  | .ldZ16 f => some (0xC4000000 + f.place)
  | .ldI16 f => some (0xC6000000 + f.place)
  | .ld32 f => some (0xC8000000 + f.place)
  | .ld64 f => some (0xCA000000 + f.place)
  | .st8 f => some (0xCC000000 + f.place)
  | .st16 f => some (0xCE000000 + f.place)
  | .st32 f => some (0xD0000000 + f.place)
  | .st64 f => some (0xD2000000 + f.place)
  | .lds32 f => some (0xD4000000 + f.place)
  | .lds64 f => some (0xD6000000 + f.place)
  | .sts32 f => some (0xD8000000 + f.place)
  | .sts64 f => some (0xDA000000 + f.place)
  | .ldlod f => some (0xDC000000 + f.place)
  | .lck f => some (0xDE000000 + f.place)
  | .ulk f => some (0xDE000004 + f.place)
  | .pref f => some (0xDE000008 + f.place)
  | .cinvLine f => some (0xDE00000C + f.place)
  | .cinvUnl f => some (0xDE000010 + f.place)
  | .cinvAll f => some (0xDE000014 + f.place)
  | .cinvIline f => some (0xDE000018 + f.place)
  | .cinvIall f => some (0xDE00001C + f.place)
  | .atom32 f => some (0xE0000000 + f.place)
  | .atom64 f => some (0xE2000000 + f.place)
  | .acas f => some (0xE4000000 + f.place)
  | .red f => some (0xE6000000 + f.place)
  | .mcst f => some (0xE8000000 + f.place)
  | .rdst f => some (0xE8000004 + f.place)
  | .txb f => some (0xEA000000 + f.place)
  | .txld f => some (0xEA000001 + f.place)
  | .txst f => some (0xEA000002 + f.place)
  | .txc f => some (0xEA000003 + f.place)
  | .txa f => some (0xEA000004 + f.place)
  | .fence f => some (0xEC000000 + f.place)
  | .wait f => some (0xEE000000 + f.place)
  | .mxop f => some (0xF0000000 + f.place)
  | .mxopZero f => some (0xF0000001 + f.place)
  | .mxdrnI32 d n => some (0xF2000000 + d.toNat * 2 ^ 14 + n.toNat * 2 ^ 4)
  | .mxdrnI64 d n => some (0xF2000001 + d.toNat * 2 ^ 14 + n.toNat * 2 ^ 4)
  | .mxdrnF32 d n => some (0xF2000002 + d.toNat * 2 ^ 14 + n.toNat * 2 ^ 4)
  | .team n => some (0xF4000000 + n.toNat * 2 ^ 14)
  | .mxbeg f => some (0xF4000001 + f.place)
  | .mxend => some 0xF4000002
  | .mxfold d => some (0xF4000003 + d.toNat * 2 ^ 14)
  | .mxres => some 0xF4000004
  | .cpy f => some (0xF8000000 + f.place)
  | .cpyf f => some (0xF8000001 + f.place)
  | .trav f => some (0xFA000000 + f.place)
  | .trnx f => some (0xFA000001 + f.place)
  | .isect f => some (0xFA000002 + f.place)
  | .rast f => some (0xFA000003 + f.place)
  | .geosync f => some (0xFA000004 + f.place)
  | .tex f => some (0xFA000005 + f.place)
  | .texq f => some (0xFA000006 + f.place)
  | .csrr f => some (0xFC000000 + f.place)
  | .csrw f => some (0xFC000001 + f.place)
  | .trapret f => some (0xFC000002 + f.place)
  | .smask f => some (0xFC000003 + f.place)
  | .clock f => some (0xFC000004 + f.place)
  | .rng f => some (0xFC000005 + f.place)
  | .hintExt e => some (0xFF000000 + e.toNat * 2 ^ 0)
  | .hintStall n => some (0xFE000000 + n.toNat * 2 ^ 0)
  | .hintNeg => some 0xFE100000
  | .hintRnd m => some (0xFE200000 + m.toNat * 2 ^ 0)
  | .hintSat s => some (0xFE300000 + s.toNat * 2 ^ 0)
  | .hintCache y x => some (0xFE400000 + y.toNat * 2 ^ 1 + x.toNat * 2 ^ 0)
  | .hintNb => some 0xFE500000
  | .hintDtree => some 0xFE600000
  | .next n => some (0xA0000000 + n.toNat * 2 ^ 0)
  | .nextVa a => some (0xA2000000 + a.toNat * 2 ^ 8)
  | .sdpost _ => none
  | .clpost _ => none
  | .swtrap _ => none
  | .legacyRegisterAccess _ _ => none
  | .fpcWrite _ => none
  | .proofPullWrite _ => none
  | .walkComplete _ _ _ => none
  | .loadReturn _ _ _ => none
  | .homeSliceWrite _ _ _ => none
  | .storeAcknowledge _ _ _ => none
  | .atomicPerform _ _ _ => none
  | .transactionCommit _ _ => none
  | .sliceWriteback _ => none
  | .trapEntry _ => none
  | .copyLineArrival _ _ => none
  | .copyComplete _ => none
  | .queueFenceComplete _ => none
  | .reservationPost _ => none
  | .mxbegAdmission _ => none
  | .passGrant _ => none
  | .passComplete _ => none
  | .drainComplete _ => none
  | .portWake _ => none
  | .partialBatchTimeout _ _ => none
  | .conePush _ => none
  | .dropNotice _ => none
  | .ticketTurn _ => none
  | .queryComplete _ _ => none
  | .geosyncDone _ => none
  | .quantumExpiry _ => none
  | .forcedSave _ => none
  | .preemptHoldTimeout _ => none
  | .gangEviction _ => none
  | .gangRestore _ => none
  | .commandClaim _ => none
  | .launch _ => none
  | .vxlaunch _ => none
  | .shootdown _ => none
  | .clean _ => none
  | .cancel _ => none
  | .ckpt _ => none
  | .restore _ => none
  | .unlistedOp _ => none
  | .signalCheck _ => none
  | .launchComplete _ => none
  | .heldCompletion _ => none
  | .cqTimer _ => none
  | .shootdownComplete _ => none
  | .cleanComplete _ => none
  | .checkpointComplete _ => none
  | .regroup _ _ => none
  | .segmentTranslation _ _ => none
  | .hostRead _ _ => none
  | .hostWrite _ _ => none
  | .ctxcreate => none
  | .ctxset => none
  | .ctxreset => none
  | .ctxdestroy => none
  | .sqcreate => none
  | .cqcreate => none
  | .qdelete => none
  | .quantum => none
  | .pin => none
  | .unpin => none
  | .proofread => none
  | .proofpull => none
  | .evring => none
  | .peernum => none
  | .fwstage => none
  | .fwcommit => none
  | .mailboxBadcmd => none
  | .doorbellWhileBusy => none
  | .registerWrite _ _ => none
  | .heldEventWrite => none
  | .goRun _ => none
  | .goClockGated _ => none
  | .goRetention _ => none
  | .qwake _ => none
  | .quadMoveDone _ => none
  | .resetBoot => none
  | .recoveryCommand => none
  | .spdmMessage _ => none
  | .laneSparing _ => none
  | .peerUnreachable _ => none
  | .takeover _ _ => none
  | .quadFailure _ => none
  | .softerr _ => none
  | .patrolScrub _ => none
  | .firmwareStagingWrite _ _ => none

/-- The word of an instruction. -/
def encode (i : Instr) : Option Word := (encodeNat i).map (BitVec.ofNat 32)

/-- Whether the instruction is a row that a native program's word can be: it has an encoding and is not one of the two Voxunet readings. -/
def Instr.isNative (i : Instr) : Bool :=
  match i with
  | .next _ | .nextVa _ => false
  | i => (encodeNat i).isSome

/-- The four bytes of a word as memory holds them, least significant first (R260). -/
def wordBytes (w : Word) : List Byte := [w.extractLsb' 0 8, w.extractLsb' 8 8, w.extractLsb' 16 8, w.extractLsb' 24 8]

/-- The word that the first four of some bytes make (R260); none if there are fewer. -/
def bytesWord : List Byte → Option Word
  | b0 :: b1 :: b2 :: b3 :: _ => some (b3 ++ b2 ++ b1 ++ b0)
  | _ => none

/-- Decoding from bytes, total on any bytes: none where there is no whole word or the word is no instruction. -/
def decodeBytes (bs : List Byte) : Option Instr := (bytesWord bs).bind fun w => (decode w).toOption

/-- What the decoder reads from the instruction whose bits are `w`, numbered as the opcode table numbers them. -/
def decodeTableWord (nbits w : Nat) : Option Instr :=
  if nbits ≤ 32 then decodeBytes (wordBytes (BitVec.ofNat 32 (w % 2 ^ nbits))) else none

end Sys2Proof
end

