-- ==== Sys2Proof/Machine/SMap.lean ====
section
/-! DEFINITION. Sparse stores of bit vectors by a natural key: memory by physical address, registers by number. A key that is not listed reads as zero; the canonical form lists keys in rising order and no zero. -/

namespace Sys2Proof.Machine

/-- A sparse store; memory is the case of bytes. -/
abbrev SMap (w : Nat) := List (Nat × BitVec w)

/-- Memory: bytes by physical address (R14); an unlisted address reads as zero. -/
abbrev Memory := SMap 8

/-- What the store holds at a key. -/
def SMap.get {w : Nat} : SMap w → Nat → BitVec w
  | [], _ => 0
  | (a, v) :: r, k => if a = k then v else SMap.get r k

/-- One entry as the canonical form lists it: none for zero. -/
def SMap.cell {w : Nat} (k : Nat) (v : BitVec w) : SMap w := if v = 0 then [] else [(k, v)]

/-- The store with `v` at the key `k`. -/
def SMap.set {w : Nat} (m : SMap w) (k : Nat) (v : BitVec w) : SMap w :=
  m.filter (fun e => e.1 < k) ++ SMap.cell k v ++ m.filter (fun e => k < e.1)

/-- The entries of a run of values from a key on. -/
def SMap.cells {w : Nat} : Nat → List (BitVec w) → SMap w
  | _, [] => []
  | k, v :: vs => SMap.cell k v ++ SMap.cells (k + 1) vs

/-- The store with a run of values from the key `k` on. -/
def SMap.setRange {w : Nat} (m : SMap w) (k : Nat) (vs : List (BitVec w)) : SMap w :=
  m.filter (fun e => e.1 < k) ++ SMap.cells k vs ++ m.filter (fun e => k + vs.length ≤ e.1)

/-- The `n` values from the key `k` on. -/
def SMap.getRange {w : Nat} (m : SMap w) (k n : Nat) : List (BitVec w) := (List.range n).map fun j => m.get (k + j)

/-- The store with `f j` at the key `key j`, for every `j` of a list. -/
def SMap.setMany {w : Nat} (m : SMap w) (js : List Nat) (key : Nat → Nat) (f : Nat → BitVec w) : SMap w :=
  js.foldl (fun m j => m.set (key j) (f j)) m

/-- The store without the entries whose key is in a run of `n` keys from `k` on. -/
def SMap.clearRange {w : Nat} (m : SMap w) (k n : Nat) : SMap w :=
  m.filter (fun e => e.1 < k || k + n ≤ e.1)

/-- The canonical form: keys strictly rising, no zero listed. -/
def SMap.wf {w : Nat} : SMap w → Bool
  | [] => true
  | [(_, v)] => v != 0
  | (a, v) :: (b, x) :: r => (a < b) && v != 0 && SMap.wf ((b, x) :: r)

/-- Memory is in its canonical form. -/
def Memory.wf (m : Memory) : Bool := SMap.wf m

end Sys2Proof.Machine
end

