-- ==== Sys2Proof/Machine/State.lean ====
section
/-! DEFINITION. The state of one OD960 package as plain data, the reasons a step can stop, and the state after reset. -/

namespace Sys2Proof.Machine

/-- Why the machine stops with a fault. A stop of this kind is safe: the model ends where the device has no such step. -/
inductive Fault where
  /-- Raised by an event row whose enabling condition does not hold in the state, so that the step cannot come about there. Safe. -/
  | notEnabled (row : String)
  /-- Raised by an instruction row when the issuing wave named by the state does not exist. Safe. -/
  | noIssuer
deriving DecidableEq, Repr

/-- Why the model gives no meaning. -/
inductive Refusal where
  /-- Raised by an arm of exec whose instruction has no meaning yet. Safe. -/
  | notModelled (mnemonic : String)
deriving DecidableEq, Repr

/-! ### Waves -/

/-- One word of an open transaction: lane, physical and virtual address of the 8-byte word, its leaf and side record, the value read or to be written, and whether it is in the write set (R344). -/
structure TxWord where
  lane : Nat
  pa : Nat
  va : Nat
  leaf : Nat
  side : Nat
  value : Quad
  write : Bool
deriving DecidableEq, Repr

/-- An engine trap that waits for the wave's next instruction boundary (R187, R371, R389). -/
structure EngineTrap where
  code : Nat
  cause : Nat
  word : Word
  pc : Quad
  active : Lanes
  faultLanes : Lanes
  addr : Quad
  /-- AUX of the trap record, 96 bits (R192). -/
  aux : Nat
  /-- It is a precise trap on the instruction that the wave holds in the rendezvous latch (R153, R355): it is taken with traps masked too. -/
  precise : Bool
  /-- LODBIT of the trap record (R192). -/
  lod : Bool
deriving DecidableEq, Repr

/-- A wave (R142, R146): its place, its threads' program counters and registers, its counters and its waits. -/
structure Wave where
  id : Nat
  /-- The gang that holds it, its workgroup in the gang (WG) and its index in the workgroup (WAVE), R144. -/
  gang : Nat
  wg : Nat
  index : Nat
  /-- Package core number and wave slot (R21, R143). -/
  core : Nat
  slot : Nat
  /-- PC and MEET of each lane (R142). -/
  pc : SMap 64
  meet : SMap 64
  /-- Lanes released at their MEET that have not issued since (R149). -/
  released : Lanes
  /-- Lanes that have ended (R147). -/
  ended : Lanes
  /-- Vector registers, keyed lane × 128 + register; scalar registers; predicates p1 to p7 as lane sets. -/
  v : SMap 32
  s : SMap 32
  p : SMap 32
  /-- The dependence counters (R272). -/
  ld : BitVec 6
  st : BitVec 6
  cp : BitVec 6
  tl : BitVec 6
  /-- TEAM (R152), TSTAT (R190), GEOQSEL (R258), logical time L (R164). -/
  team : Quad
  tstat : Quad
  geoqsel : Quad
  time : Quad
  /-- The wake condition (R201). -/
  wake : Quad
  /-- The largest logical time among the waves whose push or pop touched the queue it waits on (R164). -/
  releaser : Quad
  /-- The instruction a blocked wave performs when it wakes. -/
  waiting : Option Instr
  /-- The phases a bar.sync noted, by lane, while its wait lasts (R353). -/
  phases : Option (SMap 32)
  /-- Hint words issued and not yet used, the address of the first, and the lanes that issued them (R270, R271). -/
  hints : List Word
  hintPc : Quad
  hintLanes : Lanes
  /-- The cycle before which no instruction issues (stall hint, R269). -/
  stallUntil : Nat
  /-- Address of the branch or call the last issue took backward (R150). -/
  backFrom : Option Quad
  /-- Cycle of the last issue, or of placement (R179). -/
  lastIssue : Nat
  /-- Sequence number of the next issue (R194). -/
  seq : Nat
  /-- Transaction state (R344): lanes with IN, lanes with ABORT, the recorded words, and each lane's failures in a row (R118). -/
  txIn : Lanes
  txAbort : Lanes
  txSet : List TxWord
  txFails : SMap 32
  /-- Commit under way: lanes still to commit, the lanes whose predicate it writes, lanes committed, the predicate, and the name that the first access after it takes (R347). -/
  txTodo : Lanes
  txDone : Lanes
  txCommitted : Lanes
  txPred : Option (BitVec 3)
  txId : Nat
  /-- A copy command, and a matrix drain, has been issued since the wave last waited for all of them (R121). -/
  copied : Bool
  drained : Bool
  /-- Its context's rays were discarded (R399). -/
  rayLost : Bool
  /-- The address of a WATCH trap to which every thread returned: the next issue of the word there is not checked (R419). -/
  watchSkip : Option Quad
  /-- Engine traps not yet delivered. -/
  engineTraps : List EngineTrap
  /-- Since when a pre-emption request is held (R204). -/
  heldSince : Option Nat
  /-- Lanes of a Voxunet launch that stand at their segment's end, and lanes whose successor is a gathering segment (R430, R432). -/
  parked : Lanes
  gathering : Lanes
deriving DecidableEq, Repr

/-! ### Gangs and grids -/

/-- A gang (R142, R151). -/
structure Gang where
  id : Nat
  grid : Nat
  /-- GANG, its index in the grid. -/
  index : Nat
  /-- The core of each workgroup, while it is resident. -/
  cores : List Nat
  resident : Bool
  placedAt : Nat
  /-- The cycle at which it expired (R161). -/
  expired : Option Nat
  /-- Its eviction has been decided and waits for what R200 lets complete first: its waves issue nothing more. It is the cycle at which the request came. -/
  leaving : Option Nat
  /-- Gang-local bytes by offset, lines whose presence bit is 0, lines whose barrier tag is 1 (R42, R57 to R62). -/
  bytes : SMap 8
  absent : List Nat
  tags : List Nat
  /-- The staging buffer of deterministic mode: address, byte, and the logical thread index of its writer (R167). -/
  staged : List (Nat × Byte × Nat)
  /-- Bytes of its private lines, by address, that were written at their home since its last merge, as they stood after it (R167). -/
  before : List (Nat × Byte)
  /-- PLRES (R100) and the copy of FPC it runs under (R214). -/
  plres : Quad
  fpc : Quad
  /-- The batch of a binning queue's consumer gang, and how many of its records were read (R158). -/
  batch : List Word
  batchAt : Nat
  /-- The save area of an evicted gang: its address and its size (R202). -/
  saved : Option (Nat × Nat)
deriving DecidableEq, Repr

/-- The virtual waves of a workgroup of a Voxunet launch by block position (R431). -/
structure VoxGroup where
  gang : Nat
  wg : Nat
  order : List Nat
deriving DecidableEq, Repr

/-- A segment, and its translation in the code cache (R440): its key is the segment's words and the parameters that its digest covers. -/
structure CodeEntry where
  words : List Word
  log2vw : Nat
  vregs : Nat
  gather : Bool
deriving DecidableEq, Repr

/-- What a Voxunet launch keeps of its module (R424, R425): its address, its virtual wave width VW and its segments. -/
structure VoxModule where
  addr : Nat
  width : Nat
  segs : List CodeEntry
deriving DecidableEq, Repr

/-- Where a launch stands. -/
inductive GridPhase where
  /-- Held for its dependences (R171). -/
  | held
  /-- In the FIFO or running. -/
  | running
  /-- Being ended by CANCEL, CTXRESET or a failure (R483, R488). -/
  | ending
deriving DecidableEq, Repr

/-- A grid: one launch on this device (R142, R168). -/
structure Grid where
  id : Nat
  asid : Nat
  /-- Address of the launch record and its 2,048 bits (R168). -/
  lrec : Nat
  record : BitVec 2048
  phase : GridPhase
  /-- The submission queue and the TAG of its command, and the entry's index (R482). -/
  queue : Nat
  tag : Nat
  /-- The gangs still to be placed begin at this index; the first index that is not this device's. -/
  nextGang : Nat
  lastGang : Nat
  /-- The next index of the tile dispenser and the first past the block (R157). -/
  dispNext : Nat
  dispEnd : Nat
  /-- The queue-binding table: kind and descriptor of each port (R174). -/
  ports : List (Nat × Nat)
  /-- The ownership table's entries (R166). -/
  owners : List (BitVec 128)
  /-- The completion's CSTAT and STATUS if it is decided before the gangs end (R484). -/
  result : Option (Nat × Nat)
  /-- The binning queue whose consumer this grid is (R158). -/
  consumerOf : Option Nat
  vox : Option VoxModule
  /-- Pod barrier uses for which the peers have arrived (R154). -/
  podArrivals : Nat
  /-- Pod barrier uses this device has completed. -/
  podUses : Nat
deriving DecidableEq, Repr

/-- A bin of a binning queue: key, records in arrival order, and the cycle of the last arrival (R158). -/
structure Bin where
  key : Nat
  records : List Word
  last : Nat
deriving DecidableEq, Repr

/-- A binning queue by its descriptor's address (R158, R175). -/
structure BinQueue where
  id : Nat
  asid : Nat
  desc : Nat
  consumer : Nat
  thresh : Nat
  producers : Nat
  producersEnded : Nat
  bins : List Bin
  /-- Batches formed and not yet given a gang, oldest first, and the number of the next batch. -/
  batches : List (List Word)
  nextBatch : Nat
deriving DecidableEq, Repr

/-! ### Caches and translation -/

/-- A translation held by a quad's TLB (R34): the page's virtual base, the base-2 logarithm of its size, the leaf entry and the address of its side record (0 for none). -/
structure TlbEntry where
  quad : Nat
  asid : Nat
  base : Nat
  log2 : Nat
  leaf : Quad
  pa : Nat
  side : Nat
deriving DecidableEq, Repr

/-- A line of an L1, an L1 instruction cache, a node-line buffer or a texel buffer: its core, its tag (ASID and VA[59:6]), its physical line, its bytes, the PV bit it was filled under (R35), its lock (R53), whether it holds decoded texels (R69), whether a node read filled it (R407), and VA[59:6] of the line it was filled from, which is its tag but for a decoded line (R39, R70). -/
structure CacheLine where
  core : Nat
  asid : Nat
  line : Nat
  pline : Nat
  data : BitVec 512
  pv : Bool
  locked : Bool
  decoded : Bool
  node : Bool
  src : Nat
deriving DecidableEq, Repr

/-- A line modified at its home since it was last written to the stack: the side records whose DIRTY bits its write-back is to set, each with its page, and the HOME under which it was served last (R31, R32, R61, R64). -/
structure DirtyLine where
  pline : Nat
  sides : List (Nat × Nat)
  home : Nat
deriving DecidableEq, Repr

/-- A pinned page (R61, R64, R481): its physical page, HOME 1 or 2, and the owner core. -/
structure Pin where
  page : Nat
  home : Nat
  owner : Nat
deriving DecidableEq, Repr

/-- Of a line, the bytes that were last written under CMP = 0 and those last written under CMP = 1 (R73). -/
structure CmpLine where
  line : Nat
  plain : BitVec 64
  packed : BitVec 64
deriving DecidableEq, Repr

/-- A key of a die's duplicate filter (R92). -/
structure FilterKey where
  die : Nat
  asid : Nat
  res : Nat
  page : Nat
deriving DecidableEq, Repr

/-- The caches and translation buffers of the package. -/
structure Caches where
  tlb : List TlbEntry
  l1 : List CacheLine
  l1i : List CacheLine
  nodes : List CacheLine
  texels : List CacheLine
  dirty : List DirtyLine
  pins : List Pin
  filters : List FilterKey
  /-- The priority token of each slice: slice, wave and lane (R118). -/
  tokens : List (Nat × Nat × Nat)
  /-- Under which CMP value the bytes of the lines written through a leaf were last written (R73). -/
  cmp : List CmpLine
  /-- The wave that accessed each line last, by context (bits 43:32) and logical wave, for the operation-order log (R205). -/
  lastWave : List (Nat × Nat)
  /-- Entries of a context's operation-order log that a replay has used beyond ORDPOS: context and index (R205). -/
  ordUsed : List (Nat × Nat)
deriving DecidableEq, Repr

/-! ### Accesses in flight -/

/-- What an access in flight does. -/
inductive AccKind where
  /-- A load of a size, sign-extended or not; from the home alone; not installed in the L1 (R324, R325). -/
  | load (size : Nat) (signed atHome noFill : Bool)
  /-- A store of a size. -/
  | store (size : Nat)
  /-- An atomic operation of a size (R337); with a result or without. -/
  | atomic (op size : Nat) (returns : Bool)
  /-- Compare and swap of a size (R338). -/
  | cas (size : Nat)
  /-- A multi-destination store: operation (none for mcst) and size (R341). -/
  | multi (op : Option Nat) (size : Nat)
  | lock
  | unlock
  | pref (noFill : Bool)
  /-- A transactional read outside or inside a transaction (R345, R346). -/
  | txRead
  /-- A transactional write, which is in flight only for what its translation reports (R346). -/
  | txWrite
  /-- A level-of-detail read: the resources that its lanes name, each an index and an entry; size code, wanted level, predicate (R330). -/
  | lod (entries : List (Nat × BitVec 512)) (size level pred : Nat)
  /-- Gang-local load and store of a size (R327). -/
  | localLoad (size : Nat)
  | localStore (size : Nat)
  /-- A barrier-object arrival (R353); for bar.sync the phase is noted. -/
  | arrive (noting : Bool)
  /-- A release fence that later accesses wait for (R110): it has no lanes. -/
  | fence (scope : Nat)
deriving DecidableEq, Repr

/-- How far one lane of an access has come. -/
inductive LaneState where
  /-- Not translated yet. -/
  | fresh
  /-- Translated; a write that an earlier access of its thread or a fence still holds, so that it has not entered its core's order of writes (R107, R110). -/
  | reported
  /-- Translated, and of a write in its core's order of writes. -/
  | ready
  /-- Its translation reported a fault: code, cause and the LOD bit (R26, R195). -/
  | faulted (code cause : Nat) (lod : Bool)
  /-- It waits until a logged access of its wave is replayed (R196). -/
  | parked
  /-- Performed at its home and not acknowledged. -/
  | performed
  /-- Over. -/
  | done
deriving DecidableEq, Repr

/-- One lane's part of an access; for a multi-destination store, one lane and destination. -/
structure AccLane where
  lane : Nat
  dest : Nat
  va : Nat
  data : Quad
  data2 : Quad
  status : LaneState
  pa : Nat
  leaf : Quad
  /-- Its side record; of a level-of-detail read, the place of its resource in the access's list. -/
  side : Nat
  /-- Its place in its core's order of writes; a store updates the L1 line as it takes it (R47). -/
  stamp : Nat
  /-- The store updated a line of its core's L1 (R108). -/
  inL1 : Bool
  /-- Its place in the order in which the die's ordering point accepted writes under releases at die scope; 0 while it has not (R108). -/
  accepted : Nat
deriving DecidableEq, Repr

/-- An access in flight (R194, R195). -/
structure Access where
  id : Nat
  wave : Nat
  core : Nat
  asid : Nat
  kind : AccKind
  /-- Instruction word, address, ACTIVE and sequence number, as the operand log holds them. -/
  word : Word
  pc : Quad
  active : Lanes
  seq : Nat
  /-- Destination: first vector register and how many registers; none where nothing is written. -/
  dst : Option (Nat × Nat)
  lanes : List AccLane
  /-- Accesses of the wave that must be over before this one is performed (R110). -/
  after : List Nat
  /-- What its end acts as: an acquire at this scope (R112). -/
  acquire : Option Nat
  privileged : Bool
  /-- Operand-log entry, its abort flag, and whether a trap has taken it (R194, R195); of a release fence, that it waits for a replay (R196). -/
  log : Option Nat
  abort : Bool
  taken : Bool
  /-- Counter: 0 none, 1 LD, 2 ST. -/
  counter : Nat
  /-- Evict first or not installed: placement only. -/
  placement : BitVec 2
  /-- An invalidation removed the fill that this access requested (R50). -/
  noInstall : Bool
  /-- How many lanes a virtual wave of its instruction has, whose lanes alone are ordered among themselves (R436): 32 outside Voxunet code. -/
  block : Nat
  /-- The wave's logical time as it issued (R164). -/
  time : Quad
deriving DecidableEq, Repr

/-! ### Contexts -/

/-- A context's registers (R56, R89, R188, R202, R205, R214, R419, R481). -/
structure Context where
  asid : Nat
  fpc : Quad
  tvbase : Quad
  trbase : Quad
  svbase : Quad
  svsize : Quad
  crbase : Quad
  ordlog : Quad
  ordlen : Quad
  ordpos : Quad
  waddr : SMap 64
  wctl : SMap 64
  faultbuf : Quad
  fblog2n : Nat
  defaultCq : Nat
  nextFault : Nat
  /-- LKQUOTA, LKPBASE and LKPSIZE by core (R56). -/
  lkquota : SMap 64
  lkpbase : SMap 64
  lkpsize : SMap 64
deriving DecidableEq, Repr

/-! ### The matrix engines -/

/-- Where a pass froze under TRAP (R369, R380): the column chunk, the two planes, the cell, and whether the virtual planes are read. -/
structure Frozen where
  chunk : Nat
  planeA : Nat
  planeB : Nat
  cell : Nat
  word : Word
  /-- The frozen instruction's address in each member, by gang wave index. -/
  pcs : SMap 64
  /-- The pass's operands: layout words of A and B and N. -/
  regs : List Word
  /-- Plane counts the pass reads (R102). -/
  peA : Nat
  peB : Nat
deriving DecidableEq, Repr

/-- A team with a tile (R183, R363, R380). -/
structure Tile where
  /-- A name, taken from the order of its mxbeg. -/
  id : Nat
  gang : Nat
  /-- The TEAM value with POS zero. -/
  team : Quad
  quad : Nat
  n : Nat
  depth : Nat
  gask : Nat
  /-- POLICY is TRAP (R369). -/
  trap : Bool
  scaled : Bool
  slotA : Nat
  slotB : Nat
  granules : Nat
  aux : Nat
  /-- Addresses of the scale buffers of A and B, for a slot that has one (R363). -/
  scaleA : Option Nat
  scaleB : Option Nat
  /-- The cells, 128 rows of N. -/
  cells : List (List (BitVec 24))
  /-- Grog entries, oldest first: cell and count (R368). -/
  entries : List (Nat × Int)
  passes : Nat
  /-- Passes at the last fold of the open block (R377). -/
  foldedAt : Nat
  peA : Nat
  peB : Nat
  folds : Nat
  frozen : Option Frozen
deriving DecidableEq, Repr

/-- A request in an engine's reservation table (R182). -/
structure MxEntry where
  quad : Nat
  gang : Nat
  team : Quad
  /-- The tile that it is posted under; of an mxbeg, the one that it declares. -/
  tile : Nat
  cls : Nat
  order : Nat
  instr : Instr
  word : Word
  /-- The instruction's address in each member, by gang wave index. -/
  pcs : SMap 64
  privileged : Bool
  /-- The scalar operands read at latch completion, in field order. -/
  regs : List Word
  /-- Release fences of the members that its accesses wait for (R110, R120). -/
  after : List Nat
  /-- Translations of a drain's global destination, made at latch completion (R376). -/
  pages : List TlbEntry
  /-- Of an mxbeg, the addresses of the scale buffers of A and B. -/
  scales : List (Option Nat)
deriving DecidableEq, Repr

/-- The matrix engines of the package. -/
structure Matrix where
  tiles : List Tile
  table : List MxEntry
  /-- The granted entry of each busy array (R184). -/
  running : List MxEntry
  /-- Entries withdrawn by an eviction (R185). -/
  withdrawn : List MxEntry
  nextOrder : Nat
deriving DecidableEq, Repr

/-! ### Copies, queries and other work of the engines -/

/-- A fault that a copy met (R389): 1 for the source side or 2 for the destination side, its address, the offset of its page's first byte within a plain copy, and its code, cause and LOD bit. -/
structure CopyFault where
  side : Nat
  addr : Nat
  ofs : Nat
  code : Nat
  cause : Nat
  lod : Bool
deriving DecidableEq, Repr

/-- A command in a copy queue (R382 to R391). -/
structure Copy where
  id : Nat
  wave : Nat
  gang : Nat
  queue : Nat
  asid : Nat
  word : Word
  pc : Quad
  active : Lanes
  privileged : Bool
  /-- A queue fence names a mask of queues; a copy has none. -/
  fence : Option (BitVec 4)
  /-- Destination, source and count registers as read at issue, and the control word. -/
  dst : List Word
  src : List Word
  count : Word
  ctrl : Word
  /-- The format slot, and the resource entry of a scale buffer or of a tensor, for a conversion. -/
  fmt : Nat
  entry : BitVec 512
  /-- Accesses that must be performed before its first access (R110, R120). -/
  after : List Nat
  /-- The scope of the release that it makes just before its first access, if it makes one (R120). -/
  release : Option Nat
  /-- Pieces of the destination that have arrived. -/
  arrived : List Nat
  faults : List CopyFault
  /-- Barrier lines not written (R62). -/
  barriers : List Nat
  /-- Scales fixed for its blocks, by index in the scale buffer (R223). -/
  scales : List (Nat × Word)
  /-- Planes that a CONV 3 copy transfers, once the map bytes are read (R101). -/
  planes : Option Nat
  /-- What the issuing wave had staged at issue (R167). -/
  staged : List (Nat × Byte × Nat)
  /-- The logical thread index under which its private bytes are staged (R167). -/
  lti : Nat
deriving DecidableEq, Repr

/-- One lane's query (R395, R396): its pool's resource index and entry, its root node, and its operand registers. -/
structure QueryLane where
  lane : Nat
  res : Nat
  entry : BitVec 512
  root : Nat
  ops : List Word
  /-- Nodes that it has read already, each as it was read (R257). -/
  seen : List (Nat × BitVec 512)
deriving DecidableEq, Repr

/-- The queries of one instruction that have not written their results (R395). -/
structure Query where
  id : Nat
  wave : Nat
  core : Nat
  asid : Nat
  instr : Instr
  privileged : Bool
  lanes : List QueryLane
  /-- First destination register, and how many. -/
  dst : Nat
  words : Nat
deriving DecidableEq, Repr

/-- A geosync under way (R407). -/
structure GeoSync where
  id : Nat
  wave : Nat
  asid : Nat
  units : List Nat
deriving DecidableEq, Repr

/-- A push to a cone ring that has not reached its header's home (R92, R93). -/
structure Push where
  id : Nat
  die : Nat
  asid : Nat
  /-- The entry that is written (R91), without its TIME until the push leaves its die. -/
  entry : BitVec 128
  key : FilterKey
  /-- The instruction and the lane that push, by which pushes are ordered. -/
  origin : Nat
  lane : Nat
  /-- It has passed the filter and left its die. -/
  passed : Bool
deriving DecidableEq, Repr

/-- A drop notice on its way to a die's filter (R92). -/
structure Notice where
  id : Nat
  key : FilterKey
deriving DecidableEq, Repr

/-- Who waits for a shootdown, a clean or a checkpoint. -/
inductive Poster where
  /-- A wave, through its context. -/
  | wave (asid : Nat)
  /-- A command of a submission queue: queue, TAG and ADDR. -/
  | command (queue tag : Nat) (addr : Quad)
  /-- The mailbox command that is running (R481). -/
  | mailbox
  /-- A context reset that no command waits for (R489, R495). -/
  | kiln
deriving DecidableEq, Repr

/-- A shootdown or a clean in flight (R38, R67). -/
structure Sweep where
  id : Nat
  poster : Poster
  asid : Nat
  desc : Nat
  kind : Nat
  va : Nat
  count : Nat
  target : Nat
  irq : Bool
deriving DecidableEq, Repr

/-- A checkpoint or a restore in progress (R497). -/
structure Checkpoint where
  id : Nat
  poster : Poster
  restore : Bool
  /-- DEST, a physical address in the host window. -/
  dest : Nat
  incr : Bool
  since : Nat
deriving DecidableEq, Repr

/-- The engines of the package and the work in progress on them. -/
structure Engines where
  matrix : Matrix
  copies : List Copy
  queries : List Query
  syncs : List GeoSync
  pushes : List Push
  notices : List Notice
  shootdowns : List Sweep
  /-- Shootdowns of the kiln's own that wait while 16 are in flight (R38). -/
  queued : List Sweep
  cleans : List Sweep
  checkpoints : List Checkpoint
deriving DecidableEq, Repr

/-! ### Host interface, kiln, firmware and power -/

/-- A submission queue (R482). -/
structure SubQueue where
  id : Nat
  header : Nat
  /-- LOG2N as SQCREATE found it. -/
  log2 : Nat
  cq : Nat
  asid : Nat
deriving DecidableEq, Repr

/-- A completion queue (R484, R485). -/
structure CompQueue where
  id : Nat
  header : Nat
  /-- LOG2N as CQCREATE found it. -/
  log2 : Nat
  vector : Nat
  count : Nat
  timer : Nat
  /-- DTAIL: the index of the next entry (R486). -/
  tail : Nat
  /-- Entries written and not yet signalled, and when the oldest of them was written. -/
  unsignalled : Nat
  oldest : Nat
  held : List (BitVec 128)
deriving DecidableEq, Repr

/-- A claimed submission entry that has not been started (R170, R482). -/
structure Command where
  id : Nat
  queue : Nat
  asid : Nat
  entry : BitVec 512
deriving DecidableEq, Repr

/-- An event that the ring or a fault slot holds back (R487): its record without PHASE and, for a FAULT, the context and the fault block. -/
structure Event where
  record : BitVec 512
  fault : Option (Nat × List Byte)
deriving DecidableEq, Repr

/-- A LOG record written less than a millisecond ago (R487). -/
structure LogSeen where
  code : Nat
  asid : Nat
  arg0 : Nat
  at_ : Nat
  skipped : Nat
deriving DecidableEq, Repr

/-- One wave slot's part of a latched proof set (R206). -/
structure Proof where
  core : Nat
  slot : Nat
  pc : Quad
  tstat : Quad
  counters : Quad
  wake : Quad
deriving DecidableEq, Repr

/-- The host's queues, the event ring and the interrupts. -/
structure HostQueues where
  subs : List SubQueue
  comps : List CompQueue
  commands : List Command
  /-- The event ring: address, LOG2N and DTAIL (R487). -/
  ring : Nat
  ringLog2 : Nat
  ringTail : Nat
  /-- Events held, oldest first. -/
  events : List Event
  logs : List LogSeen
  /-- Fault slots: context, slot, and the ring index of the FAULT record that named it last. -/
  slots : List (Nat × Nat × Nat)
  /-- MSI-X signals by vector (R477). -/
  msix : SMap 64
  /-- Lines of device memory the host holds in its cache (R479). -/
  cached : List Nat
  /-- What the last host read returned, and whether it was CXL poison (R478, R495). -/
  read : List Byte
  readPoison : Bool
  /-- The base of the HDM range in the host's addresses, and IDE enabled, as the host has set them (R477). -/
  hdmBase : Quad
  ide : Bool
deriving DecidableEq, Repr

/-- A boot flash slot (R490). -/
structure FwSlot where
  image : List Byte
  version : Nat
  valid : Bool
  cause : Nat
deriving DecidableEq, Repr

/-- The signed configuration records that boot applies (R490). -/
structure ConfigRecords where
  /-- The defect map: quads, by number, whose physical quad is not to be used. -/
  defects : List Nat
  /-- The spare-quad mapping: quads that a spare of their die stands for. -/
  mapping : List Nat
  /-- The stack repair: stack and row. -/
  repairs : List (Nat × Nat)
deriving DecidableEq, Repr

/-- What waits in the FIFO of runnable gangs (R161, R177): a launch with gangs to place, a gang that was evicted, or a batch of a binning queue. -/
inductive Runnable where
  | grid (id : Nat)
  | gang (id : Nat)
deriving DecidableEq, Repr

/-- What a checkpoint's image says besides device memory (R497): the kiln's tables of contexts, launches and saved gangs, by the image's address. -/
structure Image where
  dest : Nat
  contexts : List Context
  grids : List Grid
  gangs : List Gang
  waves : List Wave
  flights : List Access
  bins : List BinQueue
  groups : List VoxGroup
  code : List CodeEntry
  codeUse : List Nat
  fifo : List Runnable
  matrix : Matrix
deriving DecidableEq, Repr

/-- The kiln: the mailbox, quantum settings, power and firmware. -/
structure Kiln where
  mbcmd : Quad
  mbarg : SMap 64
  mbstat : Quad
  mbres : SMap 64
  /-- The mailbox command whose shootdown is in flight: its context, and what it writes after it, if anything: the context-table entry and, for CTXCREATE, the registers. -/
  pending : Option (Nat × Option (Nat × Option Context))
  peernum : BitVec 6
  /-- QPCTL and QPSTAT by quad (R493), and the moves in progress: quad and target; 4 or more stands for a takeover (R496), by the spare's number on its die, 6 where none is left. -/
  qpctl : SMap 64
  qpstat : SMap 64
  moves : List (Nat × Nat)
  /-- Proof sets latched by the last pull. -/
  proofs : List Proof
  /-- Spares used, by die; quads disabled for want of a spare (R496). -/
  spares : SMap 8
  disabled : List Nat
  slotA : FwSlot
  slotB : FwSlot
  /-- The signed configuration records (R490). -/
  records : ConfigRecords
  /-- Which slot booted (1 for B), which is marked for the next reset, and the rollback floor. -/
  booted : Bool
  marked : Option Bool
  floor : Nat
  /-- What BAR2 received, and how far it was written (R490). -/
  staging : SMap 8
  stagedLen : Nat
  recovery : Bool
  /-- Lanes by port (R489). -/
  lanes : SMap 8
  /-- The partner's package number that each port learned as it trained (R489), from port 0 on; none where no port has. -/
  partners : List Nat
  /-- The last SPDM reply (R492). -/
  spdm : List Byte
  /-- Contexts that the kiln is to reset for a read of a poisoned line (R495). -/
  resets : List Nat
  /-- The tables of the checkpoints taken (R497). -/
  images : List Image
deriving DecidableEq, Repr

/-! ### The machine -/

/-- The model's own: whose turn it is. -/
inductive Turn where
  /-- A row of the table that is no instruction word. -/
  | event (i : Instr)
  /-- A wave issues its next word. -/
  | issue (wave : Nat)
deriving DecidableEq, Repr

/-- One package. -/
structure State where
  /-- Memory by physical address (R14, R16), and the poisoned lines (R495). -/
  mem : Memory
  poison : List Nat
  /-- Physical address of the context table (R18). -/
  ctxBase : Nat
  caches : Caches
  flights : List Access
  contexts : List Context
  /-- PINSIZE by core (R60). -/
  pinsize : SMap 64
  waves : List Wave
  gangs : List Gang
  grids : List Grid
  /-- The block positions of the workgroups of Voxunet launches (R431). -/
  groups : List VoxGroup
  bins : List BinQueue
  /-- Runnable gangs in order (R161). -/
  fifo : List Runnable
  /-- Quanta by class, in quarters of a millisecond (R161). -/
  quanta : SMap 64
  /-- Rotation pointers by core × 4 + partition (R181). -/
  rotation : SMap 64
  /-- By core × 4 + partition, one more than the cycle in which the partition issued last: it issues one wave in a cycle (R179). -/
  issued : SMap 64
  /-- Translated segments in the code cache (R440, R441); an entry's place fixes its native address. -/
  code : List CodeEntry
  /-- The places of the code cache in the order of their last use (R441). -/
  codeUse : List Nat
  eng : Engines
  host : HostQueues
  kiln : Kiln
  /-- The package cycle counter (R422). -/
  cycle : Quad
  /-- The model's own: the turns to come, the issuing wave, the count of free values used, the next name, and whether an engine comes before the waves when no turn is named. -/
  turns : List Turn
  issuer : Nat
  fresh : Nat
  nextId : Nat
  enginesFirst : Bool
deriving DecidableEq, Repr

/-- A context whose registers are at their reset values. -/
def Context.zero (asid : Nat) : Context :=
  { asid, fpc := 0, tvbase := 0, trbase := 0, svbase := 0, svsize := 0, crbase := 0, ordlog := 0, ordlen := 0, ordpos := 0,
    waddr := [], wctl := [], faultbuf := 0, fblog2n := 0, defaultCq := 0, nextFault := 0, lkquota := [], lkpbase := [], lkpsize := [] }

/-- A wave as R146 starts it, apart from its code pointer, its preloads and its lanes that begin ended. -/
def Wave.start (id gang wg index core slot : Nat) (code : Quad) (ended : Lanes) (s : SMap 32) (now : Nat) : Wave :=
  { id, gang, wg, index, core, slot,
    pc := SMap.cells 0 (List.replicate 32 code),
    meet := SMap.cells 0 (List.replicate 32 (BitVec.allOnes 64)),
    released := 0, ended, v := [], s, p := [], ld := 0, st := 0, cp := 0, tl := 0, team := 0, tstat := 0, geoqsel := 0, time := 0,
    wake := 0, releaser := 0, waiting := none, phases := none, hints := [], hintPc := 0, hintLanes := 0, stallUntil := 0, backFrom := none, lastIssue := now, seq := 0,
    txIn := 0, txAbort := 0, txSet := [], txFails := [], txTodo := 0, txDone := 0, txCommitted := 0, txPred := none, txId := 0, copied := false, drained := false,
    rayLost := false, watchSkip := none, engineTraps := [], heldSince := none, parked := 0, gathering := 0 }

/-- A gang that has not been placed. -/
def Gang.start (id grid index : Nat) : Gang :=
  { id, grid, index, cores := [], resident := false, placedAt := 0, expired := none, leaving := none, bytes := [], absent := [], tags := [], staged := [], before := [],
    plres := 0, fpc := 0, batch := [], batchAt := 0, saved := none }

/-- No cache holds anything. -/
def Caches.empty : Caches :=
  { tlb := [], l1 := [], l1i := [], nodes := [], texels := [], dirty := [], pins := [], filters := [], tokens := [], cmp := [], lastWave := [], ordUsed := [] }

/-- No engine has work. -/
def Engines.idle : Engines :=
  { matrix := { tiles := [], table := [], running := [], withdrawn := [], nextOrder := 0 },
    copies := [], queries := [], syncs := [], pushes := [], notices := [], shootdowns := [], queued := [], cleans := [], checkpoints := [] }

/-- No queue exists and no event ring is named. -/
def HostQueues.none : HostQueues :=
  { subs := [], comps := [], commands := [], ring := 0, ringLog2 := 0, ringTail := 0, events := [], logs := [], slots := [], msix := [],
    cached := [], read := [], readPoison := false, hdmBase := 0, ide := false }

/-- The kiln after a boot from a valid slot A (R480, R490, R493; log entries 5 and 6). -/
def Kiln.booted0 : Kiln :=
  { mbcmd := 0, mbarg := [], mbstat := 0, mbres := [], pending := Option.none, peernum := 0, qpctl := [], qpstat := [], moves := [], proofs := [],
    spares := [], disabled := [], slotA := { image := [], version := 1, valid := true, cause := 0 },
    slotB := { image := [], version := 0, valid := false, cause := 1 },
    records := { defects := [], mapping := [], repairs := [] }, booted := false, marked := Option.none, floor := 0, staging := [], stagedLen := 0,
    recovery := false, lanes := SMap.cells 0 (List.replicate 12 8), partners := [], spdm := [], resets := [], images := [] }

/-- The package after reset and boot: memory reads zero (R490), no context, queue, wave or gang exists, and every register holds its reset value. -/
def State.reset : State :=
  { mem := [], poison := [], ctxBase := 0x7FFFFF8000, caches := .empty, flights := [], contexts := [], pinsize := [], waves := [], gangs := [],
    grids := [], groups := [], bins := [], fifo := [], quanta := SMap.cells 0 [8, 8, 8, 8], rotation := [], issued := [], code := [], codeUse := [], eng := .idle,
    host := .none, kiln := .booted0, cycle := 0, turns := [], issuer := 0, fresh := 0, nextId := 1, enginesFirst := false }

end Sys2Proof.Machine
end

