-- ==== Sys2Proof/Machine/Regs.lean ====
section
/-! DEFINITION. Named accessors: waves, gangs, grids and contexts by name, the registers of a wave, the fields of a launch record and the identity registers. -/

namespace Sys2Proof.Machine

/-! ### Finding and replacing -/

/-- The wave of a name. -/
def State.wave? (s : State) (id : Nat) : Option Wave := s.waves.find? fun w => w.id = id

/-- The state with a wave changed. -/
def State.modWave (s : State) (id : Nat) (f : Wave → Wave) : State :=
  { s with waves := s.waves.map fun w => if w.id = id then f w else w }

/-- The gang of a name. -/
def State.gang? (s : State) (id : Nat) : Option Gang := s.gangs.find? fun g => g.id = id

/-- The gang is resident: placed, and not evicted since (R151). -/
def State.isResident (s : State) (id : Nat) : Bool := s.gangs.any fun g => g.id = id && g.resident

/-- The state with a gang changed. -/
def State.modGang (s : State) (id : Nat) (f : Gang → Gang) : State :=
  { s with gangs := s.gangs.map fun g => if g.id = id then f g else g }

/-- The grid of a name. -/
def State.grid? (s : State) (id : Nat) : Option Grid := s.grids.find? fun g => g.id = id

/-- The state with a grid changed. -/
def State.modGrid (s : State) (id : Nat) (f : Grid → Grid) : State :=
  { s with grids := s.grids.map fun g => if g.id = id then f g else g }

/-- The registers of a context; at their reset values where the context has none. -/
def State.ctx (s : State) (asid : Nat) : Context := (s.contexts.find? fun c => c.asid = asid).getD (Context.zero asid)

/-- The state with a context's registers changed. -/
def State.modCtx (s : State) (asid : Nat) (f : Context → Context) : State :=
  { s with contexts := s.contexts.filter (fun c => c.asid ≠ asid) ++ [f (s.ctx asid)] }

/-- The access in flight of a name. -/
def State.flight? (s : State) (id : Nat) : Option Access := s.flights.find? fun a => a.id = id

/-- The state with an access in flight changed. -/
def State.modFlight (s : State) (id : Nat) (f : Access → Access) : State :=
  { s with flights := s.flights.map fun a => if a.id = id then f a else a }

/-- A name that nothing else has. -/
def State.newId (s : State) : Nat × State := (s.nextId, { s with nextId := s.nextId + 1 })

/-- The state with the caches changed. -/
def State.modCaches (s : State) (f : Caches → Caches) : State := { s with caches := f s.caches }
/-- The state with the engines changed. -/
def State.modEng (s : State) (f : Engines → Engines) : State := { s with eng := f s.eng }
/-- The state with the host's queues changed. -/
def State.modHost (s : State) (f : HostQueues → HostQueues) : State := { s with host := f s.host }
/-- The state with the kiln changed. -/
def State.modKiln (s : State) (f : Kiln → Kiln) : State := { s with kiln := f s.kiln }
/-- The state with the matrix engines changed. -/
def State.modMatrix (s : State) (f : Matrix → Matrix) : State := s.modEng fun e => { e with matrix := f e.matrix }

/-! ### The registers of a wave -/

/-- The key of a lane's vector register. -/
def vKey (lane reg : Nat) : Nat := lane * 128 + reg

/-- A lane's vector register. -/
def Wave.getV (w : Wave) (lane reg : Nat) : Word := w.v.get (vKey lane reg)
/-- The wave with a lane's vector register written. -/
def Wave.setV (w : Wave) (lane reg : Nat) (x : Word) : Wave := { w with v := w.v.set (vKey lane reg) x }
/-- A scalar register s0 to s95. -/
def Wave.getS (w : Wave) (reg : Nat) : Word := w.s.get reg
/-- The wave with a scalar register written. -/
def Wave.setS (w : Wave) (reg : Nat) (x : Word) : Wave := { w with s := w.s.set reg x }
/-- A predicate of a lane; p0 is true (R265). -/
def Wave.getP (w : Wave) (lane n : Nat) : Bool := n = 0 || (w.p.get n).getLsbD lane
/-- The wave with the predicate `n` of the lanes of a set written; a write to p0 is discarded (R265). -/
def Wave.setP (w : Wave) (lanes : Lanes) (n : Nat) (vals : Lanes) : Wave :=
  if n = 0 then w else { w with p := w.p.set n ((w.p.get n &&& ~~~lanes) ||| (vals &&& lanes)) }
/-- The wave with the vector register `reg` of every lane of a set written. -/
def Wave.setVs (w : Wave) (lanes : Lanes) (reg : Nat) (f : Nat → Word) : Wave :=
  { w with v := w.v.setMany (laneList lanes) (fun l => vKey l reg) f }
/-- A lane's PC and MEET. -/
def Wave.pcOf (w : Wave) (lane : Nat) : Quad := w.pc.get lane
/-- See `pcOf`. -/
def Wave.meetOf (w : Wave) (lane : Nat) : Quad := w.meet.get lane
/-- The wave with the PC of every lane of a set written. -/
def Wave.setPcs (w : Wave) (lanes : Lanes) (f : Nat → Quad) : Wave := { w with pc := w.pc.setMany (laneList lanes) (fun l => l) f }
/-- The wave with the MEET of every lane of a set written. -/
def Wave.setMeets (w : Wave) (lanes : Lanes) (f : Nat → Quad) : Wave := { w with meet := w.meet.setMany (laneList lanes) (fun l => l) f }

/-- TSTAT.TM: traps are masked (R190). -/
def Wave.tm (w : Wave) : Bool := w.tstat.getLsbD 0
/-- TSTAT.PRIV: the wave runs a handler (R190). -/
def Wave.priv (w : Wave) : Bool := w.tstat.getLsbD 1
/-- TSTAT.PREPEND: a pre-emption request is held (R190). -/
def Wave.prepend (w : Wave) : Bool := w.tstat.getLsbD 2
/-- The wave with TSTAT made of its three bits; the rest is reserved and reads zero (R190). -/
def Wave.setTstat (w : Wave) (tm priv prepend : Bool) : Wave :=
  { w with tstat := BitVec.ofNat 64 (tm.toNat + 2 * priv.toNat + 4 * prepend.toNat) }
/-- The wave has not ended (R147). -/
def Wave.alive (w : Wave) : Bool := w.ended ≠ BitVec.allOnes 32
/-- The kind of the wake condition (R201). -/
def Wave.wakeKind (w : Wave) : Nat := bitsOf w.wake.toNat 0 4
/-- A wake condition (R201). -/
def wakeOf (kind arg : Nat) : Quad := BitVec.ofNat 64 (kind % 16 + 16 * (arg % 2 ^ 28))
/-- The partition a wave runs on (R143). -/
def Wave.partition (w : Wave) : Nat := w.index % 4

/-- The quad of a core, and the die of a core (R21, R493). -/
def quadOf (core : Nat) : Nat := core / 4
/-- See `quadOf`. -/
def dieOf (core : Nat) : Nat := core / 96

/-! ### The launch record (R168) -/

/-- Bits of the launch record. -/
def Grid.field (g : Grid) (lo len : Nat) : Nat := bitsOf g.record.toNat lo len
/-- CODE. -/
def Grid.code (g : Grid) : Nat := g.field 0 64
/-- RESTAB. -/
def Grid.restab (g : Grid) : Nat := g.field 64 64
/-- LAUNCHID. -/
def Grid.launchId (g : Grid) : Nat := g.field 128 64
/-- NGANG. -/
def Grid.ngang (g : Grid) : Nat := g.field 192 32
/-- RESCOUNT. -/
def Grid.rescount (g : Grid) : Nat := g.field 224 21
/-- NWG. -/
def Grid.nwg (g : Grid) : Nat := g.field 256 3
/-- WGTHR. -/
def Grid.wgthr (g : Grid) : Nat := g.field 259 11
/-- REGS. -/
def Grid.regs (g : Grid) : Nat := g.field 270 7
/-- BARS. -/
def Grid.bars (g : Grid) : Nat := g.field 277 5
/-- LOCALG. -/
def Grid.localg (g : Grid) : Nat := g.field 288 8
/-- DET. -/
def Grid.det (g : Grid) : Bool := g.field 320 1 = 1
/-- PERS. -/
def Grid.pers (g : Grid) : Bool := g.field 321 1 = 1
/-- CLASS. -/
def Grid.cls (g : Grid) : Nat := g.field 322 2
/-- NDEVICE. -/
def Grid.ndevice (g : Grid) : Nat := g.field 352 7
/-- DEVICE. -/
def Grid.device (g : Grid) : Nat := g.field 360 6
/-- FMT[k]. -/
def Grid.fmt (g : Grid) (k : Nat) : Nat := g.field (384 + 32 * k) 32
/-- ARG[j]. -/
def Grid.arg (g : Grid) (j : Nat) : Nat := g.field (640 + 32 * j) 32
/-- SIGADDR[k]. -/
def Grid.sigaddr (g : Grid) (k : Nat) : Nat := g.field (1280 + 128 * k) 64
/-- SIGVAL[k]. -/
def Grid.sigval (g : Grid) (k : Nat) : Nat := g.field (1344 + 128 * k) 64
/-- OWNTAB. -/
def Grid.owntab (g : Grid) : Nat := g.field 1792 64
/-- CQ. -/
def Grid.cq (g : Grid) : Nat := g.field 1856 16
/-- OWNCOUNT. -/
def Grid.owncount (g : Grid) : Nat := g.field 1872 9
/-- DISPN. -/
def Grid.dispn (g : Grid) : Nat := g.field 1888 32
/-- SIGOUT. -/
def Grid.sigout (g : Grid) : Nat := g.field 1920 64
/-- QBIND. -/
def Grid.qbind (g : Grid) : Nat := g.field 1984 64
/-- Waves in a workgroup (R168). -/
def Grid.nwave (g : Grid) : Nat := ceilDiv g.wgthr 32

/-! ### Identity -/

/-- The wave's workgroup linear index WGLIN (R144). -/
def wglin (gr : Grid) (ga : Gang) (w : Wave) : Nat := ga.index * gr.nwg + w.wg
/-- The logical wave index (R145). -/
def logicalWave (gr : Grid) (ga : Gang) (w : Wave) : Nat := wglin gr ga w * gr.nwave + w.index
/-- Where the kiln maps the code cache in a Voxunet context (R441): the spec gives no address (log entry 9). -/
def codeBase : Nat := 2 ^ 59

/-- The native address of a segment's first word, by its entry in the code cache: an entry takes 1 MiB (R440; log entry 9). -/
def nativeEntry (entry : Nat) : Quad := BitVec.ofNat 64 (codeBase + entry * 2 ^ 20)

/-- Where the kiln reserves the code cache in local device memory (R441): the spec gives no address (log entry 9). -/
def codeArea : Nat := 2 ^ 38

/-- The address that stands as the PC of a thread whose successor is not yet in the code cache (R431; log entry 73). -/
def untranslated : Quad := BitVec.ofNat 64 (2 * codeBase - 4)

/-- A launch's program at an address is a translated segment: the launch is a Voxunet one and the address lies in the code cache. A handler's words are native ones. -/
def Grid.virtualAt (gr : Grid) (pc : Quad) : Bool := gr.vox.isSome && codeBase ≤ pc.toNat

/-- The virtual thread index of a native lane, held in v(VREGS + 1) (R430). -/
def vtiOf (gr : Grid) (w : Wave) (lane : Nat) : Nat := (w.getV lane (gr.regs - 16 + 1)).toNat
/-- The logical thread index of a lane (R145), by VTI in a Voxunet launch (R433). -/
def logicalThread (gr : Grid) (ga : Gang) (w : Wave) (lane : Nat) : Nat :=
  if gr.vox.isSome then wglin gr ga w * gr.wgthr + vtiOf gr w lane else logicalWave gr ga w * 32 + lane

/-- An identity register s96 to s111 (R144). -/
def identity (gr : Grid) (ga : Gang) (w : Wave) (n : Nat) : Word :=
  BitVec.ofNat 32 (match n with
    | 96 => w.index
    | 97 => w.wg
    | 98 => ga.index
    | 99 => gr.ngang
    | 100 => gr.nwg
    | 101 => gr.nwave
    | 102 => wglin gr ga w
    | 103 => gr.device
    | 104 => gr.ndevice
    | 105 => w.core + 512 * w.partition
    | 106 => gr.det.toNat + 2 * gr.pers.toNat + 4 * gr.cls
    | 108 => gr.launchId
    | 109 => gr.launchId / 2 ^ 32
    | 110 => gr.lrec
    | 111 => gr.lrec / 2 ^ 32
    | _ => 0)

/-- TRADDR: TRBASE + 1,024 × (package core number × 64 + slot) (R188). -/
def State.traddr (s : State) (asid : Nat) (w : Wave) : Nat :=
  (s.ctx asid).trbase.toNat + 1024 * (w.core * 64 + w.slot)

/-- The waves of a gang. -/
def State.wavesOf (s : State) (gang : Nat) : List Wave := s.waves.filter fun w => w.gang = gang
/-- The waves of a workgroup. -/
def State.wavesOfWg (s : State) (gang wg : Nat) : List Wave := s.waves.filter fun w => w.gang = gang && w.wg = wg

end Sys2Proof.Machine
end

