-- ==== Sys2Proof/Machine/Memory.lean ====
section
/-! DEFINITION. Physical memory, the page table and its walk (R16 to R28), the quad TLB, the L1 caches, and reads and writes at a line's home (R31, R32, R63, R64). -/

namespace Sys2Proof.Machine

/-! ### Physical memory -/

/-- A fault of a translation or of an address check: the trap code (R186), its cause (R26) and the LOD bit. -/
structure Flt where
  code : Nat
  cause : Nat
  lod : Bool
deriving DecidableEq, Repr

/-- PAGE with a cause. -/
def pageFault (cause : Nat) : Flt := ⟨1, cause, false⟩

/-- The physical address as the package serves it: a peer address of the package's own number is local (R17). -/
def State.localPa (s : State) (pa : Nat) : Nat :=
  if bitsOf pa 50 2 = 2 ∧ bitsOf pa 44 6 = s.kiln.peernum.toNat then bitsOf pa 0 44 else pa

/-- The window of a physical address (R16). -/
def windowOf (pa : Nat) : Nat := bitsOf pa 50 2

/-- The address is backed (R16). -/
def backed (pa : Nat) : Bool :=
  match windowOf pa with
  | 0 => bitsOf pa 0 50 < 2 ^ 39
  | 1 => true
  | 2 => bitsOf pa 0 44 < 2 ^ 39
  | _ => false

/-- A table lies wholly in local device memory (R24). -/
def localTable (pa size : Nat) : Bool := windowOf pa = 0 && pa + size ≤ 2 ^ 39

/-- `n` bytes of memory at a physical address. -/
def State.bytesAt (s : State) (pa n : Nat) : List Byte := s.mem.getRange (s.localPa pa) n

/-- The same as a number, least significant byte first (R207). -/
def State.natAt (s : State) (pa n : Nat) : Nat := natOfBytes (s.bytesAt pa n)

/-- Bytes written to memory at a physical address. A whole line's write clears its poison (R495), and the host's cached copies of the lines are invalidated (R479). -/
def State.putBytes (s : State) (pa : Nat) (bs : List Byte) : State :=
  let p := s.localPa pa
  { s with
    mem := s.mem.setRange p bs
    poison := s.poison.filter fun l => !(p ≤ l * 64 && l * 64 + 64 ≤ p + bs.length)
    host := { s.host with cached := s.host.cached.filter fun l => !(p / 64 ≤ l && l * 64 < p + bs.length) } }

/-- A number of `n` bytes written to memory. -/
def State.putNat (s : State) (pa n x : Nat) : State := s.putBytes pa (bytesOfNat n x)

/-- The slice that is home to a line (R63). -/
def homeSlice (pa : Nat) : Nat := (bitsOf pa 8 3 ^^^ bitsOf pa 21 3) * 24 + bitsOf pa 11 39 % 24

/-- The lines of a range hold a poisoned one (R495). -/
def State.poisoned (s : State) (pa n : Nat) : Option Nat :=
  s.poison.find? fun l => s.localPa pa / 64 ≤ l && l * 64 < s.localPa pa + n

/-! ### The page table -/

/-- A 64-bit entry of a page table (R21, R23) or of the context table (R18); on a poisoned line what is read is free (R495). -/
def State.entryAt (s : State) (pa : Nat) : Nat :=
  if (s.poisoned pa 8).isSome then (Config.poisonedEntry s.fresh pa).toNat else s.natAt pa 8

/-- A bit of an entry. -/
def entryBit (e : Nat) (n : Nat) : Bool := e.testBit n
/-- The page frame of an entry as an address: PPN × 4,096. -/
def entryPpn (e : Nat) : Nat := bitsOf e 12 40 * 4096
/-- HOME of a leaf. -/
def leafHome (e : Nat) : Nat := bitsOf e 9 2
/-- OWNER of a leaf. -/
def leafOwner (e : Nat) : Nat := bitsOf e 54 9

/-- The index bits of an address at a level (R20). -/
def levelIndex (n va : Nat) : Nat :=
  match n with
  | 1 => bitsOf va 48 12
  | 2 => bitsOf va 39 9
  | 3 => bitsOf va 30 9
  | 4 => bitsOf va 21 9
  | _ => bitsOf va 12 9

/-- The entry breaks R21 or R22 at level `n`. -/
def reservedBroken (e n : Nat) : Bool :=
  entryBit e 11 || bitsOf e 52 2 ≠ 0 || entryBit e 63 ||
  (if entryBit e 5 then
    n ≤ 2 || (entryBit e 2 && !entryBit e 1) || (leafHome e ≠ 2 && leafOwner e ≠ 0) ||
    (n = 3 && (entryBit e 6 || bitsOf e 12 18 ≠ 0)) || (n = 4 && (entryBit e 6 || bitsOf e 12 9 ≠ 0))
  else
    n = 5 || bitsOf e 1 4 ≠ 0 || bitsOf e 6 5 ≠ 0 || leafOwner e ≠ 0)

/-- What an access needs of a leaf (R25). -/
structure Need where
  rd : Bool
  wr : Bool
  ex : Bool
deriving DecidableEq, Repr

/-- A load. -/
def needRead : Need := ⟨true, false, false⟩
/-- A store. -/
def needWrite : Need := ⟨false, true, false⟩
/-- A returning atomic, a transactional write, a descriptor. -/
def needBoth : Need := ⟨true, true, false⟩
/-- An instruction fetch. -/
def needFetch : Need := ⟨false, false, true⟩

/-- The leaf refuses the access (R25). -/
def refused (e : Nat) (need : Need) (priv : Bool) : Bool :=
  (entryBit e 4 && !priv) || (need.rd && !entryBit e 1) || (need.wr && !entryBit e 2) || (need.ex && !entryBit e 3)

/-- The trap code of a refusal (R25). -/
def refusalOf (need : Need) : Flt := ⟨if need.ex then 3 else 2, 0, false⟩

/-- A translation: the physical address, the leaf, the base-2 logarithm of the page's size, and its side record (0 for none). -/
structure Trans where
  pa : Nat
  leaf : Nat
  log2 : Nat
  side : Nat
deriving DecidableEq, Repr

/-- The levels of a walk from `n` on (R24), with `fuel` levels left. A peer address of the package's own is given as the local one (R17). -/
def walkFrom (s : State) (va : Nat) (need : Need) (priv : Bool) : Nat → Nat → Nat → Nat → Except Flt Trans
  | 0, _, _, _ => .error (pageFault 2)
  | fuel + 1, n, table, side =>
    let e := s.entryAt (table + 8 * levelIndex n va)
    if !entryBit e 0 then .error ⟨1, 0, entryBit e 8⟩
    else if reservedBroken e n then .error (pageFault 2)
    else
      let side' := if n = 4 then table + 4096 + 72 * levelIndex 4 va else side
      if entryBit e 5 then
        let log2 := if n = 3 then 30 else if n = 4 then 21 else 12
        let pa := entryPpn e + va % 2 ^ log2
        if !backed pa then .error (pageFault 3)
        else if leafHome e = 2 ∧ leafOwner e > 383 then .error (pageFault 5)
        else if refused e need priv then .error (refusalOf need)
        else .ok ⟨s.localPa pa, e, log2, side'⟩
      else if !localTable (entryPpn e) (if n = 3 then 40960 else 4096) then .error (pageFault 4)
      else walkFrom s va need priv fuel (n + 1) (entryPpn e) side'

/-- The context-table entry of an ASID (R18). -/
def State.ctxEntry (s : State) (asid : Nat) : Nat := s.entryAt (s.ctxBase + 8 * asid)

/-- The address lies in the code cache as the kiln maps it into a context with a Voxunet launch (R441). -/
def State.mapsCode (s : State) (asid va : Nat) : Bool :=
  codeBase ≤ va && va < codeBase + s.code.length * 2 ^ 20 && s.grids.any fun g => g.asid = asid && g.vox.isSome

/-- The leaf of a page of the code cache at a physical address (R441): valid, readable, EX set and WR clear. -/
def codeLeaf (pa : Nat) : Nat := 1 + 2 ^ 1 + 2 ^ 3 + 2 ^ 5 + pa / 4096 * 4096

/-- A walk (R24); the kiln's mapping of the code cache (R441) has no side record. -/
def walk (s : State) (asid va : Nat) (need : Need) (priv : Bool) : Except Flt Trans :=
  if va / 2 ^ 60 ≠ 0 then .error (pageFault 1)
  else
    let c := s.ctxEntry asid
    if !entryBit c 0 then .error (pageFault 8)
    else if !localTable (entryPpn c) 32768 then .error (pageFault 4)
    else if s.mapsCode asid va then
      let pa := codeArea + (va - codeBase)
      if refused (codeLeaf pa) need priv then .error (refusalOf need) else .ok ⟨pa, codeLeaf pa, 12, 0⟩
    else walkFrom s va need priv 5 1 (entryPpn c) 0

/-- The accessed bit of a successful walk (R24, R30). -/
def State.markAccessed (s : State) (t : Trans) : State :=
  if t.side = 0 then s else s.putNat (t.side + 64) 1 (s.natAt (t.side + 64) 1 ||| 1)

/-! ### Events of the kiln (R487) -/

/-- The state with an event written to the ring, or held when an earlier one is held, the ring is full or its fault slot is busy. -/
def State.ringRoom (s : State) : Bool :=
  s.host.ringLog2 ≠ 0 && (s.host.ringTail + 2 ^ 32 - s.natAt s.host.ring 4) % 2 ^ 32 < 2 ^ s.host.ringLog2

/-- The slot that the next fault block of a context takes, and whether it is free: the record that last named it lies below the ring's HEAD. -/
def State.faultSlot (s : State) (asid : Nat) : Nat × Bool :=
  let c := s.ctx asid
  let slot := c.nextFault % 2 ^ c.fblog2n
  (slot, s.host.slots.all fun x => !(x.1 = asid && x.2.1 = slot) ||
    (s.natAt s.host.ring 4 + 2 ^ 32 - (x.2.2 + 1)) % 2 ^ 32 < 2 ^ 31)

/-- An event can be written now. -/
def State.eventReady (s : State) (e : Event) : Bool :=
  s.ringRoom && match e.fault with
    | none => true
    | some (asid, _) => (s.faultSlot asid).2

/-- An event written: its fault block first, then its record with the PHASE bit of its index, then the ring's DTAIL. -/
def State.writeEvent (s : State) (e : Event) : State :=
  let idx := s.host.ringTail
  let phase := (idx / 2 ^ s.host.ringLog2 + 1) % 2
  let at_ := s.host.ring + 64 + 64 * (idx % 2 ^ s.host.ringLog2)
  let (s1, extra) := match e.fault with
    | none => (s, 0)
    | some (asid, block) =>
      let c := s.ctx asid
      let slot := (s.faultSlot asid).1
      let a := c.faultbuf.toNat + 2048 * slot
      let s' := (s.putBytes a block).modCtx asid fun c => { c with nextFault := c.nextFault + 1 }
      (s'.modHost fun h => { h with slots := h.slots.filter (fun (x : Nat × Nat × Nat) => !(x.1 = asid && x.2.1 = slot)) ++ [(asid, slot, idx)] }, a * 2 ^ 84)
  let s2 := s1.putNat at_ 64 (e.record.toNat + extra + phase)
  (s2.putNat (s.host.ring + 4) 4 (idx + 1)).modHost fun h => { h with ringTail := (idx + 1) % 2 ^ 32 }

/-- An event posted to the kiln. -/
def State.postEvent (s : State) (e : Event) : State :=
  if s.host.events.isEmpty && s.eventReady e then s.writeEvent e
  else s.modHost fun h => { h with events := h.events ++ [e] }

/-- The record of an event: TYPE, ASID, TIME and DATA from bit 84 (R487). -/
def State.eventRecord (s : State) (type asid data : Nat) : BitVec 512 :=
  BitVec.ofNat 512 (type * 16 + asid * 2 ^ 8 + s.cycle.toNat * 2 ^ 20 + data * 2 ^ 84)

/-- An event without a fault block. -/
def State.postSimple (s : State) (type asid data : Nat) : State := s.postEvent ⟨s.eventRecord type asid data, none⟩

/-- A LOG event (R487): an occurrence that repeats within a millisecond is counted and not written. -/
def State.logEvent (s : State) (code asid arg0 arg1 arg2 : Nat) : State :=
  let same (x : LogSeen) : Bool := x.code = code && x.asid = asid && x.arg0 = arg0
  match s.host.logs.find? same with
  | some x =>
    if s.cycle.toNat < x.at_ + 1300000 then
      s.modHost fun h => { h with logs := h.logs.map fun y => if same y then { y with skipped := min (y.skipped + 1) (2 ^ 32 - 1) } else y }
    else
      (s.postSimple 2 asid (code + arg0 * 2 ^ 16 + arg1 * 2 ^ 80 + arg2 * 2 ^ 144 + x.skipped * 2 ^ 208)).modHost fun h =>
        { h with logs := h.logs.map fun y => if same y then { y with at_ := s.cycle.toNat, skipped := 0 } else y }
  | none =>
    (s.postSimple 2 asid (code + arg0 * 2 ^ 16 + arg1 * 2 ^ 80 + arg2 * 2 ^ 144)).modHost fun h =>
      { h with logs := h.logs ++ [{ code, asid, arg0, at_ := s.cycle.toNat, skipped := 0 }] }

/-! ### The quad TLB (R34, R36) -/

/-- The TLB entry of a quad that covers an address. -/
def State.tlbFind (s : State) (quad asid va : Nat) : Option TlbEntry :=
  s.caches.tlb.find? fun e => e.quad = quad && e.asid = asid && e.base = va / 2 ^ e.log2 * 2 ^ e.log2

/-- The translation that a TLB entry gives, or its refusal. The entry holds the address as the leaf gives it, which the package routes as it is used (R17). -/
def State.tlbUse (s : State) (e : TlbEntry) (va : Nat) (need : Need) (priv : Bool) : Except Flt Trans :=
  if refused e.leaf.toNat need priv then .error (refusalOf need)
  else .ok ⟨s.localPa (e.pa + va % 2 ^ e.log2), e.leaf.toNat, e.log2, e.side⟩

/-- The TLB with the translation of a walk; as a 64 KiB run when `run` and the leaf is a member of one (R28). -/
def State.tlbInsert (s : State) (quad asid va : Nat) (t : Trans) (run : Bool) : State :=
  let log2 := if run && entryBit t.leaf 6 then 16 else t.log2
  let e : TlbEntry := { quad, asid, base := va / 2 ^ log2 * 2 ^ log2, log2, leaf := BitVec.ofNat 64 t.leaf, pa := entryPpn t.leaf / 2 ^ log2 * 2 ^ log2, side := t.side }
  s.modCaches fun c => { c with tlb := e :: c.tlb.filter fun x => !(x.quad = quad && x.asid = asid && x.base = e.base && x.log2 = log2) }

/-- The addresses of the entries that the levels of a walk read, from `n` on (R24). -/
def walkPath (s : State) (va : Nat) : Nat → Nat → Nat → List Nat
  | 0, _, _ => []
  | fuel + 1, n, table =>
    let a := table + 8 * levelIndex n va
    let e := s.entryAt a
    a :: (if entryBit e 0 && !entryBit e 5 && !reservedBroken e n && localTable (entryPpn e) (if n = 3 then 40960 else 4096) then walkPath s va fuel (n + 1) (entryPpn e) else [])

/-- The addresses of the entries that a walk reads, that of the context table first. -/
def State.walkReads (s : State) (asid va : Nat) : List Nat :=
  let c := s.ctxEntry asid
  (s.ctxBase + 8 * asid) :: (if entryBit c 0 && localTable (entryPpn c) 32768 && !s.mapsCode asid va then walkPath s va 5 1 (entryPpn c) else [])

/-- A read of a poisoned line by the device: the reading context is to be reset, and UNCORR is written (R495). -/
def State.meetPoison (s : State) (asid line : Nat) : State :=
  (s.postSimple 5 asid line).modKiln fun k => { k with resets := k.resets ++ [asid] }

/-- What a walk leaves, whether it succeeds or not: poisoned lines that it read are met. -/
def State.noteWalk (s : State) (asid va : Nat) : State :=
  if s.poison = [] then s
  else (((s.walkReads asid va).filterMap fun a => s.poisoned a 8).eraseDups).foldl (fun t l => t.meetPoison asid l) s

/-- A walk with what it leaves: the poison that it met, and after a success the accessed bit (R24). -/
def State.walked (s : State) (asid va : Nat) (need : Need) (priv : Bool) : Except Flt Trans × State :=
  match walk s asid va need priv with
  | .error f => (.error f, s.noteWalk asid va)
  | .ok t => (.ok t, (s.noteWalk asid va).markAccessed t)

/-- How an access is translated: by a TLB entry where there is one, by a walk that holds its page, or by a walk that holds its 64 KiB run. -/
def State.translate (s : State) (quad asid va : Nat) (need : Need) (priv : Bool) (how : Nat) : Except Flt Trans × State :=
  if va / 2 ^ 60 ≠ 0 then (.error (pageFault 1), s)
  else match (if how = 0 then s.tlbFind quad asid va else none) with
    | some e => (s.tlbUse e va need priv, s)
    | none => match s.walked asid va need priv with
      | (.error f, s1) => (.error f, s1)
      | (.ok t, s1) => (.ok t, s1.tlbInsert quad asid va t (how = 2))

/-- How the device translates an access of its own: for a core by its quad's TLB, for the kiln by a walk (R24, R34). -/
def State.through (s : State) (core : Option Nat) (asid va : Nat) (need : Need) (priv : Bool) : Except Flt Trans × State :=
  match core with
  | some c => s.translate (quadOf c) asid va need priv 0
  | none => s.walked asid va need priv

/-! ### Reads and writes at the home -/

/-- The HOME under which a page is served: HOME 10 without its owner's pin as 11 (R61), HOME 01 without a pin as 00 (R64). -/
def State.servedHome (s : State) (pa leaf : Nat) : Nat :=
  let pinned (p : Pin) : Bool := p.page = pa / 4096 && p.home = leafHome leaf && (p.home = 1 || p.owner = leafOwner leaf)
  match leafHome leaf with
  | 1 => if s.caches.pins.any pinned then 1 else 0
  | 2 => if s.caches.pins.any pinned then 2 else 3
  | h => h

/-- An access to a HOME 10 or 01 page that has no pin is logged by the kiln (R61, R64). -/
def State.notePin (s : State) (asid pa leaf : Nat) : State :=
  if leafHome leaf = 2 && s.servedHome pa leaf ≠ 2 then s.logEvent 2 asid (pa / 4096 * 4096) (leafOwner leaf) 0
  else if leafHome leaf = 1 && s.servedHome pa leaf ≠ 1 then s.logEvent 3 asid (pa / 4096 * 4096) (homeSlice pa) 0
  else s

/-- A free byte list, and the count of free values raised. -/
def State.freeBytes (s : State) (n : Nat) : List Byte × State :=
  ((List.range n).map fun j => Config.freeByte (s.fresh + j), { s with fresh := s.fresh + n })

/-- Bytes of a line as a mask. -/
def lineMask (off n : Nat) : BitVec 64 := BitVec.ofNat 64 ((2 ^ n - 1) * 2 ^ off)

/-- Bytes of a page have last been written under the other CMP value (R73). -/
def State.cmpMixed (s : State) (pa : Nat) (packed : Bool) : Bool :=
  s.caches.cmp.any fun c => c.line / 64 = s.localPa pa / 4096 && (if packed then c.plain else c.packed) ≠ 0

/-- The bytes of a part of a line are now written under a CMP value (R73). -/
def Caches.markCmp (c : Caches) (packed : Bool) (at_ n : Nat) : Caches :=
  let m := lineMask (at_ % 64) n
  let old := (c.cmp.find? fun x => x.line = at_ / 64).getD ⟨at_ / 64, 0, 0⟩
  let new : CmpLine := if packed then ⟨old.line, old.plain &&& ~~~m, old.packed ||| m⟩ else ⟨old.line, old.plain ||| m, old.packed &&& ~~~m⟩
  { c with cmp := c.cmp.filter (fun x => x.line ≠ at_ / 64) ++ [new] }

/-- A read at the home: the bytes as they are there; unpredictable when the page holds bytes written under the other CMP value (R73, log entry 84) and on a poisoned line, for which the context is to be reset and UNCORR is written (R495). -/
def State.readHome (s : State) (asid pa leaf n : Nat) : List Byte × State :=
  let s1 := s.notePin asid pa leaf
  match s1.poisoned pa n with
  | some l => (s1.meetPoison asid l).freeBytes n
  | none => if s1.cmpMixed pa (entryBit leaf 7) then s1.freeBytes n else (s1.bytesAt pa n, s1)

/-- The DIRTY bit of the page of `va` in a side record, set (R30, R31). -/
def State.setDirty (s : State) (side page : Nat) : State :=
  if side = 0 then s
  else s.putNat (side + page / 8) 1 (s.natAt (side + page / 8) 1 ||| 2 ^ (page % 8))

/-- The context tracks dirty pages (R18, R31). -/
def State.dte (s : State) (asid : Nat) : Bool := entryBit (s.ctxEntry asid) 1

/-- A line written to its stack: the DIRTY bits are set that its write-back is to set (R31, R32), and it is modified no longer. -/
def State.writeBack (s : State) (d : DirtyLine) : State :=
  (d.sides.foldl (fun t x => t.setDirty x.1 x.2) s).modCaches fun c => { c with dirty := c.dirty.filter fun x => x.pline ≠ d.pline }

/-- Lines of some 4 KiB pages whose home is a slice. -/
def linesAt (slice : Nat) (pages : List Nat) : Nat := ((pages.flatMap fun p => (List.range 64).map fun k => homeSlice (p * 4096 + 64 * k)).filter (· = slice)).length

/-- The pages that are pinned in the slices (R64). -/
def State.slicePins (s : State) : List Nat := (s.caches.pins.filter fun p => p.home = 1).map (·.page)

/-- A slice holds 32,768 lines (R1, R46), its pinned ones among them: where those and its modified HOME 00 lines are more, the lines modified longest are evicted (R64). -/
def State.sliceRoom (s : State) (slice : Nat) : State :=
  let mine := s.caches.dirty.filter fun d => d.home = 0 && homeSlice (d.pline * 64) = slice
  (mine.take (mine.length + linesAt slice s.slicePins - 32768)).foldl State.writeBack s

/-- A modified line kept with the side record that it was written under (R32) and the HOME under which it is served. -/
def noteModified (l : List DirtyLine) (pline home : Nat) (key : List (Nat × Nat)) : List DirtyLine :=
  match l.find? fun d => d.pline = pline with
  | some _ => l.map fun d => if d.pline = pline then { d with sides := d.sides ++ key.filter fun k => !d.sides.contains k, home } else d
  | none => l ++ [{ pline, sides := key, home }]

/-- What a write leaves at its home (R31): a HOME 00 line is modified there, and its write-back will set DIRTY; a pinned line is modified there, and DIRTY is set now, as on every write of HOME 11 and out of the package. -/
def State.noteDirty (s : State) (asid va pa leaf side : Nat) : State :=
  let page := va / 4096 % 512
  let h := s.servedHome pa leaf
  let out := windowOf (s.localPa pa) ≠ 0
  let s1 := if s.dte asid && (h ≠ 0 || out) then s.setDirty side page else s
  if h = 3 ∨ out then s1
  else (s1.modCaches fun c => { c with dirty := noteModified c.dirty (s.localPa pa / 64) h (if s.dte asid && h = 0 then [(side, page)] else []) }).sliceRoom (homeSlice (s.localPa pa))

/-- Pieces of a range of addresses that no 64-byte line boundary cuts: address and length. -/
def linePieces : Nat → Nat → Nat → List (Nat × Nat)
  | 0, _, _ => []
  | fuel + 1, va, n => if n = 0 then [] else
    let k := min n (64 - va % 64)
    (va, k) :: linePieces fuel (va + k) (n - k)

/-- The pieces of a range. -/
def pieces (va n : Nat) : List (Nat × Nat) := linePieces (n / 64 + 2) va n

/-- The bytes of a write at the home (R31, R32, R64), with the dirty marks and the CMP value. -/
def State.storeHome (s : State) (asid va pa leaf side : Nat) (bs : List Byte) : State :=
  ((s.putBytes pa bs).noteDirty asid va pa leaf side).modCaches fun c =>
    (pieces (s.localPa pa) bs.length).foldl (fun k p => k.markCmp (entryBit leaf 7) p.1 p.2) c

/-- A write at the home as one access: the pin's log (R61, R64), then the bytes. -/
def State.writeHome (s : State) (asid va pa leaf side : Nat) (bs : List Byte) : State :=
  (s.notePin asid pa leaf).storeHome asid va pa leaf side bs

/-! ### The L1 (R47 to R55) -/

/-- The line of a core's L1 with a tag. -/
def findLine (ls : List CacheLine) (core asid line : Nat) (decoded : Bool) : Option CacheLine :=
  ls.find? fun l => l.core = core && l.asid = asid && l.line = line && l.decoded = decoded

/-- Bytes of a line, from an offset. -/
def lineBytes (d : BitVec 512) (off n : Nat) : List Byte := bytesOfNat n (d.toNat / 2 ^ (8 * off))

/-- A line with bytes replaced from an offset. -/
def lineWith (d : BitVec 512) (off : Nat) (bs : List Byte) : BitVec 512 :=
  let n := bs.length
  BitVec.ofNat 512 (d.toNat % 2 ^ (8 * off) + natOfBytes bs * 2 ^ (8 * off) + d.toNat / 2 ^ (8 * (off + n)) * 2 ^ (8 * (off + n)))

/-- The reverse map of R37: no line of the core's L1 holds the physical line under another tag. Lines of decoded texels are left out, since they hold no byte of the physical line (DESIGN CHOICE, log entry 85). -/
def dropSynonyms (ls : List CacheLine) (core asid line pline : Nat) : List CacheLine :=
  ls.filter fun l => !(l.core = core && l.pline = pline && !l.decoded && !(l.asid = asid && l.line = line))

/-- Room made in a set of 16 ways: the named victim, or the line longest held, among the unlocked lines (replacement is not architected, R47). -/
def makeRoom (ls : List CacheLine) (core set : Nat) (victim : Option Nat) : List CacheLine :=
  let inSet (l : CacheLine) : Bool := l.core = core && l.line % 1024 = set
  if (ls.filter inSet).length < 16 then ls
  else
    let out := (ls.find? fun l => inSet l && !l.locked && some l.line = victim).orElse fun _ => ls.find? fun l => inSet l && !l.locked
    match out with
    | some v => ls.filter fun l => l ≠ v
    | none => ls

/-- The L1 with a line installed. -/
def installLine (ls : List CacheLine) (l : CacheLine) (victim : Option Nat) : List CacheLine :=
  let ls1 := if l.decoded then ls else dropSynonyms ls l.core l.asid l.line l.pline
  let ls2 := ls1.filter fun x => !(x.core = l.core && x.asid = l.asid && x.line = l.line && x.decoded = l.decoded)
  let ls3 := makeRoom ls2 l.core (l.line % 1024) victim
  if (ls3.filter fun x => x.core = l.core && x.line % 1024 = l.line % 1024).length < 16 then ls3 ++ [l] else ls3

/-- The core's L1 line with bytes of a store written into it, when it holds the line (R47). -/
def storeIntoL1 (ls : List CacheLine) (core asid va : Nat) (bs : List Byte) : List CacheLine :=
  ls.map fun l => if l.core = core && l.asid = asid && l.line = va / 64 && !l.decoded then { l with data := lineWith l.data (va % 64) bs } else l

/-- Whether a leaf lets a line into an L1 (R48). -/
def fillsL1 (leaf : Nat) : Bool := leafHome leaf ≤ 1

/-- A fill of the context's loads may be installed: not while its operation-order log records or replays (R48, R205). -/
def State.fills (s : State) (asid leaf : Nat) : Bool := fillsL1 leaf && bitsOf (s.ctx asid).ordlog.toNat 0 2 = 0

/-- Every unlocked line of a core removed; a fill asked for before is not installed (R50). -/
def State.invalidateL1 (s : State) (core : Nat) : State :=
  { s.modCaches fun c => { c with l1 := c.l1.filter fun l => l.core ≠ core || l.locked } with
    flights := s.flights.map fun a => if a.core = core && a.lanes.any (fun l => l.status = .ready) then { a with noInstall := true } else a }

/-- How many lines a context has locked on a core (R53). -/
def State.lockCount (s : State) (core asid : Nat) : Nat :=
  (s.caches.l1.filter fun l => l.core = core && l.asid = asid && l.locked).length

/-! ### Accesses of the device itself through a context -/

/-- A read through a context's page table at the homes, for a core or for the kiln, whole or refused with the first fault's address. -/
def State.homeRead (s : State) (core : Option Nat) (asid va n : Nat) (need : Need) (priv : Bool) : Except (Flt × Nat) (List Byte × State) :=
  (pieces va n).foldl (init := .ok ([], s)) fun acc p => do
    let (bs, s1) ← acc
    match s1.through core asid p.1 need priv with
    | (.error f, _) => .error (f, p.1)
    | (.ok t, s2) =>
      let (b, s3) := s2.readHome asid t.pa t.leaf p.2
      .ok (bs ++ b, s3)

/-- The kiln's read. -/
def State.ctxRead (s : State) (asid va n : Nat) (need : Need) (priv : Bool) : Except (Flt × Nat) (List Byte × State) :=
  s.homeRead none asid va n need priv

/-- A write through a context's page table at the homes; of a core it goes through its quad's TLB (R34) and writes its L1 line too (R47). Nothing is written if any piece faults. -/
def State.ctxWrite (s : State) (asid va : Nat) (bs : List Byte) (need : Need) (priv : Bool) (core : Option Nat) : Except (Flt × Nat) State :=
  match (pieces va bs.length).findSome? fun p => match (s.through core asid p.1 need priv).1 with
    | .error f => some (f, p.1)
    | .ok _ => none with
  | some e => .error e
  | none => .ok ((pieces va bs.length).foldl (init := s) fun s1 p =>
      match s1.through core asid p.1 need priv with
      | (.error _, _) => s1
      | (.ok t, s2) =>
        let b := (bs.drop (p.1 - va)).take p.2
        let s3 := s2.writeHome asid p.1 t.pa t.leaf t.side b
        match core with
        | some c => s3.modCaches fun x => { x with l1 := storeIntoL1 (dropSynonyms x.l1 c asid (p.1 / 64) (t.pa / 64)) c asid p.1 b }
        | none => s3)

/-- A number read through a context. -/
def State.ctxNat (s : State) (asid va n : Nat) (need : Need) (priv : Bool) : Except (Flt × Nat) (Nat × State) :=
  (s.ctxRead asid va n need priv).map fun r => (natOfBytes r.1, r.2)

/-- A read that the kiln makes through a context: its address, its length (0 for a walk alone), what it needs, and whether it is privileged. -/
structure Look where
  va : Nat
  len : Nat
  need : Need
  priv : Bool
deriving DecidableEq, Repr

/-- A read as a load would be made. -/
def plainLook (va len : Nat) : Look := ⟨va, len, needRead, false⟩

/-- A read or walk as a port access makes it (R350). -/
def portLook (va len : Nat) : Look := ⟨va, len, needBoth, false⟩

/-- What a read of the kiln leaves, whether it succeeds or not: the accessed bits of its successful walks (R24, R30) and the poison that it met (R495). Whether no part of it faulted, too. -/
def State.noteLook (s : State) (asid : Nat) (l : Look) : Bool × State :=
  (if l.len = 0 then [(l.va, 0)] else pieces l.va l.len).foldl (init := (true, s)) fun acc p =>
    if !acc.1 then acc
    else match acc.2.through none asid p.1 l.need l.priv with
      | (.error _, s1) => (false, s1)
      | (.ok t, s1) => (true, if p.2 = 0 then s1 else (s1.readHome asid t.pa t.leaf p.2).2)

/-- What some reads of the kiln leave, made in turn up to the first that faults. -/
def State.noteReads (s : State) (asid : Nat) (l : List Look) : State :=
  (l.foldl (init := (true, s)) fun acc x => if acc.1 then acc.2.noteLook asid x else acc).2

/-- An operation of the kiln after the reads that it makes; the free values that it takes for what they read are used up. -/
def State.afterReads (s : State) (asid : Nat) (l : List Look) (f : State → State) : State :=
  let u := s.noteReads asid l
  let v := f u
  { v with fresh := v.fresh + (u.fresh - s.fresh) }

/-- `n` bytes read at a physical address by the kiln for a context: free on a poisoned line, which is met (R495). -/
def State.kilnRead (s : State) (asid pa n : Nat) : List Byte × State :=
  match s.poisoned pa n with
  | some l => (s.meetPoison asid l).freeBytes n
  | none => (s.bytesAt pa n, s)

end Sys2Proof.Machine
end

