-- ==== Sys2Proof/Machine/Owners.lean ====
section
/-! DEFINITION. Which lines a wave may access now: the ownership table and the staging buffer of deterministic mode (R166, R167), the lines that a logged access names (R196), and the operation-order log (R205). -/

namespace Sys2Proof.Machine

/-! ### Ownership in deterministic mode (R166) -/

/-- Whose a line is: none where it is shared, else the index of the gang it is private to. -/
def Grid.ownerOf (g : Grid) (va : Nat) : Option Nat :=
  if !g.det then none
  else match g.owners.find? fun e => bitsOf e.toNat 6 54 ≤ va / 64 && va / 64 < bitsOf e.toNat 6 54 + bitsOf e.toNat 64 32 with
    | some e =>
      let per := bitsOf e.toNat 96 32
      if per = 0 then none
      else
        let i := (va / 64 - bitsOf e.toNat 6 54) / per
        if i < g.ngang then some i else none
    | none => none

/-- The gang and the grid of a wave. -/
def State.home? (s : State) (w : Wave) : Option (Gang × Grid) := do
  let g ← s.gang? w.gang
  let gr ← s.grid? g.grid
  pure (g, gr)

/-- The line belongs to another gang, so that the access is refused (R166). -/
def State.foreign (s : State) (w : Wave) (va : Nat) : Bool :=
  match s.home? w with
  | some (g, gr) => match gr.ownerOf va with | some i => i ≠ g.index | none => false
  | none => false

/-- The line is the gang's own private one (R166, R167). -/
def State.isOwnLine (s : State) (w : Wave) (va : Nat) : Bool :=
  match s.home? w with
  | some (g, gr) => gr.ownerOf va = some g.index
  | none => false

/-- A staging buffer with a byte of a thread: kept by address and logical thread index, the greater index last, so that at a merge it stands (R167). -/
def stageByte (l : List (Nat × Byte × Nat)) (a : Nat) (b : Byte) (lti : Nat) : List (Nat × Byte × Nat) :=
  l.filter (fun e => e.2.2 ≤ lti && !(e.1 = a && e.2.2 = lti)) ++ [(a, b, lti)] ++ l.filter fun e => lti < e.2.2

/-- Bytes staged by a thread of a gang. -/
def State.stage (s : State) (gang : Nat) (va : Nat) (bs : List Byte) (lti : Nat) : State :=
  s.modGang gang fun g => { g with staged := (List.range bs.length).foldl (fun l j => stageByte l (va + j) ((bs[j]?).getD 0) lti) g.staged }

/-- Bytes of memory overlaid with what some threads have staged. -/
def overlayStaged (staged : List (Nat × Byte × Nat)) (mine : Nat → Bool) (va : Nat) (bs : List Byte) : List Byte :=
  (List.range bs.length).map fun j =>
    (staged.filter fun e => e.1 = va + j && mine e.2.2).foldl (fun _ e => e.2.1) ((bs[j]?).getD 0)

/-- Bytes of memory as they stood after a gang's last merge (R167). -/
def overlayBefore (before : List (Nat × Byte)) (va : Nat) (bs : List Byte) : List Byte :=
  (List.range bs.length).map fun j => match before.find? fun e => e.1 = va + j with | some e => e.2 | none => (bs[j]?).getD 0

/-- `n` bytes that are about to be written at their home, kept as they stand where they lie on the gang's private line and are not kept yet: its loads see them until its next merge (R167). -/
def State.keepBefore (s : State) (gang va pa n : Nat) : State :=
  match s.gang? gang with
  | none => s
  | some g => match s.grid? g.grid with
    | none => s
    | some gr => if gr.ownerOf va ≠ some g.index then s else
      let bs := s.bytesAt pa n
      s.modGang gang fun x => { x with before := (List.range n).foldl (init := x.before) fun l j =>
        if (l.any fun e => e.1 = va + j) then l else l ++ [(va + j, (bs[j]?).getD 0)] }

/-- Bytes of a private line as its wave sees them: as they stood after the gang's last merge, overlaid with what the wave has staged (R167). -/
def State.overlaid (s : State) (w : Wave) (va : Nat) (bs : List Byte) : List Byte :=
  match s.home? w with
  | none => bs
  | some (ga, gr) =>
    if gr.ownerOf va = some ga.index then
      overlayStaged ga.staged (fun lti => (List.range 32).any fun l => logicalThread gr ga w l = lti) va (overlayBefore ga.before va bs)
    else bs

/-! ### Lines that a logged access names (R196) -/

/-- A global access, which is translated. -/
def AccKind.isGlobal : AccKind → Bool
  | .localLoad _ | .localStore _ | .arrive _ | .fence _ => false
  | _ => true

/-- A level-of-detail read: its addresses are found as it is performed. -/
def AccKind.isLod : AccKind → Bool
  | .lod _ _ _ _ => true
  | _ => false

/-- The lane met a fault. -/
def AccLane.bad (l : AccLane) : Bool := match l.status with | .faulted _ _ _ => true | _ => false

/-- A logged access of the wave before a name, a lane's that faulted, names the line of an address (R195, R196). One that a trap has taken holds no access of the handler that is to replay it. -/
def State.lineNamed (s : State) (wave before va : Nat) (priv : Bool) : Bool :=
  s.flights.any fun a => a.wave = wave && a.id < before && a.kind.isGlobal && !(priv && a.taken) && a.lanes.any fun l => l.bad && l.va / 64 = va / 64

/-- A wave that reads as an access of a name, where the rules of its own accesses apply to a read: ownership, staging and homes in deterministic mode (R165 to R167), and the lines that its logged accesses name (R196). -/
structure Reader where
  wave : Wave
  name : Nat
deriving DecidableEq, Repr

/-- What keeps a reader from the line of an address: another gang's line (R166), or one that a logged access names (R196). -/
def State.refuses (s : State) (who : Option Reader) (va : Nat) (priv : Bool) (wait : Flt) : Option Flt :=
  who.bind fun r => if s.foreign r.wave va then some ⟨2, 0, false⟩ else if s.lineNamed r.wave.id r.name va priv then some wait else none

/-- A reader of a deterministic launch, which reads at the home (R165). -/
def State.detReader (s : State) (who : Option Reader) : Bool := who.any fun r => (s.home? r.wave).any fun h => h.2.det

/-! ### The operation-order log (R205) -/

/-- A home's answer to an access: it is held, the log is full (noted as an event), or it may be performed. -/
inductive HomeTurn where
  | held
  | full (s : State)
  | go (s : State)
deriving DecidableEq, Repr

/-- An entry of the log: the line, the logical wave and its logical time. -/
def orderEntry (line wave time : Nat) : Nat := line % 2 ^ 46 + wave % 2 ^ 32 * 2 ^ 48 + time % 2 ^ 48 * 2 ^ 80

/-- The next entry of the log for a line: its index, and the logical wave it names. -/
def State.nextOrder (s : State) (asid line : Nat) : Option (Nat × Nat) :=
  let c := s.ctx asid
  let base := c.ordlog.toNat / 64 * 64
  let pos := c.ordpos.toNat
  (List.range (c.ordlen.toNat - pos)).findSome? fun j =>
    if s.caches.ordUsed.contains (asid, pos + j) then none
    else match s.ctxNat asid (base + 16 * (pos + j)) 16 needRead true with
      | .ok (e, _) => if bitsOf e 0 46 = line % 2 ^ 46 then some (pos + j, bitsOf e 48 32) else none
      | .error _ => none

/-- The state with the entry of a replayed log used; ORDPOS goes past the entries used in a row. -/
def State.useOrder (s : State) (asid idx : Nat) : State :=
  let used := (asid, idx) :: s.caches.ordUsed
  let pos := (s.ctx asid).ordpos.toNat
  let n := ((List.range (used.length + 1)).find? fun j => !used.contains (asid, pos + j)).getD 0
  (s.modCaches fun c => { c with ordUsed := used.filter fun u => !(u.1 = asid && u.2 < pos + n) }).modCtx asid fun c =>
    { c with ordpos := BitVec.ofNat 64 (pos + n) }

/-- The turn of an access by a logical wave at a line's home: in a recording an entry is written when another wave accessed the line last; in a replay the access waits until the line's next entry names its wave. An access of a context that neither records nor replays leaves the line to the next one as another wave's. R205 does not say what becomes of an entry whose write faults: the access is performed and ORDPOS goes past the entry all the same (DESIGN CHOICE, log entry 85). -/
def State.orderTurn (s : State) (asid line lw time : Nat) (det : Bool) : HomeTurn :=
  let c := s.ctx asid
  let me := asid * 2 ^ 32 + lw % 2 ^ 32
  let noted (t : State) : State := t.modCaches fun k => { k with lastWave := (line, me) :: k.lastWave.filter fun x => x.1 ≠ line }
  if !c.ordlog.getLsbD 0 && !c.ordlog.getLsbD 1 then
    .go (if s.caches.lastWave.any fun x => x.1 = line then s.modCaches fun k => { k with lastWave := k.lastWave.filter fun x => x.1 ≠ line } else s)
  else if s.caches.lastWave.contains (line, me) then .go s
  else if c.ordlog.getLsbD 1 then
    match s.nextOrder asid line with
    | none => .held
    | some (idx, named) => if named = lw % 2 ^ 32 then .go (noted (s.useOrder asid idx)) else .held
  else if det then .go s
  else if c.ordlen.toNat ≤ c.ordpos.toNat then .full (s.logEvent 7 asid c.ordpos.toNat c.ordlen.toNat 0)
  else
    let at_ := c.ordlog.toNat / 64 * 64 + 16 * c.ordpos.toNat
    let s1 := match s.ctxWrite asid at_ (bytesOfNat 16 (orderEntry line lw time)) needWrite true none with
      | .ok t => t
      | .error _ => s
    .go (noted (s1.modCtx asid fun k => { k with ordpos := k.ordpos + 1 }))

/-! ### Readers -/

/-- Bytes as a reader sees them (R167). -/
def State.seenBy (s : State) (who : Option Reader) (va : Nat) (bs : List Byte) : List Byte :=
  match who with
  | some r => s.overlaid r.wave va bs
  | none => bs

end Sys2Proof.Machine
end

