-- ==== Sys2Proof/Machine/Lod.lean ====
section
/-! DEFINITION. Resource entries (R43, R44), reads through the L1 and the buffers of the traversal and filter units, decoded texture lines (R69, R70), level-of-detail entries and the fallback chain (R74 to R88), and cone-ring pushes up to the filter (R91, R92). -/

namespace Sys2Proof.Machine

/-! ### Reads through a core's caches -/

/-- A fault with the address at which it was met. -/
abbrev FltAt := Flt × Nat

/-- A fault with its address, and the state as the walks and reads made before it leave it (R24, R30). -/
abbrev Failed := Flt × Nat × State

/-- What an access at an address gives, its fault with the address. -/
def atVa {α : Type} (va : Nat) (s : State) : Except Flt α → Except Failed α
  | .ok x => .ok x
  | .error f => .error (f, va, s)

/-- A free choice: whether a buffer still holds a line. -/
def State.keeps (s : State) : Bool × State := (Config.keepsLine s.fresh, { s with fresh := s.fresh + 1 })

/-- A line of memory as a 512-bit value, read at the home. -/
def State.lineHome (s : State) (asid pa leaf : Nat) : BitVec 512 × State :=
  let (bs, s1) := s.readHome asid (pa / 64 * 64) leaf 64
  (BitVec.ofNat 512 (natOfBytes bs), s1)

/-- The mark of a read that must wait: a write of its own core to the line is on its way (R47, R107). It is no fault. -/
def heldFlt : Flt := ⟨99, 0, false⟩

/-- The mark of a read that must wait for a replay (R196). It is no fault. -/
def waitFlt : Flt := ⟨99, 1, false⟩

/-- The mark of a read that a full operation-order log holds (R205). It is no fault. -/
def fullFlt : Flt := ⟨99, 2, false⟩

/-- A mark of a read that must wait. -/
def Flt.held (f : Flt) : Bool := f = heldFlt || f = waitFlt || f = fullFlt

/-- A reader's turn at the home of a line (R205): the state with the turn taken, or the mark of a wait. -/
def State.readTurn (s : State) (who : Option Reader) (asid pa : Nat) : Except Flt State :=
  match who.bind fun r => (s.home? r.wave).map fun h => s.orderTurn asid (s.localPa pa / 64) (logicalWave h.2 h.1 r.wave) r.wave.time.toNat h.2.det with
  | none => .ok s
  | some .held => .error heldFlt
  | some (.full _) => .error fullFlt
  | some (.go t) => .ok t

/-- Writes to global memory. -/
def AccKind.writes : AccKind → Bool
  | .store _ | .atomic _ _ _ | .cas _ | .multi _ _ => true
  | _ => false

/-- A write that the ordering point of a core's die has accepted stands before a request of the core to its line (R108): it is ahead of every later request of the die. `place` is the request's own place in that order, 0 for none. -/
def State.acceptedHeld (s : State) (core pa place : Nat) : Bool :=
  s.flights.any fun b => dieOf b.core = dieOf core && b.kind.writes && b.lanes.any fun m =>
    m.status = .ready && m.accepted ≠ 0 && (place = 0 || m.accepted < place) && m.pa / 64 = pa / 64

/-- A write of the core to a line is not acknowledged by its home, or its die's ordering point has accepted a write to it that is not performed (R107, R108). -/
def State.lineBusy (s : State) (core asid va pa : Nat) : Bool :=
  s.acceptedHeld core (s.localPa pa) 0 || s.flights.any fun b => b.core = core && b.kind.writes && b.lanes.any fun m => match m.status with
      | .fresh => b.asid = asid && m.va / 64 = va / 64
      | .reported | .ready | .performed => m.pa / 64 = s.localPa pa / 64
      | _ => false

/-- A read of at most a line through the core's L1 (R47): from the line where it is held and PV allows it, else translated, filled from the home and installed where the leaf allows it (R48). With `always` the read is translated first (R34: level-of-detail loads). A reader of a deterministic launch reads at the home. -/
def State.l1Read (s : State) (core asid va n : Nat) (priv always node noFill : Bool) (who : Option Reader := none) : Except Flt (List Byte × State) :=
  match s.refuses who va priv waitFlt with
  | some f => .error f
  | none =>
  let det := s.detReader who
  let hit := (findLine s.caches.l1 core asid (va / 64) false).filter fun l => (!l.pv || priv) && !det
  let tr := if always || hit.isNone then some (s.translate (quadOf core) asid va needRead priv 0) else none
  match tr, hit with
  | none, some l => .ok (lineBytes l.data (va % 64) n, s)
  | some (.error f, _), _ => .error f
  | some (.ok _, s1), some l => .ok (lineBytes l.data (va % 64) n, s1)
  | some (.ok t, s1), none =>
    if s1.lineBusy core asid va t.pa then .error heldFlt
    else match s1.readTurn who asid t.pa with
    | .error f => .error f
    | .ok s0 =>
    let (d, s2) := s0.lineHome asid t.pa t.leaf
    let line : CacheLine := ⟨core, asid, va / 64, t.pa / 64, d, entryBit t.leaf 4, false, false, node, va / 64⟩
    .ok (s2.seenBy who va (lineBytes d (va % 64) n), if s.fills asid t.leaf && !noFill && !det then s2.modCaches fun c => { c with l1 := installLine c.l1 line none } else s2)
  | none, none => .error (pageFault 0)

/-- A node line, whole, through the unit's node-line buffer and the L1 (R255, R398). -/
def State.nodeRead (s : State) (core asid va : Nat) (priv : Bool) (who : Option Reader := none) : Except Failed (BitVec 512 × State) :=
  if va / 2 ^ 60 ≠ 0 then .error (pageFault 1, va, s)
  else if va % 64 ≠ 0 then .error (⟨4, 0, false⟩, va, s)
  else
    let read (x : State) : Except Failed (BitVec 512 × State) := do
      let (bs, x1) ← atVa va x (x.l1Read core asid (va / 64 * 64) 64 priv false true false who)
      let d := BitVec.ofNat 512 (natOfBytes bs)
      let pv := match walk x1 asid va needRead true with | .ok t => entryBit t.leaf 4 | .error _ => false
      let pl := match walk x1 asid va needRead true with | .ok t => t.pa / 64 | .error _ => 0
      pure (d, x1.modCaches fun c => { c with nodes := c.nodes.filter (fun l => !(l.core = core && l.asid = asid && l.line = va / 64)) ++
        [⟨core, asid, va / 64, pl, d, pv, false, false, true, va / 64⟩] })
    match findLine s.caches.nodes core asid (va / 64) false with
    | some l => if (l.pv && !priv) || s.detReader who then read s else
        let (k, s1) := s.keeps
        if k then .ok (l.data, s1) else read s1
    | none => read s

/-! ### Resource entries (R43, R44) -/

/-- A resource entry as a number, and its fields. -/
abbrev Entry := BitVec 512
/-- Bits of an entry. -/
def Entry.f (e : Entry) (lo len : Nat) : Nat := bitsOf e.toNat lo len
/-- BASE. -/
def Entry.base (e : Entry) : Nat := e.f 0 64
/-- SIZE. -/
def Entry.size (e : Entry) : Nat := e.f 64 64
/-- KIND. -/
def Entry.kind (e : Entry) : Nat := e.f 128 4
/-- LODR, which KIND 2, 3 and 4 alone can have (R44). -/
def Entry.lodr (e : Entry) : Bool := e.f 132 1 = 1 && 2 ≤ e.kind && e.kind ≤ 4
/-- FORMAT. -/
def Entry.format (e : Entry) : Nat := e.f 136 8
/-- FLAGS. -/
def Entry.flags (e : Entry) : Nat := e.f 144 16
/-- MAP (R74): a 64-bit address in bits 223:160. -/
def Entry.map (e : Entry) : Nat := e.f 160 64
/-- TAIL. -/
def Entry.tail (e : Entry) : Nat := e.f 224 4
/-- GROUPS. -/
def Entry.groups (e : Entry) : Nat := e.f 232 24
/-- LW (R75, R408). -/
def Entry.lw (e : Entry) : Nat := e.f 256 4
/-- LH. -/
def Entry.lh (e : Entry) : Nat := e.f 260 4
/-- GY. -/
def Entry.gy (e : Entry) : Nat := e.f 264 4
/-- PLANES (R76). -/
def Entry.planes (e : Entry) : Nat := e.f 256 4
/-- SIGNED. -/
def Entry.signed (e : Entry) : Bool := e.f 260 1 = 1
/-- PSTRIDE. -/
def Entry.pstride (e : Entry) : Nat := e.f 288 32
/-- ELEMS. -/
def Entry.elems (e : Entry) : Nat := e.f 320 64
/-- NODES (R77, R396). -/
def Entry.nodes (e : Entry) : Nat := e.f 256 32

/-- A resource entry by its index: RESIDX where the index is out of range or the entry is empty or reserved (R44); the entry is read through the L1 (R45). -/
def State.resource (s : State) (gr : Grid) (core idx : Nat) (priv : Bool) : Except Failed (Entry × State) :=
  let va := (gr.restab + 64 * idx) % 2 ^ 64
  if gr.rescount ≤ idx then .error (pageFault 7, va, s)
  else do
    let (bs, s1) ← atVa va s (s.l1Read core gr.asid va 64 priv false false false)
    let e : Entry := BitVec.ofNat 512 (natOfBytes bs)
    if e.kind = 0 ∨ 5 ≤ e.kind then .error (pageFault 7, va, s1) else .ok (e, s1)

/-- Bytes of a texel of an uncompressed format, or of a block (R409). -/
def texelBytes (format : Nat) : Option Nat :=
  match format with
  | 0x01 => some 1
  | 0x02 => some 2
  | 0x04 => some 4
  | 0x12 => some 8
  | 0x20 => some 4
  | 0x22 => some 16
  | 0x40 | 0x41 | 0x42 | 0x43 => some 16
  | _ => none

/-- A block-compressed format (R69). -/
def isBlock (format : Nat) : Bool := 0x40 ≤ format && format ≤ 0x43

/-- Width or height of a level (R79). -/
def levelDim (log2 l : Nat) : Nat := if l ≤ log2 then 2 ^ (log2 - l) else 1

/-- S_l (R79). -/
def Entry.levelSize (e : Entry) (l : Nat) : Nat :=
  let w := levelDim e.lw l
  let h := levelDim e.lh l
  let b := (texelBytes e.format).getD 0
  if isBlock e.format then ceilDiv w 4 * ceilDiv h 4 * 16 else w * h * b

/-- LOFS(l) (R79). -/
def Entry.levelOfs (e : Entry) : Nat → Nat
  | 0 => 0
  | l + 1 => e.levelOfs l + ceilDiv (e.levelSize l) 64 * 64

/-- The last level of a texture with LODR = 1 (R408). -/
def Entry.maxLevel (e : Entry) : Nat := max e.lw e.lh

/-- An ill-formed entry with LODR = 1 (R78): of a texture the must-be-zero bits of FLAGS (R410) count too. -/
def Entry.illFormed (e : Entry) : Bool :=
  e.f 133 3 ≠ 0 || (e.kind = 2 && e.f 151 9 ≠ 0) || bitsOf e.base 60 4 ≠ 0 || bitsOf e.map 0 6 ≠ 0 || bitsOf e.map 60 4 ≠ 0 || e.f 228 4 ≠ 0 || 2 ^ 40 < e.size || e.groups = 0 ||
  (match e.kind with
  | 2 =>
    e.f 268 244 ≠ 0 || (texelBytes e.format).isNone || e.lw < e.gy || e.lh < e.gy || e.groups ≠ 2 ^ (e.lh - e.gy) ||
    e.maxLevel < e.tail || (List.range e.tail).any fun l => e.levelSize l % (e.groups * 4096) ≠ 0
  | 4 =>
    e.f 261 27 ≠ 0 || e.f 384 128 ≠ 0 || e.planes < 2 || 8 < e.planes || e.planes < e.tail + 2 ||
    e.groups ≠ ceilDiv e.elems 32768 || e.pstride < e.groups
  | 3 => e.f 288 224 ≠ 0 || e.nodes = 0 || e.format ≠ 0 || e.flags ≠ 0
  | _ => true)

/-! ### Texels -/

/-- The offset of the datum of an uncompressed texel, or of its block, within the resource (R70, R79). -/
def Entry.texelOfs (e : Entry) (x y l : Nat) : Nat :=
  let w := levelDim e.lw l
  let b := (texelBytes e.format).getD 1
  if isBlock e.format then e.levelOfs l + ((y / 4) * ceilDiv w 4 + x / 4) * 16 else e.levelOfs l + (y * w + x) * b

/-- The byte ranges, address and length, that a level-of-detail load of datum (x, y) from a wanted level on may read, whatever its map says (R85): the map byte, and the datum at each level; of a node pool, the map and the pool. -/
def Entry.lodSpans (e : Entry) (size level x y : Nat) : List (Nat × Nat) :=
  if !e.lodr || e.illFormed then []
  else match e.kind with
    | 2 =>
      let l := min level e.maxLevel
      let x := min x (levelDim e.lw l - 1)
      let y := min y (levelDim e.lh l - 1)
      (e.map + y * 2 ^ l / 2 ^ e.gy, 1) :: (List.range (max l e.tail + 1 - l)).map fun k =>
        ((e.base + e.texelOfs (x / 2 ^ k) (y / 2 ^ k) (l + k)) % 2 ^ 64, if isBlock e.format then 16 else 2 ^ (size / 2))
    | 4 => if e.elems ≤ x then [] else
      (e.map + x / 32768, 1) :: (List.range (e.planes - min level e.tail)).map fun k => ((e.base + k * e.pstride * 4096 + x / 8) % 2 ^ 64, 1)
    | _ => [(e.map, e.groups), (e.base, 64 * e.nodes)]

/-- A block decoded to its texel `i` (R69). -/
def decodeTexel (format : Nat) (block : BitVec 128) (i : Nat) : Word :=
  match format with
  | 0x40 => decodeBc3 block.toNat i
  | 0x41 => decodeBc5 block.toNat i
  | 0x42 => decodeBc7 block.toNat i
  | _ => (decodeAstc block.toNat i).getD 0xFFFF00FF

/-- A block decoded to its line (R70). -/
def decodeBlock (format : Nat) (block : BitVec 128) : BitVec 512 :=
  BitVec.ofNat 512 ((List.range 16).foldl (fun n i => n + (decodeTexel format block i).toNat * 2 ^ (32 * i)) 0)

/-- A texel of a block texture through the L1's decoded line, filled where it is absent (R70, R71). Neither R78 nor R411 sets an alignment of a block texture's BASE: a block that is not at a multiple of 16 raises no ALIGN, and its 16 physically contiguous bytes are read (DESIGN CHOICE, log entry 91). -/
def State.blockTexel (s : State) (core asid : Nat) (e : Entry) (x y l : Nat) (priv always : Bool) (who : Option Reader := none) : Except Failed (List Byte × State) :=
  let ofs := e.texelOfs x y l
  let va := (e.base + ofs) % 2 ^ 64
  match s.refuses who va priv waitFlt with
  | some f => .error (f, va, s)
  | none =>
  let det := s.detReader who
  let line := (e.base + 4 * ofs) % 2 ^ 64 / 64
  let off := 4 * (4 * (y % 4) + x % 4)
  let hit := (findLine s.caches.l1 core asid line true).filter fun c => (!c.pv || priv) && !det
  match (if always || hit.isNone then some (s.translate (quadOf core) asid va needRead priv 0) else none), hit with
  | none, some c => .ok (lineBytes c.data off 4, s)
  | some (.error f, _), _ => .error (f, va, s)
  | some (.ok _, s1), some c => .ok (lineBytes c.data off 4, s1)
  | some (.ok t, s1), none =>
    if s1.lineBusy core asid va t.pa then .error (heldFlt, va, s1)
    else match s1.readTurn who asid t.pa with
    | .error f => .error (f, va, s1)
    | .ok s0 =>
    let (bs, s2) := s0.readHome asid t.pa t.leaf 16
    let d := decodeBlock e.format (BitVec.ofNat 128 (natOfBytes (s2.seenBy who va bs)))
    .ok (lineBytes d off 4, if s.fills asid t.leaf && !det then s2.modCaches fun c =>
      { c with l1 := installLine c.l1 ⟨core, asid, line, t.pa / 64, d, entryBit t.leaf 4, false, true, false, va / 64⟩ none } else s2)
  | none, none => .error (pageFault 0, va, s)

/-- A texel read through the filter unit's texel buffer and the L1 (R398); `n` bytes of an uncompressed one. -/
def State.texelRead (s : State) (core asid : Nat) (e : Entry) (x y l n : Nat) (priv always buffered : Bool) (who : Option Reader := none) : Except Failed (List Byte × State) :=
  if isBlock e.format then (s.blockTexel core asid e x y l priv always who).map fun r => (r.1.take n, r.2)
  else
    let va := (e.base + e.texelOfs x y l) % 2 ^ 64
    if va % n ≠ 0 then .error (⟨4, 0, false⟩, va, s)
    else
      let fill (z : State) : Except Failed (List Byte × State) := do
        let (bs, z1) ← atVa va z (z.l1Read core asid va n priv always false false who)
        if buffered then
          match findLine z1.caches.l1 core asid (va / 64) false with
          | some c => pure (bs, z1.modCaches fun k => { k with texels := k.texels.filter (fun l => !(l.core = core && l.asid = asid && l.line = va / 64)) ++ [c] })
          | none => pure (bs, z1)
        else pure (bs, z1)
      match (if buffered then findLine s.caches.texels core asid (va / 64) false else none) with
      | some c => if always || (c.pv && !priv) then fill s else
          let (k, s1) := s.keeps
          if k then .ok (lineBytes c.data (va % 64) n, s1) else fill s1
      | none => fill s

/-! ### Status words (R87, R88) -/

/-- A status word: CODE, N, RLEVEL, WLEVEL (R87). -/
def lodStatus (code n rlevel wlevel : Nat) : Word := BitVec.ofNat 32 (code + 16 * n + 256 * rlevel + 4096 * wlevel)
/-- BADRES. -/
def badRes : Word := lodStatus 4 0 0 0
/-- Where a status stands from most to least exact (R88). -/
def lodRank (w : Word) : Nat :=
  let n := bitsOf w.toNat 4 4
  match bitsOf w.toNat 0 3 with
  | 0 => 0
  | 1 => 1 + n
  | 2 => 32 + n
  | 3 => 64
  | _ => 65
/-- The less exact of two statuses; of equal ranks the numerically larger word (R88). R88 does not order two TAIL reads of unequal N: of these too the numerically larger word is taken (DESIGN CHOICE, log entry 85). -/
def leastExact (a b : Word) : Word :=
  if lodRank a < lodRank b then b else if lodRank b < lodRank a then a else if a ≤ b then b else a

/-! ### Pushes (R91, R92) -/

/-- A cone-ring entry (R91), its TIME still 0. -/
def coneEntry (res level page asid kind die group : Nat) : BitVec 128 :=
  BitVec.ofNat 128 (res % 2 ^ 20 + level % 16 * 2 ^ 20 + page % 2 ^ 28 * 2 ^ 24 + asid % 2 ^ 12 * 2 ^ 52 +
    (kind + die % 4 * 2 ^ 24 + group % 2 ^ 24 * 2 ^ 32) * 2 ^ 64)

/-- TIME of an entry: bits 29:10 of the cycle counter as the push leaves its die. -/
def coneTime (now : Nat) : BitVec 128 := BitVec.ofNat 128 (bitsOf now 10 20 * 2 ^ 68)

/-- A push on its way to its die's filter, with an origin of its own. -/
def State.conePush (s : State) (core asid res level page kind group : Nat) : State :=
  let die := dieOf core
  { s with
    nextId := s.nextId + 1
    eng := { s.eng with pushes := s.eng.pushes ++
      [⟨s.nextId, die, asid, coneEntry res level page asid kind die group, ⟨die, asid, res % 2 ^ 20, page % 2 ^ 28⟩, s.nextId, 0, false⟩] } }

/-- The pushes made from a name on come from a lane of an instruction. -/
def State.pushedBy (s : State) (start origin lane : Nat) : State :=
  s.modEng fun e => { e with pushes := e.pushes.map fun p => if start ≤ p.id then { p with origin, lane } else p }

/-- A lower lane of the instruction that pushes may still push. -/
def State.pushDue (s : State) (p : Push) : Bool :=
  (s.flights.any fun a => a.id = p.origin && a.lanes.any fun l => l.lane < p.lane && match l.status with
    | .fresh | .reported | .ready => true
    | _ => false) ||
  s.eng.queries.any fun q => q.id = p.origin && q.lanes.any fun l => l.lane < p.lane

/-- A push meets its die's filter (R92): a key of the 1,024 most recent is discarded; any other passes, and its key replaces the oldest. -/
def State.filterPush (s : State) (p : Push) : State :=
  if s.caches.filters.contains p.key then s.modEng fun e => { e with pushes := e.pushes.filter fun x => x.id ≠ p.id }
  else
    let mine := s.caches.filters.filter fun k => k.die = p.die
    let kept := if mine.length < 1024 then s.caches.filters else match mine.head? with
      | some o => s.caches.filters.erase o
      | none => s.caches.filters
    (s.modCaches fun c => { c with filters := kept ++ [p.key] }).modEng fun e =>
      { e with pushes := e.pushes.map fun x => if x.id = p.id then { x with passed := true, entry := x.entry ||| coneTime s.cycle.toNat } else x }

/-- The pushes that may reach their filter do so, those of an instruction in lane order (R92). -/
def State.settlePushes (s : State) : State :=
  (List.range 32).foldl (init := s) fun t n => (t.eng.pushes.filter fun p => !p.passed && p.lane = n).foldl (init := t) fun u p =>
    if u.pushDue p then u else u.filterPush p

/-- A push of the same instruction arrives first (R93). -/
def State.pushBehind (s : State) (p : Push) : Bool :=
  s.eng.pushes.any fun x => x.passed && x.origin = p.origin && (x.lane < p.lane || (x.lane = p.lane && x.id < p.id))

/-! ### The fallback chain (R85, R86) -/

/-- What one read of a level-of-detail datum gives: the bytes, the status word, and the pages to push: level, page and group. -/
structure LodResult where
  bytes : List Byte
  status : Word
  level : Nat
  push : Option (Nat × Nat × Nat)
deriving DecidableEq, Repr

/-- The map byte of a group, capped at TAIL: one 1-byte read at its home (R82, R83), of which the reader has its own view. -/
def State.mapByteAs (s : State) (sees : State → List Byte → List Byte) (core asid : Nat) (e : Entry) (g : Nat) (priv : Bool) (who : Option Reader) : Except Failed (Nat × State) :=
  let va := (e.map + g) % 2 ^ 64
  match s.refuses who va priv waitFlt with
  | some f => .error (f, va, s)
  | none =>
  match s.translate (quadOf core) asid va needRead priv 0 with
  | (.error f, s1) => .error (f, va, s1)
  | (.ok t, s1) =>
    if s1.lineBusy core asid va t.pa then .error (heldFlt, va, s1)
    else match s1.readTurn who asid t.pa with
    | .error f => .error (f, va, s1)
    | .ok s0 =>
      let (bs, s2) := s0.readHome asid t.pa t.leaf 1
      .ok (min (natOfBytes (sees s2 bs)) e.tail, s2)

/-- The map byte as a wave's access reads it (R166, R167). -/
def State.mapByte (s : State) (core asid : Nat) (e : Entry) (g : Nat) (priv : Bool) (who : Option Reader := none) : Except Failed (Nat × State) :=
  s.mapByteAs (fun t bs => t.seenBy who ((e.map + g) % 2 ^ 64) bs) core asid e g priv who

/-- A refusal under R86: the translation met V = 0 with LOD = 1. -/
def isRefusal (f : Flt) : Bool := f.code = 1 && f.cause = 0 && f.lod

/-- The loop of LodRead: from level `m` on, a refused level sends it at least one level coarser (R85). -/
def lodLoop (core asid : Nat) (e : Entry) (g : Nat) (priv : Bool) (who : Option Reader) (read : State → Nat → Except Failed (List Byte × State)) :
    Nat → Nat → State → Except Failed (List Byte × Nat × State)
  | 0, _, s => .error (pageFault 0, 0, s)
  | fuel + 1, m, s =>
    match read s m with
    | .ok (bs, s1) => .ok (bs, m, s1)
    | .error f =>
      if isRefusal f.1 && m < e.tail then do
        let (b, s1) ← f.2.2.mapByte core asid e g priv who
        lodLoop core asid e g priv who read fuel (max (m + 1) b) s1
      else .error f

/-- LodRead for a datum that every level holds (textures, tensors): wanted level `l`, group `g`, the page offset of the wanted datum (R85). -/
def State.lodRead (s : State) (core asid : Nat) (e : Entry) (l last g ofs : Nat) (priv : Bool) (read : State → Nat → Except Failed (List Byte × State))
    (who : Option Reader := none) : Except Failed (LodResult × State) :=
  let l := min l last
  if e.tail ≤ l then do
    let (bs, s1) ← read s l
    pure (⟨bs, lodStatus 0 0 l l, l, none⟩, s1)
  else do
    let (b, s1) ← s.mapByte core asid e g priv who
    let (bs, m, s2) ← lodLoop core asid e g priv who read 17 (max l b) s1
    let st := if m = l then lodStatus 0 0 l l else if e.kind = 3 then lodStatus 2 (m - l) m l else if m = e.tail then lodStatus 3 (m - l) m l else lodStatus 1 (m - l) m l
    pure (⟨bs, st, m, if l < m then some (l, ofs / 4096, g) else none⟩, s2)

/-- A level-of-detail texel (R85): the texel clamped to the level, `n` bytes of it at the level that is resident. -/
def State.lodTexel (s : State) (core asid : Nat) (e : Entry) (x y l n : Nat) (priv buffered : Bool) (who : Option Reader := none) : Except Failed (LodResult × State) :=
  let l := min l e.maxLevel
  let x := min x (levelDim e.lw l - 1)
  let y := min y (levelDim e.lh l - 1)
  s.lodRead core asid e l e.maxLevel (y * 2 ^ l / 2 ^ e.gy) (e.texelOfs x y l) priv
    (fun z m => z.texelRead core asid e (x / 2 ^ (m - l)) (y / 2 ^ (m - l)) m n priv true buffered who) who

/-- Element `i` of a tensor read at `planes` planes (R80, R103): its value with the planes beyond read as zero. -/
def State.tensorBits (s : State) (core asid : Nat) (e : Entry) (i : Nat) (priv : Bool) (who : Option Reader) : Nat → Except Failed (Nat × State)
  | 0 => .ok (0, s)
  | k + 1 => do
    let (v, s1) ← s.tensorBits core asid e i priv who k
    let va := (e.base + k * e.pstride * 4096 + i / 8) % 2 ^ 64
    let (bs, s2) ← atVa va s1 (s1.l1Read core asid va 1 priv true false false who)
    pure (v + (natOfBytes bs / 2 ^ (i % 8) % 2) * 2 ^ (7 - k), s2)

/-- A level-of-detail tensor element (R85, R103). -/
def State.lodElement (s : State) (core asid : Nat) (e : Entry) (i l : Nat) (priv : Bool) (who : Option Reader := none) : Except Failed (LodResult × State) :=
  if e.elems ≤ i then .ok (⟨[0], lodStatus 0 0 (min l e.tail) (min l e.tail), min l e.tail, none⟩, s)
  else
    let l := min l e.tail
    s.lodRead core asid e l e.tail (i / 32768) ((e.planes - 1 - l) * e.pstride * 4096 + i / 8) priv
      (fun z m => (z.tensorBits core asid e i priv who (e.planes - m)).map fun r => (bytesOfNat 1 r.1, r.2)) who

end Sys2Proof.Machine
end

