-- ==== Sys2Proof/Machine/Nodes.lean ====
section
/-! DEFINITION. Nodes of a geometry pool (R233 to R238), and what ldlod reads of each kind of resource (R331). -/

namespace Sys2Proof.Machine

/-- A node: one 64-byte line. -/
abbrev Node := BitVec 512
/-- Bits of a node. -/
def Node.f (n : Node) (lo len : Nat) : Nat := bitsOf n.toNat lo len
/-- KIND: 0 interior, 1 leaf, 2 instance, 3 proxy-only (R233). -/
def Node.kind (n : Node) : Nat := n.f 0 2
/-- NBITS. -/
def Node.nbits (n : Node) : Nat := n.f 2 4
/-- CCOUNT. -/
def Node.ccount (n : Node) : Nat := n.f 6 4
/-- LBLK. -/
def Node.lblk (n : Node) : Bool := n.f 10 1 = 1
/-- CBASE. -/
def Node.cbase (n : Node) : Nat := n.f 16 32
/-- CGROUP. -/
def Node.cgroup (n : Node) : Nat := n.f 48 24
/-- CLEVEL. -/
def Node.clevel (n : Node) : Nat := n.f 72 4
/-- PMAT. -/
def Node.pmat (n : Node) : Nat := n.f 80 16
/-- TCOUNT. -/
def Node.tcount (n : Node) : Nat := n.f 96 16

/-- A child entry (R234): lo, e, the child's nesting bits less 2, and the child index. -/
structure ChildEntry where
  lo : List Nat
  e : List Nat
  cnb : Nat
  cidx : Nat
deriving DecidableEq, Repr

/-- Child entry `i`, at bytes 16 + 6i. -/
def Node.child (n : Node) (i : Nat) : ChildEntry :=
  let x := n.f (128 + 48 * i) 48
  ⟨[bitsOf x 0 8, bitsOf x 8 8, bitsOf x 16 8], [bitsOf x 24 3, bitsOf x 27 3, bitsOf x 30 3], bitsOf x 33 3, bitsOf x 36 12⟩

/-- The node is empty whatever its path (R238); the zeros that R235 and R237 ask for after the contents are must-be-zero too. -/
def Node.empty (n : Node) (e : Entry) : Bool :=
  n.f 11 5 ≠ 0 || n.f 76 4 ≠ 0 || n.f 112 16 ≠ 0 || (n.lblk && n.kind ≠ 1) || (n.tcount ≠ 0 && !(n.kind = 1 && n.lblk)) ||
  n.nbits < 2 || (if n.kind = 1 then 3 else 8) < n.nbits ||
  (match n.kind with
  | 0 => 8 < n.ccount || n.f (128 + 48 * n.ccount) (384 - 48 * n.ccount) ≠ 0
  | 1 => if n.lblk then n.ccount ≠ 0 || n.tcount = 0 || e.nodes < n.cbase + ceilDiv n.tcount 8
         else 5 < n.ccount || n.f (128 + 64 * n.ccount) (384 - 64 * n.ccount) ≠ 0
  | 2 => n.ccount ≠ 1 || n.f 252 4 ≠ 0 || n.f 256 256 ≠ 0
  | _ => n.ccount ≠ 0) ||
  (e.lodr && (n.kind = 0 || n.kind = 2 || n.lblk) && e.groups ≤ n.cgroup)

/-- A used child entry is ill-formed of itself (R238), in a parent with nesting bits `b`. -/
def ChildEntry.bad (c : ChildEntry) (b cbase nodes : Nat) : Bool :=
  c.cnb = 7 || (c.e.any fun x => c.cnb + 2 < x) || ((c.lo.zip c.e).any fun p => 2 ^ b < p.1 + 2 ^ p.2) || nodes ≤ cbase + c.cidx

/-- The page that a push for a node or a triangle block names (R85, R91). -/
def nodePage (index : Nat) : Nat := index * 64 / 4096

/-- What ldlod gives of a child of a node pool (R331): the value, the status and the push. Of an empty node R331 says EXACT and no more: RLEVEL and WLEVEL are 0 (DESIGN CHOICE, log entry 85). -/
def State.lodNode (s : State) (core asid : Nat) (e : Entry) (n c : Nat) (priv : Bool) (who : Option Reader := none) : Except Failed (LodResult × State) :=
  let none_ : LodResult := ⟨[0, 0, 0, 0], lodStatus 0 0 0 0, 0, none⟩
  if e.nodes ≤ n then .ok (none_, s)
  else do
    let (p, s1) ← s.nodeRead core asid ((e.base + 64 * n) % 2 ^ 64) priv who
    let p : Node := p
    let ce := p.child c
    if p.kind ≠ 0 || p.empty e || p.ccount ≤ c || ce.bad p.nbits p.cbase e.nodes then .ok (none_, s1)
    else
      let child := p.cbase + ce.cidx
      let va := (e.base + 64 * child) % 2 ^ 64
      let l := min p.clevel e.tail
      let (r, s2) ← s1.lodRead core asid e l e.tail p.cgroup (64 * child) priv
        (fun z m => if m = l then atVa va z (z.l1Read core asid va 4 priv true false false who) else .ok (bytesOfNat 4 p.pmat, z)) who
      if r.level = l ∧ bitsOf (natOfBytes r.bytes) 2 4 ≠ ce.cnb + 2 then .ok (none_, s2) else .ok (r, s2)

/-- What ldlod gives in one lane (R331, R332): the value, the status word, and the state with its push (R92). -/
def State.ldlodLane (s : State) (core asid : Nat) (e : Entry) (res size level : Nat) (x y : Word) (priv : Bool) (who : Option Reader := none) : Except Failed (Word × Word × State) :=
  if !e.lodr || e.illFormed then .ok (0, badRes, s)
  else do
    let n := 2 ^ (size / 2)
    let (r, s1) ← match e.kind with
      | 2 => s.lodTexel core asid e x.toNat y.toNat level n priv false who
      | 4 => s.lodElement core asid e x.toNat level priv who
      | _ => s.lodNode core asid e x.toNat (bitsOf y.toNat 0 3) priv who
    let raw := natOfBytes r.bytes
    let value : Word := match e.kind with
      | 2 => if size % 2 = 1 then BitVec.ofInt 32 (signedOf (8 * n) raw) else BitVec.ofNat 32 (raw % 2 ^ (8 * n))
      | 4 => if e.signed then BitVec.ofInt 32 (signedOf 8 raw) else BitVec.ofNat 32 (raw % 256)
      | _ => BitVec.ofNat 32 raw
    pure (value, r.status, match r.push with
      | some (l, page, g) => s1.conePush core asid res l page 0 g
      | none => s1)

end Sys2Proof.Machine
end

