-- ==== Sys2Proof/Machine/Flights.lean ====
section
/-! DEFINITION. Accesses in flight: what they need, their translation and its faults (R24, R194, R195), what holds one back (R107, R110, R115), and their end (R272). -/

namespace Sys2Proof.Machine

/-- The size of an access's datum. -/
def AccKind.size : AccKind → Nat
  | .load n _ _ _ => n
  | .store n => n
  | .atomic _ n _ => n
  | .cas n => n
  | .multi _ n => n
  | .txRead | .txWrite => 8
  | .lod _ n _ _ => 2 ^ (n / 2)
  | .localLoad n => n
  | .localStore n => n
  | .arrive _ => 16
  | _ => 1

/-- What a global access needs of its leaf (R25). -/
def AccKind.need : AccKind → Need
  | .store _ => needWrite
  | .atomic _ _ ret => if ret then needBoth else needWrite
  | .cas _ | .txWrite => needBoth
  | .multi _ _ => needWrite
  | _ => needRead

/-- A gang-local access (R115). -/
def AccKind.isLocal : AccKind → Bool
  | .localLoad _ | .localStore _ | .arrive _ => true
  | _ => false

/-- A line of the L1 serves it without a translation (R34, R47). -/
def AccKind.cached : AccKind → Bool
  | .load _ _ home _ => !home
  | .pref _ => true
  | _ => false

/-- Held back by an earlier release fence of its wave (R110): a write, to global memory or to a gang's. -/
def AccKind.afterRelease : AccKind → Bool
  | .store _ | .atomic _ _ _ | .cas _ | .multi _ _ | .localStore _ | .arrive _ | .fence _ => true
  | _ => false

/-- Returns a value that an acquire fence waits for: loads, returning atomics and level-of-detail reads (R110). -/
def AccKind.returns : AccKind → Bool
  | .load _ _ _ _ | .lock | .unlock | .txRead | .lod _ _ _ _ | .localLoad _ | .cas _ => true
  | .atomic _ _ ret => ret
  | _ => false

/-- Some lane's translation is still to be reported. -/
def Access.unreported (a : Access) : Bool := a.kind.isGlobal && a.lanes.any fun l => l.status = .fresh
/-- A lane that nothing waits for any more: it is over, or, for a handler or another wave (`aside`), it waits for a replay: a fault that a trap has taken, or an access behind one (R196). -/
def AccLane.settled (l : AccLane) (taken aside : Bool) : Bool := l.status = .done || (aside && (l.status = .parked || (taken && l.bad)))

/-- Some lane met a fault that no trap has taken. -/
def Access.faulty (a : Access) : Bool := !a.taken && a.lanes.any AccLane.bad
/-- Its fault is reported: at once, and of a multi-destination store when every permitted destination is acknowledged (R343). -/
def Access.reported (a : Access) : Bool :=
  a.faulty && match a.kind with
    | .multi _ _ => a.lanes.all fun l => l.bad || l.status = .done
    | _ => true
/-- Every lane is over. -/
def Access.isOver (a : Access) : Bool := a.lanes.all fun l => l.status = .done

/-- The line of an address. -/
def AccLane.line (l : AccLane) : Nat := l.va / 64

/-- Two byte ranges overlap. -/
def overlap (a n b m : Nat) : Bool := a < b + m && b < a + n

/-- An access of the wave has a fault that its next boundary takes (R187). -/
def State.loggedFault (s : State) (wave : Nat) : Bool := s.flights.any fun a => a.wave = wave && a.reported

/-! ### The operand log (R194, R195, R198) -/

/-- Log entries in use on a core: an eviction frees those of its gang (R200). -/
def State.logUsed (s : State) (core : Nat) : List Nat :=
  s.flights.filterMap fun a => if a.core = core && (s.wave? a.wave).any (fun w => s.isResident w.gang) then a.log else none

/-- The entry that a fault of a wave takes (R198): outside a handler the lowest free one of 28; in a handler with traps unmasked a free one of the four kept ones, else of the 28; none in a masked handler, whose faults are nested. -/
def State.freeLog (s : State) (core : Nat) (priv tm : Bool) : Option Nat :=
  if priv && tm then none
  else ((if priv then [28, 29, 30, 31] else []) ++ List.range 28).find? fun n => !(s.logUsed core).contains n

/-- The access may still take a log entry: some lane's report is due, now or once what it waits for is replayed (R195, R196). A prefetch takes none. -/
def Access.mayLog (a : Access) : Bool :=
  a.kind.isGlobal && a.log.isNone && (match a.kind with | .pref _ => false | _ => true) && a.lanes.any fun l => l.status = .fresh || l.status = .parked

/-- An access of a masked handler, whose faults are nested and take no entry (R198). -/
def Access.nests (a : Access) (w : Wave) : Bool := a.privileged && w.priv && w.tm

/-- How many accesses of a core, of handlers or of others, may still take a log entry. -/
def State.logDue (s : State) (core : Nat) (priv : Bool) : Nat :=
  (s.flights.filter fun a => a.core = core && a.mayLog && (s.wave? a.wave).any fun w => s.isResident w.gang && (a.privileged && w.priv) = priv && !a.nests w).length

/-- The access is an entry of the operand log in a save area (R200): a trap has taken it or is to take it, or it is a load that still waits. -/
def Access.isSaved (a : Access) : Bool := a.lanes.any AccLane.bad || (a.counter ≠ 0 && a.lanes.all fun l => l.status ≠ .parked)

/-- A wave may issue an instruction of R195 (R198): an entry that it may take is free, beside one for each access of the core whose report is still due. The rule does not say how an entry is sure to be free when a fault is reported; such accesses count as holding one (DEDUCED, log entry 87). Those of handlers hold the kept entries first. -/
def State.logRoom (s : State) (core : Nat) (priv tm : Bool) : Bool :=
  let used := s.logUsed core
  let kept := (used.filter fun n => 28 ≤ n).length
  let due := s.logDue core true
  if priv then tm || used.length + s.logDue core false + due < 32
  else (used.length - kept) + s.logDue core false + (due + kept - 4) < 28

/-! ### What holds an access back -/

/-- The lane's commit is under way, was issued before the access, and names its bytes (R117). -/
def State.commitHeld (s : State) (a : Access) (l : AccLane) : Bool :=
  match s.wave? a.wave with
  | none => false
  | some w => w.txTodo.getLsbD l.lane && w.txId ≤ a.id && w.txSet.any fun x => x.lane = l.lane &&
      (overlap x.va 8 l.va a.kind.size || overlap x.pa 8 l.pa a.kind.size)

/-- The ranges that a lane of a level-of-detail load may read (R85). -/
def Access.lodSpans (a : Access) (l : AccLane) : List (Nat × Nat) :=
  match a.kind with
  | .lod es size level _ => Entry.lodSpans ((es[l.side]?).getD (0, 0)).2 size level (lo32 l.data).toNat (lo32 l.data2).toNat
  | _ => []

/-- Two accesses of one thread name a byte in common: by their addresses, by the physical ones of two that are translated, or by what a level-of-detail load may read. -/
def sameBytes (b : Access) (m : AccLane) (a : Access) (l : AccLane) : Bool :=
  if b.kind.isLod || a.kind.isLod then
    let spans (c : Access) (n : AccLane) : List (Nat × Nat) := if c.kind.isLod then c.lodSpans n else [(n.va, c.kind.size)]
    (spans b m).any fun x => (spans a l).any fun y => overlap x.1 x.2 y.1 y.2
  else overlap m.va b.kind.size l.va a.kind.size ||
    ((m.status = .ready || m.status = .reported) && l.status = .ready && overlap m.pa b.kind.size l.pa a.kind.size)

/-- An earlier access of the same wave and lane to the same bytes is not over (R107), or one of the wave that is logged names the line (R196). -/
def State.locationHeld (s : State) (a : Access) (l : AccLane) : Bool :=
  s.commitHeld a l || (a.kind.isGlobal && !a.kind.isLod && s.lineNamed a.wave a.id l.va a.privileged) ||
    (s.flights.any fun b => b.wave = a.wave && b.id < a.id && b.kind.isGlobal && b.lanes.any fun m =>
      m.lane = l.lane && !m.settled b.taken a.privileged && sameBytes b m a l)

/-- A load of the core waits: an earlier write of the core to these bytes is not in the order of writes yet (R47). -/
def State.storeUnwritten (s : State) (a : Access) (l : AccLane) : Bool :=
  s.flights.any fun b => b.core = a.core && b.asid = a.asid && b.id < a.id && b.kind.writes && b.lanes.any fun m =>
    (m.status = .fresh || m.status = .reported) && overlap m.va b.kind.size l.va a.kind.size

/-- A load that goes to the home waits for its core's unacknowledged writes to the line, whichever wave made them, and for what its die's ordering point accepted (R107, R108, R111). A write that comes after it in its thread and names its bytes waits for the load instead. -/
def State.homeHeld (s : State) (a : Access) (l : AccLane) : Bool :=
  s.acceptedHeld a.core l.pa 0 || s.flights.any fun b => b.core = a.core && b.kind.writes && b.lanes.any fun m =>
    match m.status with
    | .fresh => b.asid = a.asid && b.id < a.id && m.va / 64 = l.va / 64
    | .reported => m.pa / 64 = l.pa / 64 && b.id < a.id
    | .ready | .performed => m.pa / 64 = l.pa / 64 &&
        !(a.id < b.id && b.wave = a.wave && m.lane = l.lane && overlap m.pa b.kind.size l.pa a.kind.size)
    | _ => false

/-- A write waits for every write of its core that comes before it in the core's order and names the same bytes, so that the home sees them in the order in which the core's L1 did (R107, R111). -/
def State.writeHeld (s : State) (a : Access) (l : AccLane) : Bool :=
  s.flights.any fun b => b.core = a.core && b.kind.writes && b.lanes.any fun m =>
    m.status = .ready && m.stamp < l.stamp && overlap m.pa b.kind.size l.pa a.kind.size && !(b.id = a.id && m.lane = l.lane && m.dest = l.dest)

/-- A fence that the access waits for is still in flight (R110). -/
def State.fenceHeld (s : State) (after : List Nat) : Bool := after.any fun id => s.flights.any fun b => b.id = id

/-- The workgroup window of a gang-local offset (R42). -/
def windowWg (o : Nat) : Nat := bitsOf o 19 2

/-- An earlier gang-local access of the wave to the same window is not over (R115). -/
def State.windowHeld (s : State) (a : Access) (l : AccLane) : Bool :=
  s.flights.any fun b => b.wave = a.wave && b.id < a.id && b.kind.isLocal && b.lanes.any fun m =>
    !m.settled b.taken a.privileged && windowWg m.va = windowWg l.va

/-- An earlier access of its thread or a fence holds the lane back (R107, R110). -/
def State.laneHeld (s : State) (a : Access) (l : AccLane) : Bool := s.locationHeld a l || s.fenceHeld a.after

/-! ### Waiting for a replay (R196) -/

/-- A lane that waits for a replay, of an access that a trap has taken or that stands behind one. -/
def AccLane.waits (l : AccLane) (taken : Bool) : Bool := l.status = .parked || (taken && l.bad)

/-- A lane that could still be held back: not one that is over, that faulted, or that is on its way. -/
def AccLane.parks (l : AccLane) (writes : Bool) : Bool :=
  match l.status with
  | .fresh | .reported => true
  | .ready => !writes
  | _ => false

/-- A lane of an access that waits for a replay holds a lane of a later access: a gang-local one in its window (R115); a global one that faulted holds its whole line (R196), one that parks holds its own bytes in its own lane (R107). -/
def AccLane.holdsBack (m : AccLane) (b : Access) (k : AccKind) (l : AccLane) : Bool :=
  if k.isLocal then m.waits b.taken && b.kind.isLocal && windowWg m.va = windowWg l.va
  else b.kind.isGlobal && !k.isLod &&
    ((b.taken && m.bad && m.va / 64 = l.va / 64) || (m.status = .parked && m.lane = l.lane && !b.kind.isLod && overlap m.va b.kind.size l.va k.size))

/-- An access of a wave beside the earlier ones: a lane parks where one that waits for a replay holds it, or a fence that waits for one, or where its level-of-detail read waits for one (`lodWaits`); a fence is marked. A handler's accesses pass. -/
def Access.parkBehind (a : Access) (earlier : List Access) (ids : List Nat) (lodWaits : AccLane → Bool) : Access :=
  let behind := a.after.any ids.contains
  if a.privileged then a
  else match a.kind with
  | .fence _ => { a with taken := behind }
  | k =>
    let held (l : AccLane) : Bool := behind || (k.isLod && lodWaits l) || earlier.any fun b => b.wave = a.wave && b.lanes.any fun m => m.holdsBack b k l
    { a with lanes := a.lanes.map fun l => if l.parks k.writes && held l then { l with status := .parked } else l }

/-- A level-of-detail read as the accesses that its core issued before it leave it, and the writes that are already on their way (R107): what its core issues later does not hold it. -/
def State.lodRead? (s : State) (a : Access) (w : Wave) (l : AccLane) : Except Failed (Word × Word × State) :=
  match a.kind with
  | .lod es size level _ =>
    let r := (es[l.side]?).getD (0, 0)
    let s0 : State := { s with flights := s.flights.map fun b => if b.id < a.id || b.core ≠ a.core then b else { b with lanes := b.lanes.filter fun m => m.status = .ready || m.status = .performed } }
    match s0.ldlodLane a.core a.asid r.2 r.1 size level (lo32 l.data) (lo32 l.data2) a.privileged (some ⟨w, a.id⟩) with
    | .error (f, va, t) => .error (f, va, { t with flights := s.flights })
    | .ok (v, st, t) => .ok (v, st, { t with flights := s.flights })
  | _ => .error (pageFault 0, l.va, s)

/-- A level-of-detail read of a lane waits for a replay (R196). -/
def State.lodWaits (s : State) (a : Access) (l : AccLane) : Bool :=
  (s.wave? a.wave).any fun w => match s.lodRead? a w l with | .error (f, _) => f = waitFlt | .ok _ => false

/-- What of a wave waits for a replay is noted anew: as a trap takes logged accesses, and as a return replays or frees them. -/
def State.park (s : State) (wave : Nat) : State :=
  let step (acc : List Access × List Nat) (a : Access) : List Access × List Nat :=
    if a.wave ≠ wave then (acc.1 ++ [a], acc.2)
    else
      let b := ({ a with lanes := a.lanes.map fun (l : AccLane) => if l.status = .parked then { l with status := .fresh } else l } : Access).parkBehind acc.1 acc.2 (s.lodWaits a)
      (acc.1 ++ [b], if b.lanes.any (fun l => l.waits b.taken) || (b.lanes = [] && b.taken) then acc.2 ++ [b.id] else acc.2)
  { s with flights := (s.flights.foldl step ([], [])).1 }

/-! ### Translating the lanes of an access -/

/-- The fault that one lane's address has before translation: NONCANON, then ALIGN (R323). -/
def addressFault (va size : Nat) (aligned : Bool) : Option Flt :=
  if va / 2 ^ 60 ≠ 0 then some (pageFault 1)
  else if aligned && va % size ≠ 0 then some ⟨4, 0, false⟩
  else none

/-- The access checks alignment: every sized one; a cache operation names a line (R333). -/
def AccKind.aligned : AccKind → Bool
  | .lock | .unlock | .pref _ | .lod _ _ _ _ => false
  | _ => true

/-- Every lane that faults in a multi-destination store refuses its whole destination (R343); in other accesses a fault is the lane's own. -/
def refuseWhole (kind : AccKind) (ls : List AccLane) : List AccLane :=
  match kind with
  | .multi _ _ => ls.map fun l =>
      if (l.status = .ready || l.status = .reported) && ls.any (fun x => x.bad && x.dest = l.dest) then { l with status := .faulted 16 0 false } else l
  | _ => ls

/-- A higher lane of the same store, and of the same virtual wave (R436), writes the same bytes, so that its value stands (R106). -/
def Access.shadows (a : Access) (l : AccLane) (pa : Nat) : Bool :=
  a.lanes.any fun m => l.lane < m.lane && l.lane / a.block = m.lane / a.block && m.dest = l.dest && (m.va = l.va || (match m.status with
    | .reported | .ready | .performed | .done => m.pa = pa
    | _ => false))

/-- A lane of a store writes its core's L1 line (R37, R47); a private line of deterministic mode takes no store (R167). -/
def storeHit (a : Access) (priv : Bool) (s : State) (l : AccLane) (pa : Nat) (n : Nat) : AccLane × State :=
  if priv || a.shadows l pa then (l, s)
  else
    let l1 := dropSynonyms s.caches.l1 a.core a.asid (l.va / 64) (pa / 64)
    ({ l with inL1 := (findLine l1 a.core a.asid (l.va / 64) false).isSome },
      s.modCaches fun c => { c with l1 := storeIntoL1 l1 a.core a.asid l.va (bytesOfNat n l.data.toNat) })

/-- A translated lane of a write takes its place in the core's order of writes, a store in the L1 too, unless an earlier access of its thread or a fence holds it. -/
def enterOrder (a : Access) (w : Wave) (s : State) (l : AccLane) : AccLane × State :=
  let l1 := { l with status := .ready, stamp := s.nextId }
  if a.kind.writes && s.laneHeld a l1 then ({ l with status := .reported }, s)
  else
    let s1 := { s with nextId := s.nextId + 1 }
    match a.kind with
    | .store n => storeHit a (s1.isOwnLine w l.va) s1 l1 l1.pa n
    | _ => (l1, s1)

/-- One lane translated (R24): its fault or its physical address. A level-of-detail read is tried: what it would fault with is its report (R332). -/
def translateLane (a : Access) (w : Wave) (how : Nat) (s : State) (l : AccLane) : AccLane × State :=
  let fault (f : Flt) (va : Nat) : AccLane := { l with va, status := .faulted f.code f.cause f.lod }
  match a.kind with
  | .lod _ _ _ _ =>
    match s.lodRead? a w l with
    | .error (f, va, t) => if f.held then ({ l with status := .ready }, s) else (fault f va, t)
    | .ok _ => ({ l with status := .ready }, s)
  | _ =>
    match addressFault l.va a.kind.size a.kind.aligned with
    | some f => (fault f l.va, s)
    | none =>
      if s.foreign w l.va then (fault ⟨2, 0, false⟩ l.va, s)
      else match s.translate (quadOf a.core) a.asid l.va a.kind.need a.privileged how with
        | (.error f, s1) => (fault f l.va, s1)
        | (.ok t, s1) =>
          enterOrder a w s1 { l with pa := s1.localPa t.pa, leaf := BitVec.ofNat 64 t.leaf, side := t.side }

/-- The lanes of a set translated, in lane order, those already translated entering the order of writes; the others left. -/
def translateLanes (a : Access) (w : Wave) (lanes : Lanes) (how : Nat) : State → List AccLane → List AccLane × State
  | s, [] => ([], s)
  | s, l :: ls =>
    let (l', s1) := if !lanes.getLsbD l.lane then (l, s)
      else match l.status with
        | .fresh => translateLane a w how s l
        | .reported => enterOrder a w s l
        | _ => (l, s)
    let (ls', s2) := translateLanes a w lanes how s1 ls
    (l' :: ls', s2)

/-- A lane of a prefetch that would fault is dropped (R25, R335). -/
def dropFaults (kind : AccKind) (ls : List AccLane) : List AccLane :=
  match kind with
  | .pref _ => ls.map fun l => if l.bad then { l with status := .done } else l
  | _ => ls

/-- The lanes of an access that are still to be translated, not those that the L1 serves (R34); and those that nothing holds out of the order of writes any more. -/
def State.missing (s : State) (a : Access) : Lanes :=
  lanesWhere fun n => a.lanes.any fun l => l.lane = n && ((l.status = .reported && !s.laneHeld a { l with status := .ready }) || l.status = .fresh &&
    !(a.kind.cached && (addressFault l.va a.kind.size a.kind.aligned).isNone &&
      (findLine s.caches.l1 a.core a.asid l.line false).any fun c => !c.pv || a.privileged))

/-- The access with lanes translated, its faults logged (R195; those of a wave that has ended are lost): the first fault takes an operand-log entry, and a fault inside a transaction sets ABORT. R195 does not say what becomes of a txld whose faulting lanes are partly outside a transaction: it has one entry, whose abort flag covers them too (DESIGN CHOICE, log entry 91). -/
def State.report (s : State) (a : Access) (lanes : Lanes) (how : Nat) : State :=
  match s.wave? a.wave with
  | none => s
  | some w =>
    let (ls, s1) := translateLanes a w lanes how s a.lanes
    let ls0 := dropFaults a.kind (refuseWhole a.kind ls)
    let ls1 := if w.alive then ls0 else ls0.map fun l => if l.bad then { l with status := .done } else l
    let bad := ls1.any AccLane.bad
    let log := if bad && a.log.isNone then s1.freeLog a.core w.priv w.tm else a.log
    let inTx := match a.kind with
      | .txRead | .txWrite => lanesWhere fun n => w.txIn.getLsbD n && ls1.any fun l => l.lane = n && l.bad
      | _ => 0
    let s2 := if inTx = 0 then s1 else s1.modWave w.id fun x => { x with txAbort := x.txAbort ||| inTx }
    s2.modFlight a.id fun x => { x with lanes := ls1, log := log, abort := x.abort || inTx ≠ 0 }

/-! ### Fences in flight -/

/-- One lane counts as performed at a scope (R108): settled; a write in the core's order, for the wave; a store written into its core's L1 line, for core scope; a store accepted toward its home, for die scope; at wave scope a gang-local access, which its window alone orders (R115). A logged access of another wave sends nothing (`other`). -/
def AccLane.performedAt (l : AccLane) (a : Access) (scope : Nat) (priv other : Bool) : Bool :=
  l.settled (a.taken || other) (priv || other) || (scope = 0 && a.kind.isLocal) ||
  (let sent := l.status = .ready || l.status = .performed
   match a.kind with
   | .pref _ => true
   | .store _ => (scope = 0 && sent) || (scope ≤ 1 && l.inL1) || (scope = 3 && sent)
   | .multi _ _ => scope = 0 && sent
   | .atomic _ _ ret => scope = 0 && !ret && sent
   | _ => false)

/-- The access counts as performed at a scope for a wave that runs with a privilege. -/
def Access.performedAt (a : Access) (scope wave : Nat) (priv : Bool) : Bool := a.lanes.all fun l => l.performedAt a scope priv (a.wave ≠ wave)

/-- What a release at a scope waits for: the wave's accesses, and at quad scope or wider its core's writes (R110). -/
def State.releasedBy (s : State) (wave core scope : Nat) : List Nat :=
  (s.flights.filter fun b => match b.kind with
    | .fence _ => false
    | k => b.wave = wave || (2 ≤ scope && b.core = core && k.writes)).map (·.id) ++
  (s.eng.queries.filter fun q => q.wave = wave).map (·.id)

/-- The die's ordering point accepts the writes of a core that belong to some accesses, and with them what stands before them in the core's order (R108). -/
def State.accept (s : State) (core : Nat) (ids : List Nat) : State :=
  let mine (b : Access) : Bool := b.core = core && b.kind.writes
  let last := (s.flights.filter fun b => mine b && ids.contains b.id).foldl (init := 0) fun n b =>
    b.lanes.foldl (fun k l => if l.status = .ready then max k l.stamp else k) n
  { s with
    nextId := s.nextId + 1
    flights := s.flights.map fun b => if mine b then
      { b with lanes := b.lanes.map fun l => if l.status = .ready && l.accepted = 0 && l.stamp ≤ last then { l with accepted := s.nextId } else l } else b }

/-- The stores that a die-scope release has waited for are accepted by the die's ordering point (R108). -/
def State.acceptAll (s : State) (wave core scope : Nat) : State :=
  if scope = 3 then s.accept core (s.releasedBy wave core scope) else s

/-- Release fences that nothing holds any more leave; at die scope the stores they waited for are accepted (R108, R110). -/
def State.settleFences (s : State) : State :=
  s.flights.foldl (init := s) fun t a =>
    match a.kind with
    | .fence scope =>
      if a.after.all fun id => match t.flight? id with | none => t.eng.queries.all (fun q => q.id ≠ id) | some b => b.performedAt scope a.wave a.privileged then
        let t1 := { t with flights := t.flights.filter fun b => b.id ≠ a.id }
        if scope = 3 then t1.accept a.core a.after else t1
      else t
    | _ => t

/-! ### Counters and the end of an access -/

/-- A dependence counter of the wave: 1 LD, 2 ST, 3 CP, 4 TL (R272). -/
def Wave.counter (w : Wave) : Nat → BitVec 6
  | 1 => w.ld
  | 2 => w.st
  | 3 => w.cp
  | 4 => w.tl
  | _ => 0

/-- A counter changed by a function. -/
def Wave.modCounter (w : Wave) (n : Nat) (f : BitVec 6 → BitVec 6) : Wave :=
  match n with
  | 1 => { w with ld := f w.ld }
  | 2 => { w with st := f w.st }
  | 3 => { w with cp := f w.cp }
  | 4 => { w with tl := f w.tl }
  | _ => w

/-- A counter raised, and lowered, by 1. -/
def Wave.raise (w : Wave) (n : Nat) : Wave := w.modCounter n (· + 1)
/-- See `raise`. -/
def Wave.lower (w : Wave) (n : Nat) : Wave := w.modCounter n (· - 1)

/-- An earlier read of the wave has not returned, so that an acquire access is not over (R110, R112). -/
def State.readsPending (s : State) (a : Access) : Bool :=
  (s.flights.any fun b => b.wave = a.wave && b.id < a.id && b.kind.returns && !b.lanes.all fun l => l.settled b.taken a.privileged) ||
  s.eng.queries.any fun q => q.wave = a.wave && q.id < a.id

/-- Accesses that are over leave; one that acts as an acquire waits for the wave's earlier reads, and then invalidates its core's L1 at quad scope or wider (R50, R112). -/
def State.settleAcquires (s : State) : State :=
  s.flights.foldl (init := s) fun t a =>
    match a.kind with
    | .fence _ => t
    | _ =>
      if a.isOver && (a.acquire.isNone || !t.readsPending a) then
        let t1 := { t with flights := t.flights.filter fun b => b.id ≠ a.id }
        match a.acquire with
        | some scope => if 2 ≤ scope then t1.invalidateL1 a.core else t1
        | none => t1
      else t

/-- An access whose lanes are all over: its counter falls (R272), it and the acquires that waited for it leave, and fences are settled. -/
def State.finishAccess (s : State) (id : Nat) : State :=
  let s1 := match s.flight? id with
    | none => s
    | some a => if a.isOver then (s.modWave a.wave fun w => w.lower a.counter).modFlight id fun x => { x with counter := 0 } else s
  s1.settleAcquires.settleFences

/-- Registers whose value an access in flight is still to write, by lane (R272, R287): what waits for a replay pends no longer (R195, R196). -/
def State.pendingReg (s : State) (wave reg : Nat) (lanes : Lanes) : Bool :=
  (s.flights.any fun a => a.wave = wave && match a.dst with
    | some (d, n) => d ≤ reg && reg < d + n && a.lanes.any fun l => lanes.getLsbD l.lane && !l.settled a.taken true
    | none => false) ||
  s.eng.queries.any fun q => q.wave = wave && q.dst ≤ reg && reg < q.dst + q.words && q.lanes.any fun l => lanes.getLsbD l.lane

/-- A predicate that an access in flight is still to write: a level-of-detail load's, or a commit's (R347). -/
def State.pendingPred (s : State) (w : Wave) (n : Nat) : Bool :=
  n ≠ 0 && ((s.flights.any fun a => a.wave = w.id && (a.lanes.any fun l => !l.settled a.taken true) && match a.kind with
    | .lod _ _ _ p => p = n
    | _ => false) || match w.txPred with | some p => p.toNat = n | none => false)

end Sys2Proof.Machine
end

