-- ==== Sys2Proof/Machine/Uses.lean ====
section
/-! DEFINITION. What each instruction word reads and writes: its guard, its register operands (R263 to R266, R276), its predicates and its operand codes (R278). The legality checks, the scoreboard and the queue ports all read this one table. -/

namespace Sys2Proof

/-- The class in which a field names a register (R262). -/
inductive RegClass where
  | vec
  | scal
deriving DecidableEq, Repr

/-- How an operand is used. -/
inductive OpDir where
  | read
  | write
  | both
deriving DecidableEq, Repr

/-- One register operand: how it is used, its class, the number in its field, how many registers it spans and on what alignment, its place in the order a, b, data of port reads (R267), and whether a queue port or the zero register may stand there. -/
structure Operand where
  dir : OpDir
  cls : RegClass
  num : Nat
  count : Nat
  align : Nat
  role : Nat
  port : Bool
  zero : Bool
deriving DecidableEq, Repr

/-- A source read in one register of a class. -/
def srcOf (cls : RegClass) (num role : Nat) : Operand := ⟨.read, cls, num, 1, 1, role, true, true⟩
/-- A source read in an even pair. -/
def pairSrc (cls : RegClass) (num role : Nat) : Operand := ⟨.read, cls, num, 2, 2, role, false, true⟩
/-- A destination of one register. -/
def dstOf (cls : RegClass) (num : Nat) : Operand := ⟨.write, cls, num, 1, 1, 2, true, true⟩
/-- A destination pair. -/
def pairDst (cls : RegClass) (num : Nat) : Operand := ⟨.write, cls, num, 2, 2, 2, false, true⟩
/-- A register that is source and destination (imad, ffma, bfi). -/
def bothOf (num : Nat) : Operand := ⟨.both, .vec, num, 1, 1, 2, true, true⟩
/-- A pair that is source and destination (dffma). -/
def pairBoth (num : Nat) : Operand := ⟨.both, .vec, num, 2, 2, 2, false, true⟩
/-- A range of vector registers that no port and no zero register can name. -/
def rangeOf (dir : OpDir) (num count align : Nat) : Operand := ⟨dir, .vec, num, count, align, 2, false, false⟩
/-- A source that no port can name (R306, R323). -/
def noPort (o : Operand) : Operand := { o with port := false }
/-- The class of b: scalar when S is 1 (R262). -/
def classOf (s : BitVec 1) : RegClass := if s = 1 then .scal else .vec
/-- A source or destination of one register or a pair by its width. -/
def srcW (wide : Bool) (cls : RegClass) (num role : Nat) : Operand := if wide then pairSrc cls num role else srcOf cls num role
/-- As above, for a destination. -/
def dstW (wide : Bool) (num : Nat) : Operand := if wide then pairDst .vec num else dstOf .vec num

/-- Format R with single registers: d, a, b. -/
def FmtR.ops (f : FmtR) : List Operand := [srcOf .vec f.a.toNat 0, srcOf (classOf f.s) f.b.toNat 1, dstOf .vec f.d.toNat]
/-- Format R with pairs. -/
def FmtR.pairOps (f : FmtR) : List Operand := [pairSrc .vec f.a.toNat 0, pairSrc (classOf f.s) f.b.toNat 1, pairDst .vec f.d.toNat]
/-- Format R where d is also the addend. -/
def FmtR.accOps (f : FmtR) : List Operand := [srcOf .vec f.a.toNat 0, srcOf (classOf f.s) f.b.toNat 1, bothOf f.d.toNat]
/-- Unary words. -/
def FmtU.ops (f : FmtU) : List Operand := [srcOf (classOf f.s) f.b.toNat 1, dstOf .vec f.d.toNat]
/-- Whether a type code is 64 bits wide (R278). -/
def typeWide (t : Nat) : Bool := t = 3 || t = 7 || t = 11
/-- A load of one register or a pair: d, the address pair. -/
def FmtM.loadOps (f : FmtM) (wide pairAddr : Bool) : List Operand :=
  [if pairAddr then pairSrc .vec f.a.toNat 0 else noPort (srcOf .vec f.a.toNat 0), if wide then pairDst .vec f.d.toNat else noPort (dstOf .vec f.d.toNat)]
/-- A store: the address, the data. -/
def FmtM.storeOps (f : FmtM) (wide pairAddr port : Bool) : List Operand :=
  [if pairAddr then pairSrc .vec f.a.toNat 0 else noPort (srcOf .vec f.a.toNat 0),
   if wide then pairSrc .vec f.d.toNat 2 else { srcOf .vec f.d.toNat 2 with port := port }]
/-- An atomic: address pair v(2k), operand b, result d. -/
def FmtA.ops (f : FmtA) (wide : Bool) : List Operand :=
  [pairSrc .vec (2 * f.k.toNat) 0, if wide then pairSrc .vec f.b.toNat 1 else noPort (srcOf .vec f.b.toNat 1),
   if wide then pairDst .vec f.d.toNat else noPort (dstOf .vec f.d.toNat)]

/-- The register operands of a word (R263 to R266, R276). A step without a word has none. -/
def Instr.operands : Instr → List Operand
  | .iadd f | .isub f | .imul f | .imulhI f | .imulhZ f | .and f | .or f | .xor f | .shl f | .shr f | .sar f | .rol f | .bfe f | .iminI f | .iminZ f
  | .imaxI f | .imaxZ f | .fadd f | .fsub f | .fmul f | .fmin f | .fmax f | .fdiv f | .hadd2 f | .pack f => f.ops
  | .imad f | .ffma f | .bfi f | .hfma2 f | .bfma2 f => f.accOps
  | .iadd64 f | .isub64 f | .imul64 f | .dadd f | .dsub f | .dmul f | .dmin f | .dmax f | .ddiv f => f.pairOps
  | .dffma f => [pairSrc .vec f.a.toNat 0, pairSrc (classOf f.s) f.b.toNat 1, pairBoth f.d.toNat]
  | .ladd f => [srcOf .vec f.a.toNat 0, pairSrc (classOf f.s) f.b.toNat 1, pairDst .vec f.d.toNat]
  | .shflIdx f | .shflXor f | .shflUp f | .shflDown f => [noPort (srcOf .vec f.a.toNat 0), srcOf (classOf f.s) f.b.toNat 1, dstOf .vec f.d.toNat]
  | .bcast f => [noPort (srcOf .vec f.a.toNat 0), srcOf (classOf f.s) f.b.toNat 1, dstOf .scal f.d.toNat]
  | .calli f => [pairSrc .vec f.a.toNat 0, srcOf (classOf f.s) f.b.toNat 1, pairDst .vec f.d.toNat]
  | .icmp f | .fcmp f => [srcOf .vec f.a.toNat 0, srcOf (classOf f.s) f.b.toNat 1]
  | .icmp64 f | .dcmp f => [pairSrc .vec f.a.toNat 0, pairSrc (classOf f.s) f.b.toNat 1]
  | .sel f => [srcOf .vec f.a.toNat 0, srcOf (classOf f.s) f.b.toNat 1, dstOf .vec f.d.toNat]
  | .shlImm f | .shrImm f | .sarImm f | .rolImm f => [srcOf .vec f.a.toNat 0, dstOf .vec f.d.toNat]
  | .shlImm64 f | .shrImm64 f | .sarImm64 f | .rolImm64 f => [pairSrc .vec f.a.toNat 0, pairDst .vec f.d.toNat]
  | .iaddImm f | .andImm f => [srcOf .vec f.a.toNat 0, dstOf .vec f.d.toNat]
  | .movi f => [dstOf .vec f.d.toNat]
  | .mov f | .popc f | .clz f | .frcp f | .frsq f | .fsqrt f | .fex2 f | .flg2 f | .fsin f | .fcos f | .frnd f => f.ops
  | .mov64 f | .dsqrt f | .drnd f => [pairSrc (classOf f.s) f.b.toNat 1, pairDst .vec f.d.toNat]
  | .popc64 f | .clz64 f => [pairSrc (classOf f.s) f.b.toNat 1, dstOf .vec f.d.toNat]
  | .cvtFromInteger f => [srcW (typeWide f.u.toNat) (classOf f.s) f.b.toNat 1, dstW (typeWide f.t.toNat) f.d.toNat]
  | .cvtFromFloat f => [srcW (f.u = 3) (classOf f.s) f.b.toNat 1, dstW (typeWide f.t.toNat) f.d.toNat]
  | .unpk f => [srcOf (classOf f.s) f.b.toNat 1, { rangeOf .write f.d.toNat (if f.m.toNat < 2 then 2 else 4) (if f.m.toNat < 2 then 2 else 4) with zero := true }]
  | .vote f => [dstOf .scal f.d.toNat]
  | .redux f => [noPort (srcOf .vec f.a.toNat 0), dstOf .scal f.d.toNat]
  | .scan f => [noPort (srcOf .vec f.a.toNat 0), dstOf .vec f.d.toNat]
  | .bra _ => []
  | .brx f | .ret f => [pairSrc .vec f.a.toNat 0]
  | .barArrive f | .barSync f => [noPort (srcOf .vec f.a.toNat 0)]
  | .pref f | .cinvLine f | .cinvUnl f | .cinvIline f => [pairSrc .vec f.a.toNat 0]
  | .call f | .meetLabel f => [pairDst .vec f.d.toNat]
  | .meetRegister f => [pairSrc .vec f.a.toNat 0, pairDst .vec f.d.toNat]
  | .barInit f | .barWait f => [noPort (srcOf .vec f.a.toNat 0), noPort (srcOf .vec f.d.toNat 2)]
  | .lck f | .ulk f => [pairSrc .vec f.a.toNat 0, noPort (dstOf .vec f.d.toNat)]
  | .txld f => [pairSrc .vec f.a.toNat 0, pairDst .vec f.d.toNat]
  | .txst f => [pairSrc .vec f.a.toNat 0, pairSrc .vec f.d.toNat 2]
  | .exit _ | .yield _ | .nop _ | .cinvAll _ | .cinvIall _ | .txb _ | .txa _ => []
  | .bar _ => []
  | .barnet _ => []
  | .ldZ8 f | .ldI8 f | .ldZ16 f | .ldI16 f | .ld32 f => f.loadOps false true
  | .ld64 f => f.loadOps true true
  | .st8 f | .st16 f | .st32 f => f.storeOps false true true
  | .st64 f => f.storeOps true true false
  | .lds32 f => f.loadOps false false
  | .lds64 f => f.loadOps true false
  | .sts32 f => f.storeOps false false true
  | .sts64 f => f.storeOps true false false
  | .ldlod f => [rangeOf .both f.d.toNat 4 2, noPort (srcOf .scal f.r.toNat 1)]
  | .atom32 f => f.ops false
  | .atom64 f => f.ops true
  | .acas f => if f.w = 1 then [pairSrc .vec (2 * f.k.toNat) 0, ⟨.read, .vec, f.b.toNat, 4, 4, 1, false, false⟩, pairDst .vec f.d.toNat]
    else [pairSrc .vec (2 * f.k.toNat) 0, ⟨.read, .vec, f.b.toNat, 2, 2, 1, false, false⟩, noPort (dstOf .vec f.d.toNat)]
  | .red f => [pairSrc .vec (2 * f.k.toNat) 0, if f.w = 1 then pairSrc .vec f.b.toNat 1 else noPort (srcOf .vec f.b.toNat 1)]
  | .mcst f => [if f.w = 1 then pairSrc .vec f.d.toNat 2 else noPort (srcOf .vec f.d.toNat 2)]
  | .rdst f => [if f.w = 1 then pairSrc .vec f.d.toNat 2 else noPort (srcOf .vec f.d.toNat 2)]
  | .txc _ => []
  | .fence _ => []
  | .wait _ => []
  | .mxop _ | .mxopZero _ => []
  | .mxbeg _ => []
  | .cpy _ => []
  | .cpyf _ => []
  | .trav f => [rangeOf .read f.a.toNat 14 2, rangeOf .write f.d.toNat 5 2]
  | .trnx f => [rangeOf .read f.a.toNat 2 2, rangeOf .write f.d.toNat 5 2]
  | .isect f => [rangeOf .read f.a.toNat 16 2, rangeOf .write f.d.toNat 3 2]
  | .rast f => [rangeOf .read f.a.toNat 16 2, rangeOf .write f.d.toNat 3 1]
  | .tex f => [rangeOf .read f.a.toNat 3 1, rangeOf .write f.d.toNat 5 1, noPort (srcOf .scal f.s.toNat 1)]
  | .texq f => [rangeOf .read f.a.toNat 2 1, rangeOf .write f.d.toNat 4 1, noPort (srcOf .scal f.s.toNat 1)]
  | .geosync _ => []
  | .csrr f => [pairDst .scal f.r.toNat]
  | .csrw f => [pairSrc .scal f.r.toNat 1]
  | .trapret _ => []
  | .smask _ => []
  | .clock f => [{ pairDst .scal f.d.toNat with zero := false }]
  | .rng f => [noPort (dstOf .vec f.d.toNat), rangeOf .both f.c.toNat 1 1]
  | .legacyRegisterAccess _ f => [pairSrc .scal f.r.toNat 1]
  | .sdpost f | .clpost f | .swtrap f | .fpcWrite f | .proofPullWrite f => [pairSrc .scal f.r.toNat 1]
  | .nextVa a => [pairSrc .vec a.toNat 0]
  | _ => []

/-- The guard field of a word: none where the word has no guard (R260). sel has none either: its [24:22] is the selector. -/
def Instr.guard : Instr → Option (BitVec 3)
  | .iadd f | .isub f | .imul f | .imulhI f | .imulhZ f | .imad f | .and f | .or f | .xor f | .shl f | .shr f | .sar f | .rol f | .bfe f | .bfi f
  | .iminI f | .iminZ f | .imaxI f | .imaxZ f | .ladd f | .iadd64 f | .isub64 f | .imul64 f | .fadd f | .fsub f | .fmul f | .ffma f | .fmin f
  | .fmax f | .fdiv f | .dadd f | .dsub f | .dmul f | .dffma f | .dmin f | .dmax f | .ddiv f | .hadd2 f | .hfma2 f | .bfma2 f | .pack f | .shflIdx f
  | .shflXor f | .shflUp f | .shflDown f | .bcast f | .calli f => some f.g
  | .icmp f | .icmp64 f | .fcmp f | .dcmp f => some f.g
  | .shlImm f | .shrImm f | .sarImm f | .rolImm f => some f.g
  | .shlImm64 f | .shrImm64 f | .sarImm64 f | .rolImm64 f => some f.g
  | .iaddImm f | .andImm f => some f.g
  | .movi f => some f.g
  | .mov f | .mov64 f | .popc f | .popc64 f | .clz f | .clz64 f | .frcp f | .frsq f | .fsqrt f | .fex2 f | .flg2 f | .fsin f | .fcos f | .frnd f
  | .dsqrt f | .drnd f => some f.g
  | .cvtFromInteger f => some f.g
  | .cvtFromFloat f => some f.g
  | .unpk f => some f.g
  | .vote f => some f.g
  | .redux f | .scan f => some f.g
  | .bra f => some f.g
  | .brx f | .ret f | .barArrive f | .barSync f | .pref f | .cinvLine f | .cinvUnl f | .cinvIline f => some f.g
  | .call f | .meetLabel f => some f.g
  | .meetRegister f | .barInit f | .barWait f | .lck f | .ulk f | .txld f | .txst f => some f.g
  | .exit f | .yield f | .nop f | .cinvAll f | .cinvIall f | .txb f | .txa f => some f.g
  | .bar f => some f.g
  | .barnet f => some f.g
  | .ldZ8 f | .ldI8 f | .ldZ16 f | .ldI16 f | .ld32 f | .ld64 f | .st8 f | .st16 f | .st32 f | .st64 f | .lds32 f | .lds64 f | .sts32 f | .sts64 f => some f.g
  | .ldlod f => some f.g
  | .atom32 f | .atom64 f => some f.g
  | .acas f => some f.g
  | .red f => some f.g
  | .mcst f => some f.g
  | .rdst f => some f.g
  | .txc f => some f.g
  | .fence f => some f.g
  | .wait f => some f.g
  | .cpy f => some f.g
  | .cpyf f => some f.g
  | .trav f | .trnx f | .isect f | .rast f | .tex f | .texq f => some f.g
  | .geosync f => some f.g
  | .csrr f | .csrw f => some f.g
  | .trapret f => some f.g
  | .smask f => some f.g
  | .clock f => some f.g
  | .rng f => some f.g
  | .legacyRegisterAccess _ f => some f.g
  | .sdpost f | .clpost f | .swtrap f | .fpcWrite f | .proofPullWrite f => some f.g
  | _ => none

/-- The predicates a word reads besides its guard: number. -/
def Instr.predReads : Instr → List Nat
  | .sel f => [f.q.toNat]
  | .vote f => [f.q.toNat]
  | _ => []

/-- The predicate a word writes. -/
def Instr.predWrite : Instr → Option Nat
  | .icmp f | .icmp64 f | .fcmp f | .dcmp f => some f.p.toNat
  | .ldlod f => some f.p.toNat
  | .txc f => some f.p.toNat
  | _ => none

/-- Who may access a control and status register (R417): any code, privileged code, none without a LEGACY trap, none at all. -/
inductive CsrAccess where
  | any
  | privileged
  | legacy
  | illegal
deriving DecidableEq, Repr

/-- The access columns of R417. -/
def csrAccess (n : Nat) (write : Bool) : CsrAccess :=
  if n = 0x000 then (if write then .privileged else .any)
  else if n = 0x004 then .any
  else if n = 0x007 then (if write then .any else .illegal)
  else if 0x001 ≤ n && n ≤ 0x006 then (if write then .illegal else .any)
  else if n = 0x008 then .privileged
  else if 0x010 ≤ n && n ≤ 0x014 then .legacy
  else if 0x020 ≤ n && n ≤ 0x02A then .privileged
  else if n = 0x030 then .privileged
  else if 0x040 ≤ n && n ≤ 0x042 then (if write then .privileged else .illegal)
  else if 0x050 ≤ n && n ≤ 0x057 then .privileged
  else .illegal

/-- The operand codes are among the values R278, R276 and the instruction's own rule list. -/
def Instr.codesOk : Instr → Bool
  | .icmp f | .icmp64 f => f.c.toNat ≤ 9
  | .fcmp f | .dcmp f => f.c.toNat ≤ 7
  | .cvtFromInteger f => f.t.toNat ≤ 11
  | .cvtFromFloat f => f.t.toNat ≤ 11
  | .unpk f => f.m.toNat ≤ 3
  | .vote f => f.m.toNat ≤ 2
  | .redux f | .scan f => f.o.toNat ≤ 10
  | .barnet f => 2 ≤ f.s.toNat && f.s.toNat ≤ 5
  | .ldZ8 f | .ldI8 f | .ldZ16 f | .ldI16 f | .ld32 f | .ld64 f => f.o ≠ 2
  | .st8 f | .st16 f | .st32 f | .st64 f => f.o ≠ 1
  | .lds32 f | .lds64 f => f.o.toNat ≤ 1
  | .sts32 f | .sts64 f => f.o = 0 || f.o = 2
  | .ldlod f => f.z.toNat ≤ 4 && f.d.toNat ≤ 108
  | .atom32 f => f.p.toNat ≤ 9
  | .atom64 f => f.p.toNat ≤ 8
  | .acas f => f.w.toNat ≤ 1
  | .red f => (f.p.toNat ≤ 7 || (f.p = 9 && f.w = 0)) && (f.o = 0 || f.o = 2)
  | .mcst f => (f.o = 0 || f.o = 2) && f.l.toNat % 2 = 0 && f.l.toNat ≤ 94
  | .rdst f => (f.p.toNat ≤ 7 || (f.p = 9 && f.w = 0)) && (f.o = 0 || f.o = 2) && f.l.toNat % 2 = 0 && f.l.toNat ≤ 94
  | .fence f => f.s.toNat ≤ 6
  | .mxbeg f => f.d.toNat ≤ 29
  | .mxop f | .mxopZero f => f.x.toNat ≤ 29 && f.y.toNat ≤ 29
  | .mxdrnI32 d _ | .mxdrnI64 d _ | .mxdrnF32 d _ => d.toNat ≤ 29
  | .mxfold d => d.toNat ≤ 30
  | .team n => n.toNat % 2 = 0 && n.toNat ≤ 30
  | .cpy f => 2 ≤ f.p.toNat && f.p.toNat ≤ 6 && f.c.toNat % 2 = 0 && f.c.toNat ≤ 30
  | .cpyf f => f.m ≠ 0 && 2 ≤ f.s.toNat && f.s.toNat ≤ 6
  | .trav f | .trnx f | .isect f | .rast f => f.s.toNat % 2 = 0 && f.s.toNat ≤ 30
  | .rng f => f.c ≠ f.d && f.c.toNat ≤ 111
  | .csrr f => csrAccess f.c.toNat false ≠ .illegal
  | .csrw f => csrAccess f.c.toNat true ≠ .illegal
  | .hintStall n => n ≠ 0
  | _ => true

end Sys2Proof
end

