-- ==== Sys2Proof/Machine/Legal.lean ====
section
/-! DEFINITION. Legality of a word: its operand codes, its register numbers and, given the hint words before it, its hints (R263 to R266, R269, R270, R278, R279). -/

namespace Sys2Proof

/-- Whether a number names a queue port in either class (R263, R264). -/
def isPort (n : Nat) : Bool := 112 ≤ n && n ≤ 123

/-- A vector-class operand is legal where the wave's allocation is `regs` registers (R263, R266). -/
def Operand.vecOk (regs : Nat) (o : Operand) : Bool :=
  if o.num = 124 then o.zero
  else if o.count = 1 then
    (o.num ≤ 111 && o.num < regs) || (isPort o.num && o.port) || ((o.num = 125 || o.num = 126) && o.dir = .read && o.zero)
  else o.num % o.align = 0 && o.num + o.count ≤ 112 && o.num + o.count ≤ regs

/-- A scalar-class operand is legal (R264, R266). -/
def Operand.scalOk (o : Operand) : Bool :=
  if o.num = 124 then o.zero
  else if o.count = 1 then o.num ≤ 95 || (o.num ≤ 111 && o.dir = .read) || (isPort o.num && o.port)
  else o.num % 2 = 0 && (o.num ≤ 94 || (o.dir = .read && o.num ≤ 110))

/-- An operand is legal for its class and use. -/
def Operand.ok (regs : Nat) (o : Operand) : Bool := match o.cls with
  | .vec => o.vecOk regs
  | .scal => o.scalOk

/-- The word names only legal registers and listed codes (R279), for an allocation of `regs` vector registers. -/
def Instr.legal (regs : Nat) (i : Instr) : Bool := i.codesOk && i.operands.all (Operand.ok regs)

/-- The dependence counter that an instruction raises (R272): 1 LD, 2 ST, 3 CP, 4 TL; 0 for none. -/
def Instr.counter : Instr → Nat
  | .ldZ8 _ | .ldI8 _ | .ldZ16 _ | .ldI16 _ | .ld32 _ | .ld64 _ | .lds32 _ | .lds64 _ | .ldlod _ | .atom32 _ | .atom64 _ | .acas _ | .txld _ | .lck _
  | .ulk _ | .tex _ | .texq _ | .trav _ | .trnx _ | .isect _ | .rast _ => 1
  | .st8 _ | .st16 _ | .st32 _ | .st64 _ | .sts32 _ | .sts64 _ | .red _ | .mcst _ | .rdst _ | .barArrive _ | .barSync _ => 2
  | .cpy _ | .cpyf _ => 3
  | .mxbeg _ | .mxop _ | .mxopZero _ | .mxdrnI32 _ _ | .mxdrnI64 _ _ | .mxdrnF32 _ _ | .mxfold _ | .mxres | .mxend => 4
  | _ => 0

/-- The hints that apply to a word (R269). -/
structure Hints where
  ext : Option (BitVec 24)
  stall : Nat
  neg : Bool
  rnd : Option (BitVec 2)
  sat : Option (BitVec 1)
  cache : Option (BitVec 2)
  nb : Bool
  dtree : Bool
deriving DecidableEq, Repr

/-- No hint. -/
def Hints.none : Hints := ⟨Option.none, 0, false, Option.none, Option.none, Option.none, false, false⟩

/-- Whether the instruction is a hint word. -/
def Instr.isHint : Instr → Bool
  | .hintExt _ | .hintStall _ | .hintNeg | .hintRnd _ | .hintSat _ | .hintCache _ _ | .hintNb | .hintDtree => true
  | _ => false

/-- The kind number of a hint word (R269); ext counts as 16. -/
def Instr.hintKind : Instr → Nat
  | .hintExt _ => 16
  | .hintStall _ => 0
  | .hintNeg => 1
  | .hintRnd _ => 2
  | .hintSat _ => 3
  | .hintCache _ _ => 4
  | .hintNb => 5
  | .hintDtree => 6
  | _ => 17

/-- The hints with one more hint word. -/
def Hints.add (h : Hints) : Instr → Hints
  | .hintExt e => { h with ext := some e }
  | .hintStall n => { h with stall := n.toNat }
  | .hintNeg => { h with neg := true }
  | .hintRnd m => { h with rnd := some m }
  | .hintSat s => { h with sat := some s }
  | .hintCache y x => { h with cache := some (y ++ x) }
  | .hintNb => { h with nb := true }
  | .hintDtree => { h with dtree := true }
  | _ => h

/-- The word reads vimm (R268). -/
def Instr.readsImm (i : Instr) : Bool := i.operands.any fun o => o.cls = .vec && o.num = 126 && o.count = 1

/-- The word names a queue port. -/
def Instr.namesPort (i : Instr) : Bool := i.operands.any fun o => isPort o.num && o.count = 1

/-- The majors 0x1B to 0x1D, whose immediate an ext hint widens (R268). -/
def Instr.isImmForm : Instr → Bool
  | .iaddImm _ | .andImm _ | .movi _ => true
  | _ => false

/-- The rounding instructions (R212). Under FPC.DIVSQ the legacy frcp and frsq are none (R217). -/
def Instr.rounds (divsq : Bool) : Instr → Bool
  | .fadd _ | .fsub _ | .fmul _ | .ffma _ | .fdiv _ | .fsqrt _ | .frnd _ | .dadd _ | .dsub _ | .dmul _ | .dffma _ | .ddiv _ | .dsqrt _
  | .drnd _ | .hadd2 _ | .hfma2 _ | .bfma2 _ | .cvtFromFloat _ => true
  | .frcp _ | .frsq _ => !divsq
  | .cvtFromInteger f => 8 ≤ f.t.toNat
  | _ => false

/-- A sat hint with this payload may precede the word (R208, R269). -/
def Instr.saturates (payload : BitVec 1) : Instr → Bool
  | .iadd _ | .isub _ | .imul _ | .imad _ | .iadd64 _ | .isub64 _ | .imul64 _ | .iaddImm _ | .pack _ => true
  | .cvtFromInteger f => f.t.toNat ≤ 7 && payload = 0
  | .cvtFromFloat f => f.t.toNat ≤ 7 && payload = 0
  | _ => false

/-- A cache hint may precede the word (R269). -/
def Instr.cacheable : Instr → Bool
  | .ldZ8 _ | .ldI8 _ | .ldZ16 _ | .ldI16 _ | .ld32 _ | .ld64 _ | .st8 _ | .st16 _ | .st32 _ | .st64 _ | .ldlod _ | .pref _ | .cpy _ | .tex _ => true
  | _ => false

/-- A dtree hint may precede the word (R269). -/
def Instr.treeSums : Instr → Bool
  | .red f => f.p = 9
  | .rdst f => f.p = 9
  | _ => false

/-- The hints may precede the word (R269, R270), and the word has the ext hint that it needs (R268). -/
def Hints.fit (h : Hints) (divsq : Bool) (i : Instr) : Bool :=
  (h.ext.isNone || i.isImmForm || i.readsImm) && (h.ext.isSome || !i.readsImm) &&
  (!h.neg || (match i with | .sel _ => true | _ => (i.guard.getD 0) ≠ 0)) &&
  (h.rnd.isNone || i.rounds divsq) &&
  (match h.sat with | Option.none => true | some p => i.saturates p) &&
  (h.cache.isNone || i.cacheable) &&
  (!h.nb || ((i.guard.getD 0) ≠ 0 && i.namesPort)) &&
  (!h.dtree || i.treeSums)

end Sys2Proof
end

