-- ==== Sys2Proof/Machine/Ops.lean ====
section
/-! DEFINITION. Threads and groups (R147 to R150), ending threads, waves and workgroups, barriers' release (R155), taking a trap (R189 to R193) and returning from one (R199). -/

namespace Sys2Proof.Machine

/-! ### Groups (R148 to R150) -/

/-- The threads of a wave that have not ended. -/
def Wave.live (w : Wave) : Lanes := ~~~w.ended

/-- The held threads: PC equals MEET and the meeting has not released them (R148, R149). -/
def Wave.held (w : Wave) : Lanes :=
  lanesWhere fun l => w.live.getLsbD l && !w.released.getLsbD l && w.pcOf l = w.meetOf l

/-- A lane that does not issue for its Voxunet program: it is parked at its segment's end, or stands in the code cache with a gathering successor (R430, R432). -/
def Wave.stopped (w : Wave) (lane : Nat) : Bool := w.parked.getLsbD lane || (w.gathering.getLsbD lane && codeBase ≤ (w.pcOf lane).toNat)

/-- Every thread of the wave that has not ended is parked or held at a segment's end (R430). -/
def Wave.atEnd (w : Wave) : Bool := w.ended ≠ BitVec.allOnes 32 && (laneList w.live).all w.stopped

/-- A thread of the wave waits for the translation of its successor (R431): the wave is held at its segment's end. -/
def Wave.untranslatedWait (w : Wave) : Bool := (laneList w.live).any fun l => w.pcOf l = untranslated && !w.stopped l

/-- The wave waits because it has yielded (R319), not at the end of a segment. -/
def Wave.hasYielded (w : Wave) : Bool := w.wakeKind = 9 && !w.atEnd && !w.untranslatedWait

/-- The release rule of the meeting register (R149); and a wave whose threads are all at a segment's end, or one of which waits for a translation, waits there (R430, R431). -/
def Wave.settle (w : Wave) : Wave :=
  let h := w.held
  { w with
    wake := if (w.atEnd || w.untranslatedWait) && w.wakeKind = 0 then wakeOf 9 0 else w.wake
    released := w.released ||| lanesWhere fun l =>
      h.getLsbD l && (List.range 32).all fun m => !(w.live.getLsbD m && w.meetOf m = w.meetOf l) || h.getLsbD m
    hints := if h &&& w.hintLanes = 0 then w.hints else [] }

/-- The lanes of the group at an address. -/
def Wave.groupAt (w : Wave) (pc : Quad) : Lanes :=
  let h := w.held
  lanesWhere fun l => w.live.getLsbD l && !h.getLsbD l && !w.stopped l && w.pcOf l = pc

/-- The addresses of the un-held groups. -/
def Wave.groupPcs (w : Wave) : List Quad :=
  ((laneList (w.live &&& ~~~w.held)).filter fun l => !w.stopped l).map w.pcOf

/-- The lowest address of a list; none of the empty list. -/
def lowestPc : List Quad → Option Quad
  | [] => none
  | p :: ps => match lowestPc ps with
    | none => some p
    | some q => some (if p ≤ q then p else q)

/-- The address of the group to issue (R150). -/
def Wave.nextPc (w : Wave) : Option Quad :=
  match w.backFrom with
  | some b => (lowestPc (w.groupPcs.filter fun p => b < p)).orElse fun _ => lowestPc w.groupPcs
  | none => lowestPc w.groupPcs

/-- The group to issue: its address and lanes. After a hint word the same group issues again (R270). -/
def Wave.nextGroup (w : Wave) : Option (Quad × Lanes) :=
  if w.hints = [] then w.nextPc.map fun pc => (pc, w.groupAt pc)
  else some (w.hintPc + BitVec.ofNat 64 (4 * w.hints.length), w.hintLanes)

/-- The address that a trap's record gives for a word: that of the first hint before it (R271). -/
def Wave.recordPc (w : Wave) (pc : Quad) : Quad := if w.hints = [] then pc else w.hintPc

/-- The word at an address has issued: an unchecked issue of it is used up (R419). -/
def Wave.usedSkip (w : Wave) (pc : Quad) : Wave := if w.watchSkip = some pc then { w with watchSkip := none } else w

/-- The wave after its group at `pc` has issued a word that no branch follows: the group's lanes go to the next word, the release it had is used, and the wave has retired one instruction (R150, R164). -/
def Wave.advance (w : Wave) (lanes : Lanes) (pc : Quad) (now : Nat) : Wave :=
  { w.setPcs lanes (fun _ => pc + 4) with
    released := w.released &&& ~~~lanes
    time := w.time + 1
    seq := w.seq + 1
    lastIssue := now
    backFrom := none
    hints := []
    watchSkip := (w.usedSkip (w.recordPc pc)).watchSkip
    wake := 0
    waiting := none }

/-! ### Teams (R152) -/

/-- The gang wave indexes that a TEAM value lists; none where SIZE is 0. -/
def teamList (t : Quad) : List Nat :=
  let n := bitsOf t.toNat 0 3
  if n = 0 then [] else (List.range (n + 1)).map fun k => bitsOf t.toNat (7 * k + 8) 7

/-- A TEAM value with POS zero. -/
def teamKey (t : Quad) : Quad := t &&& ~~~(0x38 : Quad)

/-- The gang wave index of a wave (R152). -/
def Wave.gangIndex (w : Wave) : Nat := w.wg * 32 + w.index

/-- The waves of a gang that a TEAM value lists. -/
def State.members (s : State) (gang : Nat) (t : Quad) : List Wave :=
  (teamList t).filterMap fun m => s.waves.find? fun w => w.gang = gang && w.gangIndex = m

/-- The state with the waves that a list names changed. -/
def State.modWaves (s : State) (ids : List Nat) (f : Wave → Wave) : State :=
  { s with waves := s.waves.map fun w => if ids.contains w.id then f w else w }

/-- An engine trap queued on a wave for its next boundary (R187, R371). -/
def Wave.queueTrap (w : Wave) (t : EngineTrap) : Wave := { w with engineTraps := w.engineTraps ++ [t] }

/-- The wave is in a bar.sync, whose arrivals cannot be undone (R371). -/
def Wave.inSync (w : Wave) : Bool :=
  w.wakeKind = 3 && match w.waiting with
    | some (.barSync _) => true
    | _ => false

/-- A wave's wait withdrawn: the instruction is not performed, and the raise of its counter falls (R371). The arrivals of a bar.sync keep theirs. -/
def Wave.withdraw (w : Wave) : Wave :=
  let w1 := match w.waiting with
    | some i => if w.inSync then w else w.lower i.counter
    | none => w
  { w1 with wake := 0, waiting := none }

/-- A precise trap on the instruction that a wave holds in the latch (R153, R355, R356, R361). -/
def Wave.latchTrap (w : Wave) (code cause addr : Nat) (lod : Bool) : Wave :=
  match w.nextGroup with
  | none => w.withdraw
  | some (pc, lanes) =>
    w.withdraw.queueTrap ⟨code, cause, ((w.waiting.bind encode).getD 0), if w.hints = [] then pc else w.hintPc, lanes, lanes, BitVec.ofNat 64 addr, 0, true, lod⟩

/-- The wave waits in the rendezvous latch (R153). -/
def Wave.inLatch (w : Wave) : Bool := w.wakeKind = 7

/-- The TEAM value that a wave held on a team instruction names (R361). -/
def Wave.teamAsked (w : Wave) : Option Quad :=
  match w.waiting with
  | some (.team n) => if w.inLatch then some (pairOf (w.getS n.toNat) (w.getS (n.toNat + 1))) else none
  | _ => none

/-- The list that a wave held in the latch waits for. -/
def Wave.latchList (w : Wave) : List Nat := if w.inLatch then (match w.teamAsked with | some t => teamList t | none => teamList w.team) else []

/-- What becomes of a team's engine work when a member ends (R153, R356): waves held for it take ILLOP, its ungranted entries and frozen pass go, and its tile goes unless a granted pass still runs. -/
def State.memberEnded (s : State) (w : Wave) : State :=
  let waiting := (s.waves.filter fun x => x.gang = w.gang && x.id ≠ w.id && x.alive && x.latchList.contains w.gangIndex).map (·.id)
  let s1 := s.modWaves waiting fun x => x.latchTrap 0 0 0 false
  if teamList w.team = [] then s1
  else
    let key := teamKey w.team
    let mine (e : MxEntry) : Bool := e.gang = w.gang && e.team = key
    let gone := (s1.eng.matrix.table.filter mine).length + (s1.eng.matrix.withdrawn.filter mine).length + (s1.eng.matrix.tiles.filter fun t => t.gang = w.gang && t.team = key && t.frozen.isSome).length
    let ids := ((s1.members w.gang key).filter fun x => x.alive).map (·.id)
    let s2 := s1.modWaves ids fun x =>
      { x with tl := x.tl - BitVec.ofNat 6 gone, engineTraps := x.engineTraps.filter fun t => t.code ≠ 7 }
    s2.modMatrix fun m =>
      let busy := m.running.any mine
      { m with
        table := m.table.filter fun e => !mine e
        withdrawn := m.withdrawn.filter fun e => !mine e
        tiles := if busy then m.tiles.map fun t => if t.gang = w.gang && t.team = key then { t with frozen := none } else t
                 else m.tiles.filter fun t => !(t.gang = w.gang && t.team = key) }

/-! ### Staged bytes (R167) -/

/-- The staging buffer of a gang merged into memory: each byte through a translation made now; a byte that faults or lacks WR is dropped and logged. R167 does not say with which privilege the translation is made: without it (DESIGN CHOICE, log entry 85). -/
def State.mergeStaging (s : State) (gang : Nat) : State :=
  match s.gang? gang with
  | none => s
  | some g => if g.staged = [] && g.before = [] then s else match s.grid? g.grid with
    | none => s
    | some gr =>
      let firstOfLine (e : Nat × Byte × Nat) : Bool := (g.staged.find? fun x => x.1 / 64 = e.1 / 64) = some e
      let s1 := g.staged.foldl (init := s) fun t e =>
        match t.through g.cores.head? gr.asid e.1 needWrite false with
        | (.ok tr, t1) => (if firstOfLine e then t1.notePin gr.asid tr.pa tr.leaf else t1).storeHome gr.asid e.1 tr.pa tr.leaf tr.side [e.2.1]
        | (.error f, t1) =>
          if firstOfLine e then t1.logEvent 9 gr.asid (e.1 / 64 * 64) g.index (f.code * 256 + f.cause) else t1
      s1.modGang gang fun x => { x with staged := [], before := [] }

/-! ### Barriers (R154, R155, R164, R320, R321) -/

/-- The larger of two logical times. -/
def maxTime (a b : Quad) : Quad := if a ≤ b then b else a

/-- A wave leaves a wait at which it was excluded: its logical time becomes one more than the larger of its own and the releaser's (R164), and it goes past the instruction. -/
def Wave.leave (w : Wave) (t : Quad) (now : Nat) : Wave :=
  match w.nextGroup with
  | none => w
  | some (pc, lanes) => ({ w with time := maxTime w.time t + 1 }.advance lanes pc now).settle

/-- The largest logical time of some waves. -/
def latest (ws : List Wave) : Quad := ws.foldl (fun t w => maxTime t w.time) 0

/-- The waves leave a barrier of a scope: staged bytes are merged at quad scope or wider (R167), and each wave's departure acts as an acquire (R124). -/
def State.releaseWaves (s : State) (ws : List Wave) (scope : Nat) (now : Nat) : State :=
  let gangs := (ws.map (·.gang)).eraseDups
  let s1 := if 2 ≤ scope then gangs.foldl (fun t g => t.mergeStaging g) s else s
  let t := latest ws
  let s2 := s1.modWaves (ws.map (·.id)) fun w => w.leave t now
  if 2 ≤ scope then (ws.map (·.core)).eraseDups.foldl (fun x c => x.invalidateL1 c) s2 else s2

/-- Every wave of a list that has not ended waits at the barrier, and some wave does. -/
def allWait (ws : List Wave) (wake : Quad) : Bool :=
  let l := ws.filter Wave.alive
  l ≠ [] && l.all fun w => w.wake = wake

/-- The waves of a grid on this package that have been placed. -/
def State.gridWaves (s : State) (grid : Nat) : List Wave :=
  let gs := (s.gangs.filter fun g => g.grid = grid).map (·.id)
  s.waves.filter fun w => gs.contains w.gang

/-- The participants of a barnet of a scope that a wave joins (R154): its gang; for a persistent grid's die barrier, the grid's gangs on its die; else the grid's gangs on the package. -/
def State.netWaves (s : State) (w : Wave) (scope : Nat) : List Wave :=
  match s.home? w with
  | none => []
  | some (g, gr) =>
    if scope = 2 then s.wavesOf g.id
    else if scope = 3 && gr.pers then (s.gridWaves gr.id).filter fun x => dieOf x.core = dieOf w.core
    else s.gridWaves gr.id

/-- No gang of the wave's grid that takes part in the barrier is still to be placed: of a persistent grid's die barrier, the gangs of the wave's die, which hold the 24 indexes from 24 × die on (R154, R156). -/
def State.allPlaced (s : State) (w : Wave) (scope : Nat) : Bool :=
  scope = 2 || match s.home? w with
    | none => true
    | some (_, gr) => if scope = 3 && gr.pers then min gr.lastGang (gr.device * 96 + dieOf w.core * 24 + 24) ≤ gr.nextGang else gr.lastGang ≤ gr.nextGang

/-- The scope at which a barnet orders (R124, R154): die in a dispatched grid acts at package scope. -/
def State.netScope (s : State) (w : Wave) (scope : Nat) : Nat :=
  if scope = 3 then (match s.home? w with | some (_, gr) => if gr.pers then 3 else 4 | none => 4) else scope

/-- The peers have arrived at the pod barrier's next use (R154). -/
def State.peersArrived (s : State) (w : Wave) (scope : Nat) : Bool :=
  scope ≠ 5 || match s.home? w with
    | none => true
    | some (_, gr) => gr.ndevice ≤ 1 || gr.podUses < gr.podArrivals

/-- The barrier that a waiting wave is at is released if its last participant has arrived or ended (R155). -/
def State.tryRelease (s : State) (w : Wave) : State :=
  let now := s.cycle.toNat
  let arg := bitsOf w.wake.toNat 4 28
  match w.wakeKind with
  | 1 =>
    let ws := s.wavesOfWg w.gang w.wg
    if allWait ws w.wake then s.releaseWaves (ws.filter Wave.alive) 1 now else s
  | 2 =>
    let ws := s.netWaves w arg
    if allWait ws w.wake && s.allPlaced w arg && s.peersArrived w arg then
      let s1 := s.releaseWaves (ws.filter Wave.alive) (s.netScope w arg) now
      if arg = 5 then (match s.home? w with | some (_, gr) => s1.modGrid gr.id fun g => { g with podUses := g.podUses + 1 } | none => s1) else s1
    else s
  | _ => s

/-- Every barrier released that can be. -/
def State.releaseBarriers (s : State) : State :=
  s.waves.foldl (init := s) fun t w =>
    match t.wave? w.id with
    | some x => if x.wakeKind = 1 || x.wakeKind = 2 then t.tryRelease x else t
    | none => t

/-! ### Ending threads, waves, workgroups and gangs (R147, R155, R167) -/

/-- The gang's waves have all ended: what it staged is merged, its records and its placement go, and its batch is over. -/
def State.gangEnded (s : State) (gang : Nat) : State :=
  let s1 := s.mergeStaging gang
  { s1 with
    waves := s1.waves.filter fun w => w.gang ≠ gang
    eng := { s1.eng with matrix := { s1.eng.matrix with
      table := s1.eng.matrix.table.filter fun e => e.gang ≠ gang
      withdrawn := s1.eng.matrix.withdrawn.filter fun e => e.gang ≠ gang
      tiles := s1.eng.matrix.tiles.filter fun t => t.gang ≠ gang } }
    gangs := s1.gangs.filter fun g => g.id ≠ gang
    groups := s1.groups.filter fun g => g.gang ≠ gang
    fifo := s1.fifo.filter fun r => r ≠ .gang gang }

/-- Accesses that a trap has taken, or whose lanes faulted, are dropped without being performed; their counters fall. -/
def State.dropLogged (s : State) (p : Access → Bool) : State :=
  ((s.flights.filter fun a => p a && a.lanes.any AccLane.bad).map (·.id)).foldl (init := s) fun t id =>
    (t.modFlight id fun a => { a with lanes := a.lanes.map fun l => if l.bad then { l with status := .done } else l, taken := false, log := none }).finishAccess id

/-- The gang is over when its waves have all ended and nothing that they issued is still under way. -/
def State.sweepGang (s : State) (gang : Nat) : State :=
  let ws := s.wavesOf gang
  if (ws.all fun x => !x.alive) && s.isResident gang &&
      (ws.all fun x => x.txTodo = 0) && (s.flights.all fun a => ws.all fun x => x.id ≠ a.wave) &&
      (s.eng.queries.all fun q => ws.all fun x => x.id ≠ q.wave) && (s.eng.copies.all fun c => c.gang ≠ gang) && s.eng.matrix.running.all fun e => e.gang ≠ gang
  then s.gangEnded gang else s

/-- Threads of a wave end (R147): the meeting rule is applied, and where the wave has ended its team, its barriers and its gang take note. -/
def State.endLanes (s : State) (id : Nat) (lanes : Lanes) : State :=
  let s1 := s.modWave id fun w => { w with ended := w.ended ||| lanes, txIn := w.txIn &&& ~~~lanes }.settle
  match s1.wave? id with
  | none => s1
  | some w =>
    if w.alive then s1
    else
      let s2 := (((s1.modWave id fun x => { x with wake := 0, waiting := none, hints := [], engineTraps := [] }).dropLogged fun a => a.wave = id).park id).memberEnded w
      s2.releaseBarriers.sweepGang w.gang

/-- A lane's result registers written. -/
def State.putWords (s : State) (wave lane d : Nat) (ws : List Word) : State :=
  s.modWave wave fun w => (List.range ws.length).foldl (fun x k => x.setV lane (d + k) (ws.getD k 0)) w

/-- The results of a discarded query: as for MISS, with OUTCOME LOST (R399, R401, R403, R405, R406). -/
def Query.lostWords (q : Query) : List Word :=
  match q.instr with
  | .trav _ => [0, 0x7FF00000, 0xFFFFFFFF, 0, 0x80000]
  | .trnx _ => [0, 0, 0xFFFFFFFF, 0, 0x80000]
  | .isect _ => [0, 0x7FF00000, 0x80000]
  | _ => [0, 0x7F800000, 0x80000]

/-- One word's queries discarded (R399): their results are written, their slots are free, and LD falls; the wave that posed them, if it has not ended, is marked. -/
def State.discardQuery (s : State) (q : Query) : State :=
  (q.lanes.foldl (fun t l => t.putWords q.wave l.lane q.dst q.lostWords) (s.modEng fun e => { e with queries := e.queries.filter fun x => x.id ≠ q.id })).modWave
    q.wave fun w => if w.alive then { w.lower 1 with rayLost := true } else w

/-- The queries of a context discarded at once (R399), and what waited for them goes on. -/
def State.discardQueries (s : State) (asid : Nat) : State :=
  let qs := s.eng.queries.filter fun q => q.asid = asid
  let s1 := ((qs.foldl State.discardQuery s).settlePushes).settleAcquires.settleFences
  (qs.map (·.wave)).eraseDups.foldl (fun t id => match t.wave? id with | some w => t.sweepGang w.gang | none => t) s1

/-- A workgroup ends as under the default action (R189): its waves end, and its context's queries are discarded (R399). -/
def State.endWorkgroup (s : State) (asid gang wg : Nat) : State :=
  let ids := (s.wavesOfWg gang wg).map (·.id)
  let s1 := (s.dropLogged fun a => ids.contains a.wave).discardQueries asid
  ids.foldl (fun t id => t.endLanes id (BitVec.allOnes 32)) s1

/-! ### Taking a trap -/

/-- What a trap reports (R192). -/
structure TrapInfo where
  code : Nat
  cause : Nat
  logged : Bool
  lod : Bool
  word : Word
  pc : Quad
  active : Lanes
  fault : Lanes
  destmask : Nat
  logmask : Nat
  faddr : Nat
  aux : Nat
deriving DecidableEq, Repr

/-- The 64-byte header of the trap record (R192). -/
def TrapInfo.header (t : TrapInfo) : List Byte :=
  bytesOfNat 64 (t.code + t.cause * 2 ^ 8 + t.logged.toNat * 2 ^ 16 + t.lod.toNat * 2 ^ 17 +
    (laneCount (BitVec.ofNat 32 t.logmask)) * 2 ^ 18 + t.word.toNat * 2 ^ 32 + t.pc.toNat * 2 ^ 64 + t.active.toNat * 2 ^ 128 +
    t.fault.toNat * 2 ^ 160 + t.destmask * 2 ^ 192 + t.logmask * 2 ^ 224 + t.faddr * 2 ^ 256 + t.aux * 2 ^ 352)

/-- p1 to p7 of a lane in bits 6:0 (R192). -/
def Wave.predByte (w : Wave) (lane : Nat) : Byte :=
  BitVec.ofNat 8 ((List.range 7).foldl (fun n k => n + (w.getP lane (k + 1)).toNat * 2 ^ k) 0)

/-- The parts of the trap record that entry writes: offset and bytes (R191, R192). -/
def recordParts (w : Wave) (t : TrapInfo) : List (Nat × List Byte) :=
  [(0, t.header)] ++
  (laneList w.live).map (fun l => (64 + 8 * l, bytesOfNat 8 (w.pcOf l).toNat)) ++
  (laneList w.live).map (fun l => (320 + 8 * l, bytesOfNat 8 (w.meetOf l).toNat)) ++
  (laneList w.live).map (fun l => (576 + l, [w.predByte l])) ++
  [(608, (List.range 4).flatMap fun j => bytesOfNat 4 (w.getS (92 + j)).toNat)]

/-- The record as the event carries it, read back through the context; zeros where it cannot be read. -/
def State.recordBytes (s : State) (asid rec : Nat) : List Byte × State :=
  match s.ctxRead asid rec 1024 needRead true with
  | .ok r => r
  | .error _ => (List.replicate 1024 0, s)

/-- The fault event of an ended workgroup (R189, R193, R487): the trap record, and the nested header at byte 1,024. -/
def State.faultEvent (s : State) (asid : Nat) (record nested : List Byte) : State :=
  let block := (record ++ List.replicate 1024 0).take 1024 ++ (nested ++ List.replicate 1024 0).take 1024
  s.postEvent ⟨s.eventRecord 1 asid 0, some (asid, block)⟩

/-- The ASID of a wave's context. -/
def State.asidOf (s : State) (w : Wave) : Nat := match s.home? w with | some (_, gr) => gr.asid | none => 0

/-- The header that names a failed access of the trap machinery itself (R191, R193, R199). -/
def failedHeader (f : Flt) (addr : Nat) (word : Word) (pc : Quad) (active : Lanes) : List Byte :=
  TrapInfo.header ⟨f.code, f.cause, false, f.lod, word, pc, active, active, 0, 0, addr, 0⟩

/-- The handler's first state (R191): TM and PRIV set, every live thread at the handler with MEET all ones, s92:s93 the record; open transactions fail (R348). -/
def Wave.enter (w : Wave) (handler : Quad) (rec : Nat) : Wave :=
  let w1 := (w.setPcs w.live fun _ => handler).setMeets w.live fun _ => BitVec.allOnes 64
  let w2 := (w1.setS 92 (BitVec.ofNat 32 rec)).setS 93 (BitVec.ofNat 32 (rec / 2 ^ 32))
  { w2.withdraw.setTstat true true w.prepend with
    released := 0, parked := 0, phases := none, hints := [], backFrom := none
    txAbort := w.txAbort ||| w.txIn, txSet := [], txTodo := 0, txPred := none }

/-- The cycle at which a pre-emption request came to a gang that it still stands for: that of its expiry, or of the decision to evict it (R161, R204). -/
def State.requestedAt (s : State) (gang : Nat) : Option Nat := (s.gang? gang).bind fun g => g.expired.orElse fun _ => g.leaving

/-- The waves of a gang that are parked on a line whose presence bit is 1 go on (R59). -/
def State.wakePresent (s : State) (gang : Nat) : State :=
  { s with waves := s.waves.map fun w =>
      if w.gang = gang && w.wakeKind = 5 && (s.gang? gang).any (fun g => !g.absent.contains (bitsOf w.wake.toNat 4 28)) then w.withdraw else w }

/-- A gang that was about to leave goes on: one of its waves has entered a handler, which holds the request (R204). Lines that came meanwhile wake the waves parked on them (R59). -/
def State.stopLeaving (s : State) (gang : Nat) : State := (s.modGang gang fun g => { g with leaving := none }).wakePresent gang

/-- A pre-emption request to a wave with traps masked is held (R204). -/
def Wave.holdRequest (w : Wave) (requested : Bool) (now : Nat) : Wave :=
  if requested && w.tm && !w.prepend then { w.setTstat w.tm w.priv true with heldSince := some now } else w

/-- The accesses whose faults a trap reports are taken by it (R197), and what stands behind them waits for their replay (R196). -/
def State.takeLogged (s : State) (wave : Nat) : State :=
  ({ s with flights := s.flights.map fun a => if a.wave = wave && a.reported then { a with taken := true } else a } : State).park wave

/-- Taking a trap (R191): nested when traps are masked (R193); else the record is written, the vector read and the handler entered, or the default action taken (R189). The translation reports of R197 have been made. RAYLOST clears the wave's mark (R399). -/
def State.trapEntry (s0 : State) (w : Wave) (t : TrapInfo) : State :=
  let s := if t.code = 11 then s0.modWave w.id fun x => { x with rayLost := false } else s0
  let asid := s.asidOf w
  let rec_ := s.traddr asid w
  if w.tm then
    let (bs, s1) := s.recordBytes asid rec_
    (s1.faultEvent asid bs t.header).endWorkgroup asid w.gang w.wg
  else
    let written : Except (Flt × Nat) State := (recordParts w t).foldl (init := .ok s) fun acc p => do
      let x ← acc
      x.ctxWrite asid (rec_ + p.1) p.2 needWrite true (some w.core)
    match written with
    | .error (f, a) => (s.faultEvent asid t.header (failedHeader f a t.word t.pc t.active)).endWorkgroup asid w.gang w.wg
    | .ok s1 => match s1.ctxNat asid ((s1.ctx asid).tvbase.toNat + 8 * t.code) 8 needRead true with
      | .error (f, a) => (s1.faultEvent asid t.header (failedHeader f a t.word t.pc t.active)).endWorkgroup asid w.gang w.wg
      | .ok (v, s2) =>
        if v = 0 then
          let (bs, s3) := s2.recordBytes asid rec_
          (s3.faultEvent asid bs []).endWorkgroup asid w.gang w.wg
        else (s2.modWave w.id fun x => (x.enter (BitVec.ofNat 64 v) rec_).holdRequest (s2.requestedAt w.gang).isSome ((s2.requestedAt w.gang).getD 0)).stopLeaving w.gang |>.takeLogged w.id

/-- Every access of the wave reports its translation (R197); one that the L1 serves is not translated. -/
def State.reportAll (s : State) (wave : Nat) : State :=
  ((s.flights.filter fun a => a.wave = wave && a.unreported).map (·.id)).foldl (init := s) fun t id =>
    match t.flight? id with
    | none => t
    | some a => t.report a (t.missing a) 0

/-- The oldest of some accesses by sequence number. -/
def oldest : List Access → Option Access
  | [] => none
  | a :: as => match oldest as with
    | none => some a
    | some b => some (if a.seq ≤ b.seq then a else b)

/-- A lane's fault where it has one. -/
def AccLane.flt (l : AccLane) : Flt := match l.status with | .faulted c k d => ⟨c, k, d⟩ | _ => ⟨1, 0, false⟩

/-- The logged trap of a wave (R192, R197, R343): the oldest faulted access, and every entry that joins the trap. -/
def State.loggedTrap (s : State) (w : Wave) : Option TrapInfo :=
  let fs := s.flights.filter fun a => a.wave = w.id && a.reported
  match oldest fs with
  | none => none
  | some a =>
    let bad := a.lanes.filter fun l => match l.status with | .faulted c _ _ => c ≠ 16 | _ => false
    let first := (bad.foldl (init := none) fun (m : Option AccLane) l => match m with
      | none => some l
      | some x => if l.dest < x.dest || (l.dest = x.dest && l.lane < x.lane) then some l else some x)
    match first with
    | none => none
    | some l =>
      let f := l.flt
      let mask (x : List Nat) : Nat := x.eraseDups.foldl (fun n k => n + 2 ^ k) 0
      some ⟨f.code, f.cause, true, f.lod, a.word, a.pc, a.active, lanesWhere fun n => bad.any fun x => x.lane = n,
        (match a.kind with | .multi _ _ => mask (bad.map (·.dest)) | _ => 0), mask (fs.filterMap (·.log)), l.va, 0⟩

/-- The threads of a group whose word follows hint words are taken back to the first hint (R271). -/
def Wave.unhint (w : Wave) (lanes : Lanes) : Wave :=
  if w.hints = [] then w else { w.setPcs lanes (fun _ => w.hintPc) with hints := [] }

/-- A multi-destination store of the wave was refused at a destination and waits for the others' acknowledgements before it reports its fault (R343). -/
def State.reportDue (s : State) (wave : Nat) : Bool := s.flights.any fun a => a.wave = wave && a.faulty && !a.reported

/-- A precise trap of a group once every earlier access has reported (R187): its threads are back at the first hint (R271), and a logged fault takes precedence, unless traps are masked (R193, R197). A word that has `issued`, and so was not only fetched, has used an unchecked issue up (R419). -/
def State.preciseTrap (s : State) (id : Nat) (lanes : Lanes) (t : TrapInfo) (issued : Bool) : State :=
  let s1 := s.modWave id fun w => w.unhint lanes
  match s1.wave? id with
  | none => s1
  | some w => match (if w.tm then none else s1.loggedTrap w) with
    | some r => s1.trapEntry w r
    | none => (if issued then s1.modWave id fun x => x.usedSkip t.pc else s1).trapEntry w t

/-! ### Returning (R199) -/

/-- A read as the core sees it: each line from the core's L1 where it holds it, else translated (R34) and read at the home. -/
def State.coreRead (s : State) (core asid va n : Nat) (priv : Bool) : Except (Flt × Nat) (List Byte × State) :=
  (pieces va n).foldl (init := .ok ([], s)) fun acc p => do
    let (bs, s1) ← acc
    match findLine s1.caches.l1 core asid (p.1 / 64) false with
    | some l => .ok (bs ++ lineBytes l.data (p.1 % 64) p.2, s1)
    | none => match s1.translate (quadOf core) asid p.1 needRead priv 0 with
      | (.error f, _) => .error (f, p.1)
      | (.ok t, s2) =>
        let (b, s3) := s2.readHome asid t.pa t.leaf p.2
        .ok (bs ++ b, s3)

/-- A number in a list of bytes. -/
def natIn (bs : List Byte) (off n : Nat) : Nat := natOfBytes ((bs.drop off).take n)

/-- The registers that a return restores from the record (R199): PC, MEET and predicates of each live thread that the handler does not end, s92 to s95, and TM and PRIV zero; held status is worked out anew. A held pre-emption request acts (R420), and the word of a WATCH trap to which every thread returns is not checked again (R419). -/
def Wave.restore (w : Wave) (rec_ : List Byte) (endmask : Lanes) : Wave :=
  let keep := w.live &&& ~~~endmask
  let w1 := (w.setPcs keep fun l => BitVec.ofNat 64 (natIn rec_ (64 + 8 * l) 8)).setMeets keep fun l => BitVec.ofNat 64 (natIn rec_ (320 + 8 * l) 8)
  let w2 := (List.range 7).foldl (init := w1) fun x k =>
    x.setP keep (k + 1) (lanesWhere fun l => natIn rec_ (576 + l) 1 / 2 ^ k % 2 = 1)
  let w3 := (List.range 4).foldl (init := w2) fun x j => x.setS (92 + j) (BitVec.ofNat 32 (natIn rec_ (608 + 4 * j) 4))
  let again := natIn rec_ 0 1 = 12 && (laneList keep).all fun l => natIn rec_ (64 + 8 * l) 8 = natIn rec_ 8 8
  { w3.setTstat false false false with released := 0, backFrom := none, heldSince := none, watchSkip := if again then some (BitVec.ofNat 64 (natIn rec_ 8 8)) else w.watchSkip }

/-- The lines of some addresses gone from a core's L1, locks and all (R47). -/
def State.dropLines (s : State) (core asid : Nat) (vas : List Nat) : State :=
  s.modCaches fun c => { c with l1 := c.l1.filter fun l => !(l.core = core && l.asid = asid && !l.decoded && vas.any fun va => va / 64 = l.line) }

/-- An atomic, a transaction write or a multi-destination store removes its lines from the issuing core's L1 (R47); a fill of one that was asked for before is not installed, so that a spinning load meets the word at its home (R127). -/
def State.removeLines (s : State) (core asid : Nat) (vas : List Nat) : State :=
  { s.dropLines core asid vas with
    flights := s.flights.map fun b =>
      if b.core = core && b.asid = asid && b.kind.cached && b.lanes.any (fun l => (l.status = .fresh || l.status = .ready) && vas.any fun va => va / 64 = l.line) then { b with noInstall := true } else b }

/-- A kind of access that removes its lines from its core's L1 as it issues (R47). -/
def AccKind.removes : AccKind → Bool
  | .atomic _ _ _ | .cas _ | .multi _ _ | .txWrite => true
  | _ => false

/-- The entries of a log mask re-issued (only their faulted lanes, R199), or freed unperformed; an entry with the abort flag is never performed. As at their issue, their lines go from the L1 where their kind removes them (R47). -/
def State.replayLog (s : State) (w : Wave) (mask : Nat) (replay : Bool) : State :=
  let mine (a : Access) : Bool := a.wave = w.id && a.taken && match a.log with | some n => mask.testBit n | none => false
  let s0 := s.dropLogged fun a => mine a && (!replay || a.abort)
  let s1 := s0.removeLines w.core (s0.asidOf w) ((s0.flights.filter fun a => mine a && a.kind.removes).flatMap fun a => (a.lanes.filter AccLane.bad).map AccLane.va)
  ({ s1 with flights := s1.flights.map fun a => if mine a then
      { a with lanes := a.lanes.map fun l => if l.bad then { l with status := .fresh } else l, taken := false, log := none } else a } : State).park w.id

/-- The return from a trap (R199). A read of the record that faults ends the workgroup as under the default action. -/
def State.trapReturn (s : State) (w : Wave) (replay : Bool) (word : Word) (pc : Quad) (active : Lanes) : State :=
  let asid := s.asidOf w
  match s.coreRead w.core asid (s.traddr asid w) 1024 true with
  | .error (f, a) => (s.faultEvent asid (failedHeader f a word pc active) []).endWorkgroup asid w.gang w.wg
  | .ok (rec_, s1) =>
    let endmask : Lanes := BitVec.ofNat 32 (natIn rec_ 40 4)
    let s2 := s1.replayLog w (natIn rec_ 28 4) replay
    (s2.modWave w.id fun x => x.restore rec_ endmask).endLanes w.id endmask

end Sys2Proof.Machine
end

