-- ==== Sys2Proof/Machine/Place.lean ====
section
/-! DEFINITION. The distributor: room on a core (R176), the choice of cores (R177, R178) and the first state of a placed gang (R58, R146, R168, R431). -/

namespace Sys2Proof.Machine

/-- A quad on which the distributor places: in state 0, with no move in progress, and not disabled (R177, R494, R496); on none while a checkpoint or a restore is under way (R497). -/
def State.quadUp (s : State) (quad : Nat) : Bool :=
  bitsOf (s.kiln.qpstat.get quad).toNat 0 3 = 0 && !s.kiln.disabled.contains quad && s.eng.checkpoints.isEmpty

/-- Waves of a workgroup that run on a partition (R143). -/
def wavesOn (nwave p : Nat) : Nat := (nwave + 3 - p) / 4

/-- The launch of a wave's gang. -/
def State.gridOf (s : State) (w : Wave) : Option Grid := (s.home? w).map (·.2)

/-- The waves that hold a slot of a partition. A wave of a Voxunet workgroup whose threads have all ended keeps its slot, since a regroup may bring threads into it (R431; log entry 9). -/
def State.slotHolders (s : State) (core p : Nat) : List Wave :=
  s.waves.filter fun w => w.core = core && w.partition = p && s.isResident w.gang && (w.alive || ((s.gridOf w).bind Grid.vox).isSome)

/-- Register granules held on a partition. -/
def State.regsHeld (s : State) (core p : Nat) : Nat :=
  ((s.slotHolders core p).map fun w => match s.gridOf w with | some g => g.regs / 8 | none => 0).sum

/-- What the workgroups on a core hold of a per-core resource. -/
def State.coreHeld (s : State) (core : Nat) (need : Grid → Nat) : Nat :=
  ((s.gangs.filter (·.resident)).map fun g => match s.grid? g.grid with
    | some gr => need gr * (g.cores.filter (· = core)).length
    | none => 0).sum

/-- Free over needed for one resource; none where the workgroup needs none of it. -/
def ratio (free need : Nat) : Option Nat := if need = 0 then none else some (free / need)

/-- The least of the fit counts of several resources; 64, which no resource reaches, where none is needed. -/
def leastFit (ratios : List (Option Nat)) : Nat :=
  ratios.foldl (fun m r => match r with | some k => min m k | none => m) 64

/-- The fit count of a workgroup of a grid on a core (R176), given what is held there. -/
def fitCount (gr : Grid) (slots regs : Nat → Nat) (loc bars pin : Nat) : Nat :=
  let per := (List.range 4).flatMap fun p =>
    [ratio ((if p = 3 then 15 else 16) - slots p) (wavesOn gr.nwave p), ratio ((if p = 3 then 126 else 128) - regs p) (wavesOn gr.nwave p * (gr.regs / 8))]
  leastFit (per ++ [ratio (128 - pin - loc) gr.localg, ratio (32 - bars) gr.bars])

/-- The fit count on a core as it stands. -/
def State.fitOn (s : State) (gr : Grid) (core : Nat) : Nat :=
  fitCount gr (fun p => (s.slotHolders core p).length) (s.regsHeld core) (s.coreHeld core Grid.localg) (s.coreHeld core Grid.bars) (s.pinsize.get core).toNat

/-- The fit count on a core when its quad is empty (R169). -/
def State.fitEmpty (s : State) (gr : Grid) (core : Nat) : Nat :=
  fitCount gr (fun _ => 0) (fun _ => 0) 0 0 (s.pinsize.get core).toNat

/-- The core sets of a quad that a gang of `n` workgroups can take: their first cores (R151). -/
def firstCores (quad n : Nat) : List Nat := (List.range (5 - n)).map fun k => 4 * quad + k

/-- The fit count of a gang's saved matrix state on the engine of a quad (R381): tiles, granules and entries of the reservation table, each free over needed. -/
def State.matrixFit (s : State) (gang quad : Nat) : List (Option Nat) :=
  let saved := s.eng.matrix.tiles.filter fun t => t.gang = gang
  let there := s.eng.matrix.tiles.filter fun t => t.quad = quad && t.gang ≠ gang && s.isResident t.gang
  [ratio (4 - there.length) saved.length, ratio (32 - (there.map (·.granules)).sum) (saved.map (·.granules)).sum,
    ratio (16 - (s.eng.matrix.table.filter fun e => e.quad = quad).length) (s.eng.matrix.withdrawn.filter fun e => e.gang = gang).length]

/-- The fit count of a gang on the cores from a first one on: the least over its workgroups and its saved matrix state (R176, R381). -/
def State.gangFit (s : State) (gr : Grid) (gang first : Nat) : Nat :=
  (List.range gr.nwg).foldl (fun m k => min m (s.fitOn gr (first + k))) (leastFit (s.matrixFit gang (quadOf first)))

/-- The matrix resources a gang's saved tiles need on a quad are free there (R381). -/
def State.matrixRoom (s : State) (gang quad : Nat) : Bool := 1 ≤ leastFit (s.matrixFit gang quad)

/-- The accesses of a workgroup, of handlers or of others, that its gang's save area holds as log entries, and those that may still take one. -/
def State.logNeed (s : State) (gang wg : Nat) (priv : Bool) : Nat :=
  (s.flights.filter fun a => a.privileged = priv && (s.wavesOfWg gang wg).any fun w => w.id = a.wave && (a.isSaved || (a.mayLog && !a.nests w))).length

/-- Entries of the operand log that are held, or are set aside, by handlers and by others do not come to more than there are: four of the 32 are kept for handlers (R198). -/
def logHolds (others handlers : Nat) : Bool := others + (handlers - 4) ≤ 28

/-- The cores from a first one on have free log entries for those that an evicted gang saved (R203), beside those that its other accesses and the accesses of the cores' waves may still take. -/
def State.logsFit (s : State) (gr : Grid) (gang : Gang) (first : Nat) : Bool :=
  gang.saved.isNone || (List.range gr.nwg).all fun k =>
    let used := s.logUsed (first + k)
    let kept := (used.filter fun n => 28 ≤ n).length
    logHolds (used.length - kept + s.logDue (first + k) false + s.logNeed gang.id k false) (kept + s.logDue (first + k) true + s.logNeed gang.id k true)

/-- The quads that may take a gang: its own for a persistent grid (R156), else every one. -/
def homeQuads (gr : Grid) (gang : Gang) : List Nat := if gr.pers then [gang.index % 96] else List.range 96

/-- Where the distributor puts a gang: the lowest fit count, then the lowest first core (R177). -/
def State.choose (s : State) (gr : Grid) (gang : Gang) : Option Nat :=
  let cand := ((homeQuads gr gang).filter s.quadUp).flatMap fun q =>
    (firstCores q gr.nwg).filterMap fun c => let k := s.gangFit gr gang.id c; if k = 0 || !s.logsFit gr gang c then none else some (k, c)
  (cand.foldl (init := none) fun (m : Option (Nat × Nat)) x => match m with
    | none => some x
    | some y => if x.1 < y.1 then some x else some y).map (·.2)

/-- The lowest free slot of a partition of a core; slot 63 is the firmware agent's (R143, R170). -/
def State.freeSlot (s : State) (core p : Nat) : Nat :=
  let used := (s.slotHolders core p).map (·.slot)
  ((List.range (if p = 3 then 15 else 16)).find? fun n => !used.contains (16 * p + n)).getD 0 + 16 * p

/-- Lanes of a wave that begin ended (R143). -/
def beginEnded (gr : Grid) (w : Nat) : Lanes := lanesWhere fun l => gr.wgthr ≤ w * 32 + l

/-- The scalar preloads (R168). -/
def preloads (gr : Grid) : SMap 32 := SMap.cells 0 ((List.range 20).map fun j => BitVec.ofNat 32 (gr.arg j))

/-- The virtual thread indices that the dispatcher writes at placement (R431). -/
def Wave.withVti (w : Wave) (gr : Grid) : Wave :=
  match gr.vox with
  | none => w
  | some _ => w.setVs w.live (gr.regs - 15) fun l => BitVec.ofNat 32 (w.index * 32 + l)

/-- One wave of a gang placed for the first time. -/
def State.placeWave (s : State) (gr : Grid) (gang wg core index : Nat) : State :=
  let (id, s1) := s.newId
  let w := (Wave.start id gang wg index core (s1.freeSlot core (index % 4)) (BitVec.ofNat 64 gr.code) (beginEnded gr index) (preloads gr) s1.cycle.toNat).withVti gr
  { s1 with waves := s1.waves ++ [w] }

/-- A gang placed for the first time, its workgroups on consecutive cores from the first one on (R58, R100, R146, R151, R214). -/
def State.placeGang (s : State) (gr : Grid) (gang first : Nat) : State :=
  let s1 := s.modGang gang fun g => { g with
    cores := (List.range gr.nwg).map (first + ·), resident := true, placedAt := s.cycle.toNat, expired := none, leaving := none
    bytes := [], absent := [], tags := [], plres := 0, fpc := (s.ctx gr.asid).fpc }
  let s2 := (List.range gr.nwg).foldl (init := s1) fun t k =>
    (List.range gr.nwave).foldl (init := t) fun u w => u.placeWave gr gang k (first + k) w
  match gr.vox with
  | some m => { s2 with groups := s2.groups ++ (List.range gr.nwg).map fun k => { gang, wg := k, order := List.range (gr.wgthr / max m.width 1) } }
  | none => s2

/-- Where the head of the FIFO fits: its gang's name (0 for a gang that is still to be made), its first core and how many it takes. -/
def State.headPlace (s : State) : Option (Nat × Nat × Nat) :=
  match s.fifo with
  | .gang id :: _ => (s.gang? id).bind fun g => (s.grid? g.grid).bind fun gr => (s.choose gr g).map fun c => (id, c, gr.nwg)
  | .grid id :: _ => (s.grid? id).bind fun gr => (s.choose gr (Gang.start 0 id gr.nextGang)).map fun c => (0, c, gr.nwg)
  | [] => none

/-- The head of the FIFO placed where it fits (R177); an evicted gang there waits for its restore. -/
def State.placeHead (s : State) : Option State :=
  match s.fifo with
  | .gang id :: rest => match s.gang? id with
    | none => some { s with fifo := rest }
    | some g => if g.saved.isSome then none else match s.grid? g.grid with
      | none => some { s with fifo := rest }
      | some gr => (s.choose gr g).map fun c => { s with fifo := rest }.placeGang gr id c
  | .grid id :: rest => match s.grid? id with
    | none => some { s with fifo := rest }
    | some gr =>
      if gr.lastGang ≤ gr.nextGang then some { s with fifo := rest }
      else
        let (gid, s1) := s.newId
        let g := Gang.start gid id gr.nextGang
        (s1.choose gr g).map fun c =>
          let s2 := ({ s1 with gangs := s1.gangs ++ [g] }.modGrid id fun x => { x with nextGang := x.nextGang + 1 }).placeGang gr gid c
          if gr.lastGang ≤ gr.nextGang + 1 then { s2 with fifo := rest } else s2
  | [] => none

/-- The distributor places gangs while the head fits (R177, R178). A package holds at most 384 × 63 waves, so that many placements suffice. -/
def placeLoop : Nat → State → State
  | 0, s => s
  | n + 1, s => match s.placeHead with
    | none => s
    | some t => placeLoop n t

/-- See `placeLoop`. -/
def State.distribute (s : State) : State := if s.fifo = [] then s else placeLoop (24192 + s.fifo.length) s

end Sys2Proof.Machine
end

