-- ==== Sys2Proof/Machine/Ports.lean ====
section
/-! DEFINITION. Queue ports (R157, R158, R174, R267, R350, R351): what a port can pop or take, and the pops and pushes themselves. -/

namespace Sys2Proof.Machine

/-- Kind and descriptor of a port of a grid (R174); kind 0 is unbound. -/
def Grid.port (g : Grid) (n : Nat) : Nat × Nat := (g.ports[n - 112]?).getD (0, 0)

/-- A port of this kind can be read (R174). -/
def portReads (kind : Nat) : Bool := kind = 1 || kind = 3 || kind = 4
/-- A port of this kind can be written (R174). -/
def portWrites (kind : Nat) : Bool := kind = 1 || kind = 2 || kind = 5

/-- A FIFO's descriptor as its home holds it (R350); the fault where it is unmapped. -/
def State.fifoDesc (s : State) (asid desc : Nat) : Except Flt Nat :=
  match s.ctxNat asid desc 32 needBoth false with
  | .ok (d, _) => .ok d
  | .error (f, _) => .error f

/-- RING, LOG2N, HEAD and TAIL of a descriptor (R350). -/
def fifoRing (d : Nat) : Nat := bitsOf d 0 64
/-- See `fifoRing`. -/
def fifoSize (d : Nat) : Nat := 2 ^ bitsOf d 64 5
/-- See `fifoRing`. -/
def fifoHead (d : Nat) : Nat := bitsOf d 96 32
/-- See `fifoRing`. -/
def fifoTail (d : Nat) : Nat := bitsOf d 128 32
/-- Entries in a FIFO. -/
def fifoCount (d : Nat) : Nat := (fifoTail d + 2 ^ 32 - fifoHead d) % 2 ^ 32

/-- The whole ring of a FIFO is mapped for reading and writing. -/
def State.ringMapped (s : State) (asid d : Nat) (idx n : Nat) : Option Flt :=
  (List.range n).findSome? fun j => match walk s asid (fifoRing d + 4 * ((idx + j) % fifoSize d)) needBoth false with
    | .error f => some f
    | .ok _ => none

/-- Records that a binning queue holds. -/
def BinQueue.total (q : BinQueue) : Nat :=
  (q.bins.map fun b => b.records.length).sum + (q.batches.map List.length).sum

/-- The binning queue with a descriptor address in a context. -/
def State.binQueue? (s : State) (asid desc : Nat) : Option BinQueue := s.bins.find? fun q => q.asid = asid && q.desc = desc

/-- What a port access can get. -/
inductive PortRoom where
  /-- That many entries can be popped or pushed now. -/
  | room (n : Nat)
  /-- The ring or the descriptor is unmapped: the access waits (R351). -/
  | unmapped (f : Flt)
deriving DecidableEq, Repr

/-- How many entries a read of the port can pop; the dispenser and an exhausted batch always answer (R157, R158). -/
def State.popRoom (s : State) (gr : Grid) (n want : Nat) : PortRoom :=
  let (kind, desc) := gr.port n
  if kind = 1 then match s.fifoDesc gr.asid desc with
    | .error f => .unmapped f
    | .ok d => match s.ringMapped gr.asid d (fifoHead d) (min want (fifoCount d)) with
      | some f => .unmapped f
      | none => .room (fifoCount d)
  else .room want

/-- How many entries a write of the port can push; the cone ring never waits (R94). -/
def State.pushRoom (s : State) (gr : Grid) (n want : Nat) : PortRoom :=
  let (kind, desc) := gr.port n
  if kind = 1 then match s.fifoDesc gr.asid desc with
    | .error f => .unmapped f
    | .ok d => match s.ringMapped gr.asid d (fifoTail d) (min want (fifoSize d - fifoCount d)) with
      | some f => .unmapped f
      | none => .room (fifoSize d - fifoCount d)
  else if kind = 2 then .room (65536 - (match s.binQueue? gr.asid desc with | some q => q.total | none => 0))
  else .room want

/-! ### What a word asks of its ports (R267) -/

/-- A use of a port by a word: its number, whether it is a pop, whether it is scalar, and its place in the order a, b, data. -/
structure PortUse where
  port : Nat
  pop : Bool
  scalar : Bool
  role : Nat
deriving DecidableEq, Repr

/-- The port uses of a word: pops in the order a, b, data, then pushes. -/
def portUses (i : Instr) : List PortUse :=
  let ps := i.operands.filter fun o => isPort o.num && o.count = 1
  (ps.filter fun o => o.dir ≠ .write).map (fun o => ⟨o.num, true, o.cls = .scal, o.role⟩) ++
  (ps.filter fun o => o.dir ≠ .read).map fun o => ⟨o.num, false, o.cls = .scal, o.role⟩

/-- A port is unbound or of the other direction (R174). -/
def portIllegal (gr : Grid) (u : PortUse) : Bool :=
  let k := (gr.port u.port).1
  if u.pop then !portReads k else !portWrites k

/-- How many entries `k` served lanes ask of a use. -/
def PortUse.count (u : PortUse) (k : Nat) : Nat := if k = 0 then 0 else if u.scalar then 1 else k

/-- The entries that `k` served lanes ask of a port's queue in one direction, over every use of it. -/
def askOf (gr : Grid) (us : List PortUse) (u : PortUse) (k : Nat) : Nat :=
  ((us.filter fun x => x.pop = u.pop && gr.port x.port = gr.port u.port).map fun x => x.count k).sum

/-- A use can be served for `k` lanes now. -/
def State.serves (s : State) (gr : Grid) (us : List PortUse) (k : Nat) (u : PortUse) : Bool :=
  let n := askOf gr us u k
  match (if u.pop then s.popRoom gr u.port n else s.pushRoom gr u.port n) with
  | .room m => n ≤ m
  | .unmapped _ => n = 0

/-- How many lanes can be served, at most `n`. -/
def State.servable (s : State) (gr : Grid) (us : List PortUse) : Nat → Nat
  | 0 => 0
  | n + 1 => if us.all (s.serves gr us (n + 1)) then n + 1 else s.servable gr us n

/-- The first use whose queue is unmapped for what `k` lanes ask of it, with the fault (R351). -/
def State.unmappedPort (s : State) (gr : Grid) (us : List PortUse) (k : Nat) : Option (PortUse × Flt) :=
  us.findSome? fun u => match (if u.pop then s.popRoom gr u.port (askOf gr us u k) else s.pushRoom gr u.port (askOf gr us u k)) with
    | .unmapped f => some (u, f)
    | .room _ => none

/-- The hints that a wave has issued for its next word. -/
def Wave.hintsNow (w : Wave) : Hints :=
  w.hints.foldl (fun h x => match decode x with | .ok i => h.add i | .error _ => h) .none

/-- ACTIVE (R261): the lanes of the group whose guard holds, read inverted under a neg hint. sel's selector is no guard (R293). -/
def activeLanes (i : Instr) (w : Wave) (lanes : Lanes) (neg : Bool) : Lanes :=
  match i.guard with
  | none => lanes
  | some g => lanesWhere fun l => lanes.getLsbD l && (w.getP l g.toNat != (neg && g ≠ 0))

/-- A wave that waits at its ports can be served now: every entry that its instruction asks for is there (R267). -/
def State.waitServed (s : State) (w : Wave) : Bool :=
  match w.waiting, s.home? w, w.nextGroup with
  | some i, some (_, gr), some (_, lanes) => (portUses i).all (s.serves gr (portUses i) (laneCount (activeLanes i w lanes w.hintsNow.neg)))
  | _, _, _ => false

/-- The instruction at which a wave waits uses a port of a queue. -/
def State.waitsAt (s : State) (w : Wave) (asid : Nat) (queue : Nat × Nat) : Bool :=
  w.wakeKind = 4 && match w.waiting, s.home? w with
    | some i, some (_, gr) => gr.asid = asid && (portUses i).any fun u => gr.port u.port = queue
    | _, _ => false

/-! ### Pops and pushes -/

/-- A word of the descriptor at its home. -/
def State.putDesc (s : State) (asid desc ofs x : Nat) : State :=
  match s.ctxWrite asid (desc + ofs) (bytesOfNat 4 x) needBoth false none with
  | .ok s1 => s1
  | .error _ => s

/-- A wave that waits at a port and is released by an access of a logical time; 0 for one made outside its grid. In a deterministic launch its L rises now and it waits for the ticket that it then has, so that neither depends on when it is woken (R162, R164); else it keeps the time until it goes on. -/
def Wave.servedAt (w : Wave) (det : Bool) (t : Quad) : Wave :=
  if det then { w with time := maxTime w.time t + 1, wake := wakeOf 8 0, releaser := 0 } else { w with releaser := t }

/-- The waves that wait at a queue and that an access to it by a wave of a grid has released (R164): those that can be served now. -/
def State.notePort (s : State) (gr : Grid) (queue : Nat × Nat) (t : Quad) : State :=
  { s with waves := s.waves.map fun w =>
      if s.waitsAt w gr.asid queue && s.waitServed w then
        match s.home? w with
        | some (_, x) => w.servedAt x.det (if x.id = gr.id then t else 0)
        | none => w
      else w }

/-- What a pop gives: the entries, and for which of them the source is exhausted (their guard predicate becomes false, R157, R158). -/
structure Popped where
  vals : List Word
  ended : List Bool
deriving DecidableEq, Repr

/-- `n` entries of a ring from an index on, as reads of one run or two. -/
def ringRuns (ring size idx n : Nat) : List Look :=
  let k := min n (size - idx % size)
  (if k = 0 then [] else [portLook (ring + 4 * (idx % size)) (4 * k)]) ++ if n ≤ k then [] else [portLook ring (4 * (n - k))]

/-- `n` entries popped from a port in order (R157, R158, R351). -/
def State.pop (s : State) (ga : Gang) (gr : Grid) (w : Wave) (port n : Nat) : Popped × State :=
  let (kind, desc) := gr.port port
  match kind with
  | 1 => match s.fifoDesc gr.asid desc with
    | .error _ => (⟨List.replicate n 0, List.replicate n false⟩, s)
    | .ok d =>
      let at_ (j : Nat) : Nat := fifoRing d + 4 * ((fifoHead d + j) % fifoSize d)
      let vals := (List.range n).map fun j => match s.ctxNat gr.asid (at_ j) 4 needBoth false with
        | .ok (v, _) => BitVec.ofNat 32 v
        | .error _ => 0
      let s0 := s.noteReads gr.asid (portLook desc 32 :: ringRuns (fifoRing d) (fifoSize d) (fifoHead d) n)
      let s1 := s0.putDesc gr.asid desc 12 (fifoHead d + n)
      (⟨vals, List.replicate n false⟩, (s1.invalidateL1 w.core).notePort gr (kind, desc) w.time)
  | 3 =>
    let left := ga.batch.drop ga.batchAt
    let vals := (List.range n).map fun j => (left[j]?).getD 0xFFFFFFFF
    (⟨vals, (List.range n).map fun j => decide (left.length ≤ j)⟩, s.modGang ga.id fun g => { g with batchAt := min (g.batchAt + n) g.batch.length })
  | _ =>
    let vals := (List.range n).map fun j => if gr.dispNext + j < gr.dispEnd then BitVec.ofNat 32 (gr.dispNext + j) else 0xFFFFFFFF
    (⟨vals, (List.range n).map fun j => decide (gr.dispEnd ≤ gr.dispNext + j)⟩, s.modGrid gr.id fun g => { g with dispNext := min (g.dispNext + n) g.dispEnd })

/-- One record pushed into its bin (R158): a bin that reaches the threshold forms a batch of its oldest records. The model keeps records and bin state here and writes nothing at STORE, which R175 reserves to the device and for which it gives no layout (DESIGN CHOICE, log entry 91). -/
def BinQueue.push (q : BinQueue) (r : Word) (now : Nat) : BinQueue :=
  let key := bitsOf r.toNat 20 12
  let recs := (match q.bins.find? fun b => b.key = key with | some b => b.records | none => []) ++ [r]
  let rest := q.bins.filter fun b => b.key ≠ key
  if q.thresh ≤ recs.length then
    { q with bins := (if recs.drop q.thresh = [] then rest else rest ++ [⟨key, recs.drop q.thresh, now⟩]), batches := q.batches ++ [recs.take q.thresh] }
  else { q with bins := rest ++ [⟨key, recs, now⟩] }

/-- The consumer gangs of the batches that a binning queue has formed enter the FIFO (R158, R175): the n-th batch is gang n. Its records leave the queue as the batch is formed, and count against its capacity no more (R158 does not say; DESIGN CHOICE, log entry 85). -/
def State.launchBatches (s : State) (qid : Nat) : State :=
  match s.bins.find? fun q => q.id = qid with
  | none => s
  | some q => match s.grids.find? fun g => g.consumerOf = some qid with
    | none => s
    | some gr => if gr.phase = .ending then { s with bins := s.bins.map fun (x : BinQueue) => if x.id = qid then { x with batches := [] } else x } else q.batches.foldl (init := s) fun t b =>
      let (id, t1) := t.newId
      let n := match t1.bins.find? fun x => x.id = qid with | some x => x.nextBatch | none => 0
      { t1 with
        gangs := t1.gangs ++ [{ Gang.start id gr.id n with batch := b }]
        fifo := t1.fifo ++ [.gang id]
        bins := t1.bins.map fun (x : BinQueue) => if x.id = qid then { x with batches := x.batches.drop 1, nextBatch := n + 1 } else x }

/-- Entries pushed to a port in order (R94, R158, R351); the gangs of the batches that are formed are placed where they fit (R158, R177). -/
def State.push (s : State) (gr : Grid) (w : Wave) (port : Nat) (vals : List Word) : State :=
  let (kind, desc) := gr.port port
  match kind with
  | 1 => match s.fifoDesc gr.asid desc with
    | .error _ => s
    | .ok d =>
      let s1 := (List.range vals.length).foldl (init := s.noteReads gr.asid [portLook desc 32]) fun t j =>
        match t.ctxWrite gr.asid (fifoRing d + 4 * ((fifoTail d + j) % fifoSize d)) (bytesOfNat 4 ((vals[j]?).getD 0).toNat) needBoth false none with
        | .ok t1 => t1
        | .error _ => t
      (s1.putDesc gr.asid desc 16 (fifoTail d + vals.length)).notePort gr (kind, desc) w.time
  | 2 => match s.binQueue? gr.asid desc with
    | none => s
    | some q =>
      let q' := vals.foldl (fun x r => x.push r s.cycle.toNat) q
      (({ s with bins := s.bins.map fun (x : BinQueue) => if x.id = q.id then q' else x }).launchBatches q.id |>.notePort gr (kind, desc) w.time).distribute
  | 5 => ((vals.foldl (init := s) fun t v =>
      t.conePush w.core gr.asid (bitsOf v.toNat 0 20) (bitsOf v.toNat 20 4) 0xFFFFFFF 4 0).pushedBy s.nextId s.nextId 0).settlePushes
  | _ => s

end Sys2Proof.Machine
end

