-- ==== Sys2Proof/Machine/Operands.lean ====
section
/-! DEFINITION. Operands: what a meaning is given when its word issues, and every form in which a source is read and a destination written (R207, R261, R263 to R268). -/

namespace Sys2Proof.Machine

/-- What a meaning is given: the wave as it stood before the issue, the lanes of the group, ACTIVE (R261), the word and its address, its hints, the wave's gang and grid, and the entries its port fields popped, keyed role × 32 + lane (R267). -/
structure Ctx where
  w : Wave
  lanes : Lanes
  act : Lanes
  pc : Quad
  word : Word
  hints : Hints
  ga : Gang
  gr : Grid
  popped : SMap 32
deriving DecidableEq, Repr

/-- The first native register above the virtual ones of a Voxunet launch: v(VREGS) (R426, R430). -/
def Ctx.vregs (c : Ctx) : Nat := c.gr.regs - 16

/-- The word is one of a translated segment. -/
def Ctx.vox (c : Ctx) : Bool := c.gr.virtualAt c.pc

/-- The width of the wave that cross-lane words act over: 32, or VW (R439). -/
def Ctx.width (c : Ctx) : Nat := match c.gr.vox with | none => 32 | some m => if c.vox then max m.width 1 else 32

/-- The first lane of a lane's block (R431). -/
def Ctx.blockBase (c : Ctx) (lane : Nat) : Nat := lane / c.width * c.width

/-- The blocks of a native wave: one, or its virtual waves (R431). -/
def Ctx.blocks (c : Ctx) : List Lanes :=
  (List.range (32 / c.width)).map fun b => lanesWhere fun l => l / c.width = b

/-- The immediate a word reads as vimm (R268): Imm32 in an I-format word, else the extension sign-extended from 24 bits. -/
def Ctx.vimm (c : Ctx) : Word :=
  match c.hints.ext with
  | none => 0
  | some e => BitVec.ofInt 32 (signedOf 24 e.toNat)

/-- Imm32 of an I-format word (R268). -/
def Ctx.imm32 (c : Ctx) (imm : BitVec 8) : Word :=
  match c.hints.ext with
  | none => BitVec.ofInt 32 (signedOf 8 imm.toNat)
  | some e => e ++ imm

/-- A vector-class source of one register in a lane (R263), in a word whose vimm is `imm`. -/
def Ctx.vsrc (c : Ctx) (imm : Word) (num role lane : Nat) : Word :=
  if num ≤ 111 then c.w.getV lane num
  else if num = 124 then 0
  else if num = 125 then BitVec.ofNat 32 lane
  else if num = 126 then imm
  else c.popped.get (role * 32 + lane)

/-- A scalar-class source of one register, as a lane reads it (R264); a uniform register that a translated word's 5-bit field names is read in the thread's own lane (R438; log entry 9). -/
def Ctx.ssrc (c : Ctx) (num role lane : Nat) : Word :=
  if num ≤ 95 then
    if c.vox && 20 ≤ num && num ≤ 27 then c.w.getV lane (c.vregs + 2 + (num - 20)) else c.w.getS num
  else if num ≤ 111 then identity c.gr c.ga c.w num
  else if num = 124 then 0
  else c.popped.get (role * 32 + lane)

/-- A source of one register of either class in a lane. -/
def Ctx.src1 (c : Ctx) (imm : Word) (cls : RegClass) (num role lane : Nat) : Word :=
  match cls with
  | .vec => c.vsrc imm num role lane
  | .scal => c.ssrc num role lane

/-- A source pair in a lane (R266): the zero registers read as zero. -/
def Ctx.src2 (c : Ctx) (cls : RegClass) (num lane : Nat) : Quad :=
  if num = 124 then 0 else pairOf (c.src1 0 cls num 0 lane) (c.src1 0 cls (num + 1) 0 lane)

/-- The a operand of format R in a lane. -/
def Ctx.a (c : Ctx) (f : FmtR) (lane : Nat) : Word := c.vsrc c.vimm f.a.toNat 0 lane
/-- The b operand of format R. -/
def Ctx.b (c : Ctx) (f : FmtR) (lane : Nat) : Word := c.src1 c.vimm (classOf f.s) f.b.toNat 1 lane
/-- The d operand of format R where d is a source too. -/
def Ctx.d (c : Ctx) (f : FmtR) (lane : Nat) : Word := c.vsrc c.vimm f.d.toNat 2 lane
/-- The a pair of format R. -/
def Ctx.a64 (c : Ctx) (f : FmtR) (lane : Nat) : Quad := c.src2 .vec f.a.toNat lane
/-- The b pair of format R. -/
def Ctx.b64 (c : Ctx) (f : FmtR) (lane : Nat) : Quad := c.src2 (classOf f.s) f.b.toNat lane
/-- The d pair of format R. -/
def Ctx.d64 (c : Ctx) (f : FmtR) (lane : Nat) : Quad := c.src2 .vec f.d.toNat lane
/-- The source of a unary word. -/
def Ctx.u (c : Ctx) (f : FmtU) (lane : Nat) : Word := c.src1 c.vimm (classOf f.s) f.b.toNat 1 lane
/-- The source pair of a unary word. -/
def Ctx.u64 (c : Ctx) (f : FmtU) (lane : Nat) : Quad := c.src2 (classOf f.s) f.b.toNat lane

/-- A vector-class destination of one register written in every ACTIVE lane (R263): a register, a push of one entry a lane in lane order (R267), or nothing for vz. -/
def Ctx.putV (c : Ctx) (num : Nat) (f : Nat → Word) (s : State) : State :=
  if num ≤ 111 then s.modWave c.w.id fun w => w.setVs c.act num f
  else if isPort num && c.act ≠ 0 then s.push c.gr c.w num ((laneList c.act).map f)
  else s

/-- A vector pair written in every ACTIVE lane (R266). -/
def Ctx.putV2 (c : Ctx) (num : Nat) (f : Nat → Quad) (s : State) : State :=
  if num ≤ 110 then s.modWave c.w.id fun w => (w.setVs c.act num fun l => lo32 (f l)).setVs c.act (num + 1) fun l => hi32 (f l) else s

/-- A scalar-class destination (R264): written from the ACTIVE lanes when there are any; in a translated segment it is the vector register of a uniform register, which is written in every lane of each block with an ACTIVE lane (R430, R438, R439). -/
def Ctx.putS (c : Ctx) (num : Nat) (f : Lanes → Word) (s : State) : State :=
  if c.vox && num ≤ 111 then
    c.blocks.foldl (init := s) fun t b =>
      if b &&& c.act = 0 then t else t.modWave c.w.id fun w => w.setVs b num fun _ => f (b &&& c.act)
  else if c.act = 0 then s
  else if num ≤ 95 then s.modWave c.w.id fun w => w.setS num (f c.act)
  else if isPort num then s.push c.gr c.w num [f c.act]
  else s

/-- A scalar pair of the wave written (R266). -/
def Ctx.putS2 (c : Ctx) (num : Nat) (x : Quad) (s : State) : State :=
  if num ≤ 94 then s.modWave c.w.id fun w => (w.setS num (lo32 x)).setS (num + 1) (hi32 x) else s

/-- A predicate written in every ACTIVE lane; p0 discards (R265). -/
def Ctx.putP (c : Ctx) (n : Nat) (f : Nat → Bool) (s : State) : State :=
  s.modWave c.w.id fun w => w.setP c.act n (lanesWhere f)

/-- A value extended from its low 8 or 16 bits into a register (R207). -/
def extendReg (signed : Bool) (n : Nat) (x : Word) : Word :=
  if signed then BitVec.ofInt 32 (signedOf n x.toNat) else BitVec.ofNat 32 (x.toNat % 2 ^ n)

end Sys2Proof.Machine
end

