-- ==== Sys2Proof/Machine/Flags.lean ====
section
/-! DEFINITION. Predicates from comparisons (R278, R292), and the clamping of integer results (R208, R289). The machine keeps no condition flags. -/

namespace Sys2Proof.Machine

/-- A comparison of two numbers of width `n` by the condition codes of icmp (R278). -/
def icmpHolds (code n : Nat) (a b : Nat) : Bool :=
  let sa := signedOf n a
  let sb := signedOf n b
  match code with
  | 0 => a = b
  | 1 => a ≠ b
  | 2 => sa < sb
  | 3 => sa ≤ sb
  | 4 => sa > sb
  | 5 => sa ≥ sb
  | 6 => a < b
  | 7 => a ≤ b
  | 8 => a > b
  | 9 => a ≥ b
  | _ => false

/-- An operand of width `n` read as a sat hint's payload says: signed or unsigned (R289). -/
def satRead (signed : Bool) (n : Nat) (x : Nat) : Int := if signed then signedOf n x else (x : Int)

/-- The least and the greatest value of an integer type (R207). -/
def intMin (signed : Bool) (n : Nat) : Int := if signed then -(2 ^ (n - 1)) else 0
/-- See `intMin`. -/
def intMax (signed : Bool) (n : Nat) : Int := if signed then 2 ^ (n - 1) - 1 else 2 ^ n - 1

/-- A value clamped to the range of an integer type (R208). -/
def clampInt (signed : Bool) (n : Nat) (x : Int) : Int := max (intMin signed n) (min (intMax signed n) x)

/-- The result of an integer instruction of width `n` on three operands: the value modulo 2^n, or under a sat hint the exact value clamped (R208, R289). -/
def satOr {n : Nat} (sat : Option (BitVec 1)) (plain : BitVec n) (op : Int → Int → Int → Int) (a b d : BitVec n) : BitVec n :=
  match sat with
  | none => plain
  | some p =>
    let sg : Bool := p = 1
    BitVec.ofInt n (clampInt sg n (op (satRead sg n a.toNat) (satRead sg n b.toNat) (satRead sg n d.toNat)))

end Sys2Proof.Machine
end

