-- ==== Sys2Proof/Machine/Issue.lean ====
section
/-! DEFINITION. Issuing a word: when a wave can issue, the checks made before any effect (R186, R270, R272, R273, R279, R287, R419), queue ports (R267), tickets (R165), and the frame that every instruction's meaning stands in. -/

namespace Sys2Proof

/-- The instructions of R195, whose faults are logged. -/
def Instr.isLogged : Instr → Bool
  | .ldZ8 _ | .ldI8 _ | .ldZ16 _ | .ldI16 _ | .ld32 _ | .ld64 _ | .st8 _ | .st16 _ | .st32 _ | .st64 _ | .ldlod _ | .lck _ | .ulk _ | .atom32 _
  | .atom64 _ | .acas _ | .red _ | .mcst _ | .rdst _ | .txld _ | .txst _ => true
  | _ => false

/-- The instructions that access memory or command an engine, which an unfinished acquire holds back (R110, R112). -/
def Instr.accesses : Instr → Bool
  | .pref _ | .cinvLine _ | .cinvUnl _ | .cinvAll _ | .cinvIline _ | .cinvIall _ | .txb _ | .txc _ | .txa _ | .fence _ | .barInit _ | .barWait _
  | .team _ | .geosync _ | .bar _ | .barnet _ => true
  | i => i.counter ≠ 0 || i.isLogged || i.namesPort

/-- The instructions that read a register in lanes other than their own (R306). -/
def Instr.crossesLanes : Instr → Bool
  | .shflIdx _ | .shflXor _ | .shflUp _ | .shflDown _ | .bcast _ | .redux _ | .scan _ => true
  | _ => false

/-- The Voxunet readings of a word (R429). -/
def Instr.isNext : Instr → Bool
  | .next _ | .nextVa _ => true
  | _ => false

namespace Machine

/-! ### Ready (R143, R148, R190, R269) -/

/-- A trap waits for the wave's next boundary: a logged fault, or an engine trap while traps are not masked (R187, R371). -/
def State.trapDue (s : State) (w : Wave) : Bool := s.loggedFault w.id || w.engineTraps.any fun t => t.precise || !w.tm

/-- The wave may issue: it has not ended, it waits for nothing, its gang is resident, no stall hint, geosync or trap holds it, and its gang is not about to leave, but for a word that follows a hint (R200). -/
def State.canIssue (s : State) (w : Wave) (ga : Gang) : Bool :=
  w.alive && w.wakeKind = 0 && ga.resident && (ga.leaving.isNone || w.hints ≠ []) && w.stallUntil ≤ s.cycle.toNat && !s.trapDue w &&
    s.eng.syncs.all fun g => g.wave ≠ w.id

/-! ### Hints (R269, R270) -/

/-- The hint words are of different kinds (R270). -/
def Wave.hintKinds (w : Wave) : List Nat :=
  w.hints.map fun x => match decode x with | .ok i => i.hintKind | .error _ => 17

/-! ### Traps at issue -/

/-- A precise trap's report (R192). -/
def precise (code cause : Nat) (word : Word) (pc : Quad) (active fault : Lanes) (faddr aux : Nat) : TrapInfo :=
  ⟨code, cause, false, false, word, pc, active, fault, 0, 0, faddr, aux⟩

/-- A commit of the wave is under way: its predicate is still to be written (R347). -/
def State.committing (s : State) (id : Nat) : Bool := match s.wave? id with | some w => w.txTodo ≠ 0 | none => false

/-- The group takes a precise trap once no commit is under way and, unless traps are masked, every earlier access has reported (R187, R197); room that this frees is used (R178). -/
def State.trapAt (s : State) (id : Nat) (lanes : Lanes) (t : TrapInfo) (issued : Bool) : State :=
  if s.committing id then s
  else if (s.wave? id).any Wave.tm then (s.preciseTrap id lanes t issued).distribute
  else
    let s1 := s.reportAll id
    if s1.reportDue id then s1 else (s1.preciseTrap id lanes t issued).distribute

/-- A precise trap on a word, whose record names the first hint before the word (R271). -/
def State.trap (s : State) (id : Nat) (lanes : Lanes) (t : TrapInfo) : State :=
  s.trapAt id lanes { t with pc := match s.wave? id with | some w => w.recordPc t.pc | none => t.pc } true

/-- The watches that an access of `n` bytes at an address matches (R419): `kind` is 0 for a read, 1 for a write, 2 for a fetch. -/
def Context.watches (c : Context) (kind va n : Nat) : List Nat :=
  (List.range 4).filter fun k =>
    let ctl := (c.wctl.get k).toNat
    let size := min (bitsOf ctl 4 5) 30
    let at_ := (c.waddr.get k).toNat
    ctl.testBit kind && at_ / 2 ^ 60 = 0 && overlap (at_ / 2 ^ size * 2 ^ size) (2 ^ size) va n

/-- The next issue of the word at an address is not checked against the watches (R419). -/
def Wave.unwatched (w : Wave) (pc : Quad) : Bool := w.watchSkip = some (w.recordPc pc)

/-- The watches that the fetch of a wave's word at an address matches (R419). -/
def Context.fetchMatches (c : Context) (w : Wave) (pc : Quad) : List Nat := if w.unwatched pc then [] else c.watches 2 pc.toNat 4

/-- A pull of the proof registers (R206): every core's slots as they stand. -/
def State.pullProof (s : State) : State :=
  s.modKiln fun k => { k with proofs := (s.waves.filter fun w => w.alive && s.isResident w.gang).map fun w =>
    { core := w.core, slot := w.slot, pc := (lowestPc w.groupPcs).getD 0, tstat := w.tstat,
      counters := BitVec.ofNat 64 (w.ld.toNat + w.st.toNat * 64 + w.cp.toNat * 4096 + w.tl.toNat * 262144), wake := w.wake } }

/-- A watch that matched pulls a proof where its bit is set (R419). -/
def State.watchPull (s : State) (asid n : Nat) : State := if ((s.ctx asid).wctl.get n).getLsbD 3 then s.pullProof else s

/-! ### Tickets (R164, R165) -/

/-- The wave is excluded: it waits at a barrier, in the latch or at a port, or has ended (R164). -/
def Wave.excluded (w : Wave) : Bool := !w.alive || [1, 2, 3, 4, 7].contains w.wakeKind

/-- Another wave of the grid has a greater pair of logical time and index (R165). -/
def State.ticketAfter (s : State) (gr : Grid) (ga : Gang) (w x : Wave) : Bool :=
  match s.home? x with
  | none => true
  | some (gx, _) => w.time < x.time || (w.time = x.time && logicalWave gr ga w < logicalWave gr gx x)

/-- The wave's ticket is the lowest: every other wave of the grid that is not excluded, resident or not, has a greater pair of logical time and index; gangs still to be placed have time zero (R165). -/
def State.ticketReady (s : State) (w : Wave) : Bool :=
  match s.home? w with
  | none => true
  | some (ga, gr) =>
    (s.gridWaves gr.id).all (fun x => x.id = w.id || x.excluded || s.ticketAfter gr ga w x) && (gr.lastGang ≤ gr.nextGang || w.time = 0)

/-- The wave's ticket is the lowest among its gang's own waves (R167: atomics on private lines). -/
def State.gangTicketReady (s : State) (w : Wave) : Bool :=
  match s.home? w with
  | none => true
  | some (ga, gr) => (s.wavesOf ga.id).all fun x => x.id = w.id || x.excluded || s.ticketAfter gr ga w x

/-! ### Holding at issue -/

/-- The registers that one operand names in a wave, as the vector file holds them: a uniform register of a Voxunet launch stands in a vector register (R430). -/
def Operand.vregs (gr : Grid) (virt : Bool) (o : Operand) : List Nat :=
  match o.cls with
  | .vec => if o.num ≤ 111 then (List.range o.count).map (o.num + ·) else []
  | .scal => if virt && o.num ≤ 111 then (if o.dir = .write then [o.num] else if 20 ≤ o.num && o.num ≤ 27 then [gr.regs - 16 + 2 + (o.num - 20)] else []) else []

/-- The scoreboard holds the word (R287): a register or predicate that it reads or writes is still to be written. -/
def State.scoreboard (s : State) (i : Instr) (w : Wave) (gr : Grid) : Bool :=
  (i.operands.flatMap (Operand.vregs gr (match w.nextGroup with | some (pc, _) => gr.virtualAt pc | none => false))).any (fun r => s.pendingReg w.id r (BitVec.allOnes 32)) ||
  ((i.guard.map BitVec.toNat).toList ++ i.predReads ++ i.predWrite.toList).any fun p => s.pendingPred w p

/-- The wave runs a handler. -/
def State.handles (s : State) (wave : Nat) : Bool := (s.wave? wave).any Wave.priv

/-- Earlier reads of the wave have all returned, as an acquire fence asks (R110). -/
def State.readsBack (s : State) (wave : Nat) : Bool :=
  !s.committing wave && (s.flights.all fun a => a.wave ≠ wave || !a.kind.returns || a.lanes.all fun l => l.settled a.taken (s.handles wave)) &&
    s.eng.queries.all fun q => q.wave ≠ wave

/-- Every earlier access of the wave, and at quad scope or wider every write of its core, is performed at a scope, as a release asks (R110). -/
def State.writesDone (s : State) (wave core scope : Nat) : Bool :=
  !s.committing wave && (s.flights.all fun a => (a.wave ≠ wave && !(2 ≤ scope && a.core = core && a.kind.writes)) || a.performedAt scope wave (s.handles wave)) &&
    s.eng.queries.all fun q => q.wave ≠ wave

/-- An acquire of the wave that is not over holds its later accesses (R112); one that waits for a replay holds no handler's. -/
def State.acquiring (s : State) (wave : Nat) : Bool :=
  s.flights.any fun a => a.wave = wave && a.acquire.isSome && !(s.handles wave && (a.lanes.any fun l => l.waits a.taken) && a.lanes.all fun l => l.settled a.taken true)

/-! ### Ports at issue (R267) -/

/-- The lanes of a list from its first, `k` of them. -/
def firstLanes (act : Lanes) (k : Nat) : Lanes := lanesWhere fun l => ((laneList act).take k).contains l

/-- The pops of a word for the served lanes: the entries keyed role × 32 + lane, and the lanes for which a source was exhausted. -/
def popAll (ga : Gang) (gr : Grid) (w : Wave) (served : Lanes) : List PortUse → State → (SMap 32 × Lanes) × State
  | [], s => (([], 0), s)
  | u :: us, s =>
    if !u.pop || served = 0 then popAll ga gr w served us s
    else
      let lanes := laneList served
      let (got, s1) := s.pop ((s.gang? ga.id).getD ga) ((s.grid? gr.id).getD gr) w u.port (if u.scalar then 1 else lanes.length)
      let ((m, e), s2) := popAll ga gr w served us s1
      let at_ (l : Nat) : Nat := if u.scalar then 0 else (laneList served).idxOf l
      ((m.setMany lanes (fun l => u.role * 32 + l) fun l => (got.vals[at_ l]?).getD 0,
        e ||| lanesWhere fun l => served.getLsbD l && (got.ended[at_ l]?).getD false), s2)

/-- The guard predicate as port accesses leave it (R157, R267): under the non-blocking hint true in served lanes and false in the other ACTIVE lanes; false where a source was exhausted. -/
def Wave.portGuard (w : Wave) (g : Nat) (nb : Bool) (act served ended : Lanes) : Wave :=
  let w1 := if nb then w.setP act g served else w
  w1.setP ended g 0

/-- A wave blocked at its instruction, with its wake condition (R160, R201); the instruction's counter is raised while it waits (R272, R371). -/
def State.block (s : State) (id kind arg : Nat) (i : Instr) : State :=
  s.modWave id fun w => { w.withdraw.raise i.counter with wake := wakeOf kind arg, waiting := some i, releaser := 0 }

/-! ### The front end -/

/-- What becomes of an issue before the meaning is reached: there is no such wave; another state, in which the word is not performed; a watch that its fetch matches (R419); or the meaning's turn, with what it is given and the state from which it acts, in which the group has gone to the next word. -/
inductive Front where
  | nobody
  | other (s : State)
  | watched (n : Nat) (c : Ctx)
  | run (c : Ctx) (s : State)
deriving DecidableEq, Repr

/-- The group as it stands at issue. -/
def Ctx.ofIssue (i : Instr) (w : Wave) (ga : Gang) (gr : Grid) (pc : Quad) (lanes : Lanes) : Ctx :=
  { w, lanes, act := activeLanes i w lanes w.hintsNow.neg, pc, word := (encode i).getD 0, hints := w.hintsNow, ga, gr, popped := [] }

/-- The word is an illegal one (R268, R270, R279), or names a port it may not (R174). A Voxunet program's words were checked at its launch (R427, R428). -/
def illegalWord (i : Instr) (c : Ctx) : Bool :=
  (!c.vox && (!i.legal c.gr.regs || i.isNext)) || 2 < c.w.hints.length || !c.hints.fit (c.ga.fpc.getLsbD 4) i ||
    (portUses i).any (portIllegal c.gr)

/-- The word must wait before its issue: for its operands (R287), for room in the operand log (R198), or for an acquire (R112). -/
def State.holds (s : State) (i : Instr) (c : Ctx) : Bool :=
  s.scoreboard i c.w c.gr ||
  (i.isLogged && c.act ≠ 0 && !s.logRoom c.w.core c.w.priv c.w.tm) ||
  (i.accesses && s.acquiring c.w.id)

/-- The wave goes on to the meaning: the group's lanes are at the next word and the counter is raised (R272). -/
def State.go (s : State) (i : Instr) (c : Ctx) : Front :=
  .run c (s.modWave c.w.id fun w => (if c.act = 0 then w.withdraw else w.withdraw.raise i.counter).advance c.lanes c.pc s.cycle.toNat)

/-- What a port access that is not served whole leaves: its reads of the descriptors (R350), and where a ring or a descriptor is unmapped the kiln's note (R351). -/
def State.portPolls (s : State) (gr : Grid) (us : List PortUse) (n : Nat) : State :=
  let s1 := s.noteReads gr.asid (((us.map fun u => gr.port u.port).filter (·.1 = 1)).eraseDups.map fun p => portLook p.2 32)
  match s.unmappedPort gr us n with
  | some (v, f) => s1.logEvent 6 gr.asid (gr.port v.port).2 (f.code * 256 + f.cause) (v.port - 112)
  | none => s1

/-- The port accesses of a word (R267): all of them together, or under the non-blocking hint for as many lanes as can be served. -/
def State.viaPorts (s : State) (i : Instr) (c : Ctx) (us : List PortUse) : Front :=
  let fifo (pop : Bool) : Bool := us.any fun u => u.pop = pop && (c.gr.port u.port).1 = 1
  let n := laneCount c.act
  if c.act = 0 then s.go i c
  else if c.gr.det && (us.any fun u => (c.gr.port u.port).1 = 1 || (c.gr.port u.port).1 = 4) && !s.ticketReady c.w then .other (s.block c.w.id 8 0 i)
  else if (fifo false && !s.writesDone c.w.id c.w.core 4) || (fifo true && !s.readsBack c.w.id) then .other s
  else
    let k := s.servable c.gr us n
    let s0 := s.portPolls c.gr us n
    if k < n && !c.hints.nb then
      match us.find? fun u => !s.serves c.gr us n u with
      | none => .other s
      | some u => .other (s0.block c.w.id 4 (u.port - 112) i)
    else
      let served := firstLanes c.act k
      let ((got, ended), s1) := popAll c.ga c.gr c.w served us (if k < n then s0 else s)
      let g := (i.guard.getD 0).toNat
      let s2 := s1.modWave c.w.id fun w => w.portGuard g c.hints.nb c.act served ended
      s2.go i { c with act := served, popped := got }

/-- The WATCH of a word whose fetch a watch matches, on its ACTIVE lanes (R419). -/
def Ctx.fetchWatch (c : Ctx) (n : Nat) : TrapInfo := precise 12 n c.word c.pc c.act c.act c.pc.toNat 0

/-- A WATCH taken, with the proof that its watch may pull (R206, R419). -/
def State.watchTrap (s : State) (c : Ctx) (r : TrapInfo) : State := (s.watchPull c.gr.asid r.cause).trap c.w.id c.lanes r

/-- The checks in their order: watched fetches, judged on the ACTIVE lanes as the word issues (R419), illegal words, holds, a full counter, ports. -/
def State.checks (s : State) (i : Instr) (c : Ctx) : Front :=
  match (if c.act = 0 then [] else (s.ctx c.gr.asid).fetchMatches c.w c.pc) with
  | n :: _ => if illegalWord i c then .other (s.watchTrap c (c.fetchWatch n)) else if s.holds i c then .other s else .watched n c
  | [] =>
    if illegalWord i c then .other (s.trap c.w.id c.lanes (precise 0 0 c.word c.pc c.lanes c.lanes 0 0))
    else if s.holds i c then .other s
    else if i.counter ≠ 0 && c.act ≠ 0 && c.w.counter i.counter = 63 then
      .other (s.trap c.w.id c.lanes (precise 10 0 c.word c.pc c.act c.act 0 0))
    else match portUses i with
      | [] => s.go i c
      | us => s.viaPorts i c us

/-- The front end of an issue by the wave whose turn it is. -/
def State.front (s : State) (i : Instr) : Front :=
  match s.wave? s.issuer with
  | none => .nobody
  | some w => match s.home? w with
    | none => .nobody
    | some (ga, gr) =>
      if !s.canIssue w ga then .other s
      else match w.nextGroup with
        | none => .other s
        | some (pc, lanes) => s.checks i (Ctx.ofIssue i w ga gr pc lanes)

/-! ### The frame of a meaning -/

/-- What a meaning answers: a state; a precise trap, with no effect; one that its reads of memory came to, whose walks and fills stay; a wait at a blocking point; an arrival at a barrier, which waits there; or a wait at issue. -/
inductive Body where
  | ok (s : State)
  | trap (t : TrapInfo)
  | failed (t : TrapInfo) (s : State)
  | block (kind arg : Nat)
  | arrive (kind arg : Nat)
  | stay
deriving DecidableEq, Repr

/-- The wave arrives at a barrier and waits there; the last arrival releases it (R155). -/
def State.arriveAt (s : State) (id kind arg : Nat) (i : Instr) : State :=
  let s1 := s.block id kind arg i
  match s1.wave? id with
  | some w => (if kind = 2 then s1.acceptAll w.id w.core (s1.netScope w arg) else s1).tryRelease w
  | none => s1

/-- What reads of memory left in another state: the accessed bits of their walks (R24), the TLB and the caches, and what a poisoned line brings (R495). -/
def State.tookReads (s t : State) : State :=
  { s with mem := t.mem, caches := t.caches, fresh := t.fresh, kiln := t.kiln, host := t.host }

/-- A fetch that matches a watch: WATCH before any effect, with the lowest watch that matches, be it the fetch's or one that the word's own access matches (R419). -/
def State.watched (s : State) (n : Nat) (c : Ctx) (b : Body) : State :=
  s.watchTrap c (match b with
    | .trap r => if r.code = 12 && r.cause < n then r else c.fetchWatch n
    | _ => c.fetchWatch n)

/-- An instruction is performed by the wave whose turn it is: the front end, the meaning, and the rule of the meeting register (R149). -/
def issue (i : Instr) (s : State) (body : Ctx → State → Body) : Host.Outcome State Fault Refusal :=
  match s.front i with
  | .nobody => .fault .noIssuer
  | .other t => .next t
  | .watched n c => .next (s.watched n c (body c s))
  | .run c t => match body c t with
    | .ok u => .next (u.modWave c.w.id Wave.settle)
    | .trap r => .next (if r.code = 12 then s.watchTrap c r else s.trap c.w.id c.lanes r)
    | .failed r u => .next ((s.tookReads u).trap c.w.id c.lanes r)
    | .block kind arg => .next (s.block c.w.id kind arg i)
    | .arrive kind arg => .next (s.arriveAt c.w.id kind arg i)
    | .stay => .next s

/-- An instruction that always takes effect once it issues. -/
def issueOk (i : Instr) (s : State) (effect : Ctx → State → State) : Host.Outcome State Fault Refusal :=
  issue i s fun c t => .ok (effect c t)

/-- A precise trap of the word on some of its lanes. -/
def Ctx.trapOn (c : Ctx) (code cause : Nat) (fault : Lanes) (faddr aux : Nat) : Body :=
  .trap (precise code cause c.word c.pc c.act fault faddr aux)

/-- ILLOP on the word's ACTIVE lanes. -/
def Ctx.illop (c : Ctx) : Body := c.trapOn 0 0 c.act 0 0

/-- What a fault of an access reports of the word. -/
def Ctx.faultInfo (c : Ctx) (f : Flt) (fault : Lanes) (faddr : Nat) : TrapInfo :=
  { precise f.code f.cause c.word c.pc c.act fault faddr 0 with lod := f.lod }

/-- The fault of an access as a precise trap on a lane set. -/
def Ctx.faultOn (c : Ctx) (f : Flt) (fault : Lanes) (faddr : Nat) : Body := .trap (c.faultInfo f fault faddr)

/-- The same where the word has read memory before it. -/
def Ctx.failOn (c : Ctx) (f : Flt) (fault : Lanes) (faddr : Nat) (s : State) : Body := .failed (c.faultInfo f fault faddr) s

end Machine
end Sys2Proof
end

