-- ==== Sys2Proof/Machine/Perform.lean ====
section
/-! DEFINITION. Performing an access: loads (R47 to R50), stores and multi-destination stores at the home (R107, R343), atomics (R65, R116, R337, R338), locks (R53, R54), transactional and level-of-detail reads (R117, R332), and gang-local accesses (R57 to R62, R353). -/

namespace Sys2Proof.Machine

/-- The lane of an access, by lane and destination. -/
def Access.laneAt (a : Access) (lane dest : Nat) : Option AccLane := a.lanes.find? fun l => l.lane = lane && l.dest = dest

/-- The state with a lane of an access changed. -/
def State.modLane (s : State) (id lane dest : Nat) (f : AccLane → AccLane) : State :=
  s.modFlight id fun a => { a with lanes := a.lanes.map fun l => if l.lane = lane && l.dest = dest then f l else l }

/-- The lane of an access in a status. -/
def State.laneTo (s : State) (id lane dest : Nat) (st : LaneState) : State := s.modLane id lane dest fun l => { l with status := st }

/-! ### At the home -/

/-- An access of a wave performed at a line's home when its turn has come; nothing where it is held. -/
def State.atHome (s : State) (w : Wave) (asid pa : Nat) (k : State → Option State) : Option State :=
  match s.home? w with
  | none => k s
  | some (ga, gr) => match s.orderTurn asid (s.localPa pa / 64) (logicalWave gr ga w) w.time.toNat gr.det with
    | .held => none
    | .full t => some t
    | .go t => k t

/-! ### Loads -/

/-- What a load or an atomic returns is written to its registers in a lane. -/
def State.deliver (s : State) (a : Access) (lane : Nat) (x : Quad) : State :=
  match a.dst with
  | none => s
  | some (d, n) => s.modWave a.wave fun w => if n = 1 then w.setV lane d (lo32 x) else (w.setV lane d (lo32 x)).setV lane (d + 1) (hi32 x)

/-- Translated stores of a core to a physical line that are not performed yet: stamp, offset and bytes, in the order of translation. Their virtual addresses do not matter (R37). -/
def State.writesToLine (s : State) (core pline : Nat) : List (Nat × Nat × List Byte) :=
  let found := s.flights.flatMap fun b => match b.kind with
    | .store n => if b.core = core then
        (b.lanes.filter fun m => m.status = .ready && m.pa / 64 = pline && !b.shadows m m.pa).map fun m => (m.stamp, m.pa % 64, bytesOfNat n m.data.toNat)
      else []
    | _ => []
  found.foldl (fun l x => l.filter (fun y => y.1 ≤ x.1) ++ [x] ++ l.filter fun y => x.1 < y.1) []

/-- A line installed in a core's L1 with the bytes of the core's own stores merged over what was fetched (R49). -/
def State.install (s : State) (l : CacheLine) (victim : Option Nat) : State :=
  let ws := s.writesToLine l.core l.pline
  let merged := { l with data := ws.foldl (fun d x => lineWith d x.2.1 x.2.2) l.data }
  let s1 := s.modCaches fun c => { c with l1 := installLine c.l1 merged victim }
  { s1 with flights := s1.flights.map fun b => match b.kind with
      | .store _ => if b.core = l.core then
          { b with lanes := b.lanes.map fun m => if m.status = .ready && m.pa / 64 = l.pline then { m with inL1 := true } else m } else b
      | _ => b }

/-- The launch of the access's wave is a deterministic one. -/
def State.detOf (s : State) (w : Wave) : Bool := match s.home? w with | some (_, gr) => gr.det | none => false

/-- The line of the core's L1 that serves a lane's load: none at the home's order, in deterministic mode, or for an address that would fault or is another gang's. -/
def State.loadHit (s : State) (a : Access) (w : Wave) (l : AccLane) (atHome : Bool) : Option CacheLine :=
  if atHome || s.detOf w || (addressFault l.va a.kind.size a.kind.aligned).isSome || s.foreign w l.va then none
  else (findLine s.caches.l1 a.core a.asid l.line false).filter fun c => !c.pv || a.privileged

/-- A lane's bytes read (R47): from the L1, or, translated, at the home, with the line installed where R48 and the access let it be. Staged bytes count for a load, not for a transaction (R167). -/
def State.readLane (s : State) (a : Access) (w : Wave) (l : AccLane) (n : Nat) (atHome noFill : Bool) (victim : Option Nat)
    (k : List Byte → State → Option State) : Option State :=
  match s.loadHit a w l atHome with
  | some c => k (lineBytes c.data (l.va % 64) n) s
  | none =>
    if l.status ≠ .ready || s.homeHeld a l then none
    else s.atHome w a.asid l.pa fun s1 =>
      let (d, s2) := s1.lineHome a.asid l.pa l.leaf.toNat
      let line : CacheLine := ⟨a.core, a.asid, l.line, l.pa / 64, d, entryBit l.leaf.toNat 4, false, false, false, l.line⟩
      let bs := if a.kind = .txRead then lineBytes d (l.va % 64) n else s2.overlaid w l.va (lineBytes d (l.va % 64) n)
      k bs (if s2.fills a.asid l.leaf.toNat && !atHome && !noFill && !a.noInstall then s2.install line victim else s2)

/-- The line lies in the context's private window on a core (R56). -/
def Context.inWindow (c : Context) (core va : Nat) : Bool :=
  let base := (c.lkpbase.get core).toNat
  base ≤ va && va < base + bitsOf (c.lkpsize.get core).toNat 0 16 * 2 ^ 21

/-- The core's L1 line of a lane is present. -/
def State.linePresent (s : State) (a : Access) (l : AccLane) : Bool := (findLine s.caches.l1 a.core a.asid l.line false).isSome

/-- The status that lck returns (R53), tested while the line is present. -/
def State.lockStatus (s : State) (a : Access) (l : AccLane) : Nat :=
  let e := l.leaf.toNat
  let c := s.ctx a.asid
  let inSet := (s.caches.l1.filter fun x => x.core = a.core && x.locked && x.line % 1024 = l.line % 1024).length
  if leafHome e = 3 || (leafHome e = 2 && leafOwner e ≠ a.core) || (leafHome e ≤ 1 && !s.fills a.asid e) then 6
  else if leafHome e = 2 then 2
  else if entryBit e 2 && !c.inWindow a.core l.va then 5
  else if (findLine s.caches.l1 a.core a.asid l.line false).any CacheLine.locked then 1
  else if (c.lkquota.get a.core).toNat ≤ s.lockCount a.core a.asid || 8192 ≤ (s.caches.l1.filter fun x => x.core = a.core && x.locked).length then 3
  else if 12 ≤ inSet then 4
  else 0

/-- The lock bit of a line of a core's L1 written. -/
def State.setLock (s : State) (core asid line : Nat) (b : Bool) : State :=
  s.modCaches fun c => { c with l1 := c.l1.map fun x => if x.core = core && x.asid = asid && x.line = line && !x.decoded then { x with locked := b } else x }

/-- A lower lane of the access is still to be treated: locks and unlocks go in lane order (R334). -/
def Access.lowerDue (a : Access) (l : AccLane) : Bool := a.lanes.any fun m => m.lane < l.lane && (m.status = .fresh || m.status = .ready)

/-- lck of one lane (R53, R334): an absent line that the leaf lets in is filled first; a fill that was invalidated is asked for again. -/
def State.lockLane (s : State) (a : Access) (w : Wave) (l : AccLane) (victim : Option Nat) : Option State :=
  let decide_ (t : State) : Option State :=
    let n := t.lockStatus a l
    let t1 := if n = 0 then t.setLock a.core a.asid l.line true else t
    some ((t1.deliver a l.lane (BitVec.ofNat 64 n)).laneTo a.id l.lane l.dest .done)
  if l.status ≠ .ready || a.lowerDue l then none
  else if s.linePresent a l || !s.fills a.asid l.leaf.toNat then decide_ s
  else s.readLane a w l 1 false false victim fun _ t =>
    if a.noInstall then some (t.modFlight a.id fun x => { x with noInstall := false }) else if t.linePresent a l then decide_ t else none

/-- A level-of-detail read of one lane (R332). A fault that the try did not meet is reported now; a full operation-order log that holds it is noted (R205). -/
def State.lodLane (s : State) (a : Access) (w : Wave) (l : AccLane) (pred : Nat) : Option State :=
  if l.status ≠ .ready then none
  else match s.lodRead? a w l with
    | .error (f, _) =>
      if f = fullFlt then some (s.logEvent 7 a.asid (s.ctx a.asid).ordpos.toNat (s.ctx a.asid).ordlen.toNat 0)
      else if f.held then none
      else some ((s.laneTo a.id l.lane l.dest .fresh).report { a with lanes := a.lanes.map fun m => if m = l then { m with status := .fresh } else m } (laneBit l.lane) 0)
    | .ok (v, st, s1) =>
      some ((((s1.pushedBy s.nextId a.id l.lane).deliver a l.lane (pairOf v st)).modWave w.id fun x => x.setP (laneBit l.lane) pred (if bitsOf st.toNat 0 3 = 0 then laneBit l.lane else 0)).laneTo
        a.id l.lane l.dest .done)

/-! ### Gang-local accesses (R57 to R62) -/

/-- The line of a gang-local offset is present in its gang. -/
def Gang.present (g : Gang) (o : Nat) : Bool := !g.absent.contains (o / 64)

/-- The record offset of an arrival, a wait or a sync in a lane: bits 3:0 cleared (R353). -/
def recordAt (x : Word) : Nat := x.toNat / 16 * 16

/-- Fields of the barrier record at an offset (R352). -/
def Gang.recField (g : Gang) (o lo n : Nat) : Nat := natOfBytes (g.bytes.getRange (o + lo) n)
/-- PHASE of a record. -/
def Gang.phase (g : Gang) (o : Nat) : Nat := g.recField o 4 4

/-- A gang-local offset lies in the side tile of an open scaled tile (R367). -/
def State.inSide (s : State) (gang o : Nat) : Bool :=
  s.eng.matrix.tiles.any fun t => t.gang = gang && t.scaled && t.aux ≤ o && o < t.aux + 128 * t.n * 4

/-- The bytes that a wave's access reads or writes from an offset on: free ones in an open side tile (R367). -/
def State.unsided (s : State) (gang o : Nat) (bs : List Byte) : List Byte × State :=
  if (List.range bs.length).any fun k => s.inSide gang (o + k) then
    ((List.range bs.length).map fun k => if s.inSide gang (o + k) then Config.freeByte (s.fresh + k) else bs.getD k 0, { s with fresh := s.fresh + bs.length })
  else (bs, s)

/-- PHASE of a record as an access sees it: a free value in an open side tile (R353, R367). -/
def State.recordPhase (s : State) (g : Gang) (o : Nat) : Nat := if s.inSide g.id (o + 4) then (Config.freeWord s.fresh).toNat else g.phase o

/-- The issue that a blocked wave waits with: its instruction's context. -/
def State.waitingCtx (s : State) (w : Wave) : Option (Instr × Ctx) :=
  match w.waiting, s.home? w, w.nextGroup with
  | some i, some (ga, gr), some (pc, lanes) => some (i, Ctx.ofIssue i w ga gr pc lanes)
  | _, _, _ => none

/-- The record offset in a lane (R353). -/
def Ctx.record (c : Ctx) (a : BitVec 7) (lane : Nat) : Nat := recordAt (c.vsrc c.vimm a.toNat 0 lane)

/-- What a wave waiting on barrier objects waits for in each lane: the record's offset, and whether its wait is not met yet, which for a sync is also while its phase is not noted. -/
def State.awaited (s : State) (w : Wave) : List (Nat × Bool) :=
  if w.wakeKind ≠ 3 then []
  else match s.waitingCtx w with
    | some (.barWait f, c) => (laneList c.act).map fun l =>
        (c.record f.a l, s.recordPhase c.ga (c.record f.a l) = (c.vsrc c.vimm f.d.toNat 2 l).toNat)
    | some (.barSync f, c) => (laneList c.act).map fun l =>
        (c.record f.a l, match w.phases with
          | some m => (m.get (l + 32)).toNat = 0 || s.recordPhase c.ga (c.record f.a l) = (m.get l).toNat
          | none => true)
    | _ => []

/-- Some wave of the gang waits on a record of a line (R62). -/
def State.lineAwaited (s : State) (gang line : Nat) : Bool :=
  (s.wavesOf gang).any fun w => (s.awaited w).any fun x => x.1 / 64 = line

/-- Every wave of a gang whose barrier objects are all met leaves its wait, once staged bytes are merged (R167), acquiring at quad scope (R124, R353); a wave with an unmet lane waits on the lowest one. -/
def State.wakeRecords (s : State) (gang : Nat) (by_ : Quad) : State :=
  (s.wavesOf gang).foldl (init := s) fun t w =>
    if w.wakeKind ≠ 3 then t
    else match (t.awaited w).find? fun x => x.2 with
      | some x => t.modWave w.id fun y => { y with wake := wakeOf 3 (x.1 / 16) }
      | none => ((t.mergeStaging gang).modWave w.id fun y => { y.leave by_ t.cycle.toNat with phases := none }).invalidateL1 w.core

/-- Bytes written to gang-local space; the tags of the barrier lines they touch are cleared (R62). -/
def State.putLocal (s : State) (gang o : Nat) (bs : List Byte) : State :=
  s.modGang gang fun g => { g with
    bytes := g.bytes.setRange o bs
    tags := g.tags.filter fun t => !(o / 64 ≤ t && t * 64 < o + bs.length) }

/-- An arrival performed at its record (R353): the phase is noted for a sync, LEFT falls, and at zero the phase advances and the waits that are met end. In an open side tile it reads and writes free bytes (R367). Whether the record's line is still a barrier line was checked at issue (R354); one that has lost its tag since is arrived at all the same (the spec does not say; DESIGN CHOICE, log entry 91). -/
def State.arriveRecord (s : State) (a : Access) (w : Wave) (l : AccLane) (noting : Bool) : State :=
  match s.gang? w.gang with
  | none => s
  | some g =>
    let (rec_, s0) := s.unsided g.id l.va (g.bytes.getRange l.va 16)
    let s1 := if noting then s0.modWave w.id fun x => match x.phases with
        | some m => { x with phases := some ((m.set l.lane (BitVec.ofNat 32 (natIn rec_ 4 4))).set (l.lane + 32) 1) }
        | none => x
      else s0
    let left := (natIn rec_ 2 2 + 65535) % 65536
    let put (t : State) (o : Nat) (bs : List Byte) : State :=
      let (b, u) := t.unsided g.id o bs
      u.modGang g.id fun x => { x with bytes := x.bytes.setRange o b }
    let s2 := if left = 0 then put (put s1 (l.va + 2) (rec_.take 2)) (l.va + 4) (bytesOfNat 4 (natIn rec_ 4 4 + 1)) else put s1 (l.va + 2) (bytesOfNat 2 left)
    (s2.laneTo a.id l.lane l.dest .done).wakeRecords g.id a.time

/-- Lanes of a gang-local access may be performed: their windows' order (R115), the fences before it and the presence of their lines (R59) allow it. -/
def State.localReady (s : State) (a : Access) (w : Wave) (ls : List AccLane) : Option Gang :=
  if s.fenceHeld a.after || ls.any fun l => l.status ≠ .fresh || s.windowHeld a l then none
  else (s.gang? w.gang).filter fun g => ls.all fun l => g.present l.va

/-- The lanes of an access that are not over: a gang-local load or store waits for every line that it touches and is then performed whole (R59). -/
def Access.left (a : Access) : List AccLane := a.lanes.filter fun l => l.status ≠ .done

/-- A gang-local load performed whole. -/
def State.loadWhole (s : State) (a : Access) (g : Gang) (n : Nat) : State :=
  a.left.foldl (init := s) fun t l =>
    let (bs, u) := t.unsided g.id l.va (g.bytes.getRange l.va n)
    (u.deliver a l.lane (BitVec.ofNat 64 (natOfBytes bs))).laneTo a.id l.lane l.dest .done

/-- Any order of some things that nothing orders: each goes to a free place among those before it. -/
def anyOrder {α : Type} (fresh : Nat) : List α → List α
  | [] => []
  | x :: xs => let ys := anyOrder (fresh + 1) xs
    ys.insertIdx ((Config.freeWord fresh).toNat % (ys.length + 1)) x

/-- The lanes of a gang-local store as they are written: in lane order, but for the virtual waves of a native word, which nothing orders among themselves (R106, R436). -/
def Access.writeOrder (a : Access) (fresh : Nat) : List AccLane :=
  if a.block < 32 then (anyOrder fresh (List.range (32 / max a.block 1))).flatMap fun b => a.left.filter fun l => l.lane / a.block = b else a.left

/-- A gang-local store performed whole; of lanes that name the same bytes the highest one's stand (R106), and between virtual waves, which nothing orders, whichever comes last (R436). -/
def State.storeWhole (s : State) (a : Access) (g : Gang) (n : Nat) : State :=
  let s1 : State := if a.block < 32 then { s with fresh := s.fresh + 32 } else s
  (a.writeOrder s.fresh).foldl (init := s1) fun t l =>
    let (bs, u) := t.unsided g.id l.va (bytesOfNat n l.data.toNat)
    (if a.shadows l l.pa then t else u.putLocal g.id l.va bs).laneTo a.id l.lane l.dest .done

/-- What is done with a lane of an access, where the access, its wave and the lane are there and the wave's gang is resident: a load saved at an eviction waits for the restore (R200). -/
def State.onLane (s : State) (id lane dest : Nat) (k : Access → Wave → AccLane → Option State) : Option State :=
  match s.flight? id with
  | none => none
  | some a => match s.wave? a.wave, a.laneAt lane dest with
    | some w, some l => if s.isResident w.gang then k a w l else none
    | _, _ => none

/-! ### One lane of a read -/

/-- One lane of an access that returns a value performed (R272): none where it cannot be now. -/
def State.loadLane (s : State) (id lane : Nat) (victim : Option Nat) : Option State := s.onLane id lane 0 fun a w l =>
  let ended (x : Quad) (t : State) : Option State := some ((t.deliver a lane x).laneTo id lane 0 .done)
  match a.kind with
  | .localLoad n => (s.localReady a w a.left).map fun g => s.loadWhole a g n
  | kind =>
    if !(l.status = .fresh || l.status = .ready) || s.locationHeld a l || s.storeUnwritten a l || s.fenceHeld a.after then none
    else match kind with
      | .load n sg home nf => s.readLane a w l n home nf victim fun bs t => ended (extend sg (8 * n) (BitVec.ofNat 64 (natOfBytes bs))) t
      | .pref nf => s.readLane a w l 1 false nf victim fun _ t => some (t.laneTo id lane 0 .done)
      | .lock => s.lockLane a w l victim
      | .unlock =>
        if l.status ≠ .ready || a.lowerDue l then none
        else if (findLine s.caches.l1 a.core a.asid l.line false).any CacheLine.locked then ended 0 (s.setLock a.core a.asid l.line false)
        else ended 1 s
      | .txRead => s.readLane a w l 8 true true none fun bs t =>
          let x : Quad := BitVec.ofNat 64 (natOfBytes bs)
          ended x (if l.data = 1 then t.modWave w.id fun y =>
            if y.txIn.getLsbD lane && !y.txAbort.getLsbD lane then { y with txSet := y.txSet ++ [⟨lane, l.pa, l.va, l.leaf.toNat, l.side, x, false⟩] } else y else t)
      | .lod _ _ _ pred => s.lodLane a w l pred
      | _ => none

/-! ### Writes at the home -/

/-- Every lane's access to a destination of a multi-destination store has been translated (R343). -/
def Access.destReported (a : Access) (dest : Nat) : Bool := a.lanes.all fun l => l.dest ≠ dest || l.status ≠ .fresh

/-- A translated write may go to its home. -/
def State.writeReady (s : State) (a : Access) (l : AccLane) : Bool :=
  l.status = .ready && a.destReported l.dest && !s.locationHeld a l && !s.writeHeld a l && !s.fenceHeld a.after && !s.acceptedHeld a.core l.pa l.accepted

/-- One lane of a store or of a multi-destination store written at its home, or, on a private line in deterministic mode, staged (R107, R167). A multi-destination store removes a line that a load has filled meanwhile (R47). -/
def State.storeLane (s : State) (id lane dest : Nat) : Option State := s.onLane id lane dest fun a w l =>
  let write (n : Nat) (shadowed : Bool) (clear : State → State) : Option State :=
    if s.isOwnLine w l.va then
      (s.home? w).map fun h => (s.stage h.1.id l.va (bytesOfNat n l.data.toNat) (logicalThread h.2 h.1 w lane)).laneTo id lane dest .performed
    else s.atHome w a.asid l.pa fun t =>
      some ((clear (if shadowed then t else t.writeHome a.asid l.va l.pa l.leaf.toNat l.side (bytesOfNat n l.data.toNat))).laneTo id lane dest .performed)
  if !s.writeReady a l then none
  else match a.kind with
    | .store n => write n (a.shadows l l.pa) fun t => t
    | .multi none n => write n false fun t => t.dropLines a.core a.asid [l.va]
    | _ => none

/-! ### Atomics -/

/-- FP32 addition of an atomic: RNE, subnormals kept, a NaN canonical (R220, R337). -/
def atomicFadd (m x : Nat) : Nat := Fpc.plain.add f32 0 m x

/-- The value that an atomic of `n` bytes writes (R278, R337). -/
def atomicNew (op n m x : Nat) : Nat :=
  let w := 8 * n
  match op with
  | 0 => (m + x) % 2 ^ w
  | 1 => if signedOf w x < signedOf w m then x else m
  | 2 => if signedOf w m < signedOf w x then x else m
  | 3 => min m x
  | 4 => max m x
  | 5 => m &&& x
  | 6 => m ||| x
  | 7 => m ^^^ x
  | 8 => x
  | _ => atomicFadd m x

/-- One lane of an atomic performed at its home: the old value read, the new one written (R116, R337, R338). A line that a load has filled while the atomic waited for its replay goes from the L1 (R47, R127). -/
def State.atomicLane (s : State) (id lane dest : Nat) : Option State := s.onLane id lane dest fun a w l =>
  if !s.writeReady a l then none
  else
    let go (n : Nat) (f : Nat → Option Nat) (ret : Bool) : Option State := s.atHome w a.asid l.pa fun t =>
      let (bs, t1) := t.readHome a.asid l.pa l.leaf.toNat n
      let m := natOfBytes bs
      let t2 := match f m with
        | some x => (t1.keepBefore w.gang l.va l.pa n).storeHome a.asid l.va l.pa l.leaf.toNat l.side (bytesOfNat n x)
        | none => t1
      let t3 := t2.dropLines a.core a.asid [l.va]
      some (if ret then (t3.deliver a lane (BitVec.ofNat 64 m)).laneTo id lane dest .done else t3.laneTo id lane dest .performed)
    match a.kind with
    | .atomic op n ret => go n (fun m => some (atomicNew op n m (l.data.toNat % 2 ^ (8 * n)))) ret
    | .cas n => go n (fun m => if m = l.data.toNat % 2 ^ (8 * n) then some l.data2.toNat else none) true
    | .multi (some op) n => go n (fun m => some (atomicNew op n m (l.data.toNat % 2 ^ (8 * n)))) false
    | _ => none

/-! ### Acknowledgements -/

/-- One lane of a write acknowledged; a gang-local write or an arrival is performed then (R115, R272). -/
def State.ackLane (s : State) (id lane dest : Nat) : Option State := s.onLane id lane dest fun a w l =>
  match a.kind with
  | .localStore n => (s.localReady a w a.left).map fun g => s.storeWhole a g n
  | .arrive noting => (s.localReady a w [l]).map fun _ => s.arriveRecord a w l noting
  | _ => if l.status = .performed then some (s.laneTo id lane dest .done) else none

/-! ### Performing a whole access at once -/

/-- One translated lane performed to its end, by what the access is. -/
def State.performLane (s : State) (kind : AccKind) (id lane dest : Nat) : State :=
  let acked (o : Option State) : State := match o with
    | none => s
    | some t => (t.ackLane id lane dest).getD t
  match kind with
  | .store _ | .multi none _ => acked (s.storeLane id lane dest)
  | .atomic _ _ _ | .cas _ | .multi (some _) _ => acked (s.atomicLane id lane dest)
  | _ => (s.loadLane id lane none).getD s

/-- An access of a deterministic launch performed whole within its turn: translated, then each lane in order (R165). -/
def State.performAll (s : State) (id : Nat) : State :=
  match s.flight? id with
  | none => s
  | some a =>
    let s1 := s.report a (BitVec.allOnes 32) 0
    ((a.lanes.foldl (fun t l => t.performLane a.kind id l.lane l.dest) s1).finishAccess id).settlePushes

end Sys2Proof.Machine
end

