-- ==== Sys2Proof/Machine/Access.lean ====
section
/-! DEFINITION. Issuing an access: scopes by window (R112), release fences in flight (R110), watches (R419), lines that a logged access names (R196), tickets (R165), and the L1 lines that an atomic removes (R47). -/

namespace Sys2Proof.Machine

/-- A lane of an access that has not been translated. -/
def newLane (lane dest va : Nat) (data data2 : Quad) : AccLane :=
  { lane, dest, va, data, data2, status := .fresh, pa := va, leaf := 0, side := 0, stamp := 0, inL1 := false, accepted := 0 }

/-- What an instruction asks of memory. -/
structure MemOp where
  kind : AccKind
  /-- First destination register, and how many; none where nothing is written. -/
  dst : Option (Nat × Nat)
  lanes : List AccLane
  acquire : Bool
  release : Bool
  placement : BitVec 2
deriving DecidableEq, Repr

/-- A plain access without an order. -/
def MemOp.plain (kind : AccKind) (dst : Option (Nat × Nat)) (lanes : List AccLane) : MemOp := ⟨kind, dst, lanes, false, false, 0⟩

/-- The lanes that ask for something: those that are over as the word issues only stand in its log entry (R194). -/
def MemOp.asked (op : MemOp) : List AccLane := op.lanes.filter fun l => l.status ≠ .done

/-- A lane that is over as its word issues. -/
def AccLane.over (l : AccLane) : AccLane := { l with status := .done }

/-- The scope that a window gives an acquire or a release (R112): package, pod or system. -/
def windowScope (w : Nat) : Nat := match w with | 0 => 4 | 1 => 6 | _ => 5

/-- The widest scope that the windows of some addresses give (R112, R325); an address that does not translate gives package scope. -/
def State.scopeOf (s : State) (core asid : Nat) (priv : Bool) (vas : List Nat) : Nat :=
  vas.foldl (init := 4) fun m va => max m (match (s.translate (quadOf core) asid va ⟨false, false, false⟩ priv 0).1 with
    | .ok t => windowScope (windowOf (s.localPa t.pa))
    | .error _ => 4)

/-- The fences of a wave that are in flight. -/
def State.fencesOf (s : State) (wave : Nat) : List Nat :=
  (s.flights.filter fun b => b.wave = wave && !(b.taken && s.handles wave) && match b.kind with | .fence _ => true | _ => false).map (·.id)

/-- An access of a wave with nothing filled in. -/
def blankAccess (id : Nat) (w : Wave) (asid : Nat) (kind : AccKind) : Access :=
  { id, wave := w.id, core := w.core, asid, kind, word := 0, pc := 0, active := 0, seq := w.seq, dst := none, lanes := [], after := [],
    acquire := none, privileged := w.priv, log := none, abort := false, taken := false, counter := 0, placement := 0, noInstall := false, block := 32, time := w.time }

/-- A release fence of a wave enters the flights, and leaves at once where nothing is left to wait for. -/
def State.addFence (s : State) (w : Wave) (asid scope : Nat) : State :=
  let f : Access := { blankAccess s.nextId w asid (.fence scope) with after := s.releasedBy w.id w.core scope }
  { s with flights := s.flights ++ [f], nextId := s.nextId + 1 }.settleFences

/-- Every access of the wave has reported its translation, and no commit is under way. -/
def State.reportsIn (s : State) (wave : Nat) : Bool := 
  !s.committing wave && s.flights.all fun a => a.wave ≠ wave || !a.unreported

/-- Which watches an access of this kind can match (R419): 0 a read, 1 a write. -/
def AccKind.watched : AccKind → List Nat
  | .load _ _ _ _ | .txRead => [0]
  | .store _ | .multi _ _ | .txWrite => [1]
  | .atomic _ _ ret => if ret then [0, 1] else [1]
  | .cas _ => [0, 1]
  | _ => []

/-- The lowest watch that an access matches, with the lanes and the lowest lane's address (R419); the lanes of an access stand in lane order. -/
def Context.matching (c : Context) (kinds : List Nat) (size : Nat) (ls : List AccLane) : Option (Nat × Lanes × Nat) :=
  (List.range 4).findSome? fun n =>
    let hit (l : AccLane) : Bool := kinds.any fun k => (c.watches k l.va size).contains n
    match ls.filter hit with
    | [] => none
    | h :: t => some (n, lanesWhere fun k => (h :: t).any fun l => l.lane = k, h.va)

/-- The access that an instruction makes. -/
def Ctx.accessOf (c : Ctx) (op : MemOp) (counter scope : Nat) (s : State) : Access :=
  { blankAccess s.nextId c.w c.gr.asid op.kind with
    word := c.word, pc := c.pc, active := c.act, dst := op.dst, lanes := op.lanes
    after := if op.kind.afterRelease then s.fencesOf c.w.id else []
    acquire := if op.acquire then some scope else none
    counter, placement := op.placement, block := c.width }

/-- A kind of access that is ticketed (R165): not a lock, a prefetch or a gang-local access. -/
def AccKind.isTicketed : AccKind → Bool
  | .lock | .unlock | .pref _ | .txWrite => false
  | k => k.isGlobal

/-- A deterministic launch's turn at its global accesses (R165, R167): the ticket where a line is shared, the gang's own order where an atomic is private. -/
def Ctx.turnComes (c : Ctx) (op : MemOp) (s : State) : Bool :=
  if !c.gr.det || !op.kind.isTicketed then true
  else if op.asked.any (fun l => c.gr.ownerOf l.va ≠ some c.ga.index) then s.ticketReady c.w
  else match op.kind with
    | .atomic _ _ _ | .cas _ | .multi (some _) _ | .txRead => s.gangTicketReady c.w
    | _ => true

/-- In a deterministic launch an access is performed as it issues, so that what it waits for must be over. -/
def Ctx.detWaits (c : Ctx) (op : MemOp) (scope : Nat) (s : State) : Bool :=
  c.gr.det && op.kind.isGlobal &&
    ((op.release && !s.writesDone c.w.id c.w.core scope) || (op.kind.writes && s.fencesOf c.w.id ≠ []) || (op.acquire && !s.readsBack c.w.id))

/-- An access put in flight; performed whole at once in a deterministic launch (R165). -/
def Ctx.fly (c : Ctx) (op : MemOp) (counter scope : Nat) (s : State) : State :=
  let s1 := if op.release then s.addFence c.w c.gr.asid scope else s
  let s2 := match op.kind with
    | .atomic _ _ _ | .cas _ | .multi _ _ => s1.removeLines c.w.core c.gr.asid (op.lanes.map AccLane.va)
    | _ => s1
  let id := s2.nextId
  let s3 : State := { s2 with flights := s2.flights ++ [c.accessOf op counter scope s2], nextId := id + 1 }
  if op.asked = [] then s3.finishAccess id
  else if c.gr.det && op.kind.isGlobal then s3.performAll id
  else s3

/-- An access issued: the holds of R110 and R196, watches, the ticket, and the flight. -/
def Ctx.launch (c : Ctx) (op : MemOp) (counter : Nat) (s : State) : Body :=
  if c.act = 0 then .ok s
  else match (if c.w.unwatched c.pc || !op.kind.isGlobal then none else (s.ctx c.gr.asid).matching op.kind.watched op.kind.size op.lanes) with
    | some (n, lanes, va) => c.trapOn 12 n lanes va 0
    | none =>
      if op.kind.isGlobal && op.asked.any (fun l => s.lineNamed c.w.id s.nextId l.va c.w.priv) then .stay
      else if op.release && !s.reportsIn c.w.id then .stay
      else if !c.turnComes op s then .block 8 0
      else
        let scope := if op.kind.isGlobal then s.scopeOf c.w.core c.gr.asid c.w.priv (op.lanes.map AccLane.va) else 2
        if c.detWaits op scope s then .stay else .ok (c.fly op counter scope s)

/-- A global effective address: the pair plus an offset, modulo 2^64 (R323). -/
def Ctx.ea (c : Ctx) (a ofs lane : Nat) : Nat := (c.src2 .vec a lane + BitVec.ofNat 64 ofs).toNat

/-- A destination of `n` registers; vz discards. -/
def destOf (d n : Nat) : Option (Nat × Nat) := if d ≤ 111 then some (d, n) else none

/-- The cache hint before the word (R269). -/
def Ctx.cacheHint (c : Ctx) : BitVec 2 := c.hints.cache.getD 0

end Sys2Proof.Machine
end

