-- ==== Sys2Proof/Machine/FpFun.lean ====
section
/-! DEFINITION. fex2, flg2, fsin and fcos, correctly rounded to nearest even (R212, R297, R298): each is enclosed in an interval of fixed-point numbers, narrowed until both ends round alike. A value that is not exact is irrational and lies on no rounding boundary, so that some precision decides. -/

namespace Sys2Proof.Machine

/-- Bits that the series carry beyond the wanted precision. -/
def guardBits : Nat := 32

/-- The terms of the series of atan(1/n), or of atanh(1/n), times 2^p: `t` is the power reached, `k` the odd divisor. -/
def atanTerms (alternate : Bool) (n2 : Nat) : Nat → Nat → Nat → Bool → Int → Int
  | 0, _, _, _, acc => acc
  | fuel + 1, t, k, minus, acc =>
    if t = 0 then acc
    else atanTerms alternate n2 fuel (t / n2) (k + 2) (!minus) (if alternate && minus then acc - (t / k : Nat) else acc + (t / k : Nat))

/-- atan(1/n) × 2^p, nearly. -/
def atanInv (n p : Nat) : Int := atanTerms true (n * n) p (2 ^ p / n) 1 false 0
/-- atanh(1/n) × 2^p, nearly. -/
def atanhInv (n p : Nat) : Int := atanTerms false (n * n) p (2 ^ p / n) 1 false 0

/-- ln 2 × 2^p and π / 2 × 2^p, nearly. -/
def ln2At (p : Nat) : Nat := (2 * atanhInv 3 p).toNat
/-- See `ln2At`. -/
def halfPiAt (p : Nat) : Nat := (8 * atanInv 5 p - 2 * atanInv 239 p).toNat

/-- The terms of e^y from the k-th on, for y in units of 2^-p. -/
def expTerms (y p : Nat) : Nat → Nat → Nat → Nat → Nat
  | 0, _, _, acc => acc
  | fuel + 1, t, k, acc => if t = 0 then acc else expTerms y p fuel (t * y / 2 ^ p / k) (k + 1) (acc + t)

/-- Every other term of the series of e^y with alternating signs: the cosine from (2^p, 1), the sine from (y, 2). -/
def trigTerms (y p : Nat) : Nat → Nat → Nat → Bool → Int → Int
  | 0, _, _, _, acc => acc
  | fuel + 1, t, k, minus, acc =>
    if t = 0 then acc
    else trigTerms y p fuel (t * y / 2 ^ p / k * y / 2 ^ p / (k + 1)) (k + 2) (!minus) (if minus then acc - (t : Int) else acc + (t : Int))

/-- A signed number of units of 2^-p times 2^k rounded to binary32. -/
def roundUnits (x : Int) (p : Nat) (k : Int) : Nat := let (a, b) := scale x.natAbs 1 (k - p); f32.round 0 (x < 0) a b

/-- What an interval around `x`, taken with the guard bits, rounds to, where both ends agree. -/
def decideUnits (x : Int) (p : Nat) (k : Int) : Option Nat :=
  let v := x / 2 ^ guardBits
  let lo := roundUnits (v - 1) p k
  let hi := roundUnits (v + 2) p k
  if lo = hi then some lo else none

/-- The first precision of a list that decides. -/
def atPrecision (f : Nat → Option Nat) : Nat := ([128, 256, 512, 1024].findSome? f).getD 0

/-- 2^x of a finite value. -/
def exp2Of (neg : Bool) (m : Nat) (e : Int) : Nat :=
  let (p, q) := scale m 1 e
  let k : Int := signed neg p / (q : Int)
  let num := (signed neg p - k * q).toNat
  if 128 ≤ k then f32.inf false
  else if k < -151 then 0
  else if num = 0 then let (a, b) := scale 1 1 k; f32.round 0 false a b
  else atPrecision fun pr =>
    let w := pr + guardBits
    let y := num * 2 ^ w / q * ln2At w / 2 ^ w
    decideUnits (expTerms y w w (2 ^ w) 1 0) pr k

/-- log2 x of a positive finite value. -/
def log2Of (m : Nat) (e : Int) : Nat :=
  let l := Nat.log2 m
  let up := 3 * 2 ^ l < 2 * m
  let d := if up then 2 ^ (l + 1) else 2 ^ l
  let ex : Int := e + l + (if up then 1 else 0)
  if m = 2 ^ l then f32.round 0 (e + l < 0) (e + l).natAbs 1
  else atPrecision fun pr =>
    let w := pr + guardBits
    let below := m < d
    let z := (if below then d - m else m - d) * 2 ^ w / (m + d)
    let z2 := z * z / 2 ^ w
    let rec terms : Nat → Nat → Nat → Nat → Nat
      | 0, _, _, acc => acc
      | fuel + 1, t, k, acc => if t = 0 then acc else terms fuel (t * z2 / 2 ^ w) (k + 2) (acc + t / k)
    let ln := 2 * terms w z 1 0
    let lg := ln * 2 ^ w / ln2At w
    decideUnits (signed below lg + ex * 2 ^ w) pr 0

/-- sin x, or cos x, of a finite value. An argument of at most 2^-12 is its own sine, rounded. -/
def trigOf (sine neg : Bool) (m : Nat) (e : Int) : Nat :=
  let (p, q) := scale m 1 e
  if sine && p * 4096 ≤ q then f32.round 0 neg p q
  else
    let big := (log2Ratio (p + 1) q).toNat + 8
    atPrecision fun pr =>
      let w := pr + guardBits
      let b := w + big
      let h := halfPiAt b
      let x := p * 2 ^ b / q
      let n := x / h
      let r := x % h / 2 ^ big
      let s := trigTerms r w w r 2 false 0
      let c := trigTerms r w w (2 ^ w) 1 false 0
      let v : Int := match (if sine then n else n + 1) % 4 with
        | 0 => s
        | 1 => c
        | 2 => -s
        | _ => -c
      decideUnits (if sine && neg then -v else v) pr 0

/-- fex2 (R298). -/
def Fpc.fex2 (c : Fpc) (b : Nat) : Nat :=
  let x := c.input f32 b
  if f32.isNan x then c.nanOf f32 [x]
  else c.output f32 (match f32.value x with
    | .inf neg => if neg then 0 else f32.inf false
    | .fin neg m e => exp2Of neg m e)

/-- flg2 (R298). -/
def Fpc.flg2 (c : Fpc) (b : Nat) : Nat :=
  let x := c.input f32 b
  if f32.isNan x then c.nanOf f32 [x]
  else c.output f32 (match f32.value x with
    | .inf neg => if neg then f32.nan else f32.inf false
    | .fin neg m e => if m = 0 then f32.inf true else if neg then f32.nan else log2Of m e)

/-- fsin and fcos (R298). -/
def Fpc.trig (c : Fpc) (sine : Bool) (b : Nat) : Nat :=
  let x := c.input f32 b
  if f32.isNan x then c.nanOf f32 [x]
  else c.output f32 (match f32.value x with
    | .inf _ => f32.nan
    | .fin neg m e => if m = 0 then (if sine then f32.zero neg else 0x3F800000) else trigOf sine neg m e)

end Sys2Proof.Machine
end

