-- ==== Sys2Proof/Machine/IntAlu.lean ====
section
/-! DEFINITION. Integer and address arithmetic, shifts, bit fields, moves and integer comparisons (R288 to R296). -/

namespace Sys2Proof.Machine

/-! ### Shared forms -/

/-- A format-R word that computes one register from its operands in each ACTIVE lane. -/
def aluR (i : Instr) (f : FmtR) (s : State) (op : Ctx → Word → Word → Word → Word) : Host.Outcome State Fault Refusal :=
  issueOk i s fun c => c.putV f.d.toNat fun l => op c (c.a f l) (c.b f l) (c.d f l)

/-- A format-R word on pairs. -/
def aluR64 (i : Instr) (f : FmtR) (s : State) (op : Ctx → Quad → Quad → Quad → Quad) : Host.Outcome State Fault Refusal :=
  issueOk i s fun c => c.putV2 f.d.toNat fun l => op c (c.a64 f l) (c.b64 f l) (c.d64 f l)

/-- A unary word. -/
def aluU (i : Instr) (f : FmtU) (s : State) (op : Ctx → Word → Word) : Host.Outcome State Fault Refusal :=
  issueOk i s fun c => c.putV f.d.toNat fun l => op c (c.u f l)

/-- A unary word on pairs. -/
def aluU64 (i : Instr) (f : FmtU) (s : State) (op : Ctx → Quad → Quad) : Host.Outcome State Fault Refusal :=
  issueOk i s fun c => c.putV2 f.d.toNat fun l => op c (c.u64 f l)

/-- The source of a shift by an immediate: its low byte is form and amount, which vimm reads as imm8 (R268). -/
def shiftSrc (c : Ctx) (form : BitVec 2) (a : BitVec 7) (n : BitVec 6) (lane : Nat) : Word := c.vsrc (c.imm32 (form ++ n)) a.toNat 0 lane

/-- A 32-bit shift by an immediate. -/
def shift32 (i : Instr) (form : BitVec 2) (f : FmtSh) (s : State) (op : Word → Nat → Word) : Host.Outcome State Fault Refusal :=
  issueOk i s fun c => c.putV f.d.toNat fun l => op (shiftSrc c form f.a (f.n.setWidth 6) l) f.n.toNat

/-- A 64-bit shift by an immediate. -/
def shift64 (i : Instr) (f : FmtSh64) (s : State) (op : Quad → Nat → Quad) : Host.Outcome State Fault Refusal :=
  issueOk i s fun c => c.putV2 f.d.toNat fun l => op (c.src2 .vec f.a.toNat l) f.n.toNat

/-- Shifts (R290): an amount of the width or more shifts everything out. -/
def shl {n : Nat} (a : BitVec n) (k : Nat) : BitVec n := if k < n then a <<< k else 0
/-- See `shl`. -/
def shr {n : Nat} (a : BitVec n) (k : Nat) : BitVec n := if k < n then a >>> k else 0
/-- See `shl`: filled with the top bit. -/
def sar {n : Nat} (a : BitVec n) (k : Nat) : BitVec n := a.sshiftRight (min k n)
/-- A rotation by the amount modulo the width (R290). -/
def rol {n : Nat} (a : BitVec n) (k : Nat) : BitVec n := a.rotateLeft (k % n)

/-- The number of 1 bits (R295). -/
def popCount {n : Nat} (x : BitVec n) : Nat := ((List.range n).filter fun k => x.getLsbD k).length
/-- The number of leading zeros (R295). -/
def leadingZeros {n : Nat} (x : BitVec n) : Nat := if x = 0 then n else n - 1 - Nat.log2 x.toNat

/-- The field that bfe and bfi name in b: its position and its width, cut off at bit 31 (R291). -/
def fieldPos (b : Word) : Nat := bitsOf b.toNat 0 5
/-- See `fieldPos`. -/
def fieldWidth (b : Word) : Nat := min (min (bitsOf b.toNat 8 6) 32) (32 - fieldPos b)

/-- bfe (R291). -/
def bitExtract (a b : Word) : Word :=
  let w := fieldWidth b
  if w = 0 then 0
  else
    let x := bitsOf a.toNat (fieldPos b) w
    if b.getLsbD 16 then BitVec.ofInt 32 (signedOf w x) else BitVec.ofNat 32 x

/-- bfi (R291). -/
def bitInsert (a b d : Word) : Word :=
  let m : Word := BitVec.ofNat 32 ((2 ^ fieldWidth b - 1) * 2 ^ fieldPos b)
  (d &&& ~~~m) ||| ((a <<< fieldPos b) &&& m)

/-- The lesser of two words, read signed. -/
def minI (a b : Word) : Word := if a.sle b then a else b
/-- The lesser, read unsigned. -/
def minZ (a b : Word) : Word := if a ≤ b then a else b
/-- The greater, read signed. -/
def maxI (a b : Word) : Word := if a.sle b then b else a
/-- The greater, read unsigned. -/
def maxZ (a b : Word) : Word := if a ≤ b then b else a

/-! ### The meanings -/

/-- iadd.i32 (R288, R289). -/
def execIadd (f : FmtR) (s : State) := aluR (.iadd f) f s fun c a b _ => satOr c.hints.sat (a + b) (fun x y _ => x + y) a b 0
/-- isub.i32 (R288, R289). -/
def execIsub (f : FmtR) (s : State) := aluR (.isub f) f s fun c a b _ => satOr c.hints.sat (a - b) (fun x y _ => x - y) a b 0
/-- imul.i32 (R288, R289). -/
def execImul (f : FmtR) (s : State) := aluR (.imul f) f s fun c a b _ => satOr c.hints.sat (a * b) (fun x y _ => x * y) a b 0
/-- imulh.i32 (R288). -/
def execImulhI (f : FmtR) (s : State) := aluR (.imulhI f) f s fun _ a b _ => BitVec.ofInt 32 (a.toInt * b.toInt / 2 ^ 32)
/-- imulh.z32 (R288). -/
def execImulhZ (f : FmtR) (s : State) := aluR (.imulhZ f) f s fun _ a b _ => BitVec.ofNat 32 (a.toNat * b.toNat / 2 ^ 32)
/-- imad.i32 (R288, R289). -/
def execImad (f : FmtR) (s : State) := aluR (.imad f) f s fun c a b d => satOr c.hints.sat (a * b + d) (fun x y z => x * y + z) a b d
/-- and (R288). -/
def execAnd (f : FmtR) (s : State) := aluR (.and f) f s fun _ a b _ => a &&& b
/-- or (R288). -/
def execOr (f : FmtR) (s : State) := aluR (.or f) f s fun _ a b _ => a ||| b
/-- xor (R288). -/
def execXor (f : FmtR) (s : State) := aluR (.xor f) f s fun _ a b _ => a ^^^ b
/-- shl.i32 (R290). -/
def execShl (f : FmtR) (s : State) := aluR (.shl f) f s fun _ a b _ => shl a b.toNat
/-- shr.z32 (R290). -/
def execShr (f : FmtR) (s : State) := aluR (.shr f) f s fun _ a b _ => shr a b.toNat
/-- sar.i32 (R290). -/
def execSar (f : FmtR) (s : State) := aluR (.sar f) f s fun _ a b _ => sar a b.toNat
/-- rol.i32 (R290). -/
def execRol (f : FmtR) (s : State) := aluR (.rol f) f s fun _ a b _ => rol a b.toNat
/-- bfe (R291). -/
def execBfe (f : FmtR) (s : State) := aluR (.bfe f) f s fun _ a b _ => bitExtract a b
/-- bfi (R291). -/
def execBfi (f : FmtR) (s : State) := aluR (.bfi f) f s fun _ a b d => bitInsert a b d
/-- imin.i32 (R288). -/
def execIminI (f : FmtR) (s : State) := aluR (.iminI f) f s fun _ a b _ => minI a b
/-- imin.z32 (R288). -/
def execIminZ (f : FmtR) (s : State) := aluR (.iminZ f) f s fun _ a b _ => minZ a b
/-- imax.i32 (R288). -/
def execImaxI (f : FmtR) (s : State) := aluR (.imaxI f) f s fun _ a b _ => maxI a b
/-- imax.z32 (R288). -/
def execImaxZ (f : FmtR) (s : State) := aluR (.imaxZ f) f s fun _ a b _ => maxZ a b
/-- icmp (R292). -/
def execIcmp (f : FmtP) (s : State) := issueOk (.icmp f) s fun c => c.putP f.p.toNat fun l =>
  icmpHolds f.c.toNat 32 (c.vsrc c.vimm f.a.toNat 0 l).toNat (c.src1 c.vimm (classOf f.s) f.b.toNat 1 l).toNat
/-- sel (R293). -/
def execSel (f : FmtSel) (s : State) := issueOk (.sel f) s fun c => c.putV f.d.toNat fun l =>
  if (c.w.getP l f.q.toNat != c.hints.neg) then c.vsrc c.vimm f.a.toNat 0 l else c.src1 c.vimm (classOf f.s) f.b.toNat 1 l
/-- ladd (R296). -/
def execLadd (f : FmtR) (s : State) := issueOk (.ladd f) s fun c => c.putV2 f.d.toNat fun l => c.b64 f l + (c.a f l).setWidth 64
/-- iadd.i64 (R288, R289). -/
def execIadd64 (f : FmtR) (s : State) := aluR64 (.iadd64 f) f s fun c a b _ => satOr c.hints.sat (a + b) (fun x y _ => x + y) a b 0
/-- isub.i64 (R288, R289). -/
def execIsub64 (f : FmtR) (s : State) := aluR64 (.isub64 f) f s fun c a b _ => satOr c.hints.sat (a - b) (fun x y _ => x - y) a b 0
/-- icmp.64 (R292). -/
def execIcmp64 (f : FmtP) (s : State) := issueOk (.icmp64 f) s fun c => c.putP f.p.toNat fun l =>
  icmpHolds f.c.toNat 64 (c.src2 .vec f.a.toNat l).toNat (c.src2 (classOf f.s) f.b.toNat l).toNat
/-- shl.i32 by an immediate (R290). -/
def execShlImm (f : FmtSh) (s : State) := shift32 (.shlImm f) 0 f s shl
/-- shr.z32 by an immediate (R290). -/
def execShrImm (f : FmtSh) (s : State) := shift32 (.shrImm f) 1 f s shr
/-- sar.i32 by an immediate (R290). -/
def execSarImm (f : FmtSh) (s : State) := shift32 (.sarImm f) 2 f s sar
/-- rol.i32 by an immediate (R290). -/
def execRolImm (f : FmtSh) (s : State) := shift32 (.rolImm f) 3 f s rol
/-- shl.i64 by an immediate (R290). -/
def execShlImm64 (f : FmtSh64) (s : State) := shift64 (.shlImm64 f) f s shl
/-- shr.z64 by an immediate (R290). -/
def execShrImm64 (f : FmtSh64) (s : State) := shift64 (.shrImm64 f) f s shr
/-- sar.i64 by an immediate (R290). -/
def execSarImm64 (f : FmtSh64) (s : State) := shift64 (.sarImm64 f) f s sar
/-- rol.i64 by an immediate (R290). -/
def execRolImm64 (f : FmtSh64) (s : State) := shift64 (.rolImm64 f) f s rol
/-- iadd.i32 with an immediate (R294). -/
def execIaddImm (f : FmtI) (s : State) := issueOk (.iaddImm f) s fun c => c.putV f.d.toNat fun l =>
  let a := c.vsrc (c.imm32 f.i) f.a.toNat 0 l
  satOr c.hints.sat (a + c.imm32 f.i) (fun x y _ => x + y) a (c.imm32 f.i) 0
/-- and with an immediate (R294). -/
def execAndImm (f : FmtI) (s : State) := issueOk (.andImm f) s fun c => c.putV f.d.toNat fun l => c.vsrc (c.imm32 f.i) f.a.toNat 0 l &&& c.imm32 f.i
/-- movi (R294). -/
def execMovi (f : FmtMovi) (s : State) := issueOk (.movi f) s fun c => c.putV f.d.toNat fun _ => c.imm32 f.i
/-- mov (R295). -/
def execMov (f : FmtU) (s : State) := aluU (.mov f) f s fun _ x => x
/-- mov.64 (R295). -/
def execMov64 (f : FmtU) (s : State) := aluU64 (.mov64 f) f s fun _ x => x
/-- popc (R295). -/
def execPopc (f : FmtU) (s : State) := aluU (.popc f) f s fun _ x => BitVec.ofNat 32 (popCount x)
/-- popc.64 (R295). -/
def execPopc64 (f : FmtU) (s : State) := issueOk (.popc64 f) s fun c => c.putV f.d.toNat fun l => BitVec.ofNat 32 (popCount (c.u64 f l))
/-- clz (R295). -/
def execClz (f : FmtU) (s : State) := aluU (.clz f) f s fun _ x => BitVec.ofNat 32 (leadingZeros x)
/-- clz.64 (R295). -/
def execClz64 (f : FmtU) (s : State) := issueOk (.clz64 f) s fun c => c.putV f.d.toNat fun l => BitVec.ofNat 32 (leadingZeros (c.u64 f l))
/-- imul.i64 (R288, R289). -/
def execImul64 (f : FmtR) (s : State) := aluR64 (.imul64 f) f s fun c a b _ => satOr c.hints.sat (a * b) (fun x y _ => x * y) a b 0

end Sys2Proof.Machine
end

