-- ==== Sys2Proof/Machine/Float.lean ====
section
/-! DEFINITION. Floating-point instructions: binary32, binary64 and packed 16-bit (R297 to R301). -/

namespace Sys2Proof.Machine

/-- The rounding mode: the rnd hint's, else to nearest even (R212). -/
def Ctx.mode (c : Ctx) : RMode := match c.hints.rnd with | none => 0 | some m => m.toNat

/-- FPC as it governs the gang (R214). -/
def Ctx.fpc (c : Ctx) : Fpc := Fpc.of c.ga.fpc

/-- A binary32 word on two operands, and on three. -/
def fpu32 (i : Instr) (f : FmtR) (s : State) (op : Ctx → Nat → Nat → Nat → Nat) : Host.Outcome State Fault Refusal :=
  aluR i f s fun c a b d => BitVec.ofNat 32 (op c a.toNat b.toNat d.toNat)
/-- A unary binary32 word. -/
def fpuU32 (i : Instr) (f : FmtU) (s : State) (op : Ctx → Nat → Nat) : Host.Outcome State Fault Refusal :=
  aluU i f s fun c x => BitVec.ofNat 32 (op c x.toNat)
/-- A binary64 word. -/
def fpu64 (i : Instr) (f : FmtR) (s : State) (op : Ctx → Nat → Nat → Nat → Nat) : Host.Outcome State Fault Refusal :=
  aluR64 i f s fun c a b d => BitVec.ofNat 64 (op c a.toNat b.toNat d.toNat)
/-- A unary binary64 word. -/
def fpuU64 (i : Instr) (f : FmtU) (s : State) (op : Ctx → Nat → Nat) : Host.Outcome State Fault Refusal :=
  aluU64 i f s fun c x => BitVec.ofNat 64 (op c x.toNat)
/-- A packed word: each 16-bit element alone (R301). -/
def packed (op : Nat → Nat → Nat → Nat) (a b d : Nat) : Nat :=
  op (bitsOf a 0 16) (bitsOf b 0 16) (bitsOf d 0 16) + op (bitsOf a 16 16) (bitsOf b 16 16) (bitsOf d 16 16) * 2 ^ 16
/-- A word that writes a predicate by a floating comparison (R299). -/
def fcompare (i : Instr) (f : FmtP) (s : State) (fmt : FFmt) (a b : Ctx → Nat → Nat) : Host.Outcome State Fault Refusal :=
  issueOk i s fun c => c.putP f.p.toNat fun l => c.fpc.compare fmt f.c.toNat (a c l) (b c l)

/-- fadd (R297). -/
def execFadd (f : FmtR) (s : State) := fpu32 (.fadd f) f s fun c a b _ => c.fpc.add f32 c.mode a b
/-- fsub (R297). -/
def execFsub (f : FmtR) (s : State) := fpu32 (.fsub f) f s fun c a b _ => c.fpc.sub f32 c.mode a b
/-- fmul (R297). -/
def execFmul (f : FmtR) (s : State) := fpu32 (.fmul f) f s fun c a b _ => c.fpc.mul f32 c.mode a b
/-- ffma (R297, R213). -/
def execFfma (f : FmtR) (s : State) := fpu32 (.ffma f) f s fun c a b d => c.fpc.fma f32 c.mode a b d
/-- fmin (R216, R297). -/
def execFmin (f : FmtR) (s : State) := fpu32 (.fmin f) f s fun c a b _ => c.fpc.pick f32 true a b
/-- fmax (R216, R297). -/
def execFmax (f : FmtR) (s : State) := fpu32 (.fmax f) f s fun c a b _ => c.fpc.pick f32 false a b
/-- fcmp (R299). -/
def execFcmp (f : FmtP) (s : State) := fcompare (.fcmp f) f s f32 (fun c l => (c.vsrc c.vimm f.a.toNat 0 l).toNat)
  fun c l => (c.src1 c.vimm (classOf f.s) f.b.toNat 1 l).toNat
/-- fdiv (R297, R217). -/
def execFdiv (f : FmtR) (s : State) := fpu32 (.fdiv f) f s fun c a b _ => c.fpc.fdiv c.mode a b
/-- frcp (R297, R217). -/
def execFrcp (f : FmtU) (s : State) := fpuU32 (.frcp f) f s fun c x => c.fpc.frcp c.mode x
/-- frsq (R297, R217). -/
def execFrsq (f : FmtU) (s : State) := fpuU32 (.frsq f) f s fun c x => c.fpc.frsq c.mode x
/-- fsqrt (R297). -/
def execFsqrt (f : FmtU) (s : State) := fpuU32 (.fsqrt f) f s fun c x => c.fpc.sqrt f32 c.mode x
/-- fex2 (R297). -/
def execFex2 (f : FmtU) (s : State) := fpuU32 (.fex2 f) f s fun c x => c.fpc.fex2 x
/-- flg2 (R297). -/
def execFlg2 (f : FmtU) (s : State) := fpuU32 (.flg2 f) f s fun c x => c.fpc.flg2 x
/-- fsin (R297). -/
def execFsin (f : FmtU) (s : State) := fpuU32 (.fsin f) f s fun c x => c.fpc.trig true x
/-- fcos (R297). -/
def execFcos (f : FmtU) (s : State) := fpuU32 (.fcos f) f s fun c x => c.fpc.trig false x
/-- frnd (R297). -/
def execFrnd (f : FmtU) (s : State) := fpuU32 (.frnd f) f s fun c x => c.fpc.integral f32 c.mode x
/-- dadd (R300). -/
def execDadd (f : FmtR) (s : State) := fpu64 (.dadd f) f s fun c a b _ => c.fpc.add f64 c.mode a b
/-- dsub (R300). -/
def execDsub (f : FmtR) (s : State) := fpu64 (.dsub f) f s fun c a b _ => c.fpc.sub f64 c.mode a b
/-- dmul (R300). -/
def execDmul (f : FmtR) (s : State) := fpu64 (.dmul f) f s fun c a b _ => c.fpc.mul f64 c.mode a b
/-- dffma (R300). -/
def execDffma (f : FmtR) (s : State) := fpu64 (.dffma f) f s fun c a b d => c.fpc.fma f64 c.mode a b d
/-- dmin (R300). -/
def execDmin (f : FmtR) (s : State) := fpu64 (.dmin f) f s fun c a b _ => c.fpc.pick f64 true a b
/-- dmax (R300). -/
def execDmax (f : FmtR) (s : State) := fpu64 (.dmax f) f s fun c a b _ => c.fpc.pick f64 false a b
/-- dcmp (R299). -/
def execDcmp (f : FmtP) (s : State) := fcompare (.dcmp f) f s f64 (fun c l => (c.src2 .vec f.a.toNat l).toNat)
  fun c l => (c.src2 (classOf f.s) f.b.toNat l).toNat
/-- ddiv (R300): always correctly rounded. -/
def execDdiv (f : FmtR) (s : State) := fpu64 (.ddiv f) f s fun c a b _ => c.fpc.div f64 c.mode a b
/-- dsqrt (R300). -/
def execDsqrt (f : FmtU) (s : State) := fpuU64 (.dsqrt f) f s fun c x => c.fpc.sqrt f64 c.mode x
/-- drnd (R300). -/
def execDrnd (f : FmtU) (s : State) := fpuU64 (.drnd f) f s fun c x => c.fpc.integral f64 c.mode x
/-- hadd2 (R301). -/
def execHadd2 (f : FmtR) (s : State) := fpu32 (.hadd2 f) f s fun c => packed fun a b _ => c.fpc.add f16 c.mode a b
/-- hfma2 (R301). -/
def execHfma2 (f : FmtR) (s : State) := fpu32 (.hfma2 f) f s fun c => packed fun a b d => c.fpc.fma f16 c.mode a b d
/-- bfma2 (R301). -/
def execBfma2 (f : FmtR) (s : State) := fpu32 (.bfma2 f) f s fun c => packed fun a b d => c.fpc.fma bf16 c.mode a b d

end Sys2Proof.Machine
end

