-- ==== Sys2Proof/Machine/CrossLane.lean ====
section
/-! DEFINITION. Cross-lane instructions (R306 to R310), over the wave or, in a Voxunet launch, over each virtual wave (R439); the index tree (R226). -/

namespace Sys2Proof.Machine

/-! ### The index tree (R226) -/

/-- One level of the tree: neighbours combined, the lower index first; an absent child contributes nothing. -/
def treeLevel {α : Type} (op : α → α → α) : List (Option α) → List (Option α)
  | x :: y :: r => (match x, y with
      | none, b => b
      | a, none => a
      | some a, some b => some (op a b)) :: treeLevel op r
  | [x] => [x]
  | [] => []

/-- The tree of `k` levels. -/
def treeFold {α : Type} (op : α → α → α) : Nat → List (Option α) → List (Option α)
  | 0, xs => xs
  | k + 1, xs => treeFold op k (treeLevel op xs)

/-- IndexTree (R226). -/
def indexTree {α : Type} (op : α → α → α) (xs : List (Option α)) (k : Nat) : Option α := (treeFold op k xs).head?.join

/-- An operation of redux and scan at a node of the tree (R278, R310): FOUT applies to each node's result, FIN to the tree's inputs alone. -/
def reduxOp (fpc : Fpc) (code : Nat) (a b : Word) : Word :=
  let fpc := { fpc with fin := false }
  match code with
  | 0 => a + b
  | 1 => BitVec.ofNat 32 (fpc.add f32 0 a.toNat b.toNat)
  | 2 => minI a b
  | 3 => maxI a b
  | 4 => minZ a b
  | 5 => maxZ a b
  | 6 => a &&& b
  | 7 => a ||| b
  | 8 => a ^^^ b
  | 9 => BitVec.ofNat 32 (fpc.pick f32 true a.toNat b.toNat)
  | _ => BitVec.ofNat 32 (fpc.pick f32 false a.toNat b.toNat)

/-- An input of the tree: FIN applies to a floating one (R310). -/
def reduxIn (fpc : Fpc) (code : Nat) (a : Word) : Word :=
  if code = 1 || 9 ≤ code then BitVec.ofNat 32 (fpc.input f32 a.toNat) else a

/-- The tree over the lanes of a set, from the block's first lane, `width` lanes wide. -/
def laneTree (fpc : Fpc) (code base width : Nat) (present : Lanes) (a : Nat → Word) : Word :=
  (indexTree (reduxOp fpc code)
    ((List.range width).map fun k => if present.getLsbD (base + k) then some (reduxIn fpc code (a (base + k))) else none) (clog2 width)).getD 0

/-! ### The meanings -/

/-- Register a of a lane as shfl and bcast read it, whatever the lane's state (R306): the scratch register that a virtual word reads as vlane holds each lane's own number (R430, R439). -/
def Ctx.laneSrc (c : Ctx) (f : FmtR) (j : Nat) : Word := if c.vox && f.a.toNat = c.vregs + 10 then BitVec.ofNat 32 (j % c.width) else c.a f j

/-- A shuffle: each ACTIVE lane receives a's value in a source lane of its block; its own where the source falls outside (R307). -/
def shuffle (i : Instr) (f : FmtR) (s : State) (source : Nat → Nat → Nat → Int) : Host.Outcome State Fault Refusal :=
  issueOk i s fun c => c.putV f.d.toNat fun l =>
    let base := c.blockBase l
    let j := source (l - base) (c.b f l).toNat c.width
    if 0 ≤ j ∧ j < c.width then c.laneSrc f (base + j.toNat) else c.laneSrc f l

/-- shfl.idx (R307). -/
def execShflIdx (f : FmtR) (s : State) := shuffle (.shflIdx f) f s fun _ n _ => (n % 32 : Nat)
/-- shfl.xor (R307). -/
def execShflXor (f : FmtR) (s : State) := shuffle (.shflXor f) f s fun i n _ => (i ^^^ n % 32 : Nat)
/-- shfl.up (R307). -/
def execShflUp (f : FmtR) (s : State) := shuffle (.shflUp f) f s fun i n _ => (i : Int) - n
/-- shfl.down (R307). -/
def execShflDown (f : FmtR) (s : State) := shuffle (.shflDown f) f s fun i n _ => (i : Int) + n

/-- vote (R308): over the ACTIVE lanes of a block; a ballot has one bit a lane of the block (R439). -/
def execVote (f : FmtVote) (s : State) := issueOk (.vote f) s fun c => c.putS f.d.toNat fun act =>
  let q (l : Nat) : Bool := c.w.getP l f.q.toNat
  match f.m.toNat with
  | 0 => if (laneList act).all q then 1 else 0
  | 1 => if (laneList act).any q then 1 else 0
  | _ => lanesWhere (fun l => act.getLsbD l && q l) >>> c.blockBase (lowestLane act)

/-- bcast (R309): a of the lane that b names in the lowest ACTIVE lane. In a Voxunet launch the lane is one of the virtual wave; the spec states no value for a lane at or above VW, which gives a free one (R439; log entry 8). -/
def execBcast (f : FmtR) (s : State) := issueOk (.bcast f) s fun c t =>
  c.putS f.d.toNat (fun act =>
    let l := lowestLane act
    let n := bitsOf (c.b f l).toNat 0 5
    if n < c.width then c.laneSrc f (c.blockBase l + n) else Config.freeWord (t.fresh + c.blockBase l))
    (if c.width = 32 then t else { t with fresh := t.fresh + 32 })

/-- redux (R310). -/
def execRedux (f : FmtRdx) (s : State) := issueOk (.redux f) s fun c => c.putS f.d.toNat fun act =>
  laneTree c.fpc f.o.toNat (c.blockBase (lowestLane act)) c.width act fun l => c.vsrc c.vimm f.a.toNat 0 l

/-- scan (R310): inclusive. -/
def execScan (f : FmtRdx) (s : State) := issueOk (.scan f) s fun c => c.putV f.d.toNat fun l =>
  laneTree c.fpc f.o.toNat (c.blockBase l) c.width (c.act &&& lanesWhere fun k => k ≤ l) fun k => c.vsrc c.vimm f.a.toNat 0 k

end Sys2Proof.Machine
end

