-- ==== Sys2Proof/Machine/Atomics.lean ====
section
/-! DEFINITION. Atomics (R337 to R340) and multi-destination stores (R341 to R343). -/

namespace Sys2Proof.Machine

/-- The address pair of an atomic. -/
def pairReg (k : BitVec 5) : Nat := 2 * k.toNat

/-- The operand of an atomic of `n` bytes in a lane. -/
def Ctx.atomData (c : Ctx) (b n lane : Nat) : Quad := if n = 8 then c.src2 .vec b lane else (c.vsrc c.vimm b 1 lane).setWidth 64

/-- The access of an atomic that returns the old value (R337). -/
def Ctx.atomOp (c : Ctx) (f : FmtA) (n : Nat) : MemOp :=
  { kind := .atomic f.p.toNat n true, dst := destOf f.d.toNat (if n = 8 then 2 else 1)
    lanes := (laneList c.act).map fun l => newLane l 0 (c.ea (pairReg f.k) 0 l) (c.atomData f.b.toNat n l) 0
    acquire := f.o.getLsbD 0, release := f.o.getLsbD 1, placement := 0 }

/-- atom, 32 bits (R337). -/
def execAtom32 (f : FmtA) (s : State) := issue (.atom32 f) s fun c t => c.launch (c.atomOp f 4) 1 t
/-- atom.i64 (R337). -/
def execAtom64 (f : FmtA) (s : State) := issue (.atom64 f) s fun c t => c.launch (c.atomOp f 8) 1 t

/-- The access of acas (R338): the compare value in data, the new one in data2. -/
def Ctx.casOp (c : Ctx) (f : FmtAcas) : MemOp :=
  let n := if f.w = 1 then 8 else 4
  { kind := .cas n, dst := destOf f.d.toNat (if n = 8 then 2 else 1)
    lanes := (laneList c.act).map fun l => newLane l 0 (c.ea (pairReg f.k) 0 l) (c.atomData f.b.toNat n l) (c.atomData (f.b.toNat + n / 4) n l)
    acquire := f.o.getLsbD 0, release := f.o.getLsbD 1, placement := 0 }

/-- acas (R338). -/
def execAcas (f : FmtAcas) (s : State) := issue (.acas f) s fun c t => c.launch (c.casOp f) 1 t

/-- The sum that a dtree hint forms of the lanes that name one address (R226, R269): over lane index, RNE at each node. A lane that names it with several destinations adds its datum once for each (R269 does not say; DESIGN CHOICE, log entry 85). -/
def dtreeSum (same : List AccLane) : Quad :=
  let add (a b : Nat) : Nat := Fpc.plain.add f32 0 a b
  let mine (n : Nat) : Option Nat := match same.filter fun l => l.lane = n with
    | [] => none
    | l :: ls => some (ls.foldl (fun a m => add a (m.data.toNat % 2 ^ 32)) (l.data.toNat % 2 ^ 32))
  BitVec.ofNat 64 ((indexTree add ((List.range 32).map mine) 5).getD 0)

/-- Lanes combined under a dtree hint (R269, R271): of those that name one address the first makes the access, with the sum, and the others are over. -/
def combined (ls : List AccLane) : List AccLane :=
  ls.map fun l =>
    let same := ls.filter fun m => m.va = l.va
    if same.head? = some l then { l with data := dtreeSum same } else l.over

/-- The lanes of a red; under a dtree hint combined (R269). -/
def Ctx.redLanes (c : Ctx) (f : FmtRed) (n : Nat) : List AccLane :=
  let ls := (laneList c.act).map fun l => newLane l 0 (c.ea (pairReg f.k) 0 l) (c.atomData f.b.toNat n l) 0
  if c.hints.dtree then combined ls else ls

/-- red (R339). -/
def execRed (f : FmtRed) (s : State) := issue (.red f) s fun c t =>
  let n := if f.w = 1 then 8 else 4
  c.launch { kind := .atomic f.p.toNat n false, dst := none, lanes := c.redLanes f n, acquire := false, release := f.o = 2, placement := 0 } 2 t

/-! ### Multi-destination stores -/

/-- The destination list of a lane (R341): the count, and the base of a destination. -/
def Ctx.listCount (c : Ctx) (n lane : Nat) : Nat := bitsOf (c.ssrc n 0 lane).toNat 0 4
/-- See `listCount`. -/
def Ctx.listBase (c : Ctx) (n k lane : Nat) : Quad := c.src2 .scal (n + 2 + 2 * k) lane

/-- The list is not one that R341 allows. -/
def Ctx.listBad (c : Ctx) (n lane : Nat) : Bool :=
  n % 2 = 1 || 94 < n || bitsOf (c.ssrc n 0 lane).toNat 4 28 ≠ 0 || c.listCount n lane = 0 || 8 < c.listCount n lane || 95 < n + 1 + 2 * c.listCount n lane

/-- The accesses to every destination (R342): base plus the size times the lane number. In deterministic mode they are performed in this order (R165). -/
def Ctx.multiLanes (c : Ctx) (list n : Nat) (data : Nat → Quad) : List AccLane :=
  (laneList c.act).flatMap fun l => ((List.range 8).filter fun k => k < c.listCount list l).map fun k =>
    newLane l k (c.listBase list k l + BitVec.ofNat 64 (n * (l % c.width))).toNat (data l) 0

/-- mcst and rdst (R341 to R343). -/
def Ctx.multi (c : Ctx) (op : Option Nat) (list d : BitVec 7) (wide release : Bool) (s : State) : Body :=
  let n := if wide then 8 else 4
  let data (l : Nat) : Quad := if wide then c.src2 .vec d.toNat l else (c.vsrc c.vimm d.toNat 2 l).setWidth 64
  if c.act ≠ 0 && (laneList c.act).any (c.listBad list.toNat) then c.illop
  else
    let ls := c.multiLanes list.toNat n data
    c.launch { kind := .multi op n, dst := none, lanes := if c.hints.dtree then combined ls else ls, acquire := false, release, placement := 0 } 2 s

/-- mcst (R342). -/
def execMcst (f : FmtMcst) (s : State) := issue (.mcst f) s fun c t => c.multi none f.l f.d (f.w = 1) (f.o = 2) t
/-- rdst (R342). -/
def execRdst (f : FmtRdst) (s : State) := issue (.rdst f) s fun c t => c.multi (some f.p.toNat) f.l f.d (f.w = 1) (f.o = 2) t

end Sys2Proof.Machine
end

