-- ==== Sys2Proof/Machine/CacheOps.lean ====
section
/-! DEFINITION. Cache operations: locks, prefetches and invalidations (R333 to R336). -/

namespace Sys2Proof.Machine

/-- The lanes of a line operation (R333). -/
def Ctx.lineLanes (c : Ctx) (a : BitVec 7) : List AccLane := (laneList c.act).map fun l => newLane l 0 (c.ea a.toNat 0 l) 0 0

/-- lck (R334). -/
def execLck (f : FmtDA) (s : State) := issue (.lck f) s fun c t => c.launch (MemOp.plain .lock (destOf f.d.toNat 1) (c.lineLanes f.a)) 1 t
/-- ulk (R334). -/
def execUlk (f : FmtDA) (s : State) := issue (.ulk f) s fun c t => c.launch (MemOp.plain .unlock (destOf f.d.toNat 1) (c.lineLanes f.a)) 1 t
/-- pref (R335). -/
def execPref (f : FmtA1) (s : State) := issue (.pref f) s fun c t =>
  c.launch { MemOp.plain (.pref (c.cacheHint.getLsbD 0)) none (c.lineLanes f.a) with placement := c.cacheHint } 0 t

/-- Lines of a core's L1 removed by address, ordinary and decoded, locked ones only where asked; a fill asked for is not installed (R336). -/
def State.cinvLines (s : State) (core asid : Nat) (vas : List Nat) (locked : Bool) : State :=
  let hit (line : Nat) : Bool := vas.any fun va => va / 2 ^ 60 = 0 && va / 64 = line
  { s.modCaches fun c => { c with l1 := c.l1.filter fun l => !(l.core = core && l.asid = asid && hit l.line && (locked || !l.locked)) } with
    flights := s.flights.map fun a =>
      if a.core = core && a.asid = asid && a.lanes.any (fun l => l.status = .ready && hit l.line) then { a with noInstall := true } else a }

/-- The addresses that the ACTIVE lanes name. -/
def Ctx.named (c : Ctx) (a : BitVec 7) : List Nat := (laneList c.act).map fun l => c.ea a.toNat 0 l

/-- cinv.line (R336). -/
def execCinvLine (f : FmtA1) (s : State) := issueOk (.cinvLine f) s fun c t => t.cinvLines c.w.core c.gr.asid (c.named f.a) false
/-- cinv.unl (R336). -/
def execCinvUnl (f : FmtA1) (s : State) := issueOk (.cinvUnl f) s fun c t => t.cinvLines c.w.core c.gr.asid (c.named f.a) true
/-- cinv.all (R336). -/
def execCinvAll (f : FmtG0) (s : State) := issueOk (.cinvAll f) s fun c t => if c.act = 0 then t else t.invalidateL1 c.w.core
/-- cinv.iline (R336). -/
def execCinvIline (f : FmtA1) (s : State) := issueOk (.cinvIline f) s fun c t =>
  t.modCaches fun k => { k with l1i := k.l1i.filter fun l =>
    !(l.core = c.w.core && l.asid = c.gr.asid && (c.named f.a).any fun va => va / 2 ^ 60 = 0 && va / 64 = l.line) }
/-- cinv.iall (R336). -/
def execCinvIall (f : FmtG0) (s : State) := issueOk (.cinvIall f) s fun c t =>
  if c.act = 0 then t else t.modCaches fun k => { k with l1i := k.l1i.filter fun l => l.core ≠ c.w.core }

end Sys2Proof.Machine
end

