-- ==== Sys2Proof/Machine/Sha.lean ====
section
/-! DEFINITION. SHA-384, as its published standard defines it (PRESUMED, log entry 89): the digest of the code cache (R440). -/

namespace Sys2Proof
namespace Machine

/-- The greatest number below `2 ^ bits` whose `power` does not exceed `n`. -/
def rootOf (power n : Nat) : Nat → Nat → Nat
  | 0, acc => acc
  | bits + 1, acc => rootOf power n bits (if (acc + 2 ^ bits) ^ power ≤ n then acc + 2 ^ bits else acc)

/-- The first 80 primes. -/
def primes80 : List Nat := (List.range 410).filter fun n => 2 ≤ n && (List.range n).all fun d => d < 2 || n % d ≠ 0

/-- Bits of the fractional part of a root: 64 of them. -/
def shaRoot (power p : Nat) : Quad := BitVec.ofNat 64 (rootOf power (p * 2 ^ (64 * power)) 72 0)

/-- The 80 round constants: of the cube roots of the primes. -/
def shaRounds : List Quad := primes80.map (shaRoot 3)

/-- The first hash value: of the square roots of the ninth to the sixteenth prime. -/
def shaStart : List Quad := ((primes80.drop 8).take 8).map (shaRoot 2)

/-- The message schedule: `n` more words after those so far, last word first. -/
def shaSchedule : Nat → List Quad → List Quad
  | 0, ws => ws
  | n + 1, ws =>
    let at_ (k : Nat) : Quad := ws.getD (k - 1) 0
    let s0 := (at_ 15).rotateRight 1 ^^^ (at_ 15).rotateRight 8 ^^^ (at_ 15) >>> 7
    let s1 := (at_ 2).rotateRight 19 ^^^ (at_ 2).rotateRight 61 ^^^ (at_ 2) >>> 6
    shaSchedule n ((at_ 16 + s0 + at_ 7 + s1) :: ws)

/-- One round: the eight working words with a round constant and a schedule word. -/
def shaRound (v : List Quad) (kw : Quad × Quad) : List Quad :=
  let x (n : Nat) : Quad := v.getD n 0
  let s1 := (x 4).rotateRight 14 ^^^ (x 4).rotateRight 18 ^^^ (x 4).rotateRight 41
  let t1 := x 7 + s1 + ((x 4 &&& x 5) ^^^ (~~~(x 4) &&& x 6)) + kw.1 + kw.2
  let s0 := (x 0).rotateRight 28 ^^^ (x 0).rotateRight 34 ^^^ (x 0).rotateRight 39
  let t2 := s0 + ((x 0 &&& x 1) ^^^ (x 0 &&& x 2) ^^^ (x 1 &&& x 2))
  [t1 + t2, x 0, x 1, x 2, x 3 + t1, x 4, x 5, x 6]

/-- A number as bytes, most significant first. -/
def bytesHigh (n x : Nat) : List Byte := (bytesOfNat n x).reverse

/-- The hash value with one block of 128 bytes. -/
def shaBlock (h : List Quad) (block : List Byte) : List Quad :=
  let ws := (List.range 16).map fun k => BitVec.ofNat 64 (natOfBytes ((block.drop (8 * k)).take 8).reverse)
  let v := (shaRounds.zip (shaSchedule 64 ws.reverse).reverse).foldl shaRound h
  List.zipWith (· + ·) h v

/-- The message padded to whole blocks: a one bit, zeros, and its length in bits. -/
def shaPad (m : List Byte) : List Byte := m ++ [0x80] ++ List.replicate ((239 - m.length % 128) % 128) 0 ++ bytesHigh 16 (8 * m.length)

/-- SHA-384 of a message: 48 bytes. -/
def sha384 (m : List Byte) : List Byte :=
  let p := shaPad m
  (((List.range (p.length / 128)).foldl (fun h k => shaBlock h ((p.drop (128 * k)).take 128)) shaStart).flatMap fun q => bytesHigh 8 q.toNat).take 48

end Machine
end Sys2Proof
end

