-- ==== Sys2Proof/Machine/Translate.lean ====
section
/-! DEFINITION. Translating a Voxunet segment into native words (R430, R434, R439), its PC map and its digest (R440), and the code cache: where its entries stand and which one makes room (R441). -/

namespace Sys2Proof

/-- A word with the register field at bit `lo` naming another register. -/
def setField (w : Word) (lo reg : Nat) : Word := BitVec.ofNat 32 (w.toNat - fieldNat w lo 7 * 2 ^ lo + reg % 128 * 2 ^ lo)

/-- Where an operand's register field stands, by its role: a, b, or d. -/
def Operand.place (o : Operand) : Nat := if o.role = 0 then 8 else if o.role = 1 then 1 else 15

/-- The register field of one operand of a virtual word rewritten (R430): v111 to v(VREGS + 1), vlane to the scratch register v(VREGS + 10), a uniform register s(20 + j) to v(VREGS + 2 + j), which a source field then names in the vector class. A 5-bit scalar field has no room for it and stays (log entry 9). -/
def Operand.rewrite (vregs : Nat) (short : Bool) (w : Word) (o : Operand) : Word :=
  match o.cls with
  | .vec => if o.count = 1 && o.dir = .read && o.num = 111 then setField w o.place (vregs + 1)
    else if o.count = 1 && o.dir = .read && o.num = 125 then setField w o.place (vregs + 10) else w
  | .scal => if o.num < 20 || 27 < o.num || (short && o.dir = .read) then w
    else if o.dir = .read then setField (BitVec.ofNat 32 (w.toNat / 2 * 2)) 1 (vregs + 2 + (o.num - 20))
    else setField w o.place (vregs + 2 + (o.num - 20))

/-- The word names a scalar resource in a 5-bit field. -/
def Instr.shortScalar : Instr → Bool
  | .ldlod _ | .tex _ | .texq _ => true
  | _ => false

/-- The word reads vlane. -/
def Instr.readsLane (i : Instr) : Bool := i.operands.any fun o => o.cls = .vec && o.count = 1 && o.num = 125

/-- The native word of a virtual one (R430): only its register fields change (R434). -/
def Instr.nativeWord (vregs : Nat) (i : Instr) (w : Word) : Word := i.operands.foldl (Operand.rewrite vregs i.shortScalar) w

/-- The word that stands before a read of vlane (R430): the native lane number masked with VW − 1 goes to the scratch register. -/
def laneWord (vregs log2vw : Nat) : Word := (encode (.andImm ⟨0, BitVec.ofNat 7 (vregs + 10), 125, BitVec.ofNat 8 (2 ^ log2vw - 1)⟩)).getD 0

/-- The word that ends every translated segment: an unguarded yield (R430). -/
def yieldWord : Word := 0xB0000000

namespace Machine

/-- The native words of a segment's words from offset `k` on, each with the offset of the virtual word that it belongs to; `hints` are the hint words that stand before the next one. -/
def CodeEntry.emit (e : CodeEntry) : Nat → List (Nat × Word) → List Word → List (Nat × Word)
  | k, hints, [] => hints ++ [(k, yieldWord)]
  | k, hints, w :: ws => match decodeVox w with
    | .error _ => hints ++ (k, w) :: e.emit (k + 1) [] ws
    | .ok i =>
      if i.isHint then e.emit (k + 1) (hints ++ [(k, w)]) ws
      else (if i.readsLane then [(((hints.map (·.1)).head?).getD k, laneWord e.vregs e.log2vw)] else []) ++ hints ++
        (k, i.nativeWord e.vregs w) :: e.emit (k + 1) [] ws

/-- The native code of a segment (R430): its words, of which the last writes each thread's successor, and the yield. -/
def CodeEntry.native (e : CodeEntry) : List (Nat × Word) := e.emit 0 [] e.words

/-- The PC map of a segment (R440): for each virtual word, the native word offset in bits 15:0 and its own in bits 31:16. -/
def CodeEntry.pcMap (e : CodeEntry) : List Word :=
  (List.range e.words.length).map fun k => BitVec.ofNat 32 (((e.native.findIdx? fun x => x.1 = k).getD 0) % 2 ^ 16 + k * 2 ^ 16)

/-- The bytes under whose digest a segment is cached (R440): its words, PROFILE, LOG2VW, VREGS, GATHER, the device class, three zero bytes and the Iluistino version. -/
def CodeEntry.digested (e : CodeEntry) : List Byte :=
  (e.words.flatMap fun w => bytesOfNat 4 w.toNat) ++ ([1, e.log2vw, e.vregs, e.gather.toNat, 1, 0, 0, 0].map (BitVec.ofNat 8)) ++ bytesOfNat 4 Config.iluistino.toNat

/-- The digest under which a segment is cached (R440). Two entries with equal words and parameters have equal digests, and the cache is read by those. -/
def CodeEntry.digest (e : CodeEntry) : List Byte := sha384 e.digested

/-- The bytes of a segment's place in the code cache: its native words from the start, its PC map from the middle of the place on (R440; log entry 9). -/
def CodeEntry.image (e : CodeEntry) : List Byte × List Byte := (e.native.flatMap fun x => bytesOfNat 4 x.2.toNat, e.pcMap.flatMap fun w => bytesOfNat 4 w.toNat)

/-! ### The cache (R441) -/

/-- The place of a segment's translation in the code cache. -/
def State.cached (s : State) (e : CodeEntry) : Option Nat := s.code.findIdx? fun x => x = e

/-- The word of the code cache at a native address. -/
def State.cachedWord (s : State) (pc : Nat) : Option Word :=
  if pc < codeBase then none
  else (s.code[(pc - codeBase) / 2 ^ 20]?).bind fun e => (e.native[(pc - codeBase) % 2 ^ 20 / 4]?).map (·.2)

/-- An address lies in a place of the cache. -/
def inPlace (n : Nat) (pc : Quad) : Bool := codeBase ≤ pc.toNat && (pc.toNat - codeBase) / 2 ^ 20 = n

/-- A place that is not evicted (R441): a workgroup's PC lies in it; nor is the entry segment of a launch that is not over (log entry 9). -/
def State.placeKept (s : State) (n : Nat) : Bool :=
  (s.waves.any fun w => (List.range 32).any fun l => !w.ended.getLsbD l && inPlace n (w.pcOf l)) ||
    s.grids.any fun g => g.vox.isSome && inPlace n (BitVec.ofNat 64 g.code)

/-- A place used last (R441). -/
def State.useCode (s : State) (n : Nat) : State := { s with codeUse := s.codeUse.filter (· ≠ n) ++ [n] }

/-- The place that a new translation takes: a new one while the cache has room, else that of the entry least recently used (R441). -/
def State.newPlace (s : State) : Nat :=
  if s.code.length < Config.codePlaces then s.code.length else (s.codeUse.find? fun n => n < s.code.length && !s.placeKept n).getD s.code.length

/-- The threads of a wave whose successor has been translated meanwhile go to its entry; a wave all of whose threads have one goes on (R431). -/
def State.enterTranslated (s : State) (m : VoxModule) (vregs : Nat) (w : Wave) : Wave :=
  let entry (l : Nat) : Option Nat := if w.pcOf l = untranslated then (m.segs[(w.getV l vregs).toNat]?).bind s.cached else none
  let w1 := w.setPcs (lanesWhere fun l => (entry l).isSome) fun l => nativeEntry ((entry l).getD 0)
  if w.wakeKind = 9 && w.untranslatedWait && !w1.untranslatedWait then { w1 with wake := 0 } else w1

end Machine
end Sys2Proof
end

