-- ==== Sys2Proof/Machine/Fetch.lean ====
section
/-! DEFINITION. Instruction fetch through the L1 instruction cache (R34, R35, R51, R318), the code cache of translated segments (R440, R441), and the traps of a fetch or of a word that decodes to nothing (R279). -/

namespace Sys2Proof.Machine

/-- An instruction cache with a line installed: it holds 2,048 lines of a core, and the one held longest makes room (R1, R46; replacement is not architected). -/
def installFetched (ls : List CacheLine) (l : CacheLine) : List CacheLine :=
  let ls1 := ls.filter fun x => !(x.core = l.core && x.asid = l.asid && x.line = l.line)
  let ls2 := if (ls1.filter fun x => x.core = l.core).length < 2048 then ls1 else match ls1.find? fun x => x.core = l.core with
    | some o => ls1.erase o
    | none => ls1
  ls2 ++ [l]

/-- A 4-byte fetch by a core (R318): from its instruction cache where a line is held and PV allows it, else translated, read at the home and installed. The line is installed whatever the leaf's HOME is: R48's table speaks of an L1's loads, and R51 and R318 say nothing of fetches through a leaf with HOME 10 or 11 (DESIGN CHOICE, log entry 91). -/
def State.fetch (s : State) (core asid pc : Nat) (priv : Bool) : Except Flt Word × State :=
  if pc / 2 ^ 60 ≠ 0 then (.error (pageFault 1), s)
  else match (findLine s.caches.l1i core asid (pc / 64) false).filter fun l => !l.pv || priv with
    | some l => (.ok (BitVec.ofNat 32 (l.data.toNat / 2 ^ (8 * (pc % 64)))), s)
    | none => match s.translate (quadOf core) asid pc needFetch priv 0 with
      | (.error f, s1) => (.error f, s1)
      | (.ok t, s1) =>
        let (d, s2) := s1.lineHome asid t.pa t.leaf
        let line : CacheLine := ⟨core, asid, pc / 64, t.pa / 64, d, entryBit t.leaf 4, false, false, false, pc / 64⟩
        (.ok (BitVec.ofNat 32 (d.toNat / 2 ^ (8 * (pc % 64)))),
          s2.modCaches fun c => { c with l1i := installFetched c.l1i line })

/-- The word that a wave fetches at an address, read as the launch's program is (R429). -/
def State.fetchWord (s : State) (w : Wave) (gr : Grid) (pc : Nat) : Except Flt Word × State :=
  match (if gr.vox.isSome then s.cachedWord pc else none) with
  | some x => (.ok x, s)
  | none => s.fetch w.core gr.asid pc w.priv

/-- The instruction that a word at an address is in a launch's program. -/
def Grid.decode (gr : Grid) (pc : Quad) (x : Word) : Except DecodeError Instr := if gr.virtualAt pc then decodeVox x else Sys2Proof.decode x

/-- The trap of a word that decodes to no instruction: a fetch watch that matches comes first, then ILLOP (R279, R419). -/
def State.badWord (s : State) (w : Wave) (gr : Grid) (pc : Quad) (lanes : Lanes) (word : Word) : State :=
  match (s.ctx gr.asid).fetchMatches w pc with
  | n :: _ => (s.watchPull gr.asid n).trap w.id lanes (precise 12 n word pc lanes lanes pc.toNat 0)
  | [] => s.trap w.id lanes (precise 0 0 word pc lanes lanes 0 0)

/-- What a wave's next issue begins with: nothing, a state in which the fetch has trapped, or an instruction and the state it issues in. -/
inductive Fetched where
  | nothing
  | trapped (s : State)
  | instr (i : Instr) (s : State)
deriving DecidableEq, Repr

/-- The fetch of a wave's next word. -/
def State.fetchNext (s : State) (wave : Nat) : Fetched :=
  match s.wave? wave with
  | none => .nothing
  | some w => match s.home? w with
    | none => .nothing
    | some (ga, gr) =>
      if !s.canIssue w ga then .nothing
      else match w.nextGroup with
        | none => .nothing
        | some (pc, lanes) => match s.fetchWord w gr pc.toNat with
          | (.error f, s1) => .trapped (s1.trapAt wave lanes { precise f.code f.cause 0 pc lanes lanes pc.toNat 0 with lod := f.lod } false)
          | (.ok x, s1) => match gr.decode pc x with
            | .error _ => .trapped (s1.badWord w gr pc lanes x)
            | .ok i => .instr i { s1 with issuer := wave }

end Sys2Proof.Machine
end

