-- ==== Sys2Proof/Machine/Blocking.lean ====
section
/-! DEFINITION. Blocking points (R160, R198, R205, R274), and the gangs whose room the FIFO's head needs (R161). -/

namespace Sys2Proof.Machine

/-! ### Blocking points (R160) -/

/-- The access is a load at pod or sys scope that still waits (R160, R200). -/
def State.remoteLoad (s : State) (a : Access) : Bool :=
  (match a.kind with | .load _ _ _ _ => true | _ => false) && !a.isOver &&
    a.lanes.all fun l => l.status = .done || (l.status = .ready && windowOf (s.localPa l.pa) ≠ 0)

/-- The oldest load at pod or sys scope that the wave's next instruction waits for, since it names a register that the load is to write. Waiting in wait is no blocking point (R274). -/
def State.remoteWaited (s : State) (w : Wave) : Option Access :=
  (s.flights.filter fun a => a.wave = w.id && s.remoteLoad a).find? fun a =>
    match s.fetchNext w.id with
    | .instr i _ => match s.home? w with
      | some (_, gr) => ({ s with flights := [a], eng := { s.eng with queries := [] } } : State).scoreboard i w gr
      | none => false
    | _ => false

/-- The wave waits for a load at pod or sys scope. -/
def State.remoteWait (s : State) (w : Wave) : Bool := (s.remoteWaited w).isSome

/-- A handler with traps unmasked waits for the operand log: none of its entries is free (R198). -/
def State.logWait (s : State) (w : Wave) : Bool :=
  w.priv && !w.tm && (s.freeLog w.core true false).isNone && match s.fetchNext w.id with | .instr i _ => i.isLogged | _ => false

/-- A lane's access waits at its home for room in a full operation-order log (R205). -/
def State.orderFull (s : State) (a : Access) (w : Wave) (l : AccLane) : Bool :=
  l.status = .ready && match s.home? w with
    | none => false
    | some (ga, gr) => match s.orderTurn a.asid (s.localPa l.pa / 64) (logicalWave gr ga w) w.time.toNat gr.det with
      | .full _ => true
      | _ => false

/-- An access of the wave is held by a full operation-order log (R205). -/
def State.orderWait (s : State) (w : Wave) : Bool :=
  s.flights.any fun a => a.wave = w.id && a.lanes.any (s.orderFull a w)

/-- The wave is at a blocking point, or has ended (R160, R161, R198, R205). -/
def State.atBlocking (s : State) (w : Wave) : Bool :=
  !w.alive || w.wakeKind ≠ 0 || w.waiting.isSome || s.remoteWait w || s.logWait w || s.orderWait w

/-! ### Room for the head of the FIFO (R161) -/

/-- All waves of a resident gang are at blocking points. -/
def State.gangBlocked (s : State) (g : Gang) : Bool := g.resident && (s.wavesOf g.id).all s.atBlocking

/-- The head of the FIFO needs a gang's room: it fits nowhere, it fits once this gang and the gangs whose waves are all at blocking points have left, and where it would then be placed this gang holds a core or a tile. -/
def State.headNeeds (s : State) (gang : Nat) : Bool :=
  s.headPlace.isNone &&
    match ({ s with gangs := s.gangs.map fun g => if g.id = gang || s.gangBlocked g then { g with resident := false } else g } : State).headPlace with
    | none => false
    | some (head, first, n) => s.gangs.any fun g => g.id = gang && g.resident &&
        ((g.cores.any fun c => first ≤ c && c < first + n) ||
          (!s.matrixRoom head (quadOf first) && s.eng.matrix.tiles.any fun t => t.gang = gang && t.quad = quadOf first))

end Sys2Proof.Machine
end

