-- ==== Sys2Proof/Machine/FenceWait.lean ====
section
/-! DEFINITION. Fences (R110, R349) and wait (R121, R274). -/

namespace Sys2Proof.Machine

/-- The invalidation of an acquire at a scope (R50, R108). -/
def State.acquireAt (s : State) (core scope : Nat) : State := if 2 ≤ scope then s.invalidateL1 core else s

/-- A fence (R110). acq waits for the wave's reads; rel holds later writes until the wave's accesses are performed; ar and sc wait for both. -/
def Ctx.fence (c : Ctx) (order scope : Nat) (s : State) : Body :=
  if c.act = 0 then .ok s
  else match order with
    | 0 => if s.readsBack c.w.id then .ok (s.acquireAt c.w.core scope) else .stay
    | 1 => if s.reportsIn c.w.id && !s.loggedFault c.w.id then .ok (s.addFence c.w c.gr.asid scope) else .stay
    | _ => if s.readsBack c.w.id && s.writesDone c.w.id c.w.core scope then .ok ((s.acceptAll c.w.id c.w.core scope).acquireAt c.w.core scope) else .stay

/-- fence (R349). -/
def execFence (f : FmtFence) (s : State) := issue (.fence f) s fun c t => c.fence f.o.toNat f.s.toNat t

/-- A counter is at or below a field of wait; 15 places no condition (R274). -/
def within (count : BitVec 6) (field : BitVec 4) : Bool := field = 15 || count.toNat ≤ field.toNat

/-- wait (R274): a field of 0 for CP or TL acquires what the copies or drains of the wave wrote (R121). -/
def execWait (f : FmtWait) (s : State) := issue (.wait f) s fun c t =>
  if c.act = 0 then .ok t
  else if within c.w.ld f.l && within c.w.st f.s && within c.w.cp f.c && within c.w.tl f.t then
    let acquires := (f.c = 0 && c.w.copied) || (f.t = 0 && c.w.drained)
    .ok ((if acquires then t.invalidateL1 c.w.core else t).modWave c.w.id fun w =>
      { w with copied := w.copied && f.c ≠ 0, drained := w.drained && f.t ≠ 0 })
  else .stay

end Sys2Proof.Machine
end

