-- ==== Sys2Proof/Machine/LoadStore.lean ====
section
/-! DEFINITION. Global loads and stores (R324 to R326) and level-of-detail loads (R330 to R332). -/

namespace Sys2Proof.Machine

/-- A load of `n` bytes (R324 to R326). -/
def Ctx.load (c : Ctx) (f : FmtM) (n : Nat) (signed : Bool) (s : State) : Body :=
  c.launch
    { kind := .load n signed (f.o = 1) (f.o = 3 || c.cacheHint.getLsbD 0)
      dst := destOf f.d.toNat (if n = 8 then 2 else 1)
      lanes := (laneList c.act).map fun l => newLane l 0 (c.ea f.a.toNat (f.k.toNat * n) l) 0 0
      acquire := f.o = 1, release := false, placement := c.cacheHint } 1 s

/-- The data of a store of `n` bytes in a lane (R324). -/
def Ctx.storeData (c : Ctx) (f : FmtM) (n lane : Nat) : Quad :=
  if n = 8 then c.src2 .vec f.d.toNat lane else (c.vsrc c.vimm f.d.toNat 2 lane).setWidth 64

/-- A store of `n` bytes (R324 to R326). -/
def Ctx.store (c : Ctx) (f : FmtM) (n : Nat) (s : State) : Body :=
  c.launch
    { kind := .store n, dst := none
      lanes := (laneList c.act).map fun l => newLane l 0 (c.ea f.a.toNat (f.k.toNat * n) l) (c.storeData f n l) 0
      acquire := false, release := f.o = 2, placement := if f.o = 3 then 2 else c.cacheHint } 2 s

/-- ld.z8 (R324). -/
def execLdZ8 (f : FmtM) (s : State) := issue (.ldZ8 f) s fun c t => c.load f 1 false t
/-- ld.i8 (R324). -/
def execLdI8 (f : FmtM) (s : State) := issue (.ldI8 f) s fun c t => c.load f 1 true t
/-- ld.z16 (R324). -/
def execLdZ16 (f : FmtM) (s : State) := issue (.ldZ16 f) s fun c t => c.load f 2 false t
/-- ld.i16 (R324). -/
def execLdI16 (f : FmtM) (s : State) := issue (.ldI16 f) s fun c t => c.load f 2 true t
/-- ld.32 (R324). -/
def execLd32 (f : FmtM) (s : State) := issue (.ld32 f) s fun c t => c.load f 4 false t
/-- ld.64 (R324). -/
def execLd64 (f : FmtM) (s : State) := issue (.ld64 f) s fun c t => c.load f 8 false t
/-- st.8 (R324). -/
def execSt8 (f : FmtM) (s : State) := issue (.st8 f) s fun c t => c.store f 1 t
/-- st.16 (R324). -/
def execSt16 (f : FmtM) (s : State) := issue (.st16 f) s fun c t => c.store f 2 t
/-- st.32 (R324). -/
def execSt32 (f : FmtM) (s : State) := issue (.st32 f) s fun c t => c.store f 4 t
/-- st.64 (R324). -/
def execSt64 (f : FmtM) (s : State) := issue (.st64 f) s fun c t => c.store f 8 t

/-! ### ldlod -/

/-- The resource index that a lane's scalar register holds: one for the wave, or, in a Voxunet launch's uniform register, one for each lane (R438). -/
def Ctx.resIndex (c : Ctx) (r lane : Nat) : Nat := (c.ssrc r 0 lane).toNat

/-- The resources that some lanes name, each with its entry, in the order of the lanes that name them first; or the fault of an index or its entry and the lanes that name it (R44). -/
def Ctx.entries (c : Ctx) (r : Nat) (s : State) : Except (Failed × Lanes) (List (Nat × BitVec 512) × State) :=
  (((laneList c.act).map (c.resIndex r)).eraseDups).foldl (init := .ok ([], s)) fun acc idx =>
    match acc with
    | .error e => .error e
    | .ok (l, t) => match t.resource c.gr c.w.core idx c.w.priv with
      | .error f => .error (f, lanesWhere fun k => c.act.getLsbD k && c.resIndex r k = idx)
      | .ok (e, t1) => .ok (l ++ [(idx, e)], t1)

/-- ldlod (R330 to R332). A fault of its read of the resource entry is a precise trap at issue, as a resource-index fault is (R323; R332 logs the faults of the map read and the data read), and in a deterministic launch it waits for its ticket with wake KIND 8, as R165's loads do, though R105 and R332 say that it is never a blocking point (DESIGN CHOICE, log entry 91). -/
def Ctx.ldlod (c : Ctx) (f : FmtL) (s : State) : Body :=
  if c.act = 0 then .ok s
  else match c.entries f.r.toNat s with
    | .error ((e, va, u), lanes) => if e.held then .stay else c.failOn e lanes va u
    | .ok (es, s1) =>
      if c.gr.det && !s1.ticketReady c.w then .block 8 0
      else .ok (c.fly (MemOp.plain (.lod es f.z.toNat f.l.toNat f.p.toNat) (some (f.d.toNat, 2))
        ((laneList c.act).map fun l =>
          { newLane l 0 0 ((c.w.getV l (f.d.toNat + 2)).setWidth 64) ((c.w.getV l (f.d.toNat + 3)).setWidth 64) with
            side := es.findIdx fun e => e.1 = c.resIndex f.r.toNat l })) 1 4 s1)

/-- ldlod (R332). -/
def execLdlod (f : FmtL) (s : State) := issue (.ldlod f) s fun c t => c.ldlod f t

end Sys2Proof.Machine
end

