-- ==== Sys2Proof/Machine/Local.lean ====
section
/-! DEFINITION. Gang-local loads and stores (R327 to R329) and barrier objects (R352 to R354). -/

namespace Sys2Proof.Machine

/-- A gang-local offset is in range (R42). -/
def inRange (gr : Grid) (o : Nat) : Bool := o / 2 ^ 21 = 0 && windowWg o < gr.nwg && o % 2 ^ 19 < gr.localg * 4096

/-- The lanes of a set for which a check of their offset fails, and what a trap on them reports: the lanes and the lowest one's offset. -/
def failing (act : Lanes) (ofs : Nat → Nat) (bad : Nat → Bool) : Option (Lanes × Nat) :=
  match (laneList act).filter fun l => bad (ofs l) with
  | [] => none
  | l :: ls => some (lanesWhere fun k => (l :: ls).contains k, ofs l)

/-- The checks made before any lane of a gang-local access: range (R328), then presence of every line (R59). The wake condition of a wave that parks names the absent line of the lowest such lane: R59 and R201 do not say which of several (DESIGN CHOICE, log entry 85). -/
def Ctx.localChecks (c : Ctx) (ofs : Nat → Nat) (s : State) (k : Gang → Body) : Body :=
  match failing c.act ofs fun o => !inRange c.gr o with
  | some (lanes, o) => c.trapOn 1 6 lanes o 0
  | none => match s.gang? c.ga.id with
    | none => .stay
    | some g => match failing c.act ofs fun o => !g.present o with
      | some (_, o) => .block 5 (o / 64)
      | none => k g

/-- BARCLOBBER on the lanes whose line is one that some check refuses (R329, R354). -/
def Ctx.clobberChecks (c : Ctx) (ofs : Nat → Nat) (bad : Nat → Bool) (k : Body) : Body :=
  match failing c.act ofs bad with
  | some (lanes, o) => c.trapOn 5 0 lanes o 0
  | none => k

/-- An earlier gang-local access of the wave to a window that some offsets name is not over (R115). -/
def State.windowsBusy (s : State) (wave : Nat) (os : List Nat) : Bool :=
  s.flights.any fun b => b.wave = wave && b.kind.isLocal && b.lanes.any fun m => m.status ≠ .done && os.any fun o => windowWg m.va = windowWg o

/-- The offset of a gang-local load or store of `n` bytes in a lane: 32 bits, the bits below the size cleared (R327). -/
def Ctx.localOfs (c : Ctx) (f : FmtM) (n lane : Nat) : Nat :=
  (c.vsrc c.vimm f.a.toNat 0 lane + BitVec.ofNat 32 (f.k.toNat * n)).toNat / n * n

/-- lds of `n` bytes (R327, R328). -/
def Ctx.loadLocal (c : Ctx) (f : FmtM) (n : Nat) (s : State) : Body :=
  c.localChecks (c.localOfs f n) s fun _ =>
    c.launch
      { kind := .localLoad n, dst := destOf f.d.toNat (if n = 8 then 2 else 1)
        lanes := (laneList c.act).map fun l => newLane l 0 (c.localOfs f n l) 0 0
        acquire := f.o = 1, release := false, placement := 0 } 1 s

/-- sts of `n` bytes (R327 to R329). On a barrier line that no wave waits on, check and write are one act, made when what the store follows is over; its tag falls (R62). -/
def Ctx.storeLocal (c : Ctx) (f : FmtM) (n : Nat) (s : State) : Body :=
  let ofs := c.localOfs f n
  c.localChecks ofs s fun g =>
    c.clobberChecks ofs (fun o => g.tags.contains (o / 64) && s.lineAwaited g.id (o / 64)) <|
      let tagged := (laneList c.act).any fun l => g.tags.contains (ofs l / 64)
      let op : MemOp :=
        { kind := .localStore n, dst := none
          lanes := (laneList c.act).map fun l => newLane l 0 (ofs l) (c.storeData f n l) 0
          acquire := false, release := f.o = 2, placement := 0 }
      if !tagged then c.launch op 2 s
      else if s.windowsBusy c.w.id ((laneList c.act).map ofs) || s.fencesOf c.w.id ≠ [] || (f.o = 2 && !s.writesDone c.w.id c.w.core 2) then .stay
      else match c.launch { op with release := false } 2 s with
        | .ok t => .ok ((op.lanes.foldl (fun u l => (u.ackLane s.nextId l.lane 0).getD u) t).finishAccess s.nextId)
        | b => b

/-- lds.32 (R327). -/
def execLds32 (f : FmtM) (s : State) := issue (.lds32 f) s fun c t => c.loadLocal f 4 t
/-- lds.64 (R327). -/
def execLds64 (f : FmtM) (s : State) := issue (.lds64 f) s fun c t => c.loadLocal f 8 t
/-- sts.32 (R327). -/
def execSts32 (f : FmtM) (s : State) := issue (.sts32 f) s fun c t => c.storeLocal f 4 t
/-- sts.64 (R327). -/
def execSts64 (f : FmtM) (s : State) := issue (.sts64 f) s fun c t => c.storeLocal f 8 t

/-! ### Barrier objects (R352 to R354) -/

/-- A record as bar.init leaves it (R353). -/
def freshRecord (expect : Nat) : List Byte := bytesOfNat 16 (expect + expect * 2 ^ 16)

/-- bar.init (R353): each lane's record, the highest lane's value where lanes name one, and its line's tag; in an open side tile free bytes are written (R367). It follows the wave's earlier accesses to the window, and as a store (R106) an unfinished release of the wave (R110). -/
def execBarInit (f : FmtDA) (s : State) := issue (.barInit f) s fun c t =>
  let ofs := c.record f.a
  let count (l : Nat) : Nat := (c.vsrc c.vimm f.d.toNat 2 l).toNat
  let wrong := lanesWhere fun l => c.act.getLsbD l && (count l = 0 || 65535 < count l)
  if c.act = 0 then .ok t
  else if wrong ≠ 0 then c.trapOn 0 0 wrong 0 0
  else c.localChecks ofs t fun g =>
    c.clobberChecks ofs (fun o => t.lineAwaited g.id (o / 64)) <|
      if t.windowsBusy c.w.id ((laneList c.act).map ofs) || t.fencesOf c.w.id ≠ [] then .stay
      else .ok ((laneList c.act).foldl (init := t) fun u l =>
        let (bs, v) := u.unsided g.id (ofs l) (freshRecord (count l))
        (v.putLocal g.id (ofs l) bs).modGang g.id fun x =>
          { x with tags := x.tags.filter (fun k => k ≠ ofs l / 64) ++ [ofs l / 64] })

/-- The arrivals of a wave's lanes put in flight, after a release at quad scope (R353). -/
def Ctx.arrivals (c : Ctx) (ofs : Nat → Nat) (noting : Bool) (s : State) : Body :=
  c.launch { kind := .arrive noting, dst := none, lanes := (laneList c.act).map fun l => newLane l 0 (ofs l) 0 0, acquire := false, release := true, placement := 0 } 2 s

/-- A gang-local store that has issued and is still to be performed names a record's line: a wave begins to wait there only after it, so that no store that has issued meets a waiter (R62, R329). -/
def State.storesPending (s : State) (gang : Nat) (os : List Nat) : Bool :=
  s.flights.any fun b => (match b.kind with | .localStore _ => true | _ => false) && (s.wave? b.wave).any (fun w => w.gang = gang) &&
    b.left.any fun m => os.any fun o => m.va / 64 = o / 64

/-- The checks of an arrival or a wait: range, presence, and a barrier tag on every line (R354). -/
def Ctx.recordChecks (c : Ctx) (ofs : Nat → Nat) (s : State) (k : Gang → Body) : Body :=
  c.localChecks ofs s fun g => c.clobberChecks ofs (fun o => !g.tags.contains (o / 64)) (k g)

/-- bar.arrive (R353). -/
def execBarArrive (f : FmtA1) (s : State) := issue (.barArrive f) s fun c t =>
  c.recordChecks (c.record f.a) t fun _ => c.arrivals (c.record f.a) false t

/-- bar.wait (R353): ends when every lane's phase differs from its token, merges what its gang staged (R167), and acquires at quad scope. -/
def execBarWait (f : FmtDA) (s : State) := issue (.barWait f) s fun c t =>
  if c.act = 0 then .ok t
  else c.recordChecks (c.record f.a) t fun g =>
    if t.windowsBusy c.w.id ((laneList c.act).map (c.record f.a)) || !t.readsBack c.w.id || t.storesPending g.id ((laneList c.act).map (c.record f.a)) then .stay
    else match (laneList c.act).find? fun l => t.recordPhase g (c.record f.a l) = (c.vsrc c.vimm f.d.toNat 2 l).toNat with
      | some l => .block 3 (c.record f.a l / 16)
      | none => .ok ((t.mergeStaging c.ga.id).invalidateL1 c.w.core)

/-- The wave waits at its bar.sync with its arrivals in flight: it keeps its place, with the counter raised and no phase noted yet. -/
def Ctx.waitSync (c : Ctx) (i : Instr) (ofs : Nat → Nat) (s : State) : State :=
  (s.modWave c.w.id fun w => { c.w with st := w.st, wake := wakeOf 3 (ofs (lowestLane c.act) / 16), waiting := some i, phases := some [], releaser := 0 })

/-- bar.sync (R353). -/
def execBarSync (f : FmtA1) (s : State) := issue (.barSync f) s fun c t =>
  if c.act = 0 then .ok t
  else c.recordChecks (c.record f.a) t fun g =>
    if t.storesPending g.id ((laneList c.act).map (c.record f.a)) then .stay
    else match c.arrivals (c.record f.a) true t with
    | .ok u => .ok (c.waitSync (.barSync f) (c.record f.a) u)
    | b => b

end Sys2Proof.Machine
end

