-- ==== Sys2Proof/Machine/Matrix.lean ====
section
/-! DEFINITION. Matrix instructions at issue: format slots (R357, R358), operand layouts (R359, R360), the rendezvous latch (R153, R355, R356), teams (R361), the checks made when the latch completes, and posting (R182). -/

namespace Sys2Proof.Machine

/-! ### Format slots -/

/-- The fields of a format slot (R357). -/
structure Slot where
  kind : Nat
  ps : Nat
  pr : Nat
  mid : Bool
  sgn : Bool
  scl : Nat
  rest : Nat
  sres : Nat
deriving DecidableEq, Repr

/-- The fields of a slot's 32 bits. -/
def Slot.of (x : Nat) : Slot :=
  ⟨bitsOf x 0 2, bitsOf x 2 4, bitsOf x 6 4, x.testBit 10, x.testBit 11, bitsOf x 12 2, bitsOf x 14 2, bitsOf x 16 16⟩

/-- A format slot of the launch record. -/
def Grid.slot (gr : Grid) (k : Nat) : Slot := Slot.of (gr.fmt k)

/-- The slot keeps to its table (R357). -/
def Slot.ok (s : Slot) : Bool := 2 ≤ s.ps && s.ps ≤ 8 && 2 ≤ s.pr && s.pr ≤ s.ps && s.scl ≠ 3 && s.rest = 0
/-- It reads a virtual plane (R358). -/
def Slot.virt (s : Slot) : Bool := s.mid && s.pr < 8
/-- The effective planes of an operand (R358). -/
def Slot.q (s : Slot) : Nat := s.pr + s.virt.toNat
/-- The weight of a plane (R222). -/
def Slot.weight (s : Slot) (p : Nat) : Int := if p = 0 then (if s.sgn then -128 else 128) else 2 ^ (7 - p)
/-- The unit in which an operand's elements are counted (R358). -/
def Slot.unit (s : Slot) : Int := 2 ^ (8 - s.q)

/-- AUXBASE that names no tile, and a cell count's limit (R362, R368). -/
def auxNone : Nat := 0xFFFFFFFF

/-- The address of the scale buffer of a slot with SCL 1 or 2; none for another. Its entry must pass R44 and have KIND 1 (R357). -/
def State.scaleBase (s : State) (gr : Grid) (core : Nat) (priv : Bool) (sl : Slot) : Except Failed (Option Nat × State) :=
  if sl.scl = 0 then .ok (none, s)
  else match s.resource gr core sl.sres priv with
    | .error f => .error f
    | .ok (e, s1) => if e.kind = 1 then .ok (some e.base, s1) else .error (⟨0, 0, false⟩, 0, s1)

/-! ### Layouts -/

/-- The fields of an operand layout (R359). -/
structure Layout where
  base : Nat
  bank : Nat
  lstride : Nat
  pstride : Nat
  kstride : Nat
deriving DecidableEq, Repr

/-- The fields of a layout's three words (R359). -/
def layoutFields (w0 w1 w2 : Word) : Layout :=
  ⟨bitsOf w0.toNat 0 21, bitsOf w0.toNat 21 4, bitsOf w1.toNat 0 16, bitsOf w1.toNat 16 16, bitsOf w2.toNat 0 24⟩

/-- The must-be-zero bits and BANK of a layout's words keep to R359. -/
def layoutFits (w0 w2 : Word) : Bool := bitsOf w0.toNat 25 7 = 0 && bitsOf w2.toNat 24 8 = 0 && bitsOf w0.toNat 21 4 ≤ 4

/-- A layout keeps to the alignments of R359. -/
def Layout.aligned (l : Layout) : Bool := l.base % 8 = 0 && l.lstride % 8 = 0 && l.kstride % 8 = 0

/-- Strides, each with how many multiples of it are taken: each one that is taken passes what the ones before it span. -/
def stridesApart : Nat → List (Nat × Nat) → Bool
  | _, [] => true
  | span, (s, n) :: l => (n ≤ 1 || span < s) && stridesApart (span + s * (n - 1)) l

/-- The chunks of an operand of so many lines, planes and K blocks lie apart for the order of their strides. -/
def Layout.apart (l : Layout) (lines planes depth : Nat) : Bool :=
  let i := (l.lstride, lines)
  let p := (l.pstride * 64, planes)
  let j := (l.kstride, depth)
  [[i, p, j], [i, j, p], [p, i, j], [p, j, i], [j, i, p], [j, p, i]].any (stridesApart 0)

/-- Another chunk of the operand, of whichever line, plane or K block, lies on the chunk of line `i`, plane `p` and block `j` (R359): the bank permutation keeps different addresses different, so that the strides decide. -/
def Layout.shared (l : Layout) (lines planes depth i p j : Nat) : Bool :=
  let at_ : Int := (j * l.kstride + p * (l.pstride * 64) + i * l.lstride : Nat)
  (List.range planes).any fun q => (List.range lines).any fun m =>
    let rest : Int := at_ - (q * (l.pstride * 64) + m * l.lstride : Nat)
    if l.kstride = 0 then rest = 0 && (1 < depth || q ≠ p || m ≠ i)
    else rest % l.kstride = 0 && 0 ≤ rest && rest < l.kstride * depth && !(q = p && m = i && rest = j * l.kstride)

/-- The layout of three words; none where it fails its check (R360). -/
def layoutOf (w0 w1 w2 : Word) : Option Layout :=
  let l := layoutFields w0 w1 w2
  if layoutFits w0 w2 && l.aligned then some l else none

/-- The chunk of plane `p` of line `i` in K block `j`, with the bank permutation (R359). -/
def Layout.at_ (l : Layout) (i p j : Nat) : Nat :=
  let a := l.base + j * l.kstride + p * l.pstride * 64 + i * l.lstride
  a ^^^ (a / 512 % 2 ^ l.bank * 8)

/-- The chunks of planes and lines of one K block, planes outermost. -/
def Layout.chunks (l : Layout) (lines planes j : Nat) : List Nat :=
  (List.range planes).flatMap fun p => (List.range lines).map fun i => l.at_ i p j

/-- The layout at a place in a list of registers. -/
def layoutIn (regs : List Word) (k : Nat) : Option Layout := layoutOf (regs.getD k 0) (regs.getD (k + 1) 0) (regs.getD (k + 2) 0)

/-- The first byte of a gang-local range that is out of range (R42), looked for in each 4 KiB granule that the range touches. -/
def rangeOut (gr : Grid) (o len : Nat) : Option Nat :=
  ((List.range (len / 4096 + 2)).map fun j => max o ((o / 4096 + j) * 4096)).find? fun a => a < o + len && !inRange gr a

/-- GLRANGE at an offset (R26). -/
def glRange : Flt := pageFault 6

/-- An offset that must not be there is a GLRANGE fault. -/
def inside (s : State) (o : Option Nat) : Except Failed Unit := match o with | some a => .error (glRange, a, s) | none => .ok ()

/-- A condition whose failure is ILLOP. -/
def must (s : State) (b : Bool) : Except Failed Unit := if b then .ok () else .error (⟨0, 0, false⟩, 0, s)

/-! ### What a team's posted entries leave declared -/

/-- The tile that a team will hold once its posted entries are performed: its name, N, slots, and the K block of the next pass. -/
structure Decl where
  tile : Nat
  n : Nat
  slotA : Nat
  slotB : Nat
  block : Nat
deriving DecidableEq, Repr

/-- An entry's step on it. -/
def Decl.after (e : MxEntry) (d : Option Decl) : Option Decl :=
  match e.instr with
  | .mxbeg f => some ⟨e.tile, (e.regs.getD 3 0).toNat, f.a.toNat, f.b.toNat, 0⟩
  | .mxend => none
  | .mxopZero _ => d.map fun x => if x.tile = e.tile then { x with block := 1 } else x
  | .mxop _ => d.map fun x => if x.tile = e.tile then { x with block := x.block + 1 } else x
  | _ => d

/-- The tile of a team. -/
def State.tile? (s : State) (gang : Nat) (team : Quad) : Option Tile := s.eng.matrix.tiles.find? fun t => t.gang = gang && t.team = team

/-- The tile that a team will hold once its posted entries are performed. -/
def State.decl (s : State) (gang : Nat) (team : Quad) : Option Decl :=
  let now := (s.tile? gang team).map fun t => (⟨t.id, t.n, t.slotA, t.slotB, t.passes + t.frozen.isSome.toNat⟩ : Decl)
  ((s.eng.matrix.running ++ s.eng.matrix.table).filter fun e => e.gang = gang && e.team = team).foldl (fun d e => Decl.after e d) now

/-! ### The checks at latch completion (R355) -/

/-- The scalar registers that a matrix instruction reads, in field order. -/
def mxRegs : Instr → List Nat
  | .mxbeg f => [f.d.toNat, f.d.toNat + 1, f.d.toNat + 2, f.n.toNat]
  | .mxop f | .mxopZero f => [f.x.toNat, f.x.toNat + 1, f.x.toNat + 2, f.y.toNat, f.y.toNat + 1, f.y.toNat + 2, f.n.toNat]
  | .mxdrnI32 d n | .mxdrnI64 d n | .mxdrnF32 d n => [d.toNat, d.toNat + 1, d.toNat + 2, n.toNat]
  | .mxfold d => [d.toNat, d.toNat + 1]
  | _ => []

/-- What the engine is asked to do, once it is checked: the tile it concerns, a drain's translations, an mxbeg's scale buffers, and the state after the reads that the checks make. -/
structure MxPlan where
  tile : Nat
  pages : List TlbEntry
  scales : List (Option Nat)
  st : State

/-- Slot, width and depth fields of an mxbeg (R362, R363). -/
def begOk (gr : Grid) (f : FmtBeg) (regs : List Word) : Bool :=
  let depth := (regs.getD 0 0).toNat
  let ask := (regs.getD 1 0).toNat
  let aux := (regs.getD 2 0).toNat
  let n := (regs.getD 3 0).toNat
  let scaled := (gr.slot f.a.toNat).scl = 2 || (gr.slot f.b.toNat).scl = 2
  depth ≠ 0 && depth < 2 ^ 24 && ask < 2 ^ 7 && ask % 64 ≤ 32 && (aux = auxNone || aux % 8 = 0) && n % 16 = 0 && 16 ≤ n && n ≤ 512 &&
    (gr.slot f.a.toNat).ok && (gr.slot f.b.toNat).ok && !(scaled && (ask % 64 ≠ 0 || aux = auxNone))

/-- Bytes of the auxiliary tile: an INT64 spill tile or an FP32 side tile (R363). -/
def auxBytes (scaled : Bool) (n : Nat) : Nat := 128 * n * (if scaled then 4 else 8)

/-- The checks of mxbeg (R363). -/
def State.checkBeg (s : State) (gr : Grid) (w0 : Wave) (gang : Nat) (team : Quad) (f : FmtBeg) (regs : List Word) : Except Failed MxPlan := do
  must s (s.decl gang team).isNone
  must s (begOk gr f regs)
  let (a, s1) ← s.scaleBase gr w0.core w0.priv (gr.slot f.a.toNat)
  let (b, s2) ← s1.scaleBase gr w0.core w0.priv (gr.slot f.b.toNat)
  let aux := (regs.getD 2 0).toNat
  let scaled := (gr.slot f.a.toNat).scl = 2 || (gr.slot f.b.toNat).scl = 2
  inside s2 (if aux = auxNone then none else rangeOut gr aux (auxBytes scaled (regs.getD 3 0).toNat))
  pure ⟨s.eng.matrix.nextOrder, [], [a, b], s2⟩

/-- The checks of mxop (R360, R364). -/
def State.checkOp (s : State) (gr : Grid) (gang : Nat) (team : Quad) (zero : Bool) (f : FmtX) (regs : List Word) : Except Failed MxPlan :=
  match s.decl gang team, layoutIn regs 0, layoutIn regs 3 with
  | some d, some a, some b => do
    let n := (regs.getD 6 0).toNat
    must s (f.a.toNat = d.slotA && f.b.toNat = d.slotB && n % 16 = 0 && 16 ≤ n && n ≤ d.n)
    let j := if zero then 0 else d.block
    inside s ((a.chunks 128 (gr.slot d.slotA).pr j ++ b.chunks n (gr.slot d.slotB).pr j).find? fun o => !inRange gr o)
    pure ⟨d.tile, [], [], s⟩
  | _, _, _ => .error (⟨0, 0, false⟩, 0, s)

/-- The rows of a drain or a fold: the address of each row's first byte. -/
def rowStarts (dest stride : Nat) : List Nat := (List.range 128).map fun m => dest + m * stride

/-- The pages that some rows touch, each with the lowest address touched in it. -/
def pagesOf (starts : List Nat) (len : Nat) : List Nat :=
  (starts.flatMap fun a => (List.range (len / 4096 + 2)).map (fun j => max a ((a / 4096 + j) * 4096)) |>.filter fun x => x < a + len).foldl
    (fun l x => if l.any fun y => y / 4096 = x / 4096 then l else l ++ [x]) []

/-- The least faulting address of some, with its fault. -/
def leastFault (fs : List FltAt) : Option FltAt :=
  fs.foldl (init := none) fun m f => match m with
    | none => some f
    | some g => if f.2 < g.2 then some f else some g

/-- The lines of some rows that another gang owns, which refuse a drain (R166). -/
def State.foreignLines (s : State) (w0 : Wave) (starts : List Nat) (len : Nat) : List FltAt :=
  ((starts.flatMap fun a => (pieces a len).map fun p => p.1 % 2 ^ 64).filter (s.foreign w0)).map fun va => (⟨2, 0, false⟩, va)

/-- Addresses translated for a drain's writes (R376): the translations and the faults met. -/
def State.drainPages (s : State) (w0 : Wave) (asid : Nat) (vas : List Nat) : List TlbEntry × List FltAt × State :=
  vas.foldl (init := ([], [], s)) fun acc va =>
    let (es, fs, t) := acc
    match t.translate (quadOf w0.core) asid (va % 2 ^ 64) needWrite w0.priv 0 with
      | (.error f, t1) => (es, fs ++ [(f, va % 2 ^ 64)], t1)
      | (.ok r, t1) => (es ++ [⟨quadOf w0.core, asid, va / 4096 * 4096, 12, BitVec.ofNat 64 r.leaf, entryPpn r.leaf + va % 2 ^ r.log2 / 4096 * 4096, r.side⟩], fs, t1)

/-- The element size of a drain. -/
def drainSize : Instr → Nat
  | .mxdrnI64 _ _ => 8
  | _ => 4

/-- The destination of a drain: its address, the row stride, and whether it is gang-local (R376). -/
def drainDest (regs : List Word) : Nat × Nat × Bool :=
  let l := (regs.getD 2 0).toNat.testBit 16
  (if l then (regs.getD 0 0).toNat else (pairOf (regs.getD 0 0) (regs.getD 1 0)).toNat, bitsOf (regs.getD 2 0).toNat 0 16, l)

/-- The checks of mxdrn (R376). -/
def State.checkDrain (s : State) (gr : Grid) (w0 : Wave) (gang : Nat) (team : Quad) (i : Instr) (float : Bool) (regs : List Word) : Except Failed MxPlan := do
  let size := drainSize i
  let n := (regs.getD 3 0).toNat
  let (dest, stride, loc) := drainDest regs
  let d ← match s.decl gang team with | some d => .ok d | none => .error (⟨0, 0, false⟩, 0, s)
  let scaled := (gr.slot d.slotA).scl = 2 || (gr.slot d.slotB).scl = 2
  must s (n ≤ d.n && bitsOf (regs.getD 2 0).toNat 17 15 = 0 && stride % size = 0 && n * size ≤ stride && !(loc && regs.getD 1 0 ≠ 0) && (float || !scaled))
  let starts := if n = 0 then [] else rowStarts dest stride
  if loc then do
    inside s (starts.findSome? fun a => rangeOut gr a (n * size))
    pure ⟨d.tile, [], [], s⟩
  else if dest % size ≠ 0 then .error (⟨4, 0, false⟩, dest, s)
  else
    let (es, fs, s1) := s.drainPages w0 gr.asid (pagesOf starts (n * size))
    match leastFault (s.foreignLines w0 starts (n * size) ++ fs) with
    | some f => .error (f.1, f.2, s1)
    | none => pure ⟨d.tile, es, [], s1⟩

/-- The checks of mxfold (R373). -/
def State.checkFold (s : State) (gr : Grid) (gang : Nat) (team : Quad) (regs : List Word) : Except Failed MxPlan := do
  let base := (regs.getD 0 0).toNat
  let stride := (regs.getD 1 0).toNat
  let d ← match s.decl gang team with | some d => .ok d | none => .error (⟨0, 0, false⟩, 0, s)
  must s (base % 8 = 0 && stride % 8 = 0 && 8 * d.n ≤ stride)
  inside s ((rowStarts base stride).findSome? fun a => rangeOut gr a (8 * d.n))
  pure ⟨d.tile, [], [], s⟩

/-- The checks that a matrix instruction can fail when its latch completes. -/
def State.latchCheck (s : State) (gr : Grid) (w0 : Wave) (gang : Nat) (team : Quad) (i : Instr) (regs : List Word) : Except Failed MxPlan :=
  match i with
  | .mxbeg f => s.checkBeg gr w0 gang team f regs
  | .mxop f => s.checkOp gr gang team false f regs
  | .mxopZero f => s.checkOp gr gang team true f regs
  | .mxdrnI32 _ _ | .mxdrnI64 _ _ => s.checkDrain gr w0 gang team i false regs
  | .mxdrnF32 _ _ => s.checkDrain gr w0 gang team i true regs
  | .mxfold _ => s.checkFold gr gang team regs
  | .mxres => match s.tile? gang team with
    | some t => if t.frozen.isSome then .ok ⟨t.id, [], [], s⟩ else .error (⟨0, 0, false⟩, 0, s)
    | none => .error (⟨0, 0, false⟩, 0, s)
  | _ => match s.decl gang team with
    | some d => .ok ⟨d.tile, [], [], s⟩
    | none => .error (⟨0, 0, false⟩, 0, s)

/-! ### Posting (R182) and the latch (R153) -/

/-- The engine's table has a free entry. -/
def State.tableRoom (s : State) (quad : Nat) : Bool := (s.eng.matrix.table.filter fun e => e.quad = quad).length < 16

/-- The word's writes are acquired by wait tl=0 (R121, R373, R378). -/
def Instr.drains : Instr → Bool
  | .mxdrnI32 _ _ | .mxdrnI64 _ _ | .mxdrnF32 _ _ | .mxfold _ => true
  | _ => false

/-- The members are released from the latch: each one's logical time becomes one more than the largest among them, and each goes past the instruction (R164). -/
def State.unlatch (s : State) (ms : List Wave) : State :=
  let t := latest ms
  let now := s.cycle.toNat
  s.modWaves (ms.map (·.id)) fun w => w.leave t now

/-- A checked instruction posted in the engine's table, and its members released. -/
def State.postEntry (s : State) (gr : Grid) (gang : Nat) (w0 : Wave) (ms : List Wave) (i : Instr) (p : MxPlan) : State :=
  let e : MxEntry :=
    { quad := quadOf w0.core, gang, team := teamKey w0.team, tile := p.tile, cls := gr.cls, order := s.eng.matrix.nextOrder, instr := i
      word := (encode i).getD 0, pcs := ms.foldl (fun m x => m.set x.gangIndex (x.nextPc.getD 0)) [], privileged := w0.priv
      regs := (mxRegs i).map w0.getS, after := ms.flatMap fun x => s.fencesOf x.id, pages := p.pages, scales := p.scales }
  ((s.modMatrix fun m => { m with table := m.table ++ [e], nextOrder := m.nextOrder + 1 }).unlatch ms).modWaves (ms.map (·.id)) fun w =>
    { w with drained := w.drained || Instr.drains i }

/-- Every wave of a list is held in the latch on an instruction. -/
def allHeld (ms : List Wave) (i : Instr) : Bool :=
  ms.all fun x => x.alive && x.inLatch && x.waiting = some i && x.engineTraps.all fun t => !t.precise

/-- The members of a TEAM value written with it, each with its own position (R361). -/
def State.formTeam (s : State) (ms : List Wave) (v : Quad) : State :=
  (s.modWaves (ms.map (·.id)) fun w => { w with team := teamKey v ||| BitVec.ofNat 64 (8 * (teamList v).idxOf w.gangIndex) }).unlatch ms

/-- The latch that a wave is held in completes if every listed member is there (R153, R361): a team is formed; another instruction is checked on the member at position 0, once an entry that the check reads can be read (R45), and is posted when the table has room. -/
def State.tryLatch (s : State) (id : Nat) : State :=
  match s.wave? id with
  | none => s
  | some w => match s.home? w, w.waiting with
    | some (ga, gr), some i =>
      match w.teamAsked with
      | some v =>
        let ms := s.members ga.id v
        if ms.length = (teamList v).length && ms.all (fun x => x.alive && x.teamAsked = some v && x.engineTraps.all fun t => !t.precise) then s.formTeam ms v else s
      | none =>
        let ms := s.members ga.id w.team
        if ms.length = (teamList w.team).length && allHeld ms i then
          match ms with
          | [] => s
          | w0 :: _ => match s.latchCheck gr w0 ga.id (teamKey w0.team) i ((mxRegs i).map w0.getS) with
            | .error (f, a, u) => if f.held then s else u.modWaves (ms.map (·.id)) fun x => x.latchTrap f.code f.cause a f.lod
            | .ok p => if s.tableRoom (quadOf w0.core) then p.st.postEntry gr ga.id w0 ms i p else p.st
        else s
    | _, _ => s

/-! ### At issue -/

/-- The other waves of a gang that are held in the latch. -/
def State.heldOthers (s : State) (w : Wave) : List Wave := (s.wavesOf w.gang).filter fun x => x.id ≠ w.id && x.alive && x.inLatch

/-- The TEAM values that other waves are held on and that list a wave. -/
def State.teamsNaming (s : State) (w : Wave) : List Quad :=
  ((s.heldOthers w).filterMap Wave.teamAsked).filter fun v => (teamList v).contains w.gangIndex

/-- The wave as it stood before the issue, held in the latch on an instruction. -/
def Ctx.hold (c : Ctx) (i : Instr) (s : State) : State := (s.modWave c.w.id fun _ => c.w).block c.w.id 7 0 i

/-- The wave enters the latch, which may complete it. -/
def Ctx.enterLatch (c : Ctx) (i : Instr) (s : State) : Body := .ok ((c.hold i s).tryLatch c.w.id)

/-- Waves held in the latch and the issuing wave take ILLOP, and nothing is performed (R356, R361). -/
def Ctx.conflict (c : Ctx) (i : Instr) (victims : List Wave) (s : State) : Body :=
  .ok ((c.hold i s).modWaves (c.w.id :: victims.map (·.id)) fun x => x.latchTrap 0 0 0 false)

/-- Waves held on one of some TEAM values. -/
def State.heldOn (s : State) (w : Wave) (vs : List Quad) : List Wave :=
  (s.heldOthers w).filter fun x => match x.teamAsked with | some v => vs.contains v | none => false

/-- Members of the wave's team that are held on a matrix word. -/
def State.heldWith (s : State) (w : Wave) : List Wave :=
  if teamList w.team = [] then [] else (s.heldOthers w).filter fun x => x.teamAsked.isNone && teamKey x.team = teamKey w.team

/-- A listed member has ended, or has left for another list (R153, R356). -/
def State.teamBroken (s : State) (gang : Nat) (team : Quad) : Bool :=
  let ms := s.members gang team
  ms.length ≠ (teamList team).length || ms.any fun x => !x.alive || teamKey x.team ≠ teamKey team

/-- A matrix instruction other than team at issue (R153, R355, R356, R361). -/
def Ctx.matrix (c : Ctx) (i : Instr) (s : State) : Body :=
  let asked := s.teamsNaming c.w
  let mine := s.heldWith c.w
  if s.committing c.w.id then .stay
  else if asked ≠ [] || mine.any (fun x => x.waiting ≠ some i) then c.conflict i (s.heldOn c.w asked ++ mine) s
  else if teamList c.w.team = [] || s.teamBroken c.ga.id c.w.team then c.illop
  else c.enterLatch i s

/-- The wave's team holds an open tile, or has declared one (R361). -/
def State.teamOpen (s : State) (w : Wave) : Bool :=
  teamList w.team ≠ [] && ((s.tile? w.gang (teamKey w.team)).isSome || (s.decl w.gang (teamKey w.team)).isSome)

/-- A TEAM value breaks a rule of R361 for the wave that issues it. -/
def State.teamWrong (s : State) (w : Wave) (v : Quad) : Bool :=
  let l := teamList v
  bitsOf v.toNat 3 5 ≠ 0 || v.toNat / 2 ^ (7 * l.length + 8) ≠ 0 || l.eraseDups.length ≠ l.length ||
    (s.members w.gang v).length ≠ l.length || (s.members w.gang v).any (fun x => !x.alive) || !l.contains w.gangIndex ||
    (teamKey w.team ≠ v && s.teamOpen w)

/-- The wave leaves its team at once (R361); members held in the latch for it take ILLOP (R153). -/
def Ctx.leaveTeam (c : Ctx) (s : State) : State :=
  (s.modWaves ((s.heldWith c.w).map (·.id)) fun x => x.latchTrap 0 0 0 false).modWave c.w.id fun w => { w with team := 0 }

/-- team (R361). -/
def Ctx.team (c : Ctx) (i : Instr) (v : Quad) (s : State) : Body :=
  let asked := (s.teamsNaming c.w).filter fun x => x ≠ v
  if s.committing c.w.id then .stay
  else if asked ≠ [] then c.conflict i (s.heldOn c.w (v :: asked) ++ s.heldWith c.w) s
  else if teamList v = [] then (if v ≠ 0 || s.teamOpen c.w then c.illop else .ok (c.leaveTeam s))
  else if s.heldWith c.w ≠ [] then c.conflict i (s.heldWith c.w ++ s.heldOn c.w [v]) s
  else if s.teamWrong c.w v then c.illop
  else c.enterLatch i s

/-- team (R361). -/
def execTeam (n : BitVec 5) (s : State) := issue (.team n) s fun c t => c.team (.team n) (pairOf (c.w.getS n.toNat) (c.w.getS (n.toNat + 1))) t
/-- mxbeg (R362, R363). -/
def execMxbeg (f : FmtBeg) (s : State) := issue (.mxbeg f) s fun c t => c.matrix (.mxbeg f) t
/-- mxop (R364). -/
def execMxop (f : FmtX) (s : State) := issue (.mxop f) s fun c t => c.matrix (.mxop f) t
/-- mxop.zero (R364). -/
def execMxopZero (f : FmtX) (s : State) := issue (.mxopZero f) s fun c t => c.matrix (.mxopZero f) t
/-- mxfold (R373). -/
def execMxfold (d : BitVec 5) (s : State) := issue (.mxfold d) s fun c t => c.matrix (.mxfold d) t
/-- mxres (R374). -/
def execMxres (s : State) := issue .mxres s fun c t => c.matrix .mxres t
/-- mxend (R375). -/
def execMxend (s : State) := issue .mxend s fun c t => c.matrix .mxend t
/-- mxdrn.i32 (R376). -/
def execMxdrnI32 (d n : BitVec 5) (s : State) := issue (.mxdrnI32 d n) s fun c t => c.matrix (.mxdrnI32 d n) t
/-- mxdrn.i64 (R376). -/
def execMxdrnI64 (d n : BitVec 5) (s : State) := issue (.mxdrnI64 d n) s fun c t => c.matrix (.mxdrnI64 d n) t
/-- mxdrn.f32 (R376). -/
def execMxdrnF32 (d n : BitVec 5) (s : State) := issue (.mxdrnF32 d n) s fun c t => c.matrix (.mxdrnF32 d n) t

/-- RESERVATION_POST (R182): an entry has come free for an instruction whose latch a wave waits in. -/
def execReservationPost (wave : Nat) (s : State) : Host.Outcome State Fault Refusal :=
  match s.wave? wave with
  | none => .fault (.notEnabled "RESERVATION_POST")
  | some w =>
    let t := s.tryLatch wave
    if w.alive && w.inLatch && w.teamAsked.isNone && s.tableRoom (quadOf w.core) && (w.waiting.any fun i => allHeld (s.members w.gang w.team) i) && t ≠ s
    then .next t
    else .fault (.notEnabled "RESERVATION_POST")

end Sys2Proof.Machine
end

