-- ==== Sys2Proof/Machine/Tx.lean ====
section
/-! DEFINITION. Transactions (R117, R118, R344 to R348). -/

namespace Sys2Proof.Machine

/-- The wave's open transactions in the lanes of a set are over: their words go. -/
def Wave.dropTx (w : Wave) (lanes : Lanes) : Wave :=
  { w with txIn := w.txIn &&& ~~~lanes, txSet := w.txSet.filter fun x => !lanes.getLsbD x.lane }

/-- A transactional read of lanes of a set has not returned. -/
def State.txReading (s : State) (wave : Nat) (lanes : Lanes) : Bool :=
  s.flights.any fun b => b.wave = wave && (match b.kind with | .txRead => true | _ => false) &&
    b.lanes.any fun m => lanes.getLsbD m.lane && m.status = .ready && m.data = 1

/-- The transaction instructions wait for a commit under way. -/
def Ctx.txWaits (c : Ctx) (s : State) : Bool := s.committing c.w.id

/-- txb (R345). -/
def execTxb (f : FmtG0) (s : State) := issue (.txb f) s fun c t =>
  if c.txWaits t || t.txReading c.w.id c.act then .stay
  else .ok (t.modWave c.w.id fun w => let w1 := w.dropTx c.act; { w1 with txIn := w1.txIn ||| c.act, txAbort := w1.txAbort &&& ~~~c.act })

/-- txa (R345). -/
def execTxa (f : FmtG0) (s : State) := issue (.txa f) s fun c t =>
  if c.txWaits t || t.txReading c.w.id c.act then .stay else .ok (t.modWave c.w.id fun w => w.dropTx c.act)

/-- What a transactional access of one lane comes to (R346). -/
inductive TxLane where
  /-- Nothing is accessed; the value read. -/
  | done (x : Quad)
  /-- The word is in the write set: its value is replaced. -/
  | replace (pa va : Nat)
  /-- An access is made; recorded or not. -/
  | access (record : Bool)
  /-- A new word of the write set. -/
  | add (t : Trans)
  /-- TXLIMIT. -/
  | limit
  /-- A read of the word has been issued and has not returned. -/
  | wait
deriving DecidableEq, Repr

/-- The words of a lane's set, its write set or its read set. -/
def Wave.txWords (w : Wave) (lane : Nat) (write : Bool) : List TxWord := w.txSet.filter fun x => x.lane = lane && x.write = write

/-- The reads of a lane that have not returned: their physical addresses. -/
def State.txPending (s : State) (wave lane : Nat) : List (Nat × Nat) :=
  s.flights.flatMap fun b => if b.wave = wave && (match b.kind with | .txRead => true | _ => false) then
    (b.lanes.filter fun m => m.lane = lane && m.status = .ready && m.data = 1).map fun m => (m.va, m.pa) else []

/-- The word of a set that an address names, by its virtual address or by the physical one where it is known. -/
def findWord (ws : List TxWord) (va : Nat) (pa : Option Nat) : Option TxWord := ws.find? fun x => x.va = va || some x.pa = pa

/-- The transaction cannot hold the word (R346): outside the local window, or on a HOME = 10 page. -/
def State.txForbidden (s : State) (t : Trans) : Bool := windowOf (s.localPa t.pa) ≠ 0 || leafHome t.leaf = 2

/-- A txld of one lane (R346). -/
def Ctx.txldLane (c : Ctx) (s : State) (lane va : Nat) : TxLane :=
  if !c.w.txIn.getLsbD lane then .access false
  else if c.w.txAbort.getLsbD lane then .done 0
  else if va % 8 ≠ 0 || va / 2 ^ 60 ≠ 0 then .access true
  else
    let tr := (s.translate (quadOf c.w.core) c.gr.asid va needRead c.w.priv 0).1
    let pa := match tr with | .ok t => some (s.localPa t.pa) | .error _ => none
    match findWord (c.w.txWords lane true) va pa, findWord (c.w.txWords lane false) va pa with
    | some x, _ => .done x.value
    | none, some x => .done x.value
    | none, none =>
      if (s.txPending c.w.id lane).any (fun p => p.1 = va || some p.2 = pa) then .wait
      else if 8 ≤ (c.w.txWords lane false).length + (s.txPending c.w.id lane).length then .limit
      else match tr with
        | .error _ => .access true
        | .ok t => if s.txForbidden t && !s.foreign c.w va then .limit else .access true

/-- A txst of one lane (R346); a word on another gang's line faults (R166). -/
def Ctx.txstLane (c : Ctx) (s : State) (lane va : Nat) : TxLane :=
  if !c.w.txIn.getLsbD lane || c.w.txAbort.getLsbD lane then .done 0
  else if va % 8 ≠ 0 || va / 2 ^ 60 ≠ 0 then .access true
  else
    let tr := (s.translate (quadOf c.w.core) c.gr.asid va needBoth c.w.priv 0).1
    let pa := match tr with | .ok t => some (s.localPa t.pa) | .error _ => none
    match findWord (c.w.txWords lane true) va pa with
    | some x => .replace x.pa x.va
    | none =>
      if 4 ≤ (c.w.txWords lane true).length then .limit
      else match tr with
        | .error _ => .access true
        | .ok t => if s.foreign c.w va then .access true else if s.txForbidden t then .limit else .add t

/-- TXLIMIT on the lanes that meet it, or a wait for a read, or the rest (R346). -/
def Ctx.txChecks (c : Ctx) (what : Nat → TxLane) (ea : Nat → Nat) (k : Body) : Body :=
  match (laneList c.act).filter fun l => what l = .limit with
  | l :: ls => c.trapOn 9 0 (lanesWhere fun m => (l :: ls).contains m) (ea l) 0
  | [] => if (laneList c.act).any fun l => what l = .wait then .stay else k

/-- The access just put in flight has reported its translations: the wave's issue was held until then (R346). -/
def State.reportFlight (s : State) (id : Nat) : State :=
  match s.flight? id with
  | some a => s.report a (BitVec.allOnes 32) 0
  | none => s

/-- txld.i64 (R345, R346). -/
def execTxld (f : FmtDA) (s : State) := issue (.txld f) s fun c t =>
  let ea (l : Nat) : Nat := c.ea f.a.toNat 0 l
  let what (l : Nat) : TxLane := c.txldLane t l (ea l)
  if c.txWaits t then .stay
  else c.txChecks what ea <|
    let found := (laneList c.act).filterMap fun l => match what l with | .done x => some (l, x) | _ => none
    let op := MemOp.plain .txRead (destOf f.d.toNat 2)
      ((laneList c.act).map fun l => match what l with | .access r => newLane l 0 (ea l) (if r then 1 else 0) 0 | _ => (newLane l 0 (ea l) 0 0).over)
    match c.launch op 1 t with
    | .ok u =>
      let u1 := found.foldl (init := u) fun v p => if f.d.toNat ≤ 110 then v.modWave c.w.id fun w =>
        (w.setV p.1 f.d.toNat (lo32 p.2)).setV p.1 (f.d.toNat + 1) (hi32 p.2) else v
      .ok (u1.reportFlight t.nextId)
    | b => b

/-- The write set with a word added or its value replaced. -/
def Wave.txPut (w : Wave) (lane va : Nat) (what : TxLane) (x : Quad) (pa : Nat) : Wave :=
  match what with
  | .replace p v => { w with txSet := w.txSet.map fun y => if y.lane = lane && y.write && y.pa = p && y.va = v then { y with value := x } else y }
  | .add t => { w with txSet := w.txSet ++ [⟨lane, pa, va, t.leaf, t.side, x, true⟩] }
  | _ => w

/-- txst.i64 (R345, R346): only a lane whose translation faults has an access in flight. As it issues its lines leave the L1 (R47). -/
def execTxst (f : FmtDA) (s : State) := issue (.txst f) s fun c t =>
  let ea (l : Nat) : Nat := c.ea f.a.toNat 0 l
  let what (l : Nat) : TxLane := c.txstLane t l (ea l)
  if c.txWaits t then .stay
  else c.txChecks what ea <|
    let new (l : Nat) : AccLane := newLane l 0 (ea l) (c.src2 .vec f.d.toNat l) 0
    let op := MemOp.plain .txWrite none ((laneList c.act).map fun l => if what l = .done 0 then (new l).over else new l)
    let bad := op.lanes.map fun l => match what l.lane with | .access _ => l | _ => l.over
    match c.launch op 0 t with
    | .ok _ =>
      let t0 := t.removeLines c.w.core c.gr.asid (((laneList c.act).filter fun l => what l ≠ .done 0).map ea)
      let u := (laneList c.act).foldl (init := t0) fun v l => match what l with
        | .add tr => ((v.translate (quadOf c.w.core) c.gr.asid (ea l) needBoth c.w.priv 0).2).modWave c.w.id fun w =>
            w.txPut l (ea l) (what l) (c.src2 .vec f.d.toNat l) (v.localPa tr.pa)
        | _ => v.modWave c.w.id fun w => w.txPut l (ea l) (what l) (c.src2 .vec f.d.toNat l) 0
      if bad.all fun l => l.status = .done then .ok u else .ok ((c.fly { op with lanes := bad } 0 4 u).reportFlight u.nextId)
    | b => b

/-! ### Commit -/

/-- Two lanes conflict: one writes a word that the other reads or writes (R118). -/
def Wave.txConflict (w : Wave) (a b : Nat) : Bool :=
  let touches (x y : Nat) : Bool := (w.txWords x true).any fun p => w.txSet.any fun q => q.lane = y && q.pa = p.pa
  touches a b || touches b a

/-- The lanes in the order in which commits are tried: lane order, or the order of logical thread indices in deterministic mode (R347). -/
def Ctx.commitOrder (c : Ctx) (lanes : Lanes) : List Nat :=
  let ls := laneList lanes
  if c.gr.det then ls.foldl (fun acc l => acc.filter (fun m => logicalThread c.gr c.ga c.w m ≤ logicalThread c.gr c.ga c.w l) ++ [l] ++
    acc.filter fun m => logicalThread c.gr c.ga c.w l < logicalThread c.gr c.ga c.w m) [] else ls

/-- The lanes that no lane kept before them conflicts with (R347). -/
def Wave.txKeep (w : Wave) : List Nat → List Nat → List Nat
  | kept, [] => kept
  | kept, l :: ls => if kept.any (w.txConflict l) then w.txKeep kept ls else w.txKeep (kept ++ [l]) ls

/-- The slice that a lane's commit locks first (R117, R118). -/
def Wave.firstSlice (w : Wave) (lane : Nat) : Option Nat :=
  (w.txSet.filter fun x => x.lane = lane).foldl (fun m x => match m with | none => some (homeSlice x.pa) | some k => some (min k (homeSlice x.pa))) none

/-- A lane that has failed 16 times in a row asks for the token of its first slice (R118). -/
def State.askToken (s : State) (w : Wave) (lane : Nat) : State :=
  if (w.txFails.get lane).toNat < 16 then s
  else match w.firstSlice lane with
    | some k => s.modCaches fun c => { c with tokens := c.tokens ++ [(k, w.id, lane)] }
    | none => s

/-- A lane that waits for a token which another holds. -/
def State.tokenHeld (s : State) (wave lane : Nat) : Bool :=
  match s.caches.tokens.find? fun t => t.2.1 = wave && t.2.2 = lane with
  | none => false
  | some t => (s.caches.tokens.find? fun x => x.1 = t.1) ≠ some t

/-- The lane failed once more, or committed. -/
def Wave.noteTx (w : Wave) (lane : Nat) (ok : Bool) : Wave :=
  { w with txFails := w.txFails.set lane (if ok then 0 else BitVec.ofNat 32 (min ((w.txFails.get lane).toNat + 1) 16)) }

/-- A commit that has no lane left writes its predicate (R347). -/
def Wave.endCommit (w : Wave) : Wave :=
  if w.txTodo ≠ 0 then w
  else { w.setP w.txDone ((w.txPred.map BitVec.toNat).getD 0) w.txCommitted with txDone := 0, txCommitted := 0, txPred := none }

/-- A lane's commit must wait: for its token, for a release fence that the wave issued before it (R110), for an earlier access of the lane to one of its words, for a translated write of its core to one, or for a write that its die's ordering point has accepted (R107, R108, R118). -/
def State.commitWaits (s : State) (w : Wave) (lane : Nat) : Bool :=
  s.tokenHeld w.id lane || (s.fencesOf w.id).any (fun f => f < w.txId) || (w.txSet.filter fun x => x.lane = lane).any fun x =>
    s.acceptedHeld w.core x.pa 0 || s.flights.any fun b => b.kind.isGlobal && b.lanes.any fun m =>
      (b.wave = w.id && m.lane = lane && b.id < w.txId && m.status ≠ .done && (overlap x.va 8 m.va b.kind.size || overlap x.pa 8 m.pa b.kind.size)) ||
      (b.core = w.core && b.kind.writes && m.status = .ready && overlap x.pa 8 m.pa b.kind.size)

/-- Every word of a lane's read set holds the value it read (R117). -/
def State.validates (s : State) (asid : Nat) : List TxWord → Bool × State
  | [] => (true, s)
  | x :: xs =>
    let (bs, s1) := s.readHome asid x.pa x.leaf 8
    if natOfBytes bs = x.value.toNat then s1.validates asid xs else (false, s1)

/-- The order log's turn at every line that a commit names (R205). -/
def State.turnsFor (s : State) (w : Wave) (asid : Nat) (k : State → Option State) : List TxWord → Option State
  | [] => k s
  | x :: xs => match s.home? w with
    | none => k s
    | some (ga, gr) => match s.orderTurn asid (x.pa / 64) (logicalWave gr ga w) w.time.toNat gr.det with
      | .held => none
      | .full t => some t
      | .go t => t.turnsFor w asid k xs

/-- A lane's commit: validated and written at once, or nothing (R117). -/
def State.commitLane (s : State) (wave lane : Nat) : Option State :=
  match s.wave? wave with
  | none => none
  | some w =>
    if !w.txTodo.getLsbD lane || s.commitWaits w lane then none
    else
      let asid := s.asidOf w
      let words := w.txSet.filter fun x => x.lane = lane
      s.turnsFor w asid (k := fun s0 =>
        let (ok, s1) := s0.validates asid (words.filter fun x => !x.write)
        let writes := words.filter fun x => x.write
        let s2 := if ok then
            (writes.foldl (fun t x => (t.keepBefore w.gang x.va x.pa 8).writeHome asid x.va x.pa x.leaf x.side (bytesOfNat 8 x.value.toNat)) s1).removeLines w.core asid (writes.map TxWord.va)
          else s1
        let s3 := s2.modCaches fun c => { c with tokens := c.tokens.filter fun t => !(t.2.1 = wave && t.2.2 = lane) }
        some (s3.modWave wave fun y =>
          ({ y.noteTx lane ok with
            txTodo := y.txTodo &&& ~~~laneBit lane
            txCommitted := if ok then y.txCommitted ||| laneBit lane else y.txCommitted
            txSet := y.txSet.filter fun x => x.lane ≠ lane }).endCommit)) words

/-- An access of the wave to the line of a committing lane's word has not reported its translation or is logged, or an earlier one of the lane to the word's bytes waits behind a logged one (R196). A handler passes what it is to replay. -/
def State.txUnreported (s : State) (w : Wave) (lanes : Lanes) : Bool :=
  w.txSet.any fun x => lanes.getLsbD x.lane && s.flights.any fun b => b.wave = w.id && b.kind.isGlobal && !(w.priv && b.taken) && b.lanes.any fun m =>
    ((m.status = .fresh || m.bad) && m.va / 64 = x.va / 64) || (m.lane = x.lane && m.status = .parked && !w.priv && overlap x.va 8 m.va b.kind.size)

/-- txc (R347): lanes outside a transaction, aborted, or in conflict fail; the others commit one after another, wholly within the turn in deterministic mode (R165). -/
def execTxc (f : FmtTxc) (s : State) := issue (.txc f) s fun c t =>
  if c.act = 0 then .ok t
  else if c.txWaits t || t.txReading c.w.id c.act || t.txUnreported c.w c.act then .stay
  else
    let words := c.w.txSet.filter fun x => c.act.getLsbD x.lane
    let turn := if words = [] then true else if words.any (fun x => c.gr.ownerOf x.va ≠ some c.ga.index) then t.ticketReady c.w else t.gangTicketReady c.w
    if c.gr.det && !turn then .block 8 0
    else if c.gr.det && t.fencesOf c.w.id ≠ [] then .stay
    else
      let keep := c.w.txKeep [] (c.commitOrder (c.act &&& c.w.txIn &&& ~~~c.w.txAbort))
      let todo := lanesWhere fun l => keep.contains l
      let failed := c.act &&& c.w.txIn &&& ~~~todo
      let begun := t.modWave c.w.id fun w =>
        let w1 := (laneList failed).foldl (fun x l => x.noteTx l false) (w.dropTx (c.act &&& ~~~todo))
        ({ w1 with txIn := w1.txIn &&& ~~~c.act, txTodo := todo, txDone := c.act, txCommitted := 0, txPred := some f.p, txId := t.nextId }).endCommit
      let asked := keep.foldl (fun u l => u.askToken c.w l) begun
      .ok (if c.gr.det then keep.foldl (fun u l => (u.commitLane c.w.id l).getD u) asked else asked)

end Sys2Proof.Machine
end

