-- ==== Sys2Proof/Machine/MemEvents.lean ====
section
/-! DEFINITION. Steps of the memory system: walks (R24), returns (R47), writes at the home (R107), acknowledgements (R272), atomics (R116), commits (R117), write-backs (R64), traps at a boundary (R187, R191), cone-ring pushes (R93) and drop notices (R92). -/

namespace Sys2Proof.Machine

/-- An event's outcome: it comes about, or its enabling condition does not hold. -/
def event (row : String) (o : Option State) : Host.Outcome State Fault Refusal :=
  match o with
  | some t => .next t
  | none => .fault (.notEnabled row)

/-- An access after some of its lanes have moved on: it ends if it is over, its gang ends if that was the last of it, and room is used. -/
def State.afterAccess (s : State) (a : Access) : State :=
  let s1 := (s.finishAccess a.id).settlePushes
  match s.wave? a.wave with
  | some w => if w.alive then s1 else (s1.sweepGang w.gang).distribute
  | none => s1

/-- The named lanes of an access moved on one after another, in lane order; none where one of them cannot. -/
def lanesDo (f : State → Nat → Option State) : List Nat → State → Option State
  | [], s => some s
  | l :: ls, s => (f s l).bind (lanesDo f ls)

/-- A step of an access on some of its lanes. -/
def accessStep (row : String) (id : Nat) (lanes : Lanes) (f : State → Nat → Option State) (s : State) : Host.Outcome State Fault Refusal :=
  event row ((s.flight? id).bind fun a => if lanes = 0 then none else (lanesDo f (laneList lanes) s).map fun t => t.afterAccess a)

/-- WALK_COMPLETE (R24): lanes of an access are translated, by the TLB's entry where there is one (`how` 0), or by a walk held as its page (1) or as its 64 KiB run (2). -/
def execWalkComplete (id : Nat) (lanes : Lanes) (how : Nat) (s : State) : Host.Outcome State Fault Refusal :=
  event "WALK_COMPLETE" ((s.flight? id).bind fun a =>
    let ls := lanes &&& s.missing a
    if !a.kind.isGlobal || ls = 0 || 2 < how || !(s.wave? a.wave).any (fun w => s.isResident w.gang) then none else some ((s.report a ls how).afterAccess a))

/-- LOAD_RETURN (R47): lanes of a load, a lock, a transactional or level-of-detail read or a gang-local load return. -/
def execLoadReturn (id : Nat) (lanes : Lanes) (victim : Option Nat) (s : State) : Host.Outcome State Fault Refusal :=
  accessStep "LOAD_RETURN" id lanes (fun t l => t.loadLane id l victim) s

/-- HOME_SLICE_WRITE (R107): lanes of a store, or of one destination of a multicast store, are performed at their home. -/
def execHomeSliceWrite (id : Nat) (lanes : Lanes) (dest : Nat) (s : State) : Host.Outcome State Fault Refusal :=
  accessStep "HOME_SLICE_WRITE" id lanes (fun t l => t.storeLane id l dest) s

/-- STORE_ACKNOWLEDGE (R272): lanes of a write are acknowledged; those of a gang-local store or an arrival are performed by their scratchpad. -/
def execStoreAcknowledge (id : Nat) (lanes : Lanes) (dest : Nat) (s : State) : Host.Outcome State Fault Refusal :=
  accessStep "STORE_ACKNOWLEDGE" id lanes (fun t l => t.ackLane id l dest) s

/-- ATOMIC_PERFORM (R116): one lane of an atomic is performed at its home. -/
def execAtomicPerform (id lane dest : Nat) (s : State) : Host.Outcome State Fault Refusal :=
  accessStep "ATOMIC_PERFORM" id (laneBit lane) (fun t l => t.atomicLane id l dest) s

/-- The lane whose turn it is in a wave's commit (R347). -/
def State.commitTurn (s : State) (w : Wave) : Option Nat :=
  match s.home? w with
  | none => none
  | some (ga, gr) => ((Ctx.ofIssue (.txa ⟨0⟩) w ga gr 0 0).commitOrder w.txTodo).head?

/-- TRANSACTION_COMMIT (R117, R347): the next lane of a wave's commit validates and writes, or fails. -/
def execTransactionCommit (id lane : Nat) (s : State) : Host.Outcome State Fault Refusal :=
  event "TRANSACTION_COMMIT" ((s.wave? id).bind fun w =>
    if s.commitTurn w ≠ some lane then none
    else (s.commitLane id lane).map fun t => if w.alive then t else (t.sweepGang w.gang).distribute)

/-- SLICE_WRITEBACK (R31, R64): a slice writes a modified HOME 00 line to its stack and sets the DIRTY bits it was written under. -/
def execSliceWriteback (line : Nat) (s : State) : Host.Outcome State Fault Refusal :=
  event "SLICE_WRITEBACK" (((s.caches.dirty.find? fun d => d.pline = line && d.home = 0)).map fun d =>
    (d.sides.foldl (fun t x => t.setDirty x.1 x.2) s).modCaches fun c => { c with dirty := c.dirty.filter fun x => x.pline ≠ line })

/-! ### Traps at a boundary -/

/-- What an engine trap reports (R187, R371, R389); CARRY names the lanes of its wave that have not ended when it is taken (R461). -/
def EngineTrap.info (e : EngineTrap) (w : Wave) : TrapInfo :=
  let lanes (x : Lanes) : Lanes := if e.code = 7 then w.live else x
  ⟨e.code, e.cause, false, e.lod, e.word, e.pc, lanes e.active, lanes e.faultLanes, 0, 0, e.addr.toNat, e.aux⟩

/-- The engine trap that a wave takes at a boundary: a precise one, else the first, while traps are not masked (R371). -/
def Wave.nextTrap (w : Wave) : Option EngineTrap :=
  (w.engineTraps.find? EngineTrap.precise).orElse fun _ => if w.tm then none else w.engineTraps.head?

/-- The wave takes its logged trap, else an engine trap, at a boundary (R187, R197, R371), once every earlier access has reported; until then only the reports that can be made are. A wait is withdrawn; threads past a hint word go back to it (R271). A precise trap that a logged one displaces recurs when its word issues again. -/
def State.boundaryTrap (s : State) (w : Wave) : Option State :=
  let s0 := s.reportAll w.id
  let s1 := s0.modWave w.id fun x => x.unhint x.hintLanes
  if !w.tm && s0.reportDue w.id then (if s0.flights = s.flights then none else some s0)
  else (s1.wave? w.id).bind fun w1 => match s1.loggedTrap w1 with
    | some t => some ((s1.modWave w.id fun x => { x with engineTraps := x.engineTraps.filter fun e => !e.precise }).trapEntry w1 t)
    | none => w1.nextTrap.map fun e =>
        (s1.modWave w.id fun x => { x with engineTraps := x.engineTraps.erase e }).trapEntry { w1 with engineTraps := w1.engineTraps.erase e } (e.info w1)

/-- TRAP_ENTRY (R191). -/
def execTrapEntry (wave : Nat) (s : State) : Host.Outcome State Fault Refusal :=
  event "TRAP_ENTRY" ((s.wave? wave).bind fun w =>
    if !w.alive || !s.isResident w.gang || s.committing wave || w.inSync || !s.trapDue w ||
        s.eng.syncs.any (fun g => g.wave = wave) then none
    else (s.boundaryTrap w).map State.distribute)

/-! ### The cone ring (R90 to R93) -/

/-- A cone-ring header with its fields written and its reserved bits zero (R90). -/
def coneHeader (prod cons drop ovf log2 : Nat) : List Byte :=
  bytesOfNat 64 (prod % 2 ^ 32 + cons * 2 ^ 32 + min drop (2 ^ 32 - 1) * 2 ^ 64 + ovf * 2 ^ 96 + log2 * 2 ^ 97)

/-- A push performed at the header's home (R93). -/
def State.deliverPush (s : State) (p : Push) : State :=
  let c := s.ctx p.asid
  let base := bitsOf c.crbase.toNat 6 54 * 64
  if !c.crbase.getLsbD 0 then s
  else match s.ctxNat p.asid base 64 needBoth true with
    | .error (f, _) => s.logEvent 5 p.asid base (f.code * 256 + f.cause) 0
    | .ok (h, s1) =>
      let prod := bitsOf h 0 32
      let cons := bitsOf h 32 32
      let drop := bitsOf h 64 32
      let log2 := bitsOf h 97 5
      let full := log2 < 4 || 20 < log2 || 2 ^ log2 ≤ (prod + 2 ^ 32 - cons) % 2 ^ 32
      let at_ := base + 64 + 16 * (prod % 2 ^ log2)
      let put (t : State) (bs : List Byte) : State := match t.ctxWrite p.asid base bs needBoth true none with | .ok t1 => t1 | .error _ => t
      let dropped (t : State) : State :=
        let t1 := put t (coneHeader prod cons (drop + 1) 1 log2)
        { t1 with nextId := t1.nextId + 1, eng := { t1.eng with notices := t1.eng.notices ++ [⟨t1.nextId, p.key⟩] } }
      if full then dropped s1
      else match s1.ctxWrite p.asid at_ (bytesOfNat 16 p.entry.toNat) needWrite true none with
        | .error (f, _) => dropped (s1.logEvent 4 p.asid at_ (f.code * 256 + f.cause) 0)
        | .ok s2 => put s2 (coneHeader (prod + 1) cons drop (bitsOf h 96 1) log2)

/-- CONE_PUSH (R93). -/
def execConePush (id : Nat) (s : State) : Host.Outcome State Fault Refusal :=
  event "CONE_PUSH" (((s.eng.pushes.find? fun p => p.id = id).filter fun p => p.passed && !s.pushBehind p).map fun p =>
    (s.deliverPush p).modEng fun e => { e with pushes := e.pushes.filter fun x => x.id ≠ id })

/-- DROP_NOTICE (R92, R93): a die's filter forgets a key. -/
def execDropNotice (id : Nat) (s : State) : Host.Outcome State Fault Refusal :=
  event "DROP_NOTICE" ((s.eng.notices.find? fun n => n.id = id).map fun n =>
    (s.modCaches fun c => { c with filters := c.filters.filter fun k => k ≠ n.key }).modEng fun e => { e with notices := e.notices.filter fun x => x.id ≠ id })

/-! ### Binning queues -/

/-- PARTIAL_BATCH_TIMEOUT (R158): a bin that holds fewer records than the threshold forms a batch, after 65,536 cycles without an arrival or when every producer has ended. -/
def execPartialBatchTimeout (queue bin : Nat) (s : State) : Host.Outcome State Fault Refusal :=
  event "PARTIAL_BATCH_TIMEOUT" ((s.bins.find? fun q => q.id = queue).bind fun q => (q.bins.find? fun b => b.key = bin).bind fun b =>
    if b.last + 65536 ≤ s.cycle.toNat || q.producers ≤ q.producersEnded then
      some (({ s with bins := s.bins.map fun (x : BinQueue) => if x.id = queue then
        { x with bins := x.bins.filter (fun y => y.key ≠ bin), batches := x.batches ++ [b.records] } else x }.launchBatches queue).distribute)
    else none)

end Sys2Proof.Machine
end

