-- ==== Sys2Proof/Machine/MatrixEvents.lean ====
section
/-! DEFINITION. The matrix engine: admission (R183), arbitration (R184), passes with carry capture (R365 to R371), scaled tiles (R367, R498), folds, resumption and the end of a tile (R373 to R375), and drains (R376 to R378). -/

namespace Sys2Proof.Machine

/-! ### Arbitration (R183, R184) -/

/-- An mxbeg. -/
def Instr.isBeg : Instr → Bool
  | .mxbeg _ => true
  | _ => false

/-- The instructions that a team's frozen pass does not hold back (R369). -/
def Instr.passesFrozen : Instr → Bool
  | .mxfold _ | .mxres | .mxend => true
  | _ => false

/-- The entry may be its team's next: its team has no frozen pass, or it is not held back by one. -/
def State.mayLead (s : State) (e : MxEntry) : Bool :=
  Instr.passesFrozen e.instr || match s.tile? e.gang e.team with
    | some t => t.frozen.isNone
    | none => true

/-- The next entry of each team with entries on an engine (R184: a team's own are granted in posting order). -/
def State.leaders (s : State) (quad : Nat) : List MxEntry :=
  (s.eng.matrix.table.filter fun e => e.quad = quad && s.mayLead e).foldl (init := []) fun l e =>
    if l.any fun x => x.gang = e.gang && x.team = e.team then l else l ++ [e]

/-- Entries in the arbiter's order: the highest CLASS first, then the earliest posting. -/
def rankEntries (l : List MxEntry) : List MxEntry :=
  l.foldl (init := []) fun r e =>
    let before (x : MxEntry) : Bool := e.cls < x.cls || (e.cls = x.cls && x.order < e.order)
    r.filter before ++ [e] ++ r.filter fun x => !before x

/-- Tiles held on an engine. -/
def State.tilesOn (s : State) (quad : Nat) : List Tile :=
  s.eng.matrix.tiles.filter fun t => t.quad = quad && s.isResident t.gang

/-- G, the granules of an mxbeg (R183): none for a scaled tile. -/
def granulesOf (a b : Slot) (depth ask n : Nat) : Nat :=
  if a.scl = 2 || b.scl = 2 then 0
  else
    let e := ceilDiv (depth * 2 ^ (a.q + b.q + 4)) (2 ^ 24) + 1
    min ask (ceilDiv (e * 128 * n) 256)

/-- The two slots of an entry's launch that its instruction names. -/
def begSlots (gr : Grid) (e : MxEntry) : Slot × Slot :=
  match e.instr with
  | .mxbeg f => (gr.slot f.a.toNat, gr.slot f.b.toNat)
  | _ => (gr.slot 0, gr.slot 0)

/-- The launch of a gang. -/
def State.gridOfGang (s : State) (gang : Nat) : Option Grid := (s.gang? gang).bind fun g => s.grid? g.grid

/-- The granules that an mxbeg entry takes. -/
def State.granulesFor (s : State) (e : MxEntry) : Nat :=
  match s.gridOfGang e.gang with
  | none => 0
  | some gr => granulesOf (begSlots gr e).1 (begSlots gr e).2 (e.regs.getD 0 0).toNat (bitsOf (e.regs.getD 1 0).toNat 0 6) (e.regs.getD 3 0).toNat

/-- There is room for an mxbeg's tile and granules (R183). -/
def State.tileRoom (s : State) (e : MxEntry) : Bool :=
  (s.tilesOn e.quad).length < 4 && ((s.tilesOn e.quad).map (·.granules)).sum + s.granulesFor e ≤ 32

/-- What the arbiter of a free engine grants next: no mxbeg passes an earlier one that waits for room (R183, R184). -/
def State.arbiter (s : State) (quad : Nat) : Option MxEntry :=
  if s.eng.matrix.running.any fun e => e.quad = quad then none
  else
    let l := rankEntries (s.leaders quad)
    l.find? fun e => !Instr.isBeg e.instr || (l.find? fun x => Instr.isBeg x.instr) = some e && s.tileRoom e

/-- TL of every surviving member of a team lowered. -/
def State.lowerTeam (s : State) (gang : Nat) (team : Quad) (n : Nat) : State :=
  s.modWaves (((s.members gang team).filter Wave.alive).map (·.id)) fun w => { w with tl := w.tl - BitVec.ofNat 6 n }

/-- Grog entries as they stand before the first mxop.zero: free ones (R363). -/
def freeEntries (fresh granules n : Nat) : List (Nat × Int) :=
  (List.range (granules * 256)).foldl (init := []) fun l k =>
    let x := (Config.freeWord (fresh + k)).toNat
    let cell := bitsOf x 0 16
    let count := signedOf 10 (bitsOf x 16 10)
    if x.testBit 31 && cell % 512 < n && count ≠ 0 && count ≠ -512 && !(l.any fun e => e.1 = cell) then l ++ [(cell, count)] else l

/-- The tile that an admitted mxbeg opens (R183, R363): its cells and grog entries are free values. -/
def State.openTile (s : State) (gr : Grid) (e : MxEntry) : Tile :=
  let (a, b) := begSlots gr e
  let n := (e.regs.getD 3 0).toNat
  let ask := (e.regs.getD 1 0).toNat
  let g := s.granulesFor e
  { id := e.tile, gang := e.gang, team := e.team, quad := e.quad, n, depth := (e.regs.getD 0 0).toNat, gask := ask % 64, trap := ask.testBit 6
    scaled := a.scl = 2 || b.scl = 2
    slotA := (match e.instr with | .mxbeg f => f.a.toNat | _ => 0), slotB := (match e.instr with | .mxbeg f => f.b.toNat | _ => 0)
    granules := g, aux := (e.regs.getD 2 0).toNat, scaleA := e.scales.getD 0 none, scaleB := e.scales.getD 1 none
    cells := (List.range 128).map fun m => (List.range n).map fun k => Config.freeCell s.fresh (m * 512 + k)
    entries := freeEntries s.fresh g n, passes := 0, foldedAt := 0, peA := 0, peB := 0, folds := 0, frozen := none }

/-- The state without an entry in the table. -/
def State.dropEntry (s : State) (e : MxEntry) : State := s.modMatrix fun m => { m with table := m.table.filter fun x => x.order ≠ e.order }

/-- The step came about where there is something to do. -/
def engineEvent (row : String) (o : Option State) : Host.Outcome State Fault Refusal := event row (o.map State.distribute)

/-- MXBEG_ADMISSION (R183, R363). -/
def execMxbegAdmission (quad : Nat) (s : State) : Host.Outcome State Fault Refusal :=
  engineEvent "MXBEG_ADMISSION" ((s.arbiter quad).bind fun e =>
    if !Instr.isBeg e.instr then none
    else (s.gridOfGang e.gang).map fun gr =>
      let t := s.openTile gr e
      let s1 := (s.dropEntry e).modMatrix fun m => { m with tiles := m.tiles ++ [t] }
      { s1 with fresh := s1.fresh + 256 * t.granules + 1 }.lowerTeam e.gang e.team 1)

/-- PASS_GRANT (R184): the array takes the arbiter's entry, which leaves the table (R182). -/
def execPassGrant (quad : Nat) (s : State) : Host.Outcome State Fault Refusal :=
  engineEvent "PASS_GRANT" ((s.arbiter quad).bind fun e =>
    if Instr.isBeg e.instr then none else some ((s.dropEntry e).modMatrix fun m => { m with running := m.running ++ [e] }))

/-! ### Gang-local accesses of the engine (R62) -/

/-- The presence bits of some lines set (R59); waves parked on one of them go on, where their gang is not about to leave. -/
def State.setPresent (s : State) (gang : Nat) (lines : List Nat) : State :=
  let s1 := s.modGang gang fun g => { g with absent := g.absent.filter fun l => !lines.contains l }
  if (s.gang? gang).any fun g => g.leaving.isNone then s1.wakePresent gang else s1

/-- Bytes written by an engine to gang-local space: a barrier line with a waiter is not written, and its presence bit is set (R62). The lines left out, and the state. -/
def State.engineWrite (s : State) (gang o : Nat) (bs : List Byte) : List Nat × State :=
  (pieces o bs.length).foldl (init := ([], s)) fun acc p =>
    let (cl, t) := acc
    if (t.gangs.any fun g => g.id = gang && g.tags.contains (p.1 / 64)) && t.lineAwaited gang (p.1 / 64) then (cl ++ [p.1 / 64 * 64], t.setPresent gang [p.1 / 64])
    else (cl, t.putLocal gang p.1 ((bs.drop (p.1 - o)).take p.2))

/-- An engine's access to some global addresses waits for a write that the ordering point of its die has accepted (R108). -/
def State.engineHeld (s : State) (core asid : Nat) (priv : Bool) (vas : List Nat) : Bool :=
  (s.flights.any fun b => b.lanes.any fun l => l.accepted ≠ 0 && l.status = .ready) &&
    vas.any fun va => match (s.translate (quadOf core) asid va needRead priv 0).1 with
      | .ok t => s.acceptedHeld core (s.localPa t.pa) 0
      | .error _ => false

/-- Several writes of an engine. -/
def State.engineWrites (s : State) (gang : Nat) (ws : List (Nat × List Byte)) : List Nat × State :=
  ws.foldl (init := ([], s)) fun acc w =>
    let (cl, t) := acc.2.engineWrite gang w.1 w.2
    (acc.1 ++ cl, t)

/-- A number in a gang's local space. -/
def State.localNat (s : State) (gang o n : Nat) : Nat := match s.gang? gang with | some g => natOfBytes (g.bytes.getRange o n) | none => 0

/-- COUNT × 2^24 added to the INT64 at an offset, modulo 2^64 (R369, R373). -/
def State.addCount (s : State) (gang o : Nat) (count : Int) : List Nat × State :=
  s.engineWrite gang o (bytesOfNat 8 (BitVec.ofInt 64 ((s.localNat gang o 8 : Int) + count * 2 ^ 24)).toNat)

/-- Several counts added in order. -/
def State.addCounts (s : State) (gang : Nat) (l : List (Nat × Int)) : List Nat × State :=
  l.foldl (init := ([], s)) fun acc e =>
    let (cl, t) := acc.2.addCount gang e.1 e.2
    (acc.1 ++ cl, t)

/-- An engine trap raised on every surviving member of a team (R370, R371, R378). -/
def State.teamTrap (s : State) (gang : Nat) (team : Quad) (code : Nat) (word : Word) (pcs : SMap 64) (addr aux : Nat) : State :=
  s.modWaves (((s.members gang team).filter Wave.alive).map (·.id)) fun w =>
    w.queueTrap ⟨code, 0, word, pcs.get w.gangIndex, w.live, w.live, BitVec.ofNat 64 addr, aux, false, false⟩

/-- BARCLOBBER on every member where an engine's write met a barrier line with a waiter (R367, R378). -/
def State.clobberTrap (s : State) (e : MxEntry) (lines : List Nat) : State :=
  match lines with
  | [] => s
  | l :: ls => s.teamTrap e.gang e.team 5 e.word e.pcs (ls.foldl min l) 0

/-! ### A pass (R365, R368, R369) -/

/-- The planes that a pass reads of an operand (R102). -/
def planesRead (g : Gang) (k : Nat) (sl : Slot) : Nat :=
  let lim := bitsOf g.plres.toNat (4 * k) 4
  if lim = 0 then sl.pr else min sl.pr lim

/-- One bit set of a number after another, up to 64. -/
def ones (x : Nat) : Nat := (List.range 64).foldl (fun n k => if x.testBit k then n + 1 else n) 0

/-- A plane of an operand as a pass uses it: its number, its weight in the operand's units, and each line's chunk. -/
structure PlaneBits where
  plane : Nat
  weight : Int
  chunks : List Nat
deriving DecidableEq, Repr

/-- A chunk's 64 bits; unpredictable where another chunk of the operand lies on it (R359). -/
def Gang.chunk (g : Gang) (fresh : Nat) (shared : Bool) (k a : Nat) : Nat :=
  if shared then natOfBytes ((List.range 8).map fun j => Config.freeByte (fresh + 8 * k + j)) else natOfBytes (g.bytes.getRange a 8)

/-- The planes of an operand of `depth` K blocks that a pass reads of block `j`, and the virtual one (R222, R365). -/
def operandPlanes (g : Gang) (fresh : Nat) (sl : Slot) (l : Layout) (lines pe j depth : Nat) : List PlaneBits :=
  let blocks := max depth (j + 1)
  let apart := l.apart lines sl.pr blocks
  ((List.range pe).map fun p => ⟨p, sl.weight p / sl.unit, (List.range lines).map fun i => g.chunk fresh (!apart && l.shared lines sl.pr blocks i p j) (p * lines + i) (l.at_ i p j)⟩) ++
  (if sl.virt then [⟨pe, 2 ^ (7 - pe) / sl.unit, List.replicate lines (2 ^ 64 - 1)⟩] else [])

/-- Where a pass stands: the freeze point holds the cell, WHY, whether the event is −1, the chunk and the two planes. -/
structure PassState where
  cells : List (List (BitVec 24))
  entries : List (Nat × Int)
  folds : List (Nat × Int)
  frozen : Option (Nat × Nat × Bool × Nat × Nat × Nat)
deriving DecidableEq, Repr

/-- What a pass is run under: the tile's free entries, whether it stalls, N, the cycle's chunk and planes, and whether the tile is scaled. -/
structure PassEnv where
  cap : Nat
  stall : Bool
  n : Nat
  chunk : Nat
  pa : Nat
  pb : Nat
  scaled : Bool
deriving DecidableEq, Repr

/-- An event recorded in a cell's entry; none where it meets a full condition, with WHY (R368, R369). -/
def recordEvent (cap : Nat) (entries : List (Nat × Int)) (cell : Nat) (ev : Int) : Except Nat (List (Nat × Int)) :=
  match entries.find? fun e => e.1 = cell with
  | some (_, k) =>
    if k * ev = 511 then .error 0
    else if k + ev = 0 then .ok (entries.filter fun e => e.1 ≠ cell)
    else .ok (entries.map fun e => if e.1 = cell then (cell, k + ev) else e)
  | none => if entries.length < cap then .ok (entries ++ [(cell, ev)]) else .error 1

/-- A STALL fold (R369): the cell's own entry at its limit, else the oldest; then the event takes a fresh entry. With no granules the event itself is folded. -/
def stallFold (p : PassState) (cell why : Nat) (ev : Int) : PassState :=
  let out := if why = 0 then p.entries.find? fun e => e.1 = cell else p.entries.head?
  match out with
  | some e => { p with folds := p.folds ++ [e], entries := (p.entries.filter fun x => x.1 ≠ e.1) ++ [(cell, ev)] }
  | none => { p with folds := p.folds ++ [(cell, ev)] }

/-- Accumulate (R368). A scaled tile never records a carry event (R367): only cells that no mxop.zero has cleared could come to one, and they are undefined. -/
def accumulate (env : PassEnv) (cell : Nat) (delta : Int) (v : BitVec 24) (p : PassState) : BitVec 24 × PassState :=
  let x := v.toInt + delta
  if env.scaled || (-(2 ^ 23) ≤ x && x < 2 ^ 23) then (BitVec.ofInt 24 x, p)
  else
    let ev : Int := if 0 < x then 1 else -1
    match recordEvent env.cap p.entries cell ev with
    | .ok es => (BitVec.ofInt 24 x, { p with entries := es })
    | .error why =>
      if env.stall then (BitVec.ofInt 24 x, stallFold p cell why ev)
      else (v, { p with frozen := some (cell, why, decide (ev < 0), env.chunk, env.pa, env.pb) })

/-- The cells of a row in a cycle, from a cell index on. -/
def rowCycle (env : PassEnv) (w : Int) (a row start : Nat) : Nat → List (BitVec 24) → List Nat → PassState → List (BitVec 24) × PassState
  | _, [], _, p => ([], p)
  | col, v :: vs, bs, p =>
    let cell := row * 512 + col
    let (v', p') := if p.frozen.isSome || env.n ≤ col || col / 256 ≠ env.chunk || cell < start then (v, p)
      else accumulate env cell (w * (ones (a &&& bs.headD 0) : Nat)) v p
    let (vs', p'') := rowCycle env w a row start (col + 1) vs (bs.drop 1) p'
    (v' :: vs', p'')

/-- The rows of a cycle. -/
def rowsCycle (env : PassEnv) (w : Int) (b : List Nat) (start : Nat) : Nat → List (List (BitVec 24)) → List Nat → PassState → List (List (BitVec 24)) × PassState
  | _, [], _, p => ([], p)
  | row, r :: rs, as, p =>
    let (r', p') := rowCycle env w (as.headD 0) row start 0 r b p
    let (rs', p'') := rowsCycle env w b start (row + 1) rs (as.drop 1) p'
    (r' :: rs', p'')

/-- One cycle (R365): a plane of A, a plane of B and a chunk of columns. -/
def passCycle (env : PassEnv) (a b : PlaneBits) (start : Nat) (p : PassState) : PassState :=
  if p.frozen.isSome then p
  else
    let (cs, p') := rowsCycle env (a.weight * b.weight) b.chunks start 0 p.cells a.chunks p
    { p' with cells := cs }

/-- The cycles of a pass in order: chunk, plane of A, plane of B. -/
def passCycles (n : Nat) (as bs : List PlaneBits) : List (Nat × PlaneBits × PlaneBits) :=
  (List.range (ceilDiv n 256)).flatMap fun c => as.flatMap fun a => bs.map fun b => (c, a, b)

/-- The cycles from a freeze point on: the first of them resumes at its cell (R374). -/
def cyclesFrom (l : List (Nat × PlaneBits × PlaneBits)) : Option Frozen → List (Nat × Nat × PlaneBits × PlaneBits)
  | none => l.map fun x => (0, x)
  | some f => match l.dropWhile fun x => !(x.1 = f.chunk && x.2.1.plane = f.planeA && x.2.2.plane = f.planeB) with
    | [] => []
    | x :: xs => (f.cell, x) :: xs.map fun y => (0, y)

/-- The cycles run. -/
def runCycles (cap : Nat) (stall scaled : Bool) (n : Nat) (l : List (Nat × Nat × PlaneBits × PlaneBits)) (p : PassState) : PassState :=
  l.foldl (fun q x => passCycle ⟨cap, stall, n, x.2.1, x.2.2.1.plane, x.2.2.2.plane, scaled⟩ x.2.2.1 x.2.2.2 x.1 q) p

/-! ### Scales and folds of blocks (R367, R498) -/

/-- A binary32 scale with a value, as the engine multiplies them. -/
def scaleProduct (i : Int) (sa sb : Nat) : Nat :=
  if f32.isNan sa || f32.isNan sb then f32.nan
  else match exactMul (.fin (i < 0) i.natAbs 0) (f32.value sa) with
    | none => f32.nan
    | some p => match exactMul p (f32.value sb) with
      | none => f32.nan
      | some (.inf neg) => f32.inf neg
      | some (.fin neg m e) => if m = 0 then 0 else let (u, v) := scale m 1 e; f32.round 0 neg u v

/-- An element of a scale buffer read at its home through the quad's TLB (R34, R367): 1.0 with no buffer; a free value where it cannot be read. -/
def State.scaleAt (s : State) (quad asid : Nat) (priv : Bool) (base : Option Nat) (idx : Nat) : Nat × State :=
  match base with
  | none => (0x3F800000, s)
  | some b => match s.homeRead (some (4 * quad)) asid ((b + 4 * idx) % 2 ^ 64) 4 needRead priv with
    | .ok (bs, s1) => (natOfBytes bs, s1)
    | .error _ => ((Config.freeWord s.fresh).toNat, { s with fresh := s.fresh + 1 })

/-- Scales at some indices. -/
def State.scalesAt (s : State) (quad asid : Nat) (priv : Bool) (base : Option Nat) (idxs : List Nat) : List Nat × State :=
  idxs.foldl (init := ([], s)) fun acc k =>
    let (x, t) := acc.2.scaleAt quad asid priv base k
    (acc.1 ++ [x], t)

/-- The scales of a slot for one block: for each of `n` lines, where strips count lines and squares count groups of 128 (R367). -/
def State.slotScales (s : State) (quad asid : Nat) (priv : Bool) (sl : Slot) (base : Option Nat) (strip : Bool) (n block : Nat) : List Nat × State :=
  if sl.scl = 2 then
    if strip then s.scalesAt quad asid priv base ((List.range n).map fun m => m + 128 * block)
    else
      let (q, t) := s.scalesAt quad asid priv base ((List.range (ceilDiv n 128)).map fun c => c + 4 * block)
      ((List.range n).map fun k => q.getD (k / 128) 0, t)
  else
    let (x, t) := s.scaleAt quad asid priv base 0
    (List.replicate n x, t)

/-- The product of element-unit value and scales. -/
def Tile.shift (t : Tile) (gr : Grid) : Int := 2 ^ (16 - (gr.slot t.slotA).q - (gr.slot t.slotB).q)

/-- The address of a cell of the auxiliary tile, of `size` bytes a cell. -/
def Tile.auxAt (t : Tile) (size m n : Nat) : Nat := t.aux + (m * t.n + n) * size

/-- FoldBlock (R367): the lines left out, the tile with its cells zero, and the state. -/
def State.foldBlock (s : State) (gr : Grid) (priv : Bool) (t : Tile) (block : Nat) : List Nat × Tile × State :=
  let (sa, s1) := s.slotScales t.quad gr.asid priv (gr.slot t.slotA) t.scaleA true 128 block
  let (sb, s2) := s1.slotScales t.quad gr.asid priv (gr.slot t.slotB) t.scaleB false t.n block
  let row (m : Nat) : Nat × List Byte :=
    (t.auxAt 4 m 0, (List.range t.n).flatMap fun n =>
      let i := ((t.cells.getD m []).getD n 0).toInt * t.shift gr
      bytesOfNat 4 (Fpc.plain.add f32 0 (s2.localNat t.gang (t.auxAt 4 m n) 4) (scaleProduct i (sa.getD m 0) (sb.getD n 0))))
  let (cl, s3) := s2.engineWrites t.gang ((List.range 128).map row)
  (cl, { t with cells := t.cells.map fun r => r.map fun _ => 0, foldedAt := t.passes }, s3)

/-! ### PASS_COMPLETE -/

/-- A tile replaced. -/
def State.putTile (s : State) (t : Tile) : State := s.modMatrix fun m => { m with tiles := m.tiles.map fun x => if x.id = t.id then t else x }

/-- The engine's array is free again; a team that is broken loses its tile once nothing of it runs (R356). -/
def State.arrayFree (s : State) (e : MxEntry) : State :=
  let s1 := s.modMatrix fun m => { m with running := m.running.filter fun x => x.order ≠ e.order }
  let s2 := if (s1.members e.gang e.team).any (fun x => !x.alive) then s1.modMatrix fun m =>
      { m with tiles := m.tiles.filter fun t => !(t.gang = e.gang && t.team = e.team) } else s1
  s2.sweepGang e.gang

/-- An mxop.zero's start (R365): cells and entries cleared, the pass count and the status of the tile zero, and a scaled tile's side cells +0.0. -/
def State.zeroTile (s : State) (t : Tile) : List Nat × Tile × State :=
  let t1 := { t with cells := (List.range 128).map fun _ => List.replicate t.n 0, entries := [], passes := 0, foldedAt := 0, peA := 0, peB := 0, folds := 0 }
  if t.scaled then
    let (cl, s1) := s.engineWrite t.gang t.aux (List.replicate (128 * t.n * 4) 0)
    (cl, t1, s1)
  else ([], t1, s)

/-- The operands of a pass: register values and word; those of a frozen pass are kept with it. -/
structure PassWork where
  regs : List Word
  word : Word
  pcs : SMap 64
  start : Option Frozen
  /-- TL raises that fall when the pass completes, and that fall when it freezes. -/
  done : Nat
  stopped : Nat
deriving DecidableEq, Repr

/-- Every line of both footprints of a pass is present (R59). -/
def State.passPresent (s : State) (gr : Grid) (t : Tile) (regs : List Word) (j : Nat) : Bool :=
  match s.gang? t.gang, layoutIn regs 0, layoutIn regs 3 with
  | some g, some a, some b =>
    ((a.chunks 128 (gr.slot t.slotA).pr j) ++ b.chunks (regs.getD 6 0).toNat (gr.slot t.slotB).pr j).all g.present
  | _, _, _ => true

/-- AUX of a CARRY record (R370), counted from bit 352. -/
def carryAux (t : Tile) (cell why : Nat) (neg : Bool) (chunk pa pb : Nat) : Nat :=
  cell + why * 2 ^ 16 + neg.toNat * 2 ^ 17 + pa * 2 ^ 18 + pb * 2 ^ 22 + chunk * 2 ^ 26 + min t.passes 65535 * 2 ^ 28 + t.entries.length % 2 ^ 16 * 2 ^ 44

/-- The smaller of two plane counts, where zero stands for none yet (R379). -/
def leastPlanes (a b : Nat) : Nat := if a = 0 then b else min a b

/-- A pass run on a tile: it completes, with its block folded when it is the second of a scaled tile's (R367), or freezes (R369); one that would freeze after a member has ended is discarded, and its TL raise falls (R356). -/
def State.runPass (s : State) (gr : Grid) (e : MxEntry) (t : Tile) (w : PassWork) : State :=
  match s.gang? t.gang, layoutIn w.regs 0, layoutIn w.regs 3 with
  | some g, some la, some lb =>
    let (sa, sb) := (gr.slot t.slotA, gr.slot t.slotB)
    let n := (w.regs.getD 6 0).toNat
    let j := t.passes
    let peA := match w.start with | some f => f.peA | none => planesRead g t.slotA sa
    let peB := match w.start with | some f => f.peB | none => planesRead g t.slotB sb
    let as := operandPlanes g s.fresh sa la 128 peA j t.depth
    let bs := operandPlanes g (s.fresh + 8192) sb lb n peB j t.depth
    let stall := !t.trap && t.aux ≠ auxNone
    let p := runCycles (t.granules * 256) stall t.scaled n (cyclesFrom (passCycles n as bs) w.start) ⟨t.cells, t.entries, [], none⟩
    let s0 : State := { s with fresh := s.fresh + 8192 + 32768 }
    let (cl, s1) := s0.addCounts t.gang (p.folds.map fun x => (t.auxAt 8 (x.1 / 512) (x.1 % 512), x.2))
    let t1 := { t with cells := p.cells, entries := p.entries, folds := t.folds + p.folds.length, peA := leastPlanes t.peA peA, peB := leastPlanes t.peB peB }
    match p.frozen with
    | some (cell, why, neg, chunk, pa, pb) =>
      let t2 := { t1 with frozen := some ⟨chunk, pa, pb, cell, w.word, w.pcs, w.regs, peA, peB⟩ }
      if (s.members e.gang e.team).any fun x => !x.alive then ((s1.putTile t1).lowerTeam e.gang e.team w.done).clobberTrap e cl
      else ((((s1.putTile t2).lowerTeam e.gang e.team w.stopped).clobberTrap e cl).teamTrap e.gang e.team 7 w.word w.pcs 0 (carryAux t2 cell why neg chunk pa pb))
    | none =>
      let t2 := { t1 with frozen := none, passes := t.passes + 1 }
      let (cl2, t3, s2) := if t2.scaled && t2.passes % 2 = 0 then s1.foldBlock gr e.privileged t2 ((t2.passes - 2) / 2) else ([], t2, s1)
      ((s2.putTile t3).lowerTeam e.gang e.team w.done).clobberTrap e (cl ++ cl2)
  | _, _, _ => s.lowerTeam e.gang e.team w.done

/-- mxfold performed (R373): every entry, in ascending cell index, is added at its place and freed. -/
def State.runFold (s : State) (e : MxEntry) (t : Tile) : State :=
  let base := (e.regs.getD 0 0).toNat
  let stride := (e.regs.getD 1 0).toNat
  let sorted := t.entries.foldl (fun (l : List (Nat × Int)) (x : Nat × Int) => l.filter (fun (y : Nat × Int) => y.1 < x.1) ++ [x] ++ l.filter fun y => x.1 < y.1) []
  let (cl, s1) := s.addCounts t.gang (sorted.map fun x => (base + x.1 / 512 * stride + x.1 % 512 * 8, x.2))
  ((s1.putTile { t with entries := [] }).lowerTeam e.gang e.team 1).clobberTrap e cl

/-- The scale elements of a tile that a fold or a drain may read. -/
def Tile.scaleLines (t : Tile) : List Nat :=
  [t.scaleA, t.scaleB].flatMap fun b => match b with
    | none => []
    | some x => (List.range (if t.scaled then 128 * (t.passes / 2 + 1) else 1)).map fun k => (x + 4 * k) % 2 ^ 64

/-- The instruction runs a pass, which may fold a block. -/
def Instr.passes : Instr → Bool
  | .mxop _ | .mxopZero _ | .mxres => true
  | _ => false

/-- The granted entry of an engine performed: none while its operands' lines are absent or a release before it is not over. An entry whose tile has gone does nothing. -/
def State.runEntry (s : State) (e : MxEntry) : Option State :=
  match s.gridOfGang e.gang with
  | none => some s
  | some gr =>
    if s.fenceHeld e.after then none
    else match (s.tile? e.gang e.team).filter fun t => t.id = e.tile with
      | none => some (s.lowerTeam e.gang e.team 1)
      | some t => if t.scaled && Instr.passes e.instr && s.engineHeld (4 * e.quad) gr.asid e.privileged t.scaleLines then none else match e.instr with
        | .mxopZero _ =>
          if !s.passPresent gr t e.regs 0 then none
          else
            let (cl, t1, s1) := s.zeroTile t
            some ((s1.clobberTrap e cl).runPass gr e t1 ⟨e.regs, e.word, e.pcs, none, 1, 0⟩)
        | .mxop _ =>
          if !s.passPresent gr t e.regs t.passes then none
          else some (s.runPass gr e t ⟨e.regs, e.word, e.pcs, none, 1, 0⟩)
        | .mxres => match t.frozen with
          | none => some (s.lowerTeam e.gang e.team 1)
          | some f =>
            if !s.passPresent gr t f.regs t.passes then none
            else some (s.runPass gr e t ⟨f.regs, f.word, f.pcs, some f, 2, 1⟩)
        | .mxfold _ => some (s.runFold e t)
        | .mxend =>
          some ((s.modMatrix fun m => { m with tiles := m.tiles.filter fun x => x.id ≠ t.id }).lowerTeam e.gang e.team (1 + t.frozen.isSome.toNat))
        | _ => none

/-- The granted entry of an engine. -/
def State.granted (s : State) (quad : Nat) : Option MxEntry := s.eng.matrix.running.find? fun e => e.quad = quad

/-- PASS_COMPLETE (R365): the pass, fold, resumption or end that an engine was granted is performed and TL falls, or the pass freezes. -/
def execPassComplete (quad : Nat) (s : State) : Host.Outcome State Fault Refusal :=
  engineEvent "PASS_COMPLETE" ((s.granted quad).bind fun e => (s.runEntry e).map fun t => t.arrayFree e)

/-! ### Drains (R376 to R378) -/

/-- The exact value of a cell in the tile's units: the cell, its carries, and the spill tile's value (R368). -/
def State.cellValue (s : State) (t : Tile) (m n : Nat) : Int :=
  let count := match t.entries.find? fun e => e.1 = m * 512 + n with | some e => e.2 | none => 0
  ((t.cells.getD m []).getD n 0).toInt + count * 2 ^ 24 + (if t.aux = auxNone then 0 else signedOf 64 (s.localNat t.gang (t.auxAt 8 m n) 8))

/-- Saturation to a signed 32-bit integer. -/
def saturate32 (x : Int) : Int := max (-(2 ^ 31)) (min (2 ^ 31 - 1) x)

/-- What a drain writes for a cell, as a number of its size (R377); `sa` and `sb` are the scales of an unscaled tile. -/
def State.drainValue (s : State) (gr : Grid) (t : Tile) (i : Instr) (sa sb m n : Nat) : Nat :=
  let x := s.cellValue t m n * t.shift gr
  match i with
  | .mxdrnI32 _ _ => (BitVec.ofInt 32 (saturate32 x)).toNat
  | .mxdrnI64 _ _ => (BitVec.ofInt 64 x).toNat
  | _ => if t.scaled then s.localNat t.gang (t.auxAt 4 m n) 4 else scaleProduct x sa sb

/-- A row of a drain written through a context: each piece with the translation made at latch completion, or one made now after a restore; a page that no longer translates is not written. -/
def State.drainRow (s : State) (gang quad asid : Nat) (priv : Bool) (pages : List TlbEntry) (va : Nat) (bs : List Byte) : State :=
  (pieces va bs.length).foldl (init := s) fun t p =>
    let b := (bs.drop (p.1 - va)).take p.2
    match pages.find? fun e => e.base = p.1 / 4096 * 4096 with
    | some e => (t.keepBefore gang p.1 (e.pa + p.1 % 4096) p.2).writeHome asid p.1 (t.localPa (e.pa + p.1 % 4096)) e.leaf.toNat e.side b
    | none => match t.translate quad asid p.1 needWrite priv 0 with
      | (.ok r, u) => (u.keepBefore gang p.1 r.pa p.2).writeHome asid p.1 r.pa r.leaf r.side b
      | (.error _, u) => u

/-- The lines of a drain's destination. -/
def MxEntry.drainLines (e : MxEntry) : List Nat :=
  let (dest, stride, loc) := drainDest e.regs
  if loc then [] else (rowStarts dest stride).flatMap fun a => (pieces (a % 2 ^ 64) ((e.regs.getD 3 0).toNat * drainSize e.instr)).map (·.1)

/-- A drain performed (R377, R378). -/
def State.runDrain (s : State) (gr : Grid) (e : MxEntry) (t0 : Tile) : State :=
  let n := (e.regs.getD 3 0).toNat
  let (dest, stride, loc) := drainDest e.regs
  let float := match e.instr with | .mxdrnF32 _ _ => true | _ => false
  let (cl, t, s1) := if float && t0.scaled && (t0.passes - t0.foldedAt) % 2 = 1 then s.foldBlock gr e.privileged t0 ((t0.passes - 1) / 2) else ([], t0, s)
  let (sa, s2) := if float && !t.scaled then s1.scaleAt e.quad gr.asid e.privileged t.scaleA 0 else (0, s1)
  let (sb, s3) := if float && !t.scaled then s2.scaleAt e.quad gr.asid e.privileged t.scaleB 0 else (0, s2)
  let rows := (List.range 128).map fun m =>
    (dest + m * stride, (List.range n).flatMap fun k => bytesOfNat (drainSize e.instr) (s3.drainValue gr t e.instr sa sb m k))
  let (cl2, s4) := if loc then s3.engineWrites t.gang rows else ([], rows.foldl (fun (x : State) (r : Nat × List Byte) => x.drainRow e.gang e.quad gr.asid e.privileged e.pages r.1 r.2) s3)
  ((s4.putTile t).lowerTeam e.gang e.team 1).clobberTrap e (cl ++ cl2)

/-- DRAIN_COMPLETE (R378): the drain that an engine was granted is performed, and TL falls. -/
def execDrainComplete (quad : Nat) (s : State) : Host.Outcome State Fault Refusal :=
  engineEvent "DRAIN_COMPLETE" ((s.granted quad).bind fun e => match e.instr with
    | .mxdrnI32 _ _ | .mxdrnI64 _ _ | .mxdrnF32 _ _ =>
      if s.fenceHeld e.after then none
      else match s.gridOfGang e.gang, (s.tile? e.gang e.team).filter fun t => t.id = e.tile with
        | some gr, some t => if s.engineHeld (4 * quad) gr.asid e.privileged (t.scaleLines ++ e.drainLines) then none else some ((s.runDrain gr e t).arrayFree e)
        | _, _ => some ((s.lowerTeam e.gang e.team 1).arrayFree e)
    | _ => none)

end Sys2Proof.Machine
end

