-- ==== Sys2Proof/Machine/Save.lean ====
section
/-! DEFINITION. The save area of an evicted gang (R194, R202, R380): its bytes, its place in the save region, and what is read back from it (R203). -/

namespace Sys2Proof.Machine

/-! ### The bytes of an area -/

/-- A list of bytes cut or filled with zeros to a length. -/
def padTo (n : Nat) (bs : List Byte) : List Byte := (bs ++ List.replicate (n - bs.length) 0).take n

/-- The header of an area (R202). -/
def saveHeader (gr : Grid) (ga : Gang) (full : Bool) (nlog matrixAt : Nat) : List Byte :=
  bytesOfNat 256 (1 + full.toNat * 2 ^ 16 + gr.det.toNat * 2 ^ 17 + ga.index * 2 ^ 32 + gr.launchId * 2 ^ 64 + gr.lrec * 2 ^ 128 + gr.nwg * 2 ^ 192 +
    gr.nwave * 2 ^ 195 + gr.regs * 2 ^ 201 + gr.localg * 2 ^ 208 + ga.plres.toNat % 2 ^ 32 * 2 ^ 224 + nlog * 2 ^ 256 + matrixAt * 2 ^ 288)

/-- The dependence counters as the area and the proof registers hold them: LD, ST, CP, TL. -/
def Wave.counters (w : Wave) : Nat := w.ld.toNat + w.st.toNat * 2 ^ 6 + w.cp.toNat * 2 ^ 12 + w.tl.toNat * 2 ^ 18

/-- A wave's part of an area (R202), with its wake condition. -/
def saveWave (regs : Nat) (w : Wave) (wake : Quad) : List Byte :=
  let lanes := List.range 32
  padTo 1024 ((lanes.flatMap fun l => bytesOfNat 8 (w.pcOf l).toNat) ++ (lanes.flatMap fun l => bytesOfNat 8 (w.meetOf l).toNat) ++
    lanes.map w.predByte ++ ((List.range 96).flatMap fun n => bytesOfNat 4 (w.getS n).toNat) ++
    bytesOfNat 8 (w.counters + w.tstat.toNat % 8 * 2 ^ 24) ++ bytesOfNat 8 w.team.toNat ++ bytesOfNat 8 w.time.toNat ++ bytesOfNat 8 wake.toNat) ++
  (List.range regs).flatMap fun n => lanes.flatMap fun l => bytesOfNat 4 (w.getV l n).toNat

/-- The bytes of a wave's part. -/
def saveWaveSize (regs : Nat) : Nat := 1024 + 128 * regs

/-- An operand-log entry (R194): every ACTIVE lane's operands. Of a load that still waits, FAULT and the code are zero (R200). -/
def saveLog (a : Access) : List Byte :=
  let bad := a.lanes.filter AccLane.bad
  let code := match bad with | l :: _ => l.flt.code + l.flt.cause * 2 ^ 8 | [] => 0
  let dst := match a.dst with | some (d, _) => d | none => 2 ^ 32 - 1
  padTo 64 (bytesOfNat 4 a.word.toNat ++ bytesOfNat 4 dst ++ bytesOfNat 8 a.pc.toNat ++ bytesOfNat 4 a.active.toNat ++
    bytesOfNat 4 (lanesWhere fun l => bad.any fun x => x.lane = l).toNat ++ bytesOfNat 8 a.seq ++ bytesOfNat 4 (code + a.abort.toNat * 2 ^ 16)) ++
  (List.range 32).flatMap fun l => match ((bad ++ a.lanes).find? fun x => x.lane = l) with
    | some x => padTo 32 (bytesOfNat 8 x.va ++ bytesOfNat 8 x.data.toNat ++ bytesOfNat 8 x.data2.toNat)
    | none => List.replicate 32 0

/-- Bits of the lines that satisfy a test, a bit a line, in 8-byte words (R202). -/
def lineBits (localg : Nat) (p : Nat → Bool) : List Byte :=
  (List.range (localg * 8)).map fun j => BitVec.ofNat 8 ((List.range 8).foldl (fun n b => n + (p (8 * j + b)).toNat * 2 ^ b) 0)

/-- The gang-local part of one workgroup. -/
def saveLocal (localg : Nat) (g : Gang) (wg : Nat) : List Byte :=
  let base := wg * 2 ^ 19
  g.bytes.getRange base (localg * 4096) ++ lineBits localg (fun i => !g.absent.contains (base / 64 + i)) ++
    lineBits localg fun i => g.tags.contains (base / 64 + i)

/-- A grog entry (R368). -/
def grogBits (e : Nat × Int) : Nat := e.1 % 2 ^ 16 + (e.2 % 1024).toNat * 2 ^ 16 + 2 ^ 31

/-- MXSTAT of a team with its tile, if it has one (R379). -/
def tileStat : Option Tile → Nat
  | none => 0
  | some t => t.peA % 16 + t.peB % 16 * 2 ^ 4 + 2 ^ 8 + t.frozen.isSome.toNat * 2 ^ 9 + t.scaled.toNat * 2 ^ 10 + t.trap.toNat * 2 ^ 11 +
      min t.passes 65535 * 2 ^ 16 + t.entries.length % 2 ^ 14 * 2 ^ 32 + min t.folds 65535 * 2 ^ 48

/-- A team's record in the matrix state (R380): `carry` has a bit for each member with a CARRY pending. -/
def saveTeam (team : Quad) (tile : Option Tile) (waiting : List MxEntry) (carry : Nat) (last : Bool) : List Byte :=
  let f (g : Tile → Nat) : Nat := match tile with | some t => g t | none => 0
  let z (g : Frozen → Nat) : Nat := match tile.bind fun t => t.frozen with | some x => g x | none => 0
  let decl := f fun t => t.gask + t.trap.toNat * 2 ^ 6 + t.scaled.toNat * 2 ^ 7 + t.slotA * 2 ^ 8 + t.slotB * 2 ^ 11 + t.granules * 2 ^ 16
  let freeze := z fun x => 1 + x.chunk * 2 + x.planeA * 2 ^ 2 + x.planeB * 2 ^ 6 + x.cell * 2 ^ 16
  padTo 128 (bytesOfNat 8 (tileStat tile) ++ bytesOfNat 8 team.toNat ++ bytesOfNat 4 (f Tile.n) ++ bytesOfNat 4 (f Tile.depth) ++
    bytesOfNat 4 (decl + last.toNat * 2 ^ 31) ++ bytesOfNat 4 (f Tile.aux) ++ bytesOfNat 4 freeze ++ bytesOfNat 4 (z fun x => x.word.toNat) ++
    bytesOfNat 28 (z fun x => natOfBytes (x.regs.flatMap fun r => bytesOfNat 4 r.toNat)) ++ bytesOfNat 4 (f Tile.passes) ++
    bytesOfNat 1 carry ++ bytesOfNat 1 waiting.length) ++
  (match tile with
    | none => []
    | some t => (t.cells.flatMap fun row => row.flatMap fun c => bytesOfNat 4 (c.signExtend 32).toNat) ++
        padTo (t.granules * 1024) (t.entries.flatMap fun e => bytesOfNat 4 (grogBits e))) ++
  waiting.flatMap fun e => padTo 32 (bytesOfNat 4 e.word.toNat ++ e.regs.flatMap fun r => bytesOfNat 4 r.toNat)

/-- The teams of a gang with matrix state: those with a tile and those with withdrawn entries. -/
def State.savedTeams (s : State) (gang : Nat) : List Quad :=
  (((s.eng.matrix.tiles.filter fun t => t.gang = gang).map (·.team)) ++ ((s.eng.matrix.withdrawn.filter fun e => e.gang = gang).map (·.team))).eraseDups

/-- The matrix state of a gang, as it is saved. -/
def State.saveMatrix (s : State) (gang : Nat) : List Byte :=
  let teams := s.savedTeams gang
  (List.range teams.length).flatMap fun k =>
    let team := teams.getD k 0
    let carry := (s.members gang team).foldl (fun n w => if w.engineTraps.any fun t => t.code = 7 then n + 2 ^ (bitsOf w.team.toNat 3 3) else n) 0
    saveTeam team (s.eng.matrix.tiles.find? fun t => t.gang = gang && t.team = team) (s.eng.matrix.withdrawn.filter fun e => e.gang = gang && e.team = team)
      carry (k + 1 = teams.length)

/-- The entries of the operand log that an area holds: of each wave in turn, what a trap has taken and the loads that still wait, by sequence number. -/
def State.savedLogs (s : State) (gang : Nat) : List Access :=
  (s.wavesOf gang).flatMap fun w => (s.flights.filter fun a => a.wave = w.id && a.isSaved).foldl (init := []) fun l a =>
    l.filter (fun (b : Access) => b.seq ≤ a.seq) ++ [a] ++ l.filter fun b => a.seq < b.seq

/-- The wake condition under which a wave is saved (R201): one whose next instruction waits for a load at pod or sys scope has KIND 6 and the index of that load's saved entry. -/
def State.savedWake (s : State) (gang : Nat) (w : Wave) : Quad :=
  if w.wake ≠ 0 || !w.alive then w.wake
  else match (s.modGang gang fun g => { g with leaving := none }).remoteWaited w with
    | some a => match (s.savedLogs gang).findIdx? fun b => b.id = a.id with
      | some k => wakeOf 6 k
      | none => 0
    | none => 0

/-- Where the trap records, the log entries, the gang-local part and the matrix state of an area begin. -/
structure SaveLayout where
  records : Nat
  logs : Nat
  locals_ : Nat
  matrix : Nat
deriving DecidableEq, Repr

/-- The layout of an area (R202). -/
def saveLayout (gr : Grid) (waves privs nlog : Nat) : SaveLayout :=
  let records := 256 + waves * saveWaveSize gr.regs
  let logs := records + 1024 * privs
  let locals_ := logs + 1088 * nlog
  ⟨records, logs, locals_, locals_ + gr.nwg * (gr.localg * 4096 + gr.localg * 16)⟩

/-- The trap record of a wave as its context holds it. -/
def State.savedRecord (s : State) (asid : Nat) (w : Wave) : List Byte := (s.recordBytes asid (s.traddr asid w)).1

/-- The trap records that a save of a gang reads. -/
def State.recordLooksOf (s : State) (gr : Grid) (gang : Nat) : List Look :=
  ((s.wavesOf gang).filter Wave.priv).map fun w => ⟨s.traddr gr.asid w, 1024, needRead, true⟩

/-- The whole save area of a gang (R202), in order: each part with its offset. -/
def State.saveArea (s : State) (gr : Grid) (ga : Gang) (full : Bool) : List Byte :=
  let ws := s.wavesOf ga.id
  let privs := ws.filter Wave.priv
  let logs := s.savedLogs ga.id
  let lay := saveLayout gr ws.length privs.length logs.length
  let mx := s.saveMatrix ga.id
  saveHeader gr ga full logs.length (if mx = [] then 0 else lay.matrix) ++
  (ws.flatMap fun w => saveWave gr.regs w (s.savedWake ga.id w)) ++
  (privs.flatMap fun w => s.savedRecord gr.asid w) ++
  logs.flatMap saveLog ++
  ((List.range gr.nwg).flatMap fun k => saveLocal gr.localg ga k) ++ mx

/-! ### Its place in the region -/

/-- The areas that a context's evicted gangs hold: address and size. -/
def State.heldAreas (s : State) (asid : Nat) : List (Nat × Nat) :=
  s.gangs.filterMap fun g => match s.grid? g.grid with
    | some gr => if gr.asid = asid then g.saved else none
    | none => none

/-- The lowest 4 KiB-aligned place of the save region where an area fits beside the others (R202; the device chooses the place). -/
def State.areaPlace (s : State) (asid size : Nat) : Option Nat :=
  let c := s.ctx asid
  let held := s.heldAreas asid
  let ends := c.svbase.toNat :: held.map fun h => ceilDiv (h.1 + h.2) 4096 * 4096
  let fits (a : Nat) : Bool := a + size ≤ c.svbase.toNat + c.svsize.toNat * 4096 && held.all fun h => !overlap h.1 h.2 a size
  (ends.filter fits).foldl (fun m a => match m with | none => some a | some b => some (min a b)) none

/-! ### Reading it back (R203) -/

/-- A wave's registers as its part of an area holds them. -/
def Wave.fromArea (w : Wave) (regs : Nat) (bs : List Byte) : Wave :=
  let lanes := List.range 32
  let q (o : Nat) : Quad := BitVec.ofNat 64 (natIn bs o 8)
  let w1 := (w.setPcs (BitVec.allOnes 32) fun l => q (8 * l)).setMeets (BitVec.allOnes 32) fun l => q (256 + 8 * l)
  let w2 := (List.range 7).foldl (init := w1) fun x k =>
    x.setP (BitVec.allOnes 32) (k + 1) (lanesWhere fun l => natIn bs (512 + l) 1 / 2 ^ k % 2 = 1)
  let counts := natIn bs 928 8
  { w2 with
    s := SMap.cells 0 ((List.range 96).map fun n => BitVec.ofNat 32 (natIn bs (544 + 4 * n) 4))
    v := w2.v.setMany ((List.range regs).flatMap fun n => lanes.map fun l => vKey l n) (fun k => k) fun k => BitVec.ofNat 32 (natIn bs (1024 + 128 * (k % 128) + 4 * (k / 128)) 4)
    ld := BitVec.ofNat 6 counts
    st := BitVec.ofNat 6 (counts / 2 ^ 6)
    cp := BitVec.ofNat 6 (counts / 2 ^ 12)
    tl := BitVec.ofNat 6 (counts / 2 ^ 18)
    tstat := BitVec.ofNat 64 (counts / 2 ^ 24 % 8)
    team := q 936
    time := q 944
    wake := q 952 }

/-- A logged access as its entry of an area holds it (R194); of a multi-destination store the entry holds the operands of one destination a lane, and the rest is the model's own. -/
def Access.fromArea (a : Access) (bs : List Byte) : Access :=
  let q (o : Nat) : Nat := natIn bs o 8
  { a with
    word := BitVec.ofNat 32 (natIn bs 0 4)
    pc := BitVec.ofNat 64 (q 8)
    active := BitVec.ofNat 32 (natIn bs 16 4)
    seq := q 24
    abort := natIn bs 34 1 % 2 = 1
    lanes := a.lanes.map fun l => match a.kind with
      | .multi _ _ => l
      | _ => { l with va := q (64 + 32 * l.lane), data := BitVec.ofNat 64 (q (72 + 32 * l.lane)), data2 := BitVec.ofNat 64 (q (80 + 32 * l.lane)) } }

/-- The gang-local space as an area holds it. -/
def Gang.fromArea (g : Gang) (gr : Grid) (bs : List Byte) : Gang :=
  let size := gr.localg * 4096 + gr.localg * 16
  let bits (o : Nat) (k : Nat) : List Nat := (List.range (gr.localg * 64)).filterMap fun i =>
    if natIn bs (k * size + o + i / 8) 1 / 2 ^ (i % 8) % 2 = 1 then some (k * 2 ^ 13 + i) else none
  { g with
    bytes := (List.range gr.nwg).foldl (fun m k => m.setRange (k * 2 ^ 19) ((bs.drop (k * size)).take (gr.localg * 4096))) []
    absent := (List.range gr.nwg).flatMap fun k =>
      let there := bits (gr.localg * 4096) k
      ((List.range (gr.localg * 64)).map fun i => k * 2 ^ 13 + i).filter fun l => !there.contains l
    tags := (List.range gr.nwg).flatMap fun k => bits (gr.localg * 4096 + gr.localg * 8) k }

end Sys2Proof.Machine
end

