-- ==== Sys2Proof/Machine/SchedEvents.lean ====
section
/-! DEFINITION. Quanta (R161), eviction (R185, R200 to R202, R348), forced saves (R204) and restores (R203, R381). -/

namespace Sys2Proof.Machine

/-! ### Quanta -/

/-- A gang expires: its waves in masked handlers hold the request (R161, R204). -/
def State.expire (s : State) (gang : Nat) : State :=
  { s.modGang gang fun g => { g with expired := some s.cycle.toNat } with
    waves := s.waves.map fun w => if w.gang = gang then w.holdRequest true s.cycle.toNat else w }

/-- The quantum of a class in cycles (R161): quarters of a millisecond at 1.3 GHz. -/
def State.quantumOf (s : State) (cls : Nat) : Nat := (s.quanta.get cls).toNat * 325000

/-- QUANTUM_EXPIRY (R161). -/
def execQuantumExpiry (gang : Nat) (s : State) : Host.Outcome State Fault Refusal :=
  event "QUANTUM_EXPIRY" ((s.gang? gang).bind fun g => (s.grid? g.grid).bind fun gr =>
    if g.resident && g.expired.isNone && s.fifo ≠ [] && g.placedAt + s.quantumOf gr.cls ≤ s.cycle.toNat then some (s.expire gang) else none)

/-! ### What must be over before a gang is saved (R200) -/

/-- Every lane of the access that is not over waits at its home for room in a full operation-order log (R205). -/
def State.orderHeld (s : State) (a : Access) : Bool :=
  !a.isOver && (s.wave? a.wave).any fun w => a.lanes.all fun l => l.status = .done || s.orderFull a w l

/-- The access does not stand against a save: it is performed, it waits in the operand log or at a blocking point of R205, or it is a load at pod or sys scope that still waits. A release fence holds what follows it after the restore too. -/
def State.savable (s : State) (a : Access) : Bool :=
  a.counter = 0 && a.lanes = [] || ((a.lanes.any fun l => l.waits a.taken) && a.lanes.all fun l => l.settled a.taken true) || s.remoteLoad a || s.orderHeld a

/-- The gang can be saved now: what it issued is over as R200 asks, no trap waits at a boundary that comes first (R204), and no wave stands between a hint word and its instruction. Loads that still wait are saved only as far as the operand log of a core has entries for them: a gang that needs more could not be restored (R203 does not say; DESIGN CHOICE, log entry 91). -/
def State.quiet (s : State) (gang : Nat) : Bool :=
  let ws := s.wavesOf gang
  let mine (id : Nat) : Bool := ws.any fun w => w.id = id
  s.isResident gang && (s.flights.all fun a => !mine a.wave || s.savable a) && (s.eng.queries.all fun q => !mine q.wave) && (s.eng.syncs.all fun q => !mine q.wave) &&
    (s.eng.copies.all fun c => c.gang ≠ gang) && (s.eng.matrix.running.all fun e => e.gang ≠ gang) &&
    ws.all fun w => logHolds (s.logNeed gang w.wg false) (s.logNeed gang w.wg true) && w.txTodo = 0 && (w.inSync || !s.trapDue w) && (w.hints = [] || w.waiting.isSome || !w.alive)

/-! ### Saving -/

/-- A wave as its save leaves it: open transactions have failed (R348), a lost-ray mark is gone (R399), and a held request is met. -/
def Wave.saving (w : Wave) : Wave :=
  { w.setTstat w.tm w.priv false with txAbort := w.txAbort ||| w.txIn, txSet := [], rayLost := false, heldSince := none }

/-- The gang's entries withdrawn from the reservation table in posting order (R185). -/
def State.withdrawEntries (s : State) (gang : Nat) : State :=
  s.modMatrix fun m => { m with
    table := m.table.filter fun e => e.gang ≠ gang
    withdrawn := m.withdrawn ++ (m.table.filter fun e => e.gang = gang).map fun e => { e with pages := [] } }

/-- The gang off its cores, with its area in the save region: it enters the FIFO's tail (R177). -/
def State.putAway (s : State) (gang area size : Nat) : State :=
  let ws := s.wavesOf gang
  let mine (id : Nat) : Bool := ws.any fun w => w.id = id
  { s.modGang gang fun g => { g with resident := false, cores := [], expired := none, leaving := none, saved := some (area, size) } with
    waves := s.waves.map fun w => if w.gang = gang then { w with wake := s.savedWake gang w } else w
    flights := s.flights.map fun a => if mine a.wave then
        { a with lanes := a.lanes.map fun l => if l.status = .ready then { l with status := .fresh } else l } else a
    fifo := s.fifo ++ [.gang gang] }

/-- A gang whose area does not fit, or cannot be written, stays resident: its waves go on with a new quantum, those whose line came meanwhile among them (R59), and the kiln logs the event (R202). -/
def State.stayOn (s : State) (gr : Grid) (ga : Gang) (size : Nat) : State :=
  let s1 := s.modGang ga.id fun g => { g with expired := none, leaving := none, placedAt := s.cycle.toNat }
  let ids := (s.wavesOf ga.id).map (·.id)
  ((s1.modWaves ids fun w => { w.setTstat w.tm w.priv false with heldSince := none, wake := if w.hasYielded then 0 else w.wake }).wakePresent ga.id).logEvent 1 gr.asid gr.launchId ga.index size

/-- A gang saved and evicted. -/
def State.evict (s : State) (gang : Nat) (full : Bool) : State :=
  match s.gang? gang with
  | none => s
  | some ga => match s.grid? ga.grid with
    | none => s
    | some gr =>
      let s1 := (s.modWaves ((s.wavesOf gang).map (·.id)) Wave.saving).withdrawEntries gang
      let bytes := s1.saveArea gr ga full
      match s1.areaPlace gr.asid bytes.length with
      | none => s.stayOn gr ga bytes.length
      | some a => match (s1.noteReads gr.asid (s1.recordLooksOf gr gang)).ctxWrite gr.asid a bytes needWrite true none with
        | .error _ => s.stayOn gr ga bytes.length
        | .ok s2 => (s2.putAway gang a bytes.length).distribute

/-- A wave of the gang stays at a yield until its gang is evicted (R319). -/
def State.hasYielded (s : State) (gang : Nat) : Bool := (s.wavesOf gang).any Wave.hasYielded

/-- A gang that is to leave (R200): it is saved once everything that must complete first has; until then its waves issue nothing more. -/
def State.leave (s : State) (ga : Gang) (full : Bool) : Option State :=
  if s.quiet ga.id then some (s.evict ga.id full)
  else if ga.leaving.isSome || !ga.resident then none
  else some (s.modGang ga.id fun g => { g with leaving := some s.cycle.toNat })

/-- Some wave of the gang has traps masked, so that a pre-emption request is held (R204). -/
def State.masked (s : State) (gang : Nat) : Bool := (s.wavesOf gang).any fun w => w.alive && w.tm

/-- A pre-emption request comes to the waves of a gang that have traps masked; none where they hold it already (R204). It came when the gang expired, else now. -/
def State.request (s : State) (gang : Nat) : Option State :=
  if (s.wavesOf gang).any fun w => w.alive && w.tm && !w.prepend then
    some { s with waves := s.waves.map fun w => if w.gang = gang && w.alive then w.holdRequest true ((s.requestedAt gang).getD s.cycle.toNat) else w }
  else none

/-- GANG_EVICTION (R160, R161, R204): a gang all of whose waves are at blocking points, when it has expired, the FIFO's head needs its room, or a wave of it has yielded. -/
def execGangEviction (gang : Nat) (s : State) : Host.Outcome State Fault Refusal :=
  event "GANG_EVICTION" ((s.gang? gang).bind fun g =>
    if g.leaving.isSome || (s.gangBlocked g && (g.expired.isSome || s.headNeeds gang || s.hasYielded gang)) then
      (if s.masked gang then s.request gang else s.leave g (!s.gangBlocked g))
    else none)

/-- FORCED_SAVE (R161): 130,000 cycles after a gang expired, while none of its waves holds the request. -/
def execForcedSave (gang : Nat) (s : State) : Host.Outcome State Fault Refusal :=
  event "FORCED_SAVE" ((s.gang? gang).bind fun g => g.expired.bind fun t =>
    if t + 130000 ≤ s.cycle.toNat then (if s.masked gang then s.request gang else s.leave g true) else none)

/-- PREEMPT_HOLD_TIMEOUT (R204): a request has been held for 2^20 cycles. -/
def execPreemptHoldTimeout (gang : Nat) (s : State) : Host.Outcome State Fault Refusal :=
  event "PREEMPT_HOLD_TIMEOUT" ((s.gang? gang).bind fun g =>
    if (s.wavesOf gang).any fun w => w.alive && (match w.heldSince with | some t => decide (t + 2 ^ 20 ≤ s.cycle.toNat) | none => false)
      then s.leave g true else none)

/-! ### Restoring (R203) -/

/-- A wave of a gang that comes back, on its new core: what its part of the area holds, except that a barrier that was released meanwhile has been left. A load that still waits holds the words that need it, so KIND 6 is over, and so are a yield and the wait for a line or for a translation that is there by now. -/
def State.bringWave (s : State) (gr : Grid) (first : Nat) (w : Wave) (bs : List Byte) : State :=
  let w0 := w.fromArea gr.regs bs
  let w1 := match gr.vox with | some m => s.enterTranslated m (gr.regs - 16) w0 | none => w0
  let core := first + w.wg
  let placed (x : Wave) : Wave := { x with core, slot := s.freeSlot core (w.index % 4), lastIssue := s.cycle.toNat, stallUntil := 0 }
  let w2 : Wave :=
    if w.alive && w.wake = 0 && (w1.wakeKind = 1 || w1.wakeKind = 2) then { w1.leave 0 s.cycle.toNat with time := w.time }
    else if w1.wakeKind = 4 && w.wakeKind = 8 then { w1 with wake := w.wake, time := w.time }
    else if w1.wakeKind = 5 && (s.gang? w.gang).any (fun g => !g.absent.contains (bitsOf w1.wake.toNat 4 28)) then w1.withdraw
    else if w1.wakeKind = 6 || w1.hasYielded then { w1 with wake := 0 }
    else w1
  s.modWave w.id fun _ => placed w2

/-- A saved access as its entry of the area holds it, placed in the lowest free entry of its new core (R203): a handler's in one of the four kept ones first, another's in one of the 28 (R198). -/
def State.bringLog (s : State) (core : Nat) (a : Access) (bs : List Byte) : State :=
  let used := s.logUsed core
  let order := if a.privileged then [28, 29, 30, 31] ++ List.range 28 else List.range 32
  s.modFlight a.id fun x => { x.fromArea bs with core, log := order.find? fun n => !used.contains n }

/-- LOGMASK rewritten to the entries that the accesses of a wave hold now (R203). -/
def State.newLogmask (s : State) (old : List Access) (wave mask : Nat) : Nat :=
  ((old.filter fun a => a.wave = wave && a.taken && match a.log with | some n => mask.testBit n | none => false).filterMap fun a =>
    (s.flight? a.id).bind fun x => x.log).foldl (fun m n => m ||| 2 ^ n) 0

/-- The trap records copied to the waves' new TRADDR; none where one cannot be written. -/
def State.bringRecords (s : State) (asid : Nat) (old : List Access) : List (Wave × List Byte) → Option State
  | [] => some s
  | (w, bs) :: rest =>
    match s.wave? w.id with
    | none => s.bringRecords asid old rest
    | some x =>
      let mask := s.newLogmask old w.id (natIn bs 28 4)
      match s.ctxWrite asid (s.traddr asid x) (bs.take 28 ++ bytesOfNat 4 mask ++ bs.drop 32) needWrite true (some x.core) with
      | .error _ => none
      | .ok t => t.bringRecords asid old rest

/-- The gang's tiles on their new engine, and its withdrawn entries posted again in their old order (R185, R381). -/
def State.bringMatrix (s : State) (gang quad : Nat) : State :=
  s.modMatrix fun m =>
    let back := m.withdrawn.filter fun e => e.gang = gang
    { m with
      tiles := m.tiles.map fun t => if t.gang = gang then { t with quad } else t
      withdrawn := m.withdrawn.filter fun e => e.gang ≠ gang
      table := m.table ++ (List.range back.length).filterMap fun k => (back[k]?).map fun e => { e with quad, order := m.nextOrder + k }
      nextOrder := m.nextOrder + back.length }

/-- A gang restored from its area on the cores from a first one on (R203, R214). The L1s of its new cores are invalidated, so that what its waves acquired before the save stays acquired (R125). -/
def State.bringBack (s : State) (gr : Grid) (ga : Gang) (first : Nat) (area : List Byte) : Option State :=
  let ws := s.wavesOf ga.id
  let old := s.savedLogs ga.id
  let lay := saveLayout gr ws.length (ws.filter Wave.priv).length old.length
  let part (lo n : Nat) : List Byte := (area.drop lo).take n
  let s1 := s.modGang ga.id fun g => { g.fromArea gr (area.drop lay.locals_) with
    cores := (List.range gr.nwg).map (first + ·), resident := true, placedAt := s.cycle.toNat, expired := none, leaving := none, saved := none
    plres := BitVec.ofNat 64 (natIn area 28 4), fpc := (s.ctx gr.asid).fpc }
  -- while the waves are placed one after another, those not placed yet hold no slot
  let away : State := { s1 with waves := s1.waves.map fun w => if w.gang = ga.id then { w with core := 384 } else w }
  let s2 := (List.range ws.length).foldl (init := away) fun t k => match ws[k]? with
    | some w => t.bringWave gr first w (part (256 + k * saveWaveSize gr.regs) (saveWaveSize gr.regs))
    | none => t
  let moved : State := { s2 with flights := s2.flights.map fun a => match (s2.wave? a.wave).filter fun w => w.gang = ga.id with
      | some w => { a with core := w.core, log := none }
      | none => a }
  let fresh := (List.range gr.nwg).foldl (init := moved) fun t k => t.invalidateL1 (first + k)
  let s3 := (List.range old.length).foldl (init := fresh) fun t k => match old[k]? with
    | some a => match t.wave? a.wave with
      | some w => t.bringLog w.core a (part (lay.logs + 1088 * k) 1088)
      | none => t
    | none => t
  let privs := ws.filter Wave.priv
  let recs := (List.range privs.length).filterMap fun k => (privs[k]?).map fun w => (w, part (lay.records + 1024 * k) 1024)
  (s3.bringRecords gr.asid old recs).map fun t => t.bringMatrix ga.id (quadOf first)

/-- GANG_RESTORE (R177, R203): the evicted gang at the FIFO's head is placed where it fits. -/
def execGangRestore (gang : Nat) (s : State) : Host.Outcome State Fault Refusal :=
  event "GANG_RESTORE" (match s.fifo with
    | .gang id :: rest =>
      if id ≠ gang then none
      else (s.gang? id).bind fun ga => ga.saved.bind fun at_ => (s.grid? ga.grid).bind fun gr => (s.choose gr ga).bind fun first =>
        match s.ctxRead gr.asid at_.1 at_.2 needRead true with
        | .error _ => none
        | .ok (bs, s1) => (({ s1 with fifo := rest }).bringBack gr ga first bs).map State.distribute
    | _ => none)

end Sys2Proof.Machine
end

