-- ==== Sys2Proof/Machine/Completions.lean ====
section
/-! DEFINITION. Submission queues and completion queues (R482, R484, R485), held events (R487), and the claims of commands (R170). -/

namespace Sys2Proof.Machine

/-! ### Completion queues -/

/-- A completion queue by its number. -/
def State.comp? (s : State) (id : Nat) : Option CompQueue := s.host.comps.find? fun q => q.id = id

/-- The state with a completion queue changed. -/
def State.modComp (s : State) (id : Nat) (f : CompQueue → CompQueue) : State :=
  s.modHost fun h => { h with comps := h.comps.map fun q => if q.id = id then f q else q }

/-- An MSI-X vector signalled (R477). -/
def State.signal (s : State) (vector : Nat) : State := s.modHost fun h => { h with msix := h.msix.set vector (h.msix.get vector + 1) }

/-- A completion entry without its PHASE bit (R484). -/
def completionEntry (status cstat tag sq ident : Nat) : BitVec 128 :=
  BitVec.ofNat 128 (status * 2 ^ 4 + cstat * 2 ^ 8 + tag % 2 ^ 16 * 2 ^ 16 + sq % 2 ^ 8 * 2 ^ 32 + ident % 2 ^ 64 * 2 ^ 64)

/-- The ring of a completion queue has room: DTAIL − HEAD is below 2^LOG2N (R485). -/
def State.compRoom (s : State) (q : CompQueue) : Bool := (q.tail + 2 ^ 32 - s.natAt q.header 4) % 2 ^ 32 < 2 ^ q.log2

/-- PHASE of the entry at an index (R486). -/
def phaseOf (index log2 : Nat) : Nat := (index / 2 ^ log2 + 1) % 2

/-- One entry written, then DTAIL advanced; the vector is signalled when COUNT entries stand unsignalled (R485). -/
def State.writeEntry (s : State) (q : CompQueue) (e : BitVec 128) : State :=
  let s1 := (s.putNat (q.header + 64 + 16 * (q.tail % 2 ^ q.log2)) 16 (e.toNat + phaseOf q.tail q.log2)).putNat (q.header + 4) 4 (q.tail + 1)
  let full := q.count ≤ q.unsignalled + 1
  let s2 := s1.modComp q.id fun x => { x with
    tail := (q.tail + 1) % 2 ^ 32
    unsignalled := if full then 0 else q.unsignalled + 1
    oldest := if q.unsignalled = 0 then s.cycle.toNat else q.oldest }
  if full then s2.signal q.vector else s2

/-- The held entries of a queue written in order while there is room (R485). -/
def State.flushComp (s : State) (id : Nat) : Nat → State
  | 0 => s
  | n + 1 => match s.comp? id with
    | none => s
    | some q => match q.held with
      | [] => s
      | e :: es => if s.compRoom q then ((s.modComp id fun x => { x with held := es }).writeEntry { q with held := es } e).flushComp id n else s

/-- A completion that has become due (R485). -/
def State.complete (s : State) (cq : Nat) (e : BitVec 128) : State :=
  let s1 := s.modComp cq fun q => { q with held := q.held ++ [e] }
  s1.flushComp cq (match s1.comp? cq with | some q => q.held.length | none => 0)

/-- HELD_COMPLETION (R485): the host has advanced HEAD, and held completions are written. -/
def execHeldCompletion (queue : Nat) (s : State) : Host.Outcome State Fault Refusal :=
  event "HELD_COMPLETION" ((s.comp? queue).bind fun q => if q.held ≠ [] && s.compRoom q then some (s.flushComp queue q.held.length) else none)

/-- CQ_TIMER (R485): TIMER microseconds have passed since the oldest unsignalled entry was written. -/
def execCqTimer (queue : Nat) (s : State) : Host.Outcome State Fault Refusal :=
  event "CQ_TIMER" ((s.comp? queue).bind fun q =>
    if q.unsignalled ≠ 0 && q.oldest + q.timer * 1300 ≤ s.cycle.toNat then some ((s.modComp queue fun x => { x with unsignalled := 0 }).signal q.vector) else none)

/-- HELD_EVENT_WRITE (R487): the oldest held event is written, once the ring has room and its fault slot is free. -/
def execHeldEventWrite (s : State) : Host.Outcome State Fault Refusal :=
  event "HELD_EVENT_WRITE" (match s.host.events with
    | e :: es => if s.eventReady e then some ((s.modHost fun h => { h with events := es }).writeEvent e) else none
    | [] => none)

/-! ### Submission queues -/

/-- A submission queue by its number. -/
def State.sub? (s : State) (id : Nat) : Option SubQueue := s.host.subs.find? fun q => q.id = id

/-- COMMAND_CLAIM (R170, R482): an agent's atomic add at the counter's home takes the next entry, only while CLAIM is below TAIL. A poisoned line that it reads is met for the queue's context (R495). -/
def execCommandClaim (queue : Nat) (s : State) : Host.Outcome State Fault Refusal :=
  event "COMMAND_CLAIM" ((s.sub? queue).bind fun q =>
    let (h, s0) := s.kilnRead q.asid q.header 8
    let tail := natIn h 0 4
    let claim := natIn h 4 4
    if tail = claim then (if (s.poisoned q.header 8).isSome then some s0 else none)
    else
      let (e, s1) := s0.kilnRead q.asid (q.header + 64 + 64 * (claim % 2 ^ q.log2)) 64
      let (id, s2) := s1.newId
      some ((s2.putNat (q.header + 4) 4 (claim + 1)).modHost fun x => { x with commands := x.commands ++ [⟨id, queue, q.asid, BitVec.ofNat 512 (natOfBytes e)⟩] }))

/-! ### Commands -/

/-- OP of an entry (R482). -/
def Command.op (c : Command) : Nat := bitsOf c.entry.toNat 0 8
/-- TAG of an entry. -/
def Command.tag (c : Command) : Nat := bitsOf c.entry.toNat 16 16
/-- ADDR of an entry. -/
def Command.addr (c : Command) : Nat := bitsOf c.entry.toNat 64 64
/-- A must-be-zero field of an entry is not zero, or its OP is not listed (R482). -/
def Command.bad (c : Command) : Bool :=
  c.op = 0 || 7 < c.op || bitsOf c.entry.toNat 8 8 ≠ 0 || bitsOf c.entry.toNat 32 32 ≠ 0 || bitsOf c.entry.toNat 128 384 ≠ 0

/-- The default completion queue of a submission queue. -/
def State.subCq (s : State) (queue : Nat) : Nat := match s.sub? queue with | some q => q.cq | none => 256

/-- The completion of a command that is no launch: to its queue's default CQ (R482, R484). -/
def State.answer (s : State) (queue tag addr cstat : Nat) : State := s.complete (s.subCq queue) (completionEntry 0 cstat tag queue addr)

/-- A claimed command run: the oldest of its queue, with the OP of the row; it is taken off the list first. -/
def runCommand (row : String) (id : Nat) (ok : Command → Bool) (run : Command → State → Option State) (s : State) : Host.Outcome State Fault Refusal :=
  event row ((s.host.commands.find? fun c => c.id = id).bind fun c =>
    if (s.host.commands.find? fun x => x.queue = c.queue) ≠ some c || !ok c then none
    else run c (s.modHost fun h => { h with commands := h.commands.filter fun x => x.id ≠ id }))

/-- UNLISTED_OP (R482): performs nothing and completes with BADCMD. -/
def execUnlistedOp (id : Nat) (s : State) : Host.Outcome State Fault Refusal :=
  runCommand "UNLISTED_OP" id Command.bad (fun c t => some (t.answer c.queue c.tag c.addr 1)) s

end Sys2Proof.Machine
end

