-- ==== Sys2Proof/Machine/Convert.lean ====
section
/-! DEFINITION. Conversions, pack and unpk (R218, R221, R303 to R305). -/

namespace Sys2Proof.Machine

/-- A type code (R278): an integer of a width, signed or not, or a format. -/
inductive CvtType where
  | int (signed : Bool) (n : Nat)
  | float (f : FFmt)
deriving DecidableEq, Repr

/-- The type of a 4-bit code (R278). -/
def cvtType (code : Nat) : CvtType :=
  if code ≤ 3 then .int true (8 * 2 ^ code)
  else if code ≤ 7 then .int false (8 * 2 ^ (code - 4))
  else if code = 8 then .float f16 else if code = 9 then .float bf16 else if code = 10 then .float f32 else .float f64

/-- A floating source code (R303). -/
def cvtSource (code : Nat) : FFmt := match code with | 0 => f16 | 1 => bf16 | 2 => f32 | _ => f64

/-- An integer as a result of a type's width, extended into its register or pair (R207, R303). -/
def intBits (signed : Bool) (n : Nat) (x : Int) : Quad := extend signed n (BitVec.ofInt 64 x)

/-- What cvt writes for a floating value beyond an integer type, or a NaN, under F2I = 1 (R218). -/
def legacyInt (n : Nat) : Int := 2 ^ (n - 1)

/-- Float to integer (R218); a sat hint overrides F2I and turns a NaN into 0 (R303). -/
def Fpc.toInt (c : Fpc) (f : FFmt) (mode : RMode) (sat signed : Bool) (n x0 : Nat) : Quad :=
  let x := c.input f x0
  let legacy := c.f2i && !sat
  if f.isNan x then intBits signed n (if legacy then legacyInt n else 0)
  else match f.value x with
    | .inf neg => intBits signed n (if legacy then legacyInt n else if neg then intMin signed n else intMax signed n)
    | .fin neg m e =>
      let k := roundInt mode neg m e
      if intMin signed n ≤ k ∧ k ≤ intMax signed n then intBits signed n k
      else intBits signed n (if legacy then legacyInt n else clampInt signed n k)

/-- Float to float (R221): widened exactly or rounded; a NaN by R211. -/
def Fpc.toFloat (c : Fpc) (f g : FFmt) (mode : RMode) (x0 : Nat) : Nat :=
  let x := c.input f x0
  if f.isNan x then (if c.nanp then quietAs f g x else g.nan) else c.output g (g.roundVal mode (f.value x))

/-- An integer source read from its register or pair (R303). -/
def intSource (code : Nat) (x : Quad) : Int :=
  match cvtType code with
  | .int true n => signedOf n x.toNat
  | .int false n => (x.toNat % 2 ^ n : Nat)
  | .float _ => 0

/-- Integer to a type (R221). -/
def Fpc.fromInt (c : Fpc) (mode : RMode) (sat : Bool) (t : CvtType) (x : Int) : Quad :=
  match t with
  | .int signed n => intBits signed n (if sat then clampInt signed n x else x)
  | .float g => BitVec.ofNat 64 (c.output g (g.round mode (x < 0) x.natAbs 1))

/-- A cvt result written to a register or a pair, as its target type is wide (R303). -/
def Ctx.putCvt (c : Ctx) (code d : Nat) (f : Nat → Quad) (s : State) : State :=
  if typeWide code then c.putV2 d f s else c.putV d (fun l => lo32 (f l)) s

/-- cvt from an integer type (R303). -/
def execCvtFromInteger (f : FmtCvt) (s : State) := issueOk (.cvtFromInteger f) s fun c => c.putCvt f.t.toNat f.d.toNat fun l =>
  let x : Quad := if typeWide f.u.toNat then c.src2 (classOf f.s) f.b.toNat l else (c.src1 c.vimm (classOf f.s) f.b.toNat 1 l).setWidth 64
  c.fpc.fromInt c.mode c.hints.sat.isSome (cvtType f.t.toNat) (intSource f.u.toNat x)

/-- cvt from a floating type (R303). -/
def execCvtFromFloat (f : FmtCvtF) (s : State) := issueOk (.cvtFromFloat f) s fun c => c.putCvt f.t.toNat f.d.toNat fun l =>
  let src := cvtSource f.u.toNat
  let x : Quad := if f.u = 3 then c.src2 (classOf f.s) f.b.toNat l else (c.src1 c.vimm (classOf f.s) f.b.toNat 1 l).setWidth 64
  let v := x.toNat % 2 ^ (src.top + 1)
  match cvtType f.t.toNat with
  | .int signed n => c.fpc.toInt src c.mode c.hints.sat.isSome signed n v
  | .float g => BitVec.ofNat 64 (c.fpc.toFloat src g c.mode v)

/-- Narrow16 (R304). -/
def narrow16 (sat : Option (BitVec 1)) (x : Word) : BitVec 16 :=
  match sat with
  | none => x.extractLsb' 0 16
  | some p => BitVec.ofInt 16 (clampInt (p = 1) 16 x.toInt)

/-- pack (R304). -/
def execPack (f : FmtR) (s : State) := aluR (.pack f) f s fun c a b _ => narrow16 c.hints.sat b ++ narrow16 c.hints.sat a

/-- unpk (R305). -/
def execUnpk (f : FmtUnpk) (s : State) := issueOk (.unpk f) s fun c t =>
  if f.d.toNat = 124 then t
  else
    let n := if f.m.toNat < 2 then 16 else 8
    (List.range (32 / n)).foldl (init := t) fun u k => c.putV (f.d.toNat + k) (fun l =>
      extendReg (f.m.toNat % 2 = 0) n (BitVec.ofNat 32 (bitsOf (c.src1 c.vimm (classOf f.s) f.b.toNat 1 l).toNat (n * k) n))) u

end Sys2Proof.Machine
end

