-- ==== Sys2Proof/Machine/Copy.lean ====
section
/-! DEFINITION. The copy engine: commands at issue (R132, R382 to R388, R391), the arrival of destination pieces (R59, R101, R223, R224, R385 to R387), completion and the copy report (R389, R390), and queue fences (R119). -/

namespace Sys2Proof.Machine

/-! ### The control word and the operands (R384 to R387) -/

/-- SPACE. -/
def Copy.space (c : Copy) : Nat := bitsOf c.ctrl.toNat 0 2
/-- CONV. -/
def Copy.conv (c : Copy) : Nat := bitsOf c.ctrl.toNat 2 2
/-- SLOT. -/
def Copy.slotIx (c : Copy) : Nat := bitsOf c.ctrl.toNat 4 3
/-- ROLE is operand B. -/
def Copy.roleB (c : Copy) : Bool := c.ctrl.getLsbD 7
/-- TRN. -/
def Copy.trn (c : Copy) : Bool := c.ctrl.getLsbD 8
/-- SB0. -/
def Copy.sb0 (c : Copy) : Nat := bitsOf c.ctrl.toNat 9 15
/-- The format slot. -/
def Copy.slot (c : Copy) : Slot := Slot.of c.fmt
/-- The source is global. -/
def Copy.fromGlobal (c : Copy) : Bool := c.space = 0 || c.space = 2
/-- The destination is global. -/
def Copy.toGlobal (c : Copy) : Bool := c.space = 1 || c.space = 2
/-- A list's first two words as an address. -/
def pairIn (l : List Word) : Nat := (pairOf (l.getD 0 0) (l.getD 1 0)).toNat
/-- The source address or offset. -/
def Copy.srcAt (c : Copy) : Nat := if c.fromGlobal then pairIn c.src else (c.src.getD 0 0).toNat
/-- The destination address or offset of a plain copy. -/
def Copy.dstAt (c : Copy) : Nat := if c.toGlobal then pairIn c.dst else (c.dst.getD 0 0).toNat
/-- L, the lines of a conversion. -/
def Copy.lines (c : Copy) : Nat := bitsOf c.count.toNat 0 10
/-- KB, its K blocks. -/
def Copy.blocks (c : Copy) : Nat := bitsOf c.count.toNat 10 22
/-- The source pitch. -/
def Copy.pitch (c : Copy) : Nat := (c.dst.getD 3 0).toNat
/-- The destination layout of a conversion. -/
def Copy.layout (c : Copy) : Option Layout := layoutIn c.dst 0
/-- The planes that a conversion writes (R386, R387). -/
def Copy.planesOut (c : Copy) : Nat := if c.conv = 3 then c.slot.pr else c.slot.ps
/-- The bytes of a source element. -/
def Copy.esize (c : Copy) : Nat := if c.conv = 2 then 1 else if c.slot.kind = 1 then 4 else 2

/-- A destination chunk of a conversion: line, plane, block and offset. -/
structure Chunk where
  i : Nat
  p : Nat
  j : Nat
  at_ : Nat
deriving DecidableEq, Repr

/-- The destination chunks of a conversion. -/
def Copy.chunks (c : Copy) : List Chunk :=
  match c.layout with
  | none => []
  | some l => (List.range c.lines).flatMap fun i => (List.range c.planesOut).flatMap fun p => (List.range c.blocks).map fun j => ⟨i, p, j, l.at_ i p j⟩

/-- The pieces of a command's destination: of a plain copy, the parts of its range that no line boundary cuts; of a conversion, its lines. -/
def Copy.pieces (c : Copy) : List (Nat × Nat) :=
  if c.fence.isSome then []
  else if c.conv = 0 then Machine.pieces c.dstAt c.count.toNat
  else (c.chunks.map fun k => k.at_ / 64).eraseDups.map fun l => (l * 64, 64)

/-- The gang-local lines that a command writes (R59). -/
def Copy.dstLines (c : Copy) : List Nat := if c.fence.isSome || c.toGlobal then [] else c.pieces.map fun p => p.1 / 64

/-- Every piece has arrived. -/
def Copy.allArrived (c : Copy) : Bool := (List.range c.pieces.length).all fun k => c.arrived.contains k

/-- The index in the scale buffer of the block that element (i, k) lies in (R386). -/
def Copy.scaleIx (c : Copy) (i j : Nat) : Nat := if c.roleB then i / 128 + 4 * (c.sb0 + j / 2) else i + 128 * (c.sb0 + j / 2)

/-! ### Checks at issue (R388) -/

/-- A control word breaks its table (R384). -/
def Copy.ctrlBad (c : Copy) : Bool :=
  bitsOf c.ctrl.toNat 24 8 ≠ 0 || (c.conv ≠ 0 && c.space ≠ 0) || (c.conv = 0 && bitsOf c.ctrl.toNat 4 20 ≠ 0) ||
    (c.sb0 ≠ 0 && !(c.conv = 1 && c.slot.scl = 2))

/-- A plain copy's register fields (R385): a global operand is an even pair. -/
def Copy.regsBad (c : Copy) (d s : Nat) : Bool :=
  if c.conv = 0 then (c.toGlobal && d % 2 = 1) || (c.fromGlobal && s % 2 = 1)
  else 28 < d || (c.conv ≠ 3 && s % 2 = 1)

/-- A conversion's fields (R386, R387), apart from its layout's alignments. -/
def Copy.convBad (c : Copy) : Bool :=
  !c.slot.ok || !layoutFits (c.dst.getD 0 0) (c.dst.getD 2 0) || c.lines = 0 || (if c.roleB then 512 else 128) < c.lines || c.blocks = 0 ||
    (c.conv = 1 && (c.slot.kind = 0 || (c.slot.scl = 2 && c.blocks % 2 = 1))) || (c.conv = 2 && c.slot.kind ≠ 0)

/-- A tensor entry that a CONV 3 copy may not name (R387). -/
def Entry.notTensor (e : Entry) (sl : Slot) : Bool :=
  e.kind ≠ 4 || e.planes ≠ sl.ps || e.signed ≠ sl.sgn ||
    (!e.lodr && (e.f 160 96 ≠ 0 || e.f 261 27 ≠ 0 || e.f 384 128 ≠ 0 || e.planes < 2 || 8 < e.planes))

/-- The highest scale index that a command uses, plus one; zero where it uses no scale buffer. -/
def Copy.scaleEnd (c : Copy) : Nat :=
  if c.conv ≠ 1 || c.slot.scl = 0 then 0
  else if c.slot.scl = 1 then 1
  else c.scaleIx (c.lines - 1) (c.blocks - 1) + 1

/-- A slot with SCL 1 or 2 must name an entry of KIND 1, whatever use is made of it (R357); with CONV 1 the entry must also pass R44 and hold the scales, RESIDX (R388). -/
def Copy.scaleEntry (c : Copy) (gr : Grid) (core : Nat) (st : State) : Except Failed (BitVec 512 × State) :=
  if c.slot.scl = 0 then .ok (0, st)
  else match st.resource gr core c.slot.sres c.privileged with
    | .error f => if c.conv = 1 || f.1.held then .error f else .ok (0, st)
    | .ok (e, s1) =>
      if e.kind ≠ 1 then .error (⟨0, 0, false⟩, 0, s1)
      else if c.conv = 1 && e.size < 4 * c.scaleEnd then .error (pageFault 7, (gr.restab + 64 * c.slot.sres) % 2 ^ 64, s1)
      else .ok (e, s1)

/-- The checks of cpy, with the resource entry that it uses (R388). The alignments of R386 are those of its layout. -/
def Copy.check (c : Copy) (gr : Grid) (core d s : Nat) (st : State) : Except Failed (BitVec 512 × State) := do
  must st (!c.ctrlBad && !c.regsBad d s && (c.conv = 0 || !c.convBad))
  if c.conv = 0 then do
    if c.count.toNat % 4 ≠ 0 || c.srcAt % 4 ≠ 0 || c.dstAt % 4 ≠ 0 then .error (⟨4, 0, false⟩, if c.srcAt % 4 ≠ 0 then c.srcAt else c.dstAt, st) else pure ()
    inside st (if c.fromGlobal || c.count = 0 then none else rangeOut gr c.srcAt c.count.toNat)
    inside st (if c.toGlobal || c.count = 0 then none else rangeOut gr c.dstAt c.count.toNat)
    pure (0, st)
  else do
    if c.layout.isNone then .error (⟨4, 0, false⟩, bitsOf (c.dst.getD 0 0).toNat 0 21, st) else pure ()
    inside st ((c.chunks.map Chunk.at_).find? fun o => !inRange gr o)
    let (e, s1) ← c.scaleEntry gr core st
    if c.conv = 3 then do
      let (e, s2) ← s1.resource gr core (c.src.getD 0 0).toNat c.privileged
      must s2 (!Entry.notTensor e c.slot)
      pure (e, s2)
    else pure (e, s1)

/-! ### The engine's global accesses -/

/-- A fault that a copy met, noted once. -/
def Copy.note (c : Copy) (f : CopyFault) : Copy := if c.faults.contains f then c else { c with faults := c.faults ++ [f] }

/-- A fault at an address of one side; `start` is where that side of a plain copy begins. -/
def faultAt (side addr start : Nat) (f : Flt) : CopyFault := ⟨side, addr, if start ≤ addr / 4096 * 4096 then addr / 4096 * 4096 - start else 0, f.code, f.cause, f.lod⟩

/-- Bytes as a copy sees them: those of a private line as they stood after the gang's last merge, overlaid with what the wave had staged at issue (R167). -/
def State.copySees (s : State) (c : Copy) (w : Wave) (va : Nat) (bs : List Byte) : List Byte :=
  if s.isOwnLine w va then overlayStaged c.staged (fun _ => true) va (overlayBefore (match s.gang? c.gang with | some g => g.before | none => []) va bs) else bs

/-- Bytes of one page read at their home for a copy (R385): another gang's line is refused (R166). -/
def State.engineRead (s : State) (c : Copy) (w : Wave) (va n : Nat) : Except Flt (List Byte × State) :=
  if s.foreign w va then .error ⟨2, 0, false⟩
  else match s.translate (quadOf w.core) c.asid va needRead c.privileged 0 with
    | (.error f, _) => .error f
    | (.ok t, s1) =>
      let (bs, s2) := s1.readHome c.asid t.pa t.leaf n
      .ok (s2.copySees c w va bs, s2)

/-- Bytes of one page written at their home for a copy, or staged on a private line (R167). -/
def State.engineStore (s : State) (c : Copy) (w : Wave) (va : Nat) (bs : List Byte) : Except Flt State :=
  if s.foreign w va then .error ⟨2, 0, false⟩
  else match s.translate (quadOf w.core) c.asid va needWrite c.privileged 0 with
    | (.error f, _) => .error f
    | (.ok t, s1) =>
      if s1.isOwnLine w va then .ok (s1.stage c.gang va bs c.lti)
      else .ok (s1.writeHome c.asid va (s1.localPa t.pa) t.leaf t.side bs)

/-! ### Plain copies (R385) -/

/-- Source and destination ranges overlap at a destination byte, which is then unpredictable. -/
def Copy.overlapped (c : Copy) (d : Nat) : Bool :=
  c.fromGlobal = c.toGlobal && c.srcAt ≤ d && d < c.srcAt + c.count.toNat && overlap c.srcAt c.count.toNat c.dstAt c.count.toNat

/-- The bytes that a copy writes from a destination address on: those read, and free ones where the ranges overlap. -/
def Copy.mixed (c : Copy) (fresh d : Nat) (bs : List Byte) : List Byte :=
  (List.range bs.length).map fun k => if c.overlapped (d + k) then Config.freeByte (fresh + k) else bs.getD k 0

/-- A part of a destination piece whose source lies in one line: read, and written; a fault on either side is noted (R389). -/
def State.copyPart (s : State) (c : Copy) (w : Wave) (src dst n : Nat) : Copy × State :=
  let got : Except Flt (List Byte × State) :=
    if c.fromGlobal then s.engineRead c w src n
    else .ok (match s.gang? c.gang with | some g => g.bytes.getRange src n | none => [], s)
  let out (bs : List Byte) (t : State) : Copy × State :=
    if c.toGlobal then match t.engineStore c w dst bs with
      | .ok u => (c, u)
      | .error f => (c.note (faultAt 2 dst c.dstAt f), t)
    else
      let (cl, u) := t.engineWrite c.gang dst bs
      ({ c with barriers := c.barriers ++ cl }, u)
  match got with
  | .ok (bs, s1) => out (c.mixed s1.fresh dst bs) { s1 with fresh := s1.fresh + n }
  | .error f =>
    let c1 := c.note (faultAt 1 src c.srcAt f)
    if c.toGlobal then match s.translate (quadOf w.core) c.asid dst needWrite c.privileged 0 with
      | (.ok _, s1) => (c1, s1)
      | (.error g, s1) => (c1.note (faultAt 2 dst c.dstAt g), s1)
    else (c1, s)

/-- A destination piece of a plain copy. -/
def State.copyPiece (s : State) (c : Copy) (w : Wave) (p : Nat × Nat) : Copy × State :=
  let src := (c.srcAt + (p.1 - c.dstAt)) % 2 ^ 64
  (pieces src p.2).foldl (init := (c, s)) fun acc q => acc.2.copyPart acc.1 w q.1 (p.1 + (q.1 - src)) q.2

/-! ### Conversions (R223, R224, R386) -/

/-- The address of a source element of a conversion (R386). -/
def Copy.elemAt (c : Copy) (i k : Nat) : Nat :=
  (c.srcAt + (if c.trn then k * c.pitch + i * c.esize else i * c.pitch + k * c.esize)) % 2 ^ 64

/-- The element of the tensor that a CONV 3 copy reads for (i, k) (R387). -/
def Copy.tensorElem (c : Copy) (i k : Nat) : Nat := (c.src.getD 1 0).toNat + (if c.trn then k * c.pitch + i else i * c.pitch + k)

/-- A source element widened exactly to binary32 (R223). -/
def widen (kind x : Nat) : Nat := if kind = 1 then x else if kind = 2 then x * 2 ^ 16 else Fpc.plain.toFloat f16 f32 0 x

/-- q of an element and a scale (R224): the quotient rounded to nearest even and saturated, as 8 bits. -/
def quantise (signed : Bool) (x s : Nat) : Nat :=
  let top : Int := if signed then 127 else 255
  let bottom : Int := if signed then -128 else 0
  let q : Int :=
    if f32.isNan x || f32.isNan s then 0
    else match exactDiv (f32.value x) (f32.value s) with
      | .inf neg => if neg then bottom else top
      | .rat neg p d =>
        let n := p / d
        let m := if roundsUp 0 neg n (p % d) d then n + 1 else n
        max bottom (min top (if neg then -(m : Int) else m))
      | _ => 0
  (BitVec.ofInt 8 q).toNat

/-- A source element of CONV 1 or 2 read; a fault is noted and the element has no value. -/
def State.readElem (s : State) (c : Copy) (w : Wave) (i k : Nat) : Option Nat × Copy × State :=
  let va := c.elemAt i k
  (pieces va c.esize).foldl (init := (some 0, c, s)) fun acc p =>
    match acc.2.2.engineRead acc.2.1 w p.1 p.2 with
    | .error f => (none, acc.2.1.note (faultAt 1 va va f), acc.2.2)
    | .ok (bs, t) => (acc.1.map fun x => x + natOfBytes bs * 2 ^ (8 * (p.1 - va)), acc.2.1, t)

/-- The largest magnitude among the finite elements of some that can be read, as binary32 (R223). -/
def State.maxAbs (s : State) (c : Copy) (w : Wave) (es : List (Nat × Nat)) : Nat × Copy × State :=
  es.foldl (init := (0, c, s)) fun acc e =>
    let (x, c1, t) := acc.2.2.readElem acc.2.1 w e.1 e.2
    let m := match x with
      | some y => let v := widen c.slot.kind y % 2 ^ 31; if v < f32.infBits then max acc.1 v else acc.1
      | none => acc.1
    (m, c1, t)

/-- The elements of this command in the strip or square of element (i, 64 × j) (R386). -/
def Copy.blockElems (c : Copy) (i j : Nat) : List (Nat × Nat) :=
  let rows := if c.roleB then (List.range 128).map (fun r => i / 128 * 128 + r) |>.filter fun r => r < c.lines else [i]
  rows.flatMap fun r => (List.range 128).map fun k => (r, j / 2 * 128 + k)

/-- 127.0 and 255.0. -/
def divisorOf (signed : Bool) : Nat := if signed then 0x42FE0000 else 0x437F0000

/-- A computed scale (R223). -/
def scaleOfMax (signed : Bool) (m : Nat) : Nat := if m = 0 then 0x3F800000 else Fpc.plain.div f32 0 m (divisorOf signed)

/-- The scale of element (i, 64 × j) (R223): 1.0 without geometry; read for a tensor; computed for a strip or a square and written to the scale buffer, once. -/
def State.scaleFor (s : State) (c : Copy) (w : Wave) (i j : Nat) : Nat × Copy × State :=
  if c.slot.scl = 0 then (0x3F800000, c, s)
  else
    let idx := if c.slot.scl = 1 then 0 else c.scaleIx i j
    let va := (Entry.base c.entry + 4 * idx) % 2 ^ 64
    match c.scales.find? fun x => x.1 = idx with
    | some x => (x.2.toNat, c, s)
    | none =>
      let keep (x : Nat) (k : Copy) (t : State) : Nat × Copy × State := (x, { k with scales := k.scales ++ [(idx, BitVec.ofNat 32 x)] }, t)
      if c.slot.scl = 1 then match s.engineRead c w va 4 with
        | .ok (bs, t) => keep (natOfBytes bs) c t
        | .error f => keep (Config.freeWord s.fresh).toNat (c.note (faultAt 1 va va f)) { s with fresh := s.fresh + 1 }
      else
        let (m, c1, s1) := s.maxAbs c w (c.blockElems i j)
        let x := scaleOfMax c.slot.sgn m
        match s1.engineStore c1 w va (bytesOfNat 4 x) with
        | .ok t => keep x c1 t
        | .error f => keep x (c1.note (faultAt 2 va va f)) s1

/-- Bit of plane `p` of element (i, k) of CONV 1 or 2; none where it was not read. -/
def State.convBit (s : State) (c : Copy) (w : Wave) (i k p : Nat) : Option Bool × Copy × State :=
  let (x, c1, s1) := s.readElem c w i k
  match x with
  | none => (none, c1, s1)
  | some v =>
    if c.conv = 2 then (some (v.testBit (7 - p)), c1, s1)
    else
      let (sc, c2, s2) := s1.scaleFor c1 w i (k / 64)
      (some ((quantise c.slot.sgn (widen c.slot.kind v) sc).testBit (7 - p)), c2, s2)

/-! ### Planes from a tensor (R101, R387) -/

/-- The groups that a copy's source range covers. -/
def Copy.groups (c : Copy) : List Nat :=
  ((List.range c.lines).flatMap fun i => (List.range (64 * c.blocks)).map fun k => c.tensorElem i k).filter (fun e => e < Entry.elems c.entry) |>.map (· / 32768) |>.eraseDups

/-- LIM[k] of a gang written (R100, R101). -/
def State.setLim (s : State) (gang k x : Nat) : State :=
  s.modGang gang fun g => { g with plres := (g.plres &&& ~~~(BitVec.ofNat 64 (15 * 2 ^ (4 * k)))) ||| BitVec.ofNat 64 (x % 16 * 2 ^ (4 * k)) }

/-- The map byte of a group as a copy reads it: another gang's line is refused (R166), and a private line is seen as the copy sees it (R167). -/
def State.copyMap (s : State) (c : Copy) (w : Wave) (g : Nat) : Except Failed (Nat × State) :=
  let va := (Entry.map c.entry + g) % 2 ^ 64
  if s.foreign w va then .error (⟨2, 0, false⟩, va, s) else s.mapByteAs (fun t bs => t.copySees c w va bs) w.core c.asid c.entry g c.privileged none

/-- A piece of a CONV 3 copy waits for a map byte that cannot be read yet (R107). -/
def State.mapsHeld (s : State) (c : Copy) (w : Wave) : Bool :=
  c.conv = 3 && Entry.lodr c.entry && !Entry.illFormed c.entry &&
    c.groups.any fun g => match s.copyMap c w g with | .error (f, _) => f.held | .ok _ => false

/-- The map bytes of a copy's groups, by group; a group whose read faults counts as TAIL, and its fault is noted (R101). -/
def State.readMaps (s : State) (c : Copy) (w : Wave) : List (Nat × Nat × Bool) × Copy × State :=
  c.groups.foldl (init := ([], c, s)) fun acc g =>
    match acc.2.2.copyMap c w g with
    | .ok (b, t) => (acc.1 ++ [(g, b, true)], acc.2.1, t)
    | .error (f, va, t) => (acc.1 ++ [(g, Entry.tail c.entry, false)], acc.2.1.note (faultAt 1 va va f), t)

/-- The beginning of a CONV 3 copy (R101): the planes that it copies, LIM, and its pushes. Without LODR every plane is resident; an ill-formed entry gives zeros. R101 does not say whether planes that the slot does not read count as missing: they do not (DESIGN CHOICE, log entry 85). -/
def State.startTensor (s : State) (c : Copy) (w : Wave) : Copy × State :=
  if c.conv ≠ 3 || c.planes.isSome then (c, s)
  else if !Entry.lodr c.entry then ({ c with planes := some c.slot.pr }, s)
  else if Entry.illFormed c.entry then ({ c with planes := some 0 }, s)
  else
    let p := Entry.planes c.entry
    let l := p - c.slot.pr
    let (ms, c1, s1) := s.readMaps c w
    let pe := p - ms.foldl (fun m x => max m x.2.1) l
    let s2 := s1.setLim c.gang c.slotIx pe
    let s3 := ms.foldl (init := s2) fun t x =>
      if x.2.2 && l < x.2.1 then (List.range c.slot.pr).foldl (init := t) fun u q =>
        if p - x.2.1 ≤ q then u.conePush w.core c.asid (c.src.getD 0 0).toNat (p - 1 - q) (q * Entry.pstride c.entry + x.1) 3 x.1 else u
      else t
    ({ c1 with planes := some pe }, s3.settlePushes)

/-- Planes from `q` on are lost (R101): LIM falls, and what was copied of them becomes zero. R101 names pushes only for what the map bytes show missing: a refusal pushes none (DESIGN CHOICE, log entry 85). -/
def State.losePlanes (s : State) (c : Copy) (q : Nat) : Copy × State :=
  let s1 := s.setLim c.gang c.slotIx q
  let (cl, s2) := s1.engineWrites c.gang ((c.chunks.filter fun k => q ≤ k.p).map fun k => (k.at_, List.replicate 8 0))
  ({ c with planes := some q, barriers := c.barriers ++ cl }, s2)

/-- A read of plane `p` in a group was refused (R86, R101): its map byte is read again, and the planes that the copy can still copy are those below `p` that the byte calls resident. A byte that cannot be read counts as TAIL, its fault noted. -/
def State.refusedPlane (s : State) (c : Copy) (w : Wave) (g p : Nat) : Copy × State :=
  let planes := Entry.planes c.entry
  match s.copyMap c w g with
  | .ok (b, t) => t.losePlanes c (min p (planes - b))
  | .error (f, va, t) => t.losePlanes (if f.held then c else c.note (faultAt 1 va va f)) (planes - Entry.tail c.entry)

/-- Bit of plane `p` of element (i, k) of a tensor (R80, R85): zero beyond ELEMS and beyond the planes copied; none where its byte was not read. A plane that every level holds is never refused: its fault is one (R84, R86). -/
def State.tensorBit (s : State) (c : Copy) (w : Wave) (i k p : Nat) : Option Bool × Copy × State :=
  let x := c.tensorElem i k
  if (c.planes.getD 0) ≤ p || Entry.elems c.entry ≤ x then (some false, c, s)
  else
    let va := (Entry.base c.entry + p * Entry.pstride c.entry * 4096 + x / 8) % 2 ^ 64
    match s.engineRead c w va 1 with
    | .ok (bs, t) => (some ((natOfBytes bs).testBit (x % 8)), c, t)
    | .error f =>
      if Entry.lodr c.entry && isRefusal f && Entry.planes c.entry - Entry.tail c.entry ≤ p then
        let (c1, s1) := s.refusedPlane c w (x / 32768) p
        (some false, c1, s1)
      else (none, c.note (faultAt 1 va va f), s)

/-! ### Chunks -/

/-- The bits of a chunk: its value, and the bits that keep what they were. -/
def State.chunkBits (s : State) (c : Copy) (w : Wave) (k : Chunk) : Nat × Nat × Copy × State :=
  (List.range 64).foldl (init := (0, 0, c, s)) fun acc n =>
    let (v, keep, c0, s0) := acc
    let (b, c1, s1) := if c.conv = 3 then s0.tensorBit c0 w k.i (64 * k.j + n) k.p else s0.convBit c0 w k.i (64 * k.j + n) k.p
    match b with
    | some true => (v + 2 ^ n, keep, c1, s1)
    | some false => (v, keep, c1, s1)
    | none => (v, keep + 2 ^ n, c1, s1)

/-- A chunk of a conversion written; two chunks at one place leave unpredictable bits (R359). -/
def State.convChunk (s : State) (c : Copy) (w : Wave) (all : List Nat) (k : Chunk) : Copy × State :=
  let (v, keep, c1, s1) := s.chunkBits c w k
  let v1 := if (c1.planes.getD 8) ≤ k.p && c.conv = 3 then 0 else v
  let bits := v1 ||| (s1.localNat c.gang k.at_ 8 &&& keep)
  let (bs, s2) := if 1 < all.count k.at_ then s1.freeBytes 8 else (bytesOfNat 8 bits, s1)
  let (cl, s3) := s2.engineWrite c.gang k.at_ bs
  ({ c1 with barriers := c1.barriers ++ cl }, s3)

/-- A line of a conversion. -/
def State.convPiece (s : State) (c : Copy) (w : Wave) (p : Nat × Nat) : Copy × State :=
  let (c1, s1) := s.startTensor c w
  let all := c1.chunks.map Chunk.at_
  (c1.chunks.filter fun k => k.at_ / 64 = p.1 / 64).foldl (init := (c1, s1)) fun acc k => acc.2.convChunk acc.1 w all k

/-! ### Arrival -/

/-- The global bytes that a command may touch (R165): a range of a plain copy by lines; a conversion's elements, scales, map bytes and tensor bytes. -/
def Copy.globals (c : Copy) : List Nat :=
  if c.conv = 0 then
    (if c.fromGlobal then (Machine.pieces c.srcAt c.count.toNat).map (·.1) else []) ++ (if c.toGlobal then (Machine.pieces c.dstAt c.count.toNat).map (·.1) else [])
  else
    let es := (List.range c.lines).flatMap fun i => (List.range (64 * c.blocks)).map fun k => (i, k)
    if c.conv = 3 then es.flatMap fun e => (List.range c.slot.pr).map fun p =>
        (Entry.base c.entry + p * Entry.pstride c.entry * 4096 + c.tensorElem e.1 e.2 / 8) % 2 ^ 64
    else es.map fun e => c.elemAt e.1 e.2

/-- The release that a command makes just before its first access is done (R110, R120): at quad scope or wider with every write of its core issued by then, those that its own wave has issued since among them. -/
def State.released (s : State) (c : Copy) (w : Wave) : Bool :=
  c.arrived ≠ [] || match c.release with
    | none => true
    | some p => (s.releasedBy w.id w.core p).all fun id => match s.flight? id with
      | some b => (b.wave = w.id && c.id < b.id && !(2 ≤ p && b.kind.writes)) || b.performedAt p w.id c.privileged
      | none => s.eng.queries.all fun q => q.id ≠ id || c.id < id

/-- The command may begin (R119): what precedes it in its queue is performed, no queue fence before it stands, and what a fence of its wave asks for is done (R110, R120). -/
def State.copyMayRun (s : State) (c : Copy) : Bool :=
  ((s.eng.copies.takeWhile fun b => b.id ≠ c.id).all fun b => b.gang ≠ c.gang || match b.fence with
    | some m => !m.getLsbD c.queue
    | none => b.queue ≠ c.queue || b.allArrived) &&
  c.after.all fun id => (match s.flight? id with
    | some b => (match b.kind with | .fence _ => false | _ => b.performedAt 4 c.wave c.privileged)
    | none => true) && s.eng.queries.all fun q => q.id ≠ id

/-- The gang-local lines that a destination piece of a plain copy is read from are present (R59). -/
def State.sourcePresent (s : State) (c : Copy) (p : Nat × Nat) : Bool :=
  c.conv ≠ 0 || c.fromGlobal || match s.gang? c.gang with
    | some g => (pieces (c.srcAt + (p.1 - c.dstAt)) p.2).all fun q => g.present q.1
    | none => true

/-- A copy replaced. -/
def State.putCopy (s : State) (c : Copy) : State := s.modEng fun e => { e with copies := e.copies.map fun x => if x.id = c.id then c else x }

/-- The global addresses that a destination piece reads and writes, but for map bytes: of a plain copy, by lines; of a conversion, those of the whole command. -/
def Copy.touches (c : Copy) (p : Nat × Nat) : List Nat :=
  if c.conv = 0 then
    let src := (c.srcAt + (p.1 - c.dstAt)) % 2 ^ 64
    (if c.fromGlobal then (Machine.pieces src p.2).map (·.1) else []) ++ if c.toGlobal then [p.1] else []
  else c.globals ++ (List.range c.scaleEnd).map fun k => (Entry.base c.entry + 4 * k) % 2 ^ 64

/-- A destination piece of a command arrives (R59). -/
def State.arrivePiece (s0 : State) (c : Copy) (w : Wave) (k : Nat) (p : Nat × Nat) : State :=
  let s := match c.arrived, c.release with
    | [], some scope => s0.acceptAll w.id w.core scope
    | _, _ => s0
  let (c1, s1) := if c.conv = 0 then s.copyPiece c w p else s.convPiece c w p
  let s2 := s1.putCopy { c1 with arrived := c1.arrived ++ [k] }
  if c.toGlobal then s2 else s2.setPresent c.gang [p.1 / 64]

/-- A command of a name. -/
def State.copy? (s : State) (id : Nat) : Option Copy := s.eng.copies.find? fun c => c.id = id

/-- The arrival of a piece of a command, where it can come about. -/
def State.arrival (s : State) (cmd k : Nat) : Option State :=
  (s.copy? cmd).bind fun c => (s.wave? c.wave).bind fun w => c.pieces[k]?.bind fun p =>
    if c.arrived.contains k || !s.copyMayRun c || !s.released c w || !s.sourcePresent c p || s.mapsHeld c w || s.engineHeld w.core c.asid c.privileged (c.touches p) then none
    else some (s.arrivePiece c w k p)

/-- COPY_LINE_ARRIVAL (R59). -/
def execCopyLineArrival (cmd k : Nat) (s : State) : Host.Outcome State Fault Refusal := event "COPY_LINE_ARRIVAL" (s.arrival cmd k)

/-! ### Completion (R389, R390) -/

/-- The fault that a copy report names: the one with the lowest address. -/
def leastCopyFault : List CopyFault → Option CopyFault
  | [] => none
  | f :: fs => match leastCopyFault fs with
    | none => some f
    | some g => some (if f.addr ≤ g.addr then f else g)

/-- The copy report (R389). -/
def Copy.report (c : Copy) : Option EngineTrap :=
  let side := c.faults.foldl (fun n f => n ||| f.side) 0
  let tail (ofs : Nat) : Nat := ofs % 2 ^ 32 + c.count.toNat * 2 ^ 32 + c.ctrl.toNat * 2 ^ 64
  match leastCopyFault c.faults, c.barriers with
  | some f, _ =>
    let ofs := if c.conv = 0 then c.faults.foldl (fun n x => min n x.ofs) f.ofs else 0
    some ⟨f.code, f.cause, c.word, c.pc, c.active, BitVec.ofNat 32 side, BitVec.ofNat 64 f.addr, tail ofs, false, f.lod⟩
  | none, l :: ls => some ⟨5, 0, c.word, c.pc, c.active, 2, BitVec.ofNat 64 (ls.foldl min l), tail 0, false, false⟩
  | none, [] => none

/-- A command leaves its queue: its presence bits are set, CP falls, and its report is raised (R389, R390). -/
def State.finishCopy (s : State) (c : Copy) : State :=
  let s1 := (s.modEng fun e => { e with copies := e.copies.filter fun x => x.id ≠ c.id }).setPresent c.gang c.dstLines
  let s2 := s1.modWave c.wave fun w => if w.alive then
      (match c.report with | some t => { w with cp := w.cp - 1 }.queueTrap t | none => { w with cp := w.cp - 1 }) else w
  (s2.sweepGang c.gang).distribute

/-- The completion of a copy whose pieces have all arrived. -/
def State.completion (s : State) (cmd : Nat) : Option State :=
  (s.copy? cmd).bind fun c => if c.fence.isSome || !c.allArrived || !s.copyMayRun c then none else some (s.finishCopy c)

/-- COPY_COMPLETE (R390). -/
def execCopyComplete (cmd : Nat) (s : State) : Host.Outcome State Fault Refusal := event "COPY_COMPLETE" (s.completion cmd)

/-- Every command before a queue fence in a queue that it names has completed (R119, R391). -/
def State.fenceMet (s : State) (c : Copy) (m : BitVec 4) : Bool :=
  (s.eng.copies.takeWhile fun b => b.id ≠ c.id).all fun b => b.gang ≠ c.gang || match b.fence with
    | some x => x &&& m = 0
    | none => !m.getLsbD b.queue

/-- QUEUE_FENCE_COMPLETE (R119, R391). -/
def execQueueFenceComplete (cmd : Nat) (s : State) : Host.Outcome State Fault Refusal :=
  event "QUEUE_FENCE_COMPLETE" ((s.copy? cmd).bind fun c => c.fence.bind fun m => if s.fenceMet c m then some (s.finishCopy c) else none)

/-! ### At issue -/

/-- Commands in the queues of a mask (R382). -/
def State.queueFull (s : State) (gang : Nat) (mask : Nat → Bool) : Bool :=
  (List.range 4).any fun q => mask q && 64 ≤ (s.eng.copies.filter fun c => c.gang = gang && match c.fence with
    | some m => m.getLsbD q
    | none => c.queue = q).length

/-- A command with nothing filled in. -/
def Ctx.blankCopy (c : Ctx) (id : Nat) : Copy :=
  { id, wave := c.w.id, gang := c.ga.id, queue := 0, asid := c.gr.asid, word := c.word, pc := c.pc, active := c.act, privileged := c.w.priv, fence := none
    dst := [], src := [], count := 0, ctrl := 0, fmt := 0, entry := 0, after := [], release := none, arrived := [], faults := [], barriers := [], scales := [], planes := none
    staged := [], lti := 0 }

/-- The command that a cpy issues (R383 to R387), apart from the entry it reads. -/
def Ctx.copyOf (c : Ctx) (f : FmtK) (s : State) : Copy :=
  let r (k : Nat) : Word := c.ssrc k 0 (lowestLane c.act)
  let ctrl := r (f.c.toNat + 1)
  { c.blankCopy s.nextId with
    queue := f.q.toNat
    dst := (List.range 4).map fun k => r (f.d.toNat + k)
    src := (List.range 2).map fun k => r (f.s.toNat + k)
    count := r f.c.toNat, ctrl
    fmt := if bitsOf ctrl.toNat 2 2 = 0 then 0 else c.gr.fmt (bitsOf ctrl.toNat 4 3)
    after := s.fencesOf c.w.id
    release := if f.r = 1 then some f.p.toNat else none
    staged := c.ga.staged.filter fun e => (List.range 32).any fun l => logicalThread c.gr c.ga c.w l = e.2.2
    lti := logicalThread c.gr c.ga c.w (lowestLane c.act) }

/-- An earlier gang-local access of the wave to a line that the command writes is not performed (R132). -/
def State.linesBusy (s : State) (wave : Nat) (lines : List Nat) : Bool :=
  s.flights.any fun b => b.wave = wave && b.kind.isLocal && b.lanes.any fun m => m.status ≠ .done && lines.contains (m.va / 64)

/-- A deterministic launch tickets the command (R165): some global byte is not private to the gang. A level-of-detail tensor's map bytes, and a scale buffer, count with it. -/
def Copy.ticketed (c : Copy) (gr : Grid) (gang : Nat) : Bool :=
  gr.det && (c.globals.any (fun va => gr.ownerOf va ≠ some gang) ||
    (c.conv = 3 && Entry.lodr c.entry && c.groups.any fun g => gr.ownerOf (Entry.map c.entry + g) ≠ some gang) ||
    (List.range c.scaleEnd).any fun k => gr.ownerOf (Entry.base c.entry + 4 * k) ≠ some gang)

/-- A command performed wholly, piece by piece (R165). -/
def State.copyWhole (s : State) (cmd n : Nat) : State :=
  let s1 := (List.range n).foldl (fun (t : State) k => (t.arrival cmd k).getD t) s
  (s1.completion cmd).getD s1

/-- The command enters its queue: its destination lines become absent (R59, R132). -/
def Ctx.enqueue (c : Ctx) (k : Copy) (s : State) : State :=
  let s1 := s.modGang c.ga.id fun g => { g with absent := g.absent.filter (fun l => !k.dstLines.contains l) ++ k.dstLines.eraseDups }
  { (s1.modEng fun e => { e with copies := e.copies ++ [k] }).modWave c.w.id fun w => { w with copied := true } with nextId := s1.nextId + 1 }

/-- In its turn a ticketed command must be able to run whole: its queue is empty before it, its release is over and its source lines are present. -/
def State.copyReady (s : State) (k : Copy) : Bool :=
  ({ s with eng := { s.eng with copies := s.eng.copies ++ [k] } } : State).copyMayRun k &&
    k.pieces.all fun p => s.sourcePresent k p && (s.wave? k.wave).all fun w => s.released k w && !s.mapsHeld k w && !s.engineHeld w.core k.asid k.privileged (k.touches p)

/-- A copy of no bytes accesses nothing and completes at once (R385): CP falls again. -/
def Copy.nothing (k : Copy) : Bool := k.conv = 0 && k.count = 0

/-- cpy (R382 to R388). -/
def Ctx.cpy (c : Ctx) (f : FmtK) (s : State) : Body :=
  if c.act = 0 then .ok s
  else if s.committing c.w.id then .stay
  else
    let k := c.copyOf f s
    match k.check c.gr c.w.core f.d.toNat f.s.toNat s with
    | .error (flt, a, u) => if flt.held then .stay else c.failOn flt c.act a u
    | .ok (e, s1) =>
      let k1 := { k with entry := e }
      if k.nothing then .ok (s1.modWave c.w.id fun w => { w.lower 3 with copied := true })
      else if s.queueFull c.ga.id (fun q => q = f.q.toNat) || s.linesBusy c.w.id k.dstLines || (f.r = 1 && !(s.reportsIn c.w.id && !s.loggedFault c.w.id)) then .stay
      else if k1.ticketed c.gr c.ga.index then
        if !s.ticketReady c.w then .block 8 0
        else if !s.copyReady k1 then .stay
        else .ok ((c.enqueue k1 s1).copyWhole k1.id k1.pieces.length)
      else .ok (c.enqueue k1 s1)

/-- cpy (R383). -/
def execCpy (f : FmtK) (s : State) := issue (.cpy f) s fun c t => c.cpy f t

/-- cpyf (R391). -/
def execCpyf (f : FmtKf) (s : State) := issue (.cpyf f) s fun c t =>
  if c.act = 0 then .ok t
  else if t.queueFull c.ga.id (fun q => f.m.getLsbD q) then .stay
  else .ok (c.enqueue { c.blankCopy t.nextId with fence := some f.m } t)

end Sys2Proof.Machine
end

