-- ==== Sys2Proof/Machine/Launches.lean ====
section
/-! DEFINITION. Launches: the record and its checks (R168, R169, R173 to R175, R350), dependences (R171), ends (R158, R172), and the ending of a launch by CANCEL or a reset (R483, R488). -/

namespace Sys2Proof.Machine

/-! ### The launch record (R168) -/

/-- A grid that has not begun. -/
def gridFrom (id asid lrec : Nat) (record : BitVec 2048) (queue tag : Nat) : Grid :=
  { id, asid, lrec, record, phase := .held, queue, tag, nextGang := 0, lastGang := 0, dispNext := 0, dispEnd := 0, ports := [], owners := [],
    result := none, consumerOf := none, vox := none, podArrivals := 0, podUses := 0 }

/-- Fields of the record that must be zero: first bit and length. -/
def recordZeros : List (Nat × Nat) := [(245, 11), (282, 6), (296, 24), (324, 28), (359, 1), (366, 18), (1881, 7)]

/-- Addresses of the record that are ill aligned. -/
def Grid.misaligned (g : Grid) : Bool :=
  g.lrec % 64 ≠ 0 || g.code % 4 ≠ 0 || g.code / 2 ^ 60 ≠ 0 || g.restab % 64 ≠ 0 || g.restab / 2 ^ 60 ≠ 0 || (g.det && g.owntab % 16 ≠ 0) ||
    g.sigout % 8 ≠ 0 || g.qbind % 64 ≠ 0 || (List.range 4).any fun k => g.sigaddr k % 8 ≠ 0

/-- Fields of the record out of their ranges; NGANG aside, which a binning consumer's record ignores (R175). -/
def Grid.outOfRange (g : Grid) : Bool :=
  2 ^ 20 < g.rescount || g.nwg = 0 || 4 < g.nwg || g.wgthr = 0 || 1024 < g.wgthr || g.regs < 8 || 112 < g.regs || g.regs % 8 ≠ 0 ||
    16 < g.bars || 128 < g.localg || g.ndevice = 0 || 64 < g.ndevice || g.ndevice ≤ g.device || 256 < g.owncount

/-- A workgroup of the gang fits one empty core with PINSIZE taken as 0 (R169). -/
def Grid.fitsCore (g : Grid) : Bool := 1 ≤ fitCount g (fun _ => 0) (fun _ => 0) 0 0 0

/-- The record's own fields are broken (R169, BADREC). -/
def State.badRecord (s : State) (g : Grid) (consumer : Bool) : Bool :=
  (!consumer && g.ngang = 0) || recordZeros.any (fun z => g.field z.1 z.2 ≠ 0) || g.misaligned || g.outOfRange || (s.comp? g.cq).isNone ||
    (g.pers && (g.ngang ≠ 96 * g.ndevice || !g.fitsCore))

/-- An entry of the ownership table is broken (R166). -/
def badOwner (e : BitVec 128) : Bool := bitsOf e.toNat 0 6 ≠ 0 || bitsOf e.toNat 60 4 ≠ 0

/-- `n` entries of `size` bytes from an address, read as a load would; none where the read would fault. -/
def State.readTable (s : State) (asid at_ size n : Nat) : Option (List Nat) :=
  match s.ctxRead asid at_ (size * n) needRead false with
  | .ok (bs, _) => some ((List.range n).map fun j => natIn bs (size * j) size)
  | .error _ => none

/-! ### Queue bindings (R174, R175, R350) -/

/-- A FIFO's descriptor is malformed (R350). -/
def badFifo (d : Nat) : Bool :=
  bitsOf d 69 27 ≠ 0 || bitsOf d 160 96 ≠ 0 || bitsOf d 64 5 < 4 || 16 < bitsOf d 64 5 || bitsOf d 0 6 ≠ 0 || bitsOf d 60 4 ≠ 0

/-- Every page of a FIFO's ring can be read and written. -/
def State.ringReadable (s : State) (asid d : Nat) : Bool :=
  let first := fifoRing d / 4096
  let last := (fifoRing d + 4 * fifoSize d - 1) / 4096
  (List.range (last + 1 - first)).all fun k => match walk s asid ((first + k) * 4096) needBoth false with | .ok _ => true | .error _ => false

/-- A binning descriptor is malformed (R175), its consumer's record aside. -/
def badBinning (d : Nat) : Bool :=
  bitsOf d 64 12 ≠ 0 || bitsOf d 124 4 ≠ 0 || bitsOf d 128 11 = 0 || 1024 < bitsOf d 128 11 || bitsOf d 139 5 ≠ 0 || bitsOf d 144 16 = 0 || bitsOf d 160 96 ≠ 0

/-- A consumer's record read: none where it cannot be. -/
def State.readRecord (s : State) (asid lrec queue tag : Nat) : Option Grid :=
  (s.readTable asid lrec 256 1).bind fun l => l.head?.map fun x => gridFrom 0 asid lrec (BitVec.ofNat 2048 x) queue tag

/-- The binding table read: kind and descriptor of each port; none where it cannot be read. Without a table no port is bound. -/
def State.readPorts (s : State) (g : Grid) : Option (List Nat) := if g.qbind = 0 then some [] else s.readTable g.asid g.qbind 16 12

/-- A binding entry breaks R174 by itself. -/
def badBinding (pers : Bool) (e : Nat) : Bool :=
  let kind := bitsOf e 0 4
  5 < kind || bitsOf e 4 60 ≠ 0 || (!(1 ≤ kind && kind ≤ 3) && bitsOf e 64 64 ≠ 0) || (kind = 4 && !pers)

/-- What a FIFO's descriptor comes to: 0 well, 3 BADQ, 5 FETCH (R350). -/
def State.checkFifo (s : State) (asid desc : Nat) : Nat :=
  if desc % 32 ≠ 0 then 5
  else match s.fifoDesc asid desc with
    | .error _ => 5
    | .ok d => if badFifo d then 3 else if s.ringReadable asid d then 0 else 5

/-- The status of some checks together (R169 step 4): FETCH where something cannot be read, else BADQ where something is broken. -/
def worst (l : List Nat) : Nat := if l.any (· = 5) then 5 else if l.any (· = 3) then 3 else 0

/-- The status of a grid's queue bindings (R169 step 4); `own` is the queue whose consumer it is. A binning descriptor is checked with its consumer's record and that record's own bindings, as far as `fuel` allows. R174 does not say what a consumer's KIND 3 entry does that names another queue's descriptor: it is BADQ (DESIGN CHOICE, log entry 85). -/
def State.checkPorts (s : State) : Nat → Grid → Option Nat → Nat
  | 0, _, _ => 0
  | fuel + 1, g, own => match s.readPorts g with
    | none => 5
    | some es =>
      let bin (kind desc : Nat) : Nat :=
        if desc % 32 ≠ 0 then 5
        else match s.readTable g.asid desc 32 1 with
          | none => 5
          | some l => match s.readRecord g.asid (bitsOf (l.headD 0) 0 64) 0 0 with
            | none => 5
            | some c =>
              if badBinning (l.headD 0) || c.pers || c.nwg ≠ 1 || s.badRecord c true || (kind = 3 && own ≠ some desc) then 3
              else if kind = 3 then 0 else s.checkPorts fuel c (some desc)
      worst (es.map fun e =>
        let kind := bitsOf e 0 4
        let desc := bitsOf e 64 64
        worst [if badBinding g.pers e then 3 else 0, if kind = 1 then s.checkFifo g.asid desc else if kind = 2 || kind = 3 then bin kind desc else 0])

/-! ### What the check reads (R169) -/

/-- The pages of a FIFO's ring, which the check walks (R350). -/
def ringLooks (d : Nat) : List Look :=
  let first := fifoRing d / 4096
  (List.range ((fifoRing d + 4 * fifoSize d - 1) / 4096 + 1 - first)).map fun k => portLook ((first + k) * 4096) 0

/-- What the check of a FIFO reads. -/
def State.fifoLooks (s : State) (asid desc : Nat) : List Look :=
  if desc % 32 ≠ 0 then []
  else portLook desc 32 :: match s.fifoDesc asid desc with
    | .ok d => if badFifo d then [] else ringLooks d
    | .error _ => []

/-- What the check of a grid's queue bindings reads; see `State.checkPorts`. -/
def State.portLooks (s : State) : Nat → Grid → List Look
  | 0, _ => []
  | fuel + 1, g => if g.qbind = 0 then [] else plainLook g.qbind 192 :: match s.readPorts g with
    | none => []
    | some es => es.flatMap fun e =>
      let kind := bitsOf e 0 4
      let desc := bitsOf e 64 64
      if kind = 1 then s.fifoLooks g.asid desc
      else if (kind ≠ 2 && kind ≠ 3) || desc % 32 ≠ 0 then []
      else plainLook desc 32 :: match s.readTable g.asid desc 32 1 with
        | none => []
        | some l => plainLook (bitsOf (l.headD 0) 0 64) 256 :: match s.readRecord g.asid (bitsOf (l.headD 0) 0 64) 0 0 with
          | none => []
          | some c => if kind = 3 || badBinning (l.headD 0) || c.pers || c.nwg ≠ 1 || s.badRecord c true then [] else s.portLooks fuel c

/-! ### Fit (R169, R176) -/

/-- A gang of the grid fits a quad when it is empty. -/
def State.fitsQuad (s : State) (g : Grid) (quad : Nat) : Bool :=
  (firstCores quad g.nwg).any fun c => (List.range g.nwg).all fun k => 1 ≤ s.fitEmpty g (c + k)

/-- The launch fits (R169): a gang fits some quad, and for a persistent grid every enabled quad. -/
def State.fits (s : State) (g : Grid) : Bool :=
  let quads := (List.range 96).filter fun q => !s.kiln.disabled.contains q
  if g.pers then quads.all (s.fitsQuad g) else quads.any (s.fitsQuad g)

/-! ### The check (R169) -/

/-- The ownership table of a deterministic launch; empty otherwise; none where it cannot be read. -/
def State.readOwners (s : State) (g : Grid) : Option (List (BitVec 128)) :=
  if g.det && g.owncount ≠ 0 then (s.readTable g.asid g.owntab 16 g.owncount).map fun l => l.map (BitVec.ofNat 128) else some []

/-- The status of the first check that a launch fails, or OK (R169); `own` is the descriptor of the binning queue whose consumer it is. -/
def State.launchStatus (s : State) (g : Grid) (own : Option Nat) : Nat :=
  if s.badRecord g own.isSome then 1
  else match s.readOwners g with
    | none => 5
    | some os =>
      if os.any badOwner then 2
      else match s.checkPorts 3 g own with
        | 0 => if s.fits g then 0 else 4
        | k => k

/-- What the check of a launch reads after its record, as far as it comes. -/
def State.launchLooks (s : State) (g : Grid) (own : Option Nat) : List Look :=
  if s.badRecord g own.isSome then []
  else (if g.det && g.owncount ≠ 0 then [plainLook (g.owntab) (16 * g.owncount)] else []) ++
    match s.readOwners g with
    | none => []
    | some os => if os.any badOwner then [] else s.portLooks 3 g

/-- A checked grid with what its tables give (R157, R166, R173, R174). -/
def State.prepared (s : State) (g : Grid) : Grid :=
  let d := g.device
  let part (n k : Nat) : Nat := ceilDiv (k * n) g.ndevice
  { g with
    nextGang := if g.pers then d * 96 else part g.ngang d
    lastGang := if g.pers then d * 96 + 96 else part g.ngang (d + 1)
    dispNext := if g.pers then part g.dispn d else 0
    dispEnd := if g.pers then part g.dispn (d + 1) else 0
    owners := (s.readOwners g).getD []
    ports := ((s.readPorts g).getD []).map fun e => (bitsOf e 0 4, bitsOf e 64 64) }

/-! ### Binning queues that a launch produces for (R158, R175) -/

/-- The binning queues of a grid's producer ports, made where they do not exist, each with its consumer's grid; a consumer's own producer ports too, as far as `fuel` allows. A consumer's launch is checked as any other is, and one that fails runs no gang (R169). -/
def State.openBins : Nat → Grid → State → State
  | 0, _, s => s
  | fuel + 1, g, s => (g.ports.filter fun p => p.1 = 2).foldl (init := s) fun t p =>
    if (t.binQueue? g.asid p.2).isSome then t
    else match t.readTable g.asid p.2 32 1 with
      | none => t
      | some l =>
        let d := l.headD 0
        match t.readRecord g.asid (bitsOf d 0 64) g.queue g.tag with
        | none => t
        | some c0 =>
          let (qid, t1) := t.newId
          let (gid, t2) := t1.newId
          let c := t2.prepared { c0 with id := gid }
          let looks := t2.launchLooks c (some p.2)
          let status := t2.launchStatus c (some p.2)
          let c1 := { c with phase := if status = 0 then .running else .ending, result := if status = 0 then none else some (3, status), nextGang := 0, lastGang := 0, consumerOf := some qid }
          let q : BinQueue := { id := qid, asid := g.asid, desc := p.2, consumer := bitsOf d 0 64, thresh := bitsOf d 128 11, producers := bitsOf d 144 16,
                                producersEnded := 0, bins := [], batches := [], nextBatch := 0 }
          State.openBins fuel c1 ({ t2 with bins := t2.bins ++ [q], grids := t2.grids ++ [c1] }.noteReads g.asid looks)

/-! ### LAUNCH -/

/-- The completion queue of a launch: its record's, or its queue's default where that does not exist (R482). -/
def State.launchCq (s : State) (g : Grid) : Nat := if (s.comp? g.cq).isSome then g.cq else s.subCq g.queue

/-- A launch's completion (R484). -/
def State.launchAnswer (s : State) (g : Grid) (status cstat : Nat) : State :=
  s.complete (s.launchCq g) (completionEntry status cstat g.tag g.queue g.launchId)

/-- A launch that cannot be read completes with FETCH; its identifier is not known. -/
def State.unreadLaunch (s : State) (queue tag : Nat) : State :=
  let (bs, s1) := s.freeBytes 8
  s1.complete (s1.subCq queue) (completionEntry 5 3 tag queue (natOfBytes bs))

/-- A checked launch begun: held while it names signals (R171), else in the FIFO (R177). -/
def State.begin (s : State) (g : Grid) : State :=
  let g1 := s.prepared g
  let waits := (List.range 4).any fun k => g1.sigaddr k ≠ 0
  let s1 := State.openBins 64 g1 { s with grids := s.grids ++ [if waits then g1 else { g1 with phase := .running }] }
  if waits then s1 else ({ s1 with fifo := s1.fifo ++ [Runnable.grid g.id] }).distribute

/-- A launch checked, and begun or failed. -/
def State.launch (s : State) (g : Grid) : State :=
  match s.launchStatus g none with
  | 0 => s.begin g
  | k => s.launchAnswer g k 3

/-- What a LAUNCH reads: the record, and what its check reads. -/
def State.recordLooks (s : State) (asid lrec queue tag : Nat) : List Look :=
  plainLook lrec 256 :: match s.readRecord asid lrec queue tag with
    | none => []
    | some g => s.launchLooks g none

/-- LAUNCH (R168 to R170, R173, R482). -/
def execLaunch (id : Nat) (s : State) : Host.Outcome State Fault Refusal :=
  runCommand "LAUNCH" id (fun c => !c.bad && c.op = 1) (fun c t => some (t.afterReads c.asid (t.recordLooks c.asid c.addr c.queue c.tag) fun u =>
    match u.readRecord c.asid c.addr c.queue c.tag with
    | none => u.unreadLaunch c.queue c.tag
    | some g => let (gid, u1) := u.newId; u1.launch { g with id := gid })) s

/-! ### Dependences (R171) -/

/-- Every unlocked line of every L1 removed: an acquire at sys scope for the accesses of a launch (R171). -/
def State.acquireAll (s : State) : State :=
  { s.modCaches fun c => { c with l1 := c.l1.filter fun l => l.locked } with
    flights := s.flights.map fun a => if a.lanes.any (fun l => l.status = .ready) then { a with noInstall := true } else a }

/-- The signal words of a launch: none where one cannot be read, else whether each is reached. -/
def State.signalsMet (s : State) (g : Grid) : Option Bool :=
  (List.range 4).foldl (init := some true) fun acc k =>
    if g.sigaddr k = 0 then acc
    else match acc, s.readTable g.asid (g.sigaddr k) 8 1 with
      | some b, some l => some (b && g.sigval k ≤ l.headD 0)
      | _, _ => none

/-- The signal words that a check reads. -/
def Grid.signalLooks (g : Grid) : List Look :=
  ((List.range 4).filter fun k => g.sigaddr k ≠ 0).map fun k => plainLook (g.sigaddr k) 8

/-- SIGNAL_CHECK (R171): a held launch whose signals are met enters the FIFO; one whose signal word cannot be read fails. A check that finds a signal not met leaves what its reads leave. -/
def execSignalCheck (grid : Nat) (s : State) : Host.Outcome State Fault Refusal :=
  event "SIGNAL_CHECK" ((s.grid? grid).bind fun g =>
    if g.phase ≠ .held then none
    else
      let u := s.noteReads g.asid g.signalLooks
      match s.signalsMet g with
      | none => some (({ u with grids := u.grids.filter fun x => x.id ≠ grid }).launchAnswer g 5 3)
      | some false => if u.mem = s.mem && u.kiln = s.kiln then none else some u
      | some true =>
        let s1 := u.acquireAll.modGrid grid fun x => { x with phase := .running }
        some ({ s1 with fifo := s1.fifo ++ [Runnable.grid grid] }).distribute)

/-! ### The end of a launch (R158, R172) -/

/-- A reset of the context has begun and its shootdown is not over: its launches complete after it (R488). -/
def State.resetting (s : State) (asid : Nat) : Bool :=
  s.kiln.resets.contains asid || (s.eng.shootdowns ++ s.eng.queued).any fun w => w.asid = asid && match w.poster with
    | .mailbox | .kiln => true
    | _ => false

/-- Every gang of the launch has ended, nothing of it is still to be placed, and no push or drop notice of its context is under way (R469, R473); a consumer's queue has no producers left and holds nothing (R158). -/
def State.launchOver (s : State) (g : Grid) : Bool :=
  g.phase ≠ .held && !s.resetting g.asid && (s.eng.pushes.all fun p => p.asid ≠ g.asid) && (s.eng.notices.all fun n => n.key.asid ≠ g.asid) && g.lastGang ≤ g.nextGang && (s.gangs.all fun x => x.grid ≠ g.id) &&
    match g.consumerOf with
    | none => true
    | some q => s.bins.all fun b => b.id ≠ q || (b.producers ≤ b.producersEnded && b.bins = [] && b.batches = [])

/-- The atomic add to SIGOUT (R172): the status that it leaves. -/
def State.addSigout (s : State) (g : Grid) : Nat × State :=
  if g.sigout = 0 then (0, s)
  else match s.ctxNat g.asid g.sigout 8 needBoth false with
    | .error (f, _) => (6, s.logEvent 8 g.asid g.sigout g.launchId (f.code * 256 + f.cause))
    | .ok (v, s1) => match s1.ctxWrite g.asid g.sigout (bytesOfNat 8 (v + 1)) needBoth false none with
      | .ok s2 => (0, s2)
      | .error _ => (0, s1)

/-- The queues that a grid produced for count its end (R158). -/
def State.producerEnded (s : State) (g : Grid) : State :=
  let descs := ((g.ports.filter fun p => p.1 = 2).map (·.2)).eraseDups
  let count (b : BinQueue) : BinQueue := if b.asid = g.asid && descs.contains b.desc then { b with producersEnded := b.producersEnded + 1 } else b
  { s with bins := (s.bins.map count).filter fun b => g.consumerOf ≠ some b.id }

/-- The grid gone, with its completion (R172); a consumer's grid answers no command. -/
def State.closeGrid (s : State) (g : Grid) : State :=
  let s1 := ({ s with grids := s.grids.filter fun x => x.id ≠ g.id, fifo := s.fifo.filter fun r => r ≠ Runnable.grid g.id }).producerEnded g
  let (status, s2) := if g.result.isSome then (0, s1) else s1.addSigout g
  if g.consumerOf.isSome then s2
  else match g.result with
    | some (cstat, st) => s2.launchAnswer g st cstat
    | none => s2.launchAnswer g status (if status = 0 then 0 else 3)

/-- LAUNCH_COMPLETE (R172). -/
def execLaunchComplete (grid : Nat) (s : State) : Host.Outcome State Fault Refusal :=
  event "LAUNCH_COMPLETE" ((s.grid? grid).bind fun g => if s.launchOver g then some (s.closeGrid g).distribute else none)

/-! ### Ending a launch from outside (R483, R488) -/

/-- A copy has not started, or cannot go on: a fence, or a copy none of whose lines has arrived or whose source is absent. -/
def State.unstarted (s : State) (c : Copy) : Bool :=
  c.fence.isSome || c.arrived = [] || (List.range c.pieces.length).any fun k => !c.arrived.contains k && match c.pieces[k]? with
    | some p => !s.sourcePresent c p
    | none => false

/-- A resident gang ended without default-action events: what it staged is lost, and its unstarted copies and matrix operations are discarded. -/
def State.endResident (s : State) (ga : Gang) : State :=
  let ids := (s.wavesOf ga.id).map (·.id)
  let s1 := (s.modGang ga.id fun g => { g with staged := [] }).dropLogged fun a => ids.contains a.wave
  let s2 := (s1.modEng fun e => { e with copies := e.copies.filter fun c => c.gang ≠ ga.id || !s1.unstarted c }).modMatrix fun m =>
    { m with table := m.table.filter fun e => e.gang ≠ ga.id }
  ids.foldl (fun t id => t.endLanes id (BitVec.allOnes 32)) s2

/-- A gang that is not resident ended: it holds nothing but its saved state. -/
def State.endAway (s : State) (ga : Gang) : State :=
  let ids := (s.wavesOf ga.id).map (·.id)
  ({ s with flights := s.flights.filter fun a => !ids.contains a.wave }.modGang ga.id fun g => { g with staged := [] }).gangEnded ga.id

/-- The gangs of a launch ended, and none of it placed any more; its completion will carry this result. -/
def State.endLaunch (s : State) (g : Grid) (cstat : Nat) : State :=
  let s1 := { s with fifo := s.fifo.filter fun r => r ≠ Runnable.grid g.id }.modGrid g.id fun x =>
    { x with phase := .ending, nextGang := x.lastGang, result := some (cstat, 0) }
  let s2 := (s.gangs.filter fun x => x.grid = g.id).foldl (init := s1) fun t ga => if ga.resident then t.endResident ga else t.endAway ga
  match g.consumerOf with
  | some q => { s2 with bins := s2.bins.map fun (b : BinQueue) => if b.id = q then { b with bins := [], batches := [], producersEnded := b.producers } else b }
  | none => s2

/-- CANCEL (R483): the earliest unfinished launch of the queue with the TAG is ended; a held one completes at once. -/
def execCancel (id : Nat) (s : State) : Host.Outcome State Fault Refusal :=
  runCommand "CANCEL" id (fun c => !c.bad && c.op = 5) (fun c t => some (
    match t.grids.find? fun g => g.queue = c.queue && g.tag = bitsOf c.addr 0 16 && g.consumerOf.isNone with
    | none => t.answer c.queue c.tag c.addr 3
    | some g =>
      let t1 := if g.phase = .held then ({ t with grids := t.grids.filter fun x => x.id ≠ g.id } : State).launchAnswer g 0 2
                else (t.endLaunch g 2).distribute
      t1.answer c.queue c.tag c.addr 0)) s

end Sys2Proof.Machine
end

