-- ==== Sys2Proof/Machine/Frames.lean ====
section
/-! DEFINITION. The arithmetic of nested geometry: exact fractions, ray state and its descent (R239 to R246), edges and triangles (R247, R248), and the camera of rast (R252, R253). Positions are integers in units of 2^-24 cells. -/

namespace Sys2Proof.Machine

/-! ### Vectors and fractions -/

/-- Three integers, on x, y and z. -/
structure V3 where
  x : Int
  y : Int
  z : Int
deriving DecidableEq, Repr

/-- The vector of a function of the axis 0, 1, 2. -/
def V3.of (f : Nat → Int) : V3 := ⟨f 0, f 1, f 2⟩
/-- The component on an axis. -/
def V3.get (v : V3) (a : Nat) : Int := if a = 0 then v.x else if a = 1 then v.y else v.z
/-- Every component holds. -/
def V3.all (v : V3) (p : Int → Bool) : Bool := p v.x && p v.y && p v.z
/-- The difference. -/
def V3.sub (v w : V3) : V3 := ⟨v.x - w.x, v.y - w.y, v.z - w.z⟩
/-- The scalar product. -/
def V3.dot (v w : V3) : Int := v.x * w.x + v.y * w.y + v.z * w.z
/-- The vector product. -/
def V3.cross (v w : V3) : V3 := ⟨v.y * w.z - v.z * w.y, v.z * w.x - v.x * w.z, v.x * w.y - v.y * w.x⟩

/-- An exact fraction with a positive denominator. -/
structure Frac where
  num : Int
  den : Nat
deriving DecidableEq, Repr

/-- A quotient of integers with a non-zero divisor. -/
def fracOf (n d : Int) : Frac := if d < 0 then ⟨-n, d.natAbs⟩ else ⟨n, d.natAbs⟩
/-- The order of fractions. -/
def Frac.lt (a b : Frac) : Bool := a.num * b.den < b.num * a.den
/-- Equal fractions. -/
def Frac.eq (a b : Frac) : Bool := a.num * b.den = b.num * a.den
/-- The fraction rounded to an integer, to nearest even. -/
def Frac.rne (f : Frac) : Int :=
  let a := f.num.natAbs
  let n := a / f.den
  let m : Nat := if roundsUp 0 false n (a % f.den) f.den then n + 1 else n
  if f.num < 0 then -(m : Int) else m

/-- RNE64 of a fraction. -/
def Frac.to64 (f : Frac) : Nat := f64.round 0 (f.num < 0) f.num.natAbs f.den

/-- A finite binary64 value as a fraction. -/
def frac64 (x : Nat) : Frac :=
  match f64.value x with
  | .inf _ => ⟨0, 1⟩
  | .fin neg m e => let (p, q) := scale m 1 e; ⟨signed neg p, q⟩

/-- Where a binary64 value that is no NaN stands in the order of the reals: −0 with +0. -/
def key64 (x : Nat) : Int := if x.testBit 63 then -((x % 2 ^ 63 : Nat) : Int) else x

/-- +∞ as binary64. -/
def inf64 : Nat := 0x7FF0000000000000

/-- The root parameter RNE64(TB + t × 2^-K) (R246). -/
def rootParam (tb : Nat) (k : Int) (t : Frac) : Nat :=
  let b := frac64 tb
  let (p, q) : Int × Nat := if 0 ≤ k then (t.num, t.den * 2 ^ k.toNat) else (t.num * 2 ^ (-k).toNat, t.den)
  Frac.to64 ⟨b.num * q + p * b.den, b.den * q⟩

/-! ### Boxes (R245) -/

/-- A bound of an interval: its value, and whether it belongs to the interval. -/
abbrev Bound := Frac × Bool

/-- The t at which a coordinate lies in [lo, hi): none at all, every one, or an interval. Positions are in units of 1/q cells. -/
inductive Span where
  | none
  | every
  | between (lo hi : Bound)
deriving DecidableEq, Repr

/-- The span of one axis. -/
def axisSpan (q : Nat) (o d lo hi : Int) : Span :=
  if d = 0 then (if lo ≤ o && o < hi then .every else .none)
  else if 0 < d then .between (fracOf (lo - o) (d * q), true) (fracOf (hi - o) (d * q), false)
  else .between (fracOf (hi - o) (d * q), false) (fracOf (lo - o) (d * q), true)

/-- The later of two lower bounds. -/
def laterBound (a b : Bound) : Bound := if a.1.lt b.1 || (a.1.eq b.1 && a.2) then b else a
/-- The earlier of two upper bounds. -/
def earlierBound (a b : Bound) : Bound := if b.1.lt a.1 || (a.1.eq b.1 && a.2) then b else a

/-- The intersection of two spans. -/
def Span.meet : Span → Span → Span
  | .none, _ => .none
  | _, .none => .none
  | .every, b => b
  | a, .every => a
  | .between l h, .between l' h' =>
    let lo := laterBound l l'
    let hi := earlierBound h h'
    if hi.1.lt lo.1 || (hi.1.eq lo.1 && !(lo.2 && hi.2)) then .none else .between lo hi

/-- The infimum of the t at which a ray lies in a box; none where it never does. -/
def boxLow (q : Nat) (o d lo hi : V3) : Option Frac :=
  match ((axisSpan q o.x d.x lo.x hi.x).meet (axisSpan q o.y d.y lo.y hi.y)).meet (axisSpan q o.z d.z lo.z hi.z) with
  | .between l _ => some l.1
  | .every => some ⟨0, 1⟩
  | .none => none

/-- The same component on every axis. -/
def V3.all1 (x : Int) : V3 := ⟨x, x, x⟩

/-- The infimum of a ray's interval in the whole box of a node with nesting bits `b` (R232). -/
def ownBoxLow (q b : Nat) (o d : V3) : Option Frac := boxLow q o d (V3.all1 (-(2 ^ (b - 1) * q : Nat))) (V3.all1 (2 ^ (b - 1) * q : Nat))

/-! ### Ray state (R239 to R243) -/

/-- The ray state in a node's frame (R239), with the node's nesting bits and the entry that led to it: none at the root and in an instanced frame. -/
structure Ray where
  o : V3
  d : V3
  tb : Nat
  k : Int
  b : Nat
  up : Option ChildEntry
deriving DecidableEq, Repr

/-- 2^24, the units in a cell. -/
def unit24 : Nat := 2 ^ 24

/-- Renormalisation (R241): the direction and the shift. R241 does not say whether the least shift is judged before or after the rounding: the rounded components are judged (DESIGN CHOICE, log entry 91). -/
def renorm (d : V3) : V3 × Nat :=
  let at_ (k : Nat) : V3 := V3.of fun a => Frac.rne ⟨d.get a, 2 ^ k⟩
  let k := ((List.range 64).find? fun k => (at_ k).all fun x => x.natAbs ≤ 2 ^ 30).getD 0
  (at_ k, k)

/-- K as it is held, in 8 signed bits (R239): the spec does not say what a sum outside them leaves, and it is a free value. -/
def heldK (k : Int) : Int := if -128 ≤ k && k < 128 then k else (Config.wideK k).toInt

/-- The state from an exact origin, in units of 1/q cells with q = 2^24 × den, and an exact direction (R241, R242); none where the line misses the box that a re-base needs. A re-base at an upper face leaves the value that R242 states, the face itself, though R239's window ends below it (DEDUCED, log entry 88). -/
def settleRay (den : Nat) (o d : V3) (tb : Nat) (k : Int) (b : Nat) (up : Option ChildEntry) : Option Ray :=
  let q := unit24 * den
  let (d', n) := renorm d
  if o.all fun x => decide (-(128 * q : Nat) ≤ x) && decide (x < (128 * q : Nat)) then
    some ⟨V3.of fun a => Frac.rne ⟨o.get a, den⟩, d', tb, heldK (k + n), b, up⟩
  else (ownBoxLow q b o d).map fun te =>
    ⟨V3.of fun a => Frac.rne ⟨o.get a * te.den + te.num * d.get a * q, den * te.den⟩, d', rootParam tb k te, heldK (k + n), b, up⟩

/-- The faces of an entry's box in its parent's frame (R245). -/
def entryFaces (b : Nat) (c : ChildEntry) : V3 × V3 :=
  let lo (a : Nat) : Int := ((c.lo.getD a 0 : Nat) : Int) - (2 ^ (b - 1) : Nat)
  (V3.of fun a => lo a * unit24, V3.of fun a => (lo a + (2 ^ c.e.getD a 0 : Nat)) * unit24)

/-- The infimum of a ray's interval in an entry's box. -/
def Ray.entryLow (r : Ray) (c : ChildEntry) : Option Frac :=
  let (lo, hi) := entryFaces r.b c
  boxLow unit24 r.o r.d lo hi

/-- A descent into a child entry whose node has nesting bits `bc` (R240 to R242). -/
def Ray.descend (r : Ray) (c : ChildEntry) : Option Ray :=
  let bc := c.cnb + 2
  let lo := (entryFaces r.b c).1
  let s (a : Nat) : Nat := bc - c.e.getD a 0
  settleRay 1 (V3.of fun a => (r.o.get a - lo.get a) * (2 ^ s a : Nat) - (2 ^ (bc - 1) : Nat) * unit24) (V3.of fun a => r.d.get a * (2 ^ s a : Nat))
    r.tb r.k bc (some c)

/-- The matrix of an instance node and its shift (R237). -/
def Node.matrix (n : Node) (i j : Nat) : Int := signedOf 8 (n.f (176 + 8 * (3 * i + j)) 8)
/-- See `matrix`. -/
def Node.shift (n : Node) : Nat := n.f 248 4

/-- Entering an instance node's frame (R243); none for a zero direction or a missed box. A re-base there measures t_e and TB with K - s: R242 has K as it stood before R241's change, and R243 subtracts s after it (DESIGN CHOICE, log entry 91). -/
def Ray.instanced (r : Ray) (n : Node) : Option Ray :=
  let row (i : Nat) : V3 := V3.of (n.matrix i)
  let d := V3.of fun i => (row i).dot r.d
  if d = V3.all1 0 then none else settleRay (2 ^ n.shift) (V3.of fun i => (row i).dot r.o) d r.tb (r.k - n.shift) r.b none

/-- The root state (R239) and the lower end of the root box's interval as a root parameter, +∞ where the ray does not meet the box. -/
def rootRay (o d : V3) (b : Nat) : Option (Ray × Nat) :=
  (settleRay 1 o d 0 0 b none).map fun r => (r, match ownBoxLow unit24 b o d with | some t => rootParam 0 0 t | none => inf64)

/-- The root parameter of a local one, in a state (R246). -/
def Ray.root (r : Ray) (t : Frac) : Nat := rootParam r.tb r.k t

/-! ### Triangles (R236, R247, R248) -/

/-- Vertex 0, 1 or 2 of a triangle, in lattice coordinates. -/
def triVertex (t v : Nat) : V3 := V3.of fun a => bitsOf t (12 * v + 4 * a) 4
/-- MAT. -/
def triMat (t : Nat) : Nat := bitsOf t 48 16
/-- The triangle is ignored (R238). -/
def triIgnored (t b : Nat) : Bool := bitsOf t 42 6 ≠ 0 || (List.range 3).any fun v => !(triVertex t v).all fun x => decide (x ≤ (2 ^ b : Nat))

/-- A point of a node's frame raised to the frame of the parent (R247). -/
def raisePoint (bn bp : Nat) (c : ChildEntry) (x : V3) : V3 :=
  let lo := (entryFaces bp c).1
  V3.of fun a => lo.get a + (x.get a + (2 ^ (bn - 1) : Nat) * unit24) * (2 ^ c.e.getD a 0 : Nat) / (2 ^ bn : Nat)

/-- The ray state and the edge's endpoints in the frame of its owner (R247): the path's states, the leaf's first. -/
def ownerFrame : Nat → List Ray → V3 → V3 → Option (Ray × V3 × V3)
  | _, [], _, _ => none
  | 0, r :: _, p, q => some (r, p, q)
  | n + 1, r :: rs, p, q => match r.up, rs with
    | some c, r' :: _ => ownerFrame n rs (raisePoint r.b r'.b c p) (raisePoint r.b r'.b c q)
    | _, _ => some (r, p, q)

/-- The difference of two points is lexicographically positive. -/
def lexPositive (v : V3) : Bool := 0 < v.x || (v.x = 0 && (0 < v.y || (v.y = 0 && 0 < v.z)))

/-- The sign of an edge (R248): true for +1. -/
def edgeSign (r : Ray) (p q : V3) : Bool :=
  let e := r.d.dot ((p.sub r.o).cross (q.sub r.o))
  if e = 0 then lexPositive (q.sub p) else 0 < e

/-- A triangle's hit in the leaf whose states are given (R248): whether it is a front hit, and the parameter in the leaf's state. -/
def triHit (path : List Ray) (t : Nat) : Option (Bool × Frac) :=
  match path with
  | [] => none
  | r :: _ =>
    if triIgnored t r.b then none
    else
      let p (v : Nat) : V3 := V3.of fun a => ((triVertex t (v % 3)).get a - (2 ^ (r.b - 1) : Nat)) * unit24
      let sign (v : Nat) : Bool := match ownerFrame (bitsOf t (36 + 2 * v) 2) path (p v) (p (v + 1)) with
        | some (o, x, y) => edgeSign o x y
        | none => false
      let n := ((triVertex t 1).sub (triVertex t 0)).cross ((triVertex t 2).sub (triVertex t 0))
      let nd := n.dot r.d
      if sign 0 = sign 1 ∧ sign 1 = sign 2 ∧ nd ≠ 0 then some (sign 0, fracOf (n.dot ((p 0).sub r.o)) (nd * unit24)) else none

/-! ### The camera of rast (R252, R253) -/


/-- A camera: three rows of four entries, row by row, and the exponent G. -/
abbrev CamData := List Int × Int

/-- An entry of a camera. -/
def camAt (m : CamData) (r c : Nat) : Int := m.1.getD (4 * r + c) 0

/-- Twelve entries by row and column. -/
def camOf (f : Nat → Nat → Int) : List Int := (List.range 12).map fun n => f (n / 4) (n % 4)

/-- The camera carried into a child (R252), in a parent with nesting bits `bp`. As in `renorm`, the least shift is judged on the rounded entries (DESIGN CHOICE, log entry 91). -/
def camDescend (m : CamData) (bp : Nat) (c : ChildEntry) : CamData :=
  let bc := c.cnb + 2
  let e (a : Nat) : Nat := c.e.getD a 0
  let s := max (max (bc - e 0) (bc - e 1)) (bc - e 2) + 1
  let off (a : Nat) : Int := (2 ^ s : Nat) * (((c.lo.getD a 0 : Nat) : Int) - (2 ^ (bp - 1) : Nat)) + (2 ^ (s + e a - 1) : Nat)
  let next := camOf fun r a =>
    if a < 3 then camAt m r a * (2 ^ (s + e a - bc) : Nat)
    else (2 ^ s : Nat) * camAt m r 3 + camAt m r 0 * off 0 + camAt m r 1 * off 1 + camAt m r 2 * off 2
  let at_ (k : Nat) : List Int := next.map fun x => Frac.rne ⟨x, 2 ^ k⟩
  let k := ((List.range 64).find? fun k => (at_ k).all fun x => x.natAbs ≤ 2 ^ 62).getD 0
  (at_ k, m.2 + s - k)

/-- The determinant of three rows. -/
def det3 (a b c : V3) : Int := a.dot (b.cross c)

/-- The sign of an integer as −1, 0 or 1. -/
def sgn (x : Int) : Int := if x < 0 then -1 else if x = 0 then 0 else 1

/-- The edge from P to Q covers a sample (R253). -/
def edgeCovers (p q s : V3) : Bool :=
  let e := det3 p q s
  let w := sgn (p.z * q.z)
  let dy := sgn (q.y * p.z - p.y * q.z) * w
  let dx := sgn (q.x * p.z - p.x * q.z) * w
  0 < e || (e = 0 && (0 < dy || (dy = 0 && dx < 0)))

/-- Coverage and depth of a triangle over a block of 4 × 4 pixels (R253): the sign of Δ, the mask, and the depth at the lowest covered sample as binary32. -/
def rastTriangle (m : CamData) (b : Nat) (t : Nat) (x0 y0 : Int) : Int × Nat × Nat :=
  let h (v : Nat) : V3 :=
    let x := triVertex t v
    V3.of fun r => (List.range 3).foldl (fun n a => n + camAt m r a * (x.get a - (2 ^ (b - 1) : Nat))) (camAt m r 3)
  let delta := det3 (h 0) (h 1) (h 2)
  let (p, q) := if delta < 0 then (h 2, h 1) else (h 1, h 2)
  let sample (n : Nat) : V3 := ⟨2 * x0 + 2 * (n % 4 : Nat) + 1, 2 * y0 + 2 * (n / 4 : Nat) + 1, 2⟩
  let sum (n : Nat) : Int := det3 (h 0) p (sample n) + det3 p q (sample n) + det3 q (h 0) (sample n)
  let covered := (List.range 16).filter fun n =>
    delta ≠ 0 && 0 < sum n && edgeCovers (h 0) p (sample n) && edgeCovers p q (sample n) && edgeCovers q (h 0) (sample n)
  let depth := match covered with
    | [] => f32.inf false
    | n :: _ => let (u, v) := scale (2 * delta.natAbs) (sum n).natAbs (-m.2); f32.round 0 false u v
  (sgn delta, covered.foldl (fun k n => k + 2 ^ n) 0, depth)

end Sys2Proof.Machine
end

