-- ==== Sys2Proof/Machine/Queries.lean ====
section
/-! DEFINITION. What a query of the traversal unit answers: trav (R401, R402), isect (R403), trnx (R404, R405) and rast (R406), over node reads (R255, R398) and level-of-detail reads (R251). -/

namespace Sys2Proof.Machine

/-- Whose query it is and on which pool; the nodes that it has read already, and whether the walk is made to find the next one. -/
structure Asker where
  core : Nat
  asid : Nat
  priv : Bool
  res : Nat
  entry : Entry
  root : Nat
  seen : List (Nat × BitVec 512)
  seeking : Bool
deriving DecidableEq, Repr

/-- No fault: a walk that seeks the next node of a query to be read has come to it. -/
def wantFlt : Flt := ⟨257, 0, false⟩

/-- The address of a node (R232). -/
def Asker.nodeVa (q : Asker) (n : Nat) : Nat := (q.entry.base + 64 * n) % 2 ^ 64

/-- A node read whole (R255), or as the query has read it before (R257). -/
def Asker.node (q : Asker) (s : State) (n : Nat) : Except Failed (List Byte × State) :=
  match q.seen.find? fun x => x.1 = n with
  | some x => .ok (bytesOfNat 64 x.2.toNat, s)
  | none =>
    if q.seeking then .error (wantFlt, n, s)
    else (s.nodeRead q.core q.asid (q.nodeVa n) q.priv).map fun r => (bytesOfNat 64 r.1.toNat, r.2)

/-- The nodes of a block, one after another (R235). -/
def Asker.block (q : Asker) : List Nat → State → Except Failed (List Byte × State)
  | [], s => .ok ([], s)
  | n :: ns, s => do
    let (b, s1) ← q.node s n
    let (r, s2) ← q.block ns s1
    pure (b ++ r, s2)

/-- Bytes as a node. -/
def nodeOf (bs : List Byte) : Node := BitVec.ofNat 512 (natOfBytes bs)

/-- What a read came to: the bytes and the status word, EXACT being 0; or a fault, with the node at which it was met. -/
inductive Got where
  | read (bytes : List Byte) (status : Word)
  | fault (node : Nat)
deriving DecidableEq, Repr

/-- A read that must wait stops the whole query for now, and so does the next node that a walk seeks; any other fault is the node's own (R402). -/
def Asker.settle {α : Type} (q : Asker) (node : Nat) (nodes : List Nat) (r : Except Failed α) (k : α → Got × State) : Except (Option Nat) (Got × State) :=
  match r with
  | .ok x => .ok (k x)
  | .error (f, va, t) =>
    if f.held then .error none
    else if f = wantFlt then .error (some va)
    else
      let i := (va + 2 ^ 64 - q.entry.base % 2 ^ 64) % 2 ^ 64 / 64
      .ok (.fault (if nodes.contains i then i else node), t)

/-- The root node (R84). -/
def Asker.readRoot (q : Asker) (s : State) : Except (Option Nat) (Got × State) :=
  q.settle q.root [] (q.node s q.root) fun r => (.read r.1 0, r.2)

/-- A descent's or a block's read of some nodes, the push naming `node` (R85, R251): plain in a pool without level of detail, BADRES in an ill-formed one (R396), else LodRead with its push. -/
def Asker.lod (q : Asker) (s : State) (level group node : Nat) (nodes : List Nat) : Except (Option Nat) (Got × State) :=
  if !q.entry.lodr then q.settle node nodes (q.block nodes s) fun r => (.read r.1 0, r.2)
  else if q.entry.illFormed then .ok (.read [] badRes, s)
  else
    let l := min level q.entry.tail
    q.settle node nodes
      (s.lodRead q.core q.asid q.entry l q.entry.tail group (64 * node) q.priv fun z m => if m = l then q.block nodes z else .ok ([], z))
      fun r => (.read r.1.bytes (if bitsOf r.1.status.toNat 0 3 = 0 then 0 else r.1.status), match r.1.push with
        | some (lv, page, g) => r.2.conePush q.core q.asid q.res lv page 2 g
        | none => r.2)

/-- CODE of a status word. -/
def codeOf (w : Word) : Nat := bitsOf w.toNat 0 3

/-! ### The status word (R397) -/

/-- The status word of a query. -/
def queryStatus (outcome : Nat) (lods : List Word) (empty deep : Bool) (ninst : Nat) : Word :=
  let lod := lods.foldl leastExact 0
  BitVec.ofNat 32 ((if codeOf lod = 0 then 0 else lod.toNat % 65536) + outcome * 2 ^ 16 + empty.toNat * 2 ^ 20 + deep.toNat * 2 ^ 21 + ninst % 4 * 2 ^ 22)

/-! ### trav -/

/-- A ray description (R400): flags, and TMIN and TMAX as binary64. -/
structure RayDesc where
  o : V3
  d : V3
  flags : Nat
  tmin : Nat
  tmax : Nat
deriving DecidableEq, Repr

/-- The ray description in operand registers. -/
def rayDesc (ops : List Word) : RayDesc :=
  let r (n : Nat) : Word := ops.getD n 0
  let pair (n : Nat) : Nat := (pairOf (r n) (r (n + 1))).toNat
  ⟨V3.of fun a => signedOf 64 (pair (2 * a)), V3.of fun a => signedOf 32 (r (6 + a)).toNat, (r 9).toNat, pair 10, pair 12⟩

/-- BADRAY: a reserved flag, or a bound that is a NaN (R401, R403). -/
def RayDesc.bad (d : RayDesc) : Bool := d.flags / 4 ≠ 0 || f64.isNan d.tmin || f64.isNan d.tmax
/-- NOBACK. -/
def RayDesc.noBack (d : RayDesc) : Bool := d.flags.testBit 0
/-- NOPROXY. -/
def RayDesc.noProxy (d : RayDesc) : Bool := d.flags.testBit 1
/-- A root parameter counts (R246). -/
def RayDesc.counts (d : RayDesc) (t : Nat) : Bool := key64 d.tmin ≤ key64 t && key64 t < key64 d.tmax

/-- A candidate (R246). -/
structure Cand where
  t : Nat
  proxy : Bool
  node : Nat
  tri : Nat
  mat : Nat
  outcome : Nat
  ninst : Nat
  lods : List Word
deriving DecidableEq, Repr

/-- The first of two candidates in the order of R246. -/
def Cand.before (a b : Cand) : Bool :=
  if key64 a.t ≠ key64 b.t then key64 a.t < key64 b.t
  else if a.proxy ≠ b.proxy then b.proxy
  else if a.node ≠ b.node then a.node < b.node
  else a.tri < b.tri

/-- What was met on the way at a lower end (R402): an empty node, a read that faulted, or a read that was not exact. -/
inductive Met where
  | empty
  | fault (node : Nat)
  | lod (status : Word)
deriving DecidableEq, Repr

/-- A traversal so far. -/
structure Trace where
  s : State
  cands : List Cand
  met : List (Nat × Met)

/-- The traversal with a candidate. -/
def Trace.add (t : Trace) (c : Cand) : Trace := { t with cands := t.cands ++ [c] }
/-- The traversal with a record. -/
def Trace.note (t : Trace) (low : Nat) (m : Met) : Trace := { t with met := t.met ++ [(low, m)] }

/-- A proxy stands in (R251): at the lower end, raised to tmin; NOPROXY removes it. -/
def Trace.proxy (t : Trace) (d : RayDesc) (low node mat ninst : Nat) (lods : List Word) : Trace :=
  let at_ := if key64 low < key64 d.tmin then d.tmin else low
  if d.noProxy || !d.counts at_ then t else t.add ⟨at_, true, node, 0, mat, 2, ninst, lods⟩

/-- The triangles of a leaf tested in order (R248). -/
def Trace.triangles (t : Trace) (d : RayDesc) (path : List Ray) (node ninst : Nat) (lods : List Word) (words : List Nat) : Trace :=
  (List.range words.length).foldl (init := t) fun t j =>
    let w := words.getD j 0
    match triHit path w, path with
    | some (front, u), r :: _ =>
      let at_ := r.root u
      if (!front && d.noBack) || !d.counts at_ then t
      else t.add ⟨at_, false, node, j, triMat w, if front then 0 else 1, ninst, lods⟩
    | _, _ => t

/-- Triangle `j` of a leaf's inline words. -/
def Node.inline (n : Node) (j : Nat) : Nat := n.f (128 + 64 * j) 64

/-- A leaf visited: inline, or through its block, whose absence its own box stands for (R235, R251). -/
def Asker.leaf (q : Asker) (d : RayDesc) (t : Trace) (n : Nat) (x : Node) (path : List Ray) (low ninst : Nat) (lods : List Word) : Except (Option Nat) Trace :=
  if !x.lblk then .ok (t.triangles d path n ninst lods ((List.range x.ccount).map x.inline))
  else do
    let (g, s1) ← q.lod t.s x.clevel x.cgroup x.cbase ((List.range (ceilDiv x.tcount 8)).map (x.cbase + ·))
    let t1 := { t with s := s1 }
    match g with
    | .fault k => pure (t1.note low (.fault k))
    | .read bs st =>
      let t2 := if codeOf st = 0 then t1 else t1.note low (.lod st)
      let lods2 := if codeOf st = 0 then lods else lods ++ [st]
      if codeOf st = 4 then pure t2
      else if codeOf st = 2 then pure (t2.proxy d low n x.pmat ninst lods2)
      else pure (t2.triangles d path n ninst lods2 ((List.range x.tcount).map fun j => natOfBytes ((bs.drop (8 * j)).take 8)))

/-- A child entry taken in a state (R240, R245, R251): its box is entered, its node is read, and `visit` goes on with it; a child past path length 32 is empty (R238). -/
def Asker.enter (q : Asker) (d : RayDesc) (deep : Bool) (x : Node) (path : List Ray) (ninst : Nat) (lods : List Word)
    (visit : Trace → Nat → Node → List Ray → Nat → List Word → Except (Option Nat) Trace) (t : Trace) (c : ChildEntry) : Except (Option Nat) Trace :=
  match path with
  | [] => .ok t
  | r :: _ => match r.entryLow c with
    | none => .ok t
    | some u => do
      let low := r.root u
      let child := x.cbase + c.cidx
      if deep || c.bad r.b x.cbase q.entry.nodes then pure (t.note low .empty)
      else
        let (g, s1) ← q.lod t.s x.clevel x.cgroup child [child]
        let t1 := { t with s := s1 }
        match g with
        | .fault k => pure (t1.note low (.fault k))
        | .read bs st =>
          let t2 := if codeOf st = 0 then t1 else t1.note low (.lod st)
          let lods2 := if codeOf st = 0 then lods else lods ++ [st]
          if codeOf st = 4 then pure t2
          else if codeOf st = 2 then pure (t2.proxy d low child x.pmat ninst lods2)
          else if (nodeOf bs).nbits ≠ c.cnb + 2 then pure (t2.note low .empty)
          else match r.descend c with
            | none => pure t2
            | some r2 => visit t2 child (nodeOf bs) (r2 :: path) low lods2

/-- The entries of an interior node. -/
def Node.children (x : Node) : List ChildEntry := (List.range x.ccount).map x.child

/-- A node visited (R401), with `fuel` path lengths left (R238). Every child whose box the ray meets is visited. -/
def Asker.visit (q : Asker) (d : RayDesc) : Nat → Nat → Trace → Nat → Node → List Ray → Nat → List Word → Except (Option Nat) Trace
  | 0, _, t, _, _, _, low, _ => .ok (t.note low .empty)
  | fuel + 1, ninst, t, n, x, path, low, lods =>
    if x.empty q.entry || (x.kind = 2 && 2 ≤ ninst) then .ok (t.note low .empty)
    else match x.kind with
      | 0 => x.children.foldlM (q.enter d (fuel = 0) x path ninst lods fun t n y p l ls => q.visit d fuel ninst t n y p l ls) t
      | 1 => q.leaf d t n x path low ninst lods
      | 2 => match path with
        | [] => .ok t
        | r :: _ => match r.instanced x with
          | none => .ok t
          | some r2 => q.enter d (fuel = 0) x (r2 :: path) (ninst + 1) lods (fun t n y p l ls => q.visit d fuel (ninst + 1) t n y p l ls) t (x.child 0)
      | _ => .ok (t.proxy d low n x.pmat ninst lods)

/-- The words of a trav that hit nothing. -/
def travMiss (outcome node : Nat) (lods : List Word) (empty : Bool) : List Word :=
  [0, hi32 (BitVec.ofNat 64 inf64), BitVec.ofNat 32 node, 0, queryStatus outcome lods empty false 0]

/-- The result of a traversal (R401, R402): faults, empty nodes and level-of-detail reads count where they are required. -/
def Trace.result (t : Trace) (d : RayDesc) : List Word :=
  let best := t.cands.foldl (init := none) fun (m : Option Cand) c => match m with
    | none => some c
    | some b => if c.before b then some c else some b
  let tres := match best with | some c => c.t | none => d.tmax
  let required := (t.met.filter fun m => key64 m.1 < key64 tres).map (·.2)
  let lods := required.filterMap fun m => match m with | .lod w => some w | _ => none
  let empty := required.contains .empty
  let faults := required.filterMap fun m => match m with | .fault n => some n | _ => none
  match faults with
  | f :: fs => travMiss 9 (fs.foldl min f) lods empty
  | [] => match best with
    | none => travMiss 3 0xFFFFFFFF lods empty
    | some c => [BitVec.ofNat 32 c.t, BitVec.ofNat 32 (c.t / 2 ^ 32), BitVec.ofNat 32 c.node, BitVec.ofNat 32 (c.tri % 65536 + c.mat * 65536),
        queryStatus c.outcome (c.lods ++ lods) empty false c.ninst]

/-- trav in one lane (R401). -/
def Asker.trav (q : Asker) (ops : List Word) (s : State) : Except (Option Nat) (List Word × State) :=
  let d := rayDesc ops
  if d.bad then .ok (travMiss 7 0xFFFFFFFF [] false, s)
  else if d.d = V3.all1 0 then .ok (travMiss 3 0xFFFFFFFF [] false, s)
  else if q.entry.nodes ≤ q.root then .ok (travMiss 3 0xFFFFFFFF [] true, s)
  else do
    let (g, s1) ← q.readRoot s
    match g with
    | .fault n => pure (travMiss 9 n [] false, s1)
    | .read bs _ =>
      let x := nodeOf bs
      if x.empty q.entry then pure (travMiss 3 0xFFFFFFFF [] true, s1)
      else match rootRay d.o d.d x.nbits with
        | none => pure (travMiss 3 0xFFFFFFFF [] false, s1)
        | some (r, low) =>
          let t ← q.visit d 33 0 ⟨s1, [], []⟩ q.root x [r] low []
          pure (t.result d, t.s)

/-! ### isect -/

/-- The words of an isect without a hit. -/
def isectMiss (outcome : Nat) (empty : Bool) : List Word := [0, hi32 (BitVec.ofNat 64 inf64), queryStatus outcome [] empty false 0]

/-- isect in one lane (R403). -/
def Asker.isect (q : Asker) (ops : List Word) (s : State) : Except (Option Nat) (List Word × State) :=
  let tri := (pairOf (ops.getD 0 0) (ops.getD 1 0)).toNat
  let d := rayDesc (ops.drop 2)
  if d.bad then .ok (isectMiss 7 false, s)
  else if q.entry.nodes ≤ q.root then .ok (isectMiss 3 true, s)
  else do
    let (g, s1) ← q.readRoot s
    match g with
    | .fault _ => pure (isectMiss 9 false, s1)
    | .read bs _ =>
      let x := nodeOf bs
      if x.empty q.entry then pure (isectMiss 3 true, s1)
      else if d.d = V3.all1 0 then pure (isectMiss 3 false, s1)
      else match rootRay d.o d.d x.nbits with
        | none => pure (isectMiss 3 false, s1)
        | some (r, _) => match triHit [r] tri with
          | none => pure (isectMiss 3 false, s1)
          | some (front, u) =>
            let at_ := r.root u
            if (!front && d.noBack) || !d.counts at_ then pure (isectMiss 3 false, s1)
            else pure ([BitVec.ofNat 32 at_, BitVec.ofNat 32 (at_ / 2 ^ 32), queryStatus (if front then 0 else 1) [] false false 0], s1)

/-! ### trnx -/

/-- A path: the entry slots from the root down. -/
abbrev Path := List Nat

/-- A cursor (R404): none where it breaks the table; else the path of the item that it names, none before the first. -/
def cursorOf (x : Nat) : Option (Option Path) :=
  let depth := bitsOf x 48 5
  if bitsOf x 53 11 ≠ 0 || 17 < depth || bitsOf x (3 * (depth - 1)) (48 - 3 * (depth - 1)) ≠ 0 then none
  else if depth = 0 then some none else some (some ((List.range (depth - 1)).map fun k => bitsOf x (3 * k) 3))

/-- The cursor of an item. -/
def cursorTo (p : Path) : Nat := p.foldr (fun s n => s + 8 * n) 0 + (p.length + 1) * 2 ^ 48

/-- The path `a` ranks above `b`: by slots, a shorter one before what it begins (R405). -/
def pathAbove : Path → Path → Bool
  | [], _ => false
  | _ :: _, [] => true
  | a :: as, b :: bs => b < a || (a = b && pathAbove as bs)

/-- The path `a` begins the path `b`. -/
def pathBegins : Path → Path → Bool
  | [], _ => true
  | _ :: _, [] => false
  | a :: as, b :: bs => a = b && pathBegins as bs

/-- The path lies above the cursor. -/
def aboveCursor (c : Option Path) (p : Path) : Bool := match c with | none => true | some x => pathAbove p x
/-- Nothing below the path lies above the cursor. -/
def behindCursor (c : Option Path) (p : Path) : Bool := match c with | none => false | some x => !(pathAbove p x || pathBegins p x)

/-- What trnx has found: nothing yet, an item's words without its EMPTY bit, or a fault. -/
inductive Found where
  | nothing
  | item (path : Path) (node d3 : Nat) (outcome : Nat) (lods : List Word) (deep : Bool)
  | fault (node : Nat)
deriving DecidableEq, Repr

/-- A walk of trnx so far: the state, whether an empty node was met past the cursor, and what was found. -/
structure Walk where
  s : State
  empty : Bool
  found : Found

/-- An item offered: it is taken when it lies above the cursor. -/
def Walk.offer (t : Walk) (c : Option Path) (p : Path) (node d3 outcome : Nat) (lods : List Word) (deep : Bool) : Walk :=
  if aboveCursor c p then { t with found := .item p node d3 outcome lods deep } else t

/-- An empty node at a path. -/
def Walk.hollow (t : Walk) (c : Option Path) (p : Path) : Walk := if aboveCursor c p then { t with empty := true } else t

/-- One child of an interior node of trnx (R405). -/
def Asker.item (q : Asker) (c : Option Path) (x : Node) (p : Path) (lods : List Word)
    (visit : Walk → Nat → Node → Path → List Word → Except (Option Nat) Walk) (t : Walk) (i : Nat) : Except (Option Nat) Walk :=
  let e := x.child i
  let child := x.cbase + e.cidx
  let p2 := p ++ [i]
  if t.found ≠ .nothing || behindCursor c p2 then .ok t
  else if e.bad x.nbits x.cbase q.entry.nodes then .ok (t.hollow c p2)
  else do
    let (g, s1) ← q.lod t.s x.clevel x.cgroup child [child]
    let t1 := { t with s := s1 }
    match g with
    | .fault k => pure { t1 with found := .fault k }
    | .read bs st =>
      let lods2 := if codeOf st = 0 then lods else lods ++ [st]
      if codeOf st = 4 then pure t1
      else if codeOf st = 2 then pure (t1.offer c p2 child (x.pmat * 65536) 2 lods2 false)
      else if (nodeOf bs).nbits ≠ e.cnb + 2 then pure (t1.hollow c p2)
      else visit t1 child (nodeOf bs) p2 lods2

/-- A node of trnx, with `fuel` path lengths left before 16 (R405). -/
def Asker.items (q : Asker) (c : Option Path) : Nat → Walk → Nat → Node → Path → List Word → Except (Option Nat) Walk
  | fuel, t, n, x, p, lods =>
    if x.empty q.entry then .ok (t.hollow c p)
    else match x.kind with
      | 0 => match fuel with
        | 0 => .ok (t.offer c p n 0 5 lods true)
        | fuel + 1 => (List.range x.ccount).foldlM (q.item c x p lods fun t n y p ls => q.items c fuel t n y p ls) t
      | 1 => .ok (t.offer c p n (if x.lblk then x.tcount else x.ccount) 4 lods false)
      | 2 => .ok (t.offer c p n 0 5 lods false)
      | _ => .ok (t.offer c p n (x.pmat * 65536) 2 lods false)

/-- The words of a trnx that gives no item. -/
def trnxNone (outcome node : Nat) (empty : Bool) : List Word := [0, 0, BitVec.ofNat 32 node, 0, queryStatus outcome [] empty false 0]

/-- trnx in one lane (R405). -/
def Asker.trnx (q : Asker) (ops : List Word) (s : State) : Except (Option Nat) (List Word × State) :=
  match cursorOf (pairOf (ops.getD 0 0) (ops.getD 1 0)).toNat with
  | none => .ok (trnxNone 7 0xFFFFFFFF false, s)
  | some c =>
    if q.entry.nodes ≤ q.root then .ok (trnxNone 6 0xFFFFFFFF (aboveCursor c []), s)
    else do
      let (g, s1) ← q.readRoot s
      match g with
      | .fault n => pure (trnxNone 9 n false, s1)
      | .read bs _ =>
        let t ← q.items c 16 ⟨s1, false, .nothing⟩ q.root (nodeOf bs) [] []
        pure (match t.found with
          | .nothing => trnxNone 6 0xFFFFFFFF t.empty
          | .fault n => trnxNone 9 n t.empty
          | .item p n d3 outcome lods deep =>
            [BitVec.ofNat 32 (cursorTo p), BitVec.ofNat 32 (cursorTo p / 2 ^ 32), BitVec.ofNat 32 n, BitVec.ofNat 32 d3,
              queryStatus outcome lods t.empty deep 0], t.s)

/-! ### rast -/

/-- The words of a rast that covers nothing. -/
def rastMiss (outcome : Nat) (lods : List Word) (empty : Bool) : List Word := [0, BitVec.ofNat 32 (f32.inf false), queryStatus outcome lods empty false 0]

/-- The leaf at the end of a rast's path: its triangle covered (R253, R406). -/
def Asker.cover (q : Asker) (x : Node) (cam : CamData) (tri : Nat) (x0 y0 : Int) (s : State) : Except (Option Nat) (List Word × State) :=
  let done (w : Nat) (z : State) : List Word × State :=
    if triIgnored w x.nbits then (rastMiss 3 [] false, z)
    else match rastTriangle cam x.nbits w x0 y0 with
      | (sign, mask, depth) => if mask = 0 then (rastMiss 3 [] false, z)
        else ([BitVec.ofNat 32 mask, BitVec.ofNat 32 depth, queryStatus (if 0 < sign then 0 else 1) [] false false 0], z)
  if x.kind ≠ 1 || (if x.lblk then x.tcount else x.ccount) ≤ tri then .ok (rastMiss 7 [] false, s)
  else if !x.lblk then .ok (done (x.inline tri) s)
  else do
    let (g, s1) ← q.lod s x.clevel x.cgroup x.cbase [x.cbase + tri / 8]
    match g with
    | .fault _ => pure (rastMiss 9 [] false, s1)
    | .read bs st => if codeOf st ≠ 0 then pure (rastMiss 3 [st] false, s1) else pure (done (natOfBytes ((bs.drop (8 * (tri % 8))).take 8)) s1)

/-- The path of a rast walked from a node (R406). -/
def Asker.rastWalk (q : Asker) (tri : Nat) (x0 y0 : Int) : Path → Node → CamData → State → Except (Option Nat) (List Word × State)
  | p, x, cam, s =>
    if x.empty q.entry then .ok (rastMiss 3 [] true, s)
    else match p with
      | [] => q.cover x cam tri x0 y0 s
      | i :: p =>
        let e := x.child i
        if x.kind ≠ 0 || x.ccount ≤ i then .ok (rastMiss 7 [] false, s)
        else if e.bad x.nbits x.cbase q.entry.nodes then .ok (rastMiss 3 [] true, s)
        else do
          let (g, s1) ← q.lod s x.clevel x.cgroup (x.cbase + e.cidx) [x.cbase + e.cidx]
          match g with
          | .fault _ => pure (rastMiss 9 [] false, s1)
          | .read bs st =>
            if codeOf st ≠ 0 then pure (rastMiss 3 [st] false, s1)
            else if (nodeOf bs).nbits ≠ e.cnb + 2 then pure (rastMiss 3 [] true, s1)
            else q.rastWalk tri x0 y0 p (nodeOf bs) (camDescend cam x.nbits e) s1

/-- rast in one lane (R406). -/
def Asker.rast (q : Asker) (ops : List Word) (s : State) : Except (Option Nat) (List Word × State) :=
  let r (n : Nat) : Nat := (ops.getD n 0).toNat
  match cursorOf (r 14 + r 15 * 2 ^ 32) with
  | some (some p) =>
    if 65536 ≤ r 13 then .ok (rastMiss 7 [] false, s)
    else if q.entry.nodes ≤ q.root then .ok (rastMiss 3 [] true, s)
    else do
      let (g, s1) ← q.readRoot s
      match g with
      | .fault _ => pure (rastMiss 9 [] false, s1)
      | .read bs _ =>
        q.rastWalk (r 13) (signedOf 16 (r 12)) (signedOf 16 (r 12 / 65536)) p (nodeOf bs) ((List.range 12).map fun n => signedOf 24 (r n), 0) s1
  | _ => .ok (rastMiss 7 [] false, s)

end Sys2Proof.Machine
end

