-- ==== Sys2Proof/Machine/Geometry.lean ====
section
/-! DEFINITION. Posing queries (R394 to R396, R399), their completion (R395), and geosync (R407). -/

namespace Sys2Proof.Machine

/-! ### Posing -/

/-- The resource entry is no node pool that a query can name (R396). -/
def Entry.noPool (e : Entry) : Bool := e.kind ≠ 3 || (!e.lodr && (e.f 160 96 ≠ 0 || e.f 288 224 ≠ 0))

/-- Ray slots in use on a core's unit (R395). -/
def State.slotsUsed (s : State) (core : Nat) : Nat := ((s.eng.queries.filter fun q => q.core = core).map fun q => q.lanes.length).sum

/-- The queries of a word: one for each ACTIVE lane, with `n` operand registers from `a` on. -/
def Ctx.queryLanes (c : Ctx) (es : List (Nat × BitVec 512)) (r a n : Nat) : List QueryLane :=
  (laneList c.act).map fun l =>
    let idx := c.resIndex r l
    ⟨l, idx, ((es.find? fun e => e.1 = idx).map (·.2)).getD 0, (c.ssrc (r + 1) 0 l).toNat, (List.range n).map fun k => c.w.getV l (a + k), []⟩

/-- A word that poses queries: RAYLOST for a marked wave (R399), the checks of R396, a wait for slots (R395), then the queries. -/
def Ctx.pose (c : Ctx) (i : Instr) (r a n d words : Nat) (s : State) : Body :=
  if c.act = 0 then .ok s
  else if c.w.rayLost then c.trapOn 11 0 c.act 0 0
  else match c.entries r s with
    | .error ((f, va, u), lanes) => if f.held then .stay else c.failOn f lanes va u
    | .ok (es, s1) =>
      let lanes := c.queryLanes es r a n
      match lanes.filter fun l => Entry.noPool l.entry with
      | b :: bs => c.trapOn 0 0 (lanesWhere fun k => (b :: bs).any fun l => l.lane = k) 0 0
      | [] =>
        if 2048 < s.slotsUsed c.w.core + laneCount c.act then .stay
        else .ok { s1 with
          nextId := s1.nextId + 1
          eng := { s1.eng with queries := s1.eng.queries ++
            [{ id := s1.nextId, wave := c.w.id, core := c.w.core, asid := c.gr.asid, instr := i, privileged := c.w.priv, lanes, dst := d, words }] } }

/-- trav (R400, R401). -/
def execTrav (f : FmtG) (s : State) := issue (.trav f) s fun c t => c.pose (.trav f) f.s.toNat f.a.toNat 14 f.d.toNat 5 t
/-- trnx (R405). -/
def execTrnx (f : FmtG) (s : State) := issue (.trnx f) s fun c t => c.pose (.trnx f) f.s.toNat f.a.toNat 2 f.d.toNat 5 t
/-- isect (R403). -/
def execIsect (f : FmtG) (s : State) := issue (.isect f) s fun c t => c.pose (.isect f) f.s.toNat f.a.toNat 16 f.d.toNat 3 t
/-- rast (R406). -/
def execRast (f : FmtG) (s : State) := issue (.rast f) s fun c t => c.pose (.rast f) f.s.toNat f.a.toNat 16 f.d.toNat 3 t

/-! ### Answers -/

/-- A lane's query as it walks its pool. -/
def Query.asker (q : Query) (l : QueryLane) (seeking : Bool) : Asker := ⟨q.core, q.asid, q.privileged, l.res, l.entry, l.root, l.seen, seeking⟩

/-- A lane's query walked, by its word. -/
def Query.walked (q : Query) (l : QueryLane) (seeking : Bool) (s : State) : Except (Option Nat) (List Word × State) :=
  match q.instr with
  | .trav _ => (q.asker l seeking).trav l.ops s
  | .trnx _ => (q.asker l seeking).trnx l.ops s
  | .isect _ => (q.asker l seeking).isect l.ops s
  | _ => (q.asker l seeking).rast l.ops s

/-- What a lane's query answers. -/
def Query.answer (q : Query) (l : QueryLane) (s : State) : Except (Option Nat) (List Word × State) := q.walked l false s

/-- A lane's query reads one more node, whole, before it completes (R257): the next one that its walk comes to. -/
def State.stepQuery (s : State) (id lane : Nat) : State :=
  match s.eng.queries.find? fun q => q.id = id with
  | none => s
  | some q => match q.lanes.find? fun l => l.lane = lane with
    | none => s
    | some l => match q.walked l true s with
      | .error (some n) => match s.nodeRead q.core q.asid ((q.asker l true).nodeVa n) q.privileged with
        | .ok (x, t) => t.modEng fun e => { e with queries := e.queries.map fun y => if y.id = id then
            { y with lanes := y.lanes.map fun m => if m.lane = lane then { m with seen := m.seen ++ [(n, x)] } else m } else y }
        | .error _ => s
      | _ => s

/-- One lane's query answered: its registers are written and its slot is free. -/
def State.queryLane (s : State) (id lane : Nat) : Option State :=
  match s.eng.queries.find? fun q => q.id = id with
  | none => none
  | some q => match q.lanes.find? fun l => l.lane = lane with
    | none => none
    | some l => match q.answer l s with
      | .error _ => none
      | .ok (ws, t) => some (((t.pushedBy s.nextId id lane).putWords q.wave lane q.dst ws).modEng fun e =>
          { e with queries := e.queries.map fun x => if x.id = id then { x with lanes := x.lanes.filter fun y => y.lane ≠ lane } else x })

/-- A word whose queries are all answered: LD falls, and what waited for it goes on. -/
def State.finishQuery (s : State) (q : Query) : State :=
  if s.eng.queries.any fun x => x.id = q.id && x.lanes ≠ [] then s.settlePushes
  else
    let s1 := ((s.settlePushes.modEng fun e => { e with queries := e.queries.filter fun x => x.id ≠ q.id }).modWave q.wave fun w => w.lower 1).settleAcquires.settleFences
    match s1.wave? q.wave with
    | some w => if w.alive then s1 else (s1.sweepGang w.gang).distribute
    | none => s1

/-- QUERY_COMPLETE (R395): lanes of a word are answered. -/
def execQueryComplete (id : Nat) (lanes : Lanes) (s : State) : Host.Outcome State Fault Refusal :=
  event "QUERY_COMPLETE" ((s.eng.queries.find? fun q => q.id = id).bind fun q =>
    if lanes = 0 then none else (lanesDo (fun t l => t.queryLane id l) (laneList lanes) s).map fun t => t.finishQuery q)

/-! ### geosync -/

/-- The units that a scope word names (R407); none where it breaks the table. -/
def geoUnits (core : Nat) (x : Word) : Option (List Nat) :=
  let c := bitsOf x.toNat 2 9
  if bitsOf x.toNat 11 21 ≠ 0 || 383 < c then none
  else some (match bitsOf x.toNat 0 2 with
    | 0 => [core]
    | 1 => (List.range 4).map (4 * quadOf core + ·)
    | 2 => List.range 384
    | _ => [c])

/-- geosync (R407): the wave issues nothing until the units have finished. As an engine command it is held back by a release that is not over (R110). -/
def execGeosync (f : FmtGs) (s : State) := issue (.geosync f) s fun c t =>
  if c.act = 0 then .ok t
  else match geoUnits c.w.core (c.ssrc f.s.toNat 0 (lowestLane c.act)) with
    | none => c.illop
    | some units => if t.fencesOf c.w.id ≠ [] then .stay else .ok { t with nextId := t.nextId + 1, eng := { t.eng with syncs := t.eng.syncs ++ [⟨t.nextId, c.w.id, c.gr.asid, units⟩] } }

/-- The node lines of a context gone from some units and from their cores' L1s (R407). -/
def State.dropNodes (s : State) (asid : Nat) (units : List Nat) : State :=
  s.modCaches fun c => { c with
    nodes := c.nodes.filter fun l => !(l.asid = asid && units.contains l.core)
    l1 := c.l1.filter fun l => !(l.node && l.asid = asid && units.contains l.core) }

/-- GEOSYNC_DONE (R407). -/
def execGeosyncDone (id : Nat) (s : State) : Host.Outcome State Fault Refusal :=
  event "GEOSYNC_DONE" ((s.eng.syncs.find? fun g => g.id = id).map fun g =>
    (s.dropNodes g.asid g.units).modEng fun e => { e with syncs := e.syncs.filter fun x => x.id ≠ id })

end Sys2Proof.Machine
end

