-- ==== Sys2Proof/Machine/System.lean ====
section
/-! DEFINITION. Control and status registers (R416 to R419), posts of shootdowns and cleans (R38, R67), trapret (R199, R420), smask (R421), clock (R422) and rng (R228 to R231, R423). -/

namespace Sys2Proof.Machine

/-! ### The registers of a context (R417) -/

/-- The bits of a context register that a write reaches (R6): its number in R417. -/
def csrMask (n : Nat) : Quad :=
  match n with
  | 0x000 => 0x3F
  | 0x020 => 0x0FFFFFFFFFFFFF80
  | 0x021 => 0x0FFFFFFFFF000000
  | 0x022 => 0x0FFFFFFFFFFFF000
  | 0x023 => 0xFFFF
  | 0x024 => 0x0FFFFFFFFFFFFFC1
  | 0x025 => 0x3FFF
  | 0x026 => 0x0FFFFFFFFFE00000
  | 0x027 => 0xFFFF
  | 0x028 => 0x0FFFFFFFFFFFFFC3
  | 0x029 => 0xFFFFFFFF
  | 0x02A => 0xFFFFFFFF
  | 0x054 | 0x055 | 0x056 | 0x057 => 0x1FF
  | _ => BitVec.allOnes 64

/-- A context register as one core reads it. -/
def Context.readReg (c : Context) (n core : Nat) : Quad :=
  match n with
  | 0x000 => c.fpc
  | 0x020 => c.tvbase
  | 0x021 => c.trbase
  | 0x022 => c.svbase
  | 0x023 => c.svsize
  | 0x024 => c.crbase
  | 0x025 => c.lkquota.get core
  | 0x026 => c.lkpbase.get core
  | 0x027 => c.lkpsize.get core
  | 0x028 => c.ordlog
  | 0x029 => c.ordlen
  | 0x02A => c.ordpos
  | n => if n < 0x054 then c.waddr.get (n - 0x050) else c.wctl.get (n - 0x054)

/-- A context register written; one that is held on each core, on the cores of a list (R418). Reserved bits are ignored (R6), and LKQUOTA is held at 8,192 or less (R56). -/
def Context.writeReg (c : Context) (n : Nat) (cores : List Nat) (value : Quad) : Context :=
  let x := value &&& csrMask n
  let on (m : SMap 64) (y : Quad) : SMap 64 := m.setMany cores (fun k => k) fun _ => y
  match n with
  | 0x000 => { c with fpc := x }
  | 0x020 => { c with tvbase := x }
  | 0x021 => { c with trbase := x }
  | 0x022 => { c with svbase := x }
  | 0x023 => { c with svsize := x }
  | 0x024 => { c with crbase := x }
  | 0x025 => { c with lkquota := on c.lkquota (if x ≤ 8192 then x else 8192) }
  | 0x026 => { c with lkpbase := on c.lkpbase x }
  | 0x027 => { c with lkpsize := on c.lkpsize x }
  | 0x028 => { c with ordlog := x }
  | 0x029 => { c with ordlen := x }
  | 0x02A => { c with ordpos := x }
  | n => if n < 0x054 then { c with waddr := c.waddr.set (n - 0x050) x } else { c with wctl := c.wctl.set (n - 0x054) x }

/-- A context register of a context written; a new ORDPOS begins the replay anew there, and a new ORDLOG the order that it records: which wave accessed a line before is not known to its home (R205 does not say; DESIGN CHOICE, log entry 91). -/
def State.setCtxReg (s : State) (asid n : Nat) (cores : List Nat) (x : Quad) : State :=
  let s1 := s.modCtx asid fun c => c.writeReg n cores x
  if n = 0x02A then s1.modCaches fun c => { c with ordUsed := c.ordUsed.filter fun u => u.1 ≠ asid }
  else if n = 0x028 then s1.modCaches fun c => { c with lastWave := c.lastWave.filter fun x => x.2 / 2 ^ 32 ≠ asid }
  else s1

/-! ### Reading (R417) -/

/-- MXSTAT of a wave's team (R379); zero in no team, and where the team holds no tile. -/
def State.mxstat (s : State) (w : Wave) : Quad :=
  if teamList w.team = [] then 0
  else match s.eng.matrix.tiles.find? fun t => t.gang = w.gang && t.team = teamKey w.team with
    | none => 0
    | some t => BitVec.ofNat 64 (t.peA % 16 + t.peB % 16 * 2 ^ 4 + 2 ^ 8 + t.frozen.isSome.toNat * 2 ^ 9 + t.scaled.toNat * 2 ^ 10 + t.trap.toNat * 2 ^ 11 +
        min t.passes 65535 * 2 ^ 16 + t.entries.length % 2 ^ 14 * 2 ^ 32 + min t.folds 65535 * 2 ^ 48)

/-- A lane's query has node reads to make: its walk comes to a node that it has not read, or must wait (R258). -/
def Query.reads (q : Query) (l : QueryLane) (s : State) : Bool := match q.walked l true s with | .ok _ => false | .error _ => true

/-- GEOQCNT: rays of the context that captured the selected pool and root and whose last node read has not been performed (R258). -/
def State.geoqcnt (s : State) (asid : Nat) (sel : Quad) : Nat :=
  ((s.eng.queries.filter fun q => q.asid = asid).map fun q =>
    (q.lanes.filter fun l => l.res % 2 ^ 20 = bitsOf sel.toNat 0 20 && l.root = bitsOf sel.toNat 32 32 && q.reads l s).length).sum

/-- What csrr reads (R417). -/
def State.csrValue (s : State) (c : Ctx) (n : Nat) : Quad :=
  match n with
  | 0x000 => c.ga.fpc
  | 0x001 => c.w.tstat
  | 0x002 => c.w.team
  | 0x003 => s.mxstat c.w
  | 0x004 => c.w.geoqsel
  | 0x005 => BitVec.ofNat 64 (s.geoqcnt c.gr.asid c.w.geoqsel % 2 ^ 32)
  | 0x006 => BitVec.ofNat 64 (s.traddr c.gr.asid c.w)
  | 0x008 => c.ga.plres
  | 0x030 => s.pinsize.get c.w.core
  | n => (s.ctx c.gr.asid).readReg n c.w.core

/-- The LEGACY subcode of an access to a legacy register (R219). -/
def legacyCause (n : Nat) (write : Bool) : Nat :=
  match n with
  | 0x010 => if write then 2 else 1
  | 0x011 => 3
  | 0x012 => 4
  | 0x013 => 5
  | _ => 6

/-- ILLOP for want of privilege (R416): it does not depend on the guard. -/
def Ctx.unprivileged (c : Ctx) : Body := .trap (precise 0 0 c.word c.pc c.lanes c.lanes 0 0)

/-- A csrr performed (R418). MXSTAT is read once the wave's matrix instructions have completed (R379). -/
def Ctx.csrr (c : Ctx) (n r : Nat) (s : State) : Body :=
  if csrAccess n false = .privileged && !c.w.priv then c.unprivileged
  else if c.act = 0 then .ok s
  else if csrAccess n false = .legacy then c.trapOn 8 (legacyCause n false) c.act 0 0
  else if n = 0x003 && c.w.tl ≠ 0 then .stay
  else .ok (c.putS2 r (s.csrValue c n) s)

/-- The issue of a csrr word. -/
def issueCsrr (f : FmtY) (s : State) : Host.Outcome State Fault Refusal := issue (.csrr f) s fun c t => c.csrr f.c.toNat f.r.toNat t

/-- csrr (R418). -/
def execCsrr (f : FmtY) (s : State) := issueCsrr f s

/-! ### Posting a descriptor (R38, R67) -/

/-- The descriptor of a post, read through a context with RD and WR. Of an address that is neither aligned (R38) nor canonical (R15) the spec does not say which trap is raised: ALIGN comes first (DESIGN CHOICE, log entry 85). -/
def State.readDesc (s : State) (asid va : Nat) (priv : Bool) : Except Flt (Nat × State) :=
  if va % 32 ≠ 0 then .error ⟨4, 0, false⟩
  else match s.ctxNat asid va 32 needBoth priv with
    | .error (f, _) => .error f
    | .ok r => .ok r

/-- A descriptor is rejected (R38, R67); `bare` is whether its kind ignores VA and COUNT. -/
def descRejected (d : Nat) (bare : Nat → Bool) : Bool :=
  let kind := bitsOf d 112 8
  bitsOf d 108 4 ≠ 0 || bitsOf d 121 7 ≠ 0 || bitsOf d 192 64 ≠ 0 || 2 < kind ||
  (!bare kind && (bitsOf d 64 32 = 0 || 2 ^ 28 < bitsOf d 64 32 || bitsOf d 0 12 ≠ 0 || bitsOf d 60 4 ≠ 0))

/-- STATUS of a descriptor written through the poster's context. -/
def State.putStatus (s : State) (asid va status : Nat) : State :=
  match s.ctxWrite asid (va + 16) (bytesOfNat 8 status) needBoth true none with
  | .ok t => t
  | .error _ => s

/-- Kinds of a shootdown, and of a clean, that ignore VA and COUNT. -/
def bareShoot (kind : Nat) : Bool := kind = 1 || kind = 2
/-- See `bareShoot`. -/
def bareClean (kind : Nat) : Bool := kind = 2

/-- The work that a descriptor asks for. -/
def sweepOf (id : Nat) (poster : Poster) (asid va d : Nat) : Sweep :=
  { id, poster, asid, desc := va, kind := bitsOf d 112 8, va := bitsOf d 0 64, count := bitsOf d 64 32, target := bitsOf d 96 12, irq := d.testBit 120 }

/-- A descriptor posted; the flag says whether it was rejected. -/
def State.postSweep (s : State) (clean : Bool) (poster : Poster) (asid va d : Nat) : Bool × State :=
  if descRejected d (if clean then bareClean else bareShoot) then (true, s.putStatus asid va 2)
  else
    let (id, s1) := s.newId
    let w := sweepOf id poster asid va d
    (false, s1.modEng fun e => if clean then { e with cleans := e.cleans ++ [w] } else { e with shootdowns := e.shootdowns ++ [w] })

/-- A csrw to SDPOST or CLPOST: held at a blocking point while 16 posts are in flight. -/
def Ctx.post (c : Ctx) (clean : Bool) (va : Nat) (s : State) : Body :=
  match s.readDesc c.gr.asid va c.w.priv with
  | .error f => c.faultOn f c.act va
  | .ok (d, s1) =>
    if 16 ≤ (if clean then s.eng.cleans else s.eng.shootdowns).length then .block 0 0
    else .ok (s1.postSweep clean (.wave c.gr.asid) c.gr.asid va d).2

/-! ### Writing (R417, R418) -/

/-- No gang is placed on a core (R60). -/
def State.coreEmpty (s : State) (core : Nat) : Bool := s.gangs.all fun g => !(g.resident && g.cores.contains core)

/-- PINSIZE of a core written, while no gang is placed there (R60). -/
def State.setPinsize (s : State) (core : Nat) (x : Quad) : State :=
  if s.coreEmpty core then { s with pinsize := s.pinsize.set core (BitVec.ofNat 64 (min (x.toNat % 128) 64)) } else s

/-- The PINSIZE registers once the firmware agent has written one, or none: it alone changes them in practice (R418). -/
def State.agentSizes (s : State) : SMap 64 :=
  match Config.agentPins s.fresh with
  | some (core, x) => (s.setPinsize core (BitVec.ofNat 64 x)).pinsize
  | none => s.pinsize

/-- A csrw with its effect (R417). -/
def Ctx.csrWrite (c : Ctx) (n : Nat) (x : Quad) (s : State) : Body :=
  match n with
  | 0x000 => .ok ((s.setCtxReg c.gr.asid 0 [] x).modGang c.ga.id fun g => { g with fpc := x &&& csrMask 0 })
  | 0x004 => .ok (s.modWave c.w.id fun w => { w with geoqsel := x &&& 0xFFFFFFFF000FFFFF })
  | 0x007 => c.trapOn 13 (bitsOf x.toNat 0 8) c.act 0 0
  | 0x008 => .ok (s.modGang c.ga.id fun g => { g with plres := x &&& 0xFFFFFFFF })
  | 0x030 => .ok (s.setPinsize c.w.core x)
  | 0x040 => c.post false x.toNat s
  | 0x041 => c.post true x.toNat s
  | 0x042 => .ok s.pullProof
  | n => .ok (s.setCtxReg c.gr.asid n [c.w.core] x)

/-- csrw acts once for the wave (R261, R418). -/
def Ctx.csrw (c : Ctx) (n r : Nat) (s : State) : Body :=
  if csrAccess n true = .privileged && !c.w.priv then c.unprivileged
  else if c.act = 0 then .ok s
  else if csrAccess n true = .legacy then c.trapOn 8 (legacyCause n true) c.act 0 0
  else c.csrWrite n (c.src2 .scal r (lowestLane c.act)) s

/-- The issue of a csrw word. -/
def issueCsrw (f : FmtY) (s : State) : Host.Outcome State Fault Refusal := issue (.csrw f) s fun c t => c.csrw f.c.toNat f.r.toNat t

/-- csrw (R418). -/
def execCsrw (f : FmtY) (s : State) := issueCsrw f s

/-- A row that stands for a csrw of one register: the word must name it. -/
def csrwOf (row : String) (n : Nat) (f : FmtY) (s : State) : Host.Outcome State Fault Refusal :=
  if f.c.toNat = n then issueCsrw f s else .fault (.notEnabled row)

/-- SDPOST (R38): a csrw to SDPOST. -/
def execSdpost (f : FmtY) (s : State) := csrwOf "SDPOST" 0x040 f s
/-- CLPOST (R67): a csrw to CLPOST. -/
def execClpost (f : FmtY) (s : State) := csrwOf "CLPOST" 0x041 f s
/-- SWTRAP (R418): a csrw to SWTRAP. -/
def execSwtrap (f : FmtY) (s : State) := csrwOf "SWTRAP" 0x007 f s
/-- FPC_WRITE (R214): a csrw to FPC. -/
def execFpcWrite (f : FmtY) (s : State) := csrwOf "FPC_WRITE" 0x000 f s
/-- PROOF_PULL_WRITE (R206): a csrw to PROOFPULL. -/
def execProofPullWrite (f : FmtY) (s : State) := csrwOf "PROOF_PULL_WRITE" 0x042 f s
/-- LEGACY_REGISTER_ACCESS (R219): a csrr or a csrw of a legacy register. -/
def execLegacyRegisterAccess (write : Bool) (f : FmtY) (s : State) : Host.Outcome State Fault Refusal :=
  if csrAccess f.c.toNat write ≠ .legacy then .fault (.notEnabled "LEGACY_REGISTER_ACCESS")
  else if write then issueCsrw f s else issueCsrr f s

/-! ### Handlers -/

/-- A store of the wave is not yet performed at core scope (R199). -/
def State.storesOut (s : State) (wave : Nat) : Bool :=
  s.flights.any fun a => a.wave = wave && a.kind.writes && !a.performedAt 1 wave true

/-- The logged accesses that a trapret with replay performs again, oldest first (R199). -/
def State.replayed (s : State) (wave : Nat) : List Nat :=
  ((s.flights.filter fun a => a.wave = wave && a.taken && a.log.isSome && !a.abort).foldl (init := []) fun l a =>
    l.filter (fun (b : Access) => b.seq ≤ a.seq) ++ [a] ++ l.filter fun b => a.seq < b.seq).map (·.id)

/-- trapret (R199, R420). In deterministic mode the replays share one ticket and are performed in its turn. -/
def execTrapret (f : FmtTret) (s : State) := issue (.trapret f) s fun c t =>
  if !c.w.priv then c.unprivileged
  else if c.act = 0 then .ok t
  else if t.storesOut c.w.id then .stay
  else
    let ids := if f.x = 1 then t.replayed c.w.id else []
    if c.gr.det && ids ≠ [] && !t.ticketReady c.w then .block 8 0
    else
      let u := t.trapReturn c.w (f.x = 1) c.word c.pc c.act
      .ok ((if c.gr.det then ids.foldl (fun x id => if (x.flights.any fun a => a.id = id && a.unreported) then x.performAll id else x) u else u).distribute)

/-- smask (R421). With traps unmasked a held pre-emption request acts; with traps masked one that has come to the gang is held from its arrival (R204). -/
def execSmask (f : FmtSmask) (s : State) := issue (.smask f) s fun c t =>
  if !c.w.priv then c.unprivileged
  else if c.act = 0 then .ok t
  else .ok (t.modWave c.w.id fun w =>
    if f.m = 1 then (w.setTstat true w.priv w.prepend).holdRequest (t.requestedAt w.gang).isSome ((t.requestedAt w.gang).getD 0) else { w.setTstat false w.priv false with heldSince := none })

/-- clock (R422): the package's cycle counter, or the wave's logical time in deterministic mode. -/
def execClock (f : FmtD) (s : State) := issueOk (.clock f) s fun c t =>
  if c.act = 0 then t else c.putS2 f.d.toNat (if c.gr.det then c.w.time else s.cycle) t

/-! ### Random draws -/

/-- A 32-bit rotation to the left. -/
def rol32 (x : Word) (n : Nat) : Word := (x <<< n) ||| (x >>> (32 - n))

/-- The rotations of RngMix (R229). -/
def rngRot : List Nat := [8, 12, 20, 4, 16, 24, 12, 8, 28, 20]

/-- Inject (R229). -/
def rngInject (k : Nat → Word) (j : Nat) (p : Word × Word) : Word × Word :=
  (p.1 + k (j % 3), p.2 + k ((j + 1) % 3) + BitVec.ofNat 32 j)

/-- One round of RngMix. -/
def rngRound (k : Nat → Word) (p : Word × Word) (r : Nat) : Word × Word :=
  let x := p.1 + p.2
  let q := (x, rol32 p.2 ((rngRot[r]?).getD 0) ^^^ x)
  if r % 2 = 1 then rngInject k ((r + 1) / 2) q else q

/-- RngMix (R229). -/
def rngMix (launch : Quad) (wglin thread draw : Word) : Word :=
  let k (j : Nat) : Word := if j = 0 then lo32 launch else if j = 1 then hi32 launch else wglin
  ((List.range 10).foldl (rngRound k) (rngInject k 0 (draw, thread))).1

/-- The draw of a lane (R423), from its count. -/
def Ctx.draw (c : Ctx) (count : Word) (lane : Nat) : Word :=
  rngMix (BitVec.ofNat 64 c.gr.launchId) (BitVec.ofNat 32 (wglin c.gr c.ga c.w)) (BitVec.ofNat 32 (c.w.index * 32 + lane)) count

/-- rng and rng.f32 (R423, R231). -/
def execRng (f : FmtRng) (s : State) := issueOk (.rng f) s fun c t =>
  let value (l : Nat) : Word :=
    let d := c.draw (c.w.getV l f.c.toNat) l
    if f.f = 1 then BitVec.ofNat 32 (f32.round 0 false (d.toNat / 256) (2 ^ 24)) else d
  (c.putV f.d.toNat value t).modWave c.w.id fun w => w.setVs c.act f.c.toNat fun l => c.w.getV l f.c.toNat + 1

end Sys2Proof.Machine
end

