-- ==== Sys2Proof/Machine/Sweeps.lean ====
section
/-! DEFINITION. Shootdowns (R38 to R41), cleans (R67, R68) and the reset of a context (R488). -/

namespace Sys2Proof.Machine

/-! ### Commands that post a descriptor -/

/-- A submission-queue command that posts a descriptor through its queue's context (R38, R67): FAILED where the descriptor cannot be read or is rejected; it waits while 16 posts are in flight. -/
def State.postCommand (s : State) (clean : Bool) (c : Command) : Option State :=
  match s.readDesc c.asid c.addr true with
  | .error _ => some (s.answer c.queue c.tag c.addr 3)
  | .ok (d, s1) =>
    if 16 ≤ (if clean then s.eng.cleans else s.eng.shootdowns).length then none
    else
      let (rejected, s2) := s1.postSweep clean (.command c.queue c.tag (BitVec.ofNat 64 c.addr)) c.asid c.addr d
      some (if rejected then s2.answer c.queue c.tag c.addr 3 else s2)

/-- SHOOTDOWN (R38). -/
def execShootdown (id : Nat) (s : State) : Host.Outcome State Fault Refusal :=
  runCommand "SHOOTDOWN" id (fun c => !c.bad && c.op = 3) (fun c t => t.postCommand false c) s

/-- CLEAN (R67). -/
def execClean (id : Nat) (s : State) : Host.Outcome State Fault Refusal :=
  runCommand "CLEAN" id (fun c => !c.bad && c.op = 4) (fun c t => t.postCommand true c) s

/-! ### What a shootdown names -/

/-- The address of a context lies on a page that the shootdown names. -/
def Sweep.names (w : Sweep) (asid va : Nat) : Bool :=
  w.kind = 2 || (asid = w.target && (w.kind = 1 || (w.va ≤ va && va < w.va + 4096 * w.count)))

/-- A translation that a TLB holds overlaps a named page. -/
def Sweep.overlaps (w : Sweep) (e : TlbEntry) : Bool :=
  w.kind = 2 || (e.asid = w.target && (w.kind = 1 || overlap w.va (4096 * w.count) e.base (2 ^ e.log2)))

/-- The lane has been translated through a translation of a named page, which the shootdown removes, and is not acknowledged (R39 step 4). -/
def Sweep.laneUnder (w : Sweep) (a : Access) (l : AccLane) : Bool :=
  a.kind.isGlobal && (l.status = .reported || l.status = .ready || l.status = .performed) && w.names a.asid l.va

/-- A drain's destination pages were translated through a translation of a named page. -/
def Sweep.entryUnder (w : Sweep) (e : MxEntry) : Bool := e.pages.any w.overlaps

/-- A commit under way names a word of a named page (R40). -/
def State.commitUnder (s : State) (w : Sweep) (v : Wave) : Bool :=
  v.txTodo ≠ 0 && v.txSet.any fun x => v.txTodo.getLsbD x.lane && w.names (s.asidOf v) x.va

/-- Nothing is under way any more through a translation that the shootdown removes (R39 step 4, R40). -/
def State.sweepReady (s : State) (w : Sweep) : Bool :=
  (s.flights.all fun a => a.lanes.all fun l => !w.laneUnder a l) && ((s.eng.matrix.table ++ s.eng.matrix.running).all fun e => !w.entryUnder e) &&
    s.waves.all fun v => !s.commitUnder w v

/-! ### What a shootdown does -/

/-- The lanes of a wave with an open transaction that holds a word of a named page. -/
def Sweep.failing (w : Sweep) (asid : Nat) (v : Wave) : Lanes :=
  lanesWhere fun l => v.txIn.getLsbD l && v.txSet.any fun x => x.lane = l && w.names asid x.va

/-- Every translation and every line of a named page dropped, locked lines and instruction lines too; open transactions that hold a word of one failed; filter keys of whole contexts forgotten (R39 to R41, R55, R92). -/
def State.sweepOut (s : State) (w : Sweep) : State :=
  let keep (l : CacheLine) : Bool := !w.names l.asid (l.src * 64)
  { s.modCaches fun c => { c with
      tlb := c.tlb.filter fun e => !w.overlaps e
      l1 := c.l1.filter keep, l1i := c.l1i.filter keep, nodes := c.nodes.filter keep, texels := c.texels.filter keep
      filters := if w.kind = 0 then c.filters else c.filters.filter fun k => !(w.kind = 2 || k.asid = w.target) } with
    waves := s.waves.map fun v => { v with txAbort := v.txAbort ||| w.failing (s.asidOf v) v } }

/-! ### Completion -/

/-- The vector that a post with IRQ = 1 signals (R38, R485): that of the poster's context's default completion queue, or of the submission queue's. -/
def State.irqOf (s : State) (p : Poster) : State :=
  let via (cq : Nat) : State := match s.comp? cq with | some q => s.signal q.vector | none => s
  match p with
  | .wave asid => via (s.ctx asid).defaultCq
  | .command queue _ _ => via (s.subCq queue)
  | _ => s

/-- A post of a wave or a command completes: STATUS = 1, the interrupt, and a command's completion, which is FAILED if STATUS cannot be written (R38, R67). -/
def State.finishPost (s : State) (w : Sweep) : State :=
  let written := match s.ctxWrite w.asid (w.desc + 16) (bytesOfNat 8 1) needBoth true none with
    | .ok t => (true, t)
    | .error _ => (false, s)
  let s1 := if w.irq then written.2.irqOf w.poster else written.2
  match w.poster with
  | .command queue tag addr => s1.answer queue tag addr.toNat (if written.1 then 0 else 3)
  | _ => s1

/-- The unfinished launches of a context that a reset has ended complete with CANCELLED (R488 step 4). -/
def State.closeReset (s : State) (asid : Nat) : State :=
  (s.grids.filter fun g => g.asid = asid && g.phase = .ending).foldl (fun t g => t.closeGrid g) s

/-- The mailbox command that was running ends with a result (R480). -/
def State.mailboxDone (s : State) (result : Nat) : State :=
  s.modKiln fun k => { k with mbstat := (k.mbstat &&& 2) ||| BitVec.ofNat 64 (result * 256), pending := none }

/-- Shootdowns of the kiln's own begin, oldest first, while fewer than 16 are in flight (R38). -/
def Engines.beginQueued (e : Engines) : Engines :=
  { e with shootdowns := e.shootdowns ++ e.queued.take (16 - e.shootdowns.length), queued := e.queued.drop (16 - e.shootdowns.length) }

/-- A whole-context shootdown of the kiln's own begun, or kept until one of 16 in flight has completed. -/
def State.kilnSweep (s : State) (asid : Nat) (p : Poster) : State :=
  let (id, s1) := s.newId
  s1.modEng fun e => ({ e with queued := e.queued ++ [{ id, poster := p, asid, desc := 0, kind := 1, va := 0, count := 0, target := asid, irq := false }] } : Engines).beginQueued

/-- What follows a shootdown of the mailbox's (R481): CTXCREATE writes the context's registers and then its entry; CTXDESTROY's entry, whose V is clear, is followed by another shootdown; then the command ends. -/
def State.afterMailboxSweep (s : State) (asid : Nat) : State :=
  match s.kiln.pending with
  | some (_, some (e, regs)) =>
    match regs with
    | some c => ((s.modCtx asid fun _ => c).putNat (s.ctxBase + 8 * asid) 8 e).mailboxDone 0
    | none => ((s.putNat (s.ctxBase + 8 * asid) 8 e).modKiln fun k => { k with pending := some (asid, none) }).kilnSweep asid .mailbox
  | _ => s.mailboxDone 0

/-- A shootdown completes (R39). -/
def State.completeSweep (s : State) (w : Sweep) : State :=
  let s1 := (s.sweepOut w).modEng fun e => ({ e with shootdowns := e.shootdowns.filter fun x => x.id ≠ w.id } : Engines).beginQueued
  match w.poster with
  | .wave _ => s1.finishPost w
  | .command _ _ _ => s1.finishPost w
  | .mailbox => (s1.closeReset w.target).afterMailboxSweep w.target
  | .kiln => s1.closeReset w.target

/-- A reset's shootdown waits for what its context's gangs have in flight (R488 steps 2 and 3). -/
def State.resetQuiet (s : State) (w : Sweep) : Bool :=
  match w.poster with
  | .mailbox | .kiln => s.gangs.all fun g => match s.grid? g.grid with | some gr => gr.asid ≠ w.target | none => true
  | _ => true

/-- SHOOTDOWN_COMPLETE (R39). -/
def execShootdownComplete (id : Nat) (s : State) : Host.Outcome State Fault Refusal :=
  event "SHOOTDOWN_COMPLETE" ((s.eng.shootdowns.find? fun w => w.id = id).bind fun w =>
    if s.sweepReady w && s.resetQuiet w then some (s.completeSweep w).distribute else none)

/-! ### Cleans -/

/-- The bytes of address that an entry of a table at level `n` spans (R20). -/
def levelSpan (n : Nat) : Nat := 2 ^ (12 + 9 * (5 - n))

/-- The first addresses of the spans of the valid leaves (R21) at level `n` or below that the addresses from `lo` to `hi` meet, of the table whose first entry spans from `base` on. A valid entry has its low byte listed in memory. -/
def State.leafSpans (s : State) (lo hi : Nat) : Nat → Nat → Nat → Nat → List Nat
  | 0, _, _, _ => []
  | fuel + 1, n, table, base =>
    (s.mem.filter fun e => table ≤ e.1 && e.1 < table + (if n = 1 then 32768 else 4096) && (e.1 - table) % 8 = 0 && e.2.getLsbD 0).flatMap fun e =>
      let va := base + (e.1 - table) / 8 * levelSpan n
      if va + levelSpan n ≤ lo || hi ≤ va then []
      else
        let x := s.natAt e.1 8
        if entryBit x 5 then [va] else s.leafSpans lo hi fuel (n + 1) (entryPpn x) va

/-- The runs of physical memory, first byte and length, to which the pages from `lo` to `hi` of a context are mapped; pages that are not mapped have none (R67). -/
def State.mappedRuns (s : State) (asid lo hi : Nat) : List (Nat × Nat) :=
  (s.leafSpans lo hi 5 1 (entryPpn (s.ctxEntry asid)) 0).filterMap fun va =>
    let a := max lo va
    match walk s asid a ⟨false, false, false⟩ true with
    | .ok t => some (t.pa, min hi (va + 2 ^ t.log2) - a)
    | .error _ => none

/-- The runs that a clean names; none are needed for kind 2. -/
def State.cleanRuns (s : State) (w : Sweep) : List (Nat × Nat) :=
  if w.kind = 2 then [] else s.mappedRuns w.target w.va (w.va + 4096 * w.count)

/-- A line lies on one of the runs, or, for kind 2, in local memory. -/
def Sweep.cleans (w : Sweep) (runs : List (Nat × Nat)) (d : DirtyLine) : Bool :=
  if w.kind = 2 then windowOf (d.pline * 64) = 0 else runs.any fun r => r.1 ≤ d.pline * 64 && d.pline * 64 < r.1 + r.2

/-- A modified line lies on a page that a clean names: of all local memory for kind 2, else one to which a page of the range is mapped (R67, R68). -/
def State.cleanNames (s : State) (w : Sweep) (d : DirtyLine) : Bool := w.cleans (s.cleanRuns w) d

/-- The lines that a clean names are in the stacks, with the DIRTY bits they were written under set (R31, R68). -/
def State.cleanLines (s : State) (w : Sweep) : State :=
  let runs := s.cleanRuns w
  let hit := s.caches.dirty.filter (w.cleans runs)
  (hit.foldl (fun t d => d.sides.foldl (fun u x => u.setDirty x.1 x.2) t) s).modCaches fun c => { c with dirty := c.dirty.filter fun d => !hit.contains d }

/-- CLEAN_COMPLETE (R68). -/
def execCleanComplete (id : Nat) (s : State) : Host.Outcome State Fault Refusal :=
  event "CLEAN_COMPLETE" ((s.eng.cleans.find? fun w => w.id = id).map fun w =>
    ((s.cleanLines w).modEng fun e => { e with cleans := e.cleans.filter fun x => x.id ≠ id }).finishPost w)

/-! ### The reset of a context (R488) -/

/-- A reset begun: the context's gangs are ended without default-action events, its queries discarded, and its whole-context shootdown posted; its launches complete after it. -/
def State.startReset (s : State) (asid : Nat) (p : Poster) : State :=
  let s1 := (s.grids.filter fun g => g.asid = asid).foldl (fun t g => t.endLaunch g 2) (s.discardQueries asid)
  (s1.kilnSweep asid p).distribute

end Sys2Proof.Machine
end

