-- ==== Sys2Proof/Machine/Checkpoint.lean ====
section
/-! DEFINITION. Whole-memory checkpoints and their restores (R497). -/

namespace Sys2Proof.Machine

/-! ### Commands -/

/-- A checkpoint descriptor is malformed, or its LIMIT is too small (R497). -/
def badCheckpoint (d : Nat) : Bool :=
  bitsOf d 129 383 ≠ 0 || bitsOf d 0 12 ≠ 0 || bitsOf d 50 14 ≠ 1 || bitsOf d 64 64 < 2 ^ 39 + 2 ^ 26

/-- CKPT or RESTORE begun: every resident gang expires, and none is placed until it is over; one waits while another is under way. -/
def State.beginCheckpoint (s : State) (restore : Bool) (c : Command) : Option State :=
  match s.ctxNat c.asid c.addr 64 needRead true with
  | .error _ => some (s.answer c.queue c.tag c.addr 3)
  | .ok (d, s1) =>
    if badCheckpoint d then some (s1.answer c.queue c.tag c.addr 3)
    else if s.eng.checkpoints ≠ [] then none
    else
      let (id, s2) := s1.newId
      let s3 := s2.modEng fun e => { e with checkpoints := [{ id, poster := .command c.queue c.tag (BitVec.ofNat 64 c.addr), restore, dest := bitsOf d 0 52,
                                                              incr := d.testBit 128, since := s.cycle.toNat }] }
      some (((s3.gangs.filter fun g => g.resident && g.expired.isNone)).foldl (fun t g => t.expire g.id) s3)

/-- CKPT (R497). -/
def execCkpt (id : Nat) (s : State) : Host.Outcome State Fault Refusal :=
  runCommand "CKPT" id (fun c => !c.bad && c.op = 6) (fun c t => t.beginCheckpoint false c) s

/-- RESTORE (R497). -/
def execRestore (id : Nat) (s : State) : Host.Outcome State Fault Refusal :=
  runCommand "RESTORE" id (fun c => !c.bad && c.op = 7) (fun c t => t.beginCheckpoint true c) s

/-! ### Dirty pages -/

/-- The physical pages of a table's entries whose DIRTY bit is set (R30), with `fuel` levels left: of 4 KiB pages, and of the 4 KiB parts of 2 MiB pages. -/
def State.dirtyUnder (s : State) : Nat → Nat → Nat → Nat → List Nat
  | 0, _, _, _ => []
  | fuel + 1, n, table, side => (List.range (if n = 1 then 4096 else 512)).flatMap fun k =>
    let e := s.natAt (table + 8 * k) 8
    let side' := if n = 4 then table + 4096 + 72 * k else side
    let dirty (i : Nat) : Bool := (s.natAt (side' + i / 8) 1).testBit (i % 8)
    if !entryBit e 0 || reservedBroken e n then []
    else if entryBit e 5 then
      if n = 5 then (if dirty k then [entryPpn e / 4096] else [])
      else if n = 4 then (List.range 512).filterMap fun i => if dirty i then some (entryPpn e / 4096 + i) else none
      else []
    else if !localTable (entryPpn e) (if n = 3 then 40960 else 4096) then []
    else s.dirtyUnder fuel (n + 1) (entryPpn e) side'

/-- The pages that an incremental checkpoint copies: those of device memory, under an own peer-window address too (R17), whose DIRTY bit is set in contexts with DTE = 1. -/
def State.dirtyPages (s : State) : List Nat :=
  ((List.range 4096).flatMap fun asid =>
    let c := s.ctxEntry asid
    if entryBit c 0 && entryBit c 1 && localTable (entryPpn c) 32768 then s.dirtyUnder 5 1 (entryPpn c) 0 else []).filterMap fun p =>
      let pa := s.localPa (p * 4096)
      if pa < 2 ^ 39 then some (pa / 4096) else none

/-! ### The image -/

/-- Device memory, the byte at physical address `pa` to `dest` + `pa`: all of it, or the pages of a list. -/
def copyOut (mem : Memory) (dest : Nat) (pages : Option (List Nat)) : Memory :=
  let device := mem.filter fun c => c.1 < 2 ^ 39
  match pages with
  | none => (mem.filter fun c => c.1 < dest) ++ (device.map fun c => (dest + c.1, c.2)) ++ mem.filter fun c => dest + 2 ^ 39 ≤ c.1
  | some ps => ps.foldl (init := mem) fun m p => m.setRange (dest + p * 4096) (mem.getRange (p * 4096) 4096)

/-- The image back in device memory. -/
def copyBack (mem : Memory) (dest : Nat) : Memory :=
  ((mem.filter fun c => dest ≤ c.1 && c.1 < dest + 2 ^ 39).map fun c => (c.1 - dest, c.2)) ++ mem.filter fun c => 2 ^ 39 ≤ c.1

/-- The kiln's tables as an image holds them. -/
def State.imageAt (s : State) (dest : Nat) : Image :=
  { dest, contexts := s.contexts, grids := s.grids, gangs := s.gangs, waves := s.waves, flights := s.flights, bins := s.bins, groups := s.groups, code := s.code, codeUse := s.codeUse,
    fifo := s.fifo, matrix := s.eng.matrix }

/-- No gang is resident, and the engines and the accesses in flight are done (R497 steps 1 and 2). -/
def State.drained (s : State) : Bool :=
  (s.gangs.all fun g => !g.resident) && s.eng.copies = [] && s.eng.queries = [] && s.eng.syncs = [] && s.eng.pushes = [] && s.eng.notices = [] &&
    s.eng.shootdowns = [] && s.eng.queued = [] && s.eng.cleans = [] && s.eng.matrix.running = []

/-- The checkpoint's last steps: the clean of all memory, the copy, and the kiln's tables. -/
def State.takeImage (s : State) (c : Checkpoint) : State :=
  let s1 := s.cleanLines { id := 0, poster := .kiln, asid := 0, desc := 0, kind := 2, va := 0, count := 0, target := 0, irq := false }
  let image := s1.imageAt c.dest
  { s1 with mem := copyOut s1.mem c.dest (if c.incr then some s1.dirtyPages else none) }.modKiln fun k =>
    { k with images := k.images.filter (fun (x : Image) => x.dest ≠ c.dest) ++ [image] }

/-- The image written back: nothing of what stood before is left in a cache, a translation buffer or the host's cache (R479), and the saved gangs are those of the image. -/
def State.putImage (s : State) (c : Checkpoint) : State :=
  let s1 : State := { s with mem := copyBack s.mem c.dest, caches := { Caches.empty with pins := s.caches.pins }, poison := [], host := { s.host with cached := [] } }
  match s.kiln.images.find? fun x => x.dest = c.dest with
  | none => s1
  | some i =>
    { s1 with contexts := i.contexts, grids := i.grids, gangs := i.gangs, waves := i.waves, flights := i.flights, bins := i.bins, groups := i.groups, code := i.code, codeUse := i.codeUse,
              fifo := i.fifo, eng := { s1.eng with matrix := i.matrix } }

/-- CHECKPOINT_COMPLETE (R497). -/
def execCheckpointComplete (id : Nat) (s : State) : Host.Outcome State Fault Refusal :=
  event "CHECKPOINT_COMPLETE" ((s.eng.checkpoints.find? fun c => c.id = id).bind fun c =>
    if !s.drained then none
    else
      let s1 := (if c.restore then s.putImage c else s.takeImage c).modEng fun e => { e with checkpoints := e.checkpoints.filter fun x => x.id ≠ id }
      some (match c.poster with
        | .command queue tag addr => s1.answer queue tag addr.toNat 0
        | _ => s1).distribute)

end Sys2Proof.Machine
end

