-- ==== Sys2Proof/Machine/Control.lean ====
section
/-! DEFINITION. Control flow (R311 to R319, R322), the workgroup barrier and the barrier networks (R320, R321), and hint words (R269, R270). -/

namespace Sys2Proof.Machine

/-! ### Branches -/

/-- The target of bra, call and meet with a label: the word's address plus four times the displacement (R311). -/
def Ctx.label {n : Nat} (c : Ctx) (d : BitVec n) : Quad := c.pc + BitVec.ofInt 64 (4 * d.toInt)

/-- The target that a pair holds in a lane, with bits 1:0 cleared (R311). -/
def Ctx.target (c : Ctx) (a : BitVec 7) (lane : Nat) : Quad := c.src2 .vec a.toNat lane &&& ~~~3

/-- The wave yields here when its gang has expired, unless it runs a masked handler (R161, R204, R319). -/
def State.expiredYield (s : State) (c : Ctx) : State :=
  match s.gang? c.ga.id with
  | some g => if g.expired.isSome && !c.w.tm then s.modWave c.w.id fun w => { w with wake := wakeOf 9 0 } else s
  | none => s

/-- The ACTIVE lanes go to their targets. A backward branch or a call is noted for the choice of the next group (R150), and is where an expired wave yields. -/
def Ctx.jump (c : Ctx) (call : Bool) (target : Nat → Quad) (s : State) : State :=
  let s1 := s.modWave c.w.id fun w => w.setPcs c.act target
  if c.act ≠ 0 && (call || (laneList c.act).any fun l => target l ≤ c.pc) then
    (s1.modWave c.w.id fun w => { w with backFrom := some c.pc }).expiredYield c
  else s1

/-- bra (R312). -/
def execBra (f : FmtBra) (s : State) := issueOk (.bra f) s fun c => c.jump false fun _ => c.label f.d
/-- brx (R313). -/
def execBrx (f : FmtA1) (s : State) := issueOk (.brx f) s fun c => c.jump false fun l => c.target f.a l
/-- call (R314). -/
def execCall (f : FmtC) (s : State) := issueOk (.call f) s fun c t =>
  c.jump true (fun _ => c.label f.x) (c.putV2 f.d.toNat (fun _ => c.pc + 4) t)
/-- ret (R313). -/
def execRet (f : FmtA1) (s : State) := issueOk (.ret f) s fun c => c.jump false fun l => c.target f.a l

/-- The least of some addresses. -/
def leastAddr (xs : List Quad) : Quad := (lowestPc xs).getD 0

/-- calli (R315): a target whose budget exceeds REGS raises BUDGET before any effect. -/
def execCalli (f : FmtR) (s : State) := issue (.calli f) s fun c t =>
  let excess := lanesWhere fun l => c.act.getLsbD l && c.gr.regs < (c.b f l).toNat
  if excess ≠ 0 then c.trapOn 6 0 excess 0 (leastAddr ((laneList excess).map fun l => c.target f.a l)).toNat
  else .ok (c.jump true (fun l => c.target f.a l) (c.putV2 f.d.toNat (fun _ => c.pc + 4) t))

/-- The old MEET to the d pair, and the new MEET (R316). -/
def Ctx.setMeet (c : Ctx) (d : BitVec 7) (m : Nat → Quad) (s : State) : State :=
  (c.putV2 d.toNat c.w.meetOf s).modWave c.w.id fun w => w.setMeets c.act m

/-- meet with a label (R316). -/
def execMeetLabel (f : FmtC) (s : State) := issueOk (.meetLabel f) s fun c => c.setMeet f.d fun _ => c.label f.x
/-- meet with a register pair (R316). -/
def execMeetRegister (f : FmtDA) (s : State) := issueOk (.meetRegister f) s fun c => c.setMeet f.d fun l => c.src2 .vec f.a.toNat l

/-- exit (R317): the ACTIVE lanes end, and room that this frees is used (R178). -/
def execExit (f : FmtG0) (s : State) := issueOk (.exit f) s fun c t => (t.endLanes c.w.id c.act).distribute

/-- The group parks at its segment's end (R430): it stays at the yield, and threads whose successor, in v(VREGS), is a gathering segment are held there (R432). A successor that is no segment raises ILLOP (R432). -/
def Ctx.segmentEnd (c : Ctx) (m : VoxModule) (s : State) : Body :=
  let succ (l : Nat) : Nat := (c.w.getV l c.vregs).toNat
  let bad := lanesWhere fun l => c.act.getLsbD l && m.segs.length ≤ succ l
  if bad ≠ 0 then c.trapOn 0 0 bad 0 0
  else .ok (s.modWave c.w.id fun w => { w.setPcs c.act (fun _ => c.pc) with
    parked := w.parked ||| c.act
    gathering := (w.gathering &&& ~~~c.act) ||| lanesWhere fun l => c.act.getLsbD l && match m.segs[succ l]? with | some e => e.gather | none => false })

/-- yield (R319); at the end of a translated segment, the segment end (R430). -/
def execYield (f : FmtG0) (s : State) := issue (.yield f) s fun c t =>
  match (if c.vox then c.gr.vox else none) with
  | some m => c.segmentEnd m t
  | none => .ok <| match t.gang? c.ga.id with
  | some g =>
    if c.act ≠ 0 && (g.expired.isSome || t.headNeeds g.id) then t.modWave c.w.id fun w => { w with wake := wakeOf 9 0 } else t
  | none => t

/-- nop (R322). -/
def execNop (f : FmtG0) (s : State) := issueOk (.nop f) s fun _ t => t

/-! ### Barriers -/

/-- bar (R320): the whole wave arrives, once its earlier accesses are performed at core scope (R124). Of an index at or above BARS with ACTIVE empty R320 says both ILLOP and no effect: ILLOP is raised (DESIGN CHOICE, log entry 91). -/
def execBar (f : FmtBar) (s : State) := issue (.bar f) s fun c t =>
  if c.gr.bars ≤ f.x.toNat then .trap (precise 0 0 c.word c.pc c.lanes c.lanes 0 0)
  else if c.act = 0 then .ok t
  else if !s.writesDone c.w.id c.w.core 1 then .stay
  else .arrive 1 f.x.toNat

/-- barnet (R321): as bar, at the network of its scope (R154). -/
def execBarnet (f : FmtNet) (s : State) := issue (.barnet f) s fun c t =>
  if c.act = 0 then .ok t
  else if !s.writesDone c.w.id c.w.core (s.netScope c.w f.s.toNat) then .stay
  else .arrive 2 f.s.toNat

/-! ### Hint words (R269, R270) -/

/-- The wave after a hint word: the group's lanes are at the next word, and the hint waits for it. -/
def Wave.hinted (w : Wave) (word : Word) (pc : Quad) (lanes : Lanes) (stall now : Nat) : Wave :=
  { w.setPcs lanes (fun _ => pc + 4) with
    released := w.released &&& ~~~lanes
    time := w.time + 1
    seq := w.seq + 1
    lastIssue := now
    backFrom := none
    hintPc := if w.hints = [] then pc else w.hintPc
    hintLanes := lanes
    hints := w.hints ++ [word]
    stallUntil := if stall = 0 then w.stallUntil else now + stall }

/-- A hint word issues: a third in a row, or a second of its kind, is illegal (R270). -/
def issueHint (i : Instr) (stall : Nat) (s : State) : Host.Outcome State Fault Refusal :=
  match s.wave? s.issuer with
  | none => .fault .noIssuer
  | some w => match s.home? w with
    | none => .fault .noIssuer
    | some (ga, gr) =>
      if !s.canIssue w ga then .next s
      else match w.nextGroup with
        | none => .next s
        | some (pc, lanes) =>
          let word := (encode i).getD 0
          match (s.ctx gr.asid).fetchMatches w pc with
          | n :: _ => .next ((s.watchPull gr.asid n).trap w.id lanes (precise 12 n word pc lanes lanes pc.toNat 0))
          | [] =>
            if !i.legal gr.regs || 2 ≤ w.hints.length || w.hintKinds.contains i.hintKind then .next (s.trap w.id lanes (precise 0 0 word pc lanes lanes 0 0))
            else .next (s.modWave w.id fun x => (x.hinted word pc lanes stall s.cycle.toNat).settle)

/-- hint ext (R268, R269). -/
def execHintExt (e : BitVec 24) (s : State) := issueHint (.hintExt e) 0 s
/-- hint stall (R269). -/
def execHintStall (n : BitVec 4) (s : State) := issueHint (.hintStall n) n.toNat s
/-- hint neg (R269). -/
def execHintNeg (s : State) := issueHint .hintNeg 0 s
/-- hint rnd (R269). -/
def execHintRnd (m : BitVec 2) (s : State) := issueHint (.hintRnd m) 0 s
/-- hint sat (R269). -/
def execHintSat (p : BitVec 1) (s : State) := issueHint (.hintSat p) 0 s
/-- hint cache (R269). -/
def execHintCache (y : BitVec 1) (x : BitVec 1) (s : State) := issueHint (.hintCache y x) 0 s
/-- hint nb (R269). -/
def execHintNb (s : State) := issueHint .hintNb 0 s
/-- hint dtree (R269). -/
def execHintDtree (s : State) := issueHint .hintDtree 0 s

end Sys2Proof.Machine
end

