-- ==== Sys2Proof/Machine/Mailbox.lean ====
section
/-! DEFINITION. The mailbox (R480, R481, R486) and host writes to management registers (R6, R480, R493). -/

namespace Sys2Proof.Machine

/-! ### Doorbells -/

/-- A command runs. -/
def State.busy (s : State) : Bool := s.kiln.mbstat.getLsbD 0

/-- OP of MBCMD. -/
def State.mailboxOp (s : State) : Nat := bitsOf s.kiln.mbcmd.toNat 0 16

/-- MBARGn. -/
def State.arg (s : State) (n : Nat) : Nat := (s.kiln.mbarg.get n).toNat

/-- Results of a mailbox command (R480). -/
def resultOk : Nat := 0
/-- See `resultOk`. -/
def resultBadcmd : Nat := 1
/-- See `resultOk`. -/
def resultBadarg : Nat := 2
/-- See `resultOk`. -/
def resultDenied : Nat := 3

/-- A doorbell with an OP, while no command runs and the device is not in the recovery posture (R491); `run` answers a result and the state, or the state of a command that goes on. -/
def doorbell (row : String) (op : Nat) (s : State) (run : State → Nat × State) : Host.Outcome State Fault Refusal :=
  event row (if s.kiln.recovery || s.busy || s.mailboxOp ≠ op then none else let r := run s; some ((r.2.mailboxDone r.1).distribute))

/-- BUSY set, with what the command does after its shootdown. -/
def State.mailboxRuns (s : State) (asid : Nat) (entry : Option (Nat × Option Context)) : State :=
  s.modKiln fun k => { k with mbstat := (k.mbstat &&& 2) ||| 1, pending := some (asid, entry) }

/-- A doorbell whose command ends with a shootdown: `check` answers a result where it is refused. -/
def longDoorbell (row : String) (op : Nat) (s : State) (check : State → Option Nat) (run : State → State) : Host.Outcome State Fault Refusal :=
  event row (if s.kiln.recovery || s.busy || s.mailboxOp ≠ op then none else match check s with
    | some r => some (s.mailboxDone r)
    | none => some (run s))

/-- A device physical address that a command may name: of local memory or of the host window (R481). -/
def namedPa (a : Nat) : Bool := a < 2 ^ 52 && windowOf a ≤ 1 && backed a

/-- The context is valid. -/
def State.valid (s : State) (asid : Nat) : Bool := asid < 4096 && entryBit (s.ctxEntry asid) 0

/-! ### Contexts -/

/-- The cores of the package. -/
def allCores : List Nat := List.range 384

/-- The registers that CTXCREATE names, in the order of its arguments. -/
def createRegs : List Nat := [0x000, 0x020, 0x021, 0x022, 0x023, 0x024, 0x025, 0x026, 0x027]

/-- A fresh context with the arguments of CTXCREATE (R481). -/
def State.newContext (s : State) (asid : Nat) : Context :=
  let c := (List.range 9).foldl (init := Context.zero asid) fun c k => c.writeReg (createRegs.getD k 0) allCores (s.kiln.mbarg.get (k + 2))
  { c with faultbuf := s.kiln.mbarg.get 11, fblog2n := s.arg 12, defaultCq := s.arg 13 }

/-- CTXCREATE is refused (R18, R481). R18 does not say what an entry argument with a reserved bit set does: it is BADARG (DESIGN CHOICE, log entry 85). -/
def State.createRefused (s : State) : Option Nat :=
  let e := s.arg 1
  if 4096 ≤ s.arg 0 || bitsOf e 2 10 ≠ 0 || bitsOf e 52 12 ≠ 0 || !localTable (entryPpn e) 32768 || 12 < s.arg 12 || !namedPa (s.arg 11) || (s.comp? (s.arg 13)).isNone then some resultBadarg
  else if s.valid (s.arg 0) then some resultDenied
  else none

/-- CTXCREATE (R18, R19, R481). -/
def execCtxcreate (s : State) : Host.Outcome State Fault Refusal :=
  longDoorbell "CTXCREATE" 0x01 s State.createRefused fun t =>
    (t.mailboxRuns (t.arg 0) (some (t.arg 1, some (t.newContext (t.arg 0))))).kilnSweep (t.arg 0) .mailbox

/-- The context registers that CTXSET writes: those of R417 that privileged code may write and a context holds. -/
def isCtxReg (n : Nat) : Bool := n = 0x000 || (0x020 ≤ n && n ≤ 0x02A) || (0x050 ≤ n && n ≤ 0x057)

/-- CTXSET (R481): a register that each core holds is written on every core. -/
def execCtxset (s : State) : Host.Outcome State Fault Refusal :=
  doorbell "CTXSET" 0x02 s fun t =>
    if !t.valid (t.arg 0) || !isCtxReg (t.arg 1) then (resultBadarg, t) else (resultOk, t.setCtxReg (t.arg 0) (t.arg 1) allCores (t.kiln.mbarg.get 2))

/-- CTXRESET and CTXDESTROY name a context that is not valid. -/
def State.notValid (s : State) : Option Nat := if s.valid (s.arg 0) then none else some resultBadarg

/-- CTXRESET (R488). -/
def execCtxreset (s : State) : Host.Outcome State Fault Refusal :=
  longDoorbell "CTXRESET" 0x03 s State.notValid fun t => (t.mailboxRuns (t.arg 0) none).startReset (t.arg 0) .mailbox

/-- CTXDESTROY (R481): as CTXRESET; then V is cleared and the context shot down again. -/
def execCtxdestroy (s : State) : Host.Outcome State Fault Refusal :=
  longDoorbell "CTXDESTROY" 0x04 s State.notValid fun t =>
    (t.mailboxRuns (t.arg 0) (some (t.ctxEntry (t.arg 0) - 1, none))).startReset (t.arg 0) .mailbox

/-! ### Queues (R486) -/

/-- LOG2N of a queue's header. -/
def headerLog2 (h : Nat) : Nat := bitsOf h 64 5

/-- SQCREATE (R482, R486): CLAIM becomes TAIL. -/
def execSqcreate (s : State) : Host.Outcome State Fault Refusal :=
  doorbell "SQCREATE" 0x10 s fun t =>
    let at_ := t.arg 1
    let h := t.natAt at_ 64
    if 255 < t.arg 0 || !namedPa at_ || 4095 < t.arg 3 || (t.comp? (t.arg 2)).isNone || headerLog2 h < 4 || 16 < headerLog2 h || bitsOf h 69 443 ≠ 0 then (resultBadarg, t)
    else if (t.sub? (t.arg 0)).isSome then (resultDenied, t)
    else
      (resultOk, (t.putNat (at_ + 4) 4 (bitsOf h 0 32)).modHost fun x =>
        { x with subs := x.subs ++ [{ id := t.arg 0, header := at_, log2 := headerLog2 h, cq := t.arg 2, asid := t.arg 3 }] })

/-- CQCREATE (R484, R486): DTAIL becomes 0. -/
def execCqcreate (s : State) : Host.Outcome State Fault Refusal :=
  doorbell "CQCREATE" 0x11 s fun t =>
    let at_ := t.arg 1
    let h := t.natAt at_ 64
    if 255 < t.arg 0 || !namedPa at_ || 255 < t.arg 2 || t.arg 3 = 0 || 256 < t.arg 3 || t.arg 4 = 0 || 1023 < t.arg 4 || bitsOf h 0 32 ≠ 0 || headerLog2 h < 4 || 16 < headerLog2 h then (resultBadarg, t)
    else if (t.comp? (t.arg 0)).isSome then (resultDenied, t)
    else
      (resultOk, (t.putNat (at_ + 4) 4 0).modHost fun x =>
        { x with comps := x.comps ++ [{ id := t.arg 0, header := at_, log2 := headerLog2 h, vector := t.arg 2, count := t.arg 3, timer := t.arg 4, tail := 0,
                                        unsignalled := 0, oldest := 0, held := [] }] })

/-- A submission queue has entries that no agent has claimed (R170, R482). -/
def State.posted (s : State) (q : SubQueue) : Bool := s.natAt q.header 4 ≠ s.natAt (q.header + 4) 4

/-- The submission queues with a command that is not finished, claimed or only posted, each with the completion queue that it will complete to, so far as that is known. -/
def State.unfinished (s : State) : List (Nat × Nat) :=
  let by_ (p : Poster) : List (Nat × Nat) := match p with | .command q _ _ => [(q, s.subCq q)] | _ => []
  ((s.host.subs.filter s.posted).map fun q => (q.id, q.cq)) ++ (s.host.commands.map fun c => (c.queue, s.subCq c.queue)) ++ ((s.grids.filter fun g => g.consumerOf.isNone).map fun g => (g.queue, s.launchCq g)) ++
    ((s.eng.shootdowns ++ s.eng.cleans).flatMap fun w => by_ w.poster) ++ s.eng.checkpoints.flatMap fun c => by_ c.poster

/-- A completion queue is still needed (R486). -/
def State.compNeeded (s : State) (q : CompQueue) : Bool :=
  q.held ≠ [] || (s.unfinished.any fun x => x.2 = q.id) || (s.host.subs.any fun x => x.cq = q.id) || s.contexts.any fun c => c.defaultCq = q.id && s.valid c.asid

/-- QDELETE (R481, R486): KIND 0 names a submission queue, 1 a completion queue. -/
def execQdelete (s : State) : Host.Outcome State Fault Refusal :=
  doorbell "QDELETE" 0x12 s fun t =>
    let n := t.arg 1
    if t.arg 0 = 0 && (t.sub? n).isSome then
      if t.unfinished.any fun x => x.1 = n then (resultDenied, t)
      else (resultOk, t.modHost fun h => { h with subs := h.subs.filter fun q => q.id ≠ n })
    else if t.arg 0 = 1 then match t.comp? n with
      | none => (resultBadarg, t)
      | some q => if t.compNeeded q then (resultDenied, t) else (resultOk, t.modHost fun h => { h with comps := h.comps.filter fun x => x.id ≠ n })
    else (resultBadarg, t)

/-- QUANTUM (R161, R481). -/
def execQuantum (s : State) : Host.Outcome State Fault Refusal :=
  doorbell "QUANTUM" 0x20 s fun t =>
    if 3 < t.arg 0 || t.arg 1 = 0 || 64 < t.arg 1 then (resultBadarg, t) else (resultOk, { t with quanta := t.quanta.set (t.arg 0) (BitVec.ofNat 64 (t.arg 1)) })

/-! ### Pins (R60, R61, R64) -/

/-- The 4 KiB physical pages of a translation's page. -/
def Trans.pages (t : Trans) : List Nat := (List.range (2 ^ t.log2 / 4096)).map fun k => t.pa / 2 ^ t.log2 * 2 ^ t.log2 / 4096 + k

/-- There is room for pages: in the owner's region (R60), or in the eight reserved ways of every slice, 16,384 lines each (R64). -/
def State.pinRoom (s : State) (home owner : Nat) (pages : List Nat) : Bool :=
  if home = 2 then (s.caches.pins.filter fun p => p.home = 2 && p.owner = owner).length + pages.length ≤ (s.pinsize.get owner).toNat
  else
    let all := s.slicePins ++ pages
    (List.range 192).all fun k => linesAt k all ≤ 16384

/-- The page that PIN or UNPIN names, where it is mapped in that context with the HOME given. -/
def State.pinTarget (s : State) : Option Trans :=
  if 4095 < s.arg 0 || s.arg 1 % 4096 ≠ 0 || !(s.arg 2 = 1 || s.arg 2 = 2) then none
  else match walk s (s.arg 0) (s.arg 1) ⟨false, false, false⟩ true with
    | .ok t => if leafHome t.leaf = s.arg 2 then some t else none
    | .error _ => none

/-- Every slice has room for what it holds: pinned lines take it from the others (R64). -/
def State.slicesRoom (s : State) : State := (List.range 192).foldl State.sliceRoom s

/-- The modified lines of some pages are pinned in their slices no more: they are served as HOME 00 (R64). -/
def Caches.unpinLines (c : Caches) (pages : List Nat) : Caches :=
  { c with dirty := c.dirty.map fun d => if d.home = 1 && pages.contains (d.pline / 64) then { d with home := 0 } else d }

/-- PIN (R61, R64, R481). -/
def execPin (s : State) : Host.Outcome State Fault Refusal :=
  doorbell "PIN" 0x21 s fun t => match t.pinTarget with
    | none => (resultBadarg, t)
    | some tr =>
      let owner := if t.arg 2 = 2 then leafOwner tr.leaf else 0
      let pages := tr.pages.filter fun p => !t.caches.pins.contains ⟨p, t.arg 2, owner⟩
      if !t.pinRoom (t.arg 2) owner pages then (resultBadarg, t)
      else (resultOk, (t.modCaches fun c => { c with pins := c.pins ++ pages.map fun p => ⟨p, t.arg 2, owner⟩ }).slicesRoom)

/-- UNPIN (R61, R64, R481); a page without a pin is BADARG. -/
def execUnpin (s : State) : Host.Outcome State Fault Refusal :=
  doorbell "UNPIN" 0x22 s fun t => match t.pinTarget with
    | none => (resultBadarg, t)
    | some tr =>
      if !(t.caches.pins.any fun p => tr.pages.contains p.page && p.home = t.arg 2) then (resultBadarg, t)
      else (resultOk, (t.modCaches fun c => { c with pins := c.pins.filter fun p => !(tr.pages.contains p.page && p.home = t.arg 2) }.unpinLines (if t.arg 2 = 1 then tr.pages else [])).slicesRoom)

/-! ### Proofs, the event ring, the package number -/

/-- PROOFREAD (R206, R481): the layout in MBRES is not stated. -/
def execProofread (s : State) : Host.Outcome State Fault Refusal :=
  doorbell "PROOFREAD" 0x30 s fun t =>
    if 383 < t.arg 0 then (resultBadarg, t)
    else
      let set := (t.kiln.proofs.filter fun p => p.core = t.arg 0).map fun p => (p.slot, p.pc, p.tstat, p.counters, p.wake)
      (resultOk, t.modKiln fun k => { k with mbres := k.mbres.setMany (List.range 31) (fun j => j) (Config.proofWord set) })

/-- PROOFPULL (R206). -/
def execProofpull (s : State) : Host.Outcome State Fault Refusal := doorbell "PROOFPULL" 0x31 s fun t => (resultOk, t.pullProof)

/-- EVRING (R487): the ring begins empty, at index 0. -/
def execEvring (s : State) : Host.Outcome State Fault Refusal :=
  doorbell "EVRING" 0x40 s fun t =>
    if !namedPa (t.arg 0) || t.arg 1 < 4 || 16 < t.arg 1 then (resultBadarg, t)
    else (resultOk, (t.putNat (t.arg 0 + 4) 4 0).modHost fun h => { h with ring := t.arg 0, ringLog2 := t.arg 1, ringTail := 0, slots := [] })

/-- The L1s name each physical line by its local address where it is the package's own now (R17, R37). -/
def State.renameLines (s : State) : State :=
  s.modCaches fun c => { c with l1 := c.l1.map fun l => { l with pline := s.localPa (l.pline * 64) / 64 } }

/-- PEERNUM (R489). -/
def execPeernum (s : State) : Host.Outcome State Fault Refusal :=
  doorbell "PEERNUM" 0x41 s fun t => if 63 < t.arg 0 then (resultBadarg, t) else (resultOk, (t.modKiln fun k => { k with peernum := BitVec.ofNat 6 (t.arg 0) }).renameLines)

/-! ### Firmware images (R490) -/

/-- A slot by its argument: 0 for A, 1 for B. -/
def Kiln.slot (k : Kiln) (b : Bool) : FwSlot := if b then k.slotB else k.slotA

/-- A slot changed. -/
def Kiln.setSlot (k : Kiln) (b : Bool) (x : FwSlot) : Kiln := if b then { k with slotB := x } else { k with slotA := x }

/-- The slot and the length of FWSTAGE and FWCOMMIT: none where an argument is out of range. -/
def State.fwArgs (s : State) : Option (Bool × Nat) := if 1 < s.arg 0 || 2 ^ 26 < s.arg 1 then none else some (decide (s.arg 0 = 1), s.arg 1)

/-- What the kiln's verification finds in an image (R490, R491). -/
def imageFailure (image : List Byte) (floor : Nat) : Nat :=
  if image = [] then 1 else if Config.imageCause image ≠ 0 then Config.imageCause image else if Config.imageVersion image < floor then 5 else 0

/-- A slot that holds an image, as verification leaves it. -/
def verified (image : List Byte) (floor : Nat) : FwSlot :=
  { image, version := Config.imageVersion image, valid := imageFailure image floor = 0, cause := imageFailure image floor }

/-- FWSTAGE (R490): the image received through BAR2 goes into the slot that did not boot; it is valid once FWCOMMIT has verified it. -/
def execFwstage (s : State) : Host.Outcome State Fault Refusal :=
  doorbell "FWSTAGE" 0x50 s fun t => match t.fwArgs with
    | none => (resultBadarg, t)
    | some (b, n) =>
      if b = t.kiln.booted then (resultDenied, t)
      else
        let image := t.kiln.staging.getRange 0 n
        (resultOk, t.modKiln fun k => { k.setSlot b { image, version := Config.imageVersion image, valid := false, cause := 0 } with marked := none })

/-- FWCOMMIT (R490): verifies the staged image and marks it for the next reset; one that fails is DENIED. -/
def execFwcommit (s : State) : Host.Outcome State Fault Refusal :=
  doorbell "FWCOMMIT" 0x51 s fun t => match t.fwArgs with
    | none => (resultBadarg, t)
    | some (b, _) =>
      if b = t.kiln.booted then (resultDenied, t)
      else
        let v := verified (t.kiln.slot b).image t.kiln.floor
        if v.valid then (resultOk, t.modKiln fun k => { k.setSlot b v with marked := some b })
        else (resultDenied, t.modKiln fun k => k.setSlot b v)

/-! ### Doorbells that start nothing, and other register writes -/

/-- The opcodes of R481. -/
def mailboxOps : List Nat := [0x01, 0x02, 0x03, 0x04, 0x10, 0x11, 0x12, 0x20, 0x21, 0x22, 0x30, 0x31, 0x40, 0x41, 0x50, 0x51]

/-- MAILBOX_BADCMD (R481). -/
def execMailboxBadcmd (s : State) : Host.Outcome State Fault Refusal :=
  event "MAILBOX_BADCMD" (if s.kiln.recovery || s.busy || mailboxOps.contains s.mailboxOp then none else some (s.mailboxDone resultBadcmd))

/-- DOORBELL_WHILE_BUSY (R480): the write is ignored and ERR is set. -/
def execDoorbellWhileBusy (s : State) : Host.Outcome State Fault Refusal :=
  event "DOORBELL_WHILE_BUSY" (if s.busy then some (s.modKiln fun k => { k with mbstat := k.mbstat ||| 2 }) else none)

/-- The quad and the offset of a power register's address (R493). -/
def quadRegister (addr : Nat) : Option (Nat × Nat) :=
  if 0x10000 ≤ addr && addr < 0x10000 + 32 * 96 then some ((addr - 0x10000) / 32, (addr - 0x10000) % 32) else none

/-- A host write to a management register that no row of its own names (R6, R480, R493): none for the writes that have one. Bits and registers that are read-only ignore it, and so does TARGET for the value 3. -/
def State.writeRegister (s : State) (addr : Nat) (value : Quad) : Option State :=
  if addr = 0x000 then some (s.modKiln fun k => { k with mbcmd := value &&& 0xFFFF })
  else if 0x008 ≤ addr && addr ≤ 0x0F8 && addr % 8 = 0 then some (s.modKiln fun k => { k with mbarg := k.mbarg.set ((addr - 8) / 8) value })
  else if addr = 0x100 then some (s.modKiln fun k => { k with mbstat := k.mbstat &&& ~~~(value &&& 2) })
  else if addr = 0x200 then none
  else match quadRegister addr with
    | some (q, 0x00) =>
      let target := bitsOf value.toNat 0 2
      if target = 3 then some s
      else if value.getLsbD 2 then none
      else some (s.modKiln fun k => { k with qpctl := k.qpctl.set q (BitVec.ofNat 64 target) })
    | some (_, 0x10) => none
    | _ => some s

/-- REGISTER_WRITE (R6). -/
def execRegisterWrite (addr : Nat) (value : BitVec 64) (s : State) : Host.Outcome State Fault Refusal := event "REGISTER_WRITE" (s.writeRegister addr value)

end Sys2Proof.Machine
end

