-- ==== Sys2Proof/Machine/HostAccess.lean ====
section
/-! DEFINITION. The host's accesses to memory (R66, R478, R479), errors of the stacks (R495), firmware staging, boot and recovery (R490, R491), and attestation (R492). -/

namespace Sys2Proof.Machine

/-! ### Accesses of the host -/

/-- A host access lies in one line of an address range (R478): `n` bytes from `addr`. -/
def inLine (addr n : Nat) : Bool := 1 ≤ n && addr % 64 + n ≤ 64

/-- A part of CXL 4.0 (R477). -/
inductive LinkPart where
  | io
  | cache
  | mem
  | ide
  | msix
  | mailbox
  | multipleLogicalDevices
  | dynamicCapacity
  | portBasedRouting
  | pooling
  | other
deriving DecidableEq, Repr

/-- The part is supported; the capability structures of the rest read as absent (R477). -/
def LinkPart.present : LinkPart → Bool
  | .io | .cache | .mem | .ide | .msix | .mailbox => true
  | .multipleLogicalDevices | .dynamicCapacity | .portBasedRouting | .pooling | .other => false

/-- The device's physical address of an address in the host's HDM range: the base that the host has set lies below it (R17, R477). -/
def State.hdmAddress (s : State) (hostAddr : Nat) : Option Nat :=
  if LinkPart.mem.present && s.host.hdmBase.toNat ≤ hostAddr && hostAddr < s.host.hdmBase.toNat + 2 ^ 39 then some (hostAddr - s.host.hdmBase.toNat) else none

/-- The host can reach device memory at an address, which it presents as a physical one (R17): local memory, with the HDM range exposed (R477, R491). -/
def State.hdm (s : State) (addr : Nat) : Bool := !s.kiln.recovery && windowOf addr = 0 && addr < 2 ^ 52 && backed addr

/-- HOST_READ (R66, R478, R479): the line's home serves it, and the host may hold the line; a poisoned line gives CXL poison (R495). -/
def execHostRead (addr size : Nat) (s : State) : Host.Outcome State Fault Refusal :=
  event "HOST_READ"
    (if !inLine addr size || !s.hdm addr then none
    else if s.poison.contains (addr / 64) then some (s.modHost fun h => { h with read := [], readPoison := true })
    else some (s.modHost fun h => { h with read := s.bytesAt addr size, readPoison := false, cached := h.cached.filter (fun l => l ≠ addr / 64) ++ [addr / 64] }))

/-- HOST_WRITE (R66, R478): a write to device memory, performed at its home, or to the host's own memory in the host window. The host holds what it wrote to the device. -/
def execHostWrite (addr : Nat) (bytes : List Byte) (s : State) : Host.Outcome State Fault Refusal :=
  event "HOST_WRITE"
    (if !inLine addr bytes.length then none
    else if s.hdm addr then some ((s.putBytes addr bytes).modHost fun h => { h with cached := h.cached ++ [addr / 64] })
    else if addr < 2 ^ 52 && windowOf addr = 1 then some (s.putBytes addr bytes)
    else none)

/-! ### Errors of the stacks (R495) -/

/-- A line of local device memory, by its number PA[51:6]. -/
def stackLine (line : Nat) : Bool := line < 2 ^ 33

/-- SOFTERR (R487, R495): a soft error was corrected; the event names the line. -/
def execSofterr (line : Nat) (s : State) : Host.Outcome State Fault Refusal :=
  event "SOFTERR" (if stackLine line then some (s.postSimple 4 0 line) else none)

/-- PATROL_SCRUB (R495): a visit of a stack line, which marks the line poisoned where it is uncorrectable. -/
def execPatrolScrub (line : Nat) (s : State) : Host.Outcome State Fault Refusal :=
  event "PATROL_SCRUB"
    (if !stackLine line then none
    else
      let bad := Config.uncorrectable s.fresh line
      some { s with fresh := s.fresh + 1, poison := if bad && !s.poison.contains line then s.poison ++ [line] else s.poison })

/-! ### Firmware (R490, R491) -/

/-- FIRMWARE_STAGING_WRITE (R490, R491): bytes written through BAR2, 64 MiB. -/
def execFirmwareStagingWrite (offset : Nat) (bytes : List Byte) (s : State) : Host.Outcome State Fault Refusal :=
  event "FIRMWARE_STAGING_WRITE"
    (if bytes = [] || 2 ^ 26 < offset + bytes.length then none
    else some (s.modKiln fun k => { k with staging := k.staging.setRange offset bytes, stagedLen := max k.stagedLen (offset + bytes.length) }))

/-- A slot as the ROM's verification leaves it: what it held at the model's reset stands as it was found then (log entry 6). -/
def FwSlot.reverify (x : FwSlot) (floor : Nat) : FwSlot :=
  if x.image = [] && x.valid then (if x.version < floor then { x with valid := false, cause := 5 } else x) else verified x.image floor

/-- Boot's choice (R490): the valid slot with the higher version, A on a tie; none where both fail. -/
def bootSlot (a b : FwSlot) : Option Bool :=
  if a.valid then some (decide (b.valid && a.version < b.version)) else if b.valid then some true else none

/-- The slot that the next reset boots (R490): one that FWCOMMIT has marked for it, where the ROM's verification passes it; else boot's choice. How the mark and the choice by version go together is not stated (DESIGN CHOICE, log entry 91). -/
def nextBoot (marked : Option Bool) (a b : FwSlot) : Option Bool :=
  match marked with
  | some m => if (if m then b.valid else a.valid) then some m else bootSlot a b
  | none => bootSlot a b

/-- The spares that the mapping uses, by die (R490). -/
def ConfigRecords.used (c : ConfigRecords) : SMap 8 :=
  SMap.cells 0 ((List.range 4).map fun die => BitVec.ofNat 8 (c.mapping.filter fun q => q / 24 = die).length)

/-- The quads that the records disable: those of the defect map that no spare stands for (R490, R496). -/
def ConfigRecords.off (c : ConfigRecords) : List Nat := c.defects.filter fun q => !c.mapping.contains q

/-- The package after a reset and its boot (R490, R491): device memory is zero, and host memory, the boot flash, the signed records and the model's own fields stay; the records are applied and the links trained (R489). -/
def State.boot (s : State) (slotA slotB : FwSlot) : State :=
  let a := slotA.reverify s.kiln.floor
  let b := slotB.reverify s.kiln.floor
  { State.reset with
    mem := s.mem.filter fun e => 2 ^ 50 ≤ e.1
    kiln := { Kiln.booted0 with
      slotA := a, slotB := b, floor := s.kiln.floor, images := s.kiln.images
      records := s.kiln.records, spares := s.kiln.records.used, disabled := s.kiln.records.off
      partners := (List.range 12).map Config.partner
      booted := (nextBoot s.kiln.marked a b).getD false
      recovery := (nextBoot s.kiln.marked a b).isNone }
    turns := s.turns, issuer := s.issuer, fresh := s.fresh, nextId := s.nextId, enginesFirst := s.enginesFirst }

/-- RESET_BOOT (R489 to R491). -/
def execResetBoot (s : State) : Host.Outcome State Fault Refusal := event "RESET_BOOT" (some (s.boot s.kiln.slotA s.kiln.slotB))

/-- What the recovery mailbox at BAR0 0x0002_0000 reports in the recovery posture (R491): the failure causes of slots A and B. -/
def State.recoveryMailbox (s : State) : Option (Nat × Nat) := if s.kiln.recovery then some (s.kiln.slotA.cause, s.kiln.slotB.cause) else none

/-- What a read of BAR2 returns in the recovery posture, in which it is write-only (R491): zero. The spec says nothing of reads of it elsewhere. -/
def State.bar2Byte (s : State) (_offset : Nat) : Option Byte := if s.kiln.recovery then some 0 else none

/-- RECOVERY_COMMAND (R491): the staged image is verified, written to slot A, and the device reset; one that fails changes nothing. -/
def execRecoveryCommand (s : State) : Host.Outcome State Fault Refusal :=
  event "RECOVERY_COMMAND"
    (if !s.kiln.recovery then none
    else
      let v := verified (s.kiln.staging.getRange 0 s.kiln.stagedLen) s.kiln.floor
      some (if v.valid then s.boot v s.kiln.slotB else s))

/-- SPDM_MESSAGE (R492): the answer is signed with the device identity key and covers the slots, the configuration records and the rollback floor. -/
def execSpdmMessage (bytes : List Byte) (s : State) : Host.Outcome State Fault Refusal :=
  event "SPDM_MESSAGE" (some (s.modKiln fun k =>
    { k with spdm := Config.spdmReply Config.identityKey bytes (k.slotA.image, k.slotA.version) (k.slotB.image, k.slotB.version)
                (k.records.defects, k.records.mapping, k.records.repairs) k.floor }))

end Sys2Proof.Machine
end

