-- ==== Sys2Proof/Machine/Power.lean ====
section
/-! DEFINITION. Quad power states (R493, R494), takeovers and failures (R496), and the peer links (R489). -/

namespace Sys2Proof.Machine

/-! ### Registers of a quad (R493) -/

/-- STATE of a quad. -/
def State.quadState (s : State) (q : Nat) : Nat := bitsOf (s.kiln.qpstat.get q).toNat 0 2

/-- A move of the quad is in progress. -/
def State.quadBusy (s : State) (q : Nat) : Bool := (s.kiln.qpstat.get q).getLsbD 2

/-- QPSTAT of a quad. -/
def State.setQpstat (s : State) (q state busy cause : Nat) : State :=
  s.modKiln fun k => { k with qpstat := k.qpstat.set q (BitVec.ofNat 64 (state + busy * 4 + cause * 8)) }

/-- A core of the quad. -/
def inQuad (q core : Nat) : Bool := quadOf core = q

/-- The resident gangs on a quad. -/
def State.gangsOn (s : State) (q : Nat) : List Gang := s.gangs.filter fun g => g.resident && g.cores.any (inQuad q)

/-- The resident gangs on a quad expire (R494). -/
def State.quiesce (s : State) (q : Nat) : State :=
  ((s.gangsOn q).filter fun g => g.expired.isNone).foldl (fun t g => t.expire g.id) s

/-! ### Moves (R494) -/

/-- A move begun: the distributor places nothing on the quad meanwhile, and a move out of state 0 quiesces it. -/
def State.startMove (s : State) (q target : Nat) : State :=
  let s1 := (s.setQpstat q (s.quadState q) 1 0).modKiln fun k => { k with moves := k.moves ++ [(q, target)] }
  if target ≠ 0 && s.quadState q = 0 then s1.quiesce q else s1

/-- A GO write with a TARGET: ignored while a move is in progress; retention is refused while a core of the quad has PINSIZE ≠ 0. -/
def goTo (row : String) (target q : Nat) (s : State) : Host.Outcome State Fault Refusal :=
  event row (if 95 < q || s.kiln.disabled.contains q then none
    else if s.quadBusy q then some s
    else
      let s1 := s.modKiln fun k => { k with qpctl := k.qpctl.set q (BitVec.ofNat 64 target) }
      if target = 2 && (List.range 4).any fun j => s.pinsize.get (4 * q + j) ≠ 0 then some (s1.setQpstat q (s.quadState q) 0 1)
      else some (s1.startMove q target))

/-- GO_RUN (R494). -/
def execGoRun (quad : Nat) (s : State) : Host.Outcome State Fault Refusal := goTo "GO_RUN" 0 quad s
/-- GO_CLOCK_GATED (R494). -/
def execGoClockGated (quad : Nat) (s : State) : Host.Outcome State Fault Refusal := goTo "GO_CLOCK_GATED" 1 quad s
/-- GO_RETENTION (R494). -/
def execGoRetention (quad : Nat) (s : State) : Host.Outcome State Fault Refusal := goTo "GO_RETENTION" 2 quad s

/-- QWAKE (R493, R494): a move to state 0, ignored while one is in progress. -/
def execQwake (quad : Nat) (s : State) : Host.Outcome State Fault Refusal :=
  event "QWAKE" (if 95 < quad || s.kiln.disabled.contains quad then none else if s.quadBusy quad then some s else some (s.startMove quad 0))

/-- The quad's gangs are gone, and its engines are idle. -/
def State.quadQuiet (s : State) (q : Nat) : Bool :=
  (s.gangsOn q).isEmpty && (s.eng.matrix.running.all fun e => e.quad ≠ q) &&
    (s.flights.all fun a => !inQuad q a.core || !(s.wave? a.wave).any fun w => s.isResident w.gang) && s.eng.queries.all fun x => !inQuad q x.core

/-- The quad's L1s, buffers and TLB emptied, locked lines included: its locks are released (R55, R494). -/
def State.emptyQuad (s : State) (q : Nat) : State :=
  let keep (l : CacheLine) : Bool := !inQuad q l.core
  s.modCaches fun c => { c with tlb := c.tlb.filter fun e => e.quad ≠ q
                                l1 := c.l1.filter keep, l1i := c.l1i.filter keep, nodes := c.nodes.filter keep, texels := c.texels.filter keep }

/-- TAKEOVER's event: the quad in the low eight bits of DATA and the spare above them, 255 for none (R487, R496). -/
def State.takeoverEvent (s : State) (q spare : Nat) : State := s.postSimple 3 0 (q + (if spare < 2 then spare else 255) * 2 ^ 8)

/-- A spare of the die in the quad's place, or the quad disabled where none is left (R496). -/
def State.takeOver (s : State) (q : Nat) : State :=
  let die := q / 24
  let used := (s.kiln.spares.get die).toNat
  let s1 := (s.emptyQuad q).modKiln fun k =>
    if used < 2 then { k with spares := k.spares.set die (BitVec.ofNat 8 (used + 1)) } else { k with disabled := k.disabled ++ [q] }
  (s1.setQpstat q 0 0 0).takeoverEvent q used

/-- QUAD_MOVE_DONE (R494): the quad has quiesced and the move goes on: it completes, or, of one to retention, the clocks stop first. -/
def execQuadMoveDone (quad : Nat) (s : State) : Host.Outcome State Fault Refusal :=
  event "QUAD_MOVE_DONE" ((s.kiln.moves.find? fun m => m.1 = quad).bind fun m =>
    let ended (t : State) : State := t.modKiln fun k => { k with moves := k.moves.filter fun x => x.1 ≠ quad }
    if m.2 = 0 then some ((ended s).setQpstat quad 0 0 0).distribute
    else if !s.quadQuiet quad then none
    else if 4 ≤ m.2 then some ((ended s).takeOver quad).distribute
    else if m.2 = 2 && s.quadState quad = 0 then some ((s.emptyQuad quad).setQpstat quad 1 1 0)
    else some ((ended (s.emptyQuad quad)).setQpstat quad m.2 0 0))

/-! ### Takeovers and failures (R496) -/

/-- The spare that a takeover of a quad would use: 0 or 1 on its die, 2 where none is left. -/
def State.nextSpare (s : State) (q : Nat) : Nat := min (s.kiln.spares.get (q / 24)).toNat 2

/-- TAKEOVER (R496): the kiln judges a quad to be failing; it is quiesced, and the spare takes its place when the move ends. -/
def execTakeover (quad spare : Nat) (s : State) : Host.Outcome State Fault Refusal :=
  event "TAKEOVER" (if 95 < quad || s.kiln.disabled.contains quad || s.quadBusy quad || spare ≠ s.nextSpare quad then none else some (s.startMove quad (4 + spare)))

/-- A gang on a failed quad ended under the default action: its engines' work is lost, and each workgroup's end posts a FAULT event with the trap record of its first wave. -/
def State.failGang (s : State) (ga : Gang) : State :=
  match s.grid? ga.grid with
  | none => s
  | some gr =>
    let s1 := (s.modEng fun e => { e with copies := e.copies.filter fun c => c.gang ≠ ga.id }).modMatrix fun m =>
      { m with table := m.table.filter (fun e => e.gang ≠ ga.id), running := m.running.filter fun e => e.gang ≠ ga.id }
    let s2 := s1.modGang ga.id fun g => { g with staged := [] }
    (List.range gr.nwg).foldl (init := s2) fun t k => match t.wavesOfWg ga.id k with
      | [] => t
      | w :: _ =>
        let (bs, t1) := t.recordBytes gr.asid (t.traddr gr.asid w)
        (t1.faultEvent gr.asid bs []).endWorkgroup gr.asid ga.id k

/-- QUAD_FAILURE (R496): a quad fails abruptly. -/
def execQuadFailure (quad : Nat) (s : State) : Host.Outcome State Fault Refusal :=
  event "QUAD_FAILURE" (if 95 < quad || s.kiln.disabled.contains quad then none
    else
      let s1 := (s.gangsOn quad).foldl (fun t g => t.failGang g) s
      some (((s1.modKiln fun k => { k with moves := k.moves.filter fun m => m.1 ≠ quad }).takeOver quad).distribute))

/-! ### The peer links (R489) -/

/-- DATA of LINK and PEERLOST: the port in the low four bits and the mask of its lanes above them. -/
def linkData (port mask : Nat) : Nat := port + mask * 16

/-- LANE_SPARING (R489): a failed lane is spared; which one it was is not stated. -/
def execLaneSparing (port : Nat) (s : State) : Host.Outcome State Fault Refusal :=
  event "LANE_SPARING" (if 11 < port || s.kiln.lanes.get port ≠ 8 then none
    else
      let lost := (Config.freeByte s.fresh).toNat % 8
      some (({ s with fresh := s.fresh + 1 }.modKiln fun k => { k with lanes := k.lanes.set port 7 }).postSimple 6 0 (linkData port (255 - 2 ^ lost))))

/-- An access has a lane at a peer that is not performed. -/
def State.atPeer (s : State) (a : Access) : Bool := a.lanes.any fun l => l.status = .ready && windowOf (s.localPa l.pa) = 2

/-- An address of a context is a peer's (R16, R17). -/
def State.peerVa (s : State) (asid va : Nat) : Bool :=
  match walk s asid va ⟨false, false, false⟩ true with
  | .ok t => windowOf (s.localPa t.pa) = 2
  | .error _ => false

/-- A peer's memory is what a unit's access goes to, by the unit's name: a copy command with bytes of its own to move, a query at a node, a claimed command at its table (R169), or a drain that has been granted, by its posting order. It is discarded: its context, and the state without it. A command whose table cannot be read completes with CANCELLED (DESIGN CHOICE, log entry 91). -/
def State.unitAtPeer (s : State) (id : Nat) : Option (Nat × State) :=
  match s.eng.copies.find? fun c => c.id = id && !c.allArrived && c.globals.any (s.peerVa c.asid) with
  | some c => some (c.asid, s.modEng fun e => { e with copies := e.copies.filter fun x => x.id ≠ id })
  | none => match s.eng.queries.find? fun q => q.id = id && q.lanes.any fun l => (l.root :: l.seen.map (·.1)).any fun n => s.peerVa q.asid ((Entry.base l.entry + 64 * n) % 2 ^ 64) with
    | some q => some (q.asid, s.modEng fun e => { e with queries := e.queries.filter fun x => x.id ≠ id })
    | none => match s.host.commands.find? fun c => c.id = id && s.peerVa c.asid c.addr with
      | some c => some (c.asid, (s.modHost fun h => { h with commands := h.commands.filter fun x => x.id ≠ id }).answer c.queue c.tag c.addr 2)
      | none => (s.eng.matrix.running.find? fun e => e.order = id && e.pages.any fun p => windowOf (s.localPa p.pa) = 2).bind fun e =>
        ((s.gang? e.gang).bind fun g => s.grid? g.grid).map fun gr =>
          (gr.asid, s.modEng fun x => { x with matrix := { x.matrix with running := x.matrix.running.filter fun y => y.order ≠ id } })

/-- The access with a name, where it is on its way to a peer, discarded (R489): its context, and the state without it. -/
def State.discardAtPeer (s : State) (id : Nat) : Option (Nat × State) :=
  match s.flight? id with
  | some a => if s.atPeer a then some (a.asid, (s.modFlight id fun x => { x with lanes := x.lanes.map fun l => { l with status := .done } }).finishAccess id) else none
  | none => s.unitAtPeer id

/-- PEER_UNREACHABLE (R489): the access is discarded, its context is reset, and a PEERLOST event is written; the spec does not tie an access to a port and its lanes, which are free values. -/
def execPeerUnreachable (id : Nat) (s : State) : Host.Outcome State Fault Refusal :=
  event "PEER_UNREACHABLE" ((s.discardAtPeer id).map fun (asid, s1) =>
    (({ s1 with fresh := s1.fresh + 2 }.startReset asid .kiln).postSimple 7 asid (linkData ((Config.freeByte s1.fresh).toNat % 12) (Config.freeByte (s1.fresh + 1)).toNat)).distribute)

end Sys2Proof.Machine
end

