-- ==== Sys2Proof/Machine/Texture.lean ====
section
/-! DEFINITION. Textures: their entries (R408 to R410), channels (R409, R413), sampling (R412) and the instructions tex (R411, R414) and texq (R415). -/

namespace Sys2Proof.Machine

/-! ### Entries -/

/-- The last level (R408). -/
def Entry.lastLevel (e : Entry) : Nat := if e.lodr then e.maxLevel else e.f 268 4
/-- Flags of the sampler (R410). -/
def Entry.bilin (e : Entry) : Bool := e.flags.testBit 0
/-- See `bilin`. -/
def Entry.trilin (e : Entry) : Bool := e.flags.testBit 1
/-- WRAPU. -/
def Entry.wrapU (e : Entry) : Nat := bitsOf e.flags 2 2
/-- WRAPV. -/
def Entry.wrapV (e : Entry) : Nat := bitsOf e.flags 4 2
/-- SRGB. -/
def Entry.srgb (e : Entry) : Bool := e.flags.testBit 6

/-- A format of 8-bit unorm channels. -/
def isUnorm (format : Nat) : Bool := format = 0x01 || format = 0x02 || format = 0x04 || isBlock format

/-- The sampler's flags break R410, or SRGB stands with another format than a unorm one. -/
def Entry.badSampler (e : Entry) : Bool := e.wrapU = 3 || e.wrapV = 3 || bitsOf e.flags 7 9 ≠ 0 || (e.srgb && !isUnorm e.format)

/-- A plain texture's entry breaks what R411 asks of it. -/
def Entry.badTexture (e : Entry) : Bool :=
  e.f 160 96 ≠ 0 || e.f 264 4 ≠ 0 || e.f 272 240 ≠ 0 || e.maxLevel < e.f 268 4 || (texelBytes e.format).isNone || e.badSampler ||
  e.base % 64 ≠ 0 || e.size < e.levelOfs e.lastLevel + e.levelSize e.lastLevel

/-- A level-of-detail texture that answers BADRES (R411). -/
def Entry.badLod (e : Entry) : Bool := e.illFormed || e.badSampler

/-! ### Channels (R409, R413) -/

/-- An exact channel value: a fraction, an infinity by its sign, or a NaN. -/
inductive Chan where
  | val (num : Int) (den : Nat)
  | inf (neg : Bool)
  | nan
deriving DecidableEq, Repr

/-- A float's exact value. -/
def chanOf (f : FFmt) (x : Nat) : Chan :=
  if f.isNan x then .nan
  else match f.value x with
    | .inf neg => .inf neg
    | .fin neg m e => let (p, q) := scale m 1 e; .val (signed neg p) q

/-- The integer fifth root, by its bits from 2^k down. -/
def fifthRootFrom (n : Nat) : Nat → Nat → Nat
  | 0, r => if (r + 1) ^ 5 ≤ n then r + 1 else r
  | k + 1, r => fifthRootFrom n k (if (r + 2 ^ (k + 1)) ^ 5 ≤ n then r + 2 ^ (k + 1) else r)

/-- The correctly rounded binary32 of the sRGB transfer function at c / 255 (R413; log entry 11): c / 255 / 12.92 up to 0.04045, else ((c / 255 + 0.055) / 1.055)^2.4, taken to 64 bits below the point and beyond. -/
def srgbLinear (c : Nat) : Nat :=
  if c * 100000 ≤ 4045 * 255 then f32.round 0 false (c * 100) (255 * 1292)
  else
    let r := fifthRootFrom ((c * 1000 + 14025) ^ 12 * 2 ^ 320 / 269025 ^ 12) 65 0
    f32.round 0 false (2 * r + 1) (2 ^ 65)

/-- An 8-bit unorm channel. -/
def unorm (srgb : Bool) (c : Nat) : Chan := if srgb then chanOf f32 (srgbLinear c) else .val c 255

/-- How many bytes a texel's read takes: four of a decoded block. -/
def texelRead? (format : Nat) : Nat := if isBlock format then 4 else (texelBytes format).getD 1

/-- The four channels of a texel (R409); a missing one is 0, and A is 1. -/
def channels (e : Entry) (x : Nat) : List Chan :=
  let b (k : Nat) : Nat := bitsOf x (8 * k) 8
  let zero : Chan := .val 0 1
  let one : Chan := .val 1 1
  if e.format = 0x01 then [unorm e.srgb (b 0), zero, zero, one]
  else if e.format = 0x02 then [unorm e.srgb (b 0), unorm e.srgb (b 1), zero, one]
  else if e.format = 0x04 || isBlock e.format then [unorm e.srgb (b 0), unorm e.srgb (b 1), unorm e.srgb (b 2), unorm false (b 3)]
  else if e.format = 0x12 then (List.range 4).map fun k => chanOf f16 (bitsOf x (16 * k) 16)
  else if e.format = 0x20 then [chanOf f32 (bitsOf x 0 32), zero, zero, one]
  else (List.range 4).map fun k => chanOf f32 (bitsOf x (32 * k) 32)

/-- A weighted channel added to a sum (R413): a NaN, or infinities of both signs, stay a NaN. -/
def Chan.add (a : Chan) (w : Nat) (b : Chan) : Chan :=
  match a, b with
  | .nan, _ => .nan
  | _, .nan => .nan
  | .inf m, .inf n => if m = n then .inf m else .nan
  | .inf m, _ => .inf m
  | _, .inf n => .inf n
  | .val p q, .val u v => .val (p * v + w * u * q) (q * v)

/-- A sum divided by 2^24 and rounded once (R413). -/
def Chan.round (c : Chan) : Word :=
  BitVec.ofNat 32 (match c with
    | .nan => f32.nan
    | .inf neg => f32.inf neg
    | .val p q => f32.round 0 (p < 0) p.natAbs (q * 2 ^ 24))

/-! ### Sampling (R412) -/

/-- RoundNE(x × k) of a binary32 value, clamped to [lo, hi]; a NaN reads as 0. -/
def scaledInt (x k : Nat) (lo hi : Int) : Int :=
  match chanOf f32 x with
  | .nan => max lo (min hi 0)
  | .inf neg => if neg then lo else hi
  | .val p q =>
    let n := p.natAbs * k
    let r : Nat := if roundsUp 0 false (n / q) (n % q) q then n / q + 1 else n / q
    max lo (min hi (if p < 0 then -(r : Int) else r))

/-- A coordinate wrapped (R410). -/
def wrapCoord (mode : Nat) (x : Int) (n : Nat) : Nat :=
  match mode with
  | 0 => (x % n).toNat
  | 1 => (max 0 (min x (n - 1))).toNat
  | _ =>
    let m := (x % (2 * n)).toNat
    if m < n then m else 2 * n - 1 - m

/-- The taps on an axis: coordinates and weights. -/
def axisTaps (bilin : Bool) (wrap c n : Nat) : List (Nat × Nat) :=
  let s := scaledInt c (n * 256) (-(2 ^ 30)) (2 ^ 30)
  if bilin then
    let t := s - 128
    [(wrapCoord wrap (t / 256) n, 256 - (t % 256).toNat), (wrapCoord wrap (t / 256 + 1) n, (t % 256).toNat)]
  else [(wrapCoord wrap (s / 256) n, 256)]

/-- The levels and their weights. -/
def levelTaps (e : Entry) (lambda : Nat) : List (Nat × Nat) :=
  let last := e.lastLevel
  let big := (scaledInt lambda 256 0 (256 * last : Nat)).toNat
  if e.trilin then
    let l := big / 256
    let f := if l = last then 0 else big % 256
    [(l, 256 - f), (l + 1, f)]
  else [((big + 128) / 256, 256)]

/-- A tap: level, coordinates and weight. -/
structure Tap where
  l : Nat
  x : Nat
  y : Nat
  w : Nat
deriving DecidableEq, Repr

/-- The taps of a sample whose weight is not zero, in order. -/
def tapsOf (e : Entry) (u v lambda : Nat) : List Tap :=
  ((levelTaps e lambda).flatMap fun l =>
    (axisTaps e.bilin e.wrapV v (levelDim e.lh l.1)).flatMap fun y =>
      (axisTaps e.bilin e.wrapU u (levelDim e.lw l.1)).map fun x => ⟨l.1, x.1, y.1, x.2 * y.2 * l.2⟩).filter fun t => t.w ≠ 0

/-- The taps read and weighted: the sums, the least exact status and the state with its pushes. -/
def sampleTaps (core asid res : Nat) (e : Entry) (priv : Bool) (who : Option Reader) : List Tap → List Chan → Word → State → Except Failed (List Chan × Word × State)
  | [], acc, worst, s => .ok (acc, worst, s)
  | t :: ts, acc, worst, s => do
    let n := texelRead? e.format
    let (bs, st, s1) ← (if e.lodr then
        (s.lodTexel core asid e t.x t.y t.l n priv true who).map fun r => (r.1.bytes, r.1.status, match r.1.push with
          | some (l, page, g) => r.2.conePush core asid res l page 1 g
          | none => r.2)
      else (s.texelRead core asid e t.x t.y t.l n priv false true who).map fun r => (r.1, 0, r.2))
    sampleTaps core asid res e priv who ts ((acc.zip (channels e (natOfBytes bs))).map fun p => p.1.add t.w p.2) (leastExact worst st) s1

/-- TexSample in one lane (R412): the four channels and the status word. -/
def State.texSample (s : State) (core asid res : Nat) (e : Entry) (u v lambda : Word) (priv : Bool) (who : Option Reader) : Except Failed (List Word × State) :=
  if e.lodr && e.badLod then .ok ([0, 0, 0, 0, badRes], s)
  else do
    let (acc, worst, s1) ← sampleTaps core asid res e priv who (tapsOf e u.toNat v.toNat lambda.toNat) (List.replicate 4 (.val 0 1)) 0 s
    pure (acc.map Chan.round ++ [if e.lodr then worst else 0], s1)

/-! ### The instructions -/

/-- A resource that tex and texq refuse (R411). -/
def Entry.noTexture (e : Entry) : Bool := e.kind ≠ 2 || (!e.lodr && e.badTexture)

/-- Lanes worked one after another, each giving its words or its fault; their pushes have one origin. -/
def laneResults (f : Nat → State → Except Failed (List Word × State)) (origin : Nat) : List Nat → State → List (Nat × Except FltAt (List Word)) × State
  | [], s => ([], s)
  | l :: ls, s => match f l s with
    | .ok (ws, s1) => let (r, s2) := laneResults f origin ls (s1.pushedBy s.nextId origin l); ((l, .ok ws) :: r, s2)
    | .error (e, va, s1) => let (r, s2) := laneResults f origin ls s1; ((l, .error (e, va)) :: r, s2)

/-- A word of the filter unit (R411, R414): the checks, every lane's reads, then either a precise trap on the lanes that faulted or every lane's registers. -/
def Ctx.filter (c : Ctx) (r d : Nat) (lane : Nat → Entry → Nat → State → Except Failed (List Word × State)) (s : State) : Body :=
  if c.act = 0 then .ok s
  else match c.entries r s with
    | .error ((f, va, u), lanes) => if f.held then .stay else c.failOn f lanes va u
    | .ok (es, s1) =>
      let entry (l : Nat) : Entry := ((es.find? fun e => e.1 = c.resIndex r l).map (·.2)).getD 0
      let bad := lanesWhere fun l => c.act.getLsbD l && (entry l).noTexture
      if bad ≠ 0 then c.trapOn 0 0 bad 0 0
      else
        let (rs, s2) := laneResults (fun l z => lane (c.resIndex r l) (entry l) l z) s1.nextId (laneList c.act) s1
        match rs.filterMap fun x => match x.2 with | .error e => some (x.1, e) | .ok _ => none with
        | (l, e, va) :: fs =>
          if ((l, e, va) :: fs).any fun x => x.2.1.held then .stay
          else c.failOn e (lanesWhere fun k => ((l, e, va) :: fs).any fun x => x.1 = k) va s2
        | [] => .ok ((rs.foldl (init := s2) fun t x => match x.2 with
            | .ok ws => t.modWave c.w.id fun w => (List.range ws.length).foldl (fun y k => y.setV x.1 (d + k) (ws.getD k 0)) w
            | .error _ => t).modWave c.w.id fun w => w.lower 1).settlePushes

/-- tex (R411 to R414). -/
def execTex (f : FmtG) (s : State) := issue (.tex f) s fun c t =>
  c.filter f.s.toNat f.d.toNat (fun res e l z =>
    z.texSample c.w.core c.gr.asid res e (c.w.getV l f.a.toNat) (c.w.getV l (f.a.toNat + 1)) (c.w.getV l (f.a.toNat + 2)) c.w.priv (some ⟨c.w, z.nextId⟩)) t

/-- What texq writes in one lane (R415). -/
def State.texSize (s : State) (core asid : Nat) (e : Entry) (l y : Nat) (priv : Bool) (who : Option Reader) : Except Failed (List Word × State) :=
  if e.lodr && e.badLod then .ok ([0, 0, 0, 0], s)
  else
    let l := min l e.lastLevel
    let h := levelDim e.lh l
    let ws (b : Nat) : List Word := [BitVec.ofNat 32 (levelDim e.lw l), BitVec.ofNat 32 h, BitVec.ofNat 32 (e.lastLevel + 1), BitVec.ofNat 32 b]
    if e.lodr then (s.mapByte core asid e (min y (h - 1) * 2 ^ l / 2 ^ e.gy) priv who).map fun r => (ws r.1, r.2) else .ok (ws 0, s)

/-- texq (R415). -/
def execTexq (f : FmtG) (s : State) := issue (.texq f) s fun c t =>
  c.filter f.s.toNat f.d.toNat (fun _ e l z =>
    z.texSize c.w.core c.gr.asid e (c.w.getV l f.a.toNat).toNat (c.w.getV l (f.a.toNat + 1)).toNat c.w.priv (some ⟨c.w, z.nextId⟩)) t

end Sys2Proof.Machine
end

