-- ==== Sys2Proof/Machine/Vox.lean ====
section
/-! DEFINITION. Voxunet launches: the module and its checks (R424 to R429, R442), the translated segments (R430, R440, R441), the segments' ends and the regrouping of threads (R430 to R433). -/

namespace Sys2Proof

/-- A scalar register that a Voxunet word may read or, of the uniform registers, write (R428). -/
def voxScalar (dir : OpDir) (n : Nat) : Bool :=
  (20 ≤ n && n ≤ 27) || (dir = .read && (n ≤ 19 || [98, 99, 100, 102, 103, 104, 106, 108, 109, 110, 111].contains n))

/-- An operand of a Voxunet word is admitted, with `vregs` virtual vector registers (R428). -/
def Operand.voxOk (vregs : Nat) (o : Operand) : Bool :=
  if o.num = 124 then o.zero
  else match o.cls with
    | .vec => if o.count = 1 then o.num < vregs || (o.num = 111 && o.dir = .read) || ((o.num = 125 || o.num = 126) && o.dir = .read && o.zero)
              else o.num % o.align = 0 && o.num + o.count ≤ vregs
    | .scal => o.num % o.align = 0 && (List.range o.count).all fun k => voxScalar o.dir (o.num + k)

/-- The form is one of profile 1 (R427), hints and nexts aside. -/
def Instr.voxForm (vbars : Nat) (w : Word) : Instr → Bool
  | .bar f => f.x.toNat < vbars
  | .pref _ | .cinvLine _ | .cinvAll _ | .tex _ | .texq _ => true
  | .wait f => f.c = 15 && f.t = 15
  | .csrr f => f.r = 124 && (f.c = 0 || csrAccess f.c.toNat false = .legacy)
  | .csrw f => f.r = 124 && csrAccess f.c.toNat true = .legacy
  | _ =>
    let m := w.toNat / 2 ^ 25
    m ≤ 0x3C || (0x40 ≤ m && m ≤ 0x4B) || m = 0x57 || m = 0x5B || (0x60 ≤ m && m ≤ 0x6E) || (0x70 ≤ m && m ≤ 0x73) || m = 0x76

/-- The word's registers and codes are admitted (R427, R428). -/
def Instr.voxOperands (vregs : Nat) (i : Instr) : Bool := i.codesOk && i.operands.all (Operand.voxOk vregs)

namespace Machine

/-! ### The module (R424, R425) -/

/-- The header, 64 bytes, as a number. -/
abbrev VoxHeader := Nat
/-- LOG2VW. -/
def VoxHeader.log2vw (h : VoxHeader) : Nat := bitsOf h 40 3
/-- VREGS. -/
def VoxHeader.vregs (h : VoxHeader) : Nat := bitsOf h 48 7
/-- VBARS. -/
def VoxHeader.vbars (h : VoxHeader) : Nat := bitsOf h 56 8
/-- VLOCALG. -/
def VoxHeader.vlocalg (h : VoxHeader) : Nat := bitsOf h 64 8
/-- DCLASS. -/
def VoxHeader.dclass (h : VoxHeader) : Nat := bitsOf h 72 8
/-- FPCREQ. -/
def VoxHeader.fpcreq (h : VoxHeader) : Nat := bitsOf h 80 6
/-- NSEG. -/
def VoxHeader.nseg (h : VoxHeader) : Nat := bitsOf h 96 20
/-- ENTRY. -/
def VoxHeader.entry (h : VoxHeader) : Nat := bitsOf h 128 20
/-- SEGTAB. -/
def VoxHeader.segtab (h : VoxHeader) : Nat := bitsOf h 160 32
/-- SIZE. -/
def VoxHeader.size (h : VoxHeader) : Nat := bitsOf h 192 32
/-- BIND[n]: its valid bit, and its resource index. -/
def VoxHeader.bind (h : VoxHeader) (n : Nat) : Bool × Nat := (bitsOf h (32 * n + 244) 1 = 1, bitsOf h (32 * n + 224) 20)

/-- A field of the header breaks R424, DCLASS aside, or WGTHR is not a multiple of VW. -/
def VoxHeader.bad (h : VoxHeader) (wgthr : Nat) : Bool :=
  bitsOf h 0 32 ≠ 0x544E5856 || bitsOf h 32 8 ≠ 1 || h.log2vw < 2 || 5 < h.log2vw || bitsOf h 43 5 ≠ 0 || h.vregs < 8 || 96 < h.vregs || h.vregs % 8 ≠ 0 ||
    bitsOf h 55 1 ≠ 0 || 16 < h.vbars || 128 < h.vlocalg || bitsOf h 86 10 ≠ 0 || h.nseg = 0 || bitsOf h 116 12 ≠ 0 || h.nseg ≤ h.entry ||
    bitsOf h 148 12 ≠ 0 || h.segtab % 16 ≠ 0 || ((List.range 8).any fun n => bitsOf h (32 * n + 245) 11 ≠ 0) || bitsOf h 480 32 ≠ 0 ||
    h.size < h.segtab + 16 * h.nseg || wgthr % 2 ^ h.log2vw ≠ 0

/-- A table entry breaks R425. -/
def badSegment (size e : Nat) : Bool := bitsOf e 0 32 % 4 ≠ 0 || bitsOf e 32 16 = 0 || bitsOf e 49 79 ≠ 0 || size < bitsOf e 0 32 + 4 * bitsOf e 32 16

/-- The module exceeds the resource floor (R442). -/
def VoxHeader.aboveFloor (h : VoxHeader) : Bool := 64 < h.vregs || 32 < h.vlocalg || 16 < h.vbars

/-! ### Its words (R427 to R429) -/

/-- The word that ends a segment: the status it gives, 0 for a good one. -/
def lastWord (h : VoxHeader) (hints : List Word) (w : Word) : Nat :=
  match decodeVox w with
  | .error _ => 2
  | .ok i => if !i.voxOperands h.vregs then 2
    else match i with
      | .next n => if hints ≠ [] || h.nseg ≤ n.toNat then 3 else 0
      | .nextVa _ => if hints ≠ [] then 3 else 0
      | i => if i.isHint || i.voxForm h.vbars w then 3 else 2

/-- A word before the last: the status it gives, 0 for a good one, and the hint words that stand before the next. -/
def innerWord (h : VoxHeader) (hints : List Word) (w : Word) : Nat × List Word :=
  match decodeVox w with
  | .error _ => (2, [])
  | .ok i =>
    let kinds := hints.map fun x => match decode x with | .ok j => j.hintKind | .error _ => 17
    let ready := hints.foldl (fun a x => match decode x with | .ok j => a.add j | .error _ => a) Hints.none
    if i.isNext then (if i.voxOperands h.vregs then 3 else 2, [])
    else if i.isHint then
      if !i.codesOk || i.hintKind = 5 || kinds.contains i.hintKind || 2 ≤ hints.length then (2, []) else (0, hints ++ [w])
    else if i.voxForm h.vbars w && i.voxOperands h.vregs && ready.fit (h.fpcreq.testBit 4) i then (0, []) else (2, [])

/-- The first fault of a segment's words from an offset on: its status and its offset. -/
def scanWords (h : VoxHeader) : Nat → List Word → List Word → Option (Nat × Nat)
  | _, _, [] => none
  | k, hints, [w] => let r := lastWord h hints w; if r = 0 then none else some (r, k)
  | k, hints, w :: ws => match innerWord h hints w with
    | (0, hints') => scanWords h (k + 1) hints' ws
    | (r, _) => some (r, k)

/-- The segment contains bar. -/
def barAt (ws : List Word) : Option Nat := ws.findIdx? fun w => match decode w with | .ok (.bar _) => true | _ => false

/-- The first fault of a segment (R427 to R429, R432). Where GATHER disagrees with the presence of bar, it stands at the first bar, or at the first word. -/
def CodeEntry.fault (h : VoxHeader) (e : CodeEntry) : Option (Nat × Nat) :=
  (scanWords h 0 [] e.words).orElse fun _ => if e.gather = (barAt e.words).isSome then none else some (3, (barAt e.words).getD 0)

/-- A module checked: a status with the segment and the offset of the first fault where it has one; or what the launch keeps. -/
inductive VoxCheck where
  | bad (status : Nat) (at_ : Option (Nat × Nat))
  | ok (header : VoxHeader) (m : VoxModule)
deriving DecidableEq, Repr

/-- The segments that table entries name; none where a word cannot be read. -/
def State.readSegments (s : State) (asid addr : Nat) (h : VoxHeader) : List Nat → Option (List CodeEntry)
  | [] => some []
  | e :: es => match s.readTable asid (addr + bitsOf e 0 32) 4 (bitsOf e 32 16), s.readSegments asid addr h es with
    | some ws, some r => some (⟨ws.map (BitVec.ofNat 32), h.log2vw, h.vregs, bitsOf e 48 1 = 1⟩ :: r)
    | _, _ => none

/-- The first segment with a fault: its index and the fault. -/
def firstFault (h : VoxHeader) (segs : List CodeEntry) : Option (Nat × Nat × Nat) :=
  (List.range segs.length).findSome? fun k => (segs[k]?).bind fun e => (e.fault h).map fun f => (k, f.1, f.2)

/-- What the check of a module reads; see `State.checkModule`. -/
def State.moduleLooks (s : State) (asid addr wgthr : Nat) : List Look :=
  if addr % 64 ≠ 0 then []
  else plainLook addr 64 :: match s.readTable asid addr 64 1 with
    | none => []
    | some l =>
      let h : VoxHeader := l.headD 0
      if h.bad wgthr then []
      else plainLook (addr + h.segtab) (16 * h.nseg) :: match s.readTable asid (addr + h.segtab) 16 h.nseg with
        | none => []
        | some es => if es.any (badSegment h.size) then [] else es.map fun e => plainLook (addr + bitsOf e 0 32) (4 * bitsOf e 32 16)

/-- The check of a whole module for a launch of WGTHR virtual threads (R426): the header, its table, its words, and what they ask of the device and of FPC. -/
def State.checkModule (s : State) (asid addr wgthr : Nat) : VoxCheck :=
  if addr % 64 ≠ 0 then .bad 1 none
  else match s.readTable asid addr 64 1 with
    | none => .bad 7 none
    | some l =>
      let h : VoxHeader := l.headD 0
      if h.bad wgthr then .bad 1 none
      else match s.readTable asid (addr + h.segtab) 16 h.nseg with
        | none => .bad 7 none
        | some es =>
          if es.any (badSegment h.size) then .bad 1 none
          else match s.readSegments asid addr h es with
            | none => .bad 7 none
            | some segs => match firstFault h segs with
              | some (k, st, ofs) => .bad st (some (k, ofs))
              | none =>
                if h.dclass = 0 && h.aboveFloor then .bad 4 none
                else if 1 < h.dclass then .bad 5 none
                else if bitsOf (s.ctx asid).fpc.toNat 0 6 ≠ h.fpcreq then .bad 6 none
                else .ok h ⟨addr, 2 ^ h.log2vw, segs⟩

/-! ### The code cache (R440, R441) -/

/-- The waves of Voxunet launches after a translation. -/
def State.wakeTranslated (s : State) : State :=
  { s with waves := s.waves.map fun w => match s.gridOf w with
      | some gr => (match gr.vox with | some m => s.enterTranslated m (gr.regs - 16) w | none => w)
      | none => w }

/-- A segment's translation put in the code cache (R440, R441), at a new place or at that of the entry it evicts: its native words and its PC map stand in memory there. -/
def State.putSegment (s : State) (e : CodeEntry) : State :=
  let n := s.newPlace
  let at_ := codeArea + n * 2 ^ 20
  let t := ((s.putBytes at_ e.image.1).putBytes (at_ + 2 ^ 19) e.image.2).useCode n
  { t with code := if n < s.code.length then s.code.set n e else s.code ++ [e] }

/-- A segment translated where it is not in the code cache, and used; the waves that wait for it go on. -/
def State.translateSegment (s : State) (e : CodeEntry) : State :=
  (match s.cached e with
  | some n => s.useCode n
  | none => s.putSegment e).wakeTranslated

/-- SEGMENT_TRANSLATION (R441): a firmware agent translates a segment of a launch's module that is not in the cache, or that a wave still waits for. -/
def execSegmentTranslation (grid segment : Nat) (s : State) : Host.Outcome State Fault Refusal :=
  event "SEGMENT_TRANSLATION" ((s.grid? grid).bind fun g => g.vox.bind fun m => (m.segs[segment]?).bind fun e =>
    if (s.cached e).isSome && s.wakeTranslated.waves = s.waves then none else some (s.translateSegment e))

/-! ### VXLAUNCH (R426) -/

/-- A number with a field replaced. -/
def putField (r lo len v : Nat) : Nat := r - bitsOf r lo len * 2 ^ lo + v % 2 ^ len * 2 ^ lo

/-- The fields that the agent writes into the native record: first bit, length and value. -/
def voxFields (h : VoxHeader) (entry : Quad) (bases : List (Nat × Nat)) : List (Nat × Nat × Nat) :=
  [(0, 64, entry.toNat), (256, 3, 1), (270, 7, h.vregs + 16), (277, 5, h.vbars), (288, 8, h.vlocalg), (321, 1, 0), (384, 256, 0), (1792, 64, 0), (1984, 64, 0)] ++
    bases.map fun b => (640 + 64 * b.1, 64, b.2)

/-- BASE of the resource entry of each valid buffer symbol; none where an entry cannot be read. -/
def State.voxBases (s : State) (g : Grid) (h : VoxHeader) : Option (List (Nat × Nat)) :=
  ((List.range 8).filter fun n => (h.bind n).1).foldl (init := some []) fun acc n => acc.bind fun l =>
    if g.rescount ≤ (h.bind n).2 then none
    else (s.readTable g.asid (g.restab + 64 * (h.bind n).2) 64 1).map fun e => l ++ [(n, bitsOf (e.headD 0) 0 64)]

/-- The resource entries that a passed module's symbols name. -/
def Grid.baseLooks (g : Grid) (h : VoxHeader) : List Look :=
  ((List.range 8).filter fun n => (h.bind n).1 && (h.bind n).2 < g.rescount).map fun n => plainLook (g.restab + 64 * (h.bind n).2) 64

/-- STATUS written into the descriptor, with BADSEG and BADOFS where the module has a first fault. -/
def State.voxStatus (s : State) (asid desc status : Nat) (at_ : Option (Nat × Nat)) : State :=
  let bs := match at_ with
    | some (k, ofs) => bytesOfNat 6 (status + k * 2 ^ 8 + ofs * 2 ^ 28)
    | none => bytesOfNat 1 status
  match s.ctxWrite asid (desc + 16) bs needWrite false none with
  | .ok t => t
  | .error _ => s

/-- A module that has passed: its entry is translated, the record's fields are written, and the record is checked under R169. -/
def State.voxBegin (s : State) (g : Grid) (desc : Nat) (h : VoxHeader) (m : VoxModule) : State :=
  let s1 := match m.segs[h.entry]? with | some e => s.translateSegment e | none => s
  let entry := nativeEntry (((m.segs[h.entry]?).bind s1.cached).getD 0)
  match s1.voxBases g h with
  | none => (s1.voxStatus g.asid desc 7 none).launchAnswer g 5 3
  | some bases =>
    let record := (voxFields h entry bases).foldl (fun r f => putField r f.1 f.2.1 f.2.2) g.record.toNat
    match s1.ctxWrite g.asid g.lrec (bytesOfNat 256 record) needWrite false none with
    | .error _ => (s1.voxStatus g.asid desc 7 none).launchAnswer g 5 3
    | .ok s2 =>
      let (gid, s3) := (s2.voxStatus g.asid desc 0 none).newId
      let g1 := { g with id := gid, record := BitVec.ofNat 2048 record, vox := some m }
      s3.afterReads g.asid (s3.launchLooks g1 none) fun u => u.launch g1

/-- What a VXLAUNCH reads before its launch: the descriptor, the record, the module, and of one that has passed the resource entries. -/
def State.voxLooks (s : State) (c : Command) : List Look :=
  plainLook c.addr 16 :: match s.readTable c.asid c.addr 16 1 with
    | none => []
    | some l => plainLook (bitsOf (l.headD 0) 64 64) 256 :: match s.readRecord c.asid (bitsOf (l.headD 0) 64 64) c.queue c.tag with
      | none => []
      | some g => s.moduleLooks c.asid (bitsOf (l.headD 0) 0 64) g.wgthr ++ match s.checkModule c.asid (bitsOf (l.headD 0) 0 64) g.wgthr with
        | .ok h _ => g.baseLooks h
        | .bad _ _ => []

/-- VXLAUNCH (R426). -/
def execVxlaunch (id : Nat) (s : State) : Host.Outcome State Fault Refusal :=
  runCommand "VXLAUNCH" id (fun c => !c.bad && c.op = 2) (fun c t => some (t.afterReads c.asid (t.voxLooks c) fun u =>
    match u.readTable c.asid c.addr 16 1 with
    | none => u.unreadLaunch c.queue c.tag
    | some l =>
      match u.readRecord c.asid (bitsOf (l.headD 0) 64 64) c.queue c.tag with
      | none => (u.voxStatus c.asid c.addr 7 none).unreadLaunch c.queue c.tag
      | some g => match u.checkModule c.asid (bitsOf (l.headD 0) 0 64) g.wgthr with
        | .bad st at_ => (u.voxStatus c.asid c.addr st at_).launchAnswer g (if st = 7 then 5 else 1) 3
        | .ok h m => u.voxBegin g c.addr h m)) s

/-! ### The end of a segment (R429, R430) -/

/-- next (R429, R430): segment n is the successor of every thread. -/
def execNext (n : BitVec 22) (s : State) := issueOk (.next n) s fun c => c.putV c.vregs fun _ => n.setWidth 32

/-- next with a register pair (R429, R430): each thread's successor is in bits 31:0. -/
def execNextVa (a : BitVec 7) (s : State) := issueOk (.nextVa a) s fun c => c.putV c.vregs fun l => lo32 (c.src2 .vec a.toNat l)

/-! ### The segment dispatcher (R431, R432) -/

/-- A block position of a workgroup: the native wave that holds it and the block's first lane. -/
def blockPlace (width p : Nat) : Nat × Nat := (p / (32 / width), p % (32 / width) * width)

/-- A virtual wave where it stands: its number, its native wave and its first lane. -/
structure VoxBlock where
  k : Nat
  wave : Wave
  base : Nat
deriving DecidableEq, Repr

/-- Successors of its threads that have not ended. -/
def VoxBlock.succ (b : VoxBlock) (width vregs : Nat) : List Nat :=
  (((List.range width).filter fun j => b.wave.live.getLsbD (b.base + j)).map fun j => (b.wave.getV (b.base + j) vregs).toNat).eraseDups

/-- The least of some numbers; 0 of none. -/
def leastOf : List Nat → Nat
  | [] => 0
  | [n] => n
  | n :: ns => min n (leastOf ns)

/-- The key by which blocks are placed (R431). -/
def VoxBlock.key (b : VoxBlock) (width vregs : Nat) : List Nat :=
  let ss := b.succ width vregs
  [(decide (ss = [])).toNat, (decide (1 < ss.length)).toNat, leastOf ss, b.k]

/-- One list of numbers comes before another of its length. -/
def keyLess : List Nat → List Nat → Bool
  | x :: xs, y :: ys => x < y || (x = y && keyLess xs ys)
  | _, _ => false

/-- Blocks in ascending order of their keys. -/
def sortBlocks (width vregs : Nat) (bs : List VoxBlock) : List VoxBlock :=
  bs.foldl (init := []) fun out b =>
    let before (x : VoxBlock) : Bool := !keyLess (b.key width vregs) (x.key width vregs)
    out.filter before ++ [b] ++ out.filter fun x => !before x

/-- The blocks of a workgroup as they stand. -/
def State.blocksOf (s : State) (gang : Nat) (g : VoxGroup) (width : Nat) : List VoxBlock :=
  (List.range g.order.length).filterMap fun p => (s.wavesOfWg gang g.wg).find? (fun w => w.index = (blockPlace width p).1) |>.map fun w =>
    ⟨g.order.getD p 0, w, (blockPlace width p).2⟩

/-- A native wave after the regroup: each of its blocks is the virtual wave that comes to stand there. Its threads are at their successors' entries; those whose successor is a gathering segment are held unless they are released; and a wave with another thread whose successor is not yet translated waits at the segment's end (R431, R441). -/
def State.regroupWave (s : State) (gr : Grid) (m : VoxModule) (sorted : List VoxBlock) (release : Bool) (w : Wave) : Wave :=
  let vregs := gr.regs - 16
  let src (l : Nat) : Option (Wave × Nat) := (sorted[w.index * (32 / m.width) + l / m.width]?).map fun b => (b.wave, b.base + l % m.width)
  let lanes := List.range 32
  let from_ {α : Type} (l : Nat) (d : α) (f : Wave → Nat → α) : α := match src l with | some (x, k) => f x k | none => d
  let ended := lanesWhere fun l => from_ l true fun x k => x.ended.getLsbD k
  let succ (l : Nat) : Option CodeEntry := from_ l none fun x k => m.segs[(x.getV k vregs).toNat]?
  let entry (l : Nat) : Quad := match (succ l).bind s.cached with | some e => nativeEntry e | none => untranslated
  let w1 : Wave := { w with
    ended
    v := SMap.setMany w.v ((List.range gr.regs).flatMap fun n => lanes.map fun l => vKey l n) (fun k => k) fun k => from_ (k / 128) 0 fun x j => x.getV j (k % 128)
    s := preloads gr
    parked := 0
    gathering := if release then 0 else lanesWhere fun l => !ended.getLsbD l && match succ l with | some e => e.gather | none => false
    released := 0, backFrom := none, wake := 0, waiting := none }
  let w2 := (List.range 7).foldl (init := w1) fun x n => x.setP (BitVec.allOnes 32) (n + 1) (lanesWhere fun l => from_ l false fun y k => y.getP k (n + 1))
  let w3 := (w2.setPcs (~~~ended) entry).setMeets (~~~ended) fun _ => BitVec.allOnes 64
  w3.settle

/-- Every held thread of a workgroup traps at its segment's end (R432). -/
def State.gatherConflict (s : State) (ws : List Wave) (vox : Grid) : State :=
  ws.foldl (init := s) fun t w => match t.wave? w.id with
    | none => t
    | some x =>
      if !x.alive then t
      else
        let pc := (lowestPc ((laneList (if x.live &&& x.parked = 0 then x.live else x.live &&& x.parked)).map x.pcOf)).getD 0
        let word := match t.fetchWord x vox pc.toNat with | (.ok v, _) => v | (.error _, _) => 0
        t.trap w.id x.live (precise 0 0 word pc x.live x.live 0 0)

/-- REGROUP (R431, R432): once every wave of the workgroup is at its segment's end and its accesses are over. A wave with a successor that is not yet translated then waits for it, alone (R441). An expired gang waits for its eviction instead. -/
def execRegroup (gang wg : Nat) (s : State) : Host.Outcome State Fault Refusal :=
  event "REGROUP" ((s.gang? gang).bind fun ga => (s.grid? ga.grid).bind fun gr => gr.vox.bind fun m => (s.groups.find? fun g => g.gang = gang && g.wg = wg).bind fun g =>
    let ws := s.wavesOfWg gang wg
    let live := ws.filter Wave.alive
    if !ga.resident || ga.expired.isSome || live = [] || !(live.all fun w => w.atEnd && w.wakeKind = 9 && !s.trapDue w) || ws.any (fun w => w.ld ≠ 0 || w.st ≠ 0 || w.cp ≠ 0) then none
    else
      let blocks := s.blocksOf gang g m.width
      let succs := (blocks.flatMap fun b => b.succ m.width (gr.regs - 16)).eraseDups
      let gathers := succs.all fun k => match m.segs[k]? with | some e => e.gather | none => false
      if gathers && 1 < succs.length then some (s.gatherConflict live gr)
      else
        let sorted := sortBlocks m.width (gr.regs - 16) blocks
        let used := succs.filterMap fun k => (m.segs[k]?).bind s.cached
        some ({ used.foldl State.useCode (s.modWaves (ws.map (·.id)) (s.regroupWave gr m sorted gathers)) with
          groups := s.groups.map fun x => if x.gang = gang && x.wg = wg then { x with order := sorted.map (·.k) } else x }))

end Machine
end Sys2Proof
end

