-- ==== Sys2Proof/Machine/Reissue.lean ====
section
/-! DEFINITION. The performance of an instruction at which a wave waited: a queue port that has entries or room (R160, R351), or a ticket that has become the lowest (R165). -/

namespace Sys2Proof.Machine

/-- The instruction words performed once more by the wave whose turn it is; a step without a word is none. -/
def performWord (i : Instr) (s : State) : Host.Outcome State Fault Refusal :=
  match i with
  | .iadd f => execIadd f s
  | .isub f => execIsub f s
  | .imul f => execImul f s
  | .imulhI f => execImulhI f s
  | .imulhZ f => execImulhZ f s
  | .imad f => execImad f s
  | .and f => execAnd f s
  | .or f => execOr f s
  | .xor f => execXor f s
  | .shl f => execShl f s
  | .shr f => execShr f s
  | .sar f => execSar f s
  | .rol f => execRol f s
  | .bfe f => execBfe f s
  | .bfi f => execBfi f s
  | .iminI f => execIminI f s
  | .iminZ f => execIminZ f s
  | .imaxI f => execImaxI f s
  | .imaxZ f => execImaxZ f s
  | .icmp f => execIcmp f s
  | .sel f => execSel f s
  | .ladd f => execLadd f s
  | .iadd64 f => execIadd64 f s
  | .isub64 f => execIsub64 f s
  | .icmp64 f => execIcmp64 f s
  | .shlImm f => execShlImm f s
  | .shrImm f => execShrImm f s
  | .sarImm f => execSarImm f s
  | .rolImm f => execRolImm f s
  | .shlImm64 f => execShlImm64 f s
  | .shrImm64 f => execShrImm64 f s
  | .sarImm64 f => execSarImm64 f s
  | .rolImm64 f => execRolImm64 f s
  | .iaddImm f => execIaddImm f s
  | .andImm f => execAndImm f s
  | .movi f => execMovi f s
  | .mov f => execMov f s
  | .mov64 f => execMov64 f s
  | .popc f => execPopc f s
  | .popc64 f => execPopc64 f s
  | .clz f => execClz f s
  | .clz64 f => execClz64 f s
  | .imul64 f => execImul64 f s
  | .fadd f => execFadd f s
  | .fsub f => execFsub f s
  | .fmul f => execFmul f s
  | .ffma f => execFfma f s
  | .fmin f => execFmin f s
  | .fmax f => execFmax f s
  | .fcmp f => execFcmp f s
  | .fdiv f => execFdiv f s
  | .frcp f => execFrcp f s
  | .frsq f => execFrsq f s
  | .fsqrt f => execFsqrt f s
  | .fex2 f => execFex2 f s
  | .flg2 f => execFlg2 f s
  | .fsin f => execFsin f s
  | .fcos f => execFcos f s
  | .frnd f => execFrnd f s
  | .dadd f => execDadd f s
  | .dsub f => execDsub f s
  | .dmul f => execDmul f s
  | .dffma f => execDffma f s
  | .dmin f => execDmin f s
  | .dmax f => execDmax f s
  | .dcmp f => execDcmp f s
  | .ddiv f => execDdiv f s
  | .dsqrt f => execDsqrt f s
  | .drnd f => execDrnd f s
  | .hadd2 f => execHadd2 f s
  | .hfma2 f => execHfma2 f s
  | .bfma2 f => execBfma2 f s
  | .cvtFromInteger f => execCvtFromInteger f s
  | .cvtFromFloat f => execCvtFromFloat f s
  | .pack f => execPack f s
  | .unpk f => execUnpk f s
  | .shflIdx f => execShflIdx f s
  | .shflXor f => execShflXor f s
  | .shflUp f => execShflUp f s
  | .shflDown f => execShflDown f s
  | .vote f => execVote f s
  | .bcast f => execBcast f s
  | .redux f => execRedux f s
  | .scan f => execScan f s
  | .bra f => execBra f s
  | .brx f => execBrx f s
  | .call f => execCall f s
  | .calli f => execCalli f s
  | .ret f => execRet f s
  | .meetLabel f => execMeetLabel f s
  | .meetRegister f => execMeetRegister f s
  | .exit f => execExit f s
  | .yield f => execYield f s
  | .bar f => execBar f s
  | .barnet f => execBarnet f s
  | .nop f => execNop f s
  | .barInit f => execBarInit f s
  | .barArrive f => execBarArrive f s
  | .barWait f => execBarWait f s
  | .barSync f => execBarSync f s
  | .ldZ8 f => execLdZ8 f s
  | .ldI8 f => execLdI8 f s
  | .ldZ16 f => execLdZ16 f s
  | .ldI16 f => execLdI16 f s
  | .ld32 f => execLd32 f s
  | .ld64 f => execLd64 f s
  | .st8 f => execSt8 f s
  | .st16 f => execSt16 f s
  | .st32 f => execSt32 f s
  | .st64 f => execSt64 f s
  | .lds32 f => execLds32 f s
  | .lds64 f => execLds64 f s
  | .sts32 f => execSts32 f s
  | .sts64 f => execSts64 f s
  | .ldlod f => execLdlod f s
  | .lck f => execLck f s
  | .ulk f => execUlk f s
  | .pref f => execPref f s
  | .cinvLine f => execCinvLine f s
  | .cinvUnl f => execCinvUnl f s
  | .cinvAll f => execCinvAll f s
  | .cinvIline f => execCinvIline f s
  | .cinvIall f => execCinvIall f s
  | .atom32 f => execAtom32 f s
  | .atom64 f => execAtom64 f s
  | .acas f => execAcas f s
  | .red f => execRed f s
  | .mcst f => execMcst f s
  | .rdst f => execRdst f s
  | .txb f => execTxb f s
  | .txld f => execTxld f s
  | .txst f => execTxst f s
  | .txc f => execTxc f s
  | .txa f => execTxa f s
  | .fence f => execFence f s
  | .wait f => execWait f s
  | .mxop f => execMxop f s
  | .mxopZero f => execMxopZero f s
  | .mxdrnI32 d n => execMxdrnI32 d n s
  | .mxdrnI64 d n => execMxdrnI64 d n s
  | .mxdrnF32 d n => execMxdrnF32 d n s
  | .team n => execTeam n s
  | .mxbeg f => execMxbeg f s
  | .mxend => execMxend s
  | .mxfold d => execMxfold d s
  | .mxres => execMxres s
  | .cpy f => execCpy f s
  | .cpyf f => execCpyf f s
  | .trav f => execTrav f s
  | .trnx f => execTrnx f s
  | .isect f => execIsect f s
  | .rast f => execRast f s
  | .geosync f => execGeosync f s
  | .tex f => execTex f s
  | .texq f => execTexq f s
  | .csrr f => execCsrr f s
  | .csrw f => execCsrw f s
  | .trapret f => execTrapret f s
  | .smask f => execSmask f s
  | .clock f => execClock f s
  | .rng f => execRng f s
  | .hintExt e => execHintExt e s
  | .hintStall n => execHintStall n s
  | .hintNeg => execHintNeg s
  | .hintRnd m => execHintRnd m s
  | .hintSat x => execHintSat x s
  | .hintCache y x => execHintCache y x s
  | .hintNb => execHintNb s
  | .hintDtree => execHintDtree s
  | .next n => execNext n s
  | .nextVa a => execNextVa a s
  | _ => .fault .noIssuer

/-- A wave performs the instruction at which it waits with a kind of wake condition, where it may issue: its wait is over and its logical time passes the releaser's (R164); none while it would wait the same way again. -/
def State.performWaiting (s : State) (wave kind : Nat) (later : Bool) : Option State :=
  (s.wave? wave).bind fun w =>
    if w.wakeKind ≠ kind || !(s.home? w).any (fun h => s.canIssue w.withdraw h.1) then none
    else
      let s1 : State := { s.modWave wave fun x => { x.withdraw with time := if later then maxTime x.time x.releaser + 1 else x.time } with issuer := wave }
      match w.waiting with
      | none => some s1
      | some i => match performWord i s1 with
        | .next t => if (t.wave? wave).any fun x => x.wakeKind = kind && x.waiting = some i then none else some t
        | _ => none

/-- The kiln's note that the ring or the descriptor at which a wave waits is unmapped (R351), where it would be written: not again within a millisecond (R487). -/
def State.unmappedWait (s : State) (w : Wave) : Option State :=
  match w.waiting, s.home? w, w.nextGroup with
  | some i, some (_, gr), some (_, lanes) =>
    let n := laneCount (activeLanes i w lanes w.hintsNow.neg)
    (s.unmappedPort gr (portUses i) n).bind fun x =>
      if s.host.logs.any fun l => l.code = 6 && l.asid = gr.asid && l.arg0 = (gr.port x.1.port).2 && s.cycle.toNat < l.at_ + 1300000 then none
      else some (s.portPolls gr (portUses i) n)
  | _, _, _ => none

/-- PORT_WAKE (R160, R164, R351): a wave whose queue ports can serve it goes on; one whose ring or descriptor is unmapped waits, which the kiln notes. -/
def execPortWake (wave : Nat) (s : State) : Host.Outcome State Fault Refusal :=
  event "PORT_WAKE" ((s.wave? wave).bind fun w =>
    if w.wakeKind ≠ 4 then none
    else if s.waitServed w then s.performWaiting wave 4 true
    else s.unmappedWait w)

/-- TICKET_TURN (R165): a wave whose ticket is the lowest performs its instruction. -/
def execTicketTurn (wave : Nat) (s : State) : Host.Outcome State Fault Refusal := event "TICKET_TURN" (s.performWaiting wave 8 false)

end Sys2Proof.Machine
end

