-- ==== Sys2Proof/Machine/Dispatch.lean ====
section
/-! DEFINITION. The one match that gives every row of the opcode table its meaning. -/

namespace Sys2Proof.Machine

/-- The meaning of an instruction or step in a state. -/
def exec (i : Instr) (s : State) : Host.Outcome State Fault Refusal :=
  match i with
  | .iadd f => Sys2Proof.Machine.execIadd f s
  | .isub f => Sys2Proof.Machine.execIsub f s
  | .imul f => Sys2Proof.Machine.execImul f s
  | .imulhI f => Sys2Proof.Machine.execImulhI f s
  | .imulhZ f => Sys2Proof.Machine.execImulhZ f s
  | .imad f => Sys2Proof.Machine.execImad f s
  | .and f => Sys2Proof.Machine.execAnd f s
  | .or f => Sys2Proof.Machine.execOr f s
  | .xor f => Sys2Proof.Machine.execXor f s
  | .shl f => Sys2Proof.Machine.execShl f s
  | .shr f => Sys2Proof.Machine.execShr f s
  | .sar f => Sys2Proof.Machine.execSar f s
  | .rol f => Sys2Proof.Machine.execRol f s
  | .bfe f => Sys2Proof.Machine.execBfe f s
  | .bfi f => Sys2Proof.Machine.execBfi f s
  | .iminI f => Sys2Proof.Machine.execIminI f s
  | .iminZ f => Sys2Proof.Machine.execIminZ f s
  | .imaxI f => Sys2Proof.Machine.execImaxI f s
  | .imaxZ f => Sys2Proof.Machine.execImaxZ f s
  | .icmp f => Sys2Proof.Machine.execIcmp f s
  | .sel f => Sys2Proof.Machine.execSel f s
  | .ladd f => Sys2Proof.Machine.execLadd f s
  | .iadd64 f => Sys2Proof.Machine.execIadd64 f s
  | .isub64 f => Sys2Proof.Machine.execIsub64 f s
  | .icmp64 f => Sys2Proof.Machine.execIcmp64 f s
  | .shlImm f => Sys2Proof.Machine.execShlImm f s
  | .shrImm f => Sys2Proof.Machine.execShrImm f s
  | .sarImm f => Sys2Proof.Machine.execSarImm f s
  | .rolImm f => Sys2Proof.Machine.execRolImm f s
  | .shlImm64 f => Sys2Proof.Machine.execShlImm64 f s
  | .shrImm64 f => Sys2Proof.Machine.execShrImm64 f s
  | .sarImm64 f => Sys2Proof.Machine.execSarImm64 f s
  | .rolImm64 f => Sys2Proof.Machine.execRolImm64 f s
  | .iaddImm f => Sys2Proof.Machine.execIaddImm f s
  | .andImm f => Sys2Proof.Machine.execAndImm f s
  | .movi f => Sys2Proof.Machine.execMovi f s
  | .mov f => Sys2Proof.Machine.execMov f s
  | .mov64 f => Sys2Proof.Machine.execMov64 f s
  | .popc f => Sys2Proof.Machine.execPopc f s
  | .popc64 f => Sys2Proof.Machine.execPopc64 f s
  | .clz f => Sys2Proof.Machine.execClz f s
  | .clz64 f => Sys2Proof.Machine.execClz64 f s
  | .imul64 f => Sys2Proof.Machine.execImul64 f s
  | .fadd f => Sys2Proof.Machine.execFadd f s
  | .fsub f => Sys2Proof.Machine.execFsub f s
  | .fmul f => Sys2Proof.Machine.execFmul f s
  | .ffma f => Sys2Proof.Machine.execFfma f s
  | .fmin f => Sys2Proof.Machine.execFmin f s
  | .fmax f => Sys2Proof.Machine.execFmax f s
  | .fcmp f => Sys2Proof.Machine.execFcmp f s
  | .fdiv f => Sys2Proof.Machine.execFdiv f s
  | .frcp f => Sys2Proof.Machine.execFrcp f s
  | .frsq f => Sys2Proof.Machine.execFrsq f s
  | .fsqrt f => Sys2Proof.Machine.execFsqrt f s
  | .fex2 f => Sys2Proof.Machine.execFex2 f s
  | .flg2 f => Sys2Proof.Machine.execFlg2 f s
  | .fsin f => Sys2Proof.Machine.execFsin f s
  | .fcos f => Sys2Proof.Machine.execFcos f s
  | .frnd f => Sys2Proof.Machine.execFrnd f s
  | .dadd f => Sys2Proof.Machine.execDadd f s
  | .dsub f => Sys2Proof.Machine.execDsub f s
  | .dmul f => Sys2Proof.Machine.execDmul f s
  | .dffma f => Sys2Proof.Machine.execDffma f s
  | .dmin f => Sys2Proof.Machine.execDmin f s
  | .dmax f => Sys2Proof.Machine.execDmax f s
  | .dcmp f => Sys2Proof.Machine.execDcmp f s
  | .ddiv f => Sys2Proof.Machine.execDdiv f s
  | .dsqrt f => Sys2Proof.Machine.execDsqrt f s
  | .drnd f => Sys2Proof.Machine.execDrnd f s
  | .hadd2 f => Sys2Proof.Machine.execHadd2 f s
  | .hfma2 f => Sys2Proof.Machine.execHfma2 f s
  | .bfma2 f => Sys2Proof.Machine.execBfma2 f s
  | .cvtFromInteger f => Sys2Proof.Machine.execCvtFromInteger f s
  | .cvtFromFloat f => Sys2Proof.Machine.execCvtFromFloat f s
  | .pack f => Sys2Proof.Machine.execPack f s
  | .unpk f => Sys2Proof.Machine.execUnpk f s
  | .shflIdx f => Sys2Proof.Machine.execShflIdx f s
  | .shflXor f => Sys2Proof.Machine.execShflXor f s
  | .shflUp f => Sys2Proof.Machine.execShflUp f s
  | .shflDown f => Sys2Proof.Machine.execShflDown f s
  | .vote f => Sys2Proof.Machine.execVote f s
  | .bcast f => Sys2Proof.Machine.execBcast f s
  | .redux f => Sys2Proof.Machine.execRedux f s
  | .scan f => Sys2Proof.Machine.execScan f s
  | .bra f => Sys2Proof.Machine.execBra f s
  | .brx f => Sys2Proof.Machine.execBrx f s
  | .call f => Sys2Proof.Machine.execCall f s
  | .calli f => Sys2Proof.Machine.execCalli f s
  | .ret f => Sys2Proof.Machine.execRet f s
  | .meetLabel f => Sys2Proof.Machine.execMeetLabel f s
  | .meetRegister f => Sys2Proof.Machine.execMeetRegister f s
  | .exit f => Sys2Proof.Machine.execExit f s
  | .yield f => Sys2Proof.Machine.execYield f s
  | .bar f => Sys2Proof.Machine.execBar f s
  | .barnet f => Sys2Proof.Machine.execBarnet f s
  | .nop f => Sys2Proof.Machine.execNop f s
  | .barInit f => Sys2Proof.Machine.execBarInit f s
  | .barArrive f => Sys2Proof.Machine.execBarArrive f s
  | .barWait f => Sys2Proof.Machine.execBarWait f s
  | .barSync f => Sys2Proof.Machine.execBarSync f s
  | .ldZ8 f => Sys2Proof.Machine.execLdZ8 f s
  | .ldI8 f => Sys2Proof.Machine.execLdI8 f s
  | .ldZ16 f => Sys2Proof.Machine.execLdZ16 f s
  | .ldI16 f => Sys2Proof.Machine.execLdI16 f s
  | .ld32 f => Sys2Proof.Machine.execLd32 f s
  | .ld64 f => Sys2Proof.Machine.execLd64 f s
  | .st8 f => Sys2Proof.Machine.execSt8 f s
  | .st16 f => Sys2Proof.Machine.execSt16 f s
  | .st32 f => Sys2Proof.Machine.execSt32 f s
  | .st64 f => Sys2Proof.Machine.execSt64 f s
  | .lds32 f => Sys2Proof.Machine.execLds32 f s
  | .lds64 f => Sys2Proof.Machine.execLds64 f s
  | .sts32 f => Sys2Proof.Machine.execSts32 f s
  | .sts64 f => Sys2Proof.Machine.execSts64 f s
  | .ldlod f => Sys2Proof.Machine.execLdlod f s
  | .lck f => Sys2Proof.Machine.execLck f s
  | .ulk f => Sys2Proof.Machine.execUlk f s
  | .pref f => Sys2Proof.Machine.execPref f s
  | .cinvLine f => Sys2Proof.Machine.execCinvLine f s
  | .cinvUnl f => Sys2Proof.Machine.execCinvUnl f s
  | .cinvAll f => Sys2Proof.Machine.execCinvAll f s
  | .cinvIline f => Sys2Proof.Machine.execCinvIline f s
  | .cinvIall f => Sys2Proof.Machine.execCinvIall f s
  | .atom32 f => Sys2Proof.Machine.execAtom32 f s
  | .atom64 f => Sys2Proof.Machine.execAtom64 f s
  | .acas f => Sys2Proof.Machine.execAcas f s
  | .red f => Sys2Proof.Machine.execRed f s
  | .mcst f => Sys2Proof.Machine.execMcst f s
  | .rdst f => Sys2Proof.Machine.execRdst f s
  | .txb f => Sys2Proof.Machine.execTxb f s
  | .txld f => Sys2Proof.Machine.execTxld f s
  | .txst f => Sys2Proof.Machine.execTxst f s
  | .txc f => Sys2Proof.Machine.execTxc f s
  | .txa f => Sys2Proof.Machine.execTxa f s
  | .fence f => Sys2Proof.Machine.execFence f s
  | .wait f => Sys2Proof.Machine.execWait f s
  | .mxop f => Sys2Proof.Machine.execMxop f s
  | .mxopZero f => Sys2Proof.Machine.execMxopZero f s
  | .mxdrnI32 d n => Sys2Proof.Machine.execMxdrnI32 d n s
  | .mxdrnI64 d n => Sys2Proof.Machine.execMxdrnI64 d n s
  | .mxdrnF32 d n => Sys2Proof.Machine.execMxdrnF32 d n s
  | .team n => Sys2Proof.Machine.execTeam n s
  | .mxbeg f => Sys2Proof.Machine.execMxbeg f s
  | .mxend => Sys2Proof.Machine.execMxend s
  | .mxfold d => Sys2Proof.Machine.execMxfold d s
  | .mxres => Sys2Proof.Machine.execMxres s
  | .cpy f => Sys2Proof.Machine.execCpy f s
  | .cpyf f => Sys2Proof.Machine.execCpyf f s
  | .trav f => Sys2Proof.Machine.execTrav f s
  | .trnx f => Sys2Proof.Machine.execTrnx f s
  | .isect f => Sys2Proof.Machine.execIsect f s
  | .rast f => Sys2Proof.Machine.execRast f s
  | .geosync f => Sys2Proof.Machine.execGeosync f s
  | .tex f => Sys2Proof.Machine.execTex f s
  | .texq f => Sys2Proof.Machine.execTexq f s
  | .csrr f => Sys2Proof.Machine.execCsrr f s
  | .csrw f => Sys2Proof.Machine.execCsrw f s
  | .trapret f => Sys2Proof.Machine.execTrapret f s
  | .smask f => Sys2Proof.Machine.execSmask f s
  | .clock f => Sys2Proof.Machine.execClock f s
  | .rng f => Sys2Proof.Machine.execRng f s
  | .hintExt e => Sys2Proof.Machine.execHintExt e s
  | .hintStall n => Sys2Proof.Machine.execHintStall n s
  | .hintNeg => Sys2Proof.Machine.execHintNeg s
  | .hintRnd m => Sys2Proof.Machine.execHintRnd m s
  | .hintSat x => Sys2Proof.Machine.execHintSat x s
  | .hintCache y x => Sys2Proof.Machine.execHintCache y x s
  | .hintNb => Sys2Proof.Machine.execHintNb s
  | .hintDtree => Sys2Proof.Machine.execHintDtree s
  | .next n => Sys2Proof.Machine.execNext n s
  | .nextVa a => Sys2Proof.Machine.execNextVa a s
  | .sdpost f => Sys2Proof.Machine.execSdpost f s
  | .clpost f => Sys2Proof.Machine.execClpost f s
  | .swtrap f => Sys2Proof.Machine.execSwtrap f s
  | .legacyRegisterAccess write f => Sys2Proof.Machine.execLegacyRegisterAccess write f s
  | .fpcWrite f => Sys2Proof.Machine.execFpcWrite f s
  | .proofPullWrite f => Sys2Proof.Machine.execProofPullWrite f s
  | .walkComplete id lanes how => Sys2Proof.Machine.execWalkComplete id lanes how s
  | .loadReturn id lanes victim => Sys2Proof.Machine.execLoadReturn id lanes victim s
  | .homeSliceWrite id lanes dest => Sys2Proof.Machine.execHomeSliceWrite id lanes dest s
  | .storeAcknowledge id lanes dest => Sys2Proof.Machine.execStoreAcknowledge id lanes dest s
  | .atomicPerform id lane dest => Sys2Proof.Machine.execAtomicPerform id lane dest s
  | .transactionCommit id lane => Sys2Proof.Machine.execTransactionCommit id lane s
  | .sliceWriteback line => Sys2Proof.Machine.execSliceWriteback line s
  | .trapEntry wave => Sys2Proof.Machine.execTrapEntry wave s
  | .copyLineArrival cmd k => Sys2Proof.Machine.execCopyLineArrival cmd k s
  | .copyComplete cmd => Sys2Proof.Machine.execCopyComplete cmd s
  | .queueFenceComplete cmd => Sys2Proof.Machine.execQueueFenceComplete cmd s
  | .reservationPost wave => Sys2Proof.Machine.execReservationPost wave s
  | .mxbegAdmission quad => Sys2Proof.Machine.execMxbegAdmission quad s
  | .passGrant quad => Sys2Proof.Machine.execPassGrant quad s
  | .passComplete quad => Sys2Proof.Machine.execPassComplete quad s
  | .drainComplete quad => Sys2Proof.Machine.execDrainComplete quad s
  | .portWake wave => Sys2Proof.Machine.execPortWake wave s
  | .partialBatchTimeout queue bin => Sys2Proof.Machine.execPartialBatchTimeout queue bin s
  | .conePush id => Sys2Proof.Machine.execConePush id s
  | .dropNotice id => Sys2Proof.Machine.execDropNotice id s
  | .ticketTurn wave => Sys2Proof.Machine.execTicketTurn wave s
  | .queryComplete id lanes => Sys2Proof.Machine.execQueryComplete id lanes s
  | .geosyncDone id => Sys2Proof.Machine.execGeosyncDone id s
  | .quantumExpiry gang => Sys2Proof.Machine.execQuantumExpiry gang s
  | .forcedSave gang => Sys2Proof.Machine.execForcedSave gang s
  | .preemptHoldTimeout gang => Sys2Proof.Machine.execPreemptHoldTimeout gang s
  | .gangEviction gang => Sys2Proof.Machine.execGangEviction gang s
  | .gangRestore gang => Sys2Proof.Machine.execGangRestore gang s
  | .commandClaim queue => Sys2Proof.Machine.execCommandClaim queue s
  | .launch id => Sys2Proof.Machine.execLaunch id s
  | .vxlaunch id => Sys2Proof.Machine.execVxlaunch id s
  | .shootdown id => Sys2Proof.Machine.execShootdown id s
  | .clean id => Sys2Proof.Machine.execClean id s
  | .cancel id => Sys2Proof.Machine.execCancel id s
  | .ckpt id => Sys2Proof.Machine.execCkpt id s
  | .restore id => Sys2Proof.Machine.execRestore id s
  | .unlistedOp id => Sys2Proof.Machine.execUnlistedOp id s
  | .signalCheck id => Sys2Proof.Machine.execSignalCheck id s
  | .launchComplete grid => Sys2Proof.Machine.execLaunchComplete grid s
  | .heldCompletion queue => Sys2Proof.Machine.execHeldCompletion queue s
  | .cqTimer queue => Sys2Proof.Machine.execCqTimer queue s
  | .shootdownComplete id => Sys2Proof.Machine.execShootdownComplete id s
  | .cleanComplete id => Sys2Proof.Machine.execCleanComplete id s
  | .checkpointComplete id => Sys2Proof.Machine.execCheckpointComplete id s
  | .regroup gang wg => Sys2Proof.Machine.execRegroup gang wg s
  | .segmentTranslation grid segment => Sys2Proof.Machine.execSegmentTranslation grid segment s
  | .hostRead addr size => Sys2Proof.Machine.execHostRead addr size s
  | .hostWrite addr bytes => Sys2Proof.Machine.execHostWrite addr bytes s
  | .ctxcreate => Sys2Proof.Machine.execCtxcreate s
  | .ctxset => Sys2Proof.Machine.execCtxset s
  | .ctxreset => Sys2Proof.Machine.execCtxreset s
  | .ctxdestroy => Sys2Proof.Machine.execCtxdestroy s
  | .sqcreate => Sys2Proof.Machine.execSqcreate s
  | .cqcreate => Sys2Proof.Machine.execCqcreate s
  | .qdelete => Sys2Proof.Machine.execQdelete s
  | .quantum => Sys2Proof.Machine.execQuantum s
  | .pin => Sys2Proof.Machine.execPin s
  | .unpin => Sys2Proof.Machine.execUnpin s
  | .proofread => Sys2Proof.Machine.execProofread s
  | .proofpull => Sys2Proof.Machine.execProofpull s
  | .evring => Sys2Proof.Machine.execEvring s
  | .peernum => Sys2Proof.Machine.execPeernum s
  | .fwstage => Sys2Proof.Machine.execFwstage s
  | .fwcommit => Sys2Proof.Machine.execFwcommit s
  | .mailboxBadcmd => Sys2Proof.Machine.execMailboxBadcmd s
  | .doorbellWhileBusy => Sys2Proof.Machine.execDoorbellWhileBusy s
  | .registerWrite addr value => Sys2Proof.Machine.execRegisterWrite addr value s
  | .heldEventWrite => Sys2Proof.Machine.execHeldEventWrite s
  | .goRun quad => Sys2Proof.Machine.execGoRun quad s
  | .goClockGated quad => Sys2Proof.Machine.execGoClockGated quad s
  | .goRetention quad => Sys2Proof.Machine.execGoRetention quad s
  | .qwake quad => Sys2Proof.Machine.execQwake quad s
  | .quadMoveDone quad => Sys2Proof.Machine.execQuadMoveDone quad s
  | .resetBoot => Sys2Proof.Machine.execResetBoot s
  | .recoveryCommand => Sys2Proof.Machine.execRecoveryCommand s
  | .spdmMessage bytes => Sys2Proof.Machine.execSpdmMessage bytes s
  | .laneSparing port => Sys2Proof.Machine.execLaneSparing port s
  | .peerUnreachable id => Sys2Proof.Machine.execPeerUnreachable id s
  | .takeover quad spare => Sys2Proof.Machine.execTakeover quad spare s
  | .quadFailure quad => Sys2Proof.Machine.execQuadFailure quad s
  | .softerr line => Sys2Proof.Machine.execSofterr line s
  | .patrolScrub line => Sys2Proof.Machine.execPatrolScrub line s
  | .firmwareStagingWrite offset bytes => Sys2Proof.Machine.execFirmwareStagingWrite offset bytes s

end Sys2Proof.Machine
end

