-- ==== Sys2Proof/Machine/Agenda.lean ====
section
/-! DEFINITION. Turns: what a turn does, the choice of the wave that a partition issues (R179 to R181), and the order that holds when no turn is named (log entry 7). -/

namespace Sys2Proof.Machine

/-! ### The issue of a word -/

/-- A wave issues its next word (R150). -/
def issueWord (wave : Nat) (s : State) : Host.Outcome State Fault Refusal :=
  match s.fetchNext wave with
  | .nothing => .next s
  | .trapped t => .next t
  | .instr i t => exec i t

/-- The wave is ready: its issue would come to something. A word that is held for an operand, for the operand log or for an acquire leaves the state as it is (R112, R198, R287). -/
def State.ready (s : State) (w : Wave) : Bool :=
  match issueWord w.id { s with issuer := w.id } with
  | .next t => t ≠ { s with issuer := w.id }
  | _ => false

/-! ### Cycles and rotations (R179, R181, R422) -/

/-- A partition of the package, as the rotations and the issue marks are keyed. -/
def Wave.part (w : Wave) : Nat := 4 * w.core + w.partition

/-- The wave is of a deterministic launch. -/
def State.isDet (s : State) (w : Wave) : Bool := match s.gridOf w with | some g => g.det | none => false

/-- The first wave of a list in an order. -/
def firstBy (less : Wave → Wave → Bool) : List Wave → Option Wave
  | [] => none
  | w :: ws => match firstBy less ws with
    | none => some w
    | some x => some (if less x w then x else w)

/-- The slots of a partition's rotation, in ascending order: those of its resident waves of deterministic launches (R181). -/
def State.rotationSlots (s : State) (part : Nat) : List Nat :=
  let held := ((s.slotHolders (part / 4) (part % 4)).filter s.isDet).map (·.slot)
  (List.range 64).filter held.contains

/-- The partition also holds a resident wave of a launch outside deterministic mode (R181). -/
def State.sharesPart (s : State) (part : Nat) : Bool := (s.slotHolders (part / 4) (part % 4)).any fun w => !s.isDet w

/-- The slot that a rotation's pointer stands at: the first of its slots from the pointer on, else its first one (R181). -/
def pointedSlot (pointer : Nat) (slots : List Nat) : Option Nat := (slots.find? (pointer ≤ ·)).orElse fun _ => slots.head?

/-- The partitions that have a rotation. -/
def State.rotations (s : State) : List Nat := ((s.waves.filter fun w => s.isResident w.gang && s.isDet w).map Wave.part).eraseDups

/-- Of the `n` cycles from a cycle on, those whose count is a multiple of 4. -/
def fourths (cycle n : Nat) : Nat := (cycle + n + 3) / 4 - (cycle + 3) / 4

/-- A rotation's pointer after `n` cycles: one slot further in every cycle, except that on a partition it shares it stays in those whose count is a multiple of 4 (R181). -/
def State.pointerAfter (s : State) (n part : Nat) : Quad :=
  let slots := s.rotationSlots part
  let moves := if s.sharesPart part then n - fourths s.cycle.toNat n else n
  let now := s.rotation.get part
  match pointedSlot now.toNat slots with
  | none => now
  | some x => BitVec.ofNat 64 ((slots[(slots.idxOf x + moves) % slots.length]?).getD 0)

/-- `n` cycles pass (R181, R422). -/
def State.passCycles (s : State) (n : Nat) : State :=
  { s with cycle := s.cycle + BitVec.ofNat 64 n, rotation := s.rotations.foldl (fun m p => m.set p (s.pointerAfter n p)) s.rotation }

/-- The waves of a partition's rotation, with their slots. -/
def State.rotationWaves (s : State) (part : Nat) : List (Nat × Nat) :=
  ((s.slotHolders (part / 4) (part % 4)).filter s.isDet).map fun w => (w.id, w.slot)

/-- A rotation that a step has changed, by a placement, an eviction or an end, has its pointer at the slot after the one that it pointed at (R181). R181 does not say whether this move stands in place of the cycle's advance, nor whether each of several changes moves the pointer: a step's changes move it once, and the cycles that pass advance it as well (DESIGN CHOICE, log entry 91). -/
def State.moveRotations (s old : State) : State :=
  { s with rotation := old.rotations.foldl (init := s.rotation) fun m p =>
      if s.rotationWaves p = old.rotationWaves p then m
      else match pointedSlot (s.rotation.get p).toNat (old.rotationSlots p) with
        | some x => m.set p (BitVec.ofNat 64 (x + 1))
        | none => m }

/-! ### The choice of a partition (R179, R181) -/

/-- One wave comes before another in R179's choice: by CLASS, then by the older last issue, then by the lower slot. -/
def State.before (s : State) (a b : Wave) : Bool :=
  let cls (w : Wave) : Nat := match s.gridOf w with | some g => g.cls | none => 0
  cls b < cls a || (cls a = cls b && (a.lastIssue < b.lastIssue || (a.lastIssue = b.lastIssue && a.slot < b.slot)))

/-- No ready wave of its partition comes before the wave in this cycle: of a deterministic launch it is the one that the rotation's pointer stands at, outside the cycles that R179's choice has; of another launch it is R179's choice, in those cycles or where the pointer's wave is not ready (R179, R181). -/
def State.isChoice (s : State) (w : Wave) : Bool :=
  let ws := s.slotHolders w.core w.partition
  let slots := s.rotationSlots w.part
  let pointed := pointedSlot (s.rotation.get w.part).toNat slots
  let open_ : Bool := s.sharesPart w.part && s.cycle.toNat % 4 = 0
  if s.isDet w then !open_ && pointed = some w.slot
  else (slots = [] || open_ || ws.all fun x => !(s.isDet x && pointed = some x.slot && s.ready x)) &&
    ws.all fun x => x.id = w.id || s.isDet x || !s.before x w || !s.ready x

/-- The cycle in which the wave's partition can issue: the present one, or the next where the partition has issued in it (R179). -/
def State.slotFor (s : State) (w : Wave) : State := if s.issued.get w.part = s.cycle + 1 then s.passCycles 1 else s

/-- The issue of a wave, where it is its partition's choice; else it is passed over. -/
def issueTurn (wave : Nat) (s : State) : Host.Outcome State Fault Refusal :=
  match s.wave? wave with
  | none => .next s
  | some w =>
    let s1 := s.slotFor w
    if s1.isChoice w then issueWord wave { s1 with issued := s1.issued.set w.part (s1.cycle + 1) } else .next s

/-! ### A turn -/

/-- The row is a step that comes about of itself: no instruction word, and no access that a csrr or csrw word makes. -/
def isStep (i : Instr) : Bool :=
  match i with
  | .sdpost _ | .clpost _ | .swtrap _ | .legacyRegisterAccess _ _ | .fpcWrite _ | .proofPullWrite _ => false
  | i => (encode i).isNone

/-- A turn taken. An event that cannot come about in the state is passed over; an instruction word is no event. -/
def takeTurn (t : Turn) (s : State) : Host.Outcome State Fault Refusal :=
  match t with
  | .issue w => issueTurn w s
  | .event i =>
    if !isStep i then .next s
    else match exec i s with
      | .fault _ => .next s
      | r => r

/-! ### What follows a turn -/

/-- The peers' waves of a launch on several devices arrive at the next use of its pod barrier at a time that nothing here fixes; waves that wait for them alone leave it (R154, R155). -/
def State.podTurn (s : State) : State :=
  match s.grids.find? fun g => 1 < g.ndevice && g.phase = .running && g.podArrivals = g.podUses && Config.peersArrive s.fresh with
  | some g => (s.modGrid g.id fun x => { x with podArrivals := x.podArrivals + 1 }).releaseBarriers
  | none => s

/-- A query in flight may read one more node between the waves' instructions, so that the nodes of one ray may come from either side of an edit (R257). -/
def State.queryTurn (s : State) : State :=
  if s.eng.queries = [] then s
  else match Config.nodeStep s.fresh with
    | some (id, lane) => s.stepQuery id lane
    | none => s

/-- The firmware agent may write a core's PINSIZE between the waves' instructions, which takes effect while no gang is placed there (R60, R418). -/
def State.agentTurn (s : State) : State := { s with pinsize := s.agentSizes }

/-- The host may set the base of the HDM range and enable IDE (R477). -/
def State.linkTurn (s : State) : State :=
  s.modHost fun h => { h with hdmBase := ((Config.hostLink s.fresh).map (·.1)).getD h.hdmBase, ide := ((Config.hostLink s.fresh).map (·.2)).getD h.ide }

/-- The cycles that the step took pass (R422). -/
def State.tick (s : State) : State := { s.passCycles (Config.stepCycles s.fresh) with fresh := s.fresh + 1 }

/-! ### The order that holds when no turn is named -/

/-- The steps of the accesses in flight. -/
def Access.turns (a : Access) : List Instr :=
  .walkComplete a.id (BitVec.allOnes 32) 0 :: (a.lanes.filter fun l => l.status ≠ .done).flatMap fun l =>
    [.loadReturn a.id (laneBit l.lane) none, .homeSliceWrite a.id (laneBit l.lane) l.dest, .storeAcknowledge a.id (laneBit l.lane) l.dest, .atomicPerform a.id l.lane l.dest]

/-- The row that runs a claimed command. -/
def Command.turns (c : Command) : List Instr :=
  [.launch c.id, .vxlaunch c.id, .shootdown c.id, .clean c.id, .cancel c.id, .ckpt c.id, .restore c.id, .unlistedOp c.id]

/-- The steps that engines, memory and the distributor may take of themselves. -/
def State.engineTurns (s : State) : List Instr :=
  s.flights.flatMap Access.turns ++
  (s.waves.flatMap fun w => [.trapEntry w.id, .reservationPost w.id, .portWake w.id, .ticketTurn w.id] ++ (laneList w.txTodo).map fun l => .transactionCommit w.id l) ++
  (s.eng.copies.flatMap fun c => ((List.range c.pieces.length).map fun k => Instr.copyLineArrival c.id k) ++ [.copyComplete c.id, .queueFenceComplete c.id]) ++
  (((s.eng.matrix.table ++ s.eng.matrix.running).map (·.quad)).eraseDups.flatMap fun q => [.mxbegAdmission q, .passGrant q, .passComplete q, .drainComplete q]) ++
  (s.eng.queries.flatMap fun q => q.lanes.map fun l => .queryComplete q.id (laneBit l.lane)) ++ s.eng.syncs.map (fun g => .geosyncDone g.id) ++
  s.eng.pushes.map (fun p => .conePush p.id) ++ s.eng.notices.map (fun n => .dropNotice n.id) ++
  (s.bins.flatMap fun q => q.bins.map fun b => .partialBatchTimeout q.id b.key) ++
  (s.gangs.flatMap fun g => [.gangRestore g.id, .gangEviction g.id, .quantumExpiry g.id, .forcedSave g.id, .preemptHoldTimeout g.id]) ++
  s.groups.map (fun g => .regroup g.gang g.wg) ++
  (s.grids.flatMap fun g => [.signalCheck g.id, .launchComplete g.id] ++ match g.vox with
    | some m => (List.range m.segs.length).map fun k => .segmentTranslation g.id k
    | none => []) ++
  s.host.subs.map (fun q => .commandClaim q.id) ++ s.host.commands.flatMap Command.turns ++
  (s.host.comps.flatMap fun q => [.heldCompletion q.id, .cqTimer q.id]) ++ [.heldEventWrite] ++
  s.eng.shootdowns.map (fun w => .shootdownComplete w.id) ++ s.eng.cleans.map (fun w => .cleanComplete w.id) ++ s.eng.checkpoints.map fun c => .checkpointComplete c.id

/-- The state that an outcome goes on to. -/
def goesOn : Host.Outcome State Fault Refusal → Option State
  | .next t => some t
  | _ => none

/-- A list from its `n`-th member on, and round to it. -/
def turnedRound {α : Type} (n : Nat) (l : List α) : List α := l.drop (n % l.length) ++ l.take (n % l.length)

/-- The first engine step that comes about, sought from a place in the list that moves on with every turn; the moves of quads come last. -/
def State.engineTurn (s : State) : Option State :=
  ((turnedRound (s.fresh / 2) s.engineTurns).findSome? fun i => goesOn (exec i s)).orElse fun _ => s.kiln.moves.findSome? fun m => goesOn (execQuadMoveDone m.1 s)

/-- A wave put among waves in the order of their last issues. -/
def byLastIssue (w : Wave) : List Wave → List Wave
  | [] => [w]
  | x :: xs => if w.lastIssue < x.lastIssue then w :: x :: xs else x :: byLastIssue w xs

/-- The issue of a ready wave that is its partition's choice, the oldest last issue first. -/
def State.waveTurn (s : State) : Option State :=
  ((s.waves.filter fun w => s.isResident w.gang).foldr byLastIssue []).findSome? fun w =>
    if s.ready w && (s.slotFor w).isChoice w then goesOn (issueTurn w.id s) else none

/-- The turn that comes when none is named: engines and waves alternate while both can go on; if none can, a cycle passes. -/
def State.defaultTurn (s : State) : State :=
  let s1 : State := { s with enginesFirst := !s.enginesFirst }
  let r := if s.enginesFirst then (s1.engineTurn).orElse fun _ => s1.waveTurn else (s1.waveTurn).orElse fun _ => s1.engineTurn
  r.getD (s1.passCycles 1)

end Sys2Proof.Machine
end

