-- ==== Sys2Proof/Machine/Placed.lean ====
section
/-! DEFINITION. An instruction placed for the next step, which stands for the host's creation of a context, the load of a program and its launch (log entry 10); and what follows every turn (R422, R495). -/

namespace Sys2Proof.Machine

/-- The resets of contexts that have read a poisoned line begin (R488, R495). -/
def State.startResets (s : State) : State :=
  s.kiln.resets.eraseDups.foldl (fun t asid => t.startReset asid .kiln) (s.modKiln fun k => { k with resets := [] })

/-- The launch record of the placed program: CODE 0x1000, one gang of one workgroup of 32 threads, 112 registers, 16 barriers and 512 KiB of local memory. -/
def placedRecord : BitVec 2048 :=
  BitVec.ofNat 2048 (0x1000 + 1 * 2 ^ 192 + 1 * 2 ^ 256 + 32 * 2 ^ 259 + 112 * 2 ^ 270 + 16 * 2 ^ 277 + 128 * 2 ^ 288 + 1 * 2 ^ 352)

/-- The tables of context 1: one page at 0x1000, readable, writable and executable, at physical address 0x60000. -/
def placedTables (ctxBase : Nat) : List (Nat × Nat) :=
  [(ctxBase + 8, 0x10001), (0x10000, 0x20001), (0x20000, 0x30001), (0x30000, 0x40001), (0x40000, 0x50001), (0x50008, 0x6002F)]

/-- A state in which a wave of context 1, alone on its partition, issues the word next, and nothing of what it fetches is cached. -/
def State.placeWord (s : State) (w : Word) : State :=
  let wave := s.nextId
  let grid : Grid := { id := wave, asid := 1, lrec := 0, record := placedRecord, phase := .running, queue := 0, tag := 0, nextGang := 1, lastGang := 1, dispNext := 0, dispEnd := 0,
                       ports := [], owners := [], result := none, consumerOf := none, vox := none, podArrivals := 0, podUses := 0 }
  let core := ((List.range 384).find? fun c => (s.slotHolders c 0).isEmpty).getD 0
  let gang : Gang := { Gang.start wave wave 0 with cores := [core], resident := true, placedAt := s.cycle.toNat }
  let mem := ((placedTables s.ctxBase).foldl (fun (m : Memory) e => m.setRange e.1 (bytesOfNat 8 e.2)) s.mem).setRange 0x60000 (wordBytes w)
  let lines := 0x60000 / 64 :: (placedTables s.ctxBase).map fun e => e.1 / 64
  { s.modCtx 1 fun _ => Context.zero 1 with
    mem
    poison := s.poison.filter fun l => !lines.contains l
    caches := { s.caches with tlb := s.caches.tlb.filter fun e => e.asid ≠ 1, l1i := s.caches.l1i.filter fun l => l.asid ≠ 1, cmp := s.caches.cmp.filter fun c => c.line / 64 ≠ 0x60 }
    waves := s.waves ++ [Wave.start wave wave 0 0 core 0 0x1000 0 [] s.cycle.toNat]
    gangs := s.gangs ++ [gang]
    grids := s.grids ++ [grid]
    turns := [.issue wave]
    nextId := wave + 1 }

end Sys2Proof.Machine
end

