-- ==== Sys2Proof/Machine/Step.lean ====
section
/-! DEFINITION. One step of the package, and the placing of an instruction where the next step fetches. -/

namespace Sys2Proof.Machine

/-- What follows every turn: the resets that reads of poisoned lines call for begin (R495), the rotations that the turn changed move (R181), the peers of a pod barrier may arrive (R154), a query in flight may read one more node (R257), the firmware agent may size a core's pinned region (R418), the host may set its link (R477), and time passes (R422). -/
def afterTurn (old : State) : Host.Outcome State Fault Refusal → Host.Outcome State Fault Refusal
  | .next s => .next ((s.startResets.moveRotations old).podTurn.queryTurn.agentTurn.linkTurn.tick)
  | r => r

/-- One step: the turn that is named, or else the one that the default order picks. -/
def step (s : State) : Host.Outcome State Fault Refusal :=
  match s.turns with
  | t :: ts => afterTurn s (takeTurn t { s with turns := ts })
  | [] => afterTurn s (.next s.defaultTurn)

/-- The state in which the very next step fetches and runs an instruction whose bits are `w`, numbered as the opcode table numbers them. -/
def State.withFetchWord (s : State) (nbits w : Nat) : State := s.placeWord (BitVec.ofNat 32 (w % 2 ^ nbits))

end Sys2Proof.Machine
end

