-- ==== Sys2Proof/Safety.lean ====
section
/-! DEFINITION. The terms in which claims are made: a word that reaches its meaning, what it leaves behind, and the invariant of the state. -/

namespace Sys2Proof.Machine

/-- What a step answers. -/
abbrev Result := Host.Outcome State Fault Refusal

/-- The word `i` of the issuing wave passes the front end: its meaning is given `c` and acts from `t`. -/
def Issues (i : Instr) (s : State) (c : Ctx) (t : State) : Prop := s.front i = .run c t

/-- The word completes: the next state is `u`, with the meeting rule applied to the issuing wave (R149). -/
def Completes (r : Result) (c : Ctx) (u : State) : Prop := r = .next (u.modWave c.w.id Wave.settle)

/-- Only vector registers of one wave change, to the values of `new`, and the meeting rule is applied. -/
def VectorsBecome (r : Result) (t : State) (id : Nat) (new : Wave → Nat → Nat → Word) : Prop :=
  ∃ f : Wave → SMap 32, r = .next (t.modWave id fun w => ({ w with v := f w } : Wave).settle) ∧
    ∀ (w : Wave) (l n : Nat), l < 32 → n ≤ 111 → SMap.get (f w) (vKey l n) = new w l n

/-- The word writes `g` to the vector destination `d` in the ACTIVE lanes and nothing else: a register; a push of one entry a lane to a port (R267); nothing for vz. -/
def VectorResult (r : Result) (c : Ctx) (t : State) (d : Nat) (g : Nat → Word) : Prop :=
  if d ≤ 111 then VectorsBecome r t c.w.id fun w l n => if c.act.getLsbD l = true ∧ n = d then g l else w.getV l n
  else if isPort d = true ∧ c.act ≠ 0 then Completes r c (t.push c.gr c.w d ((laneList c.act).map g))
  else Completes r c t

/-- The word writes `g` to the vector pair `d`, `d` + 1 in the ACTIVE lanes and nothing else; nothing at all for vz (R266). -/
def PairResult (r : Result) (c : Ctx) (t : State) (d : Nat) (g : Nat → Quad) : Prop :=
  if d ≤ 110 then VectorsBecome r t c.w.id fun w l n =>
    if c.act.getLsbD l = true ∧ n = d then lo32 (g l) else if c.act.getLsbD l = true ∧ n = d + 1 then hi32 (g l) else w.getV l n
  else Completes r c t

/-- The word writes the predicate `q` in the ACTIVE lanes and nothing else; p0 keeps reading true (R265). -/
def PredicateResult (r : Result) (c : Ctx) (t : State) (q : Nat) (g : Nat → Bool) : Prop :=
  ∃ f : Wave → SMap 32, r = .next (t.modWave c.w.id fun w => ({ w with p := f w } : Wave).settle) ∧
    ∀ (w : Wave) (l n : Nat), l < 32 → ({ w with p := f w } : Wave).getP l n = if n = q ∧ q ≠ 0 ∧ c.act.getLsbD l = true then g l else w.getP l n

/-- The word of a native program writes `x` to the scalar destination `d` when some lane is ACTIVE, and nothing else: a register, a push of one entry, or nothing for sz. -/
def ScalarResult (r : Result) (c : Ctx) (t : State) (d : Nat) (x : Word) : Prop :=
  if c.act = 0 then Completes r c t
  else if d ≤ 95 then Completes r c (t.modWave c.w.id fun w => w.setS d x)
  else if isPort d = true then Completes r c (t.push c.gr c.w d [x])
  else Completes r c t

/-- The word of a translated segment writes, for each block with ACTIVE lanes, the value `x` of those lanes to the uniform register s20 to s27 in every lane of the block, and nothing else (R430, R438, R439). -/
def UniformResult (r : Result) (c : Ctx) (t : State) (d : Nat) (x : Lanes → Word) : Prop :=
  VectorsBecome r t c.w.id fun w l n =>
    if n = d ∧ c.act &&& lanesWhere (fun k => k / c.width = l / c.width) ≠ 0 then x (c.act &&& lanesWhere fun k => k / c.width = l / c.width) else w.getV l n

/-- The ACTIVE lanes go to their targets; a link pair receives the address of the next word. A call, or a branch of some lane to its own address or below, is noted for the choice of the next group (R150), and there the wave of an expired gang yields unless it runs masked (R161, R204, R319). Nothing else changes. -/
def JumpResult (r : Result) (c : Ctx) (t : State) (link : Option Nat) (target : Nat → Quad) : Prop :=
  let back : Bool := c.act ≠ 0 && (link.isSome || (laneList c.act).any fun l => target l ≤ c.pc)
  let yields : Bool := back && (t.gang? c.ga.id).any (fun g => g.expired.isSome) && !c.w.tm
  ∃ (f : Wave → SMap 64) (v : Wave → SMap 32),
    r = .next (t.modWave c.w.id fun w => ({ w with
      pc := f w, v := v w, backFrom := if back = true then some c.pc else w.backFrom, wake := if yields = true then wakeOf 9 0 else w.wake } : Wave).settle) ∧
    (∀ (w : Wave) (l : Nat), l < 32 → SMap.get (f w) l = if c.act.getLsbD l = true then target l else w.pcOf l) ∧
    ∀ (w : Wave) (l n : Nat), l < 32 → n ≤ 111 → SMap.get (v w) (vKey l n) = match link with
      | none => w.getV l n
      | some d => if d ≤ 110 ∧ c.act.getLsbD l = true ∧ n = d then lo32 (c.pc + 4)
        else if d ≤ 110 ∧ c.act.getLsbD l = true ∧ n = d + 1 then hi32 (c.pc + 4) else w.getV l n

/-- MEET of the ACTIVE lanes becomes `new`, the pair `d` receives the old one, and nothing else changes. -/
def MeetResult (r : Result) (c : Ctx) (t : State) (d : Nat) (new : Nat → Quad) : Prop :=
  ∃ (f : Wave → SMap 64) (v : Wave → SMap 32),
    r = .next (t.modWave c.w.id fun w => ({ w with meet := f w, v := v w } : Wave).settle) ∧
    (∀ (w : Wave) (l : Nat), l < 32 → SMap.get (f w) l = if c.act.getLsbD l = true then new l else w.meetOf l) ∧
    ∀ (w : Wave) (l n : Nat), l < 32 → n ≤ 111 → SMap.get (v w) (vKey l n) =
      if d ≤ 110 ∧ c.act.getLsbD l = true ∧ n = d then lo32 (c.w.meetOf l)
      else if d ≤ 110 ∧ c.act.getLsbD l = true ∧ n = d + 1 then hi32 (c.w.meetOf l) else w.getV l n

/-- Nothing holds an access of the word back at issue, and no watch matches it: no logged access names one of its lines (R196), a release has the reports it waits for, its ticket has come (R165). -/
def Ctx.unheld (c : Ctx) (op : MemOp) (t : State) : Bool :=
  !(op.kind.isGlobal && op.asked.any fun l => t.lineNamed c.w.id t.nextId l.va c.w.priv) && !(op.release && !t.reportsIn c.w.id) &&
    (if c.w.unwatched c.pc || !op.kind.isGlobal then none else (t.ctx c.gr.asid).matching op.kind.watched op.kind.size op.lanes).isNone &&
    c.turnComes op t && !c.detWaits op (if op.kind.isGlobal then t.scopeOf c.w.core c.gr.asid c.w.priv (op.lanes.map AccLane.va) else 2) t

/-- The word's access is in flight: one more access with a name of its own, behind the release fence where the word is a release; in a deterministic launch it is performed at once (R165). -/
def Ctx.flown (c : Ctx) (op : MemOp) (counter : Nat) (t : State) : State :=
  c.fly op counter (if op.kind.isGlobal then t.scopeOf c.w.core c.gr.asid c.w.priv (op.lanes.map AccLane.va) else 2) t

/-- The word's access goes into flight: with no ACTIVE lane the word only completes; else, once nothing holds it, its access is in flight. -/
def Accesses (r : Result) (c : Ctx) (t : State) (op : MemOp) (counter : Nat) : Prop :=
  (c.act = 0 → Completes r c t) ∧ (c.act ≠ 0 → c.unheld op t = true → Completes r c (c.flown op counter t))

/-! ### Floating-point numbers (R209 to R213) -/

/-- The formats (R209). -/
def FFmt.all : List FFmt := [f16, bf16, f32, f64]

/-- The encoding is finite. -/
def FFmt.finite (f : FFmt) (x : Nat) : Prop := f.exp x ≠ 2 ^ f.ebits - 1

/-- The magnitude of a finite encoding, as a rational (R209). -/
def FFmt.mag (f : FFmt) (x : Nat) : Rat := match f.value x with
  | .inf _ => 0
  | .fin _ m e => if 0 ≤ e then (m * 2 ^ e.toNat : Nat) else (m : Rat) / (2 ^ (-e).toNat : Nat)

/-- The number that a finite encoding stands for. -/
def FFmt.real (f : FFmt) (x : Nat) : Rat := if f.neg x then -f.mag x else f.mag x

/-- The absolute value of a rational. -/
def size (x : Rat) : Rat := max x (-x)

/-- The mode takes a magnitude of a sign down to the next one of the format, where it is no magnitude of it (R212). -/
def towardZero (mode : RMode) (neg : Bool) : Prop := mode = 1 ∨ mode = 2 ∧ neg = true ∨ mode = 3 ∧ neg = false

/-- `r` is the exact magnitude `x` of a sign rounded once (R212, R213): to the nearest magnitude of the format, to an even one of two, or to the next one toward zero or away from it; infinity beyond half a step above the largest finite magnitude, the largest itself, or infinity beyond the largest. The encodings below `infBits` are the finite magnitudes. -/
def FFmt.RoundsTo (f : FFmt) (mode : RMode) (neg : Bool) (x : Rat) (r : Nat) : Prop :=
  f.neg r = neg ∧ r < 2 ^ (f.top + 1) ∧ (f.finite r ∨ r = f.inf neg) ∧
  (mode = 0 → (r = f.inf neg ↔ f.mag (f.largest false) + (2 ^ (f.bias + 1).toNat : Nat) ≤ 2 * x) ∧
    (f.finite r → ∀ y < f.infBits, size (f.mag r - x) ≤ size (f.mag y - x) ∧ (size (f.mag r - x) = size (f.mag y - x) → f.mag y = f.mag r ∨ r % 2 = 0))) ∧
  (towardZero mode neg → f.finite r ∧ f.mag r ≤ x ∧ ∀ y < f.infBits, f.mag y ≤ x → f.mag y ≤ f.mag r) ∧
  (mode ≠ 0 → ¬towardZero mode neg → (r = f.inf neg ↔ f.mag (f.largest false) < x) ∧ (f.finite r → x ≤ f.mag r ∧ ∀ y < f.infBits, x ≤ f.mag y → f.mag r ≤ f.mag y))

/-- The order of encodings that are no NaN: that of their magnitudes' encodings, with their signs; the two zeros are equal (R209, R210). -/
def FFmt.ord (f : FFmt) (x : Nat) : Int := if f.neg x then -((x % 2 ^ f.top : Nat) : Int) else (x % 2 ^ f.top : Nat)

/-- `k` is a number rounded to an integer in a mode (R212, R218). -/
def IntRounds (mode : RMode) (x : Rat) (k : Int) : Prop :=
  (mode = 0 → 2 * size ((k : Rat) - x) ≤ 1 ∧ (2 * size ((k : Rat) - x) = 1 → k % 2 = 0)) ∧
  (mode = 1 → size (k : Rat) ≤ size x ∧ size x < size (k : Rat) + 1 ∧ 0 ≤ (k : Rat) * x) ∧
  (mode = 2 → x ≤ k ∧ (k : Rat) < x + 1) ∧ (mode = 3 → (k : Rat) ≤ x ∧ x < (k : Rat) + 1)

/-- Memory is in its canonical form. -/
def State.Canonical (s : State) : Prop := Memory.wf s.mem = true

/-- The bytes of memory outside some addresses read as before. -/
def SameBytesOutside (s u : State) (inside : Nat → Prop) : Prop := ∀ a, ¬inside a → u.mem.get a = s.mem.get a

/-- The two states differ at most in their waves. -/
def OnlyWavesDiffer (s u : State) : Prop := u = { s with waves := u.waves }

end Sys2Proof.Machine
end

