-- ==== Sys2Proof/WellFormed.lean ====
section
/-! DEFINITION. Well-formed instructions. -/

namespace Sys2Proof

/-- A well-formed instruction: one that some launch can execute, with the largest allocation (R168). -/
def Instr.WellFormed (i : Instr) : Bool := i.legal 112

end Sys2Proof
end

