-- ==== Sys2Proof/Certificates/Slice0/Obligations.lean ====
section
/-! DEFINITION. The statements for the provers. What a statement says of a choice of the model names its log entry (notes/assumptions). -/

open Sys2Proof Sys2Proof.Machine

/-! ### Fetch, decode, step, reset -/

/-- A turn in which a wave issues that is its partition's choice, in the present cycle, or in the next where the partition has issued in this one, runs exec of the instruction that its fetch finds, and what follows every turn: the resets that poisoned reads call for begin (R495), the rotations that the turn changed move (R181), the peers of a pod barrier may arrive (R154), a query in flight may read one more node (R257), the firmware agent may size a core's pinned region (R418), and the cycles pass that the step took (R422). A wave that is not its partition's choice is passed over (R179). The model's choice: log entries 7, 20 and 30. -/
def Obligations.StepRunsFetchedInstruction : Prop :=
  ∀ (s : State) (w : Wave) (ts : List Turn), s.turns = .issue w.id :: ts → ({ s with turns := ts } : State).wave? w.id = some w →
    let s1 : State := if s.issued.get w.part = s.cycle + 1 then ({ s with turns := ts } : State).passCycles 1 else { s with turns := ts }
    let ending (u : State) : State := (u.startResets.moveRotations s).podTurn.queryTurn.agentTurn.linkTurn.tick
    (∀ i t, s1.isChoice w = true → ({ s1 with issued := s1.issued.set w.part (s1.cycle + 1) } : State).fetchNext w.id = .instr i t →
      step s = match exec i t with
        | .next u => .next (ending u)
        | r => r) ∧
    (s1.isChoice w = false → step s = .next (ending { s with turns := ts }))

/-- The fetch of a wave of a native launch that may issue, at the address of its next group: the four bytes there, least significant first, in the line that the core's instruction cache holds, or, where it holds none, in the line read at the home through the translation; where they decode to an instruction, that instruction issues. The model's choice: log entries 14 and 91. -/
def Obligations.FetchDecodesBytesAtPc : Prop :=
  ∀ (s : State) (w : Wave) (ga : Gang) (gr : Grid) (pc : Quad) (lanes : Lanes) (i : Instr), s.wave? w.id = some w → s.home? w = some (ga, gr) →
    s.canIssue w ga = true → w.nextGroup = some (pc, lanes) → gr.vox = none → pc.toNat < 2 ^ 60 → i.WellFormed = true →
    (∀ l, findLine s.caches.l1i w.core gr.asid (pc.toNat / 64) false = some l → (l.pv = false ∨ w.priv = true) →
      decodeBytes (lineBytes l.data (pc.toNat % 64) 4) = some i → s.fetchNext w.id = .instr i { s with issuer := w.id }) ∧
    (∀ tr s1 d s2, findLine s.caches.l1i w.core gr.asid (pc.toNat / 64) false = none → s.translate (quadOf w.core) gr.asid pc.toNat needFetch w.priv 0 = (.ok tr, s1) →
      s1.lineHome gr.asid tr.pa tr.leaf = (d, s2) → decodeBytes (lineBytes d (pc.toNat % 64) 4) = some i →
      ∃ t, s.fetchNext w.id = .instr i t ∧ t.issuer = w.id ∧ t.mem = s2.mem ∧ t.waves = s2.waves ∧ t.gangs = s2.gangs ∧ t.contexts = s2.contexts)

/-- Words written out from the encodings of R275 and R276 decode to the instructions they stand for, one of each family. -/
def Obligations.WordsDecodeAsEncoded : Prop :=
  decode 0x0A018109#32 = .ok (.imad ⟨0, 3, 1, 4, 1⟩) ∧ decode 0x260085F8#32 = .ok (.icmp ⟨0, 0, 1, 5, 124, 0⟩) ∧ decode 0x46018104#32 = .ok (.ffma ⟨0, 3, 1, 2, 0⟩) ∧
  decode 0x8A03030B#32 = .ok (.shflXor ⟨0, 6, 3, 5, 1⟩) ∧ decode 0xA0400003#32 = .ok (.bra ⟨1, 3⟩) ∧ decode 0xC8020200#32 = .ok (.ld32 ⟨0, 4, 2, 0, 0⟩) ∧
  decode 0xD4020100#32 = .ok (.lds32 ⟨0, 4, 1, 0, 0⟩) ∧ decode 0xE0040840#32 = .ok (.atom32 ⟨0, 4, 1, 1, 0, 0⟩) ∧ decode 0xEA010003#32 = .ok (.txc ⟨0, 2⟩) ∧
  decode 0xF00D31C0#32 = .ok (.mxop ⟨0, 1, 20, 24, 28⟩) ∧ decode 0xFC000003#32 = .ok (.smask ⟨0, 0⟩) ∧ decode 0xFF000186#32 = .ok (.hintExt 0x186) ∧
  decodeVox 0xA0000005#32 = .ok (.next 5)

/-- Decoding gives back every instruction that encoding lays out, with every operand at every value its field admits; the two Voxunet readings through the Voxunet decoder (R260, R262, R275, R276, R429). Every word that decodes to an instruction is that instruction's encoding: no bit of the word is ignored, so that a must-be-zero field that is not zero never decodes (R6, R276, R279). -/
def Obligations.EncodingRoundTrips : Prop :=
  (∀ (i : Instr) (w : Word), i.WellFormed = true → encode i = some w → (i.isNative = true → decode w = .ok i) ∧ (i.isNative = false → decodeVox w = .ok i)) ∧
  (∀ (i : Instr) (w : Word), decode w = .ok i → encode i = some w)

/-- What the spec says of the package after reset and boot: device memory reads zero (R490); no mailbox command runs and MBSTAT, MBCMD, QPCTL and QPSTAT are zero (R480, R493); the cycle counter is zero (R422); every quantum is 2 milliseconds (R161); no wave, queue or context exists, and a context's registers begin at zero. The model's choice: log entries 1, 2 and 4. -/
def Obligations.ResetLeaves : Prop :=
  (∀ a, State.reset.mem.get a = 0) ∧ State.reset.kiln.mbstat = 0 ∧ State.reset.kiln.mbcmd = 0 ∧ (∀ q, State.reset.kiln.qpctl.get q = 0 ∧ State.reset.kiln.qpstat.get q = 0) ∧
  State.reset.cycle = 0 ∧ (∀ k, k < 4 → State.reset.quanta.get k = 8) ∧ State.reset.waves = [] ∧ State.reset.host.subs = [] ∧ State.reset.host.comps = [] ∧
  ∀ asid, State.reset.ctx asid = Context.zero asid

/-- Memory is canonical after reset. -/
def Obligations.ResetCanonical : Prop :=
  State.reset.Canonical

/-- Every step keeps memory in its canonical form, in every state, so that two states with equal contents have equal memories. -/
def Obligations.StepKeepsMemoryCanonical : Prop :=
  ∀ s t : State, s.Canonical → step s = .next t → t.Canonical

/-- Bytes written at a physical address are read back there, every other byte of memory reads as before, and memory stays canonical; numbers are laid out least significant byte first (R207). -/
def Obligations.MemoryReadsBack : Prop :=
  ∀ (s : State) (pa : Nat) (bs : List Byte),
    (s.putBytes pa bs).bytesAt pa bs.length = bs ∧
    SameBytesOutside s (s.putBytes pa bs) (fun a => s.localPa pa ≤ a ∧ a < s.localPa pa + bs.length) ∧
    (s.Canonical → (s.putBytes pa bs).Canonical) ∧
    ∀ n x : Nat, (s.putNat pa n x).natAt pa n = x % 2 ^ (8 * n)

/-- A translation is given only where the leaf permits the access: a privileged leaf to privileged code alone, a read with RD, a write with WR, a fetch with EX; and the offset in the page is the address's own (R20, R24, R25). -/
def Obligations.WalkPermits : Prop :=
  ∀ (s : State) (asid va : Nat) (need : Need) (priv : Bool) (t : Trans), walk s asid va need priv = .ok t →
    va < 2 ^ 60 ∧ (entryBit t.leaf 4 = true → priv = true) ∧ (need.rd = true → entryBit t.leaf 1 = true) ∧ (need.wr = true → entryBit t.leaf 2 = true) ∧
    (need.ex = true → entryBit t.leaf 3 = true) ∧ t.pa % 2 ^ t.log2 = va % 2 ^ t.log2 ∧ entryBit (s.ctxEntry asid) 0 = true

/-! ### Issue -/

/-- A word without a port field issues where its wave may, no fetch watch matches, the word is legal, no operand, log entry or acquire holds it and its dependence counter is not at 63; the group's PCs then stand at the next word, its release is used up, the counter of its kind is one higher when a lane is ACTIVE, and nothing but the wave changes (R149, R150, R272, R287). What a partition may issue. Outside deterministic mode it is the ready wave of the highest CLASS, of these the one whose last issue is oldest, and of these the one of the lowest slot: of two ready waves on a partition without deterministic waves only one that no other comes before is the choice (R179). A deterministic wave is the choice where the rotation's pointer stands at it, outside the cycles whose count is a multiple of 4 on a partition that it shares (R181). As cycles pass, the pointer moves by one slot of the rotation in each cycle that does not go to R179's choice. The model's choice: log entries 7, 82, 83 and 87. -/
def Obligations.WordIssues : Prop :=
  (∀ (i : Instr) (s : State) (w : Wave) (ga : Gang) (gr : Grid) (pc : Quad) (lanes : Lanes), s.wave? s.issuer = some w → s.home? w = some (ga, gr) →
      s.canIssue w ga = true → w.nextGroup = some (pc, lanes) → (s.ctx gr.asid).fetchMatches w pc = [] →
      illegalWord i (Ctx.ofIssue i w ga gr pc lanes) = false → s.holds i (Ctx.ofIssue i w ga gr pc lanes) = false →
      (i.counter = 0 ∨ (Ctx.ofIssue i w ga gr pc lanes).act = 0 ∨ w.counter i.counter ≠ 63) → portUses i = [] →
      ∃ t x, Issues i s (Ctx.ofIssue i w ga gr pc lanes) t ∧ OnlyWavesDiffer s t ∧ t.wave? w.id = some x ∧
        (∀ l, l < 32 → x.pcOf l = if lanes.getLsbD l = true then pc + 4 else w.pcOf l) ∧ x.released = w.released &&& ~~~lanes ∧ x.v = w.v ∧ x.s = w.s ∧ x.p = w.p ∧
        x.meet = w.meet ∧ x.team = w.team ∧ x.tstat = w.tstat ∧ x.time = w.time + 1 ∧
        (w.waiting = none → x.counter i.counter = if i.counter = 0 ∨ (Ctx.ofIssue i w ga gr pc lanes).act = 0 then w.counter i.counter else w.counter i.counter + 1)) ∧
  ((∀ (s : State) (w : Wave) (g : Grid), s.rotationSlots w.part = [] → s.gridOf w = some g → g.det = false →
      (s.isChoice w = true ↔ ∀ x ∈ s.waves, x.core = w.core → x.partition = w.partition → s.isResident x.gang = true → (x.alive = true ∨ ((s.gridOf x).bind Grid.vox).isSome = true) →
        x.id ≠ w.id → s.isDet x = false → s.ready x = true →
        ¬(g.cls < (match s.gridOf x with | some h => h.cls | none => 0) ∨
          (match s.gridOf x with | some h => h.cls | none => 0) = g.cls ∧ (x.lastIssue < w.lastIssue ∨ x.lastIssue = w.lastIssue ∧ x.slot < w.slot)))) ∧
    (∀ (s : State) (w : Wave) (g : Grid), s.gridOf w = some g → g.det = true →
      (s.isChoice w = true ↔ pointedSlot (s.rotation.get w.part).toNat (s.rotationSlots w.part) = some w.slot ∧ (s.sharesPart w.part = true → s.cycle.toNat % 4 ≠ 0))) ∧
    (∀ (s : State) (w : Wave) (k : Nat), let slots := s.rotationSlots w.part
      w ∈ s.waves → s.isResident w.gang = true → s.isDet w = true → k < slots.length →
      pointedSlot (s.rotation.get w.part).toNat slots = some (slots.getD k 0) →
      ((s.passCycles 1).rotation.get w.part).toNat = if s.sharesPart w.part = true ∧ s.cycle.toNat % 4 = 0 then slots.getD k 0 else slots.getD ((k + 1) % slots.length) 0) ∧
    ∀ (s : State) (n : Nat), (s.passCycles n).cycle = s.cycle + BitVec.ofNat 64 n)

/-- A word with port fields, its ticket come in a deterministic launch, its wave's writes done before a push to a FIFO and its reads back before a pop from one, issues once every entry that its ACTIVE lanes ask for can be served, with the entries popped in lane order; under the non-blocking hint for as many of the lowest ACTIVE lanes as can be served; and where not all can be and no such hint stands, the wave waits at the port, KIND 4, and nothing is popped. An access that is not served whole leaves nothing but what its reads of the descriptors leave, and LOG code 6 where a ring or a descriptor has become unmapped (R160, R201, R267, R351, R487). -/
def Obligations.PortWordIssues : Prop :=
  ∀ (i : Instr) (s : State) (c : Ctx) (us : List PortUse), us ≠ [] → c.act ≠ 0 → (c.gr.det = false ∨ s.ticketReady c.w = true) →
    ((∃ u ∈ us, u.pop = false ∧ (c.gr.port u.port).1 = 1) → s.writesDone c.w.id c.w.core 4 = true) →
    ((∃ u ∈ us, u.pop = true ∧ (c.gr.port u.port).1 = 1) → s.readsBack c.w.id = true) →
    let polled : State := if s.servable c.gr us (laneCount c.act) < laneCount c.act then s.portPolls c.gr us (laneCount c.act) else s
    (s.servable c.gr us (laneCount c.act) = laneCount c.act ∨ c.hints.nb = true →
      ∃ got ended s1, popAll c.ga c.gr c.w (firstLanes c.act (s.servable c.gr us (laneCount c.act))) us polled = ((got, ended), s1) ∧
        s.viaPorts i c us = ((s1.modWave c.w.id fun w => w.portGuard (i.guard.getD 0).toNat c.hints.nb c.act (firstLanes c.act (s.servable c.gr us (laneCount c.act))) ended).go i
          { c with act := firstLanes c.act (s.servable c.gr us (laneCount c.act)), popped := got })) ∧
    (∀ u, s.servable c.gr us (laneCount c.act) < laneCount c.act → c.hints.nb = false → us.find? (fun u => !s.serves c.gr us (laneCount c.act) u) = some u →
      s.viaPorts i c us = .other (polled.block c.w.id 4 (u.port - 112) i)) ∧
    (s.unmappedPort c.gr us (laneCount c.act) = none → ∃ looks, s.portPolls c.gr us (laneCount c.act) = s.noteReads c.gr.asid looks) ∧
    ∀ v f, s.unmappedPort c.gr us (laneCount c.act) = some (v, f) → ∃ looks,
      s.portPolls c.gr us (laneCount c.act) = (s.noteReads c.gr.asid looks).logEvent 6 c.gr.asid (c.gr.port v.port).2 (f.code * 2 ^ 8 + f.cause) (v.port - 112)

/-- An illegal word is not performed: its group takes ILLOP, a precise trap whose record names the word and its address. So does the group of a word that decodes to no instruction, which every word is that no instruction encodes: one with an ILLOP major, an unlisted code or a must-be-zero field that is not zero (R6, R186, R192, R279). The model's choice: log entries 82 and 91. -/
def Obligations.IllegalWordTraps : Prop :=
  (∀ (s : State) (w : Wave) (ga : Gang) (gr : Grid) (pc : Quad) (lanes : Lanes) (x : Word) (e : DecodeError) (s1 : State), s.wave? w.id = some w → s.home? w = some (ga, gr) →
    s.canIssue w ga = true → w.nextGroup = some (pc, lanes) → s.fetchWord w gr pc.toNat = (.ok x, s1) → gr.decode pc x = .error e → (s1.ctx gr.asid).fetchMatches w pc = [] →
    issueWord w.id s = .next (s1.trap w.id lanes ⟨0, 0, false, false, x, pc, lanes, lanes, 0, 0, 0, 0⟩)) ∧
  (∀ x : Word, (∀ i : Instr, encode i ≠ some x) → ∃ e, decode x = .error e) ∧
  ∀ (i : Instr) (s : State) (w : Wave) (ga : Gang) (gr : Grid) (pc : Quad) (lanes : Lanes) (body : Ctx → State → Body), s.wave? s.issuer = some w →
    s.home? w = some (ga, gr) → s.canIssue w ga = true → w.nextGroup = some (pc, lanes) → (s.ctx gr.asid).fetchMatches w pc = [] →
    illegalWord i (Ctx.ofIssue i w ga gr pc lanes) = true →
    issue i s body = .next (s.trap w.id lanes ⟨0, 0, false, false, (encode i).getD 0, pc, lanes, lanes, 0, 0, 0, 0⟩)

/-- p0 reads true and keeps reading true whatever is written to it; vz and sz read zero, vlane the lane's number; and what is written to vz, or to a pair there, is discarded (R263 to R266). -/
def Obligations.HardwiredRegisters : Prop :=
  (∀ (w : Wave) (lanes vals : Lanes) (l : Nat), w.getP l 0 = true ∧ w.setP lanes 0 vals = w) ∧
  (∀ (c : Ctx) (imm : Word) (role l : Nat), c.vsrc imm 124 role l = 0 ∧ c.ssrc 124 role l = 0 ∧ c.src2 .vec 124 l = 0 ∧ c.src2 .scal 124 l = 0 ∧
    (c.gr.vox = none → l < 32 → c.vsrc imm 125 role l = BitVec.ofNat 32 l) ∧ c.vsrc imm 126 role l = imm) ∧
  ∀ (c : Ctx) (g : Nat → Word) (h : Nat → Quad) (s : State), c.putV 124 g s = s ∧ c.putV2 124 h s = s

/-! ### Words that compute -/

/-- Integer and address arithmetic, logic and minimum or maximum of 32 bits write the value modulo 2^32 in each ACTIVE lane, or under a sat hint the exact value clamped to the type that the hint's payload names, and nothing else (R208, R288, R289). Words on 64-bit pairs: sums, differences and products modulo 2^64 or, under a sat hint, clamped; the pair d is written in the ACTIVE lanes and nothing else (R266, R288, R289). ladd adds the 32-bit offset a, zero extended, to the 64-bit base in the pair b, modulo 2^64, and writes the pair d in the ACTIVE lanes and nothing else; it checks nothing (R296). -/
def Obligations.IntegerWordsCompute : Prop :=
  (∀ (f : FmtR) (s t : State) (c : Ctx),
      (Issues (.iadd f) s c t → (c.hints.sat = none → VectorResult (exec (.iadd f) s) c t f.d.toNat fun l => c.a f l + c.b f l) ∧
        ∀ p, c.hints.sat = some p → VectorResult (exec (.iadd f) s) c t f.d.toNat fun l =>
          BitVec.ofInt 32 (clampInt (p = 1) 32 (satRead (p = 1) 32 (c.a f l).toNat + satRead (p = 1) 32 (c.b f l).toNat))) ∧
      (Issues (.isub f) s c t → (c.hints.sat = none → VectorResult (exec (.isub f) s) c t f.d.toNat fun l => c.a f l - c.b f l) ∧
        ∀ p, c.hints.sat = some p → VectorResult (exec (.isub f) s) c t f.d.toNat fun l =>
          BitVec.ofInt 32 (clampInt (p = 1) 32 (satRead (p = 1) 32 (c.a f l).toNat - satRead (p = 1) 32 (c.b f l).toNat))) ∧
      (Issues (.imul f) s c t → (c.hints.sat = none → VectorResult (exec (.imul f) s) c t f.d.toNat fun l => c.a f l * c.b f l) ∧
        ∀ p, c.hints.sat = some p → VectorResult (exec (.imul f) s) c t f.d.toNat fun l =>
          BitVec.ofInt 32 (clampInt (p = 1) 32 (satRead (p = 1) 32 (c.a f l).toNat * satRead (p = 1) 32 (c.b f l).toNat))) ∧
      (Issues (.imad f) s c t → (c.hints.sat = none → VectorResult (exec (.imad f) s) c t f.d.toNat fun l => c.a f l * c.b f l + c.d f l) ∧
        ∀ p, c.hints.sat = some p → VectorResult (exec (.imad f) s) c t f.d.toNat fun l =>
          BitVec.ofInt 32 (clampInt (p = 1) 32 (satRead (p = 1) 32 (c.a f l).toNat * satRead (p = 1) 32 (c.b f l).toNat + satRead (p = 1) 32 (c.d f l).toNat))) ∧
      (Issues (.imulhI f) s c t → VectorResult (exec (.imulhI f) s) c t f.d.toNat fun l => BitVec.ofInt 32 ((c.a f l).toInt * (c.b f l).toInt / 2 ^ 32)) ∧
      (Issues (.imulhZ f) s c t → VectorResult (exec (.imulhZ f) s) c t f.d.toNat fun l => BitVec.ofNat 32 ((c.a f l).toNat * (c.b f l).toNat / 2 ^ 32)) ∧
      (Issues (.and f) s c t → VectorResult (exec (.and f) s) c t f.d.toNat fun l => c.a f l &&& c.b f l) ∧
      (Issues (.or f) s c t → VectorResult (exec (.or f) s) c t f.d.toNat fun l => c.a f l ||| c.b f l) ∧
      (Issues (.xor f) s c t → VectorResult (exec (.xor f) s) c t f.d.toNat fun l => c.a f l ^^^ c.b f l) ∧
      (Issues (.iminI f) s c t → VectorResult (exec (.iminI f) s) c t f.d.toNat fun l => if (c.a f l).toInt ≤ (c.b f l).toInt then c.a f l else c.b f l) ∧
      (Issues (.iminZ f) s c t → VectorResult (exec (.iminZ f) s) c t f.d.toNat fun l => if (c.a f l).toNat ≤ (c.b f l).toNat then c.a f l else c.b f l) ∧
      (Issues (.imaxI f) s c t → VectorResult (exec (.imaxI f) s) c t f.d.toNat fun l => if (c.a f l).toInt ≤ (c.b f l).toInt then c.b f l else c.a f l) ∧
      (Issues (.imaxZ f) s c t → VectorResult (exec (.imaxZ f) s) c t f.d.toNat fun l => if (c.a f l).toNat ≤ (c.b f l).toNat then c.b f l else c.a f l)) ∧
  (∀ (f : FmtR) (s t : State) (c : Ctx),
      (Issues (.iadd64 f) s c t → (c.hints.sat = none → PairResult (exec (.iadd64 f) s) c t f.d.toNat fun l => c.a64 f l + c.b64 f l) ∧
        ∀ p, c.hints.sat = some p → PairResult (exec (.iadd64 f) s) c t f.d.toNat fun l =>
          BitVec.ofInt 64 (clampInt (p = 1) 64 (satRead (p = 1) 64 (c.a64 f l).toNat + satRead (p = 1) 64 (c.b64 f l).toNat))) ∧
      (Issues (.isub64 f) s c t → (c.hints.sat = none → PairResult (exec (.isub64 f) s) c t f.d.toNat fun l => c.a64 f l - c.b64 f l) ∧
        ∀ p, c.hints.sat = some p → PairResult (exec (.isub64 f) s) c t f.d.toNat fun l =>
          BitVec.ofInt 64 (clampInt (p = 1) 64 (satRead (p = 1) 64 (c.a64 f l).toNat - satRead (p = 1) 64 (c.b64 f l).toNat))) ∧
      (Issues (.imul64 f) s c t → (c.hints.sat = none → PairResult (exec (.imul64 f) s) c t f.d.toNat fun l => c.a64 f l * c.b64 f l) ∧
        ∀ p, c.hints.sat = some p → PairResult (exec (.imul64 f) s) c t f.d.toNat fun l =>
          BitVec.ofInt 64 (clampInt (p = 1) 64 (satRead (p = 1) 64 (c.a64 f l).toNat * satRead (p = 1) 64 (c.b64 f l).toNat)))) ∧
  (∀ (f : FmtR) (s t : State) (c : Ctx), Issues (.ladd f) s c t →
      PairResult (exec (.ladd f) s) c t f.d.toNat fun l => BitVec.ofNat 64 (((c.b64 f l).toNat + (c.a f l).toNat) % 2 ^ 64))

/-- Shifts by a register and by an immediate: an amount of the width or more shifts everything out, or leaves copies of the sign, and a rotation takes the amount modulo the width; nothing else is written (R268, R290). -/
def Obligations.ShiftsShift : Prop :=
  (∀ (f : FmtR) (s t : State) (c : Ctx),
    (Issues (.shl f) s c t → VectorResult (exec (.shl f) s) c t f.d.toNat fun l => BitVec.ofNat 32 ((c.a f l).toNat * 2 ^ (c.b f l).toNat)) ∧
    (Issues (.shr f) s c t → VectorResult (exec (.shr f) s) c t f.d.toNat fun l => BitVec.ofNat 32 ((c.a f l).toNat / 2 ^ (c.b f l).toNat)) ∧
    (Issues (.sar f) s c t → VectorResult (exec (.sar f) s) c t f.d.toNat fun l => (c.a f l).sshiftRight (min (c.b f l).toNat 32)) ∧
    (Issues (.rol f) s c t → VectorResult (exec (.rol f) s) c t f.d.toNat fun l => (c.a f l).rotateLeft ((c.b f l).toNat % 32))) ∧
  (∀ (f : FmtSh) (s t : State) (c : Ctx), let a (form : BitVec 2) (l : Nat) : Word := c.vsrc (c.imm32 (form ++ f.n.setWidth 6)) f.a.toNat 0 l
    (Issues (.shlImm f) s c t → VectorResult (exec (.shlImm f) s) c t f.d.toNat fun l => BitVec.ofNat 32 ((a 0 l).toNat * 2 ^ f.n.toNat)) ∧
    (Issues (.shrImm f) s c t → VectorResult (exec (.shrImm f) s) c t f.d.toNat fun l => BitVec.ofNat 32 ((a 1 l).toNat / 2 ^ f.n.toNat)) ∧
    (Issues (.sarImm f) s c t → VectorResult (exec (.sarImm f) s) c t f.d.toNat fun l => (a 2 l).sshiftRight f.n.toNat) ∧
    (Issues (.rolImm f) s c t → VectorResult (exec (.rolImm f) s) c t f.d.toNat fun l => (a 3 l).rotateLeft f.n.toNat)) ∧
  (∀ (f : FmtSh64) (s t : State) (c : Ctx),
    (Issues (.shlImm64 f) s c t → PairResult (exec (.shlImm64 f) s) c t f.d.toNat fun l => BitVec.ofNat 64 ((c.src2 .vec f.a.toNat l).toNat * 2 ^ f.n.toNat)) ∧
    (Issues (.shrImm64 f) s c t → PairResult (exec (.shrImm64 f) s) c t f.d.toNat fun l => BitVec.ofNat 64 ((c.src2 .vec f.a.toNat l).toNat / 2 ^ f.n.toNat)) ∧
    (Issues (.sarImm64 f) s c t → PairResult (exec (.sarImm64 f) s) c t f.d.toNat fun l => (c.src2 .vec f.a.toNat l).sshiftRight f.n.toNat) ∧
    (Issues (.rolImm64 f) s c t → PairResult (exec (.rolImm64 f) s) c t f.d.toNat fun l => (c.src2 .vec f.a.toNat l).rotateLeft f.n.toNat))

/-- Bit fields: bfe gives the field of a that b places, zero or sign extended, and bfi puts a's low bits into d there, with the field cut off at bit 31 and a width of 0 giving 0 or d (R291); an immediate adds, masks or is moved (R294); mov, popc and clz (R295), pack and unpk's source unchanged; nothing else is written. -/
def Obligations.FieldAndMoveWordsCompute : Prop :=
  (∀ (f : FmtR) (s t : State) (c : Ctx), let pos (l : Nat) : Nat := (c.b f l).toNat % 32
    let width (l : Nat) : Nat := min (min ((c.b f l).toNat / 2 ^ 8 % 64) 32) (32 - pos l)
    (Issues (.bfe f) s c t → VectorResult (exec (.bfe f) s) c t f.d.toNat fun l =>
      if width l = 0 then 0
      else if (c.b f l).getLsbD 16 = true then BitVec.ofInt 32 (signedOf (width l) ((c.a f l).toNat / 2 ^ pos l)) else BitVec.ofNat 32 ((c.a f l).toNat / 2 ^ pos l % 2 ^ width l)) ∧
    (Issues (.bfi f) s c t → ∃ g, VectorResult (exec (.bfi f) s) c t f.d.toNat g ∧ ∀ l k, k < 32 →
      (g l).getLsbD k = if pos l ≤ k ∧ k < pos l + width l then (c.a f l).getLsbD (k - pos l) else (c.d f l).getLsbD k)) ∧
  (∀ (f : FmtI) (s t : State) (c : Ctx), let a (l : Nat) : Word := c.vsrc (c.imm32 f.i) f.a.toNat 0 l
    (Issues (.iaddImm f) s c t → (c.hints.sat = none → VectorResult (exec (.iaddImm f) s) c t f.d.toNat fun l => a l + c.imm32 f.i) ∧
      ∀ p, c.hints.sat = some p → VectorResult (exec (.iaddImm f) s) c t f.d.toNat fun l =>
        BitVec.ofInt 32 (clampInt (p = 1) 32 (satRead (p = 1) 32 (a l).toNat + satRead (p = 1) 32 (c.imm32 f.i).toNat))) ∧
    (Issues (.andImm f) s c t → VectorResult (exec (.andImm f) s) c t f.d.toNat fun l => a l &&& c.imm32 f.i)) ∧
  (∀ (f : FmtMovi) (s t : State) (c : Ctx), Issues (.movi f) s c t → VectorResult (exec (.movi f) s) c t f.d.toNat fun _ => c.imm32 f.i) ∧
  ∀ (f : FmtU) (s t : State) (c : Ctx),
    (Issues (.mov f) s c t → VectorResult (exec (.mov f) s) c t f.d.toNat (c.u f)) ∧
    (Issues (.mov64 f) s c t → PairResult (exec (.mov64 f) s) c t f.d.toNat (c.u64 f)) ∧
    (Issues (.popc f) s c t → VectorResult (exec (.popc f) s) c t f.d.toNat fun l => BitVec.ofNat 32 ((List.range 32).countP fun k => (c.u f l).getLsbD k)) ∧
    (Issues (.popc64 f) s c t → VectorResult (exec (.popc64 f) s) c t f.d.toNat fun l => BitVec.ofNat 32 ((List.range 64).countP fun k => (c.u64 f l).getLsbD k)) ∧
    (Issues (.clz f) s c t → ∃ n : Nat → Nat, VectorResult (exec (.clz f) s) c t f.d.toNat (fun l => BitVec.ofNat 32 (n l)) ∧
      ∀ l, n l ≤ 32 ∧ (c.u f l).toNat < 2 ^ (32 - n l) ∧ (n l < 32 → (c.u f l).getLsbD (31 - n l) = true)) ∧
    (Issues (.clz64 f) s c t → ∃ n : Nat → Nat, VectorResult (exec (.clz64 f) s) c t f.d.toNat (fun l => BitVec.ofNat 32 (n l)) ∧
      ∀ l, n l ≤ 64 ∧ (c.u64 f l).toNat < 2 ^ (64 - n l) ∧ (n l < 64 → (c.u64 f l).getLsbD (63 - n l) = true))

/-- Comparisons write their predicate in the ACTIVE lanes and nothing else: integers by the condition codes of R278, signed or unsigned; floating numbers by those of R299, in which a NaN makes every ordered condition false; sel takes a where the selector holds, b elsewhere (R265, R278, R292, R293, R299). -/
def Obligations.ComparesSetPredicates : Prop :=
  (∀ (f : FmtP) (s t : State) (c : Ctx), let a (l : Nat) : Word := c.vsrc c.vimm f.a.toNat 0 l
    let b (l : Nat) : Word := c.src1 c.vimm (classOf f.s) f.b.toNat 1 l
    let a2 (l : Nat) : Quad := c.src2 .vec f.a.toNat l
    let b2 (l : Nat) : Quad := c.src2 (classOf f.s) f.b.toNat l
    (Issues (.icmp f) s c t → PredicateResult (exec (.icmp f) s) c t f.p.toNat fun l => match f.c.toNat with
      | 0 => decide (a l = b l)
      | 1 => decide (a l ≠ b l)
      | 2 => decide ((a l).toInt < (b l).toInt)
      | 3 => decide ((a l).toInt ≤ (b l).toInt)
      | 4 => decide ((b l).toInt < (a l).toInt)
      | 5 => decide ((b l).toInt ≤ (a l).toInt)
      | 6 => decide ((a l).toNat < (b l).toNat)
      | 7 => decide ((a l).toNat ≤ (b l).toNat)
      | 8 => decide ((b l).toNat < (a l).toNat)
      | 9 => decide ((b l).toNat ≤ (a l).toNat)
      | _ => false) ∧
    (Issues (.icmp64 f) s c t → PredicateResult (exec (.icmp64 f) s) c t f.p.toNat fun l => match f.c.toNat with
      | 0 => decide (a2 l = b2 l)
      | 1 => decide (a2 l ≠ b2 l)
      | 2 => decide ((a2 l).toInt < (b2 l).toInt)
      | 3 => decide ((a2 l).toInt ≤ (b2 l).toInt)
      | 4 => decide ((b2 l).toInt < (a2 l).toInt)
      | 5 => decide ((b2 l).toInt ≤ (a2 l).toInt)
      | 6 => decide ((a2 l).toNat < (b2 l).toNat)
      | 7 => decide ((a2 l).toNat ≤ (b2 l).toNat)
      | 8 => decide ((b2 l).toNat < (a2 l).toNat)
      | 9 => decide ((b2 l).toNat ≤ (a2 l).toNat)
      | _ => false) ∧
    (Issues (.fcmp f) s c t → PredicateResult (exec (.fcmp f) s) c t f.p.toNat fun l => c.fpc.compare f32 f.c.toNat (a l).toNat (b l).toNat) ∧
    (Issues (.dcmp f) s c t → PredicateResult (exec (.dcmp f) s) c t f.p.toNat fun l => c.fpc.compare f64 f.c.toNat (a2 l).toNat (b2 l).toNat)) ∧
  ∀ (f : FmtSel) (s t : State) (c : Ctx), Issues (.sel f) s c t → VectorResult (exec (.sel f) s) c t f.d.toNat fun l =>
    if (c.w.getP l f.q.toNat != c.hints.neg) = true then c.vsrc c.vimm f.a.toNat 0 l else c.src1 c.vimm (classOf f.s) f.b.toNat 1 l

/-- binary32 and packed 16-bit arithmetic write the result that FPC and the rounding mode give, element by element, in each ACTIVE lane and nothing else (R212 to R217, R297, R301). binary64 arithmetic writes the pair d in each ACTIVE lane and nothing else (R266, R300). The model's choice: log entry 11. -/
def Obligations.FloatWordsCompute : Prop :=
  ((∀ (f : FmtR) (s t : State) (c : Ctx), let a (l : Nat) : Nat := (c.a f l).toNat
      let b (l : Nat) : Nat := (c.b f l).toNat
      let d (l : Nat) : Nat := (c.d f l).toNat
      let two (op : Nat → Nat → Nat → Nat) (l : Nat) : Word := BitVec.ofNat 32 (op (a l % 2 ^ 16) (b l % 2 ^ 16) (d l % 2 ^ 16) + op (a l / 2 ^ 16) (b l / 2 ^ 16) (d l / 2 ^ 16) * 2 ^ 16)
      (Issues (.fadd f) s c t → VectorResult (exec (.fadd f) s) c t f.d.toNat fun l => BitVec.ofNat 32 (c.fpc.add f32 c.mode (a l) (b l))) ∧
      (Issues (.fsub f) s c t → VectorResult (exec (.fsub f) s) c t f.d.toNat fun l => BitVec.ofNat 32 (c.fpc.sub f32 c.mode (a l) (b l))) ∧
      (Issues (.fmul f) s c t → VectorResult (exec (.fmul f) s) c t f.d.toNat fun l => BitVec.ofNat 32 (c.fpc.mul f32 c.mode (a l) (b l))) ∧
      (Issues (.ffma f) s c t → VectorResult (exec (.ffma f) s) c t f.d.toNat fun l => BitVec.ofNat 32 (c.fpc.fma f32 c.mode (a l) (b l) (d l))) ∧
      (Issues (.fmin f) s c t → VectorResult (exec (.fmin f) s) c t f.d.toNat fun l => BitVec.ofNat 32 (c.fpc.pick f32 true (a l) (b l))) ∧
      (Issues (.fmax f) s c t → VectorResult (exec (.fmax f) s) c t f.d.toNat fun l => BitVec.ofNat 32 (c.fpc.pick f32 false (a l) (b l))) ∧
      (Issues (.fdiv f) s c t → VectorResult (exec (.fdiv f) s) c t f.d.toNat fun l => BitVec.ofNat 32 (c.fpc.fdiv c.mode (a l) (b l))) ∧
      (Issues (.hadd2 f) s c t → VectorResult (exec (.hadd2 f) s) c t f.d.toNat (two fun x y _ => c.fpc.add f16 c.mode x y)) ∧
      (Issues (.hfma2 f) s c t → VectorResult (exec (.hfma2 f) s) c t f.d.toNat (two fun x y z => c.fpc.fma f16 c.mode x y z)) ∧
      (Issues (.bfma2 f) s c t → VectorResult (exec (.bfma2 f) s) c t f.d.toNat (two fun x y z => c.fpc.fma bf16 c.mode x y z))) ∧
    ∀ (f : FmtU) (s t : State) (c : Ctx), let x (l : Nat) : Nat := (c.u f l).toNat
      (Issues (.frcp f) s c t → VectorResult (exec (.frcp f) s) c t f.d.toNat fun l => BitVec.ofNat 32 (c.fpc.frcp c.mode (x l))) ∧
      (Issues (.frsq f) s c t → VectorResult (exec (.frsq f) s) c t f.d.toNat fun l => BitVec.ofNat 32 (c.fpc.frsq c.mode (x l))) ∧
      (Issues (.fsqrt f) s c t → VectorResult (exec (.fsqrt f) s) c t f.d.toNat fun l => BitVec.ofNat 32 (c.fpc.sqrt f32 c.mode (x l))) ∧
      (Issues (.fex2 f) s c t → VectorResult (exec (.fex2 f) s) c t f.d.toNat fun l => BitVec.ofNat 32 (c.fpc.fex2 (x l))) ∧
      (Issues (.flg2 f) s c t → VectorResult (exec (.flg2 f) s) c t f.d.toNat fun l => BitVec.ofNat 32 (c.fpc.flg2 (x l))) ∧
      (Issues (.fsin f) s c t → VectorResult (exec (.fsin f) s) c t f.d.toNat fun l => BitVec.ofNat 32 (c.fpc.trig true (x l))) ∧
      (Issues (.fcos f) s c t → VectorResult (exec (.fcos f) s) c t f.d.toNat fun l => BitVec.ofNat 32 (c.fpc.trig false (x l))) ∧
      (Issues (.frnd f) s c t → VectorResult (exec (.frnd f) s) c t f.d.toNat fun l => BitVec.ofNat 32 (c.fpc.integral f32 c.mode (x l)))) ∧
  ((∀ (f : FmtR) (s t : State) (c : Ctx), let a (l : Nat) : Nat := (c.a64 f l).toNat
      let b (l : Nat) : Nat := (c.b64 f l).toNat
      let d (l : Nat) : Nat := (c.d64 f l).toNat
      (Issues (.dadd f) s c t → PairResult (exec (.dadd f) s) c t f.d.toNat fun l => BitVec.ofNat 64 (c.fpc.add f64 c.mode (a l) (b l))) ∧
      (Issues (.dsub f) s c t → PairResult (exec (.dsub f) s) c t f.d.toNat fun l => BitVec.ofNat 64 (c.fpc.sub f64 c.mode (a l) (b l))) ∧
      (Issues (.dmul f) s c t → PairResult (exec (.dmul f) s) c t f.d.toNat fun l => BitVec.ofNat 64 (c.fpc.mul f64 c.mode (a l) (b l))) ∧
      (Issues (.dffma f) s c t → PairResult (exec (.dffma f) s) c t f.d.toNat fun l => BitVec.ofNat 64 (c.fpc.fma f64 c.mode (a l) (b l) (d l))) ∧
      (Issues (.dmin f) s c t → PairResult (exec (.dmin f) s) c t f.d.toNat fun l => BitVec.ofNat 64 (c.fpc.pick f64 true (a l) (b l))) ∧
      (Issues (.dmax f) s c t → PairResult (exec (.dmax f) s) c t f.d.toNat fun l => BitVec.ofNat 64 (c.fpc.pick f64 false (a l) (b l))) ∧
      (Issues (.ddiv f) s c t → PairResult (exec (.ddiv f) s) c t f.d.toNat fun l => BitVec.ofNat 64 (c.fpc.div f64 c.mode (a l) (b l)))) ∧
    ∀ (f : FmtU) (s t : State) (c : Ctx),
      (Issues (.dsqrt f) s c t → PairResult (exec (.dsqrt f) s) c t f.d.toNat fun l => BitVec.ofNat 64 (c.fpc.sqrt f64 c.mode (c.u64 f l).toNat)) ∧
      (Issues (.drnd f) s c t → PairResult (exec (.drnd f) s) c t f.d.toNat fun l => BitVec.ofNat 64 (c.fpc.integral f64 c.mode (c.u64 f l).toNat)))

/-- What the operations of the floating-point words give, in every format and under every FPC: a sum, difference, product, quotient, fused product and sum, or conversion of finite values is the exact value rounded once in the mode, an exact zero sum of opposite signs is +0, or -0 toward minus infinity; a square root is the root rounded once; subnormal binary32 and BF16 operands and results are flushed under FIN and FOUT alone; with a NaN operand the result is the canonical NaN, or the first NaN quieted under NANP, and an invalid operation gives the canonical NaN; the conditions compare by value, false with a NaN but for ne and uno; the minimum and maximum order -0 below +0 and give a NaN for a NaN, or, under MINMAX, lose a NaN and keep a of two equal operands; a value beyond an integer type goes to its nearer end and a NaN to 0, or under F2I to the top bit (R209 to R213, R215 to R218, R221, R278, R299). -/
def Obligations.FloatsRoundOnce : Prop :=
  (∀ f ∈ FFmt.all, ∀ (mode : RMode) (neg : Bool) (p q : Nat), mode ≤ 3 → 0 < q → f.RoundsTo mode neg ((p : Rat) / q) (f.round mode neg p q)) ∧
  (∀ (c : Fpc) (f : FFmt) (x : Nat), let flushed (on : Bool) : Nat := if on = true ∧ (f = f32 ∨ f = bf16) ∧ f.exp x = 0 ∧ f.frac x ≠ 0 then f.sign (f.neg x) else x
    f ∈ FFmt.all → c.input f x = flushed c.fin ∧ c.output f x = flushed c.fout) ∧
  (∀ f ∈ FFmt.all, ∀ (c : Fpc) (mode : RMode) (a b d : Nat), mode ≤ 3 → a < 2 ^ (f.top + 1) → b < 2 ^ (f.top + 1) → d < 2 ^ (f.top + 1) →
    let x := c.input f a
    let y := c.input f b
    let z := c.input f d
    let once (zero : Bool) (v : Rat) (r : Nat) : Prop := ∃ n, f.RoundsTo mode (if v = 0 then zero else decide (v < 0)) (size v) n ∧ r = c.output f n
    let sum (n m : Bool) : Bool := if n = m then n else decide (mode = 3)
    let first (xs : List Nat) : Nat := if c.nanp then (match xs.find? f.isNan with | some n => f.sign (f.neg n) + f.infBits + (f.frac n ||| 2 ^ (f.fbits - 1)) | none => f.nan) else f.nan
    let infinite (x : Nat) : Prop := ¬f.finite x ∧ f.isNan x = false
    (f.finite x → f.finite y → once (sum (f.neg x) (f.neg y)) (f.real x + f.real y) (c.add f mode a b) ∧ once (sum (f.neg x) (!f.neg y)) (f.real x - f.real y) (c.sub f mode a b) ∧
      once (f.neg x != f.neg y) (f.real x * f.real y) (c.mul f mode a b) ∧ (f.real y ≠ 0 → once (f.neg x != f.neg y) (f.real x / f.real y) (c.div f mode a b)) ∧
      (f.finite z → once (sum (f.neg x != f.neg y) (f.neg z)) (f.real x * f.real y + f.real z) (c.fma f mode a b d))) ∧
    (f.finite x → 0 < f.real x → let r := c.sqrt f mode a
      f.finite r ∧ f.neg r = false ∧ ∀ y < f.infBits,
        (mode = 0 → (f.mag r < f.mag y → 4 * f.mag x ≤ (f.mag r + f.mag y) * (f.mag r + f.mag y)) ∧ (f.mag y < f.mag r → (f.mag r + f.mag y) * (f.mag r + f.mag y) ≤ 4 * f.mag x)) ∧
        (mode = 1 ∨ mode = 3 → f.mag r * f.mag r ≤ f.mag x ∧ (f.mag y * f.mag y ≤ f.mag x → f.mag y ≤ f.mag r)) ∧
        (mode = 2 → f.mag x ≤ f.mag r * f.mag r ∧ (f.mag x ≤ f.mag y * f.mag y → f.mag r ≤ f.mag y))) ∧
    (f.isNan x = true ∨ f.isNan y = true → c.add f mode a b = first [x, y] ∧ c.sub f mode a b = first [x, y] ∧ c.mul f mode a b = first [x, y] ∧ c.div f mode a b = first [x, y]) ∧
    (f.isNan x = true ∨ f.isNan y = true ∨ f.isNan z = true → c.fma f mode a b d = first [x, y, z]) ∧ (f.isNan x = true → c.sqrt f mode a = first [x]) ∧
    (infinite x → infinite y → (f.neg x ≠ f.neg y → c.add f mode a b = f.nan) ∧ (f.neg x = f.neg y → c.sub f mode a b = f.nan ∧ c.add f mode a b = f.inf (f.neg x)) ∧ c.div f mode a b = f.nan) ∧
    (infinite x → f.finite y → c.add f mode a b = f.inf (f.neg x) ∧ (f.real y = 0 → c.mul f mode a b = f.nan ∧ c.mul f mode b a = f.nan ∧ (f.isNan z = false → c.fma f mode a b d = f.nan)) ∧
      (f.real y ≠ 0 → c.mul f mode a b = f.inf (f.neg x != f.neg y))) ∧
    (f.finite x → f.finite y → f.real x = 0 → f.real y = 0 → c.div f mode a b = f.nan) ∧ (f.finite x → f.real x < 0 → c.sqrt f mode a = f.nan) ∧
    (let un : Bool := f.isNan x || f.isNan y;
      ((List.range 8).map fun code => c.compare f code a b) = [!un && decide (f.ord x = f.ord y), un || decide (f.ord x ≠ f.ord y), !un && decide (f.ord x < f.ord y), !un && decide (f.ord x ≤ f.ord y),
        !un && decide (f.ord y < f.ord x), !un && decide (f.ord y ≤ f.ord x), !un, un]) ∧
    (f.isNan x = false → f.isNan y = false → let equal : Prop := f.ord x = f.ord y;
      c.pick f true a b = c.output f (if f.ord x < f.ord y ∨ equal ∧ (c.minmax = true ∨ f.neg x = true) then x else y) ∧
      c.pick f false a b = c.output f (if f.ord y < f.ord x ∨ equal ∧ (c.minmax = true ∨ f.neg x = false) then x else y)) ∧
    ∀ least, f.isNan x = true ∨ f.isNan y = true → c.pick f least a b =
      if c.minmax = true ∧ f.isNan x = false then c.output f x else if c.minmax = true ∧ f.isNan y = false then c.output f y else first [x, y]) ∧
  (∀ f ∈ FFmt.all, ∀ (c : Fpc) (mode : RMode) (sat signed : Bool) (n a : Nat), mode ≤ 3 → n ∈ [8, 16, 32, 64] → a < 2 ^ (f.top + 1) →
    let x := c.input f a
    let lo : Int := if signed then -(2 ^ (n - 1)) else 0
    let hi : Int := if signed then 2 ^ (n - 1) - 1 else 2 ^ n - 1
    let legacy (k : Int) : Int := if c.f2i = true ∧ sat = false then 2 ^ (n - 1) else k
    (f.isNan x = true → c.toInt f mode sat signed n a = intBits signed n (legacy 0)) ∧
    (f.isNan x = false → ¬f.finite x → c.toInt f mode sat signed n a = intBits signed n (legacy (if f.neg x then lo else hi))) ∧
    (f.finite x → ∃ k, IntRounds mode (f.real x) k ∧ c.toInt f mode sat signed n a = intBits signed n (if lo ≤ k ∧ k ≤ hi then k else legacy (if k < lo then lo else hi)))) ∧
  (∀ f ∈ FFmt.all, ∀ g ∈ FFmt.all, ∀ (c : Fpc) (mode : RMode) (a : Nat), mode ≤ 3 → a < 2 ^ (f.top + 1) →
    let x := c.input f a
    let quiet := f.frac x ||| 2 ^ (f.fbits - 1)
    (f.finite x → ∃ r, g.RoundsTo mode (f.neg x) (f.mag x) r ∧ c.toFloat f g mode a = c.output g r) ∧
    (f.isNan x = false → ¬f.finite x → c.toFloat f g mode a = g.inf (f.neg x)) ∧
    (f.isNan x = true → c.toFloat f g mode a = if c.nanp then g.sign (f.neg x) + g.infBits + (if g.fbits ≤ f.fbits then quiet / 2 ^ (f.fbits - g.fbits) else quiet * 2 ^ (g.fbits - f.fbits)) else g.nan)) ∧
  ∀ (c : Fpc) (mode : RMode) (a b : Nat), c.divsq = false → c.fdiv mode a b = c.div f32 mode a b ∧ c.frcp mode b = c.div f32 mode 0x3F800000 b

/-- Conversions write d, or the pair d for a 64-bit target, in each ACTIVE lane and nothing else: an integer source read from its register or pair, signed or unsigned, wraps or is clamped under a sat hint; a floating source goes to an integer by rounding and saturation, or, under FPC's F2I, to the value that bit gives, and to another format by R221; pack and unpk move 16-bit and 8-bit fields (R207, R218, R221, R303 to R305). -/
def Obligations.ConversionsConvert : Prop :=
  (∀ (f : FmtCvt) (s t : State) (c : Ctx), let x (l : Nat) : Quad := if typeWide f.u.toNat = true then c.src2 (classOf f.s) f.b.toNat l else (c.src1 c.vimm (classOf f.s) f.b.toNat 1 l).setWidth 64
    let y (l : Nat) : Quad := c.fpc.fromInt c.mode c.hints.sat.isSome (cvtType f.t.toNat) (intSource f.u.toNat (x l))
    Issues (.cvtFromInteger f) s c t → (typeWide f.t.toNat = true → PairResult (exec (.cvtFromInteger f) s) c t f.d.toNat y) ∧
      (typeWide f.t.toNat = false → VectorResult (exec (.cvtFromInteger f) s) c t f.d.toNat fun l => lo32 (y l))) ∧
  (∀ (f : FmtCvtF) (s t : State) (c : Ctx), let x (l : Nat) : Quad := if f.u = 3 then c.src2 (classOf f.s) f.b.toNat l else (c.src1 c.vimm (classOf f.s) f.b.toNat 1 l).setWidth 64
    let v (l : Nat) : Nat := (x l).toNat % 2 ^ ((cvtSource f.u.toNat).top + 1)
    let y (l : Nat) : Quad := match cvtType f.t.toNat with
      | .int signed n => c.fpc.toInt (cvtSource f.u.toNat) c.mode c.hints.sat.isSome signed n (v l)
      | .float g => BitVec.ofNat 64 (c.fpc.toFloat (cvtSource f.u.toNat) g c.mode (v l))
    Issues (.cvtFromFloat f) s c t → (typeWide f.t.toNat = true → PairResult (exec (.cvtFromFloat f) s) c t f.d.toNat y) ∧
      (typeWide f.t.toNat = false → VectorResult (exec (.cvtFromFloat f) s) c t f.d.toNat fun l => lo32 (y l))) ∧
  (∀ (f : FmtR) (s t : State) (c : Ctx), Issues (.pack f) s c t →
    (c.hints.sat = none → VectorResult (exec (.pack f) s) c t f.d.toNat fun l => (c.b f l).extractLsb' 0 16 ++ (c.a f l).extractLsb' 0 16) ∧
    ∀ p, c.hints.sat = some p → VectorResult (exec (.pack f) s) c t f.d.toNat fun l =>
      BitVec.ofInt 16 (clampInt (p = 1) 16 (c.b f l).toInt) ++ BitVec.ofInt 16 (clampInt (p = 1) 16 (c.a f l).toInt)) ∧
  ∀ (f : FmtUnpk) (s t : State) (c : Ctx), Issues (.unpk f) s c t → let b (l : Nat) : Nat := (c.src1 c.vimm (classOf f.s) f.b.toNat 1 l).toNat
    let n := if f.m.toNat < 2 then 16 else 8
    (f.d.toNat = 124 → Completes (exec (.unpk f) s) c t) ∧
    (f.d.toNat + 32 / n ≤ 112 → VectorsBecome (exec (.unpk f) s) t c.w.id fun w l r =>
      if c.act.getLsbD l = true ∧ f.d.toNat ≤ r ∧ r < f.d.toNat + 32 / n then extendReg (f.m.toNat % 2 = 0) n (BitVec.ofNat 32 (b l / 2 ^ (n * (r - f.d.toNat)))) else w.getV l r)

/-- Shuffles give each ACTIVE lane the value that a has in its source lane, ACTIVE or not: the lane that the offset's low five bits name, or that differs from its own number in them, or that stands so many lanes below or above it; its own value where the source falls outside the wave (R307). The wave has 32 lanes; to a segment of a Voxunet launch it is the lanes of the virtual wave, and vlane, which its translation keeps in native register VREGS + 10, is there each lane's own number (R306, R430, R439). -/
def Obligations.ShufflesExchange : Prop :=
  (∀ (f : FmtR) (s t : State) (c : Ctx), let n (l : Nat) : Nat := (c.b f l).toNat
    let src (j : Nat) : Word := if c.vox = true ∧ f.a.toNat = c.vregs + 10 then BitVec.ofNat 32 (j % c.width) else c.a f j
    (Issues (.shflIdx f) s c t → ∃ g, VectorResult (exec (.shflIdx f) s) c t f.d.toNat g ∧
      ∀ l, l < 32 → g l = if n l % 32 < c.width then src (c.blockBase l + n l % 32) else src l) ∧
    (Issues (.shflXor f) s c t → ∃ g, VectorResult (exec (.shflXor f) s) c t f.d.toNat g ∧
      ∀ l, l < 32 → g l = if (l - c.blockBase l) ^^^ n l % 32 < c.width then src (c.blockBase l + ((l - c.blockBase l) ^^^ n l % 32)) else src l) ∧
    (Issues (.shflUp f) s c t → ∃ g, VectorResult (exec (.shflUp f) s) c t f.d.toNat g ∧
      ∀ l, l < 32 → g l = if c.blockBase l + n l ≤ l then src (l - n l) else src l) ∧
    (Issues (.shflDown f) s c t → ∃ g, VectorResult (exec (.shflDown f) s) c t f.d.toNat g ∧
      ∀ l, l < 32 → g l = if l + n l < c.blockBase l + c.width then src (l + n l) else src l)) ∧
  ∀ c : Ctx, c.vox = false → c.width = 32 ∧ ∀ l, l < 32 → c.blockBase l = 0

/-- scan gives each ACTIVE lane the index tree of the ACTIVE lanes up to it; vote, bcast and redux write their scalar from the ACTIVE lanes when there are any; in a segment of a Voxunet launch each virtual wave with an ACTIVE lane writes its own uniform register from its own lanes, and a bcast of a lane that it does not have is left open (the model's choice, log entry 8) (R226, R306, R308 to R310, R430, R439). The integer sum of redux over a native wave is the sum of the ACTIVE lanes' values modulo 2^32, whatever the tree's shape (R226, R310). -/
def Obligations.LaneWordsCombine : Prop :=
  ((∀ (f : FmtVote) (s t : State) (c : Ctx), let tells (act : Lanes) (x : Word) : Prop := (f.m.toNat = 0 → x = if (laneList act).all (fun l => c.w.getP l f.q.toNat) = true then 1 else 0) ∧
        (f.m.toNat = 1 → x = if (laneList act).any (fun l => c.w.getP l f.q.toNat) = true then 1 else 0) ∧
        (2 ≤ f.m.toNat → ∀ k, k < 32 → x.getLsbD k = (act.getLsbD (c.blockBase (lowestLane act) + k) && c.w.getP (c.blockBase (lowestLane act) + k) f.q.toNat))
      Issues (.vote f) s c t → (c.vox = false → ∃ x, ScalarResult (exec (.vote f) s) c t f.d.toNat x ∧ tells c.act x) ∧
        (c.vox = true → c.vregs + 2 ≤ f.d.toNat → f.d.toNat ≤ c.vregs + 9 → c.vregs + 9 ≤ 111 → 32 % c.width = 0 → ∃ x, UniformResult (exec (.vote f) s) c t f.d.toNat x ∧ ∀ act, tells act (x act))) ∧
    (∀ (f : FmtR) (s t : State) (c : Ctx), let source (act : Lanes) : Nat := (c.b f (lowestLane act)).toNat % 32
      let src (j : Nat) : Word := if c.vox = true ∧ f.a.toNat = c.vregs + 10 then BitVec.ofNat 32 (j % c.width) else c.a f j
      let u : State := if c.width = 32 then t else { t with fresh := t.fresh + 32 }
      Issues (.bcast f) s c t → (c.vox = false → ScalarResult (exec (.bcast f) s) c t f.d.toNat (src (source c.act))) ∧
        (c.vox = true → c.vregs + 2 ≤ f.d.toNat → f.d.toNat ≤ c.vregs + 9 → c.vregs + 9 ≤ 111 → 32 % c.width = 0 → ∃ x, UniformResult (exec (.bcast f) s) c u f.d.toNat x ∧
          ∀ act, source act < c.width → x act = src (c.blockBase (lowestLane act) + source act))) ∧
    ∀ (f : FmtRdx) (s t : State) (c : Ctx), let a (l : Nat) : Word := c.vsrc c.vimm f.a.toNat 0 l
      let tree (act : Lanes) (l : Nat) : Word := laneTree c.fpc f.o.toNat (c.blockBase l) c.width act a
      (Issues (.redux f) s c t → (c.vox = false → ScalarResult (exec (.redux f) s) c t f.d.toNat (tree c.act 0)) ∧
        (c.vox = true → c.vregs + 2 ≤ f.d.toNat → f.d.toNat ≤ c.vregs + 9 → c.vregs + 9 ≤ 111 → 32 % c.width = 0 →
          UniformResult (exec (.redux f) s) c t f.d.toNat fun act => tree act (lowestLane act))) ∧
      (Issues (.scan f) s c t → ∃ g, VectorResult (exec (.scan f) s) c t f.d.toNat g ∧ ∀ l, l < 32 → g l = tree (c.act &&& lanesWhere fun k => k ≤ l) l)) ∧
  (∀ (fpc : Fpc) (act : Lanes) (a : Nat → Word), laneTree fpc 0 0 32 act a = ((laneList act).map a).foldl (· + ·) 0)

/-! ### Control flow -/

/-- Branches, calls and returns: the ACTIVE lanes go to the word's address plus four times the displacement, or to the address in their pair with bits 1:0 cleared; a call leaves the address of the next word in the pair d; a calli of a target whose budget exceeds the launch's REGS raises BUDGET before any effect (R150, R311 to R315). The model's choice: log entries 17 and 81. -/
def Obligations.ControlTransfers : Prop :=
  (∀ (f : FmtBra) (s t : State) (c : Ctx), Issues (.bra f) s c t → JumpResult (exec (.bra f) s) c t none fun _ => c.pc + BitVec.ofInt 64 (4 * f.d.toInt)) ∧
  (∀ (f : FmtA1) (s t : State) (c : Ctx),
    (Issues (.brx f) s c t → JumpResult (exec (.brx f) s) c t none fun l => c.src2 .vec f.a.toNat l &&& ~~~3) ∧
    (Issues (.ret f) s c t → JumpResult (exec (.ret f) s) c t none fun l => c.src2 .vec f.a.toNat l &&& ~~~3)) ∧
  (∀ (f : FmtC) (s t : State) (c : Ctx), Issues (.call f) s c t → JumpResult (exec (.call f) s) c t (some f.d.toNat) fun _ => c.pc + BitVec.ofInt 64 (4 * f.x.toInt)) ∧
  ∀ (f : FmtR) (s t : State) (c : Ctx), Issues (.calli f) s c t → let target (l : Nat) : Quad := c.src2 .vec f.a.toNat l &&& ~~~3
    let excess (l : Nat) : Bool := c.act.getLsbD l && decide (c.gr.regs < (c.b f l).toNat)
    ((∀ l, l < 32 → excess l = false) → JumpResult (exec (.calli f) s) c t (some f.d.toNat) target) ∧
    ∀ m, m < 32 → excess m = true → ∃ info : TrapInfo, exec (.calli f) s = .next (s.trap c.w.id c.lanes info) ∧ info.code = 6 ∧ info.cause = 0 ∧ info.logged = false ∧
      info.word = c.word ∧ info.pc = c.pc ∧ info.active = c.act ∧ (∀ l, l < 32 → info.fault.getLsbD l = excess l) ∧
      info.faddr = 0 ∧ info.aux ≤ (target m).toNat ∧ ∃ l, l < 32 ∧ excess l = true ∧ info.aux = (target l).toNat

/-- meet sets MEET of the ACTIVE lanes to the label's address, or to the pair a as it stands, and the pair d receives the old one; nop changes nothing (R316, R322). -/
def Obligations.MeetWordsSetMeet : Prop :=
  (∀ (f : FmtC) (s t : State) (c : Ctx), Issues (.meetLabel f) s c t → MeetResult (exec (.meetLabel f) s) c t f.d.toNat fun _ => c.pc + BitVec.ofInt 64 (4 * f.x.toInt)) ∧
  (∀ (f : FmtDA) (s t : State) (c : Ctx), Issues (.meetRegister f) s c t → MeetResult (exec (.meetRegister f) s) c t f.d.toNat fun l => c.src2 .vec f.a.toNat l) ∧
  ∀ (f : FmtG0) (s t : State) (c : Ctx), Issues (.nop f) s c t → Completes (exec (.nop f) s) c t

/-- exit ends the ACTIVE lanes, whose open transactions go, and where a thread of the wave lives on nothing else of the wave changes but what the meeting rule releases; room that it frees is used (R147, R178, R317). yield of a native program gives up the gang when it has expired, or the head of a FIFO needs its room, and else does nothing (R161, R319). At the end of a Voxunet segment yield parks the ACTIVE threads there, with their successors' gathering noted; a successor that is no segment is ILLOP (R430, R432). The Voxunet readings: next writes its segment number, and next of a pair each thread's low word, to the register VREGS in each ACTIVE lane, and nothing else (R429, R430). The model's choice: log entries 17, 73 and 80. -/
def Obligations.ExitAndYieldLeave : Prop :=
  ((∀ (f : FmtG0) (s t : State) (c : Ctx), Issues (.exit f) s c t → Completes (exec (.exit f) s) c (t.endLanes c.w.id c.act).distribute) ∧
    (∀ (t : State) (id : Nat) (lanes : Lanes) (x : Wave), t.wave? id = some x → x.ended ||| lanes ≠ BitVec.allOnes 32 →
      t.endLanes id lanes = t.modWave id fun w => ({ w with ended := w.ended ||| lanes, txIn := w.txIn &&& ~~~lanes } : Wave).settle) ∧
    ∀ (f : FmtG0) (s t : State) (c : Ctx), Issues (.yield f) s c t →
      (c.gr.vox = none →
        (c.act ≠ 0 → (t.gang? c.ga.id).any (fun g => g.expired.isSome || t.headNeeds g.id) = true →
          Completes (exec (.yield f) s) c (t.modWave c.w.id fun w => { w with wake := wakeOf 9 0 })) ∧
        (c.act = 0 ∨ (t.gang? c.ga.id).any (fun g => g.expired.isSome || t.headNeeds g.id) = false → Completes (exec (.yield f) s) c t)) ∧
      ∀ m, c.vox = true → c.gr.vox = some m →
        ((∀ l, l < 32 → c.act.getLsbD l = true → (c.w.getV l c.vregs).toNat < m.segs.length) →
          ∃ (f1 : Wave → SMap 64) (g : Wave → Lanes), Completes (exec (.yield f) s) c (t.modWave c.w.id fun w => { w with pc := f1 w, parked := w.parked ||| c.act, gathering := g w }) ∧
            ∀ (w : Wave) (l : Nat), l < 32 → SMap.get (f1 w) l = (if c.act.getLsbD l = true then c.pc else w.pcOf l) ∧
              (g w).getLsbD l = if c.act.getLsbD l = true then (m.segs[(c.w.getV l c.vregs).toNat]?).any (fun e => e.gather) else w.gathering.getLsbD l) ∧
        ∀ l, l < 32 → c.act.getLsbD l = true → m.segs.length ≤ (c.w.getV l c.vregs).toNat →
          ∃ info : TrapInfo, exec (.yield f) s = .next (s.trap c.w.id c.lanes info) ∧ info.code = 0 ∧ info.cause = 0 ∧ info.pc = c.pc ∧ info.active = c.act ∧ info.fault.getLsbD l = true) ∧
  (∀ (s t : State) (c : Ctx), (∀ n : BitVec 22, Issues (.next n) s c t → VectorResult (exec (.next n) s) c t c.vregs fun _ => n.setWidth 32) ∧
      ∀ a : BitVec 7, Issues (.nextVa a) s c t → VectorResult (exec (.nextVa a) s) c t c.vregs fun l => lo32 (c.src2 .vec a.toNat l))

/-- bar and barnet: with no ACTIVE lane they only complete; a bar past the launch's BARS is ILLOP; else, once the wave's earlier writes are performed at the barrier's scope, the wave arrives and waits there, with its wake condition and the word that it will go past; and the barrier of a workgroup is released, each of its live waves going past its word, exactly when every live wave of the workgroup waits there. A barnet's participants are the live waves of the gang (quad), of the grid's gangs on the package, or of a persistent grid's gangs on the die; they go past their words together, each with the latest logical time among them, their cores' ordinary L1 lines going, exactly when all of them wait there, every gang that takes part has been placed and, at pod scope, the peers have arrived. An arrival in flight is performed once its fences are over, earlier accesses to its window are performed and its line is present: outside open side tiles LEFT falls by 1, and at 0 PHASE rises by 1 and LEFT becomes EXPECT, no other byte of the gang's space changing; of the waves that wait on the gang's records exactly those with a record unmet wait on (R124, R154, R155, R160, R320, R321, R353). Barrier objects: with no ACTIVE lane the words only complete; else, with every record's line in range, present and, but for bar.init, tagged: bar.init writes each lane's record with its count of expected arrivals, the pending count equal to it and phase 0, and tags its line; bar.arrive puts one arrival for each lane in flight, as a release; bar.wait completes, as an acquire at quad scope, when every lane's record has left the phase that its token names, a phase in an open side tile being a free value (R367), and else waits, KIND 3; bar.sync puts its arrivals in flight and waits (R62, R124, R352 to R354). The model's choice: log entry 16. -/
def Obligations.BarriersHoldAndRelease : Prop :=
  ((∀ (f : FmtBar) (s t : State) (c : Ctx), Issues (.bar f) s c t → (f.x.toNat < c.gr.bars → c.act = 0 → Completes (exec (.bar f) s) c t) ∧
      (c.gr.bars ≤ f.x.toNat → exec (.bar f) s = .next (s.trap c.w.id c.lanes (precise 0 0 c.word c.pc c.lanes c.lanes 0 0))) ∧
      (f.x.toNat < c.gr.bars → c.act ≠ 0 → s.writesDone c.w.id c.w.core 1 = true → exec (.bar f) s = .next (s.arriveAt c.w.id 1 f.x.toNat (.bar f)))) ∧
    (∀ (f : FmtNet) (s t : State) (c : Ctx), Issues (.barnet f) s c t → (c.act = 0 → Completes (exec (.barnet f) s) c t) ∧
      (c.act ≠ 0 → s.writesDone c.w.id c.w.core (s.netScope c.w f.s.toNat) = true → exec (.barnet f) s = .next (s.arriveAt c.w.id 2 f.s.toNat (.barnet f)))) ∧
    (∀ (s : State) (id a : Nat) (i : Instr) (w : Wave), s.wave? id = some w → let held : Wave := { w.withdraw.raise i.counter with wake := wakeOf 1 a, waiting := some i, releaser := 0 }
      let b : State := s.modWave id fun w => { w.withdraw.raise i.counter with wake := wakeOf 1 a, waiting := some i, releaser := 0 }
      let group := (b.wavesOfWg held.gang held.wg).filter Wave.alive
      a < 2 ^ 28 → b.wave? id = some held ∧
      (w.alive = true → (∀ x ∈ group, x.wake = held.wake) → s.arriveAt id 1 a i = b.modWaves (group.map fun x => x.id) fun x => x.leave (latest group) s.cycle.toNat) ∧
      ((∃ x ∈ group, x.wake ≠ held.wake) → s.arriveAt id 1 a i = b)) ∧
    (∀ (s : State) (id a : Nat) (i : Instr) (w : Wave), s.wave? id = some w → let held : Wave := { w.withdraw.raise i.counter with wake := wakeOf 2 a, waiting := some i, releaser := 0 }
      let b : State := s.modWave id fun w => { w.withdraw.raise i.counter with wake := wakeOf 2 a, waiting := some i, releaser := 0 }
      s.arriveAt id 2 a i = (if b.netScope held a = 3 then b.accept w.core (b.releasedBy id w.core 3) else b).tryRelease held) ∧
    (∀ (s : State) (w : Wave) (ga : Gang) (gr : Grid) (a : Nat), s.home? w = some (ga, gr) → w ∈ s.waves → w.alive = true → 2 ≤ a → a ≤ 5 → w.wake = wakeOf 2 a → let u := s.tryRelease w
      let parts := s.waves.filter fun x => decide (x.alive = true ∧ if a = 2 then x.gang = ga.id else (∃ g ∈ s.gangs, g.grid = gr.id ∧ g.id = x.gang) ∧ (a = 3 → gr.pers = true → dieOf x.core = dieOf w.core))
      let placed : Prop := a = 2 ∨ (if a = 3 ∧ gr.pers = true then min gr.lastGang (gr.device * 96 + dieOf w.core * 24 + 24) else gr.lastGang) ≤ gr.nextGang
      let whole : Prop := (∀ x ∈ parts, x.wake = w.wake) ∧ placed ∧ (a = 5 → gr.ndevice ≤ 1 ∨ gr.podUses < gr.podArrivals)
      (¬whole → u = s) ∧
      (whole → u.waves = s.waves.map (fun x => if ∃ y ∈ parts, y.id = x.id then x.leave (latest parts) s.cycle.toNat else x) ∧
        ∀ x ∈ u.caches.l1, (∃ y ∈ parts, y.core = x.core) → x.locked = true)) ∧
    ∀ (s : State) (a : Access) (w : Wave) (g : Gang) (l : AccLane) (noting : Bool), s.gang? w.gang = some g → (∀ t ∈ s.eng.matrix.tiles, t.gang = g.id → t.scaled = false) →
      let u := s.arriveRecord a w l noting
      let field (m : SMap 8) (k n : Nat) : Nat := natOfBytes (m.getRange (l.va + k) n)
      let left := (field g.bytes 2 2 + 65535) % 65536
      (∃ h, u.gang? g.id = some h ∧ (∀ o, o < l.va + 2 ∨ l.va + 8 ≤ o → h.bytes.get o = g.bytes.get o) ∧ field h.bytes 2 2 = (if left = 0 then field g.bytes 0 2 else left) ∧
        field h.bytes 4 4 = if left = 0 then (field g.bytes 4 4 + 1) % 2 ^ 32 else field g.bytes 4 4) ∧
      ((s.waves.map Wave.id).Nodup →
        (∀ x ∈ u.waves, x.gang = g.id → x.wakeKind = 3 → u.waitingCtx x ≠ none → ∃ y ∈ u.awaited x, y.2 = true) ∧
        ∀ x ∈ s.waves, ∀ f, x.gang = g.id → x.wakeKind = 3 → x.waiting = some (.barWait f) → (∃ y ∈ u.awaited x, y.2 = true) → ∃ y ∈ u.waves, y.id = x.id ∧ y.wakeKind = 3 ∧ y.waiting = x.waiting) ∧
      (s.flight? a.id = some a → a.kind = .arrive noting → s.wave? a.wave = some w → s.isResident w.gang = true → a.laneAt l.lane l.dest = some l → l.lane < 32 → l.status = .fresh →
        s.fenceHeld a.after = false → s.windowHeld a l = false → g.present l.va = true → exec (.storeAcknowledge a.id (laneBit l.lane) l.dest) s = .next (u.afterAccess a))) ∧
  (∀ (s t : State) (c : Ctx) (g : Gang), t.gang? c.ga.id = some g →
      let good (a : BitVec 7) : Prop := ∀ l, l < 32 → c.act.getLsbD l = true → inRange c.gr (c.record a l) = true ∧ c.record a l / 64 ∉ g.absent
      let tagged (a : BitVec 7) : Prop := ∀ l, l < 32 → c.act.getLsbD l = true → c.record a l / 64 ∈ g.tags
      let arrivals (a : BitVec 7) (noting : Bool) : MemOp := ⟨.arrive noting, none, (laneList c.act).map fun l => newLane l 0 (c.record a l) 0 0, false, true, 0⟩
      (∀ (a : BitVec 7) (l : Nat), c.record a l = (c.vsrc c.vimm a.toNat 0 l).toNat / 16 * 16) ∧
      (∀ f : FmtDA, Issues (.barInit f) s c t → (c.act = 0 → Completes (exec (.barInit f) s) c t) ∧
        (c.act ≠ 0 → good f.a → (∀ l, l < 32 → c.act.getLsbD l = true → 1 ≤ (c.vsrc c.vimm f.d.toNat 2 l).toNat ∧ (c.vsrc c.vimm f.d.toNat 2 l).toNat ≤ 65535 ∧
            t.lineAwaited g.id (c.record f.a l / 64) = false ∧ ∀ j < 16, t.inSide g.id (c.record f.a l + j) = false) → t.windowsBusy c.w.id ((laneList c.act).map (c.record f.a)) = false → t.fencesOf c.w.id = [] →
          Completes (exec (.barInit f) s) c ((laneList c.act).foldl (fun u l => (u.putLocal g.id (c.record f.a l)
            (bytesOfNat 16 ((c.vsrc c.vimm f.d.toNat 2 l).toNat + (c.vsrc c.vimm f.d.toNat 2 l).toNat * 2 ^ 16))).modGang g.id fun x =>
              { x with tags := x.tags.filter (fun k => k ≠ c.record f.a l / 64) ++ [c.record f.a l / 64] }) t))) ∧
      (∀ f : FmtA1, Issues (.barArrive f) s c t → good f.a → tagged f.a → Accesses (exec (.barArrive f) s) c t (arrivals f.a false) 2) ∧
      (∀ f : FmtDA, Issues (.barWait f) s c t → let phase (l : Nat) : Nat := if t.inSide g.id (c.record f.a l + 4) = true then (Config.freeWord t.fresh).toNat else g.phase (c.record f.a l)
        (c.act = 0 → Completes (exec (.barWait f) s) c t) ∧
        (c.act ≠ 0 → good f.a → tagged f.a → t.windowsBusy c.w.id ((laneList c.act).map (c.record f.a)) = false → t.readsBack c.w.id = true →
          t.storesPending g.id ((laneList c.act).map (c.record f.a)) = false →
          ((∀ l, l < 32 → c.act.getLsbD l = true → phase l ≠ (c.vsrc c.vimm f.d.toNat 2 l).toNat) → Completes (exec (.barWait f) s) c ((t.mergeStaging c.ga.id).invalidateL1 c.w.core)) ∧
          ∀ m, m < 32 → c.act.getLsbD m = true → phase m = (c.vsrc c.vimm f.d.toNat 2 m).toNat →
            (∀ l, l < m → c.act.getLsbD l = true → phase l ≠ (c.vsrc c.vimm f.d.toNat 2 l).toNat) →
            exec (.barWait f) s = .next (s.block c.w.id 3 (c.record f.a m / 16) (.barWait f)))) ∧
      ∀ f : FmtA1, Issues (.barSync f) s c t → (c.act = 0 → Completes (exec (.barSync f) s) c t) ∧
        (c.act ≠ 0 → good f.a → tagged f.a → t.storesPending g.id ((laneList c.act).map (c.record f.a)) = false → c.unheld (arrivals f.a true) t = true → Completes (exec (.barSync f) s) c
          ((c.flown (arrivals f.a true) 2 t).modWave c.w.id fun w =>
            { c.w with st := w.st, wake := wakeOf 3 (c.record f.a (lowestLane c.act) / 16), waiting := some (.barSync f), phases := some [], releaser := 0 })))

/-- A hint word issues where its wave may and it is neither a third in a row nor a second of its kind: the group stands at the next word, which the hint waits for, and nothing else of the machine changes; a stall hint holds the wave's issue for its count of cycles (R268 to R270). A third, or a second of its kind, is ILLOP. The model's choice: log entries 13 and 82. -/
def Obligations.HintWordsWait : Prop :=
  ∀ (i : Instr) (stall : Nat) (s : State) (w : Wave) (ga : Gang) (gr : Grid) (pc : Quad) (lanes : Lanes),
    ((∃ e, i = .hintExt e) ∧ stall = 0 ∨ (∃ n : BitVec 4, i = .hintStall n ∧ stall = n.toNat) ∨ i = .hintNeg ∧ stall = 0 ∨ (∃ m, i = .hintRnd m) ∧ stall = 0 ∨
      (∃ x, i = .hintSat x) ∧ stall = 0 ∨ (∃ y x, i = .hintCache y x) ∧ stall = 0 ∨ i = .hintNb ∧ stall = 0 ∨ i = .hintDtree ∧ stall = 0) →
    s.wave? s.issuer = some w → s.home? w = some (ga, gr) → s.canIssue w ga = true → w.nextGroup = some (pc, lanes) →
    (s.ctx gr.asid).fetchMatches w pc = [] →
    (w.hints.length < 2 ∧ i.hintKind ∉ w.hintKinds ∧ i.legal gr.regs = true → ∃ f : Wave → SMap 64, exec i s = .next (s.modWave w.id fun x => ({ x with
        pc := f x, released := x.released &&& ~~~lanes, time := x.time + 1, seq := x.seq + 1, lastIssue := s.cycle.toNat, backFrom := none
        hintPc := if x.hints = [] then pc else x.hintPc, hintLanes := lanes, hints := x.hints ++ [(encode i).getD 0]
        stallUntil := if stall = 0 then x.stallUntil else s.cycle.toNat + stall } : Wave).settle) ∧
      ∀ (x : Wave) (l : Nat), l < 32 → SMap.get (f x) l = if lanes.getLsbD l = true then pc + 4 else x.pcOf l) ∧
    (2 ≤ w.hints.length ∨ i.hintKind ∈ w.hintKinds →
      exec i s = .next (s.trap w.id lanes ⟨0, 0, false, false, (encode i).getD 0, pc, lanes, lanes, 0, 0, 0, 0⟩))

/-! ### Words that access memory -/

/-- The access that each global load and store, lock and prefetch makes: its kind, destination, each ACTIVE lane's address (the pair plus the offset scaled by the size, modulo 2^64) and data, its order and its cache hint; with no ACTIVE lane the word only completes (R269, R323 to R326, R333 to R335). ldlod of a native wave: with no ACTIVE lane it completes; else, once the resource entries that its lanes name are read, its access is in flight with each lane's coordinates and the resource it names (R330 to R332). -/
def Obligations.LoadsAndStoresAccess : Prop :=
  ((∀ (f : FmtM) (s t : State) (c : Ctx),
      let lanes (n : Nat) (data : Nat → Quad) : List AccLane := (laneList c.act).map fun l =>
        newLane l 0 (c.src2 .vec f.a.toNat l + BitVec.ofNat 64 (f.k.toNat * n)).toNat (data l) 0
      let load (n : Nat) (signed : Bool) : MemOp := ⟨.load n signed (f.o = 1) (f.o = 3 || (c.hints.cache.getD 0).getLsbD 0), destOf f.d.toNat (if n = 8 then 2 else 1),
        lanes n fun _ => 0, f.o = 1, false, c.hints.cache.getD 0⟩
      let store (n : Nat) : MemOp := ⟨.store n, none, lanes n fun l => if n = 8 then c.src2 .vec f.d.toNat l else (c.vsrc c.vimm f.d.toNat 2 l).setWidth 64,
        false, f.o = 2, if f.o = 3 then 2 else c.hints.cache.getD 0⟩
      (Issues (.ldZ8 f) s c t → Accesses (exec (.ldZ8 f) s) c t (load 1 false) 1) ∧ (Issues (.ldI8 f) s c t → Accesses (exec (.ldI8 f) s) c t (load 1 true) 1) ∧
      (Issues (.ldZ16 f) s c t → Accesses (exec (.ldZ16 f) s) c t (load 2 false) 1) ∧ (Issues (.ldI16 f) s c t → Accesses (exec (.ldI16 f) s) c t (load 2 true) 1) ∧
      (Issues (.ld32 f) s c t → Accesses (exec (.ld32 f) s) c t (load 4 false) 1) ∧ (Issues (.ld64 f) s c t → Accesses (exec (.ld64 f) s) c t (load 8 false) 1) ∧
      (Issues (.st8 f) s c t → Accesses (exec (.st8 f) s) c t (store 1) 2) ∧ (Issues (.st16 f) s c t → Accesses (exec (.st16 f) s) c t (store 2) 2) ∧
      (Issues (.st32 f) s c t → Accesses (exec (.st32 f) s) c t (store 4) 2) ∧ (Issues (.st64 f) s c t → Accesses (exec (.st64 f) s) c t (store 8) 2)) ∧
    (∀ (f : FmtDA) (s t : State) (c : Ctx),
      let lanes : List AccLane := (laneList c.act).map fun l => newLane l 0 (c.src2 .vec f.a.toNat l).toNat 0 0
      (Issues (.lck f) s c t → Accesses (exec (.lck f) s) c t ⟨.lock, destOf f.d.toNat 1, lanes, false, false, 0⟩ 1) ∧
      (Issues (.ulk f) s c t → Accesses (exec (.ulk f) s) c t ⟨.unlock, destOf f.d.toNat 1, lanes, false, false, 0⟩ 1)) ∧
    ∀ (f : FmtA1) (s t : State) (c : Ctx), Issues (.pref f) s c t → Accesses (exec (.pref f) s) c t
      ⟨.pref ((c.hints.cache.getD 0).getLsbD 0), none, (laneList c.act).map fun l => newLane l 0 (c.src2 .vec f.a.toNat l).toNat 0 0, false, false, c.hints.cache.getD 0⟩ 0) ∧
  (∀ (f : FmtL) (s t u : State) (c : Ctx) (es : List (Nat × BitVec 512)), Issues (.ldlod f) s c t →
      (c.act = 0 → Completes (exec (.ldlod f) s) c t) ∧
      (c.act ≠ 0 → c.entries f.r.toNat t = .ok (es, u) → c.gr.det = false → ∃ (lanes : List AccLane) (a : Access),
        Completes (exec (.ldlod f) s) c { u with flights := u.flights ++ [a], nextId := u.nextId + 1 } ∧
        a.id = u.nextId ∧ a.wave = c.w.id ∧ a.kind = .lod es f.z.toNat f.l.toNat f.p.toNat ∧ a.dst = some (f.d.toNat, 2) ∧ a.lanes = lanes ∧ a.counter = 1 ∧
        lanes.map (fun x => x.lane) = laneList c.act ∧ ∀ x ∈ lanes, x.status = .fresh ∧ x.data = (c.w.getV x.lane (f.d.toNat + 2)).setWidth 64 ∧
          x.data2 = (c.w.getV x.lane (f.d.toNat + 3)).setWidth 64 ∧ x.side = es.findIdx fun e => e.1 = (c.ssrc f.r.toNat 0 x.lane).toNat))

/-- The access that each atomic and multi-destination store makes: the operation, destination, addresses and operands of the ACTIVE lanes, and its orders; red and rdst under a dtree hint make one access for each address, by the first lane that names it and with the lanes' tree sum, and the other lanes are over (R226, R269, R271); mcst and rdst make one for each lane and destination of the list, at the destination's base plus the size times the lane's number, and a list that R341 does not allow is ILLOP (R337 to R343). The model's choice: log entries 28 and 85. -/
def Obligations.AtomicsAccess : Prop :=
  (∀ (f : FmtA) (s t : State) (c : Ctx),
    let op (n : Nat) (data : Nat → Quad) : MemOp := ⟨.atomic f.p.toNat n true, destOf f.d.toNat (if n = 8 then 2 else 1),
      (laneList c.act).map fun l => newLane l 0 (c.src2 .vec (2 * f.k.toNat) l).toNat (data l) 0, f.o.getLsbD 0, f.o.getLsbD 1, 0⟩
    (Issues (.atom32 f) s c t → Accesses (exec (.atom32 f) s) c t (op 4 fun l => (c.vsrc c.vimm f.b.toNat 1 l).setWidth 64) 1) ∧
    (Issues (.atom64 f) s c t → Accesses (exec (.atom64 f) s) c t (op 8 fun l => c.src2 .vec f.b.toNat l) 1)) ∧
  (∀ (f : FmtAcas) (s t : State) (c : Ctx), Issues (.acas f) s c t → Accesses (exec (.acas f) s) c t (if f.w = 1 then
      ⟨.cas 8, destOf f.d.toNat 2, (laneList c.act).map fun l => newLane l 0 (c.src2 .vec (2 * f.k.toNat) l).toNat (c.src2 .vec f.b.toNat l) (c.src2 .vec (f.b.toNat + 2) l),
        f.o.getLsbD 0, f.o.getLsbD 1, 0⟩
    else ⟨.cas 4, destOf f.d.toNat 1, (laneList c.act).map fun l => newLane l 0 (c.src2 .vec (2 * f.k.toNat) l).toNat ((c.vsrc c.vimm f.b.toNat 1 l).setWidth 64)
      ((c.vsrc c.vimm (f.b.toNat + 1) 1 l).setWidth 64), f.o.getLsbD 0, f.o.getLsbD 1, 0⟩) 1) ∧
  (∀ (f : FmtRed) (s t : State) (c : Ctx), Issues (.red f) s c t →
    let n := if f.w = 1 then 8 else 4
    let ea (l : Nat) : Nat := (c.src2 .vec (2 * f.k.toNat) l).toNat
    let data (l : Nat) : Quad := if n = 8 then c.src2 .vec f.b.toNat l else (c.vsrc c.vimm f.b.toNat 1 l).setWidth 64
    let lanes := (laneList c.act).map fun l => newLane l 0 (ea l) (data l) 0
    Accesses (exec (.red f) s) c t ⟨.atomic f.p.toNat n false, none, if c.hints.dtree then combined lanes else lanes, false, f.o = 2, 0⟩ 2) ∧
  (∀ (ls before after : List AccLane) (l : AccLane), ls = before ++ l :: after → l ∉ before → (combined ls)[before.length]? =
    some (if before.any fun m => m.va = l.va then { l with status := .done } else { l with data := dtreeSum (ls.filter fun m => m.va = l.va) })) ∧
  (∀ (f : FmtMcst) (s t : State) (c : Ctx),
    let n := if f.w = 1 then 8 else 4
    Issues (.mcst f) s c t → ((∀ l, l < 32 → c.act.getLsbD l = true → c.listBad f.l.toNat l = false) →
      Accesses (exec (.mcst f) s) c t ⟨.multi none n, none, (fun x => if c.hints.dtree then combined x else x)
        (c.multiLanes f.l.toNat n fun l => if n = 8 then c.src2 .vec f.d.toNat l else (c.vsrc c.vimm f.d.toNat 2 l).setWidth 64), false, f.o = 2, 0⟩ 2) ∧
      ∀ l, l < 32 → c.act.getLsbD l = true → c.listBad f.l.toNat l = true → exec (.mcst f) s = .next (s.trap c.w.id c.lanes (precise 0 0 c.word c.pc c.act c.act 0 0))) ∧
  (∀ (f : FmtRdst) (s t : State) (c : Ctx),
    let n := if f.w = 1 then 8 else 4
    Issues (.rdst f) s c t → ((∀ l, l < 32 → c.act.getLsbD l = true → c.listBad f.l.toNat l = false) →
      Accesses (exec (.rdst f) s) c t ⟨.multi (some f.p.toNat) n, none, (fun x => if c.hints.dtree then combined x else x)
        (c.multiLanes f.l.toNat n fun l => if n = 8 then c.src2 .vec f.d.toNat l else (c.vsrc c.vimm f.d.toNat 2 l).setWidth 64), false, f.o = 2, 0⟩ 2) ∧
      ∀ l, l < 32 → c.act.getLsbD l = true → c.listBad f.l.toNat l = true → exec (.rdst f) s = .next (s.trap c.w.id c.lanes (precise 0 0 c.word c.pc c.act c.act 0 0))) ∧
  ∀ (c : Ctx) (list n : Nat) (data : Nat → Quad) (x : AccLane), x ∈ c.multiLanes list n data ↔
    ∃ k l, k < 8 ∧ l < 32 ∧ c.act.getLsbD l = true ∧ k < (c.ssrc list 0 l).toNat % 16 ∧
      x = newLane l k (c.src2 .scal (list + 2 + 2 * k) l + BitVec.ofNat 64 (n * (l % c.width))).toNat (data l) 0

/-- An access in flight is one more entry with the next name, the wave, core and context, the word and its address, the lanes still to be translated, the release fences of its wave that a write waits for and the scope it acquires; a release puts its fence in flight before it, which waits for every access and query of the wave and, at quad scope or wider, for every write of its core; a global access of a deterministic launch is performed at once. Nothing else of the machine changes, but that an atomic, a compare and swap or a multi-destination store removes its lines from the core's own L1, locked or not: those lines and no others leave it, and a load of one that is still out installs none (R47, R110, R127, R165, R195, R325). -/
def Obligations.AccessEntersFlight : Prop :=
  (∀ (c : Ctx) (op : MemOp) (counter : Nat) (t : State), (∃ l ∈ op.lanes, l.status ≠ .done) →
    let scope := if op.kind.isGlobal then t.scopeOf c.w.core c.gr.asid c.w.priv (op.lanes.map fun x => x.va) else 2
    let t1 : State := if op.release = true then t.addFence c.w c.gr.asid scope else t
    let r : State := match op.kind with
      | .atomic _ _ _ | .cas _ | .multi _ _ => t1.removeLines c.w.core c.gr.asid (op.lanes.map fun x => x.va)
      | _ => t1
    ∃ a : Access, let u : State := { r with flights := r.flights ++ [a], nextId := t1.nextId + 1 }
      c.flown op counter t = (if c.gr.det = true ∧ op.kind.isGlobal = true then u.performAll a.id else u) ∧
      a.id = t1.nextId ∧ a.after = (if op.kind.afterRelease then r.fencesOf c.w.id else []) ∧ a.wave = c.w.id ∧ a.core = c.w.core ∧ a.asid = c.gr.asid ∧ a.kind = op.kind ∧ a.word = c.word ∧ a.pc = c.pc ∧ a.active = c.act ∧ a.seq = c.w.seq ∧
      a.dst = op.dst ∧ a.lanes = op.lanes ∧ a.privileged = c.w.priv ∧ a.counter = counter ∧ a.log = none ∧ a.taken = false ∧
      a.acquire = if op.acquire = true then some scope else none) ∧
  (∀ (t : State) (w : Wave) (asid scope : Nat), ∃ f : Access, t.addFence w asid scope = ({ t with flights := t.flights ++ [f], nextId := t.nextId + 1 } : State).settleFences ∧
    f.id = t.nextId ∧ f.kind = .fence scope ∧ f.wave = w.id ∧ f.core = w.core ∧ f.lanes = [] ∧ f.counter = 0 ∧
    ∀ n, n ∈ f.after ↔ (∃ b ∈ t.flights, b.id = n ∧ (∀ k, b.kind ≠ .fence k) ∧ (b.wave = w.id ∨ 2 ≤ scope ∧ b.core = w.core ∧ b.kind.writes = true)) ∨
      ∃ q ∈ t.eng.queries, q.id = n ∧ q.wave = w.id) ∧
  ∀ (s : State) (core asid : Nat) (vas : List Nat), let u := s.removeLines core asid vas
    u = { s with caches := { s.caches with l1 := u.caches.l1 }, flights := u.flights } ∧
    (∀ x, x ∈ u.caches.l1 ↔ x ∈ s.caches.l1 ∧ ¬(x.core = core ∧ x.asid = asid ∧ x.decoded = false ∧ ∃ va ∈ vas, va / 64 = x.line)) ∧
    u.flights.length = s.flights.length ∧ ∀ (k : Nat) (b : Access), s.flights[k]? = some b → ∃ no : Bool, u.flights[k]? = some { b with noInstall := no } ∧
      (no = true ↔ b.noInstall = true ∨ b.core = core ∧ b.asid = asid ∧ b.kind.cached = true ∧
        ∃ l ∈ b.lanes, (l.status = .fresh ∨ l.status = .ready) ∧ ∃ va ∈ vas, va / 64 = l.va / 64)

/-- Gang-local loads and stores: with no ACTIVE lane they only complete; else, with every lane's offset (its register plus the scaled offset, modulo 2^32, with the bits below the size cleared) in range and present, and no store to a barrier line, the access is in flight; an offset out of range is GLRANGE on exactly the lanes that have one, and an absent line a wait, KIND 5, before any lane's effect (R42, R59, R327 to R329). The model's choice: log entry 85. -/
def Obligations.LocalWordsAccess : Prop :=
  ∀ (f : FmtM) (s t : State) (c : Ctx) (g : Gang), t.gang? c.ga.id = some g →
    let ofs (n l : Nat) : Nat := (c.vsrc c.vimm f.a.toNat 0 l + BitVec.ofNat 32 (f.k.toNat * n)).toNat / n * n
    let lanes (n : Nat) (data : Nat → Quad) : List AccLane := (laneList c.act).map fun l => newLane l 0 (ofs n l) (data l) 0
    let load (n : Nat) : MemOp := ⟨.localLoad n, destOf f.d.toNat (if n = 8 then 2 else 1), lanes n fun _ => 0, f.o = 1, false, 0⟩
    let store (n : Nat) : MemOp := ⟨.localStore n, none, lanes n fun l => if n = 8 then c.src2 .vec f.d.toNat l else (c.vsrc c.vimm f.d.toNat 2 l).setWidth 64, false, f.o = 2, 0⟩
    let good (n : Nat) : Prop := ∀ l, l < 32 → c.act.getLsbD l = true → inRange c.gr (ofs n l) = true ∧ ofs n l / 64 ∉ g.absent
    let untagged (n : Nat) : Prop := ∀ l, l < 32 → c.act.getLsbD l = true → ofs n l / 64 ∉ g.tags
    let stops (n : Nat) (i : Instr) : Prop :=
      (∀ m, m < 32 → c.act.getLsbD m = true → inRange c.gr (ofs n m) = false → ∃ info : TrapInfo, exec i s = .next (s.trap c.w.id c.lanes info) ∧ info.code = 1 ∧ info.cause = 6 ∧
        info.active = c.act ∧ (∀ l, l < 32 → info.fault.getLsbD l = (c.act.getLsbD l && !inRange c.gr (ofs n l)))) ∧
      ((∀ l, l < 32 → c.act.getLsbD l = true → inRange c.gr (ofs n l) = true) → ∀ m, m < 32 → c.act.getLsbD m = true → ofs n m / 64 ∈ g.absent →
        (∀ l, l < m → c.act.getLsbD l = true → ofs n l / 64 ∉ g.absent) → exec i s = .next (s.block c.w.id 5 (ofs n m / 64) i))
    (Issues (.lds32 f) s c t → (good 4 → Accesses (exec (.lds32 f) s) c t (load 4) 1) ∧ stops 4 (.lds32 f)) ∧
    (Issues (.lds64 f) s c t → (good 8 → Accesses (exec (.lds64 f) s) c t (load 8) 1) ∧ stops 8 (.lds64 f)) ∧
    (Issues (.sts32 f) s c t → (good 4 → untagged 4 → Accesses (exec (.sts32 f) s) c t (store 4) 2) ∧ stops 4 (.sts32 f)) ∧
    (Issues (.sts64 f) s c t → (good 8 → untagged 8 → Accesses (exec (.sts64 f) s) c t (store 8) 2) ∧ stops 8 (.sts64 f))

/-- txb opens a transaction in the ACTIVE lanes with empty sets, txa drops theirs (R345). A txld or a txst in lanes outside a transaction: the read is made and recorded nowhere, the write is not made; a txst of a lane in one adds its word to the write set, through a translation that permits a read and a write, and its line leaves the core's own L1 (R47, R346). txc of lanes none of which commits writes its predicate false there at once; of one lane that may, leaves its commit under way with the words of the other ACTIVE lanes gone (R347). A txld gives an aborted lane 0, and a lane that has the word its value, from the write set before the read set; only the other lanes read, and a lane in a transaction records what its read returns, eight bytes at the home, as a word of its read set. A txst replaces the value of a word that its lane's write set has, and else adds the word. A lane that would hold a ninth word to read or a fifth to write, or a word outside the local window or on a HOME 10 page, is TXLIMIT: precise, on exactly those lanes, with no effect in any (R345, R346). TRANSACTION_COMMIT of the lane whose turn it is, with nothing to wait for and outside an order log: when every word of its read set still holds the value it read, its write set is written, each word of eight bytes at its physical address; else nothing is; and either way the lane is no more to commit, its words are gone, and it is noted as committed or as having failed (R117, R118, R347). The model's choice: log entry 29. -/
def Obligations.TransactionsRun : Prop :=
  ((∀ (f : FmtG0) (s t : State) (c : Ctx), t.committing c.w.id = false → t.txReading c.w.id c.act = false →
      (Issues (.txb f) s c t → Completes (exec (.txb f) s) c (t.modWave c.w.id fun w =>
        { w with txIn := (w.txIn &&& ~~~c.act) ||| c.act, txAbort := w.txAbort &&& ~~~c.act, txSet := w.txSet.filter fun x => !c.act.getLsbD x.lane })) ∧
      (Issues (.txa f) s c t → Completes (exec (.txa f) s) c (t.modWave c.w.id fun w =>
        { w with txIn := w.txIn &&& ~~~c.act, txSet := w.txSet.filter fun x => !c.act.getLsbD x.lane }))) ∧
    (∀ (f : FmtDA) (s t : State) (c : Ctx), t.committing c.w.id = false → c.w.txIn &&& c.act = 0 →
      (Issues (.txst f) s c t → c.act = 0 ∨ c.unheld ⟨.txWrite, none, (laneList c.act).map fun l =>
        { newLane l 0 (c.src2 .vec f.a.toNat l).toNat (c.src2 .vec f.d.toNat l) 0 with status := .done }, false, false, 0⟩ t = true → Completes (exec (.txst f) s) c t) ∧
      (Issues (.txld f) s c t → (c.act = 0 → Completes (exec (.txld f) s) c (t.reportFlight t.nextId)) ∧
        let op : MemOp :=
          ⟨.txRead, destOf f.d.toNat 2, (laneList c.act).map fun l => newLane l 0 (c.src2 .vec f.a.toNat l).toNat 0 0, false, false, 0⟩
        (c.act ≠ 0 → c.unheld op t = true → Completes (exec (.txld f) s) c ((c.flown op 1 t).reportFlight t.nextId)))) ∧
    (∀ (f : FmtDA) (s t t1 : State) (c : Ctx) (l : Nat) (tr : Trans), t.committing c.w.id = false → laneList c.act = [l] → c.w.txIn.getLsbD l = true → c.w.txAbort.getLsbD l = false →
      let va := (c.src2 .vec f.a.toNat l).toNat
      va % 8 = 0 → va < 2 ^ 60 → (t.translate (quadOf c.w.core) c.gr.asid va needBoth c.w.priv 0).1 = .ok tr → t.txForbidden tr = false → t.foreign c.w va = false →
      t1 = ((t.removeLines c.w.core c.gr.asid [va]).translate (quadOf c.w.core) c.gr.asid va needBoth c.w.priv 0).2 →
      (c.w.txWords l true).length < 4 → (∀ x ∈ c.w.txWords l true, x.va ≠ va ∧ x.pa ≠ t.localPa tr.pa) →
      c.unheld ⟨.txWrite, none, [newLane l 0 va (c.src2 .vec f.d.toNat l) 0], false, false, 0⟩ t = true →
      Issues (.txst f) s c t → Completes (exec (.txst f) s) c (t1.modWave c.w.id fun w => { w with txSet := w.txSet ++ [⟨l, t.localPa tr.pa, va, tr.leaf, tr.side, c.src2 .vec f.d.toNat l, true⟩] })) ∧
    (∀ (f : FmtTxc) (s t : State) (c : Ctx) (l : Nat), Issues (.txc f) s c t → t.committing c.w.id = false → t.txReading c.w.id c.act = false → t.txUnreported c.w c.act = false →
      c.gr.det = false → l < 32 → c.act &&& c.w.txIn &&& ~~~c.w.txAbort = laneBit l → (c.w.txFails.get l).toNat < 16 →
      ∃ g : Wave → Wave, Completes (exec (.txc f) s) c (t.modWave c.w.id g) ∧ ∀ w : Wave, (g w).id = w.id ∧ (g w).v = w.v ∧ (g w).s = w.s ∧ (g w).p = w.p ∧ (g w).pc = w.pc ∧
        (g w).txIn = w.txIn &&& ~~~c.act ∧ (g w).txTodo = laneBit l ∧ (g w).txDone = c.act ∧ (g w).txCommitted = 0 ∧ (g w).txPred = some f.p ∧ (g w).txId = t.nextId ∧
        ∀ x, x ∈ (g w).txSet ↔ x ∈ w.txSet ∧ (x.lane = l ∨ c.act.getLsbD x.lane = false)) ∧
    ∀ (f : FmtTxc) (s t : State) (c : Ctx), Issues (.txc f) s c t → (c.act = 0 → Completes (exec (.txc f) s) c t) ∧
      (c.act ≠ 0 → t.committing c.w.id = false → t.txReading c.w.id c.act = false → t.txUnreported c.w c.act = false → c.gr.det = false →
        (∀ l, l < 32 → c.act.getLsbD l = true → c.w.txIn.getLsbD l = false ∨ c.w.txAbort.getLsbD l = true) →
        ∃ g : Wave → Wave, Completes (exec (.txc f) s) c (t.modWave c.w.id g) ∧ ∀ w : Wave, (g w).id = w.id ∧ (g w).v = w.v ∧ (g w).s = w.s ∧ (g w).pc = w.pc ∧
          (g w).txIn = w.txIn &&& ~~~c.act ∧ (g w).txTodo = 0 ∧ (∀ x ∈ (g w).txSet, c.act.getLsbD x.lane = false) ∧
          ∀ l n, l < 32 → (g w).getP l n = if n = f.p.toNat ∧ n ≠ 0 ∧ c.act.getLsbD l = true then false else w.getP l n)) ∧
  ((∀ (f : FmtDA) (s t : State) (c : Ctx), t.committing c.w.id = false → c.act ≠ 0 →
      let va (l : Nat) : Nat := (c.src2 .vec f.a.toNat l).toNat
      let tr (need : Need) (l : Nat) : Except Flt Trans := (t.translate (quadOf c.w.core) c.gr.asid (va l) need c.w.priv 0).1
      let pa (need : Need) (l : Nat) : Option Nat := match tr need l with | .ok p => some (t.localPa p.pa) | .error _ => none
      let bad (need : Need) (l : Nat) : Bool := match tr need l with | .ok p => (decide (windowOf (t.localPa p.pa) ≠ 0) || decide (leafHome p.leaf = 2)) && !t.foreign c.w (va l) | .error _ => false
      let held (need : Need) (write : Bool) (l : Nat) : Option TxWord := c.w.txSet.find? fun x => decide (x.lane = l ∧ x.write = write ∧ (x.va = va l ∨ pa need l = some x.pa))
      let live (l : Nat) : Bool := c.w.txIn.getLsbD l && !c.w.txAbort.getLsbD l
      let good (l : Nat) : Bool := decide (va l % 8 = 0 ∧ va l < 2 ^ 60)
      let hit (l : Nat) : Bool := c.w.txIn.getLsbD l && (c.w.txAbort.getLsbD l || good l && ((held needRead true l).isSome || (held needRead false l).isSome))
      let due (l : Nat) : Bool := (t.txPending c.w.id l).any fun p => decide (p.1 = va l ∨ pa needRead l = some p.2)
      let value (l : Nat) : Quad := if c.w.txAbort.getLsbD l = true then 0 else match held needRead true l, held needRead false l with | some x, _ => x.value | none, some x => x.value | none, none => 0
      let full (l : Nat) : Bool := live l && good l && !hit l && !due l && (decide (8 ≤ (c.w.txWords l false).length + (t.txPending c.w.id l).length) || bad needRead l)
      let over_ (l : Nat) : Bool := live l && good l && (held needBoth true l).isNone && (decide (4 ≤ (c.w.txWords l true).length) || bad needBoth l)
      let limit (i : Instr) (on : Nat → Bool) : Prop := ∀ m, m < 32 → c.act.getLsbD m = true → on m = true → ∃ info : TrapInfo, exec i s = .next (s.trap c.w.id c.lanes info) ∧ info.code = 9 ∧ info.cause = 0 ∧
        info.logged = false ∧ info.active = c.act ∧ ∀ l, l < 32 → info.fault.getLsbD l = (c.act.getLsbD l && on l)
      (Issues (.txld f) s c t → limit (.txld f) full ∧
        let op : MemOp := ⟨.txRead, destOf f.d.toNat 2, (laneList c.act).map fun l =>
          if hit l = true then { newLane l 0 (va l) 0 0 with status := .done } else newLane l 0 (va l) (if c.w.txIn.getLsbD l = true then 1 else 0) 0, false, false, 0⟩
        ((∀ l, l < 32 → c.act.getLsbD l = true → full l = false ∧ (live l && good l && !hit l && due l) = false) → c.unheld op t = true → ∃ v : Wave → SMap 32,
          Completes (exec (.txld f) s) c (((c.flown op 1 t).modWave c.w.id fun w => { w with v := v w }).reportFlight t.nextId) ∧
          ∀ (w : Wave) (l n : Nat), l < 32 → n ≤ 111 → SMap.get (v w) (vKey l n) = if f.d.toNat ≤ 110 ∧ c.act.getLsbD l = true ∧ hit l = true ∧ n = f.d.toNat then lo32 (value l)
            else if f.d.toNat ≤ 110 ∧ c.act.getLsbD l = true ∧ hit l = true ∧ n = f.d.toNat + 1 then hi32 (value l) else w.getV l n)) ∧
      (Issues (.txst f) s c t → limit (.txst f) over_ ∧
        let op : MemOp := ⟨.txWrite, none, (laneList c.act).map fun l => let x := newLane l 0 (va l) (c.src2 .vec f.d.toNat l) 0; if live l = true then x else { x with status := .done }, false, false, 0⟩
        ((∀ l, l < 32 → c.act.getLsbD l = true → live l = true → good l = true ∧ over_ l = false ∧ t.foreign c.w (va l) = false ∧ (tr needBoth l).isOk = true) → c.unheld op t = true →
          ∃ (u : State) (set : Wave → List TxWord), Completes (exec (.txst f) s) c u ∧ u.waves = (t.modWave c.w.id fun w => { w with txSet := set w }).waves ∧ u.flights = (t.removeLines c.w.core c.gr.asid
              (((laneList c.act).filter live).map va)).flights ∧ ∀ w x, x ∈ set w ↔
            (∃ y ∈ w.txSet, x = if y.write = true ∧ c.act.getLsbD y.lane = true ∧ live y.lane = true ∧ (held needBoth true y.lane).any (fun h => decide (h.pa = y.pa ∧ h.va = y.va)) = true
              then { y with value := c.src2 .vec f.d.toNat y.lane } else y) ∨
            ∃ l p, l < 32 ∧ c.act.getLsbD l = true ∧ live l = true ∧ held needBoth true l = none ∧ tr needBoth l = .ok p ∧
              x = ⟨l, t.localPa p.pa, va l, p.leaf, p.side, c.src2 .vec f.d.toNat l, true⟩))) ∧
    ∀ (s : State) (a : Access) (w : Wave) (ga : Gang) (gr : Grid) (l : AccLane), s.flight? a.id = some a → s.wave? a.wave = some w → s.home? w = some (ga, gr) → s.isResident w.gang = true →
      a.laneAt l.lane 0 = some l → l.lane < 32 → s.fenceHeld a.after = false → a.kind = .txRead → l.status = .ready → s.locationHeld a l = false → s.storeUnwritten a l = false → s.homeHeld a l = false →
      gr.det = false → (s.ctx a.asid).ordlog.getLsbD 0 = false → (s.ctx a.asid).ordlog.getLsbD 1 = false → let x : Quad := BitVec.ofNat 64 (natOfBytes (lineBytes (s.lineHome a.asid l.pa l.leaf.toNat).1 (l.va % 64) 8))
      ∃ u : State, exec (.loadReturn a.id (laneBit l.lane) none) s = .next (((u.deliver a l.lane x).laneTo a.id l.lane 0 .done).afterAccess a) ∧ u.mem = (s.lineHome a.asid l.pa l.leaf.toNat).2.mem ∧
        u.waves = ((s.lineHome a.asid l.pa l.leaf.toNat).2.modWave w.id fun y => if l.data = 1 ∧ y.txIn.getLsbD l.lane = true ∧ y.txAbort.getLsbD l.lane = false then
          { y with txSet := y.txSet ++ [⟨l.lane, l.pa, l.va, l.leaf.toNat, l.side, x, false⟩] } else y).waves) ∧
  (∀ (s s1 : State) (w : Wave) (ga : Gang) (gr : Grid) (lane : Nat) (ok : Bool), s.wave? w.id = some w → s.home? w = some (ga, gr) → lane < 32 → s.commitTurn w = some lane → w.alive = true →
      w.txTodo.getLsbD lane = true → s.commitWaits w lane = false → (s.ctx gr.asid).ordlog.getLsbD 0 = false → (s.ctx gr.asid).ordlog.getLsbD 1 = false →
      let words := w.txSet.filter fun x => x.lane = lane
      s.validates gr.asid (words.filter fun x => !x.write) = (ok, s1) →
      ∃ (u : State) (f : Wave → Wave), exec (.transactionCommit w.id lane) s = .next (u.modWave w.id f) ∧
        u.mem = (if ok = true then (words.filter fun x => x.write).foldl (fun t x => t.writeHome gr.asid x.va x.pa x.leaf x.side (bytesOfNat 8 x.value.toNat)) s1 else s1).mem ∧ u.waves = (if ok = true then (words.filter fun x => x.write).foldl (fun t x => t.writeHome gr.asid x.va x.pa x.leaf x.side (bytesOfNat 8 x.value.toNat)) s1 else s1).waves ∧
        ∀ y : Wave, (f y).txTodo = y.txTodo &&& ~~~laneBit lane ∧ (∀ x, x ∈ (f y).txSet ↔ x ∈ y.txSet ∧ x.lane ≠ lane) ∧ (f y).v = y.v ∧ (f y).pc = y.pc ∧
          (y.txTodo &&& ~~~laneBit lane ≠ 0 → (f y).p = y.p ∧ (f y).txCommitted = if ok = true then y.txCommitted ||| laneBit lane else y.txCommitted) ∧
          (y.txTodo &&& ~~~laneBit lane = 0 → ∀ l q, l < 32 → (f y).getP l q = if q = (y.txPred.map BitVec.toNat).getD 0 ∧ q ≠ 0 ∧ y.txDone.getLsbD l = true then
            ((if ok = true then y.txCommitted ||| laneBit lane else y.txCommitted).getLsbD l) else y.getP l q))

/-- fence, wait and the invalidations: with no ACTIVE lane they only complete, and with all that they wait for over: an acquire fence removes the core's ordinary L1 lines that are not locked, at quad scope or wider; a release fence enters the flights with what it waits for; an ar or sc fence waits for both, and at die scope the stores that it waited for are accepted by the die; wait completes when each counter is at or below its field, a field of 15 placing no condition; a fence or wait that is held leaves the state as it is; cinv.line, cinv.unl, cinv.all, cinv.iline and cinv.iall remove the lines that they name from the core's own L1 or L1 instruction cache and no others, keep a fill of such a line from being installed, and change nothing else (R50, R108, R110, R121, R274, R336, R349). The model's choice: log entry 35. -/
def Obligations.FencesWaitsAndInvalidations : Prop :=
  (∀ (f : FmtFence) (s t : State) (c : Ctx), Issues (.fence f) s c t → (c.act = 0 → Completes (exec (.fence f) s) c t) ∧
    let acquired (u : State) : State := if 2 ≤ f.s.toNat then u.invalidateL1 c.w.core else u
    let ready : Prop := match f.o.toNat with
      | 0 => t.readsBack c.w.id = true
      | 1 => t.reportsIn c.w.id = true ∧ t.loggedFault c.w.id = false
      | _ => t.readsBack c.w.id = true ∧ t.writesDone c.w.id c.w.core f.s.toNat = true
    (c.act ≠ 0 → ¬ready → exec (.fence f) s = .next s) ∧
    (c.act ≠ 0 → f.o = 0 → ready → Completes (exec (.fence f) s) c (acquired t)) ∧
    (c.act ≠ 0 → f.o = 1 → ready → ∃ a : Access, a.id = t.nextId ∧ a.wave = c.w.id ∧ a.core = c.w.core ∧ a.kind = .fence f.s.toNat ∧ a.lanes = [] ∧
      a.after = t.releasedBy c.w.id c.w.core f.s.toNat ∧ Completes (exec (.fence f) s) c ({ t with flights := t.flights ++ [a], nextId := t.nextId + 1 } : State).settleFences) ∧
    (c.act ≠ 0 → 2 ≤ f.o.toNat → ready → Completes (exec (.fence f) s) c (acquired (if f.s = 3 then t.accept c.w.core (t.releasedBy c.w.id c.w.core 3) else t)))) ∧
  (∀ (s : State) (core : Nat), let u := s.invalidateL1 core
    (∀ x, x ∈ u.caches.l1 ↔ x ∈ s.caches.l1 ∧ (x.core ≠ core ∨ x.locked = true)) ∧ u.caches = { s.caches with l1 := u.caches.l1 } ∧ u.flights.length = s.flights.length ∧
      (∀ (k : Nat) (a : Access), s.flights[k]? = some a → u.flights[k]? = some (if a.core = core ∧ (∃ l ∈ a.lanes, l.status = .ready) then { a with noInstall := true } else a)) ∧
      u = { s with caches := u.caches, flights := u.flights }) ∧
  (∀ (f : FmtWait) (s t : State) (c : Ctx),
    let under (x : BitVec 6) (n : BitVec 4) : Prop := n = 15 ∨ x.toNat ≤ n.toNat
    Issues (.wait f) s c t → (c.act = 0 → Completes (exec (.wait f) s) c t) ∧
    (c.act ≠ 0 → under c.w.ld f.l → under c.w.st f.s → under c.w.cp f.c → under c.w.tl f.t → Completes (exec (.wait f) s) c
      ((if f.c = 0 ∧ c.w.copied = true ∨ f.t = 0 ∧ c.w.drained = true then t.invalidateL1 c.w.core else t).modWave c.w.id fun w =>
        { w with copied := w.copied && decide (f.c ≠ 0), drained := w.drained && decide (f.t ≠ 0) })) ∧
    (c.act ≠ 0 → ¬(under c.w.ld f.l ∧ under c.w.st f.s ∧ under c.w.cp f.c ∧ under c.w.tl f.t) → exec (.wait f) s = .next s)) ∧
  (∀ (f : FmtA1) (s t : State) (c : Ctx),
    let named (x : CacheLine) : Prop := ∃ l, l < 32 ∧ c.act.getLsbD l = true ∧ (c.src2 .vec f.a.toNat l).toNat < 2 ^ 60 ∧ (c.src2 .vec f.a.toNat l).toNat / 64 = x.line
    let asked (fl : List Access) : Prop := fl.length = t.flights.length ∧ ∀ (k : Nat) (a : Access), t.flights[k]? = some a → ∃ b : Bool, fl[k]? = some { a with noInstall := b } ∧
      (b = true ↔ a.noInstall = true ∨ a.core = c.w.core ∧ a.asid = c.gr.asid ∧ ∃ x ∈ a.lanes, x.status = .ready ∧ ∃ l, l < 32 ∧ c.act.getLsbD l = true ∧
        (c.src2 .vec f.a.toNat l).toNat < 2 ^ 60 ∧ (c.src2 .vec f.a.toNat l).toNat / 64 = x.va / 64)
    (Issues (.cinvLine f) s c t → ∃ (l1 : List CacheLine) (fl : List Access), Completes (exec (.cinvLine f) s) c { t with caches := { t.caches with l1 }, flights := fl } ∧
      asked fl ∧ ∀ x, x ∈ l1 ↔ x ∈ t.caches.l1 ∧ ¬(x.core = c.w.core ∧ x.asid = c.gr.asid ∧ named x ∧ x.locked = false)) ∧
    (Issues (.cinvUnl f) s c t → ∃ (l1 : List CacheLine) (fl : List Access), Completes (exec (.cinvUnl f) s) c { t with caches := { t.caches with l1 }, flights := fl } ∧
      asked fl ∧ ∀ x, x ∈ l1 ↔ x ∈ t.caches.l1 ∧ ¬(x.core = c.w.core ∧ x.asid = c.gr.asid ∧ named x)) ∧
    (Issues (.cinvIline f) s c t → ∃ l1i : List CacheLine, Completes (exec (.cinvIline f) s) c { t with caches := { t.caches with l1i } } ∧
      ∀ x, x ∈ l1i ↔ x ∈ t.caches.l1i ∧ ¬(x.core = c.w.core ∧ x.asid = c.gr.asid ∧ named x))) ∧
  ∀ (f : FmtG0) (s t : State) (c : Ctx),
    (Issues (.cinvAll f) s c t → Completes (exec (.cinvAll f) s) c (if c.act = 0 then t else t.invalidateL1 c.w.core)) ∧
    (Issues (.cinvIall f) s c t → ∃ l1i : List CacheLine, Completes (exec (.cinvIall f) s) c { t with caches := { t.caches with l1i } } ∧
      ∀ x, x ∈ l1i ↔ x ∈ t.caches.l1i ∧ ¬(c.act ≠ 0 ∧ x.core = c.w.core))

/-! ### Registers, traps and handlers -/

/-- csrr: a register that unprivileged code may not read is ILLOP there, whatever the guard; with no ACTIVE lane the word only completes; else the scalar pair receives the register's 64 bits and a destination of 124 discards them; a legacy register raises LEGACY with its subcode (R219, R416 to R418). csrw acts once for the wave with the scalar pair's value; a write that wants privilege is ILLOP without it; with no ACTIVE lane the word only completes. A context register takes the bits that are not reserved, those held on each core on the issuing core; FPC goes to the context and the gang's copy; GEOQSEL, PLRES and PINSIZE (while no gang stands on the core) take theirs; SWTRAP raises SOFTWARE with the value's low byte, a legacy register LEGACY; PROOFPULL records the wave slots as they stand (R6, R60, R188, R206, R214, R219, R258, R416 to R418). The rows of SWTRAP, FPC, PROOFPULL and the legacy registers are these words. A csrw to SDPOST or CLPOST reads the 32-byte descriptor at the value through the wave's context, and, while fewer than 16 posts of its kind are in flight, completes: a descriptor that R38 and R67 allow puts its work in flight under a name of its own, and another only has its STATUS written REJECTED; with 16 in flight the wave waits, KIND 0. The rows SDPOST and CLPOST are these words, and the rows of the legacy reads are their csrr (R38, R67, R219, R418). The model's choice: log entries 31, 79 and 85. -/
def Obligations.SpecialRegistersReadAndWrite : Prop :=
  (∀ (f : FmtY) (s t : State) (c : Ctx), Issues (.csrr f) s c t → let n := f.c.toNat
      let y := t.ctx c.gr.asid
      let privileged := n = 0x008 ∨ (0x020 ≤ n ∧ n ≤ 0x02A) ∨ n = 0x030 ∨ (0x050 ≤ n ∧ n ≤ 0x057)
      let gives (v : Quad) : Prop := Completes (exec (.csrr f) s) c (if f.r.toNat ≤ 94 then t.modWave c.w.id fun w => (w.setS f.r.toNat (lo32 v)).setS (f.r.toNat + 1) (hi32 v) else t)
      (privileged → c.w.priv = false → exec (.csrr f) s = .next (s.trap c.w.id c.lanes (precise 0 0 c.word c.pc c.lanes c.lanes 0 0))) ∧
      (¬privileged → c.act = 0 → Completes (exec (.csrr f) s) c t) ∧
      (0x010 ≤ n ∧ n ≤ 0x014 → c.act ≠ 0 → exec (.csrr f) s =
        .next (s.trap c.w.id c.lanes (precise 8 (if n = 0x010 then 1 else n - 0x010 + 2) c.word c.pc c.act c.act 0 0))) ∧
      (c.act ≠ 0 → (n = 0x000 → gives c.ga.fpc) ∧ (n = 0x001 → gives c.w.tstat) ∧ (n = 0x002 → gives c.w.team) ∧ (n = 0x003 → c.w.tl = 0 → gives (t.mxstat c.w)) ∧
        (n = 0x004 → gives c.w.geoqsel) ∧ (n = 0x005 → gives (BitVec.ofNat 64 (t.geoqcnt c.gr.asid c.w.geoqsel % 2 ^ 32))) ∧
        (n = 0x006 → gives (BitVec.ofNat 64 ((t.ctx c.gr.asid).trbase.toNat + 1024 * (64 * c.w.core + c.w.slot))))) ∧
      (c.act ≠ 0 → c.w.priv = true → (n = 0x008 → gives c.ga.plres) ∧ (n = 0x020 → gives y.tvbase) ∧ (n = 0x021 → gives y.trbase) ∧ (n = 0x022 → gives y.svbase) ∧
        (n = 0x023 → gives y.svsize) ∧ (n = 0x024 → gives y.crbase) ∧ (n = 0x025 → gives (y.lkquota.get c.w.core)) ∧ (n = 0x026 → gives (y.lkpbase.get c.w.core)) ∧
        (n = 0x027 → gives (y.lkpsize.get c.w.core)) ∧ (n = 0x028 → gives y.ordlog) ∧ (n = 0x029 → gives y.ordlen) ∧ (n = 0x02A → gives y.ordpos) ∧
        (n = 0x030 → gives (t.pinsize.get c.w.core)) ∧ ∀ k, k < 4 → (n = 0x050 + k → gives (y.waddr.get k)) ∧ (n = 0x054 + k → gives (y.wctl.get k)))) ∧
  (∀ (f : FmtY) (s t : State) (c : Ctx), Issues (.csrw f) s c t → let n := f.c.toNat
      let v : Quad := c.src2 .scal f.r.toNat (lowestLane c.act)
      let becomes (u : State) : Prop := Completes (exec (.csrw f) s) c u
      let inContext (g : Context → Context) : Prop := becomes (t.modCtx c.gr.asid g)
      (¬(n = 0x004 ∨ n = 0x007 ∨ (0x010 ≤ n ∧ n ≤ 0x014)) → c.w.priv = false → exec (.csrw f) s = .next (s.trap c.w.id c.lanes (precise 0 0 c.word c.pc c.lanes c.lanes 0 0))) ∧
      (n = 0x004 ∨ n = 0x007 ∨ (0x010 ≤ n ∧ n ≤ 0x014) ∨ c.w.priv = true → c.act = 0 → becomes t) ∧
      (c.act ≠ 0 → (n = 0x004 → becomes (t.modWave c.w.id fun w => { w with geoqsel := v &&& 0xFFFFFFFF000FFFFF })) ∧
        (n = 0x007 → exec (.csrw f) s = .next (s.trap c.w.id c.lanes (precise 13 (v.toNat % 256) c.word c.pc c.act c.act 0 0)) ∧ exec (.swtrap f) s = exec (.csrw f) s) ∧
        (0x010 ≤ n ∧ n ≤ 0x014 → exec (.csrw f) s = .next (s.trap c.w.id c.lanes (precise 8 (n - 0x010 + 2) c.word c.pc c.act c.act 0 0)) ∧
          exec (.legacyRegisterAccess true f) s = exec (.csrw f) s)) ∧
      (c.act ≠ 0 → c.w.priv = true →
        (n = 0x000 → becomes ((t.modCtx c.gr.asid fun x => { x with fpc := v &&& 0x3F }).modGang c.ga.id fun g => { g with fpc := v &&& 0x3F }) ∧ exec (.fpcWrite f) s = exec (.csrw f) s) ∧
        (n = 0x008 → becomes (t.modGang c.ga.id fun g => { g with plres := v &&& 0xFFFFFFFF })) ∧
        (n = 0x020 → inContext fun x => { x with tvbase := v &&& 0x0FFFFFFFFFFFFF80 }) ∧ (n = 0x021 → inContext fun x => { x with trbase := v &&& 0x0FFFFFFFFF000000 }) ∧
        (n = 0x022 → inContext fun x => { x with svbase := v &&& 0x0FFFFFFFFFFFF000 }) ∧ (n = 0x023 → inContext fun x => { x with svsize := v &&& 0xFFFF }) ∧
        (n = 0x024 → inContext fun x => { x with crbase := v &&& 0x0FFFFFFFFFFFFFC1 }) ∧
        (n = 0x025 → inContext fun x => { x with lkquota := x.lkquota.set c.w.core (if v &&& 0x3FFF ≤ 8192 then v &&& 0x3FFF else 8192) }) ∧
        (n = 0x026 → inContext fun x => { x with lkpbase := x.lkpbase.set c.w.core (v &&& 0x0FFFFFFFFFE00000) }) ∧
        (n = 0x027 → inContext fun x => { x with lkpsize := x.lkpsize.set c.w.core (v &&& 0xFFFF) }) ∧
        (n = 0x028 → inContext fun x => { x with ordlog := v &&& 0x0FFFFFFFFFFFFFC3 }) ∧ (n = 0x029 → inContext fun x => { x with ordlen := v &&& 0xFFFFFFFF }) ∧
        (n = 0x02A → becomes ((t.modCtx c.gr.asid fun x => { x with ordpos := v &&& 0xFFFFFFFF }).modCaches fun k => { k with ordUsed := k.ordUsed.filter fun u => u.1 ≠ c.gr.asid })) ∧
        (n = 0x030 → becomes (if (∀ g ∈ t.gangs, g.resident = true → c.w.core ∉ g.cores) then { t with pinsize := t.pinsize.set c.w.core (BitVec.ofNat 64 (min (v.toNat % 128) 64)) } else t)) ∧
        (n = 0x042 → ∃ proofs, becomes (t.modKiln fun k => { k with proofs }) ∧ exec (.proofPullWrite f) s = exec (.csrw f) s) ∧
        ∀ k, k < 4 → (n = 0x050 + k → inContext fun x => { x with waddr := x.waddr.set k v }) ∧ (n = 0x054 + k → inContext fun x => { x with wctl := x.wctl.set k (v &&& 0x1FF) }))) ∧
  (∀ (f : FmtY) (s t u : State) (c : Ctx) (d : Nat), Issues (.csrw f) s c t → let v : Nat := (c.src2 .scal f.r.toNat (lowestLane c.act)).toNat
      let sweep : Sweep := ⟨u.nextId, .wave c.gr.asid, c.gr.asid, v, d / 2 ^ 112 % 2 ^ 8, d % 2 ^ 64, d / 2 ^ 64 % 2 ^ 32, d / 2 ^ 96 % 2 ^ 12, d.testBit 120⟩
      let kind := d / 2 ^ 112 % 2 ^ 8
      let bad (bare : Prop) : Prop := d / 2 ^ 108 % 2 ^ 4 ≠ 0 ∨ d / 2 ^ 121 % 2 ^ 7 ≠ 0 ∨ d / 2 ^ 192 % 2 ^ 64 ≠ 0 ∨ 2 < kind ∨
        (¬bare ∧ (d / 2 ^ 64 % 2 ^ 32 = 0 ∨ 2 ^ 28 < d / 2 ^ 64 % 2 ^ 32 ∨ d % 2 ^ 12 ≠ 0 ∨ d / 2 ^ 60 % 2 ^ 4 ≠ 0))
      (c.w.priv = true → c.act ≠ 0 → t.readDesc c.gr.asid v true = .ok (d, u) →
        (f.c = 0x040 → t.eng.shootdowns.length < 16 → exec (.sdpost f) s = exec (.csrw f) s ∧
          (¬bad (kind = 1 ∨ kind = 2) → Completes (exec (.csrw f) s) c (({ u with nextId := u.nextId + 1 } : State).modEng fun e => { e with shootdowns := e.shootdowns ++ [sweep] })) ∧
          (bad (kind = 1 ∨ kind = 2) → Completes (exec (.csrw f) s) c (u.putStatus c.gr.asid v 2))) ∧
        (f.c = 0x041 → t.eng.cleans.length < 16 → exec (.clpost f) s = exec (.csrw f) s ∧
          (¬bad (kind = 2) → Completes (exec (.csrw f) s) c (({ u with nextId := u.nextId + 1 } : State).modEng fun e => { e with cleans := e.cleans ++ [sweep] })) ∧
          (bad (kind = 2) → Completes (exec (.csrw f) s) c (u.putStatus c.gr.asid v 2))) ∧
        (f.c = 0x040 → 16 ≤ t.eng.shootdowns.length → exec (.csrw f) s = .next (s.block c.w.id 0 0 (.csrw f))) ∧
        (f.c = 0x041 → 16 ≤ t.eng.cleans.length → exec (.csrw f) s = .next (s.block c.w.id 0 0 (.csrw f)))) ∧
      ∀ g : FmtY, 0x010 ≤ g.c.toNat ∧ g.c.toNat ≤ 0x014 → exec (.legacyRegisterAccess false g) s = exec (.csrr g) s)

/-- smask sets TM to its bit, and when it clears TM a held pre-emption request goes with it, while one that the gang was sent before is held, from its arrival, when TM is set; clock gives the pair the cycle counter, or the wave's logical time in a deterministic launch; rng gives each ACTIVE lane a draw of RngMix and adds 1 to its count register; smask without PRIV is ILLOP; with no ACTIVE lane they only complete (R165, R204, R228 to R231, R420 to R423). trapret without PRIV is ILLOP; with it and no ACTIVE lane it only completes; with its stores performed it returns: where the record can be read, TM and PRIV are zero and every live thread that ENDMASK does not end has its PC, MEET and predicates, and the wave s92 to s95, from the record, its other registers as they are, and the threads that ENDMASK names end (R199, R420). The model's choice: log entry 31. -/
def Obligations.SystemWordsAct : Prop :=
  ((∀ (f : FmtSmask) (s t : State) (c : Ctx), Issues (.smask f) s c t →
      (c.w.priv = false → exec (.smask f) s = .next (s.trap c.w.id c.lanes (precise 0 0 c.word c.pc c.lanes c.lanes 0 0))) ∧
      (c.w.priv = true → c.act = 0 → Completes (exec (.smask f) s) c t) ∧
      (c.w.priv = true → c.act ≠ 0 → f.m = 1 → (t.requestedAt c.w.gang = none → Completes (exec (.smask f) s) c (t.modWave c.w.id fun w => w.setTstat true w.priv w.prepend)) ∧
        ∀ came, t.requestedAt c.w.gang = some came → Completes (exec (.smask f) s) c (t.modWave c.w.id fun w =>
          if w.prepend = true then w.setTstat true w.priv true else { w.setTstat true w.priv true with heldSince := some came })) ∧
      (c.w.priv = true → c.act ≠ 0 → f.m = 0 → Completes (exec (.smask f) s) c (t.modWave c.w.id fun w => { w.setTstat false w.priv false with heldSince := none }))) ∧
    (∀ (f : FmtD) (s t : State) (c : Ctx), Issues (.clock f) s c t → let x : Quad := if c.gr.det = true then c.w.time else s.cycle
      (c.act = 0 → Completes (exec (.clock f) s) c t) ∧
      (c.act ≠ 0 → Completes (exec (.clock f) s) c (if f.d.toNat ≤ 94 then t.modWave c.w.id fun w => (w.setS f.d.toNat (lo32 x)).setS (f.d.toNat + 1) (hi32 x) else t))) ∧
    (∀ (f : FmtRng) (s t : State) (c : Ctx), Issues (.rng f) s c t →
      let draw (l : Nat) : Word :=
        rngMix (BitVec.ofNat 64 c.gr.launchId) (BitVec.ofNat 32 (wglin c.gr c.ga c.w)) (BitVec.ofNat 32 (c.w.index * 32 + l)) (c.w.getV l f.c.toNat)
      let value (l : Nat) : Word := if f.f = 1 then BitVec.ofNat 32 (f32.round 0 false ((draw l).toNat / 2 ^ 8) (2 ^ 24)) else draw l
      (f.d.toNat ≤ 111 → f.c.toNat ≤ 111 → VectorsBecome (exec (.rng f) s) t c.w.id fun w l n =>
        if c.act.getLsbD l = true ∧ n = f.c.toNat then c.w.getV l f.c.toNat + 1 else if c.act.getLsbD l = true ∧ n = f.d.toNat then value l else w.getV l n) ∧
      (f.d.toNat = 124 → f.c.toNat ≤ 111 → VectorsBecome (exec (.rng f) s) t c.w.id fun w l n =>
        if c.act.getLsbD l = true ∧ n = f.c.toNat then c.w.getV l f.c.toNat + 1 else w.getV l n)) ∧
    ∀ (w : Wave) (a b p : Bool), (w.setTstat a b p).tm = a ∧ (w.setTstat a b p).priv = b ∧ (w.setTstat a b p).prepend = p ∧ { w.setTstat a b p with tstat := w.tstat } = w) ∧
  ((∀ (f : FmtTret) (s t : State) (c : Ctx), Issues (.trapret f) s c t →
      (c.w.priv = false → exec (.trapret f) s = .next (s.trap c.w.id c.lanes (precise 0 0 c.word c.pc c.lanes c.lanes 0 0))) ∧
      (c.w.priv = true → c.act = 0 → Completes (exec (.trapret f) s) c t) ∧
      (c.w.priv = true → c.act ≠ 0 → t.storesOut c.w.id = false → c.gr.det = false →
        Completes (exec (.trapret f) s) c (t.trapReturn c.w (f.x = 1) c.word c.pc c.act).distribute)) ∧
    (∀ (s u : State) (w : Wave) (bs : List Byte) (replay : Bool) (word : Word) (pc : Quad) (active : Lanes),
      s.coreRead w.core (s.asidOf w) (s.traddr (s.asidOf w) w) 1024 true = .ok (bs, u) → s.trapReturn w replay word pc active =
        ((u.replayLog w (natIn bs 28 4) replay).modWave w.id fun x => x.restore bs (BitVec.ofNat 32 (natIn bs 40 4))).endLanes w.id (BitVec.ofNat 32 (natIn bs 40 4))) ∧
    ∀ (w : Wave) (bs : List Byte) (gone : Lanes), let y := w.restore bs gone
      y.tm = false ∧ y.priv = false ∧ y.ended = w.ended ∧ y.v = w.v ∧ y.heldSince = none ∧
      (∀ l, l < 32 → let back := !w.ended.getLsbD l && !gone.getLsbD l
        (back = true → y.pcOf l = BitVec.ofNat 64 (natIn bs (64 + 8 * l) 8) ∧ y.meetOf l = BitVec.ofNat 64 (natIn bs (320 + 8 * l) 8) ∧
          ∀ k, 1 ≤ k → k ≤ 7 → y.getP l k = (natIn bs (576 + l) 1).testBit (k - 1)) ∧
        (back = false → y.pcOf l = w.pcOf l ∧ y.meetOf l = w.meetOf l ∧ ∀ k, y.getP l k = w.getP l k)) ∧
      (∀ j, j < 4 → y.getS (92 + j) = BitVec.ofNat 32 (natIn bs (608 + 4 * j) 4)) ∧ ∀ n, n < 92 → y.getS n = w.getS n)

/-- Taking a trap with traps unmasked, its record written and its vector read and not zero: every live thread stands at the vector with MEET all ones, TM and PRIV are set, s92:s93 hold the record's address, an open transaction fails and loses its words, and the wave's other registers, predicates and ended lanes are as before; memory is as the record's writes left it, but for what the vector's read notes (R190, R191, R348). What the trap record holds (R192): in its first 64 bytes the code, the cause, whether the trap is logged and the entry's LOD bit, how many log entries it names, the word, its address, the lanes that issued and that faulted, the destination and log masks and the faulting address; then each live thread's PC, MEET and predicates, and s92 to s95, each at its place. -/
def Obligations.TrapEntryEntersHandler : Prop :=
  (∀ (s s1 s2 : State) (w x : Wave) (info : TrapInfo) (v : Nat), w.tm = false → info.code ≠ 11 → let asid := s.asidOf w
      let record := s.traddr asid w
      (recordParts w info).foldl (fun (acc : Except (Flt × Nat) State) p => acc.bind fun z => z.ctxWrite asid (record + p.1) p.2 needWrite true (some w.core)) (.ok s) = .ok s1 →
      s1.ctxNat asid ((s1.ctx asid).tvbase.toNat + 8 * info.code) 8 needRead true = .ok (v, s2) → v ≠ 0 → s2.wave? w.id = some x →
      ∃ y, (s.trapEntry w info).wave? w.id = some y ∧ y.tm = true ∧ y.priv = true ∧
        (∀ l, l < 32 → y.pcOf l = (if x.ended.getLsbD l = true then x.pcOf l else BitVec.ofNat 64 v) ∧ y.meetOf l = if x.ended.getLsbD l = true then x.meetOf l else BitVec.allOnes 64) ∧
        y.getS 92 = BitVec.ofNat 32 record ∧ y.getS 93 = BitVec.ofNat 32 (record / 2 ^ 32) ∧ (∀ n, n ≠ 92 → n ≠ 93 → y.getS n = x.getS n) ∧ y.v = x.v ∧ y.p = x.p ∧
        y.ended = x.ended ∧ y.team = x.team ∧ y.time = x.time ∧ y.txIn = x.txIn ∧ y.txAbort = x.txAbort ||| x.txIn ∧ y.txSet = [] ∧ (s.trapEntry w info).mem = s2.mem) ∧
  ((∀ t : TrapInfo, t.code < 2 ^ 8 → t.cause < 2 ^ 8 → t.destmask < 2 ^ 32 → t.logmask < 2 ^ 32 → t.faddr < 2 ^ 64 → t.aux < 2 ^ 96 → let h := natOfBytes t.header
      t.header.length = 64 ∧ h % 2 ^ 8 = t.code ∧ h / 2 ^ 8 % 2 ^ 8 = t.cause ∧ h.testBit 16 = t.logged ∧ h.testBit 17 = t.lod ∧
      h / 2 ^ 18 % 2 ^ 6 = laneCount (BitVec.ofNat 32 t.logmask) ∧ h / 2 ^ 24 % 2 ^ 8 = 0 ∧ h / 2 ^ 32 % 2 ^ 32 = t.word.toNat ∧ h / 2 ^ 64 % 2 ^ 64 = t.pc.toNat ∧
      h / 2 ^ 128 % 2 ^ 32 = t.active.toNat ∧ h / 2 ^ 160 % 2 ^ 32 = t.fault.toNat ∧ h / 2 ^ 192 % 2 ^ 32 = t.destmask ∧ h / 2 ^ 224 % 2 ^ 32 = t.logmask ∧
      h / 2 ^ 256 % 2 ^ 64 = t.faddr ∧ h / 2 ^ 320 % 2 ^ 32 = 0 ∧ h / 2 ^ 352 % 2 ^ 96 = t.aux ∧ h / 2 ^ 448 = 0) ∧
    (∀ (w : Wave) (t : TrapInfo) (p : Nat × List Byte), p ∈ recordParts w t ↔ p = (0, t.header) ∨
      (∃ l, l < 32 ∧ w.ended.getLsbD l = false ∧ (p = (64 + 8 * l, bytesOfNat 8 (w.pcOf l).toNat) ∨ p = (320 + 8 * l, bytesOfNat 8 (w.meetOf l).toNat) ∨
        ∃ b : Byte, p = (576 + l, [b]) ∧ (∀ k, k < 7 → b.getLsbD k = w.getP l (k + 1)) ∧ b.getLsbD 7 = false)) ∨
      p = (608, bytesOfNat 4 (w.getS 92).toNat ++ bytesOfNat 4 (w.getS 93).toNat ++ bytesOfNat 4 (w.getS 94).toNat ++ bytesOfNat 4 (w.getS 95).toNat)))

/-! ### Words that command an engine -/

/-- A matrix word of a member of a team that is whole, of which no member waits on another word, enters the rendezvous latch; team does so with a value that R361 allows, and with a value of no members makes the wave leave its team at once. A wave in the latch keeps its place with its counter raised and waits, KIND 7 (R153, R160, R355, R356, R361). A latch completes only when every listed member is there on the same word: then the word is checked on the member at position 0, and is posted in its quad's table as the next entry in order, with every member past the word and its logical time one more than the largest among them; a check that fails gives every member a precise trap and posts nothing, and one whose reads must wait leaves them waiting; a full table leaves them waiting too; a drain's or a fold's writes are noted for wait (R121, R153, R164, R182, R355). A team is formed when every member that the value lists waits on it, each with its own position (R361). The model's choice: log entries 36, 37 and 39. -/
def Obligations.MatrixWordsMeet : Prop :=
  ((∀ (i : Instr) (s t : State) (c : Ctx), ((∃ f, i = .mxbeg f) ∨ (∃ f, i = .mxop f) ∨ (∃ f, i = .mxopZero f) ∨ (∃ d, i = .mxfold d) ∨ i = .mxres ∨ i = .mxend ∨
        (∃ d n, i = .mxdrnI32 d n) ∨ (∃ d n, i = .mxdrnI64 d n) ∨ ∃ d n, i = .mxdrnF32 d n) → Issues i s c t →
      t.committing c.w.id = false → t.teamsNaming c.w = [] → (∀ x ∈ t.heldWith c.w, x.waiting = some i) →
      (teamList c.w.team ≠ [] → t.teamBroken c.ga.id c.w.team = false → Completes (exec i s) c ((c.hold i t).tryLatch c.w.id)) ∧
      (teamList c.w.team = [] ∨ t.teamBroken c.ga.id c.w.team = true → exec i s = .next (s.trap c.w.id c.lanes (precise 0 0 c.word c.pc c.act c.act 0 0)))) ∧
    (∀ (n : BitVec 5) (s t : State) (c : Ctx), Issues (.team n) s c t → t.committing c.w.id = false → t.heldWith c.w = [] →
      let v : Quad := c.w.getS (n.toNat + 1) ++ c.w.getS n.toNat
      (∀ x ∈ t.teamsNaming c.w, x = v) →
      (v = 0 → t.teamOpen c.w = false → Completes (exec (.team n) s) c (t.modWave c.w.id fun w => { w with team := 0 })) ∧
      (teamList v ≠ [] → t.teamWrong c.w v = false → Completes (exec (.team n) s) c ((c.hold (.team n) t).tryLatch c.w.id))) ∧
    ∀ (c : Ctx) (i : Instr) (t : State) (w : Wave), t.wave? c.w.id = some w → ∃ x, (c.hold i t).wave? c.w.id = some x ∧ x = { c.w.withdraw.raise i.counter with
      wake := wakeOf 7 0, waiting := some i, releaser := 0 }) ∧
  (∀ (s : State) (w w0 : Wave) (ga : Gang) (gr : Grid) (i : Instr) (ms : List Wave), s.wave? w.id = some w → s.home? w = some (ga, gr) → w.waiting = some i →
      let ids := (w0 :: ms).map fun x => x.id
      let past (u : State) : State := u.modWaves ids fun x => x.leave (latest (w0 :: ms)) u.cycle.toNat
      (w.teamAsked = none → s.members ga.id w.team = w0 :: ms →
        (allHeld (w0 :: ms) i = false ∨ (w0 :: ms).length ≠ (teamList w.team).length → s.tryLatch w.id = s) ∧
        (allHeld (w0 :: ms) i = true → (w0 :: ms).length = (teamList w.team).length →
          (∀ f a u, s.latchCheck gr w0 ga.id (teamKey w0.team) i ((mxRegs i).map w0.getS) = .error (f, a, u) →
            (f.held = true → s.tryLatch w.id = s) ∧ (f.held = false → s.tryLatch w.id = u.modWaves ids fun x => x.latchTrap f.code f.cause a f.lod)) ∧
          ∀ p, s.latchCheck gr w0 ga.id (teamKey w0.team) i ((mxRegs i).map w0.getS) = .ok p →
            (s.tableRoom (quadOf w0.core) = false → s.tryLatch w.id = p.st) ∧
            (s.tableRoom (quadOf w0.core) = true → ∃ e : MxEntry, s.tryLatch w.id = (past (p.st.modMatrix fun m => { m with table := m.table ++ [e], nextOrder := m.nextOrder + 1 })).modWaves ids (fun x =>
                { x with drained := x.drained || Instr.drains i }) ∧
              e.quad = quadOf w0.core ∧ e.gang = ga.id ∧ e.team = teamKey w0.team ∧ e.tile = p.tile ∧ e.cls = gr.cls ∧ e.order = p.st.eng.matrix.nextOrder ∧ e.instr = i ∧
              e.regs = (mxRegs i).map w0.getS ∧ e.privileged = w0.priv ∧ e.pages = p.pages ∧ e.scales = p.scales))) ∧
      ∀ v, w.teamAsked = some v → s.members ga.id v = w0 :: ms → (w0 :: ms).length = (teamList v).length →
        (∀ x ∈ w0 :: ms, x.alive = true ∧ x.teamAsked = some v ∧ ∀ e ∈ x.engineTraps, e.precise = false) →
        s.tryLatch w.id = past (s.modWaves ids fun x => { x with team := teamKey v ||| BitVec.ofNat 64 (8 * (teamList v).idxOf x.gangIndex) }))

/-- cpy: with no ACTIVE lane it only completes; else, once its operands pass the checks and the entry it needs is read, its queue has room, and no earlier gang-local access of the wave to its destination lines or, under release, report is missing, and it needs no ticket, a copy of no bytes is over at once, CP falling again, and any other command is the last of its queue, with its destination lines absent and the operands of the lowest ACTIVE lane; cpyf puts a queue fence for its mask there (R59, R132, R382 to R391). The model's choice: log entries 44 and 45. -/
def Obligations.CopyWordsEnqueue : Prop :=
  (∀ (f : FmtK) (s t u : State) (c : Ctx) (e : BitVec 512), Issues (.cpy f) s c t → (c.act = 0 → Completes (exec (.cpy f) s) c t) ∧
    (c.act ≠ 0 → t.committing c.w.id = false → (c.copyOf f t).check c.gr c.w.core f.d.toNat f.s.toNat t = .ok (e, u) →
      ((c.copyOf f t).conv = 0 → (c.copyOf f t).count = 0 → Completes (exec (.cpy f) s) c (u.modWave c.w.id fun w => { w with cp := w.cp - 1, copied := true })) ∧
      (((c.copyOf f t).conv ≠ 0 ∨ (c.copyOf f t).count ≠ 0) → t.queueFull c.ga.id (fun q => q = f.q.toNat) = false →
      t.linesBusy c.w.id (c.copyOf f t).dstLines = false → (f.r = 1 → t.reportsIn c.w.id = true ∧ t.loggedFault c.w.id = false) → c.gr.det = false →
      Completes (exec (.cpy f) s) c (c.enqueue { c.copyOf f t with entry := e } u))) ∧
    (c.act ≠ 0 → t.committing c.w.id = false → ∀ (flt : Flt) (a : Nat), (c.copyOf f t).check c.gr c.w.core f.d.toNat f.s.toNat t = .error (flt, a, u) → flt.held = false → flt.code ≠ 12 →
      exec (.cpy f) s = .next ((s.tookReads u).trap c.w.id c.lanes { precise flt.code flt.cause c.word c.pc c.act c.act a 0 with lod := flt.lod }))) ∧
  (∀ (f : FmtKf) (s t : State) (c : Ctx), Issues (.cpyf f) s c t → (c.act = 0 → Completes (exec (.cpyf f) s) c t) ∧
    (c.act ≠ 0 → t.queueFull c.ga.id (fun q => f.m.getLsbD q) = false → Completes (exec (.cpyf f) s) c (c.enqueue { c.blankCopy t.nextId with fence := some f.m } t))) ∧
  ∀ (c : Ctx) (f : FmtK) (k : Copy) (t : State), (∃ absent : Gang → List Nat, c.enqueue k t = { (t.modGang c.ga.id fun g => { g with absent := absent g }) with
      waves := (t.modWave c.w.id fun w => { w with copied := true }).waves, eng := { t.eng with copies := t.eng.copies ++ [k] }, nextId := t.nextId + 1 } ∧
      ∀ (g : Gang) (l : Nat), l ∈ absent g ↔ l ∈ g.absent ∨ l ∈ k.dstLines) ∧
    let r (j : Nat) : Word := c.ssrc j 0 (lowestLane c.act)
    (c.copyOf f t).queue = f.q.toNat ∧ (c.copyOf f t).dst = [r f.d.toNat, r (f.d.toNat + 1), r (f.d.toNat + 2), r (f.d.toNat + 3)] ∧
      (c.copyOf f t).src = [r f.s.toNat, r (f.s.toNat + 1)] ∧ (c.copyOf f t).count = r f.c.toNat ∧ (c.copyOf f t).ctrl = r (f.c.toNat + 1) ∧ (c.copyOf f t).fence = none ∧
      (c.copyOf f t).id = t.nextId ∧ (c.copyOf f t).wave = c.w.id ∧ (c.copyOf f t).gang = c.ga.id ∧ (c.copyOf f t).pc = c.pc ∧ (c.copyOf f t).active = c.act

/-- The words that pose queries: with no ACTIVE lane they only complete; else, with the wave not marked RAYLOST, every named entry read and a node pool, and slots free on the core's unit, one query for each ACTIVE lane is under way with its operand registers, its pool and its root; a marked wave takes RAYLOST. geosync of a scope word that the table allows is under way, once the wave's release fences are over, on the units it names, and of another is ILLOP (R394 to R396, R399 to R407). tex and texq: with no ACTIVE lane they only complete; else, when every named entry is read and a texture, and every lane's reads succeed, each ACTIVE lane's result registers, five of tex and four of texq, receive what the filter gives it there and nothing else of the registers changes (R411 to R415). What a lane's sample is stands in `texSample` and `texSize`. The model's choice: log entry 30. -/
def Obligations.QueryAndTextureWordsAct : Prop :=
  ((∀ (f : FmtG) (i : Instr) (n words : Nat) (s t : State) (c : Ctx), (i = .trav f ∧ n = 14 ∧ words = 5 ∨ i = .trnx f ∧ n = 2 ∧ words = 5 ∨ i = .isect f ∧ n = 16 ∧ words = 3 ∨
        i = .rast f ∧ n = 16 ∧ words = 3) → Issues i s c t →
      (c.act = 0 → Completes (exec i s) c t) ∧
      (c.act ≠ 0 → c.w.rayLost = true → exec i s = .next (s.trap c.w.id c.lanes (precise 11 0 c.word c.pc c.act c.act 0 0))) ∧
      ∀ (es : List (Nat × BitVec 512)) (u : State), c.act ≠ 0 → c.w.rayLost = false → c.entries f.s.toNat t = .ok (es, u) →
        let entry (l : Nat) : BitVec 512 := ((es.find? fun e => e.1 = (c.ssrc f.s.toNat 0 l).toNat).map (·.2)).getD 0
        (∀ l, l < 32 → c.act.getLsbD l = true → Entry.noPool (entry l) = false) → t.slotsUsed c.w.core + laneCount c.act ≤ 2048 → u.eng.queries = t.eng.queries →
        ∃ q : Query, Completes (exec i s) c { u with nextId := u.nextId + 1, eng := { u.eng with queries := u.eng.queries ++ [q] } } ∧
          q.id = u.nextId ∧ q.wave = c.w.id ∧ q.core = c.w.core ∧ q.asid = c.gr.asid ∧ q.instr = i ∧ q.privileged = c.w.priv ∧ q.dst = f.d.toNat ∧ q.words = words ∧
          q.lanes = (laneList c.act).map fun l => ⟨l, (c.ssrc f.s.toNat 0 l).toNat, entry l, (c.ssrc (f.s.toNat + 1) 0 l).toNat, (List.range n).map fun k => c.w.getV l (f.a.toNat + k), []⟩) ∧
    ∀ (f : FmtGs) (s t : State) (c : Ctx), Issues (.geosync f) s c t → let x := (c.ssrc f.s.toNat 0 (lowestLane c.act)).toNat
      let core := x / 4 % 2 ^ 9
      let units := if x % 4 = 0 then [c.w.core] else if x % 4 = 1 then (List.range 4).map (4 * quadOf c.w.core + ·) else if x % 4 = 2 then List.range 384 else [core]
      (c.act = 0 → Completes (exec (.geosync f) s) c t) ∧
      (c.act ≠ 0 → x < 2 ^ 11 → core ≤ 383 → t.fencesOf c.w.id = [] → Completes (exec (.geosync f) s) c { t with nextId := t.nextId + 1, eng := { t.eng with syncs := t.eng.syncs ++ [⟨t.nextId, c.w.id, c.gr.asid, units⟩] } }) ∧
      (c.act ≠ 0 → 2 ^ 11 ≤ x ∨ 383 < core → exec (.geosync f) s = .next (s.trap c.w.id c.lanes (precise 0 0 c.word c.pc c.act c.act 0 0)))) ∧
  (∀ (f : FmtG) (i : Instr) (n : Nat) (lane : Ctx → Nat → Entry → Nat → State → Except Failed (List Word × State)) (s t : State) (c : Ctx),
      (i = .tex f ∧ n = 5 ∧ lane = (fun c res e l z => z.texSample c.w.core c.gr.asid res e (c.w.getV l f.a.toNat) (c.w.getV l (f.a.toNat + 1)) (c.w.getV l (f.a.toNat + 2)) c.w.priv (some ⟨c.w, z.nextId⟩)) ∨
        i = .texq f ∧ n = 4 ∧ lane = (fun c _ e l z => z.texSize c.w.core c.gr.asid e (c.w.getV l f.a.toNat).toNat (c.w.getV l (f.a.toNat + 1)).toNat c.w.priv (some ⟨c.w, z.nextId⟩))) → Issues i s c t →
      (c.act = 0 → Completes (exec i s) c t) ∧
      ∀ (es : List (Nat × BitVec 512)) (u u1 : State) (rs : List (Nat × Except FltAt (List Word))) (words : Nat → List Word), c.act ≠ 0 → f.d.toNat + n ≤ 112 → c.entries f.s.toNat t = .ok (es, u) →
        let entry (l : Nat) : Entry := ((es.find? fun e => e.1 = (c.ssrc f.s.toNat 0 l).toNat).map (·.2)).getD 0
        (∀ l, l < 32 → c.act.getLsbD l = true → (entry l).noTexture = false) →
        laneResults (fun l z => lane c (c.ssrc f.s.toNat 0 l).toNat (entry l) l z) u.nextId (laneList c.act) u = (rs, u1) →
        rs = (laneList c.act).map (fun l => (l, .ok (words l))) → (∀ l, (words l).length = n) →
        ∃ g : Wave → SMap 32, Completes (exec i s) c (u1.modWave c.w.id fun w => ({ w with v := g w } : Wave).lower 1).settlePushes ∧
          ∀ (w : Wave) (l k : Nat), l < 32 → k ≤ 111 → SMap.get (g w) (vKey l k) = if c.act.getLsbD l = true ∧ f.d.toNat ≤ k ∧ k < f.d.toNat + n then (words l).getD (k - f.d.toNat) 0 else w.getV l k)

/-! ### Steps of the memory system -/

/-- WALK_COMPLETE translates lanes of an access in flight of a resident wave: what follows is the access reported with those lanes, and its end where it is over. A lane that is translated so has the fault of its address, NONCANON before ALIGN, the refusal of the walk, or its physical address, leaf and side record, and is ready; a write so takes the next place in its core's order of writes unless an earlier access of its thread or a fence holds it (R24 to R26, R107, R166, R195, R323). The model's choice: log entries 23 and 77. -/
def Obligations.WalkTranslatesLanes : Prop :=
  (∀ (s : State) (a : Access) (w : Wave) (lanes : Lanes) (how : Nat), s.flight? a.id = some a → s.wave? a.wave = some w → s.isResident w.gang = true → a.kind.isGlobal = true →
    lanes &&& s.missing a ≠ 0 → how ≤ 2 → exec (.walkComplete a.id lanes how) s = .next ((s.report a (lanes &&& s.missing a) how).afterAccess a)) ∧
  ∀ (a : Access) (w : Wave) (how : Nat) (s s1 : State) (l : AccLane), a.kind.isLod = false → a.kind.isGlobal = true →
    (2 ^ 60 ≤ l.va → translateLane a w how s l = ({ l with status := .faulted 1 1 false }, s)) ∧
    (l.va < 2 ^ 60 → a.kind.aligned = true → l.va % a.kind.size ≠ 0 → translateLane a w how s l = ({ l with status := .faulted 4 0 false }, s)) ∧
    (l.va < 2 ^ 60 → (a.kind.aligned = true → l.va % a.kind.size = 0) → s.foreign w l.va = false →
      (∀ f, s.translate (quadOf a.core) a.asid l.va a.kind.need a.privileged how = (.error f, s1) → translateLane a w how s l = ({ l with status := .faulted f.code f.cause f.lod }, s1)) ∧
      ∀ tr, s.translate (quadOf a.core) a.asid l.va a.kind.need a.privileged how = (.ok tr, s1) → let l1 : AccLane := { l with pa := s1.localPa tr.pa, leaf := BitVec.ofNat 64 tr.leaf, side := tr.side }
        (a.kind.writes = false → translateLane a w how s l = ({ l1 with status := .ready, stamp := s1.nextId }, { s1 with nextId := s1.nextId + 1 })) ∧
        (a.kind.writes = true → s1.laneHeld a { l1 with status := .ready, stamp := s1.nextId } = true → translateLane a w how s l = ({ l1 with status := .reported }, s1)) ∧
        (a.kind.writes = true → s1.laneHeld a { l1 with status := .ready, stamp := s1.nextId } = false → ∃ (b : Bool) (l1s : List CacheLine),
          translateLane a w how s l = ({ l1 with status := .ready, stamp := s1.nextId, inL1 := b }, { s1 with nextId := s1.nextId + 1, caches := { s1.caches with l1 := l1s } }) ∧
            ((∀ n, a.kind ≠ .store n) → l1s = s1.caches.l1)))

/-- LOAD_RETURN of one lane that nothing holds: where its core's L1 serves it the datum is the line's bytes, else those that the home holds; little endian, sign extended or not to the register or pair that the load names, which receives it; and the lane is over. A gang-local load whose lines are all present is performed whole: every lane receives the gang's own bytes (R47, R59, R205, R207, R272, R324, R327). The model's choice: log entries 77 and 84. -/
def Obligations.LoadsReturnBytes : Prop :=
  ∀ (s : State) (a : Access) (w : Wave) (ga : Gang) (gr : Grid) (l : AccLane) (victim : Option Nat), s.flight? a.id = some a → s.wave? a.wave = some w → s.home? w = some (ga, gr) →
    s.isResident w.gang = true → a.laneAt l.lane 0 = some l → l.lane < 32 → s.fenceHeld a.after = false →
    let returns (u : State) (x : Quad) : Prop := exec (.loadReturn a.id (laneBit l.lane) victim) s = .next (((u.deliver a l.lane x).laneTo a.id l.lane 0 .done).afterAccess a)
    (∀ (n : Nat) (signed home noFill : Bool), a.kind = .load n signed home noFill → n ∈ [1, 2, 4, 8] → (l.status = .fresh ∨ l.status = .ready) → s.locationHeld a l = false →
      s.storeUnwritten a l = false →
      let value (bs : List Byte) : Quad := if signed = true then BitVec.ofInt 64 (signedOf (8 * n) (natOfBytes bs)) else BitVec.ofNat 64 (natOfBytes bs)
      (∀ line, s.loadHit a w l home = some line → returns s (value (lineBytes line.data (l.va % 64) n))) ∧
      (s.loadHit a w l home = none → l.status = .ready → s.homeHeld a l = false → gr.det = false → (s.ctx a.asid).ordlog.getLsbD 0 = false → (s.ctx a.asid).ordlog.getLsbD 1 = false →
        ∃ u, returns u (value (lineBytes (s.lineHome a.asid l.pa l.leaf.toNat).1 (l.va % 64) n)) ∧ u.mem = (s.lineHome a.asid l.pa l.leaf.toNat).2.mem ∧
          u.waves = (s.lineHome a.asid l.pa l.leaf.toNat).2.waves)) ∧
    (∀ n, a.kind = .localLoad n → (∀ m ∈ a.left, m.status = .fresh ∧ s.windowHeld a m = false ∧ m.va / 64 ∉ ga.absent ∧ ∀ j < n, s.inSide ga.id (m.va + j) = false) → exec (.loadReturn a.id (laneBit l.lane) victim) s = .next ((a.left.foldl
      (fun u m => (u.deliver a m.lane (BitVec.ofNat 64 (natOfBytes ((List.range n).map fun j => ga.bytes.get (m.va + j))))).laneTo a.id m.lane m.dest .done) s).afterAccess a)) ∧
    ∀ (x : Quad) (d : Nat), let t := (s.deliver a l.lane x).waves
      (a.dst = none → t = s.waves) ∧ (a.dst = some (d, 1) → t = (s.modWave a.wave fun y => y.setV l.lane d (lo32 x)).waves) ∧
      (a.dst = some (d, 2) → t = (s.modWave a.wave fun y => (y.setV l.lane d (lo32 x)).setV l.lane (d + 1) (hi32 x)).waves)

/-- HOME_SLICE_WRITE of one ready lane of a store or of a multicast store writes its bytes at its physical address, unless a higher lane of the same store names the same bytes, and no other byte of memory, and the lane is performed; STORE_ACKNOWLEDGE of a performed lane ends it, and a gang-local store whose lines are all present is performed whole: it writes each lane's bytes to the gang, and the tags of the lines that it touches fall (R59, R62, R106, R107, R207, R272, R324, R327, R342). On a page without a dirty mark to set, in a package with fewer than 32,768 modified lines and lines pinned in the home's slice, and outside the recording of an order log. The model's choice: log entry 77. -/
def Obligations.StoresWriteBytes : Prop :=
  ∀ (s : State) (a : Access) (w : Wave) (ga : Gang) (gr : Grid) (l : AccLane), s.flight? a.id = some a → s.wave? a.wave = some w → s.home? w = some (ga, gr) →
    s.isResident w.gang = true → a.laneAt l.lane l.dest = some l → l.lane < 32 →
    (∀ n, (a.kind = .store n ∨ a.kind = .multi none n) → s.writeReady a l = true → gr.det = false → (s.ctx a.asid).ordlog.getLsbD 0 = false → (s.ctx a.asid).ordlog.getLsbD 1 = false →
      leafHome l.leaf.toNat = 0 → s.dte a.asid = false → s.caches.dirty.length + linesAt (homeSlice (s.localPa l.pa)) s.slicePins < 32768 → (a.kind = .store n → a.shadows l l.pa = false) →
      ∃ u, exec (.homeSliceWrite a.id (laneBit l.lane) l.dest) s = .next ((u.laneTo a.id l.lane l.dest .performed).afterAccess a) ∧ u.bytesAt l.pa n = bytesOfNat n l.data.toNat ∧
        SameBytesOutside s u (fun x => s.localPa l.pa ≤ x ∧ x < s.localPa l.pa + n) ∧ u.waves = s.waves ∧ u.gangs = s.gangs ∧ u.flights = s.flights) ∧
    (∀ n, a.kind = .store n → s.writeReady a l = true → gr.det = false → (s.ctx a.asid).ordlog.getLsbD 0 = false → (s.ctx a.asid).ordlog.getLsbD 1 = false → a.shadows l l.pa = true →
      ∃ m, exec (.homeSliceWrite a.id (laneBit l.lane) l.dest) s = .next ((({ s with caches := { s.caches with lastWave := m } } : State).laneTo a.id l.lane l.dest .performed).afterAccess a)) ∧
    (a.kind.writes = true → l.status = .performed → exec (.storeAcknowledge a.id (laneBit l.lane) l.dest) s = .next ((s.laneTo a.id l.lane l.dest .done).afterAccess a)) ∧
    ∀ n, a.kind = .localStore n → 32 ≤ a.block → s.fenceHeld a.after = false →
      (∀ m ∈ a.left, m.status = .fresh ∧ s.windowHeld a m = false ∧ m.va / 64 ∉ ga.absent ∧ ∀ j < n, s.inSide ga.id (m.va + j) = false) →
      exec (.storeAcknowledge a.id (laneBit l.lane) l.dest) s = .next ((a.left.foldl (fun u m => (if a.shadows m m.pa = true then u else u.modGang ga.id fun g => { g with
        bytes := g.bytes.setRange m.va (bytesOfNat n m.data.toNat), tags := g.tags.filter fun t => !(m.va / 64 ≤ t && t * 64 < m.va + n) }).laneTo a.id m.lane m.dest .done) s).afterAccess a)

/-- ATOMIC_PERFORM of one ready lane reads the old value at its home, writes the new one there and no other byte, and delivers the old one where the atomic returns it: the sum modulo its width, the signed or unsigned minimum or maximum, and, or, exclusive or, the operand, or the binary32 sum; a compare and swap writes only where the old value equals the lane's compare value (R116, R278, R337, R338). On a page without a pin, a dirty mark or another CMP value, in a package with fewer than 32,768 modified lines and lines pinned in the home's slice, outside a deterministic launch and an order log. The model's choice: log entry 77. -/
def Obligations.AtomicsUpdateMemory : Prop :=
  ∀ (s : State) (a : Access) (w : Wave) (ga : Gang) (gr : Grid) (l : AccLane), s.flight? a.id = some a → s.wave? a.wave = some w → s.home? w = some (ga, gr) →
    s.isResident w.gang = true → a.laneAt l.lane l.dest = some l → l.lane < 32 → s.writeReady a l = true → gr.det = false → (s.ctx a.asid).ordlog.getLsbD 0 = false →
    (s.ctx a.asid).ordlog.getLsbD 1 = false → leafHome l.leaf.toNat = 0 → s.dte a.asid = false → s.caches.dirty.length + linesAt (homeSlice (s.localPa l.pa)) s.slicePins < 32768 →
    ∀ n, (n = 4 ∨ n = 8) → s.poisoned l.pa n = none → s.cmpMixed l.pa (entryBit l.leaf.toNat 7) = false →
    let old := s.natAt l.pa n
    let x := l.data.toNat % 2 ^ (8 * n)
    let writes (new : Nat) (ret : Bool) : Prop := ∃ u, (exec (.atomicPerform a.id l.lane l.dest) s = .next ((if ret = true then (u.deliver a l.lane (BitVec.ofNat 64 old)).laneTo a.id l.lane l.dest .done
        else u.laneTo a.id l.lane l.dest .performed).afterAccess a)) ∧ u.natAt l.pa n = new % 2 ^ (8 * n) ∧ SameBytesOutside s u (fun y => s.localPa l.pa ≤ y ∧ y < s.localPa l.pa + n) ∧ u.waves = s.waves
    (∀ ret, (a.kind = .atomic 0 n ret → writes (old + x) ret) ∧
      (a.kind = .atomic 1 n ret → writes (if signedOf (8 * n) x < signedOf (8 * n) old then x else old) ret) ∧ (a.kind = .atomic 2 n ret → writes (if signedOf (8 * n) old < signedOf (8 * n) x then x else old) ret) ∧
      (a.kind = .atomic 3 n ret → writes (min old x) ret) ∧ (a.kind = .atomic 4 n ret → writes (max old x) ret) ∧ (a.kind = .atomic 5 n ret → writes (old &&& x) ret) ∧
      (a.kind = .atomic 6 n ret → writes (old ||| x) ret) ∧ (a.kind = .atomic 7 n ret → writes (old ^^^ x) ret) ∧ (a.kind = .atomic 8 n ret → writes x ret) ∧
      (a.kind = .atomic 9 n ret → writes (Fpc.plain.add f32 0 old x) ret)) ∧
    (a.kind = .cas n → (old = x → writes l.data2.toNat true) ∧ (old ≠ x → writes old true)) ∧ (a.kind = .multi (some 0) n → writes (old + x) false)

/-- SLICE_WRITEBACK of a modified HOME 00 line: its DIRTY bits are set as they were noted, and the line is no longer modified (R31, R64). A TRAP_ENTRY of a wave with an engine trap due, and nothing logged, takes the first trap that may be taken, off the wave's list; CARRY names the lanes that have not ended (R187, R371, R461). CONE_PUSH delivers a push that has passed its filter and stands behind none of its instruction: the ring's slot at PROD receives the entry and PROD rises by 1, or, on a full ring, DROP rises and OVF is set, and a notice is sent; the push is gone. DROP_NOTICE makes its die's filter forget the key. PARTIAL_BATCH_TIMEOUT forms a batch of a bin's records when 65,536 cycles have gone by without an arrival or every producer has ended. PORT_WAKE and TICKET_TURN let a waiting wave perform its word, with its logical time past the releaser's at a port: where its word would not make it wait again, and so for every integer word of two or three sources with a register or vz for its destination that passes the front end, its ports being served or its ticket the lowest (R90 to R93, R158, R160, R164, R165, R267, R351). The model's choice: log entry 26. -/
def Obligations.BackgroundStepsAct : Prop :=
  ((∀ (s : State) (d : DirtyLine), s.caches.dirty.find? (fun x => x.pline = d.pline && x.home = 0) = some d → exec (.sliceWriteback d.pline) s =
      .next ((d.sides.foldl (fun t x => t.setDirty x.1 x.2) s).modCaches fun c => { c with dirty := c.dirty.filter fun x => x.pline ≠ d.pline })) ∧
    ∀ (s : State) (w : Wave) (e : EngineTrap), s.wave? w.id = some w → w.alive = true → s.isResident w.gang = true → s.committing w.id = false → w.inSync = false →
      (∀ g ∈ s.eng.syncs, g.wave ≠ w.id) → (∀ a ∈ s.flights, a.wave ≠ w.id) → w.hints = [] → (∀ x ∈ s.waves, x.id = w.id → x = w) → w.nextTrap = some e →
      exec (.trapEntry w.id) s = .next (((s.modWave w.id fun x => { x with engineTraps := x.engineTraps.erase e }).trapEntry { w with engineTraps := w.engineTraps.erase e }
        ⟨e.code, e.cause, false, e.lod, e.word, e.pc, if e.code = 7 then w.live else e.active, if e.code = 7 then w.live else e.faultLanes, 0, 0, e.addr.toNat, e.aux⟩).distribute)) ∧
  ((∀ (s : State) (p : Push), s.eng.pushes.find? (fun x => x.id = p.id) = some p → p.passed = true → s.pushBehind p = false →
      exec (.conePush p.id) s = .next ((s.deliverPush p).modEng fun e => { e with pushes := e.pushes.filter fun x => x.id ≠ p.id })) ∧
    (∀ (s s1 : State) (p : Push) (h : Nat), (s.ctx p.asid).crbase.getLsbD 0 = true → let base := (s.ctx p.asid).crbase.toNat / 64 % 2 ^ 54 * 64
      s.ctxNat p.asid base 64 needBoth true = .ok (h, s1) → let prod := h % 2 ^ 32
      let cons := h / 2 ^ 32 % 2 ^ 32
      let log2 := h / 2 ^ 97 % 2 ^ 5
      4 ≤ log2 → log2 ≤ 20 →
      ((prod + 2 ^ 32 - cons) % 2 ^ 32 < 2 ^ log2 → ∀ s2 s3, s1.ctxWrite p.asid (base + 64 + 16 * (prod % 2 ^ log2)) (bytesOfNat 16 p.entry.toNat) needWrite true none = .ok s2 →
        s2.ctxWrite p.asid base (bytesOfNat 64 ((prod + 1) % 2 ^ 32 + cons * 2 ^ 32 + h / 2 ^ 64 % 2 ^ 32 * 2 ^ 64 + h / 2 ^ 96 % 2 * 2 ^ 96 + log2 * 2 ^ 97)) needBoth true none = .ok s3 →
        s.deliverPush p = s3) ∧
      (2 ^ log2 ≤ (prod + 2 ^ 32 - cons) % 2 ^ 32 → ∀ s2,
        s1.ctxWrite p.asid base (bytesOfNat 64 (prod + cons * 2 ^ 32 + min (h / 2 ^ 64 % 2 ^ 32 + 1) (2 ^ 32 - 1) * 2 ^ 64 + 1 * 2 ^ 96 + log2 * 2 ^ 97)) needBoth true none = .ok s2 →
        s.deliverPush p = { s2 with nextId := s2.nextId + 1, eng := { s2.eng with notices := s2.eng.notices ++ [⟨s2.nextId, p.key⟩] } })) ∧
    (∀ (s : State) (n : Notice), s.eng.notices.find? (fun x => x.id = n.id) = some n → exec (.dropNotice n.id) s =
      .next ((s.modCaches fun c => { c with filters := c.filters.filter fun k => k ≠ n.key }).modEng fun e => { e with notices := e.notices.filter fun x => x.id ≠ n.id })) ∧
    (∀ (s : State) (q : BinQueue) (b : Bin), s.bins.find? (fun x => x.id = q.id) = some q → q.bins.find? (fun x => x.key = b.key) = some b →
      (b.last + 65536 ≤ s.cycle.toNat ∨ q.producers ≤ q.producersEnded) → exec (.partialBatchTimeout q.id b.key) s = .next (({ s with bins := s.bins.map fun x => if x.id = q.id then
        { x with bins := x.bins.filter (fun y => y.key ≠ b.key), batches := x.batches ++ [b.records] } else x } : State).launchBatches q.id).distribute) ∧
    (∀ (s u : State) (w : Wave) (f : FmtR) (i : Instr) (c : Ctx), s.wave? w.id = some w → w.waiting = some i → (∀ x ∈ s.waves, x.id = w.id → x = w) → isPort f.d.toNat = false →
      i ∈ ([.iadd f, .isub f, .imul f, .imad f, .imulhI f, .imulhZ f, .and f, .or f, .xor f, .shl f, .shr f, .sar f, .rol f, .iminI f, .iminZ f, .imaxI f, .imaxZ f] : List Instr) →
      let woken (time : Quad) : State := { s.modWave w.id fun x => { x.withdraw with time := time } with issuer := w.id }
      (w.wakeKind = 4 → s.waitServed w = true → Issues i (woken (maxTime w.time w.releaser + 1)) c u → ∃ t, exec (.portWake w.id) s = .next t ∧ exec i (woken (maxTime w.time w.releaser + 1)) = .next t) ∧
      (w.wakeKind = 8 → Issues i (woken w.time) c u → ∃ t, exec (.ticketTurn w.id) s = .next t ∧ exec i (woken w.time) = .next t)) ∧
    ∀ (s t : State) (w : Wave) (i : Instr), s.wave? w.id = some w → w.waiting = some i → let woken (time : Quad) : State :=
        { s.modWave w.id fun x => { x.withdraw with time := time } with issuer := w.id }
      (∃ ga gr, s.home? w = some (ga, gr) ∧ s.canIssue w.withdraw ga = true) →
      (w.wakeKind = 4 → s.waitServed w = true → (∀ x ∈ s.waves, x.id = w.id → x = w) → performWord i (woken (maxTime w.time w.releaser + 1)) = .next t → (∀ x, t.wave? w.id = some x → x.wakeKind ≠ 4) → exec (.portWake w.id) s = .next t) ∧
      (w.wakeKind = 8 → (∀ x ∈ s.waves, x.id = w.id → x = w) → performWord i (woken w.time) = .next t → (∀ x, t.wave? w.id = some x → x.wakeKind ≠ 8) → exec (.ticketTurn w.id) s = .next t))

/-! ### Steps of the engines -/

/-- COPY_LINE_ARRIVAL brings a piece of a command that may run, its release being over, its gang-local source present and no write to its lines accepted ahead of it, and, for a gang-local destination, makes its line present and wakes the waves parked on it, at once or, while their gang is about to leave, when it stays; COPY_COMPLETE of a command all of whose pieces have arrived, and QUEUE_FENCE_COMPLETE of a fence before which the queues that it names are done, take it out of its queue: its lines are present, its wave's CP falls, and a copy with faults or a refused barrier line queues its report (R59, R108, R119, R120, R389 to R391). The model's choice: log entries 46 and 48. -/
def Obligations.CopiesArriveAndComplete : Prop :=
  ∀ (s : State) (k : Copy) (w : Wave), s.copy? k.id = some k → s.wave? k.wave = some w →
    (∀ n p, k.pieces[n]? = some p → n ∉ k.arrived → s.copyMayRun k = true → s.released k w = true → s.sourcePresent k p = true → s.mapsHeld k w = false →
      s.engineHeld w.core k.asid k.privileged (k.touches p) = false →
      let s0 : State := match k.arrived, k.release with
        | [], some scope => s.acceptAll w.id w.core scope
        | _, _ => s
      let r := if k.conv = 0 then s0.copyPiece k w p else s0.convPiece k w p
      let u := r.2.putCopy { r.1 with arrived := r.1.arrived ++ [n] }
      exec (.copyLineArrival k.id n) s = .next (if k.toGlobal = true then u else u.setPresent k.gang [p.1 / 64])) ∧
    (k.fence = none → (∀ n, n < k.pieces.length → n ∈ k.arrived) → s.copyMayRun k = true → exec (.copyComplete k.id) s = .next (s.finishCopy k)) ∧
    (∀ m, k.fence = some m → s.fenceMet k m = true → exec (.queueFenceComplete k.id) s = .next (s.finishCopy k)) ∧
    (∀ (gang : Nat) (lines : List Nat), (∀ g ∈ (s.setPresent gang lines).gangs, g.id = gang → ∀ l ∈ lines, l ∉ g.absent) ∧ (s.setPresent gang lines).mem = s.mem) ∧
    (∀ (gang : Nat) (lines : List Nat) (g : Gang), s.gang? gang = some g →
      (s.setPresent gang lines).waves = (s.waves.map fun x =>
        if g.leaving = none ∧ x.gang = gang ∧ x.wakeKind = 5 ∧ (bitsOf x.wake.toNat 4 28 ∉ g.absent ∨ bitsOf x.wake.toNat 4 28 ∈ lines) then x.withdraw else x) ∧
      (s.stopLeaving gang).waves = s.waves.map fun x => if x.gang = gang ∧ x.wakeKind = 5 ∧ bitsOf x.wake.toNat 4 28 ∉ g.absent then x.withdraw else x) ∧
    (∀ x : Wave, x.withdraw.wakeKind = 0 ∧ x.withdraw.waiting = none ∧ x.withdraw.pc = x.pc ∧ x.withdraw.s = x.s ∧ x.withdraw.v = x.v ∧ x.withdraw.p = x.p) ∧
    (s.fifo = [] → w.alive = true → w.gang = k.gang → w.wakeKind ≠ 5 → let u := s.finishCopy k
      u.eng.copies = s.eng.copies.filter (fun x => x.id ≠ k.id) ∧ u.mem = s.mem ∧ (∀ l ∈ k.dstLines, ∀ g ∈ u.gangs, g.id = k.gang → l ∉ g.absent) ∧
        u.wave? k.wave = some { w with cp := w.cp - 1, engineTraps := w.engineTraps ++ k.report.toList })

/-- The matrix engine: MXBEG_ADMISSION of the arbiter's mxbeg opens its tile and takes it off the table, PASS_GRANT puts another entry that the arbiter grants on the array, PASS_COMPLETE performs the granted pass, fold, resumption or end, DRAIN_COMPLETE the granted drain, and each then frees the array; RESERVATION_POST completes a latch whose members are all there once the table has room. The arbiter grants nothing while the array runs; of the next entries of the teams, each team's own in posting order, it grants the one of the highest CLASS, the earliest posting within a class, passing over an mxbeg alone, when it has no room or a better mxbeg waits; it grants something when a next entry is no mxbeg, or is the best mxbeg and has room (R182 to R184, R369). Room that a step frees is used. What a granted word does to its team's tile: mxend takes the tile away, mxfold of a tile without entries writes nothing, and an entry whose tile has gone does nothing; TL falls by the word's own raise, and by a frozen pass's with it at mxend (R356, R373, R375). The model's choice: log entries 38, 40 and 43. -/
def Obligations.MatrixEngineRuns : Prop :=
  ((∀ (s : State) (quad : Nat) (e : MxEntry) (gr : Grid), s.arbiter quad = some e → s.gridOfGang e.gang = some gr →
      (Instr.isBeg e.instr = true → exec (.mxbegAdmission quad) s = .next ((({ (s.dropEntry e).modMatrix fun m => { m with tiles := m.tiles ++ [s.openTile gr e] } with
        fresh := s.fresh + 256 * (s.openTile gr e).granules + 1 } : State).lowerTeam e.gang e.team 1).distribute)) ∧
      (Instr.isBeg e.instr = false → exec (.passGrant quad) s = .next ((s.dropEntry e).modMatrix fun m => { m with running := m.running ++ [e] }).distribute)) ∧
    (∀ (s t : State) (quad : Nat) (e : MxEntry), s.granted quad = some e → s.runEntry e = some t → exec (.passComplete quad) s = .next (t.arrayFree e).distribute) ∧
    (∀ (s : State) (quad : Nat) (e : MxEntry) (gr : Grid) (t : Tile), s.granted quad = some e → s.gridOfGang e.gang = some gr → s.fenceHeld e.after = false → s.tile? e.gang e.team = some t → t.id = e.tile →
      s.engineHeld (4 * quad) gr.asid e.privileged (t.scaleLines ++ e.drainLines) = false →
      ((∃ d n, e.instr = .mxdrnI32 d n) ∨ (∃ d n, e.instr = .mxdrnI64 d n) ∨ ∃ d n, e.instr = .mxdrnF32 d n) → exec (.drainComplete quad) s = .next ((s.runDrain gr e t).arrayFree e).distribute) ∧
    (∀ (s : State) (w : Wave) (i : Instr), s.wave? w.id = some w → w.alive = true → w.inLatch = true → w.teamAsked = none → w.waiting = some i → allHeld (s.members w.gang w.team) i = true →
      s.tableRoom (quadOf w.core) = true → s.tryLatch w.id ≠ s → exec (.reservationPost w.id) s = .next (s.tryLatch w.id)) ∧
    ∀ (s : State) (quad : Nat), (s.eng.matrix.table.map fun x => x.order).Pairwise (· < ·) →
      let able (x : MxEntry) : Prop := (∃ d, x.instr = .mxfold d) ∨ x.instr = .mxres ∨ x.instr = .mxend ∨ ∀ t, s.tile? x.gang x.team = some t → t.frozen = none
      let next (x : MxEntry) : Prop := x ∈ s.eng.matrix.table ∧ x.quad = quad ∧ able x ∧
        ∀ y ∈ s.eng.matrix.table, y.quad = quad → y.gang = x.gang → y.team = x.team → able y → x.order ≤ y.order
      let ahead (x y : MxEntry) : Prop := y.cls < x.cls ∨ x.cls = y.cls ∧ x.order < y.order
      let idle : Prop := ∀ x ∈ s.eng.matrix.running, x.quad ≠ quad
      let first (x : MxEntry) : Prop := Instr.isBeg x.instr = true ∧ s.tileRoom x = true ∧ ∀ y, next y → Instr.isBeg y.instr = true → ¬ahead y x
      (∀ e, s.arbiter quad = some e → idle ∧ next e ∧ (Instr.isBeg e.instr = true → first e) ∧ ∀ x, next x → ahead x e → Instr.isBeg x.instr = true ∧ ¬first x) ∧
      (∀ x, idle → next x → Instr.isBeg x.instr = false ∨ first x → ∃ e, s.arbiter quad = some e)) ∧
  (∀ (s : State) (e : MxEntry) (gr : Grid) (t : Tile), s.gridOfGang e.gang = some gr → s.fenceHeld e.after = false → s.tile? e.gang e.team = some t →
      (t.id ≠ e.tile → s.runEntry e = some (s.lowerTeam e.gang e.team 1)) ∧
      (t.id = e.tile → e.instr = .mxend →
        s.runEntry e = some ((s.modMatrix fun m => { m with tiles := m.tiles.filter fun x => x.id ≠ t.id }).lowerTeam e.gang e.team (if t.frozen.isSome = true then 2 else 1))) ∧
      ∀ d, t.id = e.tile → e.instr = .mxfold d → t.entries = [] → s.runEntry e = some ((s.putTile { t with entries := [] }).lowerTeam e.gang e.team 1))

/-- No carry is lost: an accumulation of an unscaled tile that does not freeze raises the exact value of its cell, the 24 bits with 2^24 for each count that its entry and the folds hold, by exactly the amount added, and leaves every other cell's counts alone; one that freezes changes neither the cell nor the entries; one of a scaled tile wraps and records nothing (R367 to R369). A pass adds to every cell in a column below N, exactly, the weighted products of the bits of its row and its column, plane by plane; a granted mxop puts its tile back so, with one pass more, its STALL folds written, or frozen with CARRY (R365, R368 to R370). A drain writes for each cell its exact value, with its carries and its spilled part, saturated to 32 bits, modulo 2^64, or times the scales and rounded once, at DEST + m * RSTRIDE + n * size, in gang-local space or page by page at the translations that it holds, and writes nothing else; the tile does not change (R377, R378, R498). The model's choice: log entry 40. -/
def Obligations.PassesAndDrainsCompute : Prop :=
  (∀ (env : PassEnv) (cell : Nat) (delta : Int) (v : BitVec 24) (p : PassState), (env.scaled = true → accumulate env cell delta v p = (BitVec.ofInt 24 (v.toInt + delta), p)) ∧ (env.scaled = false → p.frozen = none → (p.entries.map fun e => e.1).Nodup → -(2 ^ 23) ≤ delta → delta ≤ 2 ^ 23 →
      let q := (accumulate env cell delta v p).2
      let counts (x : PassState) (k : Nat) : Int := (((x.entries ++ x.folds).filter fun e => e.1 = k).map fun e => e.2).sum;
      (q.frozen = none → (accumulate env cell delta v p).1.toInt + 2 ^ 24 * counts q cell = v.toInt + delta + 2 ^ 24 * counts p cell ∧
        (q.entries.map fun e => e.1).Nodup ∧ ∀ k, k ≠ cell → counts q k = counts p k) ∧
      (q.frozen ≠ none → (accumulate env cell delta v p).1 = v ∧ q.entries = p.entries ∧ q.folds = p.folds))) ∧
  (let value (x : PassState) (m k : Nat) : Int := ((x.cells.getD m []).getD k 0).toInt + 2 ^ 24 * (((x.entries ++ x.folds).filter fun e => e.1 = m * 512 + k).map fun e => e.2).sum;
    (∀ (cap n : Nat) (stall : Bool) (l : List (Nat × Nat × PlaneBits × PlaneBits)) (p : PassState), p.frozen = none → (p.entries.map fun e => e.1).Nodup → (∀ r ∈ p.cells, r.length ≤ 512) →
      (∀ x ∈ l, -(2 ^ 17) ≤ x.2.2.1.weight * x.2.2.2.weight ∧ x.2.2.1.weight * x.2.2.2.weight ≤ 2 ^ 17) →
      let q := runCycles cap stall false n l p
      q.frozen = none → ∀ m k, k < (p.cells.getD m []).length → value q m k = value p m k + (l.map fun x =>
        if k < n ∧ k / 256 = x.2.1 ∧ x.1 ≤ m * 512 + k then x.2.2.1.weight * x.2.2.2.weight * (ones (x.2.2.1.chunks.getD m 0 &&& x.2.2.2.chunks.getD k 0) : Int) else 0).sum) ∧
    (∀ (g : Gang) (fresh lines pe j depth : Nat) (sl : Slot) (l : Layout),
      let r := operandPlanes g fresh sl l lines pe j depth
      r.length = pe + sl.virt.toNat ∧ (sl.virt = true → r[pe]? = some ⟨pe, 2 ^ (7 - pe) / sl.unit, List.replicate lines (2 ^ 64 - 1)⟩) ∧
        ∀ p < pe, l.apart lines sl.pr (max depth (j + 1)) = true → r[p]? = some ⟨p, sl.weight p / sl.unit, (List.range lines).map fun i => natOfBytes (g.bytes.getRange (l.at_ i p j) 8)⟩) ∧
    ∀ (s : State) (e : MxEntry) (gr : Grid) (t : Tile) (g : Gang) (la lb : Layout), (∃ f, e.instr = .mxop f) → s.gridOfGang e.gang = some gr → s.fenceHeld e.after = false → s.tile? e.gang e.team = some t →
      t.id = e.tile → t.scaled = false → s.gang? t.gang = some g → layoutIn e.regs 0 = some la → layoutIn e.regs 3 = some lb → s.passPresent gr t e.regs t.passes = true →
      (∀ x ∈ s.members e.gang e.team, x.alive = true) →
      let n := (e.regs.getD 6 0).toNat
      let a := gr.slot t.slotA
      let b := gr.slot t.slotB
      let pa := planesRead g t.slotA a
      let pb := planesRead g t.slotB b
      let cycles := passCycles n (operandPlanes g s.fresh a la 128 pa t.passes t.depth) (operandPlanes g (s.fresh + 8192) b lb n pb t.passes t.depth)
      let p := runCycles (t.granules * 256) (!t.trap && t.aux ≠ auxNone) false n (cycles.map fun x => (0, x)) ⟨t.cells, t.entries, [], none⟩
      let r := ({ s with fresh := s.fresh + 40960 } : State).addCounts t.gang (p.folds.map fun x => (t.aux + (x.1 / 512 * t.n + x.1 % 512) * 8, x.2))
      let after : Tile := { t with cells := p.cells, entries := p.entries, folds := t.folds + p.folds.length, peA := leastPlanes t.peA pa, peB := leastPlanes t.peB pb }
      (p.frozen = none → s.runEntry e = some (((r.2.putTile { after with frozen := none, passes := t.passes + 1 }).lowerTeam e.gang e.team 1).clobberTrap e r.1)) ∧
      ∀ cell why neg chunk qa qb, p.frozen = some (cell, why, neg, chunk, qa, qb) →
        let stopped : Tile := { after with frozen := some ⟨chunk, qa, qb, cell, e.word, e.pcs, e.regs, pa, pb⟩ }
        s.runEntry e = some ((((r.2.putTile stopped).lowerTeam e.gang e.team 0).clobberTrap e r.1).teamTrap e.gang e.team 7 e.word e.pcs 0 (carryAux stopped cell why neg chunk qa qb))) ∧
  ((∀ (s : State) (gr : Grid) (t : Tile) (sa sb m k : Nat) (d r : BitVec 5),
      let count : Int := match t.entries.find? fun e => e.1 = m * 512 + k with | some e => e.2 | none => 0
      let spilled : Int := if t.aux = auxNone then 0 else signedOf 64 (s.localNat t.gang (t.aux + (m * t.n + k) * 8) 8)
      let x : Int := (((t.cells.getD m []).getD k 0).toInt + count * 2 ^ 24 + spilled) * 2 ^ (16 - (gr.slot t.slotA).q - (gr.slot t.slotB).q)
      s.drainValue gr t (.mxdrnI32 d r) sa sb m k = (BitVec.ofInt 32 (max (-(2 ^ 31)) (min (2 ^ 31 - 1) x))).toNat ∧ s.drainValue gr t (.mxdrnI64 d r) sa sb m k = (BitVec.ofInt 64 x).toNat ∧
        s.drainValue gr t (.mxdrnF32 d r) sa sb m k = if t.scaled then s.localNat t.gang (t.aux + (m * t.n + k) * 4) 4 else scaleProduct x sa sb) ∧
    (∀ (x : Int) (sa sb : Nat), sa < 2 ^ 32 → sb < 2 ^ 32 →
      let v := (x : Rat) * f32.real sa * f32.real sb;
      (f32.finite sa → f32.finite sb → if v = 0 then scaleProduct x sa sb = 0 else f32.RoundsTo 0 (decide (v < 0)) (size v) (scaleProduct x sa sb)) ∧
      (f32.isNan sa = true ∨ f32.isNan sb = true → scaleProduct x sa sb = f32.nan)) ∧
    (∀ (s : State) (gr : Grid) (e : MxEntry) (t : Tile) (g : Gang), ((∃ d r, e.instr = .mxdrnI32 d r) ∨ ∃ d r, e.instr = .mxdrnI64 d r) → s.gang? t.gang = some g →
      t ∈ s.eng.matrix.tiles → (s.eng.matrix.tiles.map fun x => x.id).Nodup →
      let n := (e.regs.getD 3 0).toNat
      let dest := drainDest e.regs
      let size := drainSize e.instr
      let rows := (List.range 128).map fun m => (dest.1 + m * dest.2.1, (List.range n).flatMap fun k => bytesOfNat size (s.drainValue gr t e.instr 0 0 m k))
      (s.runDrain gr e t).eng.matrix.tiles = s.eng.matrix.tiles ∧
      (dest.2.2 = true → (∀ x ∈ s.gangs, x.id = t.gang → x.tags = []) → n * size ≤ dest.2.1 → (s.runDrain gr e t).mem = s.mem ∧
        (∀ m < 128, ∀ k < n, (s.runDrain gr e t).localNat t.gang (dest.1 + m * dest.2.1 + k * size) size = s.drainValue gr t e.instr 0 0 m k) ∧
        ∀ o, (∀ m < 128, ∀ j < n * size, o ≠ dest.1 + m * dest.2.1 + j) → (s.runDrain gr e t).localNat t.gang o 1 = s.localNat t.gang o 1) ∧
      (dest.2.2 = false → s.runDrain gr e t = ((rows.foldl (fun x r => x.drainRow e.gang e.quad gr.asid e.privileged e.pages r.1 r.2) s).putTile t).lowerTeam e.gang e.team 1)) ∧
    ∀ (s : State) (gang quad asid va : Nat) (priv : Bool) (pages : List TlbEntry) (x : TlbEntry) (bs : List Byte), bs ≠ [] → va % 64 + bs.length ≤ 64 →
      pages.find? (fun y => y.base = va / 4096 * 4096) = some x →
        s.drainRow gang quad asid priv pages va bs = (s.keepBefore gang va (x.pa + va % 4096) bs.length).writeHome asid va (s.localPa (x.pa + va % 4096)) x.leaf.toNat x.side bs)

/-- QUERY_COMPLETE answers one lane's query: its result registers receive the answer's words and the lane's slot is free, and when it was the last LD falls; a query whose root lies outside its pool is answered whatever memory holds; a discarded word's lanes receive LOST at once, its slots are free, LD falls and its wave is marked. GEOSYNC_DONE removes the context's node lines from the units it names and lets its wave go on (R395, R399, R407). The model's choice: log entry 30. -/
def Obligations.QueriesAnswer : Prop :=
  (∀ (s t : State) (q : Query) (l : QueryLane) (ws : List Word), s.eng.queries.find? (fun x => x.id = q.id) = some q → q.lanes.find? (fun x => x.lane = l.lane) = some l → l.lane < 32 →
    q.answer l s = .ok (ws, t) → exec (.queryComplete q.id (laneBit l.lane)) s = .next ((((t.pushedBy s.nextId q.id l.lane).putWords q.wave l.lane q.dst ws).modEng fun e =>
      { e with queries := e.queries.map fun x => if x.id = q.id then { x with lanes := x.lanes.filter fun y => y.lane ≠ l.lane } else x }).finishQuery q)) ∧
  (∀ (s : State) (q : Query) (l : QueryLane), s.eng.queries.find? (fun x => x.id = q.id) = some q → q.lanes.find? (fun x => x.lane = l.lane) = some l → l.lane < 32 → Entry.nodes l.entry ≤ l.root →
    ∃ ws, q.answer l s = .ok (ws, s) ∧ exec (.queryComplete q.id (laneBit l.lane)) s = .next ((((s.pushedBy s.nextId q.id l.lane).putWords q.wave l.lane q.dst ws).modEng fun e =>
      { e with queries := e.queries.map fun x => if x.id = q.id then { x with lanes := x.lanes.filter fun y => y.lane ≠ l.lane } else x }).finishQuery q)) ∧
  (∀ (s : State) (wave lane d : Nat) (ws : List Word) (w : Wave), s.wave? wave = some w → lane < 32 → d + ws.length ≤ 112 → ∃ y, (s.putWords wave lane d ws).wave? wave = some y ∧
    (∀ l n, l < 32 → n ≤ 111 → y.getV l n = if l = lane ∧ d ≤ n ∧ n < d + ws.length then ws.getD (n - d) 0 else w.getV l n) ∧ y.pc = w.pc ∧ y.s = w.s ∧ y.p = w.p ∧ (s.putWords wave lane d ws).mem = s.mem) ∧
  (∀ (s : State) (q : Query) (w : Wave), s.wave? q.wave = some w → w.alive = true → q.dst + q.lostWords.length ≤ 112 → (q.lanes.map fun l => l.lane).Nodup →
    ∃ y, (s.discardQuery q).wave? q.wave = some y ∧ y.rayLost = true ∧ y.ld = w.ld - 1 ∧ (q.lostWords.getD (q.lostWords.length - 1) 0).toNat / 2 ^ 16 = 8 ∧
      (∀ l ∈ q.lanes, l.lane < 32 → ∀ k < q.lostWords.length, y.getV l.lane (q.dst + k) = q.lostWords.getD k 0) ∧ ∀ x ∈ (s.discardQuery q).eng.queries, x.id ≠ q.id) ∧
  ∀ (s : State) (g : GeoSync), s.eng.syncs.find? (fun x => x.id = g.id) = some g → ∃ (nodes l1 : List CacheLine),
    exec (.geosyncDone g.id) s = .next { s with caches := { s.caches with nodes, l1 }, eng := { s.eng with syncs := s.eng.syncs.filter fun x => x.id ≠ g.id } } ∧
      (∀ x, x ∈ nodes ↔ x ∈ s.caches.nodes ∧ ¬(x.asid = g.asid ∧ x.core ∈ g.units)) ∧ ∀ x, x ∈ l1 ↔ x ∈ s.caches.l1 ∧ ¬(x.node = true ∧ x.asid = g.asid ∧ x.core ∈ g.units)

/-! ### Gangs, launches and queues -/

/-- QUANTUM_EXPIRY of a resident gang that has not expired, whose quantum is over while something waits in the FIFO, notes the cycle at which it expired, and its masked waves hold the request. A resident gang leaves: by GANG_EVICTION, with every wave at a blocking point, none masked, and the gang expired, its room needed or yielded; by FORCED_SAVE, 130,000 cycles after it expired with no wave masked; by PREEMPT_HOLD_TIMEOUT, a request having been held for 2^20 cycles. One that is quiet is saved and evicted; one that is not issues nothing more until it is. GANG_RESTORE brings the evicted gang at the FIFO's head back where it fits and its area can be read and the trap records of its privileged waves written, which is always so of one without such waves (R160, R161, R177, R200 to R204). An eviction whose area fits and can be written puts the gang off its cores: it is not resident, holds no core, has not expired and names its area, it stands at the FIFO's tail, its entries in the reservation tables are withdrawn in posting order, and its waves keep their registers and PCs, every open transaction of theirs having failed with its words gone, and no pre-emption request or lost-ray mark left; the other waves are as before (R177, R185, R200 to R202, R348). One that does not fit leaves it resident with a new quantum, and the kiln logs it. The model's choice: log entries 24, 50, 51, 53 and 90. -/
def Obligations.GangsExpireAndMove : Prop :=
  ((∀ (s : State) (g : Gang) (gr : Grid), s.gang? g.id = some g → s.grid? g.grid = some gr → g.resident = true → g.expired = none → s.fifo ≠ [] →
      g.placedAt + (s.quanta.get gr.cls).toNat * 325000 ≤ s.cycle.toNat → exec (.quantumExpiry g.id) s = .next { s.modGang g.id fun x => { x with expired := some s.cycle.toNat } with
        waves := s.waves.map fun w => if w.gang = g.id ∧ w.tm = true ∧ w.prepend = false then { w.setTstat w.tm w.priv true with heldSince := some s.cycle.toNat } else w }) ∧
    (∀ (s : State) (g : Gang), s.gang? g.id = some g → g.resident = true → let unmasked : Prop := ∀ w ∈ s.wavesOf g.id, w.alive = true → w.tm = false
      let leaves (full : Bool) (i : Instr) : Prop := (s.quiet g.id = true → exec i s = .next (s.evict g.id full)) ∧
        (s.quiet g.id = false → g.leaving = none → exec i s = .next (s.modGang g.id fun x => { x with leaving := some s.cycle.toNat }))
      ((∀ w ∈ s.wavesOf g.id, s.atBlocking w = true) → (g.expired.isSome = true ∨ s.headNeeds g.id = true ∨ s.hasYielded g.id = true) → unmasked → leaves false (.gangEviction g.id)) ∧
      (∀ t, g.expired = some t → t + 130000 ≤ s.cycle.toNat → unmasked → leaves true (.forcedSave g.id)) ∧
      (∀ w t, w ∈ s.wavesOf g.id → w.alive = true → w.heldSince = some t → t + 2 ^ 20 ≤ s.cycle.toNat → leaves true (.preemptHoldTimeout g.id))) ∧
    (∀ (s : State) (w : Wave) (g : Gang), g.leaving.isSome = true → w.hints = [] → s.canIssue w g = false) ∧
    ∀ (s s1 : State) (g : Gang) (gr : Grid) (area size first : Nat) (bs : List Byte) (rest : List Runnable), s.fifo = .gang g.id :: rest → s.gang? g.id = some g → g.saved = some (area, size) →
      s.grid? g.grid = some gr → s.choose gr g = some first → s.ctxRead gr.asid area size needRead true = .ok (bs, s1) → let back := ({ s1 with fifo := rest } : State).bringBack gr g first bs
      (∀ t, back = some t → exec (.gangRestore g.id) s = .next t.distribute) ∧
      ((∀ w ∈ s.waves, w.gang = g.id → w.priv = false) → ∃ t, back = some t ∧ exec (.gangRestore g.id) s = .next t.distribute)) ∧
  (∀ (s : State) (g : Gang) (gr : Grid) (full : Bool), s.gang? g.id = some g → s.grid? g.grid = some gr → let s1 := (s.modWaves ((s.wavesOf g.id).map fun w => w.id) Wave.saving).withdrawEntries g.id
      let bytes := s1.saveArea gr g full
      (s1.areaPlace gr.asid bytes.length = none → s.evict g.id full = s.stayOn gr g bytes.length) ∧
      let read := s1.noteReads gr.asid (s1.recordLooksOf gr g.id)
      (∀ a f, s1.areaPlace gr.asid bytes.length = some a → read.ctxWrite gr.asid a bytes needWrite true none = .error f → s.evict g.id full = s.stayOn gr g bytes.length) ∧
      (∀ x ∈ (s.stayOn gr g bytes.length).gangs, x.id = g.id → ∃ y ∈ s.gangs, x = { y with expired := none, leaving := none, placedAt := s.cycle.toNat }) ∧
      (∀ a s2, s1.areaPlace gr.asid bytes.length = some a → read.ctxWrite gr.asid a bytes needWrite true none = .ok s2 → ∃ u : State, s.evict g.id full = u.distribute ∧
        u.fifo = s2.fifo ++ [.gang g.id] ∧ (∀ x ∈ u.gangs, x.id = g.id → x.resident = false ∧ x.cores = [] ∧ x.expired = none ∧ x.saved = some (a, bytes.length)) ∧
        u.eng = s2.eng ∧ u.mem = s2.mem ∧ ((∀ x ∈ s.waves, ∀ y ∈ s.waves, x.id = y.id → x = y) → ∃ wake : Wave → Quad, u.waves = s.waves.map fun w => if w.gang = g.id then
          { w.setTstat w.tm w.priv false with txAbort := w.txAbort ||| w.txIn, txSet := [], rayLost := false, heldSince := none, wake := wake w } else w)) ∧
      s1.eng.matrix.table = s.eng.matrix.table.filter (fun e => e.gang ≠ g.id) ∧
      s1.eng.matrix.withdrawn = s.eng.matrix.withdrawn ++ (s.eng.matrix.table.filter fun e => e.gang = g.id).map (fun e => { e with pages := [] }))

/-- COMMAND_CLAIM takes the entry at CLAIM of a submission queue whose CLAIM is not its TAIL, on lines that are not poisoned, and CLAIM rises by 1; the oldest claimed command of its queue runs by its OP: LAUNCH checks the launch record and begins it or completes it with a status; a record that cannot be read completes with FETCH; SHOOTDOWN and CLEAN post the descriptor that they name, and fail where it cannot be read; CANCEL of a TAG that no launch of the queue has fails; an OP that is not listed, or a field that must be zero and is not, completes with BADCMD (R170 to R173, R482 to R484). The model's choice: log entries 54, 55, 56 and 59. -/
def Obligations.CommandsRun : Prop :=
  (∀ (s : State) (q : SubQueue), s.sub? q.id = some q → let tail := s.natAt q.header 4
    let claim := s.natAt (q.header + 4) 4
    tail ≠ claim → q.header % 64 = 0 → s.poisoned q.header 8 = none → s.poisoned (q.header + 64 + 64 * (claim % 2 ^ q.log2)) 64 = none → exec (.commandClaim q.id) s = .next ((({ s with nextId := s.nextId + 1 } : State).putNat (q.header + 4) 4 (claim + 1)).modHost fun h =>
      { h with commands := h.commands ++ [⟨s.nextId, q.id, q.asid, BitVec.ofNat 512 (s.natAt (q.header + 64 + 64 * (claim % 2 ^ q.log2)) 64)⟩] })) ∧
  ∀ (s : State) (c : Command), s.host.commands.find? (fun x => x.id = c.id) = some c → s.host.commands.find? (fun x => x.queue = c.queue) = some c →
    let t := s.modHost fun h => { h with commands := h.commands.filter fun x => x.id ≠ c.id }
    let e := c.entry.toNat
    let op := e % 2 ^ 8
    let tag := e / 2 ^ 16 % 2 ^ 16
    let addr := e / 2 ^ 64 % 2 ^ 64
    let bad : Prop := op = 0 ∨ 7 < op ∨ e / 2 ^ 8 % 2 ^ 8 ≠ 0 ∨ e / 2 ^ 32 % 2 ^ 32 ≠ 0 ∨ e / 2 ^ 128 % 2 ^ 384 ≠ 0
    (bad → exec (.unlistedOp c.id) s = .next (t.answer c.queue tag addr 1)) ∧
    (¬bad → op = 1 → let read := t.noteReads c.asid (t.recordLooks c.asid addr c.queue tag)
      let launches (v : State) : Prop := exec (.launch c.id) s = .next { v with fresh := v.fresh + (read.fresh - t.fresh) }
      (read.readRecord c.asid addr c.queue tag = none → launches (read.unreadLaunch c.queue tag)) ∧
      ∀ g, read.readRecord c.asid addr c.queue tag = some g → let g1 : Grid := { g with id := read.nextId }
        let u : State := { read with nextId := read.nextId + 1 }
        (u.launchStatus g1 none = 0 → launches (u.begin g1)) ∧
        (u.launchStatus g1 none ≠ 0 → launches (u.complete (u.launchCq g1) (completionEntry (u.launchStatus g1 none) 3 tag c.queue g1.launchId)))) ∧
    (¬bad → op = 3 ∨ op = 4 → (∀ f, t.readDesc c.asid addr true = .error f → (op = 3 → exec (.shootdown c.id) s = .next (t.answer c.queue tag addr 3)) ∧
        (op = 4 → exec (.clean c.id) s = .next (t.answer c.queue tag addr 3))) ∧
      ∀ d u, t.readDesc c.asid addr true = .ok (d, u) → descRejected d (fun k => decide (k = 2 ∨ k = 1 ∧ op = 3)) = false →
        let w : Sweep := ⟨u.nextId, .command c.queue tag (BitVec.ofNat 64 addr), c.asid, addr, d / 2 ^ 112 % 2 ^ 8, d % 2 ^ 64, d / 2 ^ 64 % 2 ^ 32, d / 2 ^ 96 % 2 ^ 12, d.testBit 120⟩
        (op = 3 → s.eng.shootdowns.length < 16 → exec (.shootdown c.id) s = .next (({ u with nextId := u.nextId + 1 } : State).modEng fun e => { e with shootdowns := e.shootdowns ++ [w] })) ∧
        (op = 4 → s.eng.cleans.length < 16 → exec (.clean c.id) s = .next (({ u with nextId := u.nextId + 1 } : State).modEng fun e => { e with cleans := e.cleans ++ [w] }))) ∧
    (¬bad → op = 5 → (t.grids.find? (fun g => g.queue = c.queue && g.tag = addr % 2 ^ 16 && g.consumerOf.isNone) = none → exec (.cancel c.id) s = .next (t.answer c.queue tag addr 3)) ∧
      ∀ g, t.grids.find? (fun g => g.queue = c.queue && g.tag = addr % 2 ^ 16 && g.consumerOf.isNone) = some g →
        (g.phase = .held → exec (.cancel c.id) s = .next (((({ t with grids := t.grids.filter fun x => x.id ≠ g.id } : State).launchAnswer g 0 2)).answer c.queue tag addr 0)) ∧
        (g.phase ≠ .held → exec (.cancel c.id) s = .next ((t.endLaunch g 2).distribute.answer c.queue tag addr 0)))

/-- SIGNAL_CHECK of a held launch lets it run, after an acquire, when every signal word that it names is at least its value, and completes it with FETCH where one cannot be read; the kiln's reads through a context leave no more than accessed bits, what the caches but for the L1s hold, and what a poisoned line brings; LAUNCH_COMPLETE of a launch that is over closes it: its SIGOUT counter rises by 1 and its completion is due (R171, R172, R484). The model's choice: log entries 15 and 56. -/
def Obligations.LaunchesWaitAndComplete : Prop :=
  (∀ (s : State) (g : Grid), s.grid? g.id = some g → g.phase = .held → let read := s.noteReads g.asid g.signalLooks
    (s.signalsMet g = some true → exec (.signalCheck g.id) s = .next ({ read.acquireAll.modGrid g.id (fun x => { x with phase := .running }) with fifo := read.fifo ++ [.grid g.id] } : State).distribute) ∧
    (s.signalsMet g = some false → read.mem ≠ s.mem → exec (.signalCheck g.id) s = .next read) ∧
    (s.signalsMet g = none → exec (.signalCheck g.id) s = .next (({ read with grids := read.grids.filter fun x => x.id ≠ g.id } : State).launchAnswer g 5 3))) ∧
  (∀ (s : State) (asid : Nat) (looks : List Look), let u := s.noteReads asid looks
    u = { s with mem := u.mem, caches := u.caches, fresh := u.fresh, host := u.host, kiln := u.kiln } ∧ u.caches.l1 = s.caches.l1 ∧ (s.poison = [] → u.fresh = s.fresh ∧ u.kiln = s.kiln)) ∧
  (∀ (s : State) (g : Grid), s.grid? g.id = some g → s.launchOver g = true → exec (.launchComplete g.id) s = .next (s.closeGrid g).distribute) ∧
  (∀ (s : State) (g : Grid), s.signalsMet g = some true ↔ ∀ k, k < 4 → g.sigaddr k ≠ 0 → ∃ v, s.readTable g.asid (g.sigaddr k) 8 1 = some [v] ∧ g.sigval k ≤ v) ∧
  (∀ (s s1 s2 : State) (g : Grid) (v : Nat), g.sigout ≠ 0 → s.ctxNat g.asid g.sigout 8 needBoth false = .ok (v, s1) → s1.ctxWrite g.asid g.sigout (bytesOfNat 8 (v + 1)) needBoth false none = .ok s2 →
    s.addSigout g = (0, s2)) ∧
  ∀ (s : State) (g : Grid), g.consumerOf = none → ∃ u : State, u.mem = s.mem ∧ u.host = s.host ∧ u.grids = s.grids.filter (fun x => x.id ≠ g.id) ∧
    (g.result = none → s.closeGrid g = (u.addSigout g).2.launchAnswer g (u.addSigout g).1 (if (u.addSigout g).1 = 0 then 0 else 3)) ∧ (∀ c st, g.result = some (c, st) → s.closeGrid g = u.launchAnswer g st c)

/-- HELD_COMPLETION writes a completion queue's held entries in their order while the ring has room; CQ_TIMER signals its vector TIMER microseconds after the oldest unsignalled entry; HELD_EVENT_WRITE writes the oldest held event once it can be. A written entry stands at DTAIL's slot with the PHASE bit of its index, DTAIL rises by 1, and the vector is signalled when COUNT entries stand unsignalled; a written event so; a FAULT's block goes into its context's next slot first, whose address stands in the record's DATA, and it is held while the record that last named the slot is not below the ring's HEAD (R485 to R487). -/
def Obligations.CompletionsAndEvents : Prop :=
  (∀ (s : State) (q : CompQueue), s.comp? q.id = some q → (q.held ≠ [] → s.compRoom q = true → exec (.heldCompletion q.id) s = .next (s.flushComp q.id q.held.length)) ∧
    (q.unsignalled ≠ 0 → q.oldest + q.timer * 1300 ≤ s.cycle.toNat → exec (.cqTimer q.id) s = .next (s.modHost fun h => { h with
      comps := h.comps.map (fun x => if x.id = q.id then { x with unsignalled := 0 } else x), msix := h.msix.set q.vector (h.msix.get q.vector + 1) }))) ∧
  (∀ (s : State) (e : Event) (es : List Event), s.host.events = e :: es → s.eventReady e = true → exec .heldEventWrite s = .next ((s.modHost fun h => { h with events := es }).writeEvent e)) ∧
  (∀ (s : State) (q : CompQueue) (e : BitVec 128), q.log2 ≤ 16 → q.header + 2 ^ 21 ≤ 2 ^ 51 → let u := s.writeEntry q e
    let at_ := q.header + 64 + 16 * (q.tail % 2 ^ q.log2)
    u.natAt (q.header + 4) 4 = (q.tail + 1) % 2 ^ 32 ∧ u.natAt at_ 16 = (e.toNat + (q.tail / 2 ^ q.log2 + 1) % 2) % 2 ^ 128 ∧
    SameBytesOutside s u (fun a => (s.localPa at_ ≤ a ∧ a < s.localPa at_ + 16) ∨ (s.localPa (q.header + 4) ≤ a ∧ a < s.localPa (q.header + 4) + 4)) ∧
    (q.count ≤ q.unsignalled + 1 → u.host.msix = s.host.msix.set q.vector (s.host.msix.get q.vector + 1)) ∧ (q.unsignalled + 1 < q.count → u.host.msix = s.host.msix)) ∧
  (∀ (s : State) (e : Event) (asid : Nat) (block : List Byte), e.fault = some (asid, block) → s.host.ringLog2 ≤ 16 → s.host.ring + 2 ^ 23 ≤ 2 ^ 51 → let u := s.writeEvent e
    let slot := (s.ctx asid).nextFault % 2 ^ (s.ctx asid).fblog2n
    let base := (s.ctx asid).faultbuf.toNat + 2048 * slot
    block.length ≤ 2048 → base + 2048 ≤ 2 ^ 51 → base + 2048 ≤ s.host.ring ∨ s.host.ring + 2 ^ 23 ≤ base → u.bytesAt base block.length = block ∧ (u.ctx asid).nextFault = (s.ctx asid).nextFault + 1 ∧
      u.natAt (s.host.ring + 4) 4 = (s.host.ringTail + 1) % 2 ^ 32 ∧ u.natAt (s.host.ring + 64 + 64 * (s.host.ringTail % 2 ^ s.host.ringLog2)) 64 =
        (e.record.toNat + base * 2 ^ 84 + (s.host.ringTail / 2 ^ s.host.ringLog2 + 1) % 2) % 2 ^ 512 ∧ (asid, slot, s.host.ringTail) ∈ u.host.slots) ∧
  (∀ (s : State) (e : Event) (asid : Nat) (block : List Byte), e.fault = some (asid, block) → let slot := (s.ctx asid).nextFault % 2 ^ (s.ctx asid).fblog2n
    (∃ x ∈ s.host.slots, x.1 = asid ∧ x.2.1 = slot ∧ 2 ^ 31 ≤ (s.natAt s.host.ring 4 + 2 ^ 32 - (x.2.2 + 1)) % 2 ^ 32) → s.eventReady e = false) ∧
  ∀ (s : State) (e : Event), e.fault = none → s.host.ringLog2 ≤ 16 → s.host.ring + 2 ^ 23 ≤ 2 ^ 51 → let u := s.writeEvent e
    let at_ := s.host.ring + 64 + 64 * (s.host.ringTail % 2 ^ s.host.ringLog2)
    u.natAt (s.host.ring + 4) 4 = (s.host.ringTail + 1) % 2 ^ 32 ∧ u.natAt at_ 64 = (e.record.toNat + (s.host.ringTail / 2 ^ s.host.ringLog2 + 1) % 2) % 2 ^ 512 ∧
    u.host.ringTail = (s.host.ringTail + 1) % 2 ^ 32

/-- A shootdown that nothing is under way under any more completes: no TLB entry, L1 line, instruction line, node line or texel of a page that it names is left, locked or not, nor a decoded line that was filled from one, open transactions that hold a word of one have failed, it is off the list, and the kiln's own shootdowns that waited begin while fewer than 16 are in flight; a wave's or a command's post has its STATUS word DONE, and a command its completion, FAILED where that word cannot be written; the kiln's own and the mailbox's, once no gang of the context is left, close the launches that a reset has ended, and the mailbox's goes on with its command. A clean completes with no modified line left that it names (R38 to R41, R55, R67, R68). The model's choice: log entry 32. -/
def Obligations.SweepsComplete : Prop :=
  (∀ (s : State) (w : Sweep), s.eng.shootdowns.find? (fun x => x.id = w.id) = some w → s.sweepReady w = true →
    let u : State := (s.sweepOut w).modEng fun e => ({ e with shootdowns := e.shootdowns.filter fun x => x.id ≠ w.id } : Engines).beginQueued
    ((∃ asid, w.poster = .wave asid) ∨ (∃ queue tag addr, w.poster = .command queue tag addr) → exec (.shootdownComplete w.id) s = .next (u.finishPost w).distribute) ∧
    ((∀ g ∈ s.gangs, ∀ gr, s.grid? g.grid = some gr → gr.asid ≠ w.target) → let closed := (u.grids.filter fun g => g.asid = w.target && g.phase = .ending).foldl (fun t g => t.closeGrid g) u
      (w.poster = .mailbox → exec (.shootdownComplete w.id) s = .next (closed.afterMailboxSweep w.target).distribute) ∧
      (w.poster = .kiln → exec (.shootdownComplete w.id) s = .next closed.distribute))) ∧
  (∀ e : Engines, let n := 16 - e.shootdowns.length
    e.beginQueued.shootdowns ++ e.beginQueued.queued = e.shootdowns ++ e.queued ∧ e.beginQueued.shootdowns.length = e.shootdowns.length + min n e.queued.length ∧
      e.beginQueued = { e with shootdowns := e.beginQueued.shootdowns, queued := e.beginQueued.queued }) ∧
  (∀ (s : State) (w : Sweep), let u := s.sweepOut w
    let named (asid va : Nat) : Prop := w.kind = 2 ∨ asid = w.target ∧ (w.kind = 1 ∨ w.va ≤ va ∧ va < w.va + 4096 * w.count)
    u.mem = s.mem ∧ (∀ x, x ∈ u.caches.l1 ↔ x ∈ s.caches.l1 ∧ ¬named x.asid (x.src * 64)) ∧ (∀ x, x ∈ u.caches.l1i ↔ x ∈ s.caches.l1i ∧ ¬named x.asid (x.src * 64)) ∧
    (∀ x, x ∈ u.caches.nodes ↔ x ∈ s.caches.nodes ∧ ¬named x.asid (x.src * 64)) ∧ (∀ x, x ∈ u.caches.texels ↔ x ∈ s.caches.texels ∧ ¬named x.asid (x.src * 64)) ∧
    (∀ e ∈ u.caches.tlb, e ∈ s.caches.tlb ∧ ∀ va, e.base ≤ va → va < e.base + 2 ^ e.log2 → ¬named e.asid va) ∧
    ∃ fails : Wave → Lanes, u.waves = s.waves.map (fun v => { v with txAbort := v.txAbort ||| fails v }) ∧
      ∀ v l, l < 32 → ((fails v).getLsbD l = true ↔ v.txIn.getLsbD l = true ∧ ∃ x ∈ v.txSet, x.lane = l ∧ named (s.asidOf v) x.va)) ∧
  (∀ (s : State) (w : Sweep), w.irq = false → let status := s.ctxWrite w.asid (w.desc + 16) (bytesOfNat 8 1) needBoth true none
    (∀ asid t, w.poster = .wave asid → status = .ok t → s.finishPost w = t) ∧
    ∀ queue tag addr, w.poster = .command queue tag addr → (∀ t, status = .ok t → s.finishPost w = t.answer queue tag addr.toNat 0) ∧ ∀ e, status = .error e → s.finishPost w = s.answer queue tag addr.toNat 3) ∧
  (∀ (s : State) (w : Sweep), s.eng.cleans.find? (fun x => x.id = w.id) = some w →
    exec (.cleanComplete w.id) s = .next (((s.cleanLines w).modEng fun e => { e with cleans := e.cleans.filter fun x => x.id ≠ w.id }).finishPost w)) ∧
  ∀ (s : State) (w : Sweep) (d : DirtyLine), d ∈ (s.cleanLines w).caches.dirty ↔ d ∈ s.caches.dirty ∧ s.cleanNames w d = false

/-- CKPT and RESTORE read their descriptor: one that cannot be read, or whose fields are not as R497 says, is answered as failed, and one that is begins a checkpoint or a restore to its destination in the host window, when none is under way; every resident gang expires. CHECKPOINT_COMPLETE of one, with the device drained, copies device memory, after a clean of all of it, out to the destination, or an incremental one its pages with a dirty mark alone, or back from it, and completes its command (R482, R497). The model's choice: log entry 70. -/
def Obligations.CheckpointsCopyMemory : Prop :=
  (∀ (s : State) (c : Command), s.host.commands.find? (fun x => x.id = c.id) = some c → s.host.commands.find? (fun x => x.queue = c.queue) = some c → c.bad = false →
    let t := s.modHost fun h => { h with commands := h.commands.filter fun x => x.id ≠ c.id }
    let row (restore : Bool) : Instr := if restore = true then .restore c.id else .ckpt c.id
    ∀ restore : Bool, c.op = (if restore = true then 7 else 6) →
      (∀ f, t.ctxNat c.asid c.addr 64 needRead true = .error f → exec (row restore) s = .next (t.answer c.queue c.tag c.addr 3)) ∧
      ∀ d u, t.ctxNat c.asid c.addr 64 needRead true = .ok (d, u) →
        let good : Prop := d / 2 ^ 129 % 2 ^ 383 = 0 ∧ d % 2 ^ 12 = 0 ∧ d / 2 ^ 50 % 2 ^ 14 = 1 ∧ 2 ^ 39 + 2 ^ 26 ≤ d / 2 ^ 64 % 2 ^ 64
        (¬good → exec (row restore) s = .next (u.answer c.queue c.tag c.addr 3)) ∧
        (good → s.eng.checkpoints = [] → let v : State := ({ u with nextId := u.nextId + 1 } : State).modEng fun e =>
            { e with checkpoints := [{ id := u.nextId, poster := .command c.queue c.tag (BitVec.ofNat 64 c.addr), restore, dest := d % 2 ^ 52, incr := d.testBit 128, since := t.cycle.toNat }] }
          exec (row restore) s = .next ((v.gangs.filter fun g => g.resident && g.expired.isNone).foldl (fun x g => x.expire g.id) v))) ∧
  (∀ (s : State) (k : Checkpoint) (queue tag : Nat) (addr : Quad), s.eng.checkpoints.find? (fun x => x.id = k.id) = some k → s.drained = true → k.poster = .command queue tag addr →
    exec (.checkpointComplete k.id) s = .next ((((if k.restore = true then s.putImage k else s.takeImage k).modEng fun e => { e with checkpoints := e.checkpoints.filter fun x => x.id ≠ k.id }).answer queue tag addr.toNat 0).distribute)) ∧
  (∀ (mem : Memory) (dest a : Nat), 2 ^ 39 ≤ dest → (a < 2 ^ 39 → (copyOut mem dest none).get (dest + a) = mem.get a ∧ (copyOut mem dest none).get a = mem.get a ∧
      (copyBack mem dest).get a = mem.get (dest + a)) ∧
    (2 ^ 39 ≤ a → (copyBack mem dest).get a = mem.get a) ∧ (a < dest ∨ dest + 2 ^ 39 ≤ a → (copyOut mem dest none).get a = mem.get a)) ∧
  (∀ (mem : Memory) (dest : Nat) (pages : List Nat), 2 ^ 39 ≤ dest → (∀ p ∈ pages, p < 2 ^ 27) → ∀ a, a < 2 ^ 39 →
    (copyOut mem dest (some pages)).get (dest + a) = if a / 4096 ∈ pages then mem.get a else mem.get (dest + a)) ∧
  ∀ (s : State) (k : Checkpoint), let clean := s.cleanLines { id := 0, poster := .kiln, asid := 0, desc := 0, kind := 2, va := 0, count := 0, target := 0, irq := false }
    (s.takeImage k).mem = copyOut clean.mem k.dest (if k.incr = true then some clean.dirtyPages else none) ∧ (∀ p ∈ clean.dirtyPages, p < 2 ^ 27) ∧ (s.putImage k).mem = copyBack s.mem k.dest

/-- VXLAUNCH of a descriptor that cannot be read completes with FETCH; of a module that its check refuses it writes the STATUS, with the first fault where there is one, and completes with LAUNCH or FETCH; of a module that passes it goes on to the native record. SEGMENT_TRANSLATION puts a segment of a launch's module that is not in the code cache there, its native words and its PC map in memory, at a new place or at one in which no PC lies. REGROUP, with every thread of a workgroup at its segment's end and no access of its waves out, gives the blocks their new places and every thread its successor's entry; a wave with a thread whose successor is not translated waits there (R426, R431, R432, R440, R441). The model's choice: log entries 9, 71, 72 and 73. -/
def Obligations.VoxLaunchesRun : Prop :=
  (∀ (s : State) (c : Command), s.host.commands.find? (fun x => x.id = c.id) = some c → s.host.commands.find? (fun x => x.queue = c.queue) = some c → c.bad = false → c.op = 2 →
    let t := s.modHost fun h => { h with commands := h.commands.filter fun x => x.id ≠ c.id }
    let read := t.noteReads c.asid (t.voxLooks c)
    let launches (v : State) : Prop := exec (.vxlaunch c.id) s = .next { v with fresh := v.fresh + (read.fresh - t.fresh) }
    (read.readTable c.asid c.addr 16 1 = none → launches (read.unreadLaunch c.queue c.tag)) ∧
    ∀ l, read.readTable c.asid c.addr 16 1 = some l →
      (read.readRecord c.asid (l.headD 0 / 2 ^ 64 % 2 ^ 64) c.queue c.tag = none → launches ((read.voxStatus c.asid c.addr 7 none).unreadLaunch c.queue c.tag)) ∧
      ∀ g, read.readRecord c.asid (l.headD 0 / 2 ^ 64 % 2 ^ 64) c.queue c.tag = some g →
      (∀ st at_, read.checkModule c.asid (l.headD 0 % 2 ^ 64) g.wgthr = .bad st at_ → launches ((read.voxStatus c.asid c.addr st at_).launchAnswer g (if st = 7 then 5 else 1) 3)) ∧
      ∀ h m, read.checkModule c.asid (l.headD 0 % 2 ^ 64) g.wgthr = .ok h m → launches (read.voxBegin g c.addr h m)) ∧
  (∀ (s : State) (g : Grid) (m : VoxModule) (k : Nat) (e : CodeEntry), s.grid? g.id = some g → g.vox = some m → m.segs[k]? = some e → e ∉ s.code →
    exec (.segmentTranslation g.id k) s = .next (s.putSegment e).wakeTranslated ∧ let n := s.newPlace; let at_ := codeArea + n * 2 ^ 20
    (n = s.code.length ∨ (n < s.code.length ∧ s.placeKept n = false)) ∧ (s.putSegment e).code[n]? = some e ∧ (∀ j, j ≠ n → (s.putSegment e).code[j]? = s.code[j]?) ∧
    (s.putSegment e).mem = ((s.putBytes at_ (e.native.flatMap fun x => bytesOfNat 4 x.2.toNat)).putBytes (at_ + 2 ^ 19) (e.pcMap.flatMap fun w => bytesOfNat 4 w.toNat)).mem) ∧
  ∀ (s : State) (ga : Gang) (gr : Grid) (m : VoxModule) (g : VoxGroup), s.gang? ga.id = some ga → s.grid? ga.grid = some gr → gr.vox = some m →
    s.groups.find? (fun x => x.gang = ga.id && x.wg = g.wg) = some g → ga.resident = true → ga.expired = none → let ws := s.wavesOfWg ga.id g.wg
    (∃ w ∈ ws, w.alive = true) → (∀ w ∈ ws, w.ld = 0 ∧ w.st = 0 ∧ w.cp = 0) → (∀ w ∈ ws, w.alive = true → w.atEnd = true ∧ w.wakeKind = 9 ∧ s.trapDue w = false) →
    let blocks := s.blocksOf ga.id g m.width
    let succs := (blocks.flatMap fun b => b.succ m.width (gr.regs - 16)).eraseDups
    let sorted := sortBlocks m.width (gr.regs - 16) blocks
    let place (w : Wave) : Wave := s.regroupWave gr m sorted (succs.all fun k => (m.segs[k]?).any fun e => e.gather) w
    (∀ w, (place w).untranslatedWait = true → (place w).wakeKind = 9) ∧ ((succs.length ≤ 1 ∨ ∃ k ∈ succs, (m.segs[k]?).any (fun e => e.gather) = false) →
    exec (.regroup ga.id g.wg) s = .next { (succs.filterMap fun k => (m.segs[k]?).bind s.cached).foldl State.useCode (s.modWaves (ws.map fun w => w.id) place) with
      groups := s.groups.map fun x => if x.gang = ga.id && x.wg = g.wg then { x with order := sorted.map fun b => b.k } else x })

/-! ### The mailbox, power, links, the host -/

/-- Mailbox commands on contexts, with no command running and the device not in recovery: CTXCREATE with allowed arguments for an ASID that is not valid runs with a whole-context shootdown, after which the context's registers are written on every core, and then its entry; CTXRESET and CTXDESTROY of a valid context run with the reset of R488, CTXDESTROY with the entry's V cleared to follow; a refused command ends at once with BADARG or DENIED and does nothing else; CTXSET of a register that a context holds writes it on every core (R18, R480, R481, R488). Mailbox commands on queues: SQCREATE makes CLAIM the queue's TAIL and the queue known, CQCREATE makes DTAIL 0 and the queue known, EVRING sets the ring with DTAIL 0, each with arguments that R482, R484, R486 and R487 allow; an existing number is DENIED; QDELETE of a queue that nothing needs removes it, and of one that is needed, be it for a command that is only posted, is DENIED (R480 to R482, R484, R486, R487). The model's choice: log entries 60, 61, 64 and 85. -/
def Obligations.ContextAndQueueCommandsRun : Prop :=
  (∀ s : State, s.kiln.recovery = false → s.kiln.mbstat.getLsbD 0 = false → let op := s.kiln.mbcmd.toNat % 2 ^ 16
      let a (n : Nat) : Nat := (s.kiln.mbarg.get n).toNat
      let running (entry : Option (Nat × Option Context)) : State := s.modKiln fun k => { k with mbstat := (k.mbstat &&& 2) ||| 1, pending := some (a 0, entry) }
      let ends (r : Nat) (t : State) : State := t.modKiln fun k => { k with mbstat := (k.mbstat &&& 2) ||| BitVec.ofNat 64 (r * 2 ^ 8), pending := none }
      (op = 0x01 → (∀ r, s.createRefused = some r → exec .ctxcreate s = .next (ends r s)) ∧
        (s.createRefused = none → ∃ c : Context, c.fpc = s.kiln.mbarg.get 2 &&& 0x3F ∧ c.tvbase = s.kiln.mbarg.get 3 &&& 0x0FFFFFFFFFFFFF80 ∧ c.trbase = s.kiln.mbarg.get 4 &&& 0x0FFFFFFFFF000000 ∧
          c.svbase = s.kiln.mbarg.get 5 &&& 0x0FFFFFFFFFFFF000 ∧ c.svsize = s.kiln.mbarg.get 6 &&& 0xFFFF ∧ c.crbase = s.kiln.mbarg.get 7 &&& 0x0FFFFFFFFFFFFFC1 ∧
          (∀ k, k < 384 → c.lkpbase.get k = s.kiln.mbarg.get 9 &&& 0x0FFFFFFFFFE00000 ∧ c.lkpsize.get k = s.kiln.mbarg.get 10 &&& 0xFFFF) ∧
          c.faultbuf = s.kiln.mbarg.get 11 ∧ c.fblog2n = a 12 ∧ c.defaultCq = a 13 ∧
          exec .ctxcreate s = .next ((running (some (a 1, some c))).kilnSweep (a 0) .mailbox))) ∧
      (∀ (t : State) (n e : Nat) (c : Context), t.kiln.pending = some (n, some (e, some c)) → t.afterMailboxSweep n = ends 0 ((t.modCtx n fun _ => c).putNat (t.ctxBase + 8 * n) 8 e)) ∧
      (∀ (t : State) (n e : Nat), t.kiln.pending = some (n, some (e, none)) →
        t.afterMailboxSweep n = ((t.putNat (t.ctxBase + 8 * n) 8 e).modKiln fun k => { k with pending := some (n, none) }).kilnSweep n .mailbox) ∧
      (op = 0x03 → (s.valid (a 0) = false → exec .ctxreset s = .next (ends 2 s)) ∧ (s.valid (a 0) = true → exec .ctxreset s = .next ((running none).startReset (a 0) .mailbox))) ∧
      (op = 0x04 → (s.valid (a 0) = false → exec .ctxdestroy s = .next (ends 2 s)) ∧
        (s.valid (a 0) = true → exec .ctxdestroy s = .next ((running (some (s.ctxEntry (a 0) - 1, none))).startReset (a 0) .mailbox))) ∧
      (op = 0x02 → (s.valid (a 0) = false → exec .ctxset s = .next (ends 2 s).distribute) ∧
        (s.valid (a 0) = true → (a 1 = 0x000 ∨ (0x020 ≤ a 1 ∧ a 1 ≤ 0x02A) ∨ (0x050 ≤ a 1 ∧ a 1 ≤ 0x057)) → exec .ctxset s = .next (ends 0 (s.setCtxReg (a 0) (a 1) (List.range 384) (s.kiln.mbarg.get 2))).distribute))) ∧
  (∀ s : State, s.kiln.recovery = false → s.kiln.mbstat.getLsbD 0 = false → let op := s.kiln.mbcmd.toNat % 2 ^ 16
      let a (n : Nat) : Nat := (s.kiln.mbarg.get n).toNat
      let ends (r : Nat) (t : State) : Host.Outcome State Fault Refusal := .next (t.modKiln fun k => { k with mbstat := (k.mbstat &&& 2) ||| BitVec.ofNat 64 (r * 2 ^ 8), pending := none }).distribute
      let h := s.natAt (a 1) 64
      let log2 := h / 2 ^ 64 % 2 ^ 5
      (op = 0x10 → a 0 ≤ 255 → namedPa (a 1) = true → a 3 ≤ 4095 → (s.comp? (a 2)).isSome = true → 4 ≤ log2 → log2 ≤ 16 → h / 2 ^ 69 = 0 →
        ((s.sub? (a 0)).isSome = true → exec .sqcreate s = ends 3 s) ∧
        (s.sub? (a 0) = none → exec .sqcreate s = ends 0 ((s.putNat (a 1 + 4) 4 (h % 2 ^ 32)).modHost fun x => { x with subs := x.subs ++ [⟨a 0, a 1, log2, a 2, a 3⟩] }))) ∧
      (op = 0x11 → a 0 ≤ 255 → namedPa (a 1) = true → a 2 ≤ 255 → 1 ≤ a 3 → a 3 ≤ 256 → 1 ≤ a 4 → a 4 ≤ 1023 → h % 2 ^ 32 = 0 → 4 ≤ log2 → log2 ≤ 16 →
        ((s.comp? (a 0)).isSome = true → exec .cqcreate s = ends 3 s) ∧
        (s.comp? (a 0) = none → exec .cqcreate s = ends 0 ((s.putNat (a 1 + 4) 4 0).modHost fun x =>
          { x with comps := x.comps ++ [{ id := a 0, header := a 1, log2, vector := a 2, count := a 3, timer := a 4, tail := 0, unsignalled := 0, oldest := 0, held := [] }] }))) ∧
      (op = 0x12 → (∀ q, a 0 = 0 → s.sub? (a 1) = some q → (∀ x ∈ s.unfinished, x.1 ≠ a 1) → exec .qdelete s = ends 0 (s.modHost fun h => { h with subs := h.subs.filter fun q => q.id ≠ a 1 })) ∧
        (∀ q, a 0 = 0 → s.sub? (a 1) = some q → ((∃ x ∈ s.unfinished, x.1 = a 1) ∨ s.natAt q.header 4 ≠ s.natAt (q.header + 4) 4) → exec .qdelete s = ends 3 s) ∧
        (∀ q, a 0 = 1 → s.comp? (a 1) = some q → s.compNeeded q = false → exec .qdelete s = ends 0 (s.modHost fun h => { h with comps := h.comps.filter fun x => x.id ≠ a 1 })) ∧
        (∀ q, a 0 = 1 → s.comp? (a 1) = some q → s.compNeeded q = true → exec .qdelete s = ends 3 s)) ∧
      (op = 0x40 → (namedPa (a 0) = true → 4 ≤ a 1 → a 1 ≤ 16 → exec .evring s = ends 0 ((s.putNat (a 0 + 4) 4 0).modHost fun h => { h with ring := a 0, ringLog2 := a 1, ringTail := 0, slots := [] })) ∧
        (a 1 < 4 ∨ 16 < a 1 → exec .evring s = ends 2 s)))

/-- The other mailbox commands: QUANTUM sets a class's quantum of 1 to 64 quarters of a millisecond, PIN pins the 4 KiB pages of a mapped page of that HOME for which there is room and UNPIN takes its pins away, its modified lines being served as HOME 00 from then on, and either writes back modified HOME 00 lines that a slice of 32,768 lines has no room for, PROOFPULL latches every occupied wave slot's proof, PROOFREAD writes to MBRES words that the core's latched set alone decides (their layout is not stated), PEERNUM sets the package number, by which the L1s' lines are local or a peer's, FWSTAGE fills the slot that did not boot and FWCOMMIT marks it where its image passes, and both are DENIED of the slot that booted; an argument out of range, a page not mapped or without room, or without a pin for UNPIN, is BADARG and changes nothing else; an opcode that is not listed is BADCMD; a doorbell while a command runs only sets ERR (R60, R61, R64, R161, R206, R480, R481, R489, R490). The model's choice: log entries 60, 62, 63 and 65. -/
def Obligations.DeviceCommandsRun : Prop :=
  (∀ s : State, s.kiln.recovery = false → s.kiln.mbstat.getLsbD 0 = false → let op := s.kiln.mbcmd.toNat % 2 ^ 16
    let a (n : Nat) : Nat := (s.kiln.mbarg.get n).toNat
    let ends (r : Nat) (t : State) : Host.Outcome State Fault Refusal := .next (t.modKiln fun k => { k with mbstat := (k.mbstat &&& 2) ||| BitVec.ofNat 64 (r * 2 ^ 8), pending := none }).distribute
    let mine (t : State) (k : Nat) : List DirtyLine := t.caches.dirty.filter fun d => decide (d.home = 0 ∧ homeSlice (d.pline * 64) = k)
    let roomy (t : State) : Prop := ∀ k, k < 192 → (mine t k).length + linesAt k t.slicePins ≤ 32768
    let trimmed (t u : State) : Prop := u = { t with mem := u.mem, caches := { t.caches with dirty := u.caches.dirty }, host := { t.host with cached := u.host.cached } } ∧ (roomy t → u = t) ∧
      (∀ k, k < 192 → mine u k = [] ∨ (mine u k).length + linesAt k t.slicePins ≤ 32768) ∧ (∀ d ∈ u.caches.dirty, d ∈ t.caches.dirty) ∧
      ∀ x, (∀ d ∈ t.caches.dirty, ∀ side ∈ d.sides, x ≠ t.localPa (side.1 + side.2 / 8)) → u.mem.get x = t.mem.get x
    (op = 0x20 → (a 0 ≤ 3 → 1 ≤ a 1 → a 1 ≤ 64 → exec .quantum s = ends 0 { s with quanta := s.quanta.set (a 0) (s.kiln.mbarg.get 1) }) ∧ (3 < a 0 ∨ a 1 = 0 ∨ 64 < a 1 → exec .quantum s = ends 2 s)) ∧
    (∀ tr, s.pinTarget = some tr ↔ a 0 ≤ 4095 ∧ a 1 % 4096 = 0 ∧ (a 2 = 1 ∨ a 2 = 2) ∧ walk s (a 0) (a 1) ⟨false, false, false⟩ true = .ok tr ∧ leafHome tr.leaf = a 2) ∧
    (op = 0x21 → (s.pinTarget = none → exec .pin s = ends 2 s) ∧ (∀ tr, s.pinTarget = some tr → let owner := if a 2 = 2 then leafOwner tr.leaf else 0
      let pages := tr.pages.filter fun p => !s.caches.pins.contains ⟨p, a 2, owner⟩
      (s.pinRoom (a 2) owner pages = true → ∃ u, exec .pin s = ends 0 u ∧ trimmed (s.modCaches fun c => { c with pins := c.pins ++ pages.map fun p => ⟨p, a 2, owner⟩ }) u) ∧
      (s.pinRoom (a 2) owner pages = false → exec .pin s = ends 2 s))) ∧
    (op = 0x22 → (s.pinTarget = none → exec .unpin s = ends 2 s) ∧ ∀ tr, s.pinTarget = some tr → let pinned : Prop := ∃ p ∈ s.caches.pins, p.page ∈ tr.pages ∧ p.home = a 2
      (¬pinned → exec .unpin s = ends 2 s) ∧
      (pinned → ∃ u, exec .unpin s = ends 0 u ∧ trimmed (s.modCaches fun c => { c with
        pins := c.pins.filter fun p => !(tr.pages.contains p.page && p.home = a 2)
        dirty := c.dirty.map fun d => if a 2 = 1 ∧ d.home = 1 ∧ d.pline / 64 ∈ tr.pages then { d with home := 0 } else d }) u)) ∧
    (op = 0x30 → 383 < a 0 → exec .proofread s = ends 2 s) ∧
    (op = 0x31 → ∃ proofs : List Proof, exec .proofpull s = ends 0 (s.modKiln fun k => { k with proofs }) ∧ proofs.length = (s.waves.filter fun w => w.alive && s.isResident w.gang).length ∧
      ∀ p, p ∈ proofs ↔ ∃ w ∈ s.waves, w.alive = true ∧ s.isResident w.gang = true ∧ p.core = w.core ∧ p.slot = w.slot ∧ p.pc = (lowestPc w.groupPcs).getD 0 ∧ p.tstat = w.tstat ∧ p.wake = w.wake ∧
        p.counters = BitVec.ofNat 64 (w.ld.toNat + w.st.toNat * 2 ^ 6 + w.cp.toNat * 2 ^ 12 + w.tl.toNat * 2 ^ 18)) ∧
    (op = 0x41 → (a 0 ≤ 63 → let t := s.modKiln fun k => { k with peernum := BitVec.ofNat 6 (a 0) }
        exec .peernum s = ends 0 (t.modCaches fun c => { c with l1 := c.l1.map fun l => { l with pline := t.localPa (l.pline * 64) / 64 } })) ∧ (63 < a 0 → exec .peernum s = ends 2 s)) ∧
    (op = 0x50 → (a 0 ≤ 1 → a 1 ≤ 2 ^ 26 → s.kiln.booted ≠ decide (a 0 = 1) → exec .fwstage s = ends 0 (s.modKiln fun k => { k.setSlot (decide (a 0 = 1))
        { image := s.kiln.staging.getRange 0 (a 1), version := Config.imageVersion (s.kiln.staging.getRange 0 (a 1)), valid := false, cause := 0 } with marked := none })) ∧
      (a 0 ≤ 1 → a 1 ≤ 2 ^ 26 → s.kiln.booted = decide (a 0 = 1) → exec .fwstage s = ends 3 s) ∧ (1 < a 0 ∨ 2 ^ 26 < a 1 → exec .fwstage s = ends 2 s)) ∧
    (op = 0x51 → (1 < a 0 ∨ 2 ^ 26 < a 1 → exec .fwcommit s = ends 2 s) ∧ (a 0 ≤ 1 → a 1 ≤ 2 ^ 26 → s.kiln.booted = decide (a 0 = 1) → exec .fwcommit s = ends 3 s)) ∧
    (op = 0x51 → a 0 ≤ 1 → a 1 ≤ 2 ^ 26 → s.kiln.booted ≠ decide (a 0 = 1) → let v := verified (s.kiln.slot (decide (a 0 = 1))).image s.kiln.floor
      (v.valid = true → exec .fwcommit s = ends 0 (s.modKiln fun k => { k.setSlot (decide (a 0 = 1)) v with marked := some (decide (a 0 = 1)) })) ∧
      (v.valid = false → exec .fwcommit s = ends 3 (s.modKiln fun k => k.setSlot (decide (a 0 = 1)) v))) ∧
    (op ∉ [0x01, 0x02, 0x03, 0x04, 0x10, 0x11, 0x12, 0x20, 0x21, 0x22, 0x30, 0x31, 0x40, 0x41, 0x50, 0x51] → exec .mailboxBadcmd s =
      .next (s.modKiln fun k => { k with mbstat := (k.mbstat &&& 2) ||| BitVec.ofNat 64 (1 * 2 ^ 8), pending := none }))) ∧
  (∃ word : List Proof → Nat → Quad, ∀ s : State, s.kiln.recovery = false → s.kiln.mbstat.getLsbD 0 = false → s.kiln.mbcmd.toNat % 2 ^ 16 = 0x30 → (s.kiln.mbarg.get 0).toNat ≤ 383 →
    ∃ mbres : SMap 64, exec .proofread s = .next (s.modKiln fun k => { k with mbres, mbstat := k.mbstat &&& 2, pending := none }).distribute ∧
      ∀ n, mbres.get n = if n < 31 then word (s.kiln.proofs.filter fun p => p.core = (s.kiln.mbarg.get 0).toNat) n else s.kiln.mbres.get n) ∧
  (∀ (image : List Byte) (floor : Nat), let v := verified image floor
    v.image = image ∧ v.version = Config.imageVersion image ∧ (v.valid = true ↔ v.cause = 0) ∧ (v.valid = true ↔ image ≠ [] ∧ Config.imageCause image = 0 ∧ floor ≤ Config.imageVersion image)) ∧
  ∀ s : State, s.kiln.mbstat.getLsbD 0 = true → exec .doorbellWhileBusy s = .next (s.modKiln fun k => { k with mbstat := k.mbstat ||| 2 })

/-- Host writes to management registers: MBCMD keeps its OP, MBARG0 to MBARG30 take the value, a 1 in MBSTAT's ERR clears it, TARGET of a quad takes a listed value and ignores 3, and every other register that no row of its own serves ignores the write (R6, R480, R493). A host read within one line of exposed local memory gives the bytes there, or poison on a poisoned line; a host write within one line writes them, and to its own window too, and no other byte; a soft error only posts its event; a patrol visit of a line that is not uncorrectable changes nothing but the model's count of free values (R66, R478, R479, R487, R495). The model's choice: log entries 8, 66 and 75. -/
def Obligations.RegisterAndHostAccessesAct : Prop :=
  (∀ (s : State) (v : BitVec 64),
      exec (.registerWrite 0x000 v) s = .next (s.modKiln fun k => { k with mbcmd := v &&& 0xFFFF }) ∧
      (∀ n, n ≤ 30 → exec (.registerWrite (8 + 8 * n) v) s = .next (s.modKiln fun k => { k with mbarg := k.mbarg.set n v })) ∧
      exec (.registerWrite 0x100 v) s = .next (s.modKiln fun k => { k with mbstat := if v.getLsbD 1 = true then k.mbstat &&& ~~~2 else k.mbstat }) ∧
      (∀ q, q < 96 → (v.toNat % 4 ≠ 3 → v.getLsbD 2 = false → exec (.registerWrite (0x10000 + 32 * q) v) s = .next (s.modKiln fun k => { k with qpctl := k.qpctl.set q (BitVec.ofNat 64 (v.toNat % 4)) })) ∧
        (v.toNat % 4 = 3 → exec (.registerWrite (0x10000 + 32 * q) v) s = .next s) ∧ exec (.registerWrite (0x10000 + 32 * q + 8) v) s = .next s) ∧
      ∀ n, n < 31 → exec (.registerWrite (0x108 + 8 * n) v) s = .next s) ∧
  ((∀ (s : State) (addr n : Nat), 1 ≤ n → addr % 64 + n ≤ 64 → s.hdm addr = true →
      (addr / 64 ∉ s.poison → exec (.hostRead addr n) s = .next (s.modHost fun h => { h with read := s.bytesAt addr n, readPoison := false, cached := h.cached.filter (fun l => l ≠ addr / 64) ++ [addr / 64] })) ∧
      (addr / 64 ∈ s.poison → exec (.hostRead addr n) s = .next (s.modHost fun h => { h with read := [], readPoison := true }))) ∧
    (∀ (s : State) (addr : Nat) (bs : List Byte), 1 ≤ bs.length → addr % 64 + bs.length ≤ 64 → (s.hdm addr = true ∨ addr < 2 ^ 52 ∧ windowOf addr = 1) → ∃ u : State, exec (.hostWrite addr bs) s = .next u ∧
      u.bytesAt addr bs.length = bs ∧ SameBytesOutside s u (fun x => s.localPa addr ≤ x ∧ x < s.localPa addr + bs.length) ∧ u.waves = s.waves ∧ u.gangs = s.gangs ∧ u.kiln = s.kiln ∧ u.caches = s.caches) ∧
    ∀ (s : State) (line : Nat), line < 2 ^ 33 → exec (.softerr line) s = .next (s.postSimple 4 0 line) ∧
      exec (.patrolScrub line) s = .next { s with fresh := s.fresh + 1, poison := if Config.uncorrectable s.fresh line = true ∧ line ∉ s.poison then s.poison ++ [line] else s.poison })

/-- GO writes and QWAKE, to a quad that is not disabled: while a move is in progress they change nothing; else the move begins, with TARGET noted and BUSY set, and a move out of state 0 expires the gangs there; retention is refused with CAUSE 1 while a core of the quad has a pinned region; QUAD_MOVE_DONE of a quad that is quiet ends a move at its target, one to retention by way of the stopped clocks, with the quad's caches and TLB empty (R493, R494). TAKEOVER quiesces a quad of a die for its next spare, which takes its number when the move ends; with no spare left the quad is disabled. QUAD_FAILURE ends the gangs there as under the default action and takes the quad over at once. LANE_SPARING of a port with eight lanes leaves seven and posts LINK; PEER_UNREACHABLE discards an access on its way to a peer, be it a wave's, a copy's or another unit's, resets its context and posts PEERLOST with a port and a mask of its lanes (R487 to R489, R496). The model's choice: log entries 66, 67, 68 and 69. -/
def Obligations.QuadsMoveAndFailuresAreServed : Prop :=
  (∀ (s : State) (q : Nat), q ≤ 95 → s.kiln.disabled.contains q = false →
      let state := (s.kiln.qpstat.get q).toNat % 4
      let noted (n : Nat) : State := s.modKiln fun k => { k with qpctl := k.qpctl.set q (BitVec.ofNat 64 n) }
      let moving (t : State) (n : Nat) : State := t.modKiln fun k => { k with qpstat := k.qpstat.set q (BitVec.ofNat 64 (state + 4)), moves := k.moves ++ [(q, n)] }
      let begins (t : State) (n : Nat) : State := if n ≠ 0 ∧ state = 0 then (moving t n).quiesce q else moving t n
      let pinned : Bool := (List.range 4).any fun j => s.pinsize.get (4 * q + j) ≠ 0
      (s.quadBusy q = true → exec (.goRun q) s = .next s ∧ exec (.goClockGated q) s = .next s ∧ exec (.goRetention q) s = .next s ∧ exec (.qwake q) s = .next s) ∧
      (s.quadBusy q = false → exec (.goRun q) s = .next (begins (noted 0) 0) ∧ exec (.goClockGated q) s = .next (begins (noted 1) 1) ∧ exec (.qwake q) s = .next (begins s 0) ∧
        (pinned = false → exec (.goRetention q) s = .next (begins (noted 2) 2)) ∧
        (pinned = true → exec (.goRetention q) s = .next ((noted 2).modKiln fun k => { k with qpstat := k.qpstat.set q (BitVec.ofNat 64 (state + 8)) }))) ∧
      ∀ n, s.kiln.moves.find? (fun m => m.1 = q) = some (q, n) → let stands (t : State) (st busy : Nat) : State := t.modKiln fun k => { k with qpstat := k.qpstat.set q (BitVec.ofNat 64 (st + 4 * busy)) }
        let over_ (t : State) : State := t.modKiln fun k => { k with moves := k.moves.filter fun x => x.1 ≠ q }
        (n = 0 → exec (.quadMoveDone q) s = .next (stands (over_ s) 0 0).distribute) ∧
        (s.quadQuiet q = true → (n = 1 ∨ n = 2 ∧ state ≠ 0 → exec (.quadMoveDone q) s = .next (stands (over_ (s.emptyQuad q)) n 0)) ∧
          (n = 2 → state = 0 → exec (.quadMoveDone q) s = .next (stands (s.emptyQuad q) 1 1)) ∧ (4 ≤ n → exec (.quadMoveDone q) s = .next ((over_ s).takeOver q).distribute)) ∧
        (∀ x ∈ (s.emptyQuad q).caches.l1, x ∈ s.caches.l1 ∧ quadOf x.core ≠ q) ∧ ∀ e ∈ (s.emptyQuad q).caches.tlb, e ∈ s.caches.tlb ∧ e.quad ≠ q) ∧
  ((∀ (s : State) (q : Nat), q ≤ 95 → s.kiln.disabled.contains q = false → let used := (s.kiln.spares.get (q / 24)).toNat
      (s.quadBusy q = false → exec (.takeover q (min used 2)) s = .next (s.startMove q (4 + min used 2))) ∧
      exec (.quadFailure q) s = .next ((((s.gangsOn q).foldl (fun t g => t.failGang g) s).modKiln fun k => { k with moves := k.moves.filter fun m => m.1 ≠ q }).takeOver q).distribute ∧
      (used < 2 → ∃ u : State, s.takeOver q = u ∧ u.kiln.spares = s.kiln.spares.set (q / 24) (BitVec.ofNat 8 (used + 1)) ∧ u.kiln.disabled = s.kiln.disabled) ∧
      (2 ≤ used → ∃ u : State, s.takeOver q = u ∧ u.kiln.spares = s.kiln.spares ∧ u.kiln.disabled = s.kiln.disabled ++ [q])) ∧
    (∀ (s : State) (port : Nat), port ≤ 11 → s.kiln.lanes.get port = 8 → ∃ lost, lost < 8 ∧ exec (.laneSparing port) s =
      .next ((({ s with fresh := s.fresh + 1 } : State).modKiln fun k => { k with lanes := k.lanes.set port 7 }).postSimple 6 0 (port + (255 - 2 ^ lost) * 16))) ∧
    ∀ s : State,
      let lost (id asid : Nat) (t : State) : Prop := ∃ port mask, port < 12 ∧ mask < 256 ∧
        exec (.peerUnreachable id) s = .next (((({ t with fresh := t.fresh + 2 } : State).startReset asid .kiln).postSimple 7 asid (port + mask * 2 ^ 4)).distribute)
      (∀ a : Access, s.flight? a.id = some a → (∃ l ∈ a.lanes, l.status = .ready ∧ windowOf (s.localPa l.pa) = 2) →
        lost a.id a.asid ((s.modFlight a.id fun x => { x with lanes := x.lanes.map fun l => { l with status := .done } }).finishAccess a.id)) ∧
      (∀ c : Copy, s.flight? c.id = none → s.eng.copies = [c] → c.allArrived = false → (∃ va ∈ c.globals, s.peerVa c.asid va = true) → lost c.id c.asid (s.modEng fun e => { e with copies := [] })) ∧
      ∀ (id asid : Nat) (t : State), s.flight? id = none → s.unitAtPeer id = some (asid, t) → lost id asid t)

/-- RESET_BOOT leaves device memory zero and host memory as it was, and every wave, gang, launch, queue and context gone, applies the signed configuration records (a quad of the defect map is disabled where no spare is mapped, and the mapped spares count as used), and boots the slot that FWCOMMIT marked, where it is valid (how the mark and the versions go together is the model's choice, log entry 91), else the valid slot with the higher version, slot A on a tie, or the recovery posture where neither is valid; in that posture the recovery mailbox reports both slots' causes, BAR2 reads zero, and RECOVERY_COMMAND boots from a staged image that passes, and one that fails changes nothing; staging writes act, and attestation answers with the device identity key from the slots, the records and the floor (R489 to R492). The model's choice: log entries 2, 5, 6, 65, 76 and 91. -/
def Obligations.DeviceBootsAndRecovers : Prop :=
  (∀ s : State, ∃ u : State, exec .resetBoot s = .next u ∧ (∀ x, u.mem.get x = if x < 2 ^ 50 then 0 else s.mem.get x) ∧ u.waves = [] ∧ u.gangs = [] ∧ u.grids = [] ∧ u.contexts = State.reset.contexts ∧
    u.host.subs = [] ∧ u.host.comps = [] ∧ u.flights = [] ∧ u.cycle = 0 ∧ u.kiln.mbstat = 0 ∧ u.kiln.floor = s.kiln.floor ∧
    u.kiln.records = s.kiln.records ∧ (∀ q, u.kiln.disabled.contains q = (s.kiln.records.defects.contains q && !s.kiln.records.mapping.contains q)) ∧
    (∀ die, die < 4 → u.kiln.spares.get die = BitVec.ofNat 8 (s.kiln.records.mapping.countP fun q => q / 24 = die)) ∧
    u.kiln.recovery = (!u.kiln.slotA.valid && !u.kiln.slotB.valid) ∧
    (let higher : Prop := u.kiln.slotB.valid = true ∧ (u.kiln.slotA.valid = true → u.kiln.slotA.version < u.kiln.slotB.version);
      u.kiln.recovery = false → (s.kiln.marked = none → (u.kiln.booted = true ↔ higher)) ∧ ∀ m, s.kiln.marked = some m →
        if (u.kiln.slot m).valid = true then u.kiln.booted = m else (u.kiln.booted = true ↔ higher))) ∧
  (∀ s : State, s.kiln.recovery = true → s.recoveryMailbox = some (s.kiln.slotA.cause, s.kiln.slotB.cause) ∧ ∀ o, s.bar2Byte o = some 0) ∧
  (∀ s : State, s.kiln.recovery = true → let v := verified (s.kiln.staging.getRange 0 s.kiln.stagedLen) s.kiln.floor
    (v.valid = false → exec .recoveryCommand s = .next s) ∧ (v.valid = true → exec .recoveryCommand s = .next (s.boot v s.kiln.slotB))) ∧
  (∀ (s : State) (ofs : Nat) (bs : List Byte), bs ≠ [] → ofs + bs.length ≤ 2 ^ 26 → ∃ u : State, exec (.firmwareStagingWrite ofs bs) s = .next u ∧ u = s.modKiln (fun k => { k with staging := u.kiln.staging, stagedLen := max k.stagedLen (ofs + bs.length) }) ∧
    ∀ k, u.kiln.staging.get k = if ofs ≤ k ∧ k < ofs + bs.length then bs.getD (k - ofs) 0 else s.kiln.staging.get k) ∧
  ∀ (s : State) (bs : List Byte), ∃ reply, reply = Config.spdmReply Config.identityKey bs (s.kiln.slotA.image, s.kiln.slotA.version) (s.kiln.slotB.image, s.kiln.slotB.version)
      (s.kiln.records.defects, s.kiln.records.mapping, s.kiln.records.repairs) s.kiln.floor ∧
    exec (.spdmMessage bs) s = .next (s.modKiln fun k => { k with spdm := reply })
end

