-- ==== Sys2Proof/Laws/SMap.lean ====
section
/-! SUPPORT. Sparse stores: what a read gives after each write, and that every operation keeps the canonical form. -/

namespace Sys2Proof.Machine

variable {w : Nat}

/-! ### Reads -/

@[simp] theorem SMap.get_nil (k : Nat) : SMap.get ([] : SMap w) k = 0 := rfl

theorem SMap.get_cons (a : Nat) (v : BitVec w) (r : SMap w) (k : Nat) :
    SMap.get ((a, v) :: r) k = if a = k then v else SMap.get r k := rfl

/-- A store of which no entry has the key reads zero there. -/
theorem SMap.get_of_absent {m : SMap w} {k : Nat} (h : ∀ e ∈ m, e.1 ≠ k) : m.get k = 0 := by
  induction m with
  | nil => rfl
  | cons e r ih =>
    obtain ⟨a, v⟩ := e
    rw [SMap.get_cons, if_neg (h (a, v) (by simp)), ih fun e he => h e (by simp [he])]

/-- A read passes over a front part that does not hold the key. -/
theorem SMap.get_append_absent {l m : SMap w} {k : Nat} (h : ∀ e ∈ l, e.1 ≠ k) : (l ++ m : SMap w).get k = m.get k := by
  induction l with
  | nil => rfl
  | cons e r ih =>
    obtain ⟨a, v⟩ := e
    rw [List.cons_append, SMap.get_cons, if_neg (h (a, v) (by simp)), ih fun e he => h e (by simp [he])]

/-- A read is not affected by a back part that does not hold the key. -/
theorem SMap.get_append_left {l m : SMap w} {k : Nat} (h : ∀ e ∈ m, e.1 ≠ k) : (l ++ m : SMap w).get k = l.get k := by
  induction l with
  | nil => simpa using SMap.get_of_absent h
  | cons e r ih =>
    obtain ⟨a, v⟩ := e
    rw [List.cons_append, SMap.get_cons, SMap.get_cons, ih]

/-- A read of a filtered store: the filter keeps or drops every entry of the key alike. -/
theorem SMap.get_filter (m : SMap w) (p : Nat → Bool) (k : Nat) :
    SMap.get (m.filter fun e => p e.1) k = if p k then m.get k else 0 := by
  induction m with
  | nil => simp
  | cons e r ih =>
    obtain ⟨a, v⟩ := e
    by_cases ha : a = k
    · subst ha
      by_cases hp : p a
      · rw [List.filter_cons_of_pos (by simpa using hp)]
        simp [SMap.get_cons, hp]
      · rw [List.filter_cons_of_neg (by simpa using hp), ih]
        simp [hp]
    · by_cases hp : p a
      · rw [List.filter_cons_of_pos (by simpa using hp), SMap.get_cons, if_neg ha, ih, SMap.get_cons, if_neg ha]
      · rw [List.filter_cons_of_neg (by simpa using hp), ih, SMap.get_cons, if_neg ha]

theorem SMap.get_cell (k : Nat) (v : BitVec w) (j : Nat) : (SMap.cell k v).get j = if j = k then v else 0 := by
  unfold SMap.cell
  split
  · simp_all
  · by_cases h : j = k
    · simp [SMap.get_cons, h]
    · simp [SMap.get_cons, h, Ne.symm h]

/-- What a read gives after a write of one key. -/
theorem SMap.get_set (m : SMap w) (k : Nat) (v : BitVec w) (j : Nat) : (m.set k v).get j = if j = k then v else m.get j := by
  have hlt := SMap.get_filter m (fun a => decide (a < k)) j
  have hgt := SMap.get_filter m (fun a => decide (k < a)) j
  unfold SMap.set
  rcases Nat.lt_trichotomy j k with h | h | h
  · rw [List.append_assoc, SMap.get_append_left, hlt]
    · simp [h, Nat.ne_of_lt h]
    · intro e he
      simp only [SMap.cell, List.mem_append, List.mem_filter, decide_eq_true_eq] at he
      rcases he with he | he
      · split at he <;> simp_all; omega
      · omega
  · subst h
    rw [List.append_assoc, SMap.get_append_absent (by intro e he; simp at he; omega),
      SMap.get_append_left (by intro e he; simp at he; omega), SMap.get_cell]
    simp
  · rw [SMap.get_append_absent, hgt]
    · simp [h, Nat.ne_of_gt h]
    · intro e he
      simp only [SMap.cell, List.mem_append, List.mem_filter, decide_eq_true_eq] at he
      rcases he with he | he
      · omega
      · split at he <;> simp_all; omega

@[simp] theorem SMap.get_set_same (m : SMap w) (k : Nat) (v : BitVec w) : (m.set k v).get k = v := by rw [SMap.get_set, if_pos rfl]

theorem SMap.get_set_other (m : SMap w) {k j : Nat} (v : BitVec w) (h : j ≠ k) : (m.set k v).get j = m.get j := by
  rw [SMap.get_set, if_neg h]

theorem SMap.cells_keys {k : Nat} {vs : List (BitVec w)} {e : Nat × BitVec w} (h : e ∈ SMap.cells k vs) : k ≤ e.1 ∧ e.1 < k + vs.length := by
  induction vs generalizing k with
  | nil => simp [SMap.cells] at h
  | cons v vs ih =>
    simp only [SMap.cells, List.mem_append] at h
    rcases h with h | h
    · unfold SMap.cell at h
      split at h <;> simp_all
    · have := ih h
      simp only [List.length_cons]
      omega

theorem SMap.get_cells (k : Nat) (vs : List (BitVec w)) (j : Nat) : (SMap.cells k vs).get (k + j) = (vs[j]?).getD 0 := by
  induction vs generalizing k j with
  | nil => simp [SMap.cells]
  | cons v vs ih =>
    rw [SMap.cells]
    cases j with
    | zero =>
      rw [SMap.get_append_left (by intro e he; have := SMap.cells_keys he; omega), SMap.get_cell]
      simp
    | succ j =>
      rw [SMap.get_append_absent, show k + (j + 1) = (k + 1) + j by omega, ih]
      · simp
      · intro e he
        unfold SMap.cell at he
        split at he <;> simp_all

/-- What a read gives after a write of a run of keys: the run's value inside it, the old value outside. -/
theorem SMap.get_setRange (m : SMap w) (k : Nat) (vs : List (BitVec w)) (j : Nat) :
    (m.setRange k vs).get j = if k ≤ j ∧ j < k + vs.length then (vs[j - k]?).getD 0 else m.get j := by
  have hlt := SMap.get_filter m (fun a => decide (a < k)) j
  have hge := SMap.get_filter m (fun a => decide (k + vs.length ≤ a)) j
  unfold SMap.setRange
  by_cases h1 : j < k
  · rw [List.append_assoc, SMap.get_append_left, hlt]
    · simp [h1, Nat.not_le.mpr h1]
    · intro e he
      rcases List.mem_append.mp he with he | he
      · have := SMap.cells_keys he; omega
      · simp at he; omega
  · by_cases h2 : j < k + vs.length
    · rw [List.append_assoc, SMap.get_append_absent (by intro e he; simp at he; omega),
        SMap.get_append_left (by intro e he; simp at he; omega), if_pos ⟨by omega, h2⟩,
        ← SMap.get_cells k vs (j - k), show k + (j - k) = j by omega]
    · rw [SMap.get_append_absent, hge]
      · simp [h2, Nat.not_lt.mp h2]
      · intro e he
        rcases List.mem_append.mp he with he | he
        · simp at he; omega
        · have := SMap.cells_keys he; omega

/-- A write of a run of keys is read back whole. -/
theorem SMap.getRange_setRange (m : SMap w) (k : Nat) (vs : List (BitVec w)) : (m.setRange k vs).getRange k vs.length = vs := by
  apply List.ext_getElem
  · simp [SMap.getRange]
  · intro n h1 h2
    simp only [SMap.getRange, List.length_map, List.length_range] at h1
    simp [SMap.getRange, SMap.get_setRange, h1]

/-- A run of keys that a write does not touch reads as before. -/
theorem SMap.getRange_setRange_other (m : SMap w) (k : Nat) (vs : List (BitVec w)) (j n : Nat) (h : j + n ≤ k ∨ k + vs.length ≤ j) :
    (m.setRange k vs).getRange j n = m.getRange j n := by
  simp only [SMap.getRange]
  apply List.map_congr_left
  intro i hi
  rw [List.mem_range] at hi
  rw [SMap.get_setRange, if_neg (by omega)]

theorem SMap.get_clearRange (m : SMap w) (k n j : Nat) : (m.clearRange k n).get j = if k ≤ j ∧ j < k + n then 0 else m.get j := by
  have h := SMap.get_filter m (fun a => decide (a < k) || decide (k + n ≤ a)) j
  unfold SMap.clearRange
  rw [h]
  by_cases h1 : k ≤ j <;> by_cases h2 : j < k + n <;> simp [h1, h2, Nat.not_lt.mpr, Nat.lt_of_not_le]

/-- What a read gives after writes under distinct keys. -/
theorem SMap.get_setMany (m : SMap w) (js : List Nat) (key : Nat → Nat) (f : Nat → BitVec w) (k : Nat)
    (inj : ∀ a ∈ js, ∀ b ∈ js, key a = key b → a = b) :
    (m.setMany js key f).get k = match js.find? fun j => key j = k with | some j => f j | none => m.get k := by
  unfold SMap.setMany
  induction js generalizing m with
  | nil => simp
  | cons j js ih =>
    rw [List.foldl_cons, ih _ fun a ha b hb => inj a (by simp [ha]) b (by simp [hb])]
    by_cases hj : key j = k
    · rw [List.find?_cons_of_pos (by simpa using hj)]
      cases hf : js.find? fun j => key j = k with
      | none => simp [hj]
      | some i =>
        have hi : key i = k := by simpa using List.find?_some hf
        have := inj i (by simp [List.mem_of_find?_eq_some hf]) j (by simp) (hi.trans hj.symm)
        simp [this]
    · rw [List.find?_cons_of_neg (by simpa using hj)]
      cases js.find? fun j => key j = k with
      | none => simp [SMap.get_set_other _ _ (Ne.symm hj)]
      | some i => rfl

/-! ### The canonical form -/

/-- The canonical form as a property of neighbours. -/
theorem SMap.wf_iff (m : SMap w) : m.wf = true ↔ m.Pairwise (fun a b => a.1 < b.1) ∧ ∀ e ∈ m, e.2 ≠ 0 := by
  induction m with
  | nil => simp [SMap.wf]
  | cons e r ih =>
    obtain ⟨a, v⟩ := e
    cases r with
    | nil => simp [SMap.wf]
    | cons e' r' =>
      obtain ⟨b, x⟩ := e'
      rw [SMap.wf, Bool.and_eq_true, ih]
      simp only [List.pairwise_cons, List.mem_cons, Bool.and_eq_true, decide_eq_true_eq, bne_iff_ne, ne_eq]
      constructor
      · rintro ⟨⟨hab, hv⟩, ⟨hb, hr⟩, hz⟩
        refine ⟨⟨?_, hb, hr⟩, ?_⟩
        · rintro e (rfl | he)
          · exact hab
          · exact Nat.lt_trans hab (hb e he)
        · rintro e (rfl | he)
          · exact hv
          · exact hz e he
      · rintro ⟨⟨ha, hb, hr⟩, hz⟩
        exact ⟨⟨ha (b, x) (Or.inl rfl), hz (a, v) (Or.inl rfl)⟩, ⟨hb, hr⟩, fun e he => hz e (Or.inr he)⟩

/-- Parts of a store kept by a filter are canonical. -/
theorem SMap.wf_filter {m : SMap w} (h : m.wf = true) (p : Nat × BitVec w → Bool) : SMap.wf (m.filter p) = true := by
  rw [SMap.wf_iff] at h ⊢
  exact ⟨h.1.filter p, fun e he => h.2 e (List.mem_filter.mp he).1⟩

theorem SMap.wf_clearRange {m : SMap w} (h : m.wf = true) (k n : Nat) : SMap.wf (m.clearRange k n) = true := SMap.wf_filter h _

/-- Two canonical parts make one where every key of the first is below every key of the second. -/
theorem SMap.wf_append {l m : SMap w} (hl : l.wf = true) (hm : m.wf = true) (h : ∀ a ∈ l, ∀ b ∈ m, a.1 < b.1) : SMap.wf (l ++ m) = true := by
  rw [SMap.wf_iff] at *
  refine ⟨List.pairwise_append.mpr ⟨hl.1, hm.1, h⟩, ?_⟩
  intro e he
  rcases List.mem_append.mp he with he | he
  · exact hl.2 e he
  · exact hm.2 e he

theorem SMap.wf_cell (k : Nat) (v : BitVec w) : SMap.wf (SMap.cell k v) = true := by
  unfold SMap.cell
  split
  · rfl
  · simpa [SMap.wf] using ‹_›

theorem SMap.cell_keys {k : Nat} {v : BitVec w} {e : Nat × BitVec w} (h : e ∈ SMap.cell k v) : e.1 = k := by
  unfold SMap.cell at h
  split at h <;> simp_all

theorem SMap.wf_cells (k : Nat) (vs : List (BitVec w)) : SMap.wf (SMap.cells k vs) = true := by
  induction vs generalizing k with
  | nil => rfl
  | cons v vs ih =>
    refine SMap.wf_append (SMap.wf_cell k v) (ih (k + 1)) ?_
    intro a ha b hb
    have := SMap.cell_keys ha
    have := SMap.cells_keys hb
    omega

/-- A write of a run of keys keeps the canonical form. -/
theorem SMap.wf_setRange {m : SMap w} (h : m.wf = true) (k : Nat) (vs : List (BitVec w)) : SMap.wf (m.setRange k vs) = true := by
  refine SMap.wf_append (SMap.wf_append (SMap.wf_filter h _) (SMap.wf_cells k vs) ?_) (SMap.wf_filter h _) ?_
  · intro a ha b hb
    have := SMap.cells_keys hb
    simp at ha
    omega
  · intro a ha b hb
    simp only [List.mem_filter, decide_eq_true_eq] at hb
    rcases List.mem_append.mp ha with ha | ha
    · simp at ha; omega
    · have := SMap.cells_keys ha; omega

/-- A write of one key keeps the canonical form. -/
theorem SMap.wf_set {m : SMap w} (h : m.wf = true) (k : Nat) (v : BitVec w) : SMap.wf (m.set k v) = true := by
  have : m.set k v = m.setRange k [v] := by
    have he : m.filter (fun e => k < e.1) = m.filter (fun e => k + 1 ≤ e.1) := rfl
    simp only [SMap.set, SMap.setRange, SMap.cells, List.append_nil, List.length_singleton, he]
  rw [this]
  exact SMap.wf_setRange h k [v]

theorem SMap.wf_setMany {m : SMap w} (h : m.wf = true) (js : List Nat) (key : Nat → Nat) (f : Nat → BitVec w) : SMap.wf (m.setMany js key f) = true := by
  unfold SMap.setMany
  induction js generalizing m with
  | nil => exact h
  | cons j js ih => exact ih (SMap.wf_set h (key j) (f j))

/-- Canonical stores that read alike everywhere are equal. -/
theorem SMap.ext {l m : SMap w} (hl : l.wf = true) (hm : m.wf = true) (h : ∀ k, l.get k = m.get k) : l = m := by
  induction l generalizing m with
  | nil =>
    cases m with
    | nil => rfl
    | cons e r =>
      obtain ⟨a, v⟩ := e
      have := (SMap.wf_iff _).mp hm
      have hz := h a
      simp [SMap.get_cons] at hz
      exact absurd hz.symm (this.2 (a, v) (by simp))
  | cons e r ih =>
    obtain ⟨a, v⟩ := e
    cases m with
    | nil =>
      have := (SMap.wf_iff _).mp hl
      have hz := h a
      simp [SMap.get_cons] at hz
      exact absurd hz (this.2 (a, v) (by simp))
    | cons e' r' =>
      obtain ⟨b, x⟩ := e'
      have hl' := (SMap.wf_iff _).mp hl
      have hm' := (SMap.wf_iff _).mp hm
      have below {c : Nat} {s : SMap w} (hs : ∀ e ∈ s, c < e.1) : s.get c = 0 := SMap.get_of_absent fun e he => Nat.ne_of_gt (hs e he)
      have hr := (List.pairwise_cons.mp hl'.1).1
      have hr' := (List.pairwise_cons.mp hm'.1).1
      have hab : a = b := by
        rcases Nat.lt_trichotomy a b with hlt | heq | hgt
        · have := h a
          rw [SMap.get_cons, if_pos rfl, SMap.get_cons, if_neg (by omega), below fun e he => Nat.lt_trans hlt (hr' e he)] at this
          exact absurd this (hl'.2 (a, v) (by simp))
        · exact heq
        · have := h b
          rw [SMap.get_cons, if_neg (by omega), SMap.get_cons, if_pos rfl, below fun e he => Nat.lt_trans hgt (hr e he)] at this
          exact absurd this.symm (hm'.2 (b, x) (by simp))
      subst hab
      have hv : v = x := by simpa [SMap.get_cons] using h a
      subst hv
      have tails : ∀ k, SMap.get r k = SMap.get r' k := by
        intro k
        by_cases hk : a = k
        · subst hk
          rw [below hr, below hr']
        · simpa [SMap.get_cons, hk] using h k
      rw [ih ((SMap.wf_iff _).mpr ⟨(List.pairwise_cons.mp hl'.1).2, fun e he => hl'.2 e (by simp [he])⟩)
        ((SMap.wf_iff _).mpr ⟨(List.pairwise_cons.mp hm'.1).2, fun e he => hm'.2 e (by simp [he])⟩) tails]

end Sys2Proof.Machine
end

