-- ==== Sys2Proof/Laws/State.lean ====
section
/-! SUPPORT. What each update of the state, and each update of a wave, gives for every field. -/

namespace Sys2Proof.Machine

/-! ### Fields of the state after an update -/

section
variable (s : State) (id : Nat) (f : Wave → Wave)
@[simp] theorem State.modWave_mem : (s.modWave id f).mem = s.mem := rfl
@[simp] theorem State.modWave_poison : (s.modWave id f).poison = s.poison := rfl
@[simp] theorem State.modWave_ctxBase : (s.modWave id f).ctxBase = s.ctxBase := rfl
@[simp] theorem State.modWave_caches : (s.modWave id f).caches = s.caches := rfl
@[simp] theorem State.modWave_flights : (s.modWave id f).flights = s.flights := rfl
@[simp] theorem State.modWave_contexts : (s.modWave id f).contexts = s.contexts := rfl
@[simp] theorem State.modWave_pinsize : (s.modWave id f).pinsize = s.pinsize := rfl
@[simp] theorem State.modWave_waves : (s.modWave id f).waves = (s.waves.map fun w => if w.id = id then f w else w) := rfl
@[simp] theorem State.modWave_gangs : (s.modWave id f).gangs = s.gangs := rfl
@[simp] theorem State.modWave_grids : (s.modWave id f).grids = s.grids := rfl
@[simp] theorem State.modWave_groups : (s.modWave id f).groups = s.groups := rfl
@[simp] theorem State.modWave_bins : (s.modWave id f).bins = s.bins := rfl
@[simp] theorem State.modWave_fifo : (s.modWave id f).fifo = s.fifo := rfl
@[simp] theorem State.modWave_quanta : (s.modWave id f).quanta = s.quanta := rfl
@[simp] theorem State.modWave_rotation : (s.modWave id f).rotation = s.rotation := rfl
@[simp] theorem State.modWave_issued : (s.modWave id f).issued = s.issued := rfl
@[simp] theorem State.modWave_code : (s.modWave id f).code = s.code := rfl
@[simp] theorem State.modWave_codeUse : (s.modWave id f).codeUse = s.codeUse := rfl
@[simp] theorem State.modWave_eng : (s.modWave id f).eng = s.eng := rfl
@[simp] theorem State.modWave_host : (s.modWave id f).host = s.host := rfl
@[simp] theorem State.modWave_kiln : (s.modWave id f).kiln = s.kiln := rfl
@[simp] theorem State.modWave_cycle : (s.modWave id f).cycle = s.cycle := rfl
@[simp] theorem State.modWave_turns : (s.modWave id f).turns = s.turns := rfl
@[simp] theorem State.modWave_issuer : (s.modWave id f).issuer = s.issuer := rfl
@[simp] theorem State.modWave_fresh : (s.modWave id f).fresh = s.fresh := rfl
@[simp] theorem State.modWave_nextId : (s.modWave id f).nextId = s.nextId := rfl
@[simp] theorem State.modWave_enginesFirst : (s.modWave id f).enginesFirst = s.enginesFirst := rfl
end

section
variable (s : State) (ids : List Nat) (f : Wave → Wave)
@[simp] theorem State.modWaves_mem : (s.modWaves ids f).mem = s.mem := rfl
@[simp] theorem State.modWaves_poison : (s.modWaves ids f).poison = s.poison := rfl
@[simp] theorem State.modWaves_ctxBase : (s.modWaves ids f).ctxBase = s.ctxBase := rfl
@[simp] theorem State.modWaves_caches : (s.modWaves ids f).caches = s.caches := rfl
@[simp] theorem State.modWaves_flights : (s.modWaves ids f).flights = s.flights := rfl
@[simp] theorem State.modWaves_contexts : (s.modWaves ids f).contexts = s.contexts := rfl
@[simp] theorem State.modWaves_pinsize : (s.modWaves ids f).pinsize = s.pinsize := rfl
@[simp] theorem State.modWaves_waves : (s.modWaves ids f).waves = (s.waves.map fun w => if ids.contains w.id then f w else w) := rfl
@[simp] theorem State.modWaves_gangs : (s.modWaves ids f).gangs = s.gangs := rfl
@[simp] theorem State.modWaves_grids : (s.modWaves ids f).grids = s.grids := rfl
@[simp] theorem State.modWaves_groups : (s.modWaves ids f).groups = s.groups := rfl
@[simp] theorem State.modWaves_bins : (s.modWaves ids f).bins = s.bins := rfl
@[simp] theorem State.modWaves_fifo : (s.modWaves ids f).fifo = s.fifo := rfl
@[simp] theorem State.modWaves_quanta : (s.modWaves ids f).quanta = s.quanta := rfl
@[simp] theorem State.modWaves_rotation : (s.modWaves ids f).rotation = s.rotation := rfl
@[simp] theorem State.modWaves_issued : (s.modWaves ids f).issued = s.issued := rfl
@[simp] theorem State.modWaves_code : (s.modWaves ids f).code = s.code := rfl
@[simp] theorem State.modWaves_codeUse : (s.modWaves ids f).codeUse = s.codeUse := rfl
@[simp] theorem State.modWaves_eng : (s.modWaves ids f).eng = s.eng := rfl
@[simp] theorem State.modWaves_host : (s.modWaves ids f).host = s.host := rfl
@[simp] theorem State.modWaves_kiln : (s.modWaves ids f).kiln = s.kiln := rfl
@[simp] theorem State.modWaves_cycle : (s.modWaves ids f).cycle = s.cycle := rfl
@[simp] theorem State.modWaves_turns : (s.modWaves ids f).turns = s.turns := rfl
@[simp] theorem State.modWaves_issuer : (s.modWaves ids f).issuer = s.issuer := rfl
@[simp] theorem State.modWaves_fresh : (s.modWaves ids f).fresh = s.fresh := rfl
@[simp] theorem State.modWaves_nextId : (s.modWaves ids f).nextId = s.nextId := rfl
@[simp] theorem State.modWaves_enginesFirst : (s.modWaves ids f).enginesFirst = s.enginesFirst := rfl
end

section
variable (s : State) (id : Nat) (f : Gang → Gang)
@[simp] theorem State.modGang_mem : (s.modGang id f).mem = s.mem := rfl
@[simp] theorem State.modGang_poison : (s.modGang id f).poison = s.poison := rfl
@[simp] theorem State.modGang_ctxBase : (s.modGang id f).ctxBase = s.ctxBase := rfl
@[simp] theorem State.modGang_caches : (s.modGang id f).caches = s.caches := rfl
@[simp] theorem State.modGang_flights : (s.modGang id f).flights = s.flights := rfl
@[simp] theorem State.modGang_contexts : (s.modGang id f).contexts = s.contexts := rfl
@[simp] theorem State.modGang_pinsize : (s.modGang id f).pinsize = s.pinsize := rfl
@[simp] theorem State.modGang_waves : (s.modGang id f).waves = s.waves := rfl
@[simp] theorem State.modGang_gangs : (s.modGang id f).gangs = (s.gangs.map fun g => if g.id = id then f g else g) := rfl
@[simp] theorem State.modGang_grids : (s.modGang id f).grids = s.grids := rfl
@[simp] theorem State.modGang_groups : (s.modGang id f).groups = s.groups := rfl
@[simp] theorem State.modGang_bins : (s.modGang id f).bins = s.bins := rfl
@[simp] theorem State.modGang_fifo : (s.modGang id f).fifo = s.fifo := rfl
@[simp] theorem State.modGang_quanta : (s.modGang id f).quanta = s.quanta := rfl
@[simp] theorem State.modGang_rotation : (s.modGang id f).rotation = s.rotation := rfl
@[simp] theorem State.modGang_issued : (s.modGang id f).issued = s.issued := rfl
@[simp] theorem State.modGang_code : (s.modGang id f).code = s.code := rfl
@[simp] theorem State.modGang_codeUse : (s.modGang id f).codeUse = s.codeUse := rfl
@[simp] theorem State.modGang_eng : (s.modGang id f).eng = s.eng := rfl
@[simp] theorem State.modGang_host : (s.modGang id f).host = s.host := rfl
@[simp] theorem State.modGang_kiln : (s.modGang id f).kiln = s.kiln := rfl
@[simp] theorem State.modGang_cycle : (s.modGang id f).cycle = s.cycle := rfl
@[simp] theorem State.modGang_turns : (s.modGang id f).turns = s.turns := rfl
@[simp] theorem State.modGang_issuer : (s.modGang id f).issuer = s.issuer := rfl
@[simp] theorem State.modGang_fresh : (s.modGang id f).fresh = s.fresh := rfl
@[simp] theorem State.modGang_nextId : (s.modGang id f).nextId = s.nextId := rfl
@[simp] theorem State.modGang_enginesFirst : (s.modGang id f).enginesFirst = s.enginesFirst := rfl
end

section
variable (s : State) (id : Nat) (f : Grid → Grid)
@[simp] theorem State.modGrid_mem : (s.modGrid id f).mem = s.mem := rfl
@[simp] theorem State.modGrid_poison : (s.modGrid id f).poison = s.poison := rfl
@[simp] theorem State.modGrid_ctxBase : (s.modGrid id f).ctxBase = s.ctxBase := rfl
@[simp] theorem State.modGrid_caches : (s.modGrid id f).caches = s.caches := rfl
@[simp] theorem State.modGrid_flights : (s.modGrid id f).flights = s.flights := rfl
@[simp] theorem State.modGrid_contexts : (s.modGrid id f).contexts = s.contexts := rfl
@[simp] theorem State.modGrid_pinsize : (s.modGrid id f).pinsize = s.pinsize := rfl
@[simp] theorem State.modGrid_waves : (s.modGrid id f).waves = s.waves := rfl
@[simp] theorem State.modGrid_gangs : (s.modGrid id f).gangs = s.gangs := rfl
@[simp] theorem State.modGrid_grids : (s.modGrid id f).grids = (s.grids.map fun g => if g.id = id then f g else g) := rfl
@[simp] theorem State.modGrid_groups : (s.modGrid id f).groups = s.groups := rfl
@[simp] theorem State.modGrid_bins : (s.modGrid id f).bins = s.bins := rfl
@[simp] theorem State.modGrid_fifo : (s.modGrid id f).fifo = s.fifo := rfl
@[simp] theorem State.modGrid_quanta : (s.modGrid id f).quanta = s.quanta := rfl
@[simp] theorem State.modGrid_rotation : (s.modGrid id f).rotation = s.rotation := rfl
@[simp] theorem State.modGrid_issued : (s.modGrid id f).issued = s.issued := rfl
@[simp] theorem State.modGrid_code : (s.modGrid id f).code = s.code := rfl
@[simp] theorem State.modGrid_codeUse : (s.modGrid id f).codeUse = s.codeUse := rfl
@[simp] theorem State.modGrid_eng : (s.modGrid id f).eng = s.eng := rfl
@[simp] theorem State.modGrid_host : (s.modGrid id f).host = s.host := rfl
@[simp] theorem State.modGrid_kiln : (s.modGrid id f).kiln = s.kiln := rfl
@[simp] theorem State.modGrid_cycle : (s.modGrid id f).cycle = s.cycle := rfl
@[simp] theorem State.modGrid_turns : (s.modGrid id f).turns = s.turns := rfl
@[simp] theorem State.modGrid_issuer : (s.modGrid id f).issuer = s.issuer := rfl
@[simp] theorem State.modGrid_fresh : (s.modGrid id f).fresh = s.fresh := rfl
@[simp] theorem State.modGrid_nextId : (s.modGrid id f).nextId = s.nextId := rfl
@[simp] theorem State.modGrid_enginesFirst : (s.modGrid id f).enginesFirst = s.enginesFirst := rfl
end

section
variable (s : State) (asid : Nat) (f : Context → Context)
@[simp] theorem State.modCtx_mem : (s.modCtx asid f).mem = s.mem := rfl
@[simp] theorem State.modCtx_poison : (s.modCtx asid f).poison = s.poison := rfl
@[simp] theorem State.modCtx_ctxBase : (s.modCtx asid f).ctxBase = s.ctxBase := rfl
@[simp] theorem State.modCtx_caches : (s.modCtx asid f).caches = s.caches := rfl
@[simp] theorem State.modCtx_flights : (s.modCtx asid f).flights = s.flights := rfl
@[simp] theorem State.modCtx_contexts : (s.modCtx asid f).contexts = (s.contexts.filter (fun c => c.asid ≠ asid) ++ [f (s.ctx asid)]) := rfl
@[simp] theorem State.modCtx_pinsize : (s.modCtx asid f).pinsize = s.pinsize := rfl
@[simp] theorem State.modCtx_waves : (s.modCtx asid f).waves = s.waves := rfl
@[simp] theorem State.modCtx_gangs : (s.modCtx asid f).gangs = s.gangs := rfl
@[simp] theorem State.modCtx_grids : (s.modCtx asid f).grids = s.grids := rfl
@[simp] theorem State.modCtx_groups : (s.modCtx asid f).groups = s.groups := rfl
@[simp] theorem State.modCtx_bins : (s.modCtx asid f).bins = s.bins := rfl
@[simp] theorem State.modCtx_fifo : (s.modCtx asid f).fifo = s.fifo := rfl
@[simp] theorem State.modCtx_quanta : (s.modCtx asid f).quanta = s.quanta := rfl
@[simp] theorem State.modCtx_rotation : (s.modCtx asid f).rotation = s.rotation := rfl
@[simp] theorem State.modCtx_issued : (s.modCtx asid f).issued = s.issued := rfl
@[simp] theorem State.modCtx_code : (s.modCtx asid f).code = s.code := rfl
@[simp] theorem State.modCtx_codeUse : (s.modCtx asid f).codeUse = s.codeUse := rfl
@[simp] theorem State.modCtx_eng : (s.modCtx asid f).eng = s.eng := rfl
@[simp] theorem State.modCtx_host : (s.modCtx asid f).host = s.host := rfl
@[simp] theorem State.modCtx_kiln : (s.modCtx asid f).kiln = s.kiln := rfl
@[simp] theorem State.modCtx_cycle : (s.modCtx asid f).cycle = s.cycle := rfl
@[simp] theorem State.modCtx_turns : (s.modCtx asid f).turns = s.turns := rfl
@[simp] theorem State.modCtx_issuer : (s.modCtx asid f).issuer = s.issuer := rfl
@[simp] theorem State.modCtx_fresh : (s.modCtx asid f).fresh = s.fresh := rfl
@[simp] theorem State.modCtx_nextId : (s.modCtx asid f).nextId = s.nextId := rfl
@[simp] theorem State.modCtx_enginesFirst : (s.modCtx asid f).enginesFirst = s.enginesFirst := rfl
end

section
variable (s : State) (id : Nat) (f : Access → Access)
@[simp] theorem State.modFlight_mem : (s.modFlight id f).mem = s.mem := rfl
@[simp] theorem State.modFlight_poison : (s.modFlight id f).poison = s.poison := rfl
@[simp] theorem State.modFlight_ctxBase : (s.modFlight id f).ctxBase = s.ctxBase := rfl
@[simp] theorem State.modFlight_caches : (s.modFlight id f).caches = s.caches := rfl
@[simp] theorem State.modFlight_flights : (s.modFlight id f).flights = (s.flights.map fun a => if a.id = id then f a else a) := rfl
@[simp] theorem State.modFlight_contexts : (s.modFlight id f).contexts = s.contexts := rfl
@[simp] theorem State.modFlight_pinsize : (s.modFlight id f).pinsize = s.pinsize := rfl
@[simp] theorem State.modFlight_waves : (s.modFlight id f).waves = s.waves := rfl
@[simp] theorem State.modFlight_gangs : (s.modFlight id f).gangs = s.gangs := rfl
@[simp] theorem State.modFlight_grids : (s.modFlight id f).grids = s.grids := rfl
@[simp] theorem State.modFlight_groups : (s.modFlight id f).groups = s.groups := rfl
@[simp] theorem State.modFlight_bins : (s.modFlight id f).bins = s.bins := rfl
@[simp] theorem State.modFlight_fifo : (s.modFlight id f).fifo = s.fifo := rfl
@[simp] theorem State.modFlight_quanta : (s.modFlight id f).quanta = s.quanta := rfl
@[simp] theorem State.modFlight_rotation : (s.modFlight id f).rotation = s.rotation := rfl
@[simp] theorem State.modFlight_issued : (s.modFlight id f).issued = s.issued := rfl
@[simp] theorem State.modFlight_code : (s.modFlight id f).code = s.code := rfl
@[simp] theorem State.modFlight_codeUse : (s.modFlight id f).codeUse = s.codeUse := rfl
@[simp] theorem State.modFlight_eng : (s.modFlight id f).eng = s.eng := rfl
@[simp] theorem State.modFlight_host : (s.modFlight id f).host = s.host := rfl
@[simp] theorem State.modFlight_kiln : (s.modFlight id f).kiln = s.kiln := rfl
@[simp] theorem State.modFlight_cycle : (s.modFlight id f).cycle = s.cycle := rfl
@[simp] theorem State.modFlight_turns : (s.modFlight id f).turns = s.turns := rfl
@[simp] theorem State.modFlight_issuer : (s.modFlight id f).issuer = s.issuer := rfl
@[simp] theorem State.modFlight_fresh : (s.modFlight id f).fresh = s.fresh := rfl
@[simp] theorem State.modFlight_nextId : (s.modFlight id f).nextId = s.nextId := rfl
@[simp] theorem State.modFlight_enginesFirst : (s.modFlight id f).enginesFirst = s.enginesFirst := rfl
end

section
variable (s : State) (f : Caches → Caches)
@[simp] theorem State.modCaches_mem : (s.modCaches f).mem = s.mem := rfl
@[simp] theorem State.modCaches_poison : (s.modCaches f).poison = s.poison := rfl
@[simp] theorem State.modCaches_ctxBase : (s.modCaches f).ctxBase = s.ctxBase := rfl
@[simp] theorem State.modCaches_caches : (s.modCaches f).caches = f s.caches := rfl
@[simp] theorem State.modCaches_flights : (s.modCaches f).flights = s.flights := rfl
@[simp] theorem State.modCaches_contexts : (s.modCaches f).contexts = s.contexts := rfl
@[simp] theorem State.modCaches_pinsize : (s.modCaches f).pinsize = s.pinsize := rfl
@[simp] theorem State.modCaches_waves : (s.modCaches f).waves = s.waves := rfl
@[simp] theorem State.modCaches_gangs : (s.modCaches f).gangs = s.gangs := rfl
@[simp] theorem State.modCaches_grids : (s.modCaches f).grids = s.grids := rfl
@[simp] theorem State.modCaches_groups : (s.modCaches f).groups = s.groups := rfl
@[simp] theorem State.modCaches_bins : (s.modCaches f).bins = s.bins := rfl
@[simp] theorem State.modCaches_fifo : (s.modCaches f).fifo = s.fifo := rfl
@[simp] theorem State.modCaches_quanta : (s.modCaches f).quanta = s.quanta := rfl
@[simp] theorem State.modCaches_rotation : (s.modCaches f).rotation = s.rotation := rfl
@[simp] theorem State.modCaches_issued : (s.modCaches f).issued = s.issued := rfl
@[simp] theorem State.modCaches_code : (s.modCaches f).code = s.code := rfl
@[simp] theorem State.modCaches_codeUse : (s.modCaches f).codeUse = s.codeUse := rfl
@[simp] theorem State.modCaches_eng : (s.modCaches f).eng = s.eng := rfl
@[simp] theorem State.modCaches_host : (s.modCaches f).host = s.host := rfl
@[simp] theorem State.modCaches_kiln : (s.modCaches f).kiln = s.kiln := rfl
@[simp] theorem State.modCaches_cycle : (s.modCaches f).cycle = s.cycle := rfl
@[simp] theorem State.modCaches_turns : (s.modCaches f).turns = s.turns := rfl
@[simp] theorem State.modCaches_issuer : (s.modCaches f).issuer = s.issuer := rfl
@[simp] theorem State.modCaches_fresh : (s.modCaches f).fresh = s.fresh := rfl
@[simp] theorem State.modCaches_nextId : (s.modCaches f).nextId = s.nextId := rfl
@[simp] theorem State.modCaches_enginesFirst : (s.modCaches f).enginesFirst = s.enginesFirst := rfl
end

section
variable (s : State) (f : Engines → Engines)
@[simp] theorem State.modEng_mem : (s.modEng f).mem = s.mem := rfl
@[simp] theorem State.modEng_poison : (s.modEng f).poison = s.poison := rfl
@[simp] theorem State.modEng_ctxBase : (s.modEng f).ctxBase = s.ctxBase := rfl
@[simp] theorem State.modEng_caches : (s.modEng f).caches = s.caches := rfl
@[simp] theorem State.modEng_flights : (s.modEng f).flights = s.flights := rfl
@[simp] theorem State.modEng_contexts : (s.modEng f).contexts = s.contexts := rfl
@[simp] theorem State.modEng_pinsize : (s.modEng f).pinsize = s.pinsize := rfl
@[simp] theorem State.modEng_waves : (s.modEng f).waves = s.waves := rfl
@[simp] theorem State.modEng_gangs : (s.modEng f).gangs = s.gangs := rfl
@[simp] theorem State.modEng_grids : (s.modEng f).grids = s.grids := rfl
@[simp] theorem State.modEng_groups : (s.modEng f).groups = s.groups := rfl
@[simp] theorem State.modEng_bins : (s.modEng f).bins = s.bins := rfl
@[simp] theorem State.modEng_fifo : (s.modEng f).fifo = s.fifo := rfl
@[simp] theorem State.modEng_quanta : (s.modEng f).quanta = s.quanta := rfl
@[simp] theorem State.modEng_rotation : (s.modEng f).rotation = s.rotation := rfl
@[simp] theorem State.modEng_issued : (s.modEng f).issued = s.issued := rfl
@[simp] theorem State.modEng_code : (s.modEng f).code = s.code := rfl
@[simp] theorem State.modEng_codeUse : (s.modEng f).codeUse = s.codeUse := rfl
@[simp] theorem State.modEng_eng : (s.modEng f).eng = f s.eng := rfl
@[simp] theorem State.modEng_host : (s.modEng f).host = s.host := rfl
@[simp] theorem State.modEng_kiln : (s.modEng f).kiln = s.kiln := rfl
@[simp] theorem State.modEng_cycle : (s.modEng f).cycle = s.cycle := rfl
@[simp] theorem State.modEng_turns : (s.modEng f).turns = s.turns := rfl
@[simp] theorem State.modEng_issuer : (s.modEng f).issuer = s.issuer := rfl
@[simp] theorem State.modEng_fresh : (s.modEng f).fresh = s.fresh := rfl
@[simp] theorem State.modEng_nextId : (s.modEng f).nextId = s.nextId := rfl
@[simp] theorem State.modEng_enginesFirst : (s.modEng f).enginesFirst = s.enginesFirst := rfl
end

section
variable (s : State) (f : HostQueues → HostQueues)
@[simp] theorem State.modHost_mem : (s.modHost f).mem = s.mem := rfl
@[simp] theorem State.modHost_poison : (s.modHost f).poison = s.poison := rfl
@[simp] theorem State.modHost_ctxBase : (s.modHost f).ctxBase = s.ctxBase := rfl
@[simp] theorem State.modHost_caches : (s.modHost f).caches = s.caches := rfl
@[simp] theorem State.modHost_flights : (s.modHost f).flights = s.flights := rfl
@[simp] theorem State.modHost_contexts : (s.modHost f).contexts = s.contexts := rfl
@[simp] theorem State.modHost_pinsize : (s.modHost f).pinsize = s.pinsize := rfl
@[simp] theorem State.modHost_waves : (s.modHost f).waves = s.waves := rfl
@[simp] theorem State.modHost_gangs : (s.modHost f).gangs = s.gangs := rfl
@[simp] theorem State.modHost_grids : (s.modHost f).grids = s.grids := rfl
@[simp] theorem State.modHost_groups : (s.modHost f).groups = s.groups := rfl
@[simp] theorem State.modHost_bins : (s.modHost f).bins = s.bins := rfl
@[simp] theorem State.modHost_fifo : (s.modHost f).fifo = s.fifo := rfl
@[simp] theorem State.modHost_quanta : (s.modHost f).quanta = s.quanta := rfl
@[simp] theorem State.modHost_rotation : (s.modHost f).rotation = s.rotation := rfl
@[simp] theorem State.modHost_issued : (s.modHost f).issued = s.issued := rfl
@[simp] theorem State.modHost_code : (s.modHost f).code = s.code := rfl
@[simp] theorem State.modHost_codeUse : (s.modHost f).codeUse = s.codeUse := rfl
@[simp] theorem State.modHost_eng : (s.modHost f).eng = s.eng := rfl
@[simp] theorem State.modHost_host : (s.modHost f).host = f s.host := rfl
@[simp] theorem State.modHost_kiln : (s.modHost f).kiln = s.kiln := rfl
@[simp] theorem State.modHost_cycle : (s.modHost f).cycle = s.cycle := rfl
@[simp] theorem State.modHost_turns : (s.modHost f).turns = s.turns := rfl
@[simp] theorem State.modHost_issuer : (s.modHost f).issuer = s.issuer := rfl
@[simp] theorem State.modHost_fresh : (s.modHost f).fresh = s.fresh := rfl
@[simp] theorem State.modHost_nextId : (s.modHost f).nextId = s.nextId := rfl
@[simp] theorem State.modHost_enginesFirst : (s.modHost f).enginesFirst = s.enginesFirst := rfl
end

section
variable (s : State) (f : Kiln → Kiln)
@[simp] theorem State.modKiln_mem : (s.modKiln f).mem = s.mem := rfl
@[simp] theorem State.modKiln_poison : (s.modKiln f).poison = s.poison := rfl
@[simp] theorem State.modKiln_ctxBase : (s.modKiln f).ctxBase = s.ctxBase := rfl
@[simp] theorem State.modKiln_caches : (s.modKiln f).caches = s.caches := rfl
@[simp] theorem State.modKiln_flights : (s.modKiln f).flights = s.flights := rfl
@[simp] theorem State.modKiln_contexts : (s.modKiln f).contexts = s.contexts := rfl
@[simp] theorem State.modKiln_pinsize : (s.modKiln f).pinsize = s.pinsize := rfl
@[simp] theorem State.modKiln_waves : (s.modKiln f).waves = s.waves := rfl
@[simp] theorem State.modKiln_gangs : (s.modKiln f).gangs = s.gangs := rfl
@[simp] theorem State.modKiln_grids : (s.modKiln f).grids = s.grids := rfl
@[simp] theorem State.modKiln_groups : (s.modKiln f).groups = s.groups := rfl
@[simp] theorem State.modKiln_bins : (s.modKiln f).bins = s.bins := rfl
@[simp] theorem State.modKiln_fifo : (s.modKiln f).fifo = s.fifo := rfl
@[simp] theorem State.modKiln_quanta : (s.modKiln f).quanta = s.quanta := rfl
@[simp] theorem State.modKiln_rotation : (s.modKiln f).rotation = s.rotation := rfl
@[simp] theorem State.modKiln_issued : (s.modKiln f).issued = s.issued := rfl
@[simp] theorem State.modKiln_code : (s.modKiln f).code = s.code := rfl
@[simp] theorem State.modKiln_codeUse : (s.modKiln f).codeUse = s.codeUse := rfl
@[simp] theorem State.modKiln_eng : (s.modKiln f).eng = s.eng := rfl
@[simp] theorem State.modKiln_host : (s.modKiln f).host = s.host := rfl
@[simp] theorem State.modKiln_kiln : (s.modKiln f).kiln = f s.kiln := rfl
@[simp] theorem State.modKiln_cycle : (s.modKiln f).cycle = s.cycle := rfl
@[simp] theorem State.modKiln_turns : (s.modKiln f).turns = s.turns := rfl
@[simp] theorem State.modKiln_issuer : (s.modKiln f).issuer = s.issuer := rfl
@[simp] theorem State.modKiln_fresh : (s.modKiln f).fresh = s.fresh := rfl
@[simp] theorem State.modKiln_nextId : (s.modKiln f).nextId = s.nextId := rfl
@[simp] theorem State.modKiln_enginesFirst : (s.modKiln f).enginesFirst = s.enginesFirst := rfl
end

section
variable (s : State) (f : Matrix → Matrix)
@[simp] theorem State.modMatrix_mem : (s.modMatrix f).mem = s.mem := rfl
@[simp] theorem State.modMatrix_poison : (s.modMatrix f).poison = s.poison := rfl
@[simp] theorem State.modMatrix_ctxBase : (s.modMatrix f).ctxBase = s.ctxBase := rfl
@[simp] theorem State.modMatrix_caches : (s.modMatrix f).caches = s.caches := rfl
@[simp] theorem State.modMatrix_flights : (s.modMatrix f).flights = s.flights := rfl
@[simp] theorem State.modMatrix_contexts : (s.modMatrix f).contexts = s.contexts := rfl
@[simp] theorem State.modMatrix_pinsize : (s.modMatrix f).pinsize = s.pinsize := rfl
@[simp] theorem State.modMatrix_waves : (s.modMatrix f).waves = s.waves := rfl
@[simp] theorem State.modMatrix_gangs : (s.modMatrix f).gangs = s.gangs := rfl
@[simp] theorem State.modMatrix_grids : (s.modMatrix f).grids = s.grids := rfl
@[simp] theorem State.modMatrix_groups : (s.modMatrix f).groups = s.groups := rfl
@[simp] theorem State.modMatrix_bins : (s.modMatrix f).bins = s.bins := rfl
@[simp] theorem State.modMatrix_fifo : (s.modMatrix f).fifo = s.fifo := rfl
@[simp] theorem State.modMatrix_quanta : (s.modMatrix f).quanta = s.quanta := rfl
@[simp] theorem State.modMatrix_rotation : (s.modMatrix f).rotation = s.rotation := rfl
@[simp] theorem State.modMatrix_issued : (s.modMatrix f).issued = s.issued := rfl
@[simp] theorem State.modMatrix_code : (s.modMatrix f).code = s.code := rfl
@[simp] theorem State.modMatrix_codeUse : (s.modMatrix f).codeUse = s.codeUse := rfl
@[simp] theorem State.modMatrix_eng : (s.modMatrix f).eng = { s.eng with matrix := f s.eng.matrix } := rfl
@[simp] theorem State.modMatrix_host : (s.modMatrix f).host = s.host := rfl
@[simp] theorem State.modMatrix_kiln : (s.modMatrix f).kiln = s.kiln := rfl
@[simp] theorem State.modMatrix_cycle : (s.modMatrix f).cycle = s.cycle := rfl
@[simp] theorem State.modMatrix_turns : (s.modMatrix f).turns = s.turns := rfl
@[simp] theorem State.modMatrix_issuer : (s.modMatrix f).issuer = s.issuer := rfl
@[simp] theorem State.modMatrix_fresh : (s.modMatrix f).fresh = s.fresh := rfl
@[simp] theorem State.modMatrix_nextId : (s.modMatrix f).nextId = s.nextId := rfl
@[simp] theorem State.modMatrix_enginesFirst : (s.modMatrix f).enginesFirst = s.enginesFirst := rfl
end

section
variable (s : State) (pa : Nat) (bs : List Byte)
@[simp] theorem State.putBytes_mem : (s.putBytes pa bs).mem = s.mem.setRange (s.localPa pa) bs := rfl
@[simp] theorem State.putBytes_ctxBase : (s.putBytes pa bs).ctxBase = s.ctxBase := rfl
@[simp] theorem State.putBytes_caches : (s.putBytes pa bs).caches = s.caches := rfl
@[simp] theorem State.putBytes_flights : (s.putBytes pa bs).flights = s.flights := rfl
@[simp] theorem State.putBytes_contexts : (s.putBytes pa bs).contexts = s.contexts := rfl
@[simp] theorem State.putBytes_pinsize : (s.putBytes pa bs).pinsize = s.pinsize := rfl
@[simp] theorem State.putBytes_waves : (s.putBytes pa bs).waves = s.waves := rfl
@[simp] theorem State.putBytes_gangs : (s.putBytes pa bs).gangs = s.gangs := rfl
@[simp] theorem State.putBytes_grids : (s.putBytes pa bs).grids = s.grids := rfl
@[simp] theorem State.putBytes_groups : (s.putBytes pa bs).groups = s.groups := rfl
@[simp] theorem State.putBytes_bins : (s.putBytes pa bs).bins = s.bins := rfl
@[simp] theorem State.putBytes_fifo : (s.putBytes pa bs).fifo = s.fifo := rfl
@[simp] theorem State.putBytes_quanta : (s.putBytes pa bs).quanta = s.quanta := rfl
@[simp] theorem State.putBytes_rotation : (s.putBytes pa bs).rotation = s.rotation := rfl
@[simp] theorem State.putBytes_issued : (s.putBytes pa bs).issued = s.issued := rfl
@[simp] theorem State.putBytes_code : (s.putBytes pa bs).code = s.code := rfl
@[simp] theorem State.putBytes_codeUse : (s.putBytes pa bs).codeUse = s.codeUse := rfl
@[simp] theorem State.putBytes_eng : (s.putBytes pa bs).eng = s.eng := rfl
@[simp] theorem State.putBytes_kiln : (s.putBytes pa bs).kiln = s.kiln := rfl
@[simp] theorem State.putBytes_cycle : (s.putBytes pa bs).cycle = s.cycle := rfl
@[simp] theorem State.putBytes_turns : (s.putBytes pa bs).turns = s.turns := rfl
@[simp] theorem State.putBytes_issuer : (s.putBytes pa bs).issuer = s.issuer := rfl
@[simp] theorem State.putBytes_fresh : (s.putBytes pa bs).fresh = s.fresh := rfl
@[simp] theorem State.putBytes_nextId : (s.putBytes pa bs).nextId = s.nextId := rfl
@[simp] theorem State.putBytes_enginesFirst : (s.putBytes pa bs).enginesFirst = s.enginesFirst := rfl
end

/-! ### Fields of a wave after an update -/

section
variable (w : Wave) (lane reg : Nat) (x : Word)
@[simp] theorem Wave.setV_id : (w.setV lane reg x).id = w.id := rfl
@[simp] theorem Wave.setV_gang : (w.setV lane reg x).gang = w.gang := rfl
@[simp] theorem Wave.setV_wg : (w.setV lane reg x).wg = w.wg := rfl
@[simp] theorem Wave.setV_index : (w.setV lane reg x).index = w.index := rfl
@[simp] theorem Wave.setV_core : (w.setV lane reg x).core = w.core := rfl
@[simp] theorem Wave.setV_slot : (w.setV lane reg x).slot = w.slot := rfl
@[simp] theorem Wave.setV_pc : (w.setV lane reg x).pc = w.pc := rfl
@[simp] theorem Wave.setV_meet : (w.setV lane reg x).meet = w.meet := rfl
@[simp] theorem Wave.setV_released : (w.setV lane reg x).released = w.released := rfl
@[simp] theorem Wave.setV_ended : (w.setV lane reg x).ended = w.ended := rfl
@[simp] theorem Wave.setV_s : (w.setV lane reg x).s = w.s := rfl
@[simp] theorem Wave.setV_p : (w.setV lane reg x).p = w.p := rfl
@[simp] theorem Wave.setV_ld : (w.setV lane reg x).ld = w.ld := rfl
@[simp] theorem Wave.setV_st : (w.setV lane reg x).st = w.st := rfl
@[simp] theorem Wave.setV_cp : (w.setV lane reg x).cp = w.cp := rfl
@[simp] theorem Wave.setV_tl : (w.setV lane reg x).tl = w.tl := rfl
@[simp] theorem Wave.setV_team : (w.setV lane reg x).team = w.team := rfl
@[simp] theorem Wave.setV_tstat : (w.setV lane reg x).tstat = w.tstat := rfl
@[simp] theorem Wave.setV_geoqsel : (w.setV lane reg x).geoqsel = w.geoqsel := rfl
@[simp] theorem Wave.setV_time : (w.setV lane reg x).time = w.time := rfl
@[simp] theorem Wave.setV_wake : (w.setV lane reg x).wake = w.wake := rfl
@[simp] theorem Wave.setV_releaser : (w.setV lane reg x).releaser = w.releaser := rfl
@[simp] theorem Wave.setV_waiting : (w.setV lane reg x).waiting = w.waiting := rfl
@[simp] theorem Wave.setV_phases : (w.setV lane reg x).phases = w.phases := rfl
@[simp] theorem Wave.setV_hints : (w.setV lane reg x).hints = w.hints := rfl
end

section
variable (w : Wave) (lanes : Lanes) (reg : Nat) (f : Nat → Word)
@[simp] theorem Wave.setVs_id : (w.setVs lanes reg f).id = w.id := rfl
@[simp] theorem Wave.setVs_gang : (w.setVs lanes reg f).gang = w.gang := rfl
@[simp] theorem Wave.setVs_wg : (w.setVs lanes reg f).wg = w.wg := rfl
@[simp] theorem Wave.setVs_index : (w.setVs lanes reg f).index = w.index := rfl
@[simp] theorem Wave.setVs_core : (w.setVs lanes reg f).core = w.core := rfl
@[simp] theorem Wave.setVs_slot : (w.setVs lanes reg f).slot = w.slot := rfl
@[simp] theorem Wave.setVs_pc : (w.setVs lanes reg f).pc = w.pc := rfl
@[simp] theorem Wave.setVs_meet : (w.setVs lanes reg f).meet = w.meet := rfl
@[simp] theorem Wave.setVs_released : (w.setVs lanes reg f).released = w.released := rfl
@[simp] theorem Wave.setVs_ended : (w.setVs lanes reg f).ended = w.ended := rfl
@[simp] theorem Wave.setVs_s : (w.setVs lanes reg f).s = w.s := rfl
@[simp] theorem Wave.setVs_p : (w.setVs lanes reg f).p = w.p := rfl
@[simp] theorem Wave.setVs_ld : (w.setVs lanes reg f).ld = w.ld := rfl
@[simp] theorem Wave.setVs_st : (w.setVs lanes reg f).st = w.st := rfl
@[simp] theorem Wave.setVs_cp : (w.setVs lanes reg f).cp = w.cp := rfl
@[simp] theorem Wave.setVs_tl : (w.setVs lanes reg f).tl = w.tl := rfl
@[simp] theorem Wave.setVs_team : (w.setVs lanes reg f).team = w.team := rfl
@[simp] theorem Wave.setVs_tstat : (w.setVs lanes reg f).tstat = w.tstat := rfl
@[simp] theorem Wave.setVs_geoqsel : (w.setVs lanes reg f).geoqsel = w.geoqsel := rfl
@[simp] theorem Wave.setVs_time : (w.setVs lanes reg f).time = w.time := rfl
@[simp] theorem Wave.setVs_wake : (w.setVs lanes reg f).wake = w.wake := rfl
@[simp] theorem Wave.setVs_releaser : (w.setVs lanes reg f).releaser = w.releaser := rfl
@[simp] theorem Wave.setVs_waiting : (w.setVs lanes reg f).waiting = w.waiting := rfl
@[simp] theorem Wave.setVs_phases : (w.setVs lanes reg f).phases = w.phases := rfl
@[simp] theorem Wave.setVs_hints : (w.setVs lanes reg f).hints = w.hints := rfl
end

section
variable (w : Wave) (reg : Nat) (x : Word)
@[simp] theorem Wave.setS_id : (w.setS reg x).id = w.id := rfl
@[simp] theorem Wave.setS_gang : (w.setS reg x).gang = w.gang := rfl
@[simp] theorem Wave.setS_wg : (w.setS reg x).wg = w.wg := rfl
@[simp] theorem Wave.setS_index : (w.setS reg x).index = w.index := rfl
@[simp] theorem Wave.setS_core : (w.setS reg x).core = w.core := rfl
@[simp] theorem Wave.setS_slot : (w.setS reg x).slot = w.slot := rfl
@[simp] theorem Wave.setS_pc : (w.setS reg x).pc = w.pc := rfl
@[simp] theorem Wave.setS_meet : (w.setS reg x).meet = w.meet := rfl
@[simp] theorem Wave.setS_released : (w.setS reg x).released = w.released := rfl
@[simp] theorem Wave.setS_ended : (w.setS reg x).ended = w.ended := rfl
@[simp] theorem Wave.setS_v : (w.setS reg x).v = w.v := rfl
@[simp] theorem Wave.setS_p : (w.setS reg x).p = w.p := rfl
@[simp] theorem Wave.setS_ld : (w.setS reg x).ld = w.ld := rfl
@[simp] theorem Wave.setS_st : (w.setS reg x).st = w.st := rfl
@[simp] theorem Wave.setS_cp : (w.setS reg x).cp = w.cp := rfl
@[simp] theorem Wave.setS_tl : (w.setS reg x).tl = w.tl := rfl
@[simp] theorem Wave.setS_team : (w.setS reg x).team = w.team := rfl
@[simp] theorem Wave.setS_tstat : (w.setS reg x).tstat = w.tstat := rfl
@[simp] theorem Wave.setS_geoqsel : (w.setS reg x).geoqsel = w.geoqsel := rfl
@[simp] theorem Wave.setS_time : (w.setS reg x).time = w.time := rfl
@[simp] theorem Wave.setS_wake : (w.setS reg x).wake = w.wake := rfl
@[simp] theorem Wave.setS_releaser : (w.setS reg x).releaser = w.releaser := rfl
@[simp] theorem Wave.setS_waiting : (w.setS reg x).waiting = w.waiting := rfl
@[simp] theorem Wave.setS_phases : (w.setS reg x).phases = w.phases := rfl
@[simp] theorem Wave.setS_hints : (w.setS reg x).hints = w.hints := rfl
end

section
variable (w : Wave) (lanes : Lanes) (f : Nat → Quad)
@[simp] theorem Wave.setPcs_id : (w.setPcs lanes f).id = w.id := rfl
@[simp] theorem Wave.setPcs_gang : (w.setPcs lanes f).gang = w.gang := rfl
@[simp] theorem Wave.setPcs_wg : (w.setPcs lanes f).wg = w.wg := rfl
@[simp] theorem Wave.setPcs_index : (w.setPcs lanes f).index = w.index := rfl
@[simp] theorem Wave.setPcs_core : (w.setPcs lanes f).core = w.core := rfl
@[simp] theorem Wave.setPcs_slot : (w.setPcs lanes f).slot = w.slot := rfl
@[simp] theorem Wave.setPcs_meet : (w.setPcs lanes f).meet = w.meet := rfl
@[simp] theorem Wave.setPcs_released : (w.setPcs lanes f).released = w.released := rfl
@[simp] theorem Wave.setPcs_ended : (w.setPcs lanes f).ended = w.ended := rfl
@[simp] theorem Wave.setPcs_v : (w.setPcs lanes f).v = w.v := rfl
@[simp] theorem Wave.setPcs_s : (w.setPcs lanes f).s = w.s := rfl
@[simp] theorem Wave.setPcs_p : (w.setPcs lanes f).p = w.p := rfl
@[simp] theorem Wave.setPcs_ld : (w.setPcs lanes f).ld = w.ld := rfl
@[simp] theorem Wave.setPcs_st : (w.setPcs lanes f).st = w.st := rfl
@[simp] theorem Wave.setPcs_cp : (w.setPcs lanes f).cp = w.cp := rfl
@[simp] theorem Wave.setPcs_tl : (w.setPcs lanes f).tl = w.tl := rfl
@[simp] theorem Wave.setPcs_team : (w.setPcs lanes f).team = w.team := rfl
@[simp] theorem Wave.setPcs_tstat : (w.setPcs lanes f).tstat = w.tstat := rfl
@[simp] theorem Wave.setPcs_geoqsel : (w.setPcs lanes f).geoqsel = w.geoqsel := rfl
@[simp] theorem Wave.setPcs_time : (w.setPcs lanes f).time = w.time := rfl
@[simp] theorem Wave.setPcs_wake : (w.setPcs lanes f).wake = w.wake := rfl
@[simp] theorem Wave.setPcs_releaser : (w.setPcs lanes f).releaser = w.releaser := rfl
@[simp] theorem Wave.setPcs_waiting : (w.setPcs lanes f).waiting = w.waiting := rfl
@[simp] theorem Wave.setPcs_phases : (w.setPcs lanes f).phases = w.phases := rfl
@[simp] theorem Wave.setPcs_hints : (w.setPcs lanes f).hints = w.hints := rfl
end

section
variable (w : Wave) (lanes : Lanes) (f : Nat → Quad)
@[simp] theorem Wave.setMeets_id : (w.setMeets lanes f).id = w.id := rfl
@[simp] theorem Wave.setMeets_gang : (w.setMeets lanes f).gang = w.gang := rfl
@[simp] theorem Wave.setMeets_wg : (w.setMeets lanes f).wg = w.wg := rfl
@[simp] theorem Wave.setMeets_index : (w.setMeets lanes f).index = w.index := rfl
@[simp] theorem Wave.setMeets_core : (w.setMeets lanes f).core = w.core := rfl
@[simp] theorem Wave.setMeets_slot : (w.setMeets lanes f).slot = w.slot := rfl
@[simp] theorem Wave.setMeets_pc : (w.setMeets lanes f).pc = w.pc := rfl
@[simp] theorem Wave.setMeets_released : (w.setMeets lanes f).released = w.released := rfl
@[simp] theorem Wave.setMeets_ended : (w.setMeets lanes f).ended = w.ended := rfl
@[simp] theorem Wave.setMeets_v : (w.setMeets lanes f).v = w.v := rfl
@[simp] theorem Wave.setMeets_s : (w.setMeets lanes f).s = w.s := rfl
@[simp] theorem Wave.setMeets_p : (w.setMeets lanes f).p = w.p := rfl
@[simp] theorem Wave.setMeets_ld : (w.setMeets lanes f).ld = w.ld := rfl
@[simp] theorem Wave.setMeets_st : (w.setMeets lanes f).st = w.st := rfl
@[simp] theorem Wave.setMeets_cp : (w.setMeets lanes f).cp = w.cp := rfl
@[simp] theorem Wave.setMeets_tl : (w.setMeets lanes f).tl = w.tl := rfl
@[simp] theorem Wave.setMeets_team : (w.setMeets lanes f).team = w.team := rfl
@[simp] theorem Wave.setMeets_tstat : (w.setMeets lanes f).tstat = w.tstat := rfl
@[simp] theorem Wave.setMeets_geoqsel : (w.setMeets lanes f).geoqsel = w.geoqsel := rfl
@[simp] theorem Wave.setMeets_time : (w.setMeets lanes f).time = w.time := rfl
@[simp] theorem Wave.setMeets_wake : (w.setMeets lanes f).wake = w.wake := rfl
@[simp] theorem Wave.setMeets_releaser : (w.setMeets lanes f).releaser = w.releaser := rfl
@[simp] theorem Wave.setMeets_waiting : (w.setMeets lanes f).waiting = w.waiting := rfl
@[simp] theorem Wave.setMeets_phases : (w.setMeets lanes f).phases = w.phases := rfl
@[simp] theorem Wave.setMeets_hints : (w.setMeets lanes f).hints = w.hints := rfl
end

section
variable (w : Wave) (tm priv prepend : Bool)
@[simp] theorem Wave.setTstat_id : (w.setTstat tm priv prepend).id = w.id := rfl
@[simp] theorem Wave.setTstat_gang : (w.setTstat tm priv prepend).gang = w.gang := rfl
@[simp] theorem Wave.setTstat_wg : (w.setTstat tm priv prepend).wg = w.wg := rfl
@[simp] theorem Wave.setTstat_index : (w.setTstat tm priv prepend).index = w.index := rfl
@[simp] theorem Wave.setTstat_core : (w.setTstat tm priv prepend).core = w.core := rfl
@[simp] theorem Wave.setTstat_slot : (w.setTstat tm priv prepend).slot = w.slot := rfl
@[simp] theorem Wave.setTstat_pc : (w.setTstat tm priv prepend).pc = w.pc := rfl
@[simp] theorem Wave.setTstat_meet : (w.setTstat tm priv prepend).meet = w.meet := rfl
@[simp] theorem Wave.setTstat_released : (w.setTstat tm priv prepend).released = w.released := rfl
@[simp] theorem Wave.setTstat_ended : (w.setTstat tm priv prepend).ended = w.ended := rfl
@[simp] theorem Wave.setTstat_v : (w.setTstat tm priv prepend).v = w.v := rfl
@[simp] theorem Wave.setTstat_s : (w.setTstat tm priv prepend).s = w.s := rfl
@[simp] theorem Wave.setTstat_p : (w.setTstat tm priv prepend).p = w.p := rfl
@[simp] theorem Wave.setTstat_ld : (w.setTstat tm priv prepend).ld = w.ld := rfl
@[simp] theorem Wave.setTstat_st : (w.setTstat tm priv prepend).st = w.st := rfl
@[simp] theorem Wave.setTstat_cp : (w.setTstat tm priv prepend).cp = w.cp := rfl
@[simp] theorem Wave.setTstat_tl : (w.setTstat tm priv prepend).tl = w.tl := rfl
@[simp] theorem Wave.setTstat_team : (w.setTstat tm priv prepend).team = w.team := rfl
@[simp] theorem Wave.setTstat_geoqsel : (w.setTstat tm priv prepend).geoqsel = w.geoqsel := rfl
@[simp] theorem Wave.setTstat_time : (w.setTstat tm priv prepend).time = w.time := rfl
@[simp] theorem Wave.setTstat_wake : (w.setTstat tm priv prepend).wake = w.wake := rfl
@[simp] theorem Wave.setTstat_releaser : (w.setTstat tm priv prepend).releaser = w.releaser := rfl
@[simp] theorem Wave.setTstat_waiting : (w.setTstat tm priv prepend).waiting = w.waiting := rfl
@[simp] theorem Wave.setTstat_phases : (w.setTstat tm priv prepend).phases = w.phases := rfl
@[simp] theorem Wave.setTstat_hints : (w.setTstat tm priv prepend).hints = w.hints := rfl
end

section
variable (w : Wave) (lanes : Lanes) (n : Nat) (vals : Lanes)
@[simp] theorem Wave.setP_id : (w.setP lanes n vals).id = w.id := by unfold Wave.setP; split <;> rfl
@[simp] theorem Wave.setP_gang : (w.setP lanes n vals).gang = w.gang := by unfold Wave.setP; split <;> rfl
@[simp] theorem Wave.setP_wg : (w.setP lanes n vals).wg = w.wg := by unfold Wave.setP; split <;> rfl
@[simp] theorem Wave.setP_index : (w.setP lanes n vals).index = w.index := by unfold Wave.setP; split <;> rfl
@[simp] theorem Wave.setP_core : (w.setP lanes n vals).core = w.core := by unfold Wave.setP; split <;> rfl
@[simp] theorem Wave.setP_slot : (w.setP lanes n vals).slot = w.slot := by unfold Wave.setP; split <;> rfl
@[simp] theorem Wave.setP_pc : (w.setP lanes n vals).pc = w.pc := by unfold Wave.setP; split <;> rfl
@[simp] theorem Wave.setP_meet : (w.setP lanes n vals).meet = w.meet := by unfold Wave.setP; split <;> rfl
@[simp] theorem Wave.setP_released : (w.setP lanes n vals).released = w.released := by unfold Wave.setP; split <;> rfl
@[simp] theorem Wave.setP_ended : (w.setP lanes n vals).ended = w.ended := by unfold Wave.setP; split <;> rfl
@[simp] theorem Wave.setP_v : (w.setP lanes n vals).v = w.v := by unfold Wave.setP; split <;> rfl
@[simp] theorem Wave.setP_s : (w.setP lanes n vals).s = w.s := by unfold Wave.setP; split <;> rfl
@[simp] theorem Wave.setP_ld : (w.setP lanes n vals).ld = w.ld := by unfold Wave.setP; split <;> rfl
@[simp] theorem Wave.setP_st : (w.setP lanes n vals).st = w.st := by unfold Wave.setP; split <;> rfl
@[simp] theorem Wave.setP_cp : (w.setP lanes n vals).cp = w.cp := by unfold Wave.setP; split <;> rfl
@[simp] theorem Wave.setP_tl : (w.setP lanes n vals).tl = w.tl := by unfold Wave.setP; split <;> rfl
@[simp] theorem Wave.setP_team : (w.setP lanes n vals).team = w.team := by unfold Wave.setP; split <;> rfl
@[simp] theorem Wave.setP_tstat : (w.setP lanes n vals).tstat = w.tstat := by unfold Wave.setP; split <;> rfl
@[simp] theorem Wave.setP_geoqsel : (w.setP lanes n vals).geoqsel = w.geoqsel := by unfold Wave.setP; split <;> rfl
@[simp] theorem Wave.setP_time : (w.setP lanes n vals).time = w.time := by unfold Wave.setP; split <;> rfl
@[simp] theorem Wave.setP_wake : (w.setP lanes n vals).wake = w.wake := by unfold Wave.setP; split <;> rfl
@[simp] theorem Wave.setP_releaser : (w.setP lanes n vals).releaser = w.releaser := by unfold Wave.setP; split <;> rfl
@[simp] theorem Wave.setP_waiting : (w.setP lanes n vals).waiting = w.waiting := by unfold Wave.setP; split <;> rfl
@[simp] theorem Wave.setP_phases : (w.setP lanes n vals).phases = w.phases := by unfold Wave.setP; split <;> rfl
@[simp] theorem Wave.setP_hints : (w.setP lanes n vals).hints = w.hints := by unfold Wave.setP; split <;> rfl
end

/-! ### Lane sets -/

/-- The bits of a sum of rising powers of two. -/
theorem foldl_lanes_testBit (ls : List Nat) (hs : ls.Pairwise (· < ·)) (n : Nat) (k : Nat) (hn : ∀ l ∈ ls, n < 2 ^ l) :
    (ls.foldl (fun n l => n + 2 ^ l) n).testBit k = (n.testBit k || decide (k ∈ ls)) := by
  induction ls generalizing n with
  | nil => simp
  | cons l ls ih =>
    have hl : n < 2 ^ l := hn l (by simp)
    have hadd : n + 2 ^ l = 2 ^ l ||| n := by
      have := Nat.two_pow_add_eq_or_of_lt hl 1
      rw [Nat.mul_one] at this
      omega
    have hsum : n + 2 ^ l < 2 ^ (l + 1) := by rw [Nat.pow_succ]; omega
    rw [List.foldl_cons, ih (List.pairwise_cons.mp hs).2]
    · rw [hadd, Nat.testBit_or, Nat.testBit_two_pow]
      by_cases h : l = k
      · subst h; simp
      · simp [h, Ne.symm h]
    · intro x hx
      exact Nat.lt_of_lt_of_le hsum (Nat.pow_le_pow_right (by omega) ((List.pairwise_cons.mp hs).1 x hx))

/-- The lanes of `lanesWhere f` are the lanes for which `f` holds. -/
theorem lanesWhere_getLsbD (f : Nat → Bool) (l : Nat) : (lanesWhere f).getLsbD l = (decide (l < 32) && f l) := by
  unfold lanesWhere
  rw [BitVec.getLsbD_ofNat, foldl_lanes_testBit _ (List.pairwise_lt_range.filter _) 0 l (by simp)]
  by_cases h : l < 32 <;> simp [h]

theorem mem_laneList (m : Lanes) (l : Nat) : l ∈ laneList m ↔ l < 32 ∧ m.getLsbD l = true := by
  simp [laneList]

/-! ### Registers after a write -/

theorem vKey_inj {a b r q : Nat} (hr : r < 128) (hq : q < 128) (h : vKey a r = vKey b q) : a = b ∧ r = q := by
  unfold vKey at h
  omega

theorem find_vKey (lanes : Lanes) (lane reg r : Nat) (hreg : reg < 128) (hr : r < 128) :
    ((laneList lanes).find? fun j => vKey j reg = vKey lane r) =
      if lane < 32 ∧ lanes.getLsbD lane = true ∧ r = reg then some lane else none := by
  split
  · rename_i h
    obtain ⟨h1, h2, rfl⟩ := h
    cases hf : (laneList lanes).find? fun j => decide (vKey j r = vKey lane r) with
    | none =>
      have := List.find?_eq_none.mp hf lane ((mem_laneList _ _).mpr ⟨h1, h2⟩)
      simp at this
    | some j =>
      have := List.find?_some hf
      simp only [decide_eq_true_eq] at this
      rw [(vKey_inj hr hr this).1]
  · rename_i h
    apply List.find?_eq_none.mpr
    intro j hj
    simp only [decide_eq_true_eq]
    intro e
    obtain ⟨rfl, rfl⟩ := vKey_inj hreg hr e
    have := (mem_laneList _ _).mp hj
    exact h ⟨this.1, this.2, rfl⟩

/-- A vector register written in the lanes of a set: those lanes read the new value, everything else as before. -/
theorem Wave.getV_setVs (w : Wave) (lanes : Lanes) (reg : Nat) (f : Nat → Word) (lane r : Nat) (hreg : reg < 128) (hr : r < 128) :
    (w.setVs lanes reg f).getV lane r = if lane < 32 ∧ lanes.getLsbD lane = true ∧ r = reg then f lane else w.getV lane r := by
  unfold Wave.getV Wave.setVs
  rw [SMap.get_setMany _ _ _ _ _ (fun a _ b _ h => (vKey_inj hreg hreg h).1), find_vKey _ _ _ _ hreg hr]
  by_cases h : lane < 32 ∧ lanes.getLsbD lane = true ∧ r = reg
  · rw [if_pos h, if_pos h]
  · rw [if_neg h, if_neg h]

theorem Wave.getV_setV (w : Wave) (lane reg : Nat) (x : Word) (l r : Nat) (hreg : reg < 128) (hr : r < 128) :
    (w.setV lane reg x).getV l r = if l = lane ∧ r = reg then x else w.getV l r := by
  unfold Wave.getV Wave.setV
  rw [SMap.get_set]
  by_cases h : l = lane ∧ r = reg
  · obtain ⟨rfl, rfl⟩ := h; simp
  · rw [if_neg h, if_neg fun e => h (vKey_inj hr hreg e)]

theorem Wave.getS_setS (w : Wave) (reg : Nat) (x : Word) (r : Nat) : (w.setS reg x).getS r = if r = reg then x else w.getS r := by
  unfold Wave.getS Wave.setS
  exact SMap.get_set _ _ _ _

theorem find_self (ls : List Nat) (lane : Nat) : (ls.find? fun j => j = lane) = if lane ∈ ls then some lane else none := by
  induction ls with
  | nil => rfl
  | cons a ls ih =>
    by_cases h : a = lane
    · subst h; simp
    · rw [List.find?_cons_of_neg (by simpa using h), ih]
      simp [Ne.symm h]

theorem Wave.pcOf_setPcs (w : Wave) (lanes : Lanes) (f : Nat → Quad) (lane : Nat) :
    (w.setPcs lanes f).pcOf lane = if lane < 32 ∧ lanes.getLsbD lane = true then f lane else w.pcOf lane := by
  unfold Wave.pcOf Wave.setPcs
  rw [SMap.get_setMany _ _ _ _ _ (fun a _ b _ h => h), find_self]
  simp only [mem_laneList]
  by_cases h : lane < 32 ∧ lanes.getLsbD lane = true
  · rw [if_pos h, if_pos h]
  · rw [if_neg h, if_neg h]

theorem Wave.meetOf_setMeets (w : Wave) (lanes : Lanes) (f : Nat → Quad) (lane : Nat) :
    (w.setMeets lanes f).meetOf lane = if lane < 32 ∧ lanes.getLsbD lane = true then f lane else w.meetOf lane := by
  unfold Wave.meetOf Wave.setMeets
  rw [SMap.get_setMany _ _ _ _ _ (fun a _ b _ h => h), find_self]
  simp only [mem_laneList]
  by_cases h : lane < 32 ∧ lanes.getLsbD lane = true
  · rw [if_pos h, if_pos h]
  · rw [if_neg h, if_neg h]

/-- p0 reads true whatever was written to it (R265). -/
@[simp] theorem Wave.getP_zero (w : Wave) (lane : Nat) : w.getP lane 0 = true := by simp [Wave.getP]

theorem Wave.getP_setP (w : Wave) (lanes : Lanes) (n : Nat) (vals : Lanes) (lane q : Nat) :
    (w.setP lanes n vals).getP lane q = if q = n ∧ n ≠ 0 ∧ lanes.getLsbD lane = true then vals.getLsbD lane else w.getP lane q := by
  unfold Wave.setP Wave.getP
  by_cases hn : n = 0
  · simp [hn]
  · by_cases hq : q = n
    · subst hq
      simp only [hn, if_false, SMap.get_set_same, BitVec.getLsbD_or, BitVec.getLsbD_and, BitVec.getLsbD_not]
      by_cases hl : lane < 32
      · cases hb : lanes.getLsbD lane <;> simp [hn, hl, -BitVec.getLsbD_eq_getElem]
      · have h1 : lanes.getLsbD lane = false := BitVec.getLsbD_of_ge _ _ (by omega)
        have h2 : (w.p.get q).getLsbD lane = false := BitVec.getLsbD_of_ge _ _ (by omega)
        simp [h1, h2]
    · simp [hn, hq, SMap.get_set_other _ _ hq]

/-- TM, PRIV and PREPEND as they were written (R190). -/
@[simp] theorem Wave.setTstat_tm (w : Wave) (a b c : Bool) : (w.setTstat a b c).tm = a := by
  show (BitVec.ofNat 64 (a.toNat + 2 * b.toNat + 4 * c.toNat)).getLsbD 0 = a
  revert a b c
  decide
@[simp] theorem Wave.setTstat_priv (w : Wave) (a b c : Bool) : (w.setTstat a b c).priv = b := by
  show (BitVec.ofNat 64 (a.toNat + 2 * b.toNat + 4 * c.toNat)).getLsbD 1 = b
  revert a b c
  decide
@[simp] theorem Wave.setTstat_prepend (w : Wave) (a b c : Bool) : (w.setTstat a b c).prepend = c := by
  show (BitVec.ofNat 64 (a.toNat + 2 * b.toNat + 4 * c.toNat)).getLsbD 2 = c
  revert a b c
  decide

/-! ### Finding after an update -/

theorem find_map_keep {α : Type} (l : List α) (key : α → Nat) (id : Nat) (f : α → α) (hf : ∀ x, key (f x) = key x) (j : Nat) :
    ((l.map fun x => if key x = id then f x else x).find? fun x => key x = j) =
      (l.find? fun x => key x = j).map fun x => if j = id then f x else x := by
  induction l with
  | nil => rfl
  | cons a l ih =>
    rw [List.map_cons]
    by_cases ha : key a = id
    · rw [if_pos ha]
      by_cases hj : key a = j
      · rw [List.find?_cons_of_pos (by simp [hf, hj]), List.find?_cons_of_pos (by simp [hj])]
        simp [hj.symm, ha]
      · rw [List.find?_cons_of_neg (by simp [hf, hj]), List.find?_cons_of_neg (by simp [hj]), ih]
    · rw [if_neg ha]
      by_cases hj : key a = j
      · rw [List.find?_cons_of_pos (by simp [hj]), List.find?_cons_of_pos (by simp [hj])]
        have : ¬ j = id := fun e => ha (hj.trans e)
        simp [this]
      · rw [List.find?_cons_of_neg (by simp [hj]), List.find?_cons_of_neg (by simp [hj]), ih]

/-- A wave after an update that keeps names. -/
theorem State.wave?_modWave (s : State) (id : Nat) (f : Wave → Wave) (hf : ∀ w, (f w).id = w.id) (j : Nat) :
    (s.modWave id f).wave? j = (s.wave? j).map fun w => if j = id then f w else w :=
  find_map_keep s.waves Wave.id id f hf j

theorem State.gang?_modGang (s : State) (id : Nat) (f : Gang → Gang) (hf : ∀ g, (f g).id = g.id) (j : Nat) :
    (s.modGang id f).gang? j = (s.gang? j).map fun g => if j = id then f g else g :=
  find_map_keep s.gangs Gang.id id f hf j

theorem State.grid?_modGrid (s : State) (id : Nat) (f : Grid → Grid) (hf : ∀ g, (f g).id = g.id) (j : Nat) :
    (s.modGrid id f).grid? j = (s.grid? j).map fun g => if j = id then f g else g :=
  find_map_keep s.grids Grid.id id f hf j

theorem State.flight?_modFlight (s : State) (id : Nat) (f : Access → Access) (hf : ∀ a, (f a).id = a.id) (j : Nat) :
    (s.modFlight id f).flight? j = (s.flight? j).map fun a => if j = id then f a else a :=
  find_map_keep s.flights Access.id id f hf j

/-- A context's registers after an update of some context that keeps names. -/
theorem State.ctx_modCtx (s : State) (asid : Nat) (f : Context → Context) (hf : ∀ c, (f c).asid = c.asid) (b : Nat) :
    (s.modCtx asid f).ctx b = if b = asid then f (s.ctx asid) else s.ctx b := by
  have hname : (s.ctx asid).asid = asid := by
    unfold State.ctx
    cases h : s.contexts.find? fun c => c.asid = asid with
    | none => rfl
    | some c => simpa using List.find?_some h
  by_cases hb : b = asid
  · subst hb
    rw [if_pos rfl]
    have hnone : ((s.contexts.filter fun c => decide (c.asid ≠ b)).find? fun c => decide (c.asid = b)) = none := by
      apply List.find?_eq_none.mpr
      intro c hc
      simpa using (List.mem_filter.mp hc).2
    show (((s.contexts.filter fun c => decide (c.asid ≠ b)) ++ [f (s.ctx b)]).find? fun c => decide (c.asid = b)).getD _ = _
    rw [List.find?_append, hnone]
    simp [hf, hname]
  · rw [if_neg hb]
    show (((s.contexts.filter fun c => decide (c.asid ≠ asid)) ++ [f (s.ctx asid)]).find? fun c => decide (c.asid = b)).getD _ = (s.contexts.find? fun c => decide (c.asid = b)).getD _
    have hlast : ([f (s.ctx asid)].find? fun c => decide (c.asid = b)) = none := by
      simp [hf, hname, Ne.symm hb]
    rw [List.find?_append, hlast, Option.or_none]
    congr 1
    generalize s.contexts = l
    induction l with
    | nil => rfl
    | cons c l ih =>
      by_cases hc : c.asid = asid
      · have hcb : ¬ c.asid = b := fun e => hb (e.symm.trans hc)
        rw [List.filter_cons_of_neg (by simpa using hc), List.find?_cons_of_neg (by simpa using hcb), ih]
      · rw [List.filter_cons_of_pos (by simpa using hc)]
        by_cases hcb : c.asid = b
        · rw [List.find?_cons_of_pos (by simpa using hcb), List.find?_cons_of_pos (by simpa using hcb)]
        · rw [List.find?_cons_of_neg (by simpa using hcb), List.find?_cons_of_neg (by simpa using hcb), ih]

/-! ### Memory -/

/-- What a byte of memory reads after bytes are written at a physical address. -/
theorem State.putBytes_get (s : State) (pa : Nat) (bs : List Byte) (a : Nat) :
    (s.putBytes pa bs).mem.get a = if s.localPa pa ≤ a ∧ a < s.localPa pa + bs.length then (bs[a - s.localPa pa]?).getD 0 else s.mem.get a :=
  SMap.get_setRange _ _ _ _

/-- Bytes written are read back. -/
theorem State.bytesAt_putBytes (s : State) (pa : Nat) (bs : List Byte) : (s.putBytes pa bs).bytesAt pa bs.length = bs :=
  SMap.getRange_setRange _ _ _

/-- A write of bytes keeps memory canonical. -/
theorem State.putBytes_wf (s : State) (pa : Nat) (bs : List Byte) (h : Memory.wf s.mem = true) : Memory.wf (s.putBytes pa bs).mem = true :=
  SMap.wf_setRange h _ _

@[simp] theorem bytesOfNat_length (n x : Nat) : (bytesOfNat n x).length = n := by
  induction n generalizing x with
  | zero => rfl
  | succ n ih => simp [bytesOfNat, ih]

/-- A number laid out in `n` bytes, least significant first, is read back modulo 2^(8n). -/
theorem natOfBytes_bytesOfNat (n x : Nat) : natOfBytes (bytesOfNat n x) = x % 2 ^ (8 * n) := by
  induction n generalizing x with
  | zero => simp [bytesOfNat, natOfBytes, Nat.mod_one]
  | succ n ih =>
    rw [bytesOfNat, natOfBytes, ih]
    have h : 2 ^ (8 * (n + 1)) = 256 * 2 ^ (8 * n) := by rw [Nat.mul_add, Nat.pow_add]; simp [Nat.mul_comm]
    rw [h, Nat.mod_mul]
    simp

end Sys2Proof.Machine
end

