-- ==== Sys2Proof/Laws/Issue.lean ====
section
/-! SUPPORT. What the frame of an instruction does (`issue`, `front`), and what a written destination leaves: one lemma for each shared operation. -/

namespace Sys2Proof.Machine

/-! ### The frame of a meaning -/

variable {i : Instr} {s t u : State} {c : Ctx} {body : Ctx → State → Body}

/-- A word whose meaning takes effect completes. -/
theorem issue_ok (h : Issues i s c t) (hb : body c t = .ok u) : Completes (issue i s body) c u := by
  unfold Completes issue
  rw [show s.front i = .run c t from h]
  simp only [hb]

theorem issueOk_completes (h : Issues i s c t) (effect : Ctx → State → State) : Completes (issueOk i s effect) c (effect c t) := issue_ok h rfl

/-- A word whose meaning raises a precise trap other than WATCH: the group traps, from the state before the issue. -/
theorem issue_trap {r : TrapInfo} (h : Issues i s c t) (hb : body c t = .trap r) (hr : r.code ≠ 12) :
    issue i s body = .next (s.trap c.w.id c.lanes r) := by
  unfold issue
  rw [show s.front i = .run c t from h]
  simp only [hb, if_neg hr]

theorem issue_block {k a : Nat} (h : Issues i s c t) (hb : body c t = .block k a) : issue i s body = .next (s.block c.w.id k a i) := by
  unfold issue
  rw [show s.front i = .run c t from h]
  simp only [hb]

theorem issue_arrive {k a : Nat} (h : Issues i s c t) (hb : body c t = .arrive k a) : issue i s body = .next (s.arriveAt c.w.id k a i) := by
  unfold issue
  rw [show s.front i = .run c t from h]
  simp only [hb]

theorem issue_stay (h : Issues i s c t) (hb : body c t = .stay) : issue i s body = .next s := by
  unfold issue
  rw [show s.front i = .run c t from h]
  simp only [hb]

theorem issue_failed {r : TrapInfo} {x : State} (h : Issues i s c t) (hb : body c t = .failed r x) :
    issue i s body = .next ((s.tookReads x).trap c.w.id c.lanes r) := by
  unfold issue
  rw [show s.front i = .run c t from h]
  simp only [hb]

/-- A word whose fetch a watch matches: WATCH, and no effect (R419). -/
theorem issue_watched {n : Nat} (h : s.front i = .watched n c) : issue i s body = .next (s.watched n c (body c s)) := by
  unfold issue
  rw [h]

/-- A word that does not pass the front end is not performed. -/
theorem issue_other (h : s.front i = .other u) : issue i s body = .next u := by
  unfold issue
  rw [h]

/-- Everything that an issue can come to. -/
theorem issue_next (h : issue i s body = .next u) :
    s.front i = .other u ∨ (∃ n c, s.front i = .watched n c ∧ u = s.watched n c (body c s)) ∨
    ∃ c t, Issues i s c t ∧
      ((∃ x, body c t = .ok x ∧ u = x.modWave c.w.id Wave.settle) ∨
       (∃ r, body c t = .trap r ∧ u = if r.code = 12 then s.watchTrap c r else s.trap c.w.id c.lanes r) ∨
       (∃ r x, body c t = .failed r x ∧ u = (s.tookReads x).trap c.w.id c.lanes r) ∨
       (∃ k a, body c t = .block k a ∧ u = s.block c.w.id k a i) ∨
       (∃ k a, body c t = .arrive k a ∧ u = s.arriveAt c.w.id k a i) ∨
       (body c t = .stay ∧ u = s)) := by
  unfold issue at h
  split at h
  · simp at h
  · rename_i t hf
    left
    injection h with h
    rw [hf, h]
  · rename_i n c hf
    injection h with h
    exact .inr (.inl ⟨n, c, hf, h.symm⟩)
  · rename_i c t hf
    refine .inr (.inr ⟨c, t, hf, ?_⟩)
    split at h <;> injection h with h
    · exact .inl ⟨_, ‹_›, h.symm⟩
    · exact .inr (.inl ⟨_, ‹_›, h.symm⟩)
    · exact .inr (.inr (.inl ⟨_, _, ‹_›, h.symm⟩))
    · exact .inr (.inr (.inr (.inl ⟨_, _, ‹_›, h.symm⟩)))
    · exact .inr (.inr (.inr (.inr (.inl ⟨_, _, ‹_›, h.symm⟩))))
    · exact .inr (.inr (.inr (.inr (.inr ⟨‹_›, h.symm⟩))))

/-! ### The front end -/

/-- A word without a port field that nothing turns away or holds goes on to its meaning: the group's lanes stand at the next word, its release is used up, and its counter is raised (R149, R150, R272). -/
theorem front_run {w : Wave} {ga : Gang} {gr : Grid} {pc : Quad} {lanes : Lanes}
    (hw : s.wave? s.issuer = some w) (hh : s.home? w = some (ga, gr)) (hc : s.canIssue w ga = true) (hg : w.nextGroup = some (pc, lanes))
    (hwatch : (s.ctx gr.asid).fetchMatches w pc = [])
    (hlegal : illegalWord i (Ctx.ofIssue i w ga gr pc lanes) = false) (hhold : s.holds i (Ctx.ofIssue i w ga gr pc lanes) = false)
    (hfull : i.counter = 0 ∨ activeLanes i w lanes w.hintsNow.neg = 0 ∨ w.counter i.counter ≠ 63) (hports : portUses i = []) :
    Issues i s (Ctx.ofIssue i w ga gr pc lanes)
      (s.modWave w.id fun x => (if activeLanes i w lanes w.hintsNow.neg = 0 then x.withdraw else x.withdraw.raise i.counter).advance lanes pc s.cycle.toNat) := by
  unfold Issues State.front
  simp only [hw, hh, hc, hg, Bool.not_true, Bool.false_eq_true, if_false]
  unfold State.checks
  have hm : (if (Ctx.ofIssue i w ga gr pc lanes).act = 0 then ([] : List Nat)
      else (s.ctx (Ctx.ofIssue i w ga gr pc lanes).gr.asid).fetchMatches (Ctx.ofIssue i w ga gr pc lanes).w (Ctx.ofIssue i w ga gr pc lanes).pc) = [] := by
    show (if _ then ([] : List Nat) else (s.ctx gr.asid).fetchMatches w pc) = []
    rw [hwatch, ite_self]
  rw [hm]
  have hf : (i.counter ≠ 0 && (Ctx.ofIssue i w ga gr pc lanes).act ≠ 0 && (Ctx.ofIssue i w ga gr pc lanes).w.counter i.counter = 63) = false := by
    show (decide (i.counter ≠ 0) && decide (activeLanes i w lanes w.hintsNow.neg ≠ 0) && decide (w.counter i.counter = 63)) = false
    rcases hfull with h | h | h
    · simp [h]
    · simp [h]
    · rw [decide_eq_false h, Bool.and_false]
  simp only [hlegal, hhold, hf, hports, Bool.false_eq_true, if_false]
  rfl

/-! ### Destinations -/

/-- A vector destination is written as `VectorResult` says. -/
theorem putV_result (c : Ctx) (t : State) (d : Nat) (g : Nat → Word) {r : Result} (h : Completes r c (c.putV d g t)) : VectorResult r c t d g := by
  unfold VectorResult
  unfold Ctx.putV at h
  by_cases hd : d ≤ 111
  · rw [if_pos hd] at h ⊢
    refine ⟨fun w => (w.setVs c.act d g).v, ?_, ?_⟩
    · rw [h]
      simp only [State.modWave, List.map_map]
      congr 2
      apply List.map_congr_left
      intro w _
      by_cases hw : w.id = c.w.id <;> simp [hw, Wave.setVs]
    · intro w l n hl hn
      have := Wave.getV_setVs w c.act d g l n (by omega) (by omega)
      rw [show SMap.get (w.setVs c.act d g).v (vKey l n) = (w.setVs c.act d g).getV l n from rfl, this]
      by_cases hx : c.act.getLsbD l = true ∧ n = d
      · show _ = if _ then _ else _
        rw [if_pos ⟨hl, hx.1, hx.2⟩, if_pos hx]
      · show _ = if _ then _ else _
        rw [if_neg (fun e => hx ⟨e.2.1, e.2.2⟩), if_neg hx]
  · rw [if_neg hd] at h ⊢
    by_cases hp : isPort d = true ∧ c.act ≠ 0
    · rw [if_pos hp]
      rwa [if_pos (by rw [hp.1, decide_eq_true hp.2]; rfl)] at h
    · rw [if_neg hp]
      rwa [if_neg (by simpa using hp)] at h

/-- A vector pair is written as `PairResult` says. -/
theorem putV2_result (c : Ctx) (t : State) (d : Nat) (g : Nat → Quad) {r : Result} (h : Completes r c (c.putV2 d g t)) : PairResult r c t d g := by
  unfold PairResult
  unfold Ctx.putV2 at h
  by_cases hd : d ≤ 110
  · rw [if_pos hd] at h ⊢
    refine ⟨fun w => ((w.setVs c.act d fun l => lo32 (g l)).setVs c.act (d + 1) fun l => hi32 (g l)).v, ?_, ?_⟩
    · rw [h]
      simp only [State.modWave, List.map_map]
      congr 2
      apply List.map_congr_left
      intro w _
      by_cases hw : w.id = c.w.id <;> simp [hw, Wave.setVs]
    · intro w l n hl hn
      rw [show SMap.get ((w.setVs c.act d fun l => lo32 (g l)).setVs c.act (d + 1) fun l => hi32 (g l)).v (vKey l n) =
        ((w.setVs c.act d fun l => lo32 (g l)).setVs c.act (d + 1) fun l => hi32 (g l)).getV l n from rfl,
        Wave.getV_setVs _ _ _ _ _ _ (by omega) (by omega), Wave.getV_setVs _ _ _ _ _ _ (by omega) (by omega)]
      by_cases ha : c.act.getLsbD l = true
      · by_cases hn1 : n = d
        · subst hn1; simp [hl, ha]
        · by_cases hn2 : n = d + 1
          · subst hn2; simp [hl, ha]
          · simp [hn1, hn2]
      · simp only [Bool.not_eq_true] at ha
        simp [ha]
  · rw [if_neg hd] at h ⊢
    exact h

/-- A predicate is written as `PredicateResult` says. -/
theorem putP_result (c : Ctx) (t : State) (q : Nat) (g : Nat → Bool) {r : Result} (h : Completes r c (c.putP q g t)) : PredicateResult r c t q g := by
  refine ⟨fun w => (w.setP c.act q (lanesWhere g)).p, ?_, ?_⟩
  · rw [h]
    simp only [Ctx.putP, State.modWave, List.map_map]
    congr 2
    apply List.map_congr_left
    intro w _
    by_cases hw : w.id = c.w.id
    · have : w.setP c.act q (lanesWhere g) = { w with p := (w.setP c.act q (lanesWhere g)).p } := by
        unfold Wave.setP; split <;> rfl
      simp only [Function.comp, if_pos hw, Wave.setP_id]
      rw [← this]
    · simp [hw]
  · intro w l n hl
    have := Wave.getP_setP w c.act q (lanesWhere g) l n
    rw [show ({ w with p := (w.setP c.act q (lanesWhere g)).p } : Wave).getP l n = (w.setP c.act q (lanesWhere g)).getP l n from rfl, this,
      lanesWhere_getLsbD]
    simp [hl]

/-- A scalar destination of a native program's word is written as `ScalarResult` says. -/
theorem putS_result (c : Ctx) (t : State) (d : Nat) (g : Lanes → Word) {r : Result} (hn : c.vox = false) (h : Completes r c (c.putS d g t)) :
    ScalarResult r c t d (g c.act) := by
  unfold ScalarResult
  unfold Ctx.putS at h
  simp only [hn, Bool.false_and, Bool.false_eq_true, if_false] at h
  by_cases ha : c.act = 0
  · simpa [ha] using h
  · simp only [ha, if_false] at h ⊢
    by_cases hd : d ≤ 95
    · simpa only [if_pos hd] using h
    · simp only [if_neg hd] at h ⊢
      by_cases hp : isPort d = true
      · simpa only [if_pos hp] using h
      · simpa only [if_neg hp] using h

/-- What the writes of some blocks leave in the vector registers. -/
theorem blocks_write (c : Ctx) (reg : Nat) (g : Lanes → Word) (bs : List Nat) (hreg : reg ≤ 111) : ∀ (t : State),
    ∃ F : Wave → SMap 32, ((bs.map fun b => lanesWhere fun l => l / c.width = b).foldl (init := t) fun t b =>
      if b &&& c.act = 0 then t else t.modWave c.w.id fun w => w.setVs b reg fun _ => g (b &&& c.act)) = t.modWave c.w.id (fun w => { w with v := F w }) ∧
      ∀ (w : Wave) (l n : Nat), l < 32 → n ≤ 111 → SMap.get (F w) (vKey l n) =
        if n = reg ∧ l / c.width ∈ bs ∧ c.act &&& lanesWhere (fun k => k / c.width = l / c.width) ≠ 0 then g (c.act &&& lanesWhere fun k => k / c.width = l / c.width) else w.getV l n := by
  induction bs with
  | nil => intro t; exact ⟨fun w => w.v, by simp [State.modWave], by simp [Wave.getV]⟩
  | cons b bs ih =>
    intro t
    rw [List.map_cons, List.foldl_cons]
    obtain ⟨F, h1, h2⟩ := ih (if (lanesWhere fun l => l / c.width = b) &&& c.act = 0 then t else t.modWave c.w.id fun w => w.setVs (lanesWhere fun l => l / c.width = b) reg fun _ => g ((lanesWhere fun l => l / c.width = b) &&& c.act))
    rw [h1]
    by_cases ha : (lanesWhere fun l => l / c.width = b) &&& c.act = 0
    · refine ⟨F, by rw [if_pos ha], fun w l n hl hn => ?_⟩
      rw [h2 w l n hl hn]
      by_cases hb : l / c.width = b
      · have hz : c.act &&& lanesWhere (fun k => k / c.width = l / c.width) = 0 := by rw [BitVec.and_comm, hb]; exact ha
        simp [hz]
      · simp [List.mem_cons, hb]
    · refine ⟨fun w => F (w.setVs (lanesWhere fun l => l / c.width = b) reg fun _ => g ((lanesWhere fun l => l / c.width = b) &&& c.act)), ?_, fun w l n hl hn => ?_⟩
      · rw [if_neg ha]
        simp only [State.modWave, List.map_map]
        congr 1
        apply List.map_congr_left
        intro w _
        by_cases hw : w.id = c.w.id <;> simp [hw, Wave.setVs]
      · simp only []
        rw [h2 _ l n hl hn, Wave.getV_setVs _ _ _ _ _ _ (by omega) (by omega), lanesWhere_getLsbD]
        by_cases hb : l / c.width = b
        · have hz : c.act &&& lanesWhere (fun k => k / c.width = b) ≠ 0 := by rw [BitVec.and_comm]; exact ha
          by_cases hnr : n = reg
          · subst hnr
            have hc : (lanesWhere fun l => l / c.width = b) &&& c.act = c.act &&& lanesWhere fun k => k / c.width = b := BitVec.and_comm ..
            rw [hb, hc, if_pos (⟨rfl, by simp, hz⟩ : n = n ∧ b ∈ b :: bs ∧ _)]
            split
            · rfl
            · rw [if_pos]; simp [hl]
          · simp [hnr]
        · simp [hb]

/-- A scalar destination of a translated segment's word is written as `UniformResult` says. -/
theorem putS_uniform (c : Ctx) (t : State) (d : Nat) (g : Lanes → Word) {r : Result} (hv : c.vox = true) (hreg : d ≤ 111) (hw : 32 % c.width = 0) (h : Completes r c (c.putS d g t)) : UniformResult r c t d g := by
  obtain ⟨F, e, q⟩ := blocks_write c d g (List.range (32 / c.width)) (by omega) t
  refine ⟨F, ?_, fun w l n hl hn => ?_⟩
  · rw [h]
    unfold Ctx.putS Ctx.blocks
    rw [if_pos (by simp [hv, hreg]), e]
    simp only [State.modWave, List.map_map]
    congr 2
    apply List.map_congr_left
    intro w _
    by_cases hw : w.id = c.w.id <;> simp [hw]
  · rw [q w l n hl hn]
    have hpos : 0 < c.width := by
      rcases Nat.eq_zero_or_pos c.width with h0 | h0
      · rw [h0] at hw; simp at hw
      · exact h0
    have : l / c.width < 32 / c.width := by
      rw [Nat.div_lt_iff_lt_mul hpos, Nat.div_mul_cancel (Nat.dvd_of_mod_eq_zero hw)]; exact hl
    simp [List.mem_range, this]

/-! ### Events -/

/-- An event row goes on exactly where its step comes about. -/
theorem event_next {row : String} {o : Option State} : event row o = .next u ↔ o = some u := by
  unfold event
  cases o <;> simp

theorem event_some {row : String} {o : Option State} (h : o = some u) : event row o = .next u := event_next.mpr h

/-- A claimed command that is run. -/
theorem runCommand_next {row : String} {id : Nat} {ok : Command → Bool} {run : Command → State → Option State} {k : Command}
    (hf : s.host.commands.find? (fun c => c.id = id) = some k) (ho : s.host.commands.find? (fun x => x.queue = k.queue) = some k) (hk : ok k = true)
    (hr : run k (s.modHost fun h => { h with commands := h.commands.filter fun x => x.id ≠ id }) = some u) : runCommand row id ok run s = .next u := by
  unfold runCommand
  apply event_some
  rw [hf, Option.bind_some]
  simp only [ho, hk]
  simpa using hr

/-- A doorbell that the mailbox answers at once. -/
theorem doorbell_next {row : String} {op : Nat} {run : State → Nat × State} (h1 : s.kiln.recovery = false) (h2 : s.busy = false) (h3 : s.mailboxOp = op) :
    doorbell row op s run = .next (((run s).2.mailboxDone (run s).1).distribute) := by
  unfold doorbell
  apply event_some
  simp [h1, h2, h3]

theorem longDoorbell_runs {row : String} {op : Nat} {check : State → Option Nat} {run : State → State} (h1 : s.kiln.recovery = false) (h2 : s.busy = false)
    (h3 : s.mailboxOp = op) (h4 : check s = none) : longDoorbell row op s check run = .next (run s) := by
  unfold longDoorbell
  apply event_some
  simp [h1, h2, h3, h4]

end Sys2Proof.Machine
end

