-- ==== Sys2Proof/Laws/Layout.lean ====
section
/-! SUPPORT. Where the strides of an operand's layout keep its chunks apart, no chunk is shared (R359). -/

namespace Sys2Proof.Machine

/-- The sum of strides by their multiples. -/
def strideSum : List (Nat × Nat) → List Nat → Nat
  | (s, _) :: l, x :: xs => x * s + strideSum l xs
  | _, _ => 0

/-- The multiples keep below the counts of their strides. -/
def multiplesFit : List (Nat × Nat) → List Nat → Prop
  | (_, n) :: l, x :: xs => x < n ∧ multiplesFit l xs
  | [], [] => True
  | _, _ => False

/-- Strides that lie apart give different sums for different multiples, even with a rest below their span. -/
theorem strideSum_inj (l : List (Nat × Nat)) : ∀ (span a b : Nat) (xs ys : List Nat), stridesApart span l = true → a ≤ span → b ≤ span →
    multiplesFit l xs → multiplesFit l ys → a + strideSum l xs = b + strideSum l ys → a = b ∧ xs = ys := by
  induction l with
  | nil =>
    intro span a b xs ys _ _ _ hx hy h
    cases xs <;> cases ys <;> simp_all [multiplesFit, strideSum]
  | cons e l ih =>
    obtain ⟨s, n⟩ := e
    intro span a b xs ys hs ha hb hx hy h
    match xs, ys, hx, hy with
    | x :: xs, y :: ys, ⟨hx1, hx2⟩, ⟨hy1, hy2⟩ =>
      simp only [stridesApart, Bool.and_eq_true, Bool.or_eq_true, decide_eq_true_eq] at hs
      simp only [strideSum] at h
      have bound (k c : Nat) (hk : k < n) (hc : c ≤ span) : c + k * s ≤ span + s * (n - 1) := by
        have : k * s ≤ s * (n - 1) := by rw [Nat.mul_comm]; exact Nat.mul_le_mul_left s (by omega)
        omega
      have ⟨h1, h2⟩ := ih _ (a + x * s) (b + y * s) xs ys hs.2 (bound x a hx1 ha) (bound y b hy1 hb) hx2 hy2 (by omega)
      have hxy : x = y := by
        rcases hs.1 with hn | hn
        · omega
        · rcases Nat.lt_trichotomy x y with hlt | heq | hgt
          · have : (x + 1) * s ≤ y * s := Nat.mul_le_mul_right s hlt
            rw [Nat.succ_mul] at this
            omega
          · exact heq
          · have : (y + 1) * s ≤ x * s := Nat.mul_le_mul_right s hgt
            rw [Nat.succ_mul] at this
            omega
      subst hxy
      exact ⟨by omega, by rw [h2]⟩

/-- The strides of a layout whose chunks lie apart give different places to different chunks. -/
theorem Layout.apart_inj {l : Layout} {lines planes depth i p j m q k : Nat} (h : l.apart lines planes depth = true)
    (hi : i < lines) (hp : p < planes) (hj : j < depth) (hm : m < lines) (hq : q < planes) (hk : k < depth)
    (heq : j * l.kstride + p * (l.pstride * 64) + i * l.lstride = k * l.kstride + q * (l.pstride * 64) + m * l.lstride) : i = m ∧ p = q ∧ j = k := by
  simp only [Layout.apart, List.any_cons, List.any_nil, Bool.or_false, Bool.or_eq_true] at h
  rcases h with h | h | h | h | h | h
  · simpa using (strideSum_inj _ 0 0 0 [i, p, j] [m, q, k] h (Nat.le_refl _) (Nat.le_refl _) ⟨hi, hp, hj, trivial⟩ ⟨hm, hq, hk, trivial⟩ (by simp only [strideSum]; omega)).2
  · have := (strideSum_inj _ 0 0 0 [i, j, p] [m, k, q] h (Nat.le_refl _) (Nat.le_refl _) ⟨hi, hj, hp, trivial⟩ ⟨hm, hk, hq, trivial⟩ (by simp only [strideSum]; omega)).2
    simp_all
  · have := (strideSum_inj _ 0 0 0 [p, i, j] [q, m, k] h (Nat.le_refl _) (Nat.le_refl _) ⟨hp, hi, hj, trivial⟩ ⟨hq, hm, hk, trivial⟩ (by simp only [strideSum]; omega)).2
    simp_all
  · have := (strideSum_inj _ 0 0 0 [p, j, i] [q, k, m] h (Nat.le_refl _) (Nat.le_refl _) ⟨hp, hj, hi, trivial⟩ ⟨hq, hk, hm, trivial⟩ (by simp only [strideSum]; omega)).2
    simp_all
  · have := (strideSum_inj _ 0 0 0 [j, i, p] [k, m, q] h (Nat.le_refl _) (Nat.le_refl _) ⟨hj, hi, hp, trivial⟩ ⟨hk, hm, hq, trivial⟩ (by simp only [strideSum]; omega)).2
    simp_all
  · have := (strideSum_inj _ 0 0 0 [j, p, i] [k, q, m] h (Nat.le_refl _) (Nat.le_refl _) ⟨hj, hp, hi, trivial⟩ ⟨hk, hq, hm, trivial⟩ (by simp only [strideSum]; omega)).2
    simp_all

/-- No chunk of such a layout is shared: the check of `apart` spares that of each chunk. -/
theorem Layout.apart_not_shared {l : Layout} {lines planes depth i p j : Nat} (h : l.apart lines planes depth = true)
    (hi : i < lines) (hp : p < planes) (hj : j < depth) : l.shared lines planes depth i p j = false := by
  rw [Bool.eq_false_iff]
  intro hs
  simp only [Layout.shared, List.any_eq_true, List.mem_range] at hs
  obtain ⟨q, hq, m, hm, hs⟩ := hs
  split at hs
  · rename_i hz
    simp only [Bool.and_eq_true, Bool.or_eq_true, decide_eq_true_eq] at hs
    obtain ⟨hr, hd⟩ := hs
    have at_ (k : Nat) (hk : k < depth) := Layout.apart_inj h hi hp hj hm hq hk (by rw [hz] at hr ⊢; simp only [Nat.mul_zero, Nat.zero_add] at hr ⊢; omega)
    rcases hd with (hd | hd) | hd
    · have h0 := (at_ 0 (by omega)).2.2
      have h1 := (at_ 1 hd).2.2
      omega
    · exact hd (at_ j hj).2.1.symm
    · exact hd (at_ j hj).1.symm
  · rename_i hz
    simp only [Bool.and_eq_true, decide_eq_true_eq, Bool.not_eq_true', Bool.and_eq_false_iff, decide_eq_false_iff_not] at hs
    obtain ⟨⟨⟨hr, h0⟩, hb⟩, hne⟩ := hs
    obtain ⟨c, hc⟩ := Int.dvd_of_emod_eq_zero hr
    have hpos : (0 : Int) < l.kstride := by omega
    have hc0 : 0 ≤ c := by
      by_contra hneg
      have : (l.kstride : Int) * c < 0 := Int.mul_neg_of_pos_of_neg hpos (by omega)
      omega
    have hcd : c < depth := by
      by_contra hge
      have : (l.kstride : Int) * depth ≤ l.kstride * c := Int.mul_le_mul_of_nonneg_left (by omega) (by omega)
      omega
    obtain ⟨k, rfl⟩ := Int.eq_ofNat_of_zero_le hc0
    have hk : k < depth := by omega
    have hlin : j * l.kstride + p * (l.pstride * 64) + i * l.lstride = k * l.kstride + q * (l.pstride * 64) + m * l.lstride := by
      have : (l.kstride : Int) * k = ((k * l.kstride : Nat) : Int) := by push_cast; ring
      rw [this] at hc
      omega
    obtain ⟨e1, e2, e3⟩ := Layout.apart_inj h hi hp hj hm hq hk hlin
    subst e1 e2 e3
    rw [hc] at hne
    simp [Int.mul_comm] at hne

end Sys2Proof.Machine
end

