-- ==== Sys2Proof/Laws/Turns.lean ====
section
/-! SUPPORT. What follows a turn, one lemma for each field it leaves, and which wave a named issue runs. -/

namespace Sys2Proof.Machine

variable (s old : State) (n : Nat)

/-! ### Time, rotations, and what may come about beside a turn -/

@[simp] theorem State.passCycles_mem : (s.passCycles n).mem = s.mem := rfl
@[simp] theorem State.passCycles_poison : (s.passCycles n).poison = s.poison := rfl
@[simp] theorem State.passCycles_ctxBase : (s.passCycles n).ctxBase = s.ctxBase := rfl
@[simp] theorem State.passCycles_caches : (s.passCycles n).caches = s.caches := rfl
@[simp] theorem State.passCycles_flights : (s.passCycles n).flights = s.flights := rfl
@[simp] theorem State.passCycles_contexts : (s.passCycles n).contexts = s.contexts := rfl
@[simp] theorem State.passCycles_pinsize : (s.passCycles n).pinsize = s.pinsize := rfl
@[simp] theorem State.passCycles_waves : (s.passCycles n).waves = s.waves := rfl
@[simp] theorem State.passCycles_gangs : (s.passCycles n).gangs = s.gangs := rfl
@[simp] theorem State.passCycles_grids : (s.passCycles n).grids = s.grids := rfl
@[simp] theorem State.passCycles_groups : (s.passCycles n).groups = s.groups := rfl
@[simp] theorem State.passCycles_bins : (s.passCycles n).bins = s.bins := rfl
@[simp] theorem State.passCycles_fifo : (s.passCycles n).fifo = s.fifo := rfl
@[simp] theorem State.passCycles_quanta : (s.passCycles n).quanta = s.quanta := rfl
@[simp] theorem State.passCycles_issued : (s.passCycles n).issued = s.issued := rfl
@[simp] theorem State.passCycles_code : (s.passCycles n).code = s.code := rfl
@[simp] theorem State.passCycles_codeUse : (s.passCycles n).codeUse = s.codeUse := rfl
@[simp] theorem State.passCycles_eng : (s.passCycles n).eng = s.eng := rfl
@[simp] theorem State.passCycles_host : (s.passCycles n).host = s.host := rfl
@[simp] theorem State.passCycles_kiln : (s.passCycles n).kiln = s.kiln := rfl
@[simp] theorem State.passCycles_turns : (s.passCycles n).turns = s.turns := rfl
@[simp] theorem State.passCycles_issuer : (s.passCycles n).issuer = s.issuer := rfl
@[simp] theorem State.passCycles_fresh : (s.passCycles n).fresh = s.fresh := rfl
@[simp] theorem State.passCycles_nextId : (s.passCycles n).nextId = s.nextId := rfl
@[simp] theorem State.passCycles_enginesFirst : (s.passCycles n).enginesFirst = s.enginesFirst := rfl

@[simp] theorem State.moveRotations_mem : (s.moveRotations old).mem = s.mem := rfl
@[simp] theorem State.moveRotations_poison : (s.moveRotations old).poison = s.poison := rfl
@[simp] theorem State.moveRotations_ctxBase : (s.moveRotations old).ctxBase = s.ctxBase := rfl
@[simp] theorem State.moveRotations_caches : (s.moveRotations old).caches = s.caches := rfl
@[simp] theorem State.moveRotations_flights : (s.moveRotations old).flights = s.flights := rfl
@[simp] theorem State.moveRotations_contexts : (s.moveRotations old).contexts = s.contexts := rfl
@[simp] theorem State.moveRotations_pinsize : (s.moveRotations old).pinsize = s.pinsize := rfl
@[simp] theorem State.moveRotations_waves : (s.moveRotations old).waves = s.waves := rfl
@[simp] theorem State.moveRotations_gangs : (s.moveRotations old).gangs = s.gangs := rfl
@[simp] theorem State.moveRotations_grids : (s.moveRotations old).grids = s.grids := rfl
@[simp] theorem State.moveRotations_groups : (s.moveRotations old).groups = s.groups := rfl
@[simp] theorem State.moveRotations_bins : (s.moveRotations old).bins = s.bins := rfl
@[simp] theorem State.moveRotations_fifo : (s.moveRotations old).fifo = s.fifo := rfl
@[simp] theorem State.moveRotations_quanta : (s.moveRotations old).quanta = s.quanta := rfl
@[simp] theorem State.moveRotations_issued : (s.moveRotations old).issued = s.issued := rfl
@[simp] theorem State.moveRotations_code : (s.moveRotations old).code = s.code := rfl
@[simp] theorem State.moveRotations_codeUse : (s.moveRotations old).codeUse = s.codeUse := rfl
@[simp] theorem State.moveRotations_eng : (s.moveRotations old).eng = s.eng := rfl
@[simp] theorem State.moveRotations_host : (s.moveRotations old).host = s.host := rfl
@[simp] theorem State.moveRotations_kiln : (s.moveRotations old).kiln = s.kiln := rfl
@[simp] theorem State.moveRotations_cycle : (s.moveRotations old).cycle = s.cycle := rfl
@[simp] theorem State.moveRotations_turns : (s.moveRotations old).turns = s.turns := rfl
@[simp] theorem State.moveRotations_issuer : (s.moveRotations old).issuer = s.issuer := rfl
@[simp] theorem State.moveRotations_fresh : (s.moveRotations old).fresh = s.fresh := rfl
@[simp] theorem State.moveRotations_nextId : (s.moveRotations old).nextId = s.nextId := rfl
@[simp] theorem State.moveRotations_enginesFirst : (s.moveRotations old).enginesFirst = s.enginesFirst := rfl

@[simp] theorem State.agentTurn_mem : (s.agentTurn).mem = s.mem := rfl
@[simp] theorem State.agentTurn_poison : (s.agentTurn).poison = s.poison := rfl
@[simp] theorem State.agentTurn_ctxBase : (s.agentTurn).ctxBase = s.ctxBase := rfl
@[simp] theorem State.agentTurn_caches : (s.agentTurn).caches = s.caches := rfl
@[simp] theorem State.agentTurn_flights : (s.agentTurn).flights = s.flights := rfl
@[simp] theorem State.agentTurn_contexts : (s.agentTurn).contexts = s.contexts := rfl
@[simp] theorem State.agentTurn_waves : (s.agentTurn).waves = s.waves := rfl
@[simp] theorem State.agentTurn_gangs : (s.agentTurn).gangs = s.gangs := rfl
@[simp] theorem State.agentTurn_grids : (s.agentTurn).grids = s.grids := rfl
@[simp] theorem State.agentTurn_groups : (s.agentTurn).groups = s.groups := rfl
@[simp] theorem State.agentTurn_bins : (s.agentTurn).bins = s.bins := rfl
@[simp] theorem State.agentTurn_fifo : (s.agentTurn).fifo = s.fifo := rfl
@[simp] theorem State.agentTurn_quanta : (s.agentTurn).quanta = s.quanta := rfl
@[simp] theorem State.agentTurn_rotation : (s.agentTurn).rotation = s.rotation := rfl
@[simp] theorem State.agentTurn_issued : (s.agentTurn).issued = s.issued := rfl
@[simp] theorem State.agentTurn_code : (s.agentTurn).code = s.code := rfl
@[simp] theorem State.agentTurn_codeUse : (s.agentTurn).codeUse = s.codeUse := rfl
@[simp] theorem State.agentTurn_eng : (s.agentTurn).eng = s.eng := rfl
@[simp] theorem State.agentTurn_host : (s.agentTurn).host = s.host := rfl
@[simp] theorem State.agentTurn_kiln : (s.agentTurn).kiln = s.kiln := rfl
@[simp] theorem State.agentTurn_cycle : (s.agentTurn).cycle = s.cycle := rfl
@[simp] theorem State.agentTurn_turns : (s.agentTurn).turns = s.turns := rfl
@[simp] theorem State.agentTurn_issuer : (s.agentTurn).issuer = s.issuer := rfl
@[simp] theorem State.agentTurn_fresh : (s.agentTurn).fresh = s.fresh := rfl
@[simp] theorem State.agentTurn_nextId : (s.agentTurn).nextId = s.nextId := rfl
@[simp] theorem State.agentTurn_enginesFirst : (s.agentTurn).enginesFirst = s.enginesFirst := rfl

@[simp] theorem State.linkTurn_mem : (s.linkTurn).mem = s.mem := rfl
@[simp] theorem State.linkTurn_poison : (s.linkTurn).poison = s.poison := rfl
@[simp] theorem State.linkTurn_ctxBase : (s.linkTurn).ctxBase = s.ctxBase := rfl
@[simp] theorem State.linkTurn_caches : (s.linkTurn).caches = s.caches := rfl
@[simp] theorem State.linkTurn_flights : (s.linkTurn).flights = s.flights := rfl
@[simp] theorem State.linkTurn_contexts : (s.linkTurn).contexts = s.contexts := rfl
@[simp] theorem State.linkTurn_pinsize : (s.linkTurn).pinsize = s.pinsize := rfl
@[simp] theorem State.linkTurn_waves : (s.linkTurn).waves = s.waves := rfl
@[simp] theorem State.linkTurn_gangs : (s.linkTurn).gangs = s.gangs := rfl
@[simp] theorem State.linkTurn_grids : (s.linkTurn).grids = s.grids := rfl
@[simp] theorem State.linkTurn_groups : (s.linkTurn).groups = s.groups := rfl
@[simp] theorem State.linkTurn_bins : (s.linkTurn).bins = s.bins := rfl
@[simp] theorem State.linkTurn_fifo : (s.linkTurn).fifo = s.fifo := rfl
@[simp] theorem State.linkTurn_quanta : (s.linkTurn).quanta = s.quanta := rfl
@[simp] theorem State.linkTurn_rotation : (s.linkTurn).rotation = s.rotation := rfl
@[simp] theorem State.linkTurn_issued : (s.linkTurn).issued = s.issued := rfl
@[simp] theorem State.linkTurn_code : (s.linkTurn).code = s.code := rfl
@[simp] theorem State.linkTurn_codeUse : (s.linkTurn).codeUse = s.codeUse := rfl
@[simp] theorem State.linkTurn_eng : (s.linkTurn).eng = s.eng := rfl
@[simp] theorem State.linkTurn_kiln : (s.linkTurn).kiln = s.kiln := rfl
@[simp] theorem State.linkTurn_cycle : (s.linkTurn).cycle = s.cycle := rfl
@[simp] theorem State.linkTurn_turns : (s.linkTurn).turns = s.turns := rfl
@[simp] theorem State.linkTurn_issuer : (s.linkTurn).issuer = s.issuer := rfl
@[simp] theorem State.linkTurn_fresh : (s.linkTurn).fresh = s.fresh := rfl
@[simp] theorem State.linkTurn_nextId : (s.linkTurn).nextId = s.nextId := rfl
@[simp] theorem State.linkTurn_enginesFirst : (s.linkTurn).enginesFirst = s.enginesFirst := rfl

@[simp] theorem State.tick_mem : (s.tick).mem = s.mem := rfl
@[simp] theorem State.tick_poison : (s.tick).poison = s.poison := rfl
@[simp] theorem State.tick_ctxBase : (s.tick).ctxBase = s.ctxBase := rfl
@[simp] theorem State.tick_caches : (s.tick).caches = s.caches := rfl
@[simp] theorem State.tick_flights : (s.tick).flights = s.flights := rfl
@[simp] theorem State.tick_contexts : (s.tick).contexts = s.contexts := rfl
@[simp] theorem State.tick_pinsize : (s.tick).pinsize = s.pinsize := rfl
@[simp] theorem State.tick_waves : (s.tick).waves = s.waves := rfl
@[simp] theorem State.tick_gangs : (s.tick).gangs = s.gangs := rfl
@[simp] theorem State.tick_grids : (s.tick).grids = s.grids := rfl
@[simp] theorem State.tick_groups : (s.tick).groups = s.groups := rfl
@[simp] theorem State.tick_bins : (s.tick).bins = s.bins := rfl
@[simp] theorem State.tick_fifo : (s.tick).fifo = s.fifo := rfl
@[simp] theorem State.tick_quanta : (s.tick).quanta = s.quanta := rfl
@[simp] theorem State.tick_issued : (s.tick).issued = s.issued := rfl
@[simp] theorem State.tick_code : (s.tick).code = s.code := rfl
@[simp] theorem State.tick_codeUse : (s.tick).codeUse = s.codeUse := rfl
@[simp] theorem State.tick_eng : (s.tick).eng = s.eng := rfl
@[simp] theorem State.tick_host : (s.tick).host = s.host := rfl
@[simp] theorem State.tick_kiln : (s.tick).kiln = s.kiln := rfl
@[simp] theorem State.tick_turns : (s.tick).turns = s.turns := rfl
@[simp] theorem State.tick_issuer : (s.tick).issuer = s.issuer := rfl
@[simp] theorem State.tick_nextId : (s.tick).nextId = s.nextId := rfl
@[simp] theorem State.tick_enginesFirst : (s.tick).enginesFirst = s.enginesFirst := rfl

@[simp] theorem State.passCycles_cycle : (s.passCycles n).cycle = s.cycle + BitVec.ofNat 64 n := rfl

@[simp] theorem State.tick_cycle : s.tick.cycle = s.cycle + BitVec.ofNat 64 (Config.stepCycles s.fresh) := rfl

@[simp] theorem State.tick_fresh : s.tick.fresh = s.fresh + 1 := rfl

/-- A partition that has issued in this cycle issues in the next; nothing but time passes. -/
theorem State.slotFor_eq (w : Wave) : s.slotFor w = s ∧ s.issued.get w.part ≠ s.cycle + 1 ∨ s.slotFor w = s.passCycles 1 ∧ s.issued.get w.part = s.cycle + 1 := by
  unfold State.slotFor
  split <;> simp_all

/-- Between two steps a pod barrier's peers arrive, or nothing comes of it. -/
theorem State.podTurn_cases : s.podTurn = s ∨
    ∃ g ∈ s.grids, 1 < g.ndevice ∧ g.podArrivals = g.podUses ∧ s.podTurn = (s.modGrid g.id fun x => { x with podArrivals := x.podArrivals + 1 }).releaseBarriers := by
  unfold State.podTurn
  split
  · rename_i g h
    have hp := List.find?_some h
    simp only [Bool.and_eq_true, decide_eq_true_eq] at hp
    exact .inr ⟨g, List.mem_of_find?_eq_some h, hp.1.1.1, hp.1.2, rfl⟩
  · exact .inl rfl

/-- Between two steps a query reads one more node, or nothing comes of it. -/
theorem State.queryTurn_cases : s.queryTurn = s ∨ ∃ id lane, s.queryTurn = s.stepQuery id lane := by
  unfold State.queryTurn
  split
  · exact .inl rfl
  · split
    · exact .inr ⟨_, _, rfl⟩
    · exact .inl rfl

/-- A named issue runs the word of the wave that its partition chooses, and passes over any other. -/
theorem issueTurn_cases {s : State} {w : Wave} (h : s.wave? w.id = some w) :
    (s.slotFor w).isChoice w = false ∧ issueTurn w.id s = .next s ∨
      (s.slotFor w).isChoice w = true ∧ issueTurn w.id s = issueWord w.id { s.slotFor w with issued := (s.slotFor w).issued.set w.part ((s.slotFor w).cycle + 1) } := by
  simp only [issueTurn, h]
  cases (s.slotFor w).isChoice w <;> simp

/-- A step is the turn that is named, or the default one, and what follows it. -/
theorem step_cases : (∃ t ts, s.turns = t :: ts ∧ step s = afterTurn s (takeTurn t { s with turns := ts })) ∨ s.turns = [] ∧ step s = afterTurn s (.next s.defaultTurn) := by
  unfold step
  split
  · exact .inl ⟨_, _, ‹_›, rfl⟩
  · exact .inr ⟨‹_›, rfl⟩

end Sys2Proof.Machine
end

