-- ==== Sys2Proof/Tests/Slice0.lean ====
section
/-! SUPPORT. Tests: the words that the spec encodes, ill-formed instructions, single steps with results worked out from the spec, and a witness for the hypotheses of each statement. -/

namespace Sys2Proof.Tests

set_option Elab.async false

open Sys2Proof.Machine

/-! ### Decoding -/

/-- Every word of the list decodes to the instruction beside it. -/
def decodesAll (reader : Word → Except DecodeError Instr) (l : List (Nat × Instr)) : Bool :=
  l.all fun p => match reader (BitVec.ofNat 32 p.1) with
    | .ok i => i = p.2
    | .error _ => false

/-- Encodings that the spec works out: icmp.eq.z32 p1, v5, vz; imad.i32 v3, v1, s4; shl.i32 v1, vlane, 2; ladd v2, v1, s0; iadd.i32 v4, v4, 1; movi v10, 0xA0; ffma v3, v1, v2; cvt.f32.i32 v5, v4 (R262, R268, R292, R297, R303). -/
theorem test_decode_compute_words : decodesAll decode [(0x260085F8, .icmp ⟨0, 0, 1, 5, 124, 0⟩), (0x0A018109, .imad ⟨0, 3, 1, 4, 1⟩), (0x3200FD02, .shlImm ⟨0, 1, 125, 2⟩),
    (0x2A010101, .ladd ⟨0, 2, 1, 0, 1⟩), (0x36020401, .iaddImm ⟨0, 4, 4, 1⟩), (0x3A0500A0, .movi ⟨0, 10, 160⟩), (0x46018104, .ffma ⟨0, 3, 1, 2, 0⟩),
    (0x8002D208, .cvtFromInteger ⟨0, 5, 10, 2, 4, 0⟩)] = true := by decide +kernel

/-- shfl.xor v6, v3, s5; vote.ballot s6, p2; redux.add.i32 s4, v3; (p1) bra +3; meet v8, +5; calli v20, v6, v10; hint ext 0x186; bar.init [v10], v11 (R307 to R316, R268, R352). -/
theorem test_decode_lane_and_control_words : decodesAll decode [(0x8A03030B, .shflXor ⟨0, 6, 3, 5, 1⟩), (0x90032200, .vote ⟨0, 6, 2, 2⟩), (0x94020300, .redux ⟨0, 4, 3, 0⟩),
    (0xA0400003, .bra ⟨1, 3⟩), (0xAA040005, .meetLabel ⟨0, 8, 5⟩), (0xA60A0614, .calli ⟨0, 20, 6, 10, 0⟩), (0xFF000186, .hintExt 0x186),
    (0xB8058A00, .barInit ⟨0, 11, 10⟩)] = true := by decide +kernel

/-- ld.i32 v4, [v2]; ld.acq.i32 v3, [v2]; ld.i64 v4, [v20 + 16]; st.rel.i32 [v2], v5; lds.i32 v4, [v1]; ldlod.z32 v12, p3, s16; lck v5, [v2]; atom.add.i32 v4, [v2], v1; acas.i32 v4, [v2], v6; red.fadd.f32 [v20], v3; mcst.i32 s24, v4; rdst.add.i32 s24, v4; txb; txc p2; fence.acq.pkg; wait st=0 (R323 to R349). -/
theorem test_decode_memory_words : decodesAll decode [(0xC8020200, .ld32 ⟨0, 4, 2, 0, 0⟩), (0xC8018201, .ld32 ⟨0, 3, 2, 0, 1⟩), (0xCA021408, .ld64 ⟨0, 4, 20, 2, 0⟩),
    (0xD0028202, .st32 ⟨0, 5, 2, 0, 2⟩), (0xD4020100, .lds32 ⟨0, 4, 1, 0, 0⟩), (0xDC064803, .ldlod ⟨0, 12, 4, 16, 0, 3⟩), (0xDE028200, .lck ⟨0, 5, 2⟩),
    (0xE0040840, .atom32 ⟨0, 4, 1, 1, 0, 0⟩), (0xE4040980, .acas ⟨0, 4, 1, 6, 0, 0⟩), (0xE60050E4, .red ⟨0, 0, 10, 3, 9, 0⟩), (0xE8021800, .mcst ⟨0, 4, 24, 0, 0⟩),
    (0xE8021804, .rdst ⟨0, 4, 24, 0, 0, 0⟩), (0xEA000000, .txb ⟨0⟩), (0xEA010003, .txc ⟨0, 2⟩), (0xEC000020, .fence ⟨0, 4, 0⟩), (0xEE00F0FF, .wait ⟨0, 15, 0, 15, 15⟩)] = true := by
  decide +kernel

/-- trav v40, v20, s8; isect v40, v18, s8; trnx v40, v30, s8; rast v50, v20, s8; geosync s6; tex v20, v4, s16; texq v10, v2, s16; csrr s4, FPC; csrw FPC, s4; trapret; smask 0; clock s4; rng v6, v7 (R400 to R423). -/
theorem test_decode_geometry_and_system_words : decodesAll decode [(0xFA141440, .trav ⟨0, 40, 20, 8⟩), (0xFA141242, .isect ⟨0, 40, 18, 8⟩), (0xFA141E41, .trnx ⟨0, 40, 30, 8⟩),
    (0xFA191443, .rast ⟨0, 50, 20, 8⟩), (0xFA000034, .geosync ⟨0, 6⟩), (0xFA0A0485, .tex ⟨0, 20, 4, 16⟩), (0xFA050286, .texq ⟨0, 10, 2, 16⟩), (0xFC020000, .csrr ⟨0, 4, 0⟩),
    (0xFC020001, .csrw ⟨0, 4, 0⟩), (0xFC000002, .trapret ⟨0, 0⟩), (0xFC000003, .smask ⟨0, 0⟩), (0xFC020004, .clock ⟨0, 4⟩), (0xFC030705, .rng ⟨0, 6, 7, 0⟩)] = true := by decide +kernel

/-- team s8; mxbeg 0, 1, s12, s28; mxop and mxop.zero 0, 1, s20, s24, s28; mxfold s16; mxres; mxend; mxdrn.i32 s4, s28; cpy s10, s0, s12; cpy.rel.pkg s24, s20, s16, 1; cpyf 0b0011 (R361 to R391). -/
theorem test_decode_matrix_and_copy_words : decodesAll decode [(0xF4020000, .team 8), (0xF40B01C1, .mxbeg ⟨0, 1, 12, 28⟩), (0xF00D31C0, .mxop ⟨0, 1, 20, 24, 28⟩),
    (0xF00D31C1, .mxopZero ⟨0, 1, 20, 24, 28⟩), (0xF4040003, .mxfold 16), (0xF4000004, .mxres), (0xF4000002, .mxend), (0xF20101C0, .mxdrnI32 4 28),
    (0xF8140620, .cpy ⟨0, 10, 0, 12, 2, 0, 0⟩), (0xF831484A, .cpy ⟨0, 24, 20, 16, 4, 1, 1⟩), (0xF8060021, .cpyf ⟨0, 3, 2, 0⟩)] = true := by decide +kernel

/-- Words that no row gives are refused: a hint of kind 7, a nop with a non-zero field, a vote with bit 11 set, form 7 of the system word, and every major that the map leaves to ILLOP (R269, R275, R276, R308, R322). -/
theorem test_decode_refuses : ([0xFE700000, 0xB6000001, 0x90032A00, 0xFC000007, 0x3D * 2 ^ 25, 0x3E * 2 ^ 25, 0x3F * 2 ^ 25, 0x4C * 2 ^ 25, 0x4D * 2 ^ 25, 0x4E * 2 ^ 25, 0x4F * 2 ^ 25, 0x5D * 2 ^ 25, 0x5E * 2 ^ 25, 0x5F * 2 ^ 25, 0x7B * 2 ^ 25] :
    List Nat).all (fun w => (decode (BitVec.ofNat 32 w)).toOption = none) = true := by decide +kernel

/-- `next 5` and `next v6` (R429). -/
theorem test_decode_next_words : decodesAll decodeVox [(0xA0000005, .next 5), (0xA2000600, .nextVa 6)] = true := by decide +kernel

/-- One word of each row of the table from iadd to isub64, every field filled, at the places that R276 and the table give (R262, R275, R276). -/
theorem test_decode_iadd_to_isub64 : decodesAll decode [
    (0x01E44DA5, .iadd ⟨7, 72, 77, 82, 1⟩), (0x03E44DA5, .isub ⟨7, 72, 77, 82, 1⟩), (0x05E44DA5, .imul ⟨7, 72, 77, 82, 1⟩), (0x07E44DA5, .imulhI ⟨7, 72, 77, 82, 1⟩),
    (0x09E44DA5, .imulhZ ⟨7, 72, 77, 82, 1⟩), (0x0BE44DA5, .imad ⟨7, 72, 77, 82, 1⟩), (0x0DE44DA5, .and ⟨7, 72, 77, 82, 1⟩), (0x0FE44DA5, .or ⟨7, 72, 77, 82, 1⟩),
    (0x11E44DA5, .xor ⟨7, 72, 77, 82, 1⟩), (0x13E44DA5, .shl ⟨7, 72, 77, 82, 1⟩), (0x15E44DA5, .shr ⟨7, 72, 77, 82, 1⟩), (0x17E44DA5, .sar ⟨7, 72, 77, 82, 1⟩),
    (0x19E44DA5, .rol ⟨7, 72, 77, 82, 1⟩), (0x1BE44DA5, .bfe ⟨7, 72, 77, 82, 1⟩), (0x1DE44DA5, .bfi ⟨7, 72, 77, 82, 1⟩), (0x1FE44DA5, .iminI ⟨7, 72, 77, 82, 1⟩),
    (0x21E44DA5, .iminZ ⟨7, 72, 77, 82, 1⟩), (0x23E44DA5, .imaxI ⟨7, 72, 77, 82, 1⟩), (0x25E44DA5, .imaxZ ⟨7, 72, 77, 82, 1⟩), (0x27E2D2AF, .icmp ⟨7, 8, 5, 82, 87, 1⟩),
    (0x29E44DA5, .sel ⟨7, 72, 77, 82, 1⟩), (0x2BE44DA5, .ladd ⟨7, 72, 77, 82, 1⟩), (0x2DE44DA5, .iadd64 ⟨7, 72, 77, 82, 1⟩), (0x2FE44DA5, .isub64 ⟨7, 72, 77, 82, 1⟩)] = true := by decide +kernel

/-- One word of each row of the table from icmp64 to fmin, every field filled, at the places that R276 and the table give (R262, R275, R276). -/
theorem test_decode_icmp64_to_fmin : decodesAll decode [
    (0x31E2D2AF, .icmp64 ⟨7, 8, 5, 82, 87, 1⟩), (0x33E44D12, .shlImm ⟨7, 72, 77, 18⟩), (0x33E44D52, .shrImm ⟨7, 72, 77, 18⟩), (0x33E44D92, .sarImm ⟨7, 72, 77, 18⟩),
    (0x33E44DD2, .rolImm ⟨7, 72, 77, 18⟩), (0x35E44D32, .shlImm64 ⟨7, 72, 77, 50⟩), (0x35E44D72, .shrImm64 ⟨7, 72, 77, 50⟩), (0x35E44DB2, .sarImm64 ⟨7, 72, 77, 50⟩),
    (0x35E44DF2, .rolImm64 ⟨7, 72, 77, 50⟩), (0x37E44D92, .iaddImm ⟨7, 72, 77, 146⟩), (0x39E44D92, .andImm ⟨7, 72, 77, 146⟩), (0x3BE4008D, .movi ⟨7, 72, 141⟩),
    (0x3DE4009B, .mov ⟨7, 72, 77, 1⟩), (0x3DE4019B, .mov64 ⟨7, 72, 77, 1⟩), (0x3DE4029B, .popc ⟨7, 72, 77, 1⟩), (0x3DE4039B, .popc64 ⟨7, 72, 77, 1⟩),
    (0x3DE4049B, .clz ⟨7, 72, 77, 1⟩), (0x3DE4059B, .clz64 ⟨7, 72, 77, 1⟩), (0x3FE44DA5, .imul64 ⟨7, 72, 77, 82, 1⟩), (0x41E44DA5, .fadd ⟨7, 72, 77, 82, 1⟩),
    (0x43E44DA5, .fsub ⟨7, 72, 77, 82, 1⟩), (0x45E44DA5, .fmul ⟨7, 72, 77, 82, 1⟩), (0x47E44DA5, .ffma ⟨7, 72, 77, 82, 1⟩), (0x49E44DA5, .fmin ⟨7, 72, 77, 82, 1⟩)] = true := by decide +kernel

/-- One word of each row of the table from fmax to bfma2, every field filled, at the places that R276 and the table give (R262, R275, R276). -/
theorem test_decode_fmax_to_bfma2 : decodesAll decode [
    (0x4BE44DA5, .fmax ⟨7, 72, 77, 82, 1⟩), (0x4DE2D2AF, .fcmp ⟨7, 8, 5, 82, 87, 1⟩), (0x4FE44DA5, .fdiv ⟨7, 72, 77, 82, 1⟩), (0x51E4009B, .frcp ⟨7, 72, 77, 1⟩),
    (0x53E4009B, .frsq ⟨7, 72, 77, 1⟩), (0x55E4009B, .fsqrt ⟨7, 72, 77, 1⟩), (0x57E4009B, .fex2 ⟨7, 72, 77, 1⟩), (0x59E4009B, .flg2 ⟨7, 72, 77, 1⟩),
    (0x5BE4009B, .fsin ⟨7, 72, 77, 1⟩), (0x5DE4009B, .fcos ⟨7, 72, 77, 1⟩), (0x5FE4009B, .frnd ⟨7, 72, 77, 1⟩), (0x61E44DA5, .dadd ⟨7, 72, 77, 82, 1⟩),
    (0x63E44DA5, .dsub ⟨7, 72, 77, 82, 1⟩), (0x65E44DA5, .dmul ⟨7, 72, 77, 82, 1⟩), (0x67E44DA5, .dffma ⟨7, 72, 77, 82, 1⟩), (0x69E44DA5, .dmin ⟨7, 72, 77, 82, 1⟩),
    (0x6BE44DA5, .dmax ⟨7, 72, 77, 82, 1⟩), (0x6DE2D2AF, .dcmp ⟨7, 8, 5, 82, 87, 1⟩), (0x6FE44DA5, .ddiv ⟨7, 72, 77, 82, 1⟩), (0x71E4009B, .dsqrt ⟨7, 72, 77, 1⟩),
    (0x73E4009B, .drnd ⟨7, 72, 77, 1⟩), (0x75E44DA5, .hadd2 ⟨7, 72, 77, 82, 1⟩), (0x77E44DA5, .hfma2 ⟨7, 72, 77, 82, 1⟩), (0x79E44DA5, .bfma2 ⟨7, 72, 77, 82, 1⟩)] = true := by decide +kernel

/-- One word of each row of the table from cvtFromInteger to nop, every field filled, at the places that R276 and the table give (R262, R275, R276). -/
theorem test_decode_cvtFromInteger_to_nop : decodesAll decode [
    (0x81E46EAF, .cvtFromInteger ⟨7, 72, 13, 6, 87, 1⟩), (0x83E46CAF, .cvtFromFloat ⟨7, 72, 13, 2, 87, 1⟩), (0x85E44DA5, .pack ⟨7, 72, 77, 82, 1⟩), (0x87E44DA5, .unpk ⟨7, 72, 77, 82, 1⟩),
    (0x89E44DA5, .shflIdx ⟨7, 72, 77, 82, 1⟩), (0x8BE44DA5, .shflXor ⟨7, 72, 77, 82, 1⟩), (0x8DE44DA5, .shflUp ⟨7, 72, 77, 82, 1⟩), (0x8FE44DA5, .shflDown ⟨7, 72, 77, 82, 1⟩),
    (0x91E45600, .vote ⟨7, 72, 5, 6⟩), (0x93E44DA5, .bcast ⟨7, 72, 77, 82, 1⟩), (0x95E44DA4, .redux ⟨7, 72, 77, 82⟩), (0x97E44DA4, .scan ⟨7, 72, 77, 82⟩),
    (0xA1E00008, .bra ⟨7, 2097160⟩), (0xA3C04800, .brx ⟨7, 72⟩), (0xA5E4400D, .call ⟨7, 72, 16397⟩), (0xA7E44DA5, .calli ⟨7, 72, 77, 82, 1⟩),
    (0xA9C04800, .ret ⟨7, 72⟩), (0xABE4400D, .meetLabel ⟨7, 72, 16397⟩), (0xADE44D00, .meetRegister ⟨7, 72, 77⟩), (0xAFC00000, .exit ⟨7⟩),
    (0xB1C00000, .yield ⟨7⟩), (0xB3C00008, .bar ⟨7, 8⟩), (0xB5C00004, .barnet ⟨7, 4⟩), (0xB7C00000, .nop ⟨7⟩)] = true := by decide +kernel

/-- One word of each row of the table from barInit to cinvUnl, every field filled, at the places that R276 and the table give (R262, R275, R276). -/
theorem test_decode_barInit_to_cinvUnl : decodesAll decode [
    (0xB9E44D00, .barInit ⟨7, 72, 77⟩), (0xB9FE4801, .barArrive ⟨7, 72⟩), (0xB9E44D02, .barWait ⟨7, 72, 77⟩), (0xB9FE4803, .barSync ⟨7, 72⟩),
    (0xC1E44DCB, .ldZ8 ⟨7, 72, 77, 50, 3⟩), (0xC3E44DCB, .ldI8 ⟨7, 72, 77, 50, 3⟩), (0xC5E44DCB, .ldZ16 ⟨7, 72, 77, 50, 3⟩), (0xC7E44DCB, .ldI16 ⟨7, 72, 77, 50, 3⟩),
    (0xC9E44DCB, .ld32 ⟨7, 72, 77, 50, 3⟩), (0xCBE44DCB, .ld64 ⟨7, 72, 77, 50, 3⟩), (0xCDE44DCB, .st8 ⟨7, 72, 77, 50, 3⟩), (0xCFE44DCB, .st16 ⟨7, 72, 77, 50, 3⟩),
    (0xD1E44DCB, .st32 ⟨7, 72, 77, 50, 3⟩), (0xD3E44DCB, .st64 ⟨7, 72, 77, 50, 3⟩), (0xD5E44DCB, .lds32 ⟨7, 72, 77, 50, 3⟩), (0xD7E44DCB, .lds64 ⟨7, 72, 77, 50, 3⟩),
    (0xD9E44DCB, .sts32 ⟨7, 72, 77, 50, 3⟩), (0xDBE44DCB, .sts64 ⟨7, 72, 77, 50, 3⟩), (0xDDE4597C, .ldlod ⟨7, 72, 5, 18, 15, 4⟩), (0xDFE44D00, .lck ⟨7, 72, 77⟩),
    (0xDFE44D04, .ulk ⟨7, 72, 77⟩), (0xDFC04808, .pref ⟨7, 72⟩), (0xDFC0480C, .cinvLine ⟨7, 72⟩), (0xDFC04810, .cinvUnl ⟨7, 72⟩)] = true := by decide +kernel

/-- One word of each row of the table from cinvAll to mxend, every field filled, at the places that R276 and the table give (R262, R275, R276). -/
theorem test_decode_cinvAll_to_mxend : decodesAll decode [
    (0xDFC00014, .cinvAll ⟨7⟩), (0xDFC04818, .cinvIline ⟨7, 72⟩), (0xDFC0001C, .cinvIall ⟨7⟩), (0xE1E8ECBE, .atom32 ⟨7, 40, 29, 18, 15, 2⟩),
    (0xE3E8ECBE, .atom64 ⟨7, 40, 29, 18, 15, 2⟩), (0xE5E8ECBE, .acas ⟨7, 40, 29, 18, 15, 2⟩), (0xE7C1ECBE, .red ⟨7, 1, 29, 18, 15, 2⟩), (0xE9E44D0B, .mcst ⟨7, 72, 77, 1, 3⟩),
    (0xE9E44DAE, .rdst ⟨7, 72, 77, 10, 1, 2⟩), (0xEBC00000, .txb ⟨7⟩), (0xEBE44D01, .txld ⟨7, 72, 77⟩), (0xEBE44D02, .txst ⟨7, 72, 77⟩),
    (0xEBC20003, .txc ⟨7, 4⟩), (0xEBC00004, .txa ⟨7⟩), (0xEDC00023, .fence ⟨7, 4, 3⟩), (0xEFC08DAF, .wait ⟨7, 8, 13, 10, 15⟩),
    (0xF1E76570, .mxop ⟨7, 4, 29, 18, 23⟩), (0xF1E76571, .mxopZero ⟨7, 4, 29, 18, 23⟩), (0xF204C180, .mxdrnI32 19 24), (0xF204C181, .mxdrnI64 19 24),
    (0xF204C182, .mxdrnF32 19 24), (0xF404C000, .team 19), (0xF5E74121, .mxbeg ⟨7, 4, 29, 18⟩), (0xF4000002, .mxend)] = true := by decide +kernel

/-- One word of each row of the table from mxfold to hintNb, every field filled, at the places that R276 and the table give (R262, R275, R276). -/
theorem test_decode_mxfold_to_hintNb : decodesAll decode [
    (0xF404C003, .mxfold 19), (0xF4000004, .mxres), (0xF9F1D97E, .cpy ⟨7, 24, 29, 18, 7, 1, 3⟩), (0xF9D00059, .cpyf ⟨7, 8, 5, 1⟩),
    (0xFBE44D90, .trav ⟨7, 72, 77, 18⟩), (0xFBE44D91, .trnx ⟨7, 72, 77, 18⟩), (0xFBE44D92, .isect ⟨7, 72, 77, 18⟩), (0xFBE44D93, .rast ⟨7, 72, 77, 18⟩),
    (0xFBC000C4, .geosync ⟨7, 24⟩), (0xFBE44D95, .tex ⟨7, 72, 77, 18⟩), (0xFBE44D96, .texq ⟨7, 72, 77, 18⟩), (0xFDE44068, .csrr ⟨7, 72, 2061⟩),
    (0xFDE44069, .csrw ⟨7, 72, 2061⟩), (0xFDC0000A, .trapret ⟨7, 1⟩), (0xFDC0000B, .smask ⟨7, 1⟩), (0xFDE40004, .clock ⟨7, 72⟩),
    (0xFDE44D0D, .rng ⟨7, 72, 77, 1⟩), (0xFF800003, .hintExt 8388611), (0xFE00000B, .hintStall 11), (0xFE100000, .hintNeg),
    (0xFE200003, .hintRnd 3), (0xFE300001, .hintSat 1), (0xFE400003, .hintCache 1 1), (0xFE500000, .hintNb)] = true := by decide +kernel

/-- One word of each row of the table from hintDtree to hintDtree, every field filled, at the places that R276 and the table give (R262, R275, R276). -/
theorem test_decode_hintDtree_to_hintDtree : decodesAll decode [
    (0xFE600000, .hintDtree)] = true := by decide +kernel

/-- The Voxunet readings of the words of bra and brx (R429). -/
theorem test_decode_next : decodesAll decodeVox [(0xA0200003, .next 2097155), (0xA2004300, .nextVa 67)] = true := by decide +kernel
/-! ### Well-formedness -/

/-- Operand codes that R278 and the words' own rules do not list, one for each check. -/
theorem test_illformed_codes : ([.icmp ⟨0, 10, 1, 2, 3, 0⟩, .icmp64 ⟨0, 10, 1, 2, 4, 0⟩, .fcmp ⟨0, 8, 1, 2, 3, 0⟩, .dcmp ⟨0, 8, 1, 2, 4, 0⟩, .cvtFromInteger ⟨0, 1, 12, 2, 3, 0⟩,
    .cvtFromFloat ⟨0, 1, 12, 2, 3, 0⟩, .unpk ⟨0, 2, 4, 3, 0⟩, .vote ⟨0, 1, 3, 2⟩, .redux ⟨0, 1, 2, 11⟩, .scan ⟨0, 1, 2, 11⟩, .barnet ⟨0, 1⟩, .barnet ⟨0, 6⟩, .ld32 ⟨0, 1, 2, 0, 2⟩,
    .st32 ⟨0, 1, 2, 0, 1⟩, .lds32 ⟨0, 1, 2, 0, 2⟩, .sts32 ⟨0, 1, 2, 0, 1⟩, .ldlod ⟨0, 12, 5, 16, 0, 3⟩, .ldlod ⟨0, 110, 4, 16, 0, 3⟩, .atom32 ⟨0, 4, 1, 1, 10, 0⟩] : List Instr).all
    (fun i => !i.WellFormed) = true := by decide +kernel

/-- As above, for the atomics, the fences, the engines' words and the system words. -/
theorem test_illformed_engine_codes : ([.atom64 ⟨0, 4, 1, 2, 9, 0⟩, .acas ⟨0, 4, 1, 6, 2, 0⟩, .red ⟨0, 0, 1, 3, 8, 0⟩, .red ⟨0, 1, 1, 4, 9, 0⟩, .red ⟨0, 0, 1, 3, 0, 1⟩, .mcst ⟨0, 4, 24, 0, 1⟩,
    .rdst ⟨0, 4, 24, 8, 0, 0⟩, .rdst ⟨0, 4, 24, 0, 0, 1⟩, .fence ⟨0, 7, 0⟩, .mxbeg ⟨0, 1, 30, 28⟩, .mxop ⟨0, 1, 30, 24, 28⟩, .mxopZero ⟨0, 1, 20, 30, 28⟩, .mxdrnI32 30 28,
    .mxdrnI64 30 28, .mxdrnF32 30 28, .mxfold 31, .team 9, .cpy ⟨0, 10, 0, 12, 1, 0, 0⟩, .cpy ⟨0, 10, 0, 12, 7, 0, 0⟩, .cpy ⟨0, 10, 0, 13, 2, 0, 0⟩, .cpyf ⟨0, 0, 2, 0⟩, .cpyf ⟨0, 3, 1, 0⟩,
    .trav ⟨0, 40, 20, 9⟩, .rng ⟨0, 6, 6, 0⟩, .rng ⟨0, 6, 124, 0⟩, .csrr ⟨0, 4, 0x07F⟩, .csrw ⟨0, 4, 0x07F⟩, .hintStall 0] : List Instr).all (fun i => !i.WellFormed) = true := by
  decide +kernel

/-- Registers that no operand of the class may name: a scalar pair that is odd, a scalar destination that is an identity register or no register, a vector number past vimm, vimm or vlane as a destination, an odd pair, a pair past v111, a port where a load's data or a cross-lane source stands, vz where a range of registers is needed (R263, R264, R266, R306, R323). -/
theorem test_illformed_registers : ([.clock ⟨0, 5⟩, .clock ⟨0, 96⟩, .vote ⟨0, 96, 0, 1⟩, .vote ⟨0, 125, 0, 1⟩, .iadd ⟨0, 1, 127, 3, 0⟩, .iadd ⟨0, 126, 2, 3, 0⟩, .iadd ⟨0, 125, 2, 3, 0⟩, .iadd ⟨0, 1, 2, 112, 1⟩,
    .iadd64 ⟨0, 3, 2, 4, 0⟩, .iadd64 ⟨0, 2, 112, 4, 0⟩, .iadd64 ⟨0, 2, 4, 111, 1⟩, .ld32 ⟨0, 112, 2, 0, 0⟩, .shflIdx ⟨0, 1, 112, 3, 0⟩, .trav ⟨0, 40, 124, 8⟩] : List Instr).map
    (fun i => i.WellFormed) = [false, false, false, false, false, false, false, true, false, false, false, false, false, false] := by decide +kernel

/-- A launch with fewer registers allows fewer: v32 is illegal where REGS is 32 (R168, R263). -/
theorem test_register_past_allocation : (Instr.legal 32 (.iadd ⟨0, 32, 1, 2, 0⟩), Instr.legal 33 (.iadd ⟨0, 32, 1, 2, 0⟩)) = (false, true) := by decide +kernel

/-! ### Witnesses: states and operands that meet the hypotheses of the statements -/

/-- A state in which wave 1 is to issue the word of `i`, at 0x1000, all lanes ACTIVE where its guard is p0. -/
def ready (i : Instr) : State := { State.reset.placeWord ((encode i).getD 0) with issuer := 1 }

/-- The word issues from the state, and what its meaning is given passes a check. -/
def issuesWith (s : State) (i : Instr) (p : Ctx → State → Bool) : Bool := match s.front i with
  | .run c t => p c t
  | _ => false

/-- What a check by `issuesWith` shows. -/
theorem issuesWith_spec {i : Instr} {s : State} {p : Ctx → State → Bool} (h : issuesWith s i p = true) : ∃ c t, Issues i s c t ∧ p c t = true := by
  unfold issuesWith at h
  split at h
  · rename_i c t hf; exact ⟨c, t, hf, h⟩
  · exact absurd h (by simp)

/-- The word issues, with ACTIVE lanes and without a sat hint. -/
def runs (i : Instr) : Bool := issuesWith (ready i) i fun c _ => decide (c.act ≠ 0 ∧ c.hints.sat = none)


/-- The state in which wave 1 has issued a hint word and its next word stands at 0x1000. -/
def hinted (h : Instr) (s : State) : State := s.modWave 1 fun w => { w with hints := [(encode h).getD 0], hintPc := 0xFFC, hintLanes := BitVec.allOnes 32 }

/-- The state in which wave 1 has privilege. -/
def asHandler (s : State) : State := s.modWave 1 fun w => w.setTstat false true false

/-- The state in which wave 1 runs the first segment of a Voxunet launch with virtual waves of eight lanes. -/
def inSegment (s : State) : State :=
  ({ s with grids := s.grids.map fun g => { g with vox := some ⟨0, 8, [⟨[], 3, 96, false⟩]⟩ } } : State).modWave 1 fun w => { w with pc := SMap.cells 0 (List.replicate 32 (nativeEntry 0)) }
/-- HardwiredRegisters: a context outside Voxunet, and the last lane. MemoryReadsBack: reset memory is canonical, which `witness_canonical` shows. -/
theorem witness_hardwired : issuesWith (ready (.nop ⟨0⟩)) (.nop ⟨0⟩) (fun c _ => c.gr.vox.isNone && decide (31 < 32)) = true := by decide +kernel


/-- The placed wave with a second one, wave 2, on its partition. -/
def sharing (s : State) : State := { s with waves := s.waves ++ s.waves.map fun w => { w with id := 2, index := 4, slot := 1 } }

/-- StepRunsFetchedInstruction: the turn of wave 1, which fetches a nop, in the present cycle and in the next; the turn of a wave that another ready wave comes before. -/
theorem witness_step :
    ([(ready (.nop ⟨0⟩), 1, true), ({ ready (.nop ⟨0⟩) with issued := [(0, 1)] }, 1, true), (sharing (ready (.nop ⟨0⟩)), 2, false)] : List (State × Nat × Bool)).all (fun e =>
      match e.1.wave? e.2.1 with
      | none => false
      | some w => (e.1.slotFor w).isChoice w = e.2.2 && match e.1.fetchNext w.id with | .instr i _ => i = .nop ⟨0⟩ | _ => false) = true := by decide +kernel

/-- FetchDecodesBytesAtPc: with nothing cached, and, after that fetch, with the line in the instruction cache. -/
theorem witness_fetch : (match (ready (.nop ⟨0⟩)).wave? 1, (ready (.nop ⟨0⟩)).translate 0 1 0x1000 needFetch false 0, (ready (.nop ⟨0⟩)).fetchNext 1 with
    | some w, (.ok tr, s1), .instr _ t => (match (ready (.nop ⟨0⟩)).home? w with
      | some (ga, gr) => (ready (.nop ⟨0⟩)).canIssue w ga && w.nextGroup = some (0x1000, BitVec.allOnes 32) && gr.vox.isNone && findLine (ready (.nop ⟨0⟩)).caches.l1i w.core gr.asid (0x1000 / 64) false = none &&
          decodeBytes (lineBytes (s1.lineHome gr.asid tr.pa tr.leaf).1 (0x1000 % 64) 4) = some (.nop ⟨0⟩) &&
          (match findLine t.caches.l1i w.core gr.asid (0x1000 / 64) false with
            | some l => !l.pv && decodeBytes (lineBytes l.data (0x1000 % 64) 4) = some (.nop ⟨0⟩)
            | none => false)
      | none => false)
    | _, _, _ => false) = true := by decide +kernel

/-- EncodingRoundTrips: a native word and a Voxunet reading. -/
theorem witness_encoding : (Instr.WellFormed (.iadd ⟨7, 111, 111, 95, 1⟩) = true ∧ encode (.iadd ⟨7, 111, 111, 95, 1⟩) = some 0x01F7EFBF) ∧ Instr.WellFormed (.next 5) = true ∧ encode (.next 5) = some 0xA0000005 ∧
    (decode 0xFA141440).toOption = some (.trav ⟨0, 40, 20, 8⟩) := by decide +kernel

/-- StepKeepsMemoryCanonical: the state after reset is canonical and steps. -/
theorem witness_canonical : State.reset.Canonical ∧ (match step State.reset with | .next _ => true | _ => false) = true := by
  unfold State.Canonical; decide +kernel

/-- WalkPermits: a fetch at 0x1000 of context 1. -/
theorem witness_walk : (match walk (ready (.nop ⟨0⟩)) 1 0x1000 needFetch false with | .ok _ => true | .error _ => false) = true := by decide +kernel

/-- WordIssues: a nop, a load whose counter has room, a load without ACTIVE lanes. -/
theorem witness_issues : ([.nop ⟨0⟩, .ld32 ⟨0, 4, 2, 0, 0⟩, .ld32 ⟨1, 4, 2, 0, 0⟩] : List Instr).all (fun i => (match (ready i).wave? 1 with
    | some w => (match (ready i).home? w, w.nextGroup with
      | some (ga, gr), some (pc, lanes) => (ready i).canIssue w ga && ((ready i).ctx gr.asid).fetchMatches w pc = [] && !illegalWord i (Ctx.ofIssue i w ga gr pc lanes) &&
          !(ready i).holds i (Ctx.ofIssue i w ga gr pc lanes) && (i.counter = 0 || (Ctx.ofIssue i w ga gr pc lanes).act = 0 || w.counter i.counter ≠ 63) && portUses i = [] && w.waiting.isNone
      | _, _ => false)
    | none => false)) = true := by decide +kernel

/-- PortWordIssues: a push to a binning queue with room issues; a pop from an empty FIFO waits, or, under the non-blocking hint, issues for no lane; a FIFO whose descriptor is unmapped. -/
theorem witness_ports : (match (ready (.nop ⟨0⟩)).wave? 1 with
    | some w => (match (ready (.nop ⟨0⟩)).home? w with
      | some (ga, gr) =>
        let push : Instr := .iadd ⟨1, 112, 1, 2, 0⟩
        let pop : Instr := .iadd ⟨0, 1, 2, 112, 1⟩
        let c (kind : Nat) (nb : Bool) : Ctx := { Ctx.ofIssue pop w ga { gr with ports := [(kind, 0x1100)] } 0x1000 (BitVec.allOnes 32) with hints := { Hints.none with nb } }
        let s := ready (.nop ⟨0⟩)
        s.servable (c 2 false).gr (portUses push) 32 = 32 && s.writesDone 1 0 4 && s.readsBack 1 && s.servable (c 1 false).gr (portUses pop) 32 = 0 &&
          (portUses pop).find? (fun u => !s.serves (c 1 false).gr (portUses pop) 32 u) = some ⟨112, true, true, 1⟩ && s.unmappedPort (c 1 false).gr (portUses pop) 32 = none &&
          (c 1 true).hints.nb && laneCount (c 1 true).act = 32 && !gr.det && (c 1 true).act ≠ 0 && (s.unmappedPort { gr with ports := [(1, 0x200000)] } (portUses pop) 32).isSome
      | none => false)
    | none => false) = true := by decide +kernel

/-- IllegalWordTraps: a sum whose destination is vlane; a word that no instruction encodes. -/
theorem witness_illegal : (match (ready (.iadd ⟨0, 125, 2, 3, 0⟩)).wave? 1 with
    | some w => (match (ready (.iadd ⟨0, 125, 2, 3, 0⟩)).home? w, w.nextGroup with
      | some (ga, gr), some (pc, lanes) => (ready (.iadd ⟨0, 125, 2, 3, 0⟩)).canIssue w ga && ((ready (.iadd ⟨0, 125, 2, 3, 0⟩)).ctx gr.asid).fetchMatches w pc = [] &&
          illegalWord (.iadd ⟨0, 125, 2, 3, 0⟩) (Ctx.ofIssue (.iadd ⟨0, 125, 2, 3, 0⟩) w ga gr pc lanes)
      | _, _ => false)
    | none => false) = true ∧
    (match (State.reset.placeWord 0xFE700000#32).wave? 1 with
    | some w => (match (State.reset.placeWord 0xFE700000#32).home? w, w.nextGroup with
      | some (ga, gr), some (pc, _) => (State.reset.placeWord 0xFE700000#32).canIssue w ga && (match (State.reset.placeWord 0xFE700000#32).fetchWord w gr pc.toNat with
        | (.ok x, s1) => x = 0xFE700000#32 && (gr.decode pc x).toOption = none && (s1.ctx gr.asid).fetchMatches w pc = []
        | _ => false)
      | _, _ => false)
    | none => false) = true := by decide +kernel

/-- IntegerWordsCompute, ShiftsShift, FieldAndMoveWordsCompute, LaddAddsOffset, ComparesSetPredicates: each word issues. -/
theorem witness_integer_words : ([.iadd ⟨0, 1, 2, 3, 0⟩, .isub ⟨0, 1, 2, 3, 0⟩, .imul ⟨0, 1, 2, 3, 0⟩, .imad ⟨0, 1, 2, 3, 0⟩, .imulhI ⟨0, 1, 2, 3, 0⟩, .imulhZ ⟨0, 1, 2, 3, 0⟩, .and ⟨0, 1, 2, 3, 0⟩,
    .or ⟨0, 1, 2, 3, 0⟩, .xor ⟨0, 1, 2, 3, 0⟩, .iminI ⟨0, 1, 2, 3, 0⟩, .iminZ ⟨0, 1, 2, 3, 0⟩, .imaxI ⟨0, 1, 2, 3, 0⟩, .imaxZ ⟨0, 1, 2, 3, 0⟩, .iadd64 ⟨0, 2, 4, 6, 0⟩, .isub64 ⟨0, 2, 4, 6, 0⟩,
    .imul64 ⟨0, 2, 4, 6, 0⟩, .shl ⟨0, 1, 2, 3, 0⟩, .shr ⟨0, 1, 2, 3, 0⟩, .sar ⟨0, 1, 2, 3, 0⟩, .rol ⟨0, 1, 2, 3, 0⟩, .shlImm ⟨0, 1, 2, 31⟩, .shrImm ⟨0, 1, 2, 31⟩, .sarImm ⟨0, 1, 2, 31⟩,
    .rolImm ⟨0, 1, 2, 31⟩, .shlImm64 ⟨0, 2, 4, 63⟩, .shrImm64 ⟨0, 2, 4, 63⟩, .sarImm64 ⟨0, 2, 4, 63⟩, .rolImm64 ⟨0, 2, 4, 63⟩, .bfe ⟨0, 1, 2, 3, 0⟩, .bfi ⟨0, 1, 2, 3, 0⟩, .iaddImm ⟨0, 1, 2, 255⟩,
    .andImm ⟨0, 1, 2, 255⟩, .movi ⟨0, 1, 255⟩, .mov ⟨0, 1, 2, 0⟩, .mov64 ⟨0, 2, 4, 0⟩, .popc ⟨0, 1, 2, 0⟩, .popc64 ⟨0, 1, 2, 0⟩, .clz ⟨0, 1, 2, 0⟩, .clz64 ⟨0, 1, 2, 0⟩, .ladd ⟨0, 2, 1, 4, 0⟩,
    .icmp ⟨0, 9, 1, 2, 3, 0⟩, .icmp64 ⟨0, 9, 1, 2, 4, 0⟩, .fcmp ⟨0, 7, 1, 2, 3, 0⟩, .dcmp ⟨0, 7, 1, 2, 4, 0⟩, .sel ⟨1, 1, 2, 3, 0⟩] : List Instr).all runs = true := by decide +kernel

/-- The words that take a sat hint issue under each of its payloads. -/
theorem witness_saturating_words : ([.iadd ⟨0, 1, 2, 3, 0⟩, .isub ⟨0, 1, 2, 3, 0⟩, .imul ⟨0, 1, 2, 3, 0⟩, .imad ⟨0, 1, 2, 3, 0⟩, .iadd64 ⟨0, 2, 4, 6, 0⟩, .isub64 ⟨0, 2, 4, 6, 0⟩, .imul64 ⟨0, 2, 4, 6, 0⟩,
    .iaddImm ⟨0, 1, 2, 255⟩, .pack ⟨0, 1, 2, 3, 0⟩] : List Instr).all (fun i => ([0, 1] : List (BitVec 1)).all fun p => issuesWith (hinted (.hintSat p) (ready i)) i fun c _ => c.hints.sat = some p) = true := by
  decide +kernel

/-- FloatWordsCompute, ConversionsConvert: each word issues; conversions to 32 and to 64 bits; unpk to vz and to the last registers. -/
theorem witness_float_words : ([.fadd ⟨0, 1, 2, 3, 0⟩, .fsub ⟨0, 1, 2, 3, 0⟩, .fmul ⟨0, 1, 2, 3, 0⟩, .ffma ⟨0, 1, 2, 3, 0⟩, .fmin ⟨0, 1, 2, 3, 0⟩, .fmax ⟨0, 1, 2, 3, 0⟩, .fdiv ⟨0, 1, 2, 3, 0⟩,
    .hadd2 ⟨0, 1, 2, 3, 0⟩, .hfma2 ⟨0, 1, 2, 3, 0⟩, .bfma2 ⟨0, 1, 2, 3, 0⟩, .frcp ⟨0, 1, 2, 0⟩, .frsq ⟨0, 1, 2, 0⟩, .fsqrt ⟨0, 1, 2, 0⟩, .fex2 ⟨0, 1, 2, 0⟩, .flg2 ⟨0, 1, 2, 0⟩, .fsin ⟨0, 1, 2, 0⟩,
    .fcos ⟨0, 1, 2, 0⟩, .frnd ⟨0, 1, 2, 0⟩, .dadd ⟨0, 2, 4, 6, 0⟩, .dsub ⟨0, 2, 4, 6, 0⟩, .dmul ⟨0, 2, 4, 6, 0⟩, .dffma ⟨0, 2, 4, 6, 0⟩, .dmin ⟨0, 2, 4, 6, 0⟩, .dmax ⟨0, 2, 4, 6, 0⟩,
    .ddiv ⟨0, 2, 4, 6, 0⟩, .dsqrt ⟨0, 2, 4, 0⟩, .drnd ⟨0, 2, 4, 0⟩, .cvtFromInteger ⟨0, 2, 11, 2, 4, 0⟩, .cvtFromInteger ⟨0, 2, 10, 2, 4, 0⟩, .cvtFromFloat ⟨0, 2, 3, 2, 4, 0⟩,
    .cvtFromFloat ⟨0, 2, 2, 3, 4, 0⟩, .pack ⟨0, 1, 2, 3, 0⟩, .unpk ⟨0, 124, 0, 3, 0⟩, .unpk ⟨0, 110, 1, 3, 0⟩, .unpk ⟨0, 108, 3, 3, 0⟩] : List Instr).all runs = true := by decide +kernel

/-- FloatsRoundOnce: in every format, as operands that no flush changes, the least normal number and its negative, zero, both infinities and the canonical NaN; the integer widths; division that DIVSQ does not take. -/
theorem witness_rounding : FFmt.all.all (fun f => let n := 2 ^ f.fbits
    ([n, n + 2 ^ f.top, 0, f.inf false, f.inf true, f.nan] : List Nat).all (fun x => x < 2 ^ (f.top + 1) && Fpc.plain.input f x = x) && f.exp n ≠ 2 ^ f.ebits - 1 && decide (0 < f.real n) && decide (f.real (n + 2 ^ f.top) < 0) &&
      decide (f.real 0 = 0) && f.exp 0 ≠ 2 ^ f.ebits - 1 && f.exp (f.inf false) = 2 ^ f.ebits - 1 && !f.isNan (f.inf false) && !f.isNan (f.inf true) && f.neg (f.inf true) && !f.neg (f.inf false) && f.isNan f.nan) = true ∧
    (64 ∈ [8, 16, 32, 64] ∧ (3 : RMode) ≤ 3 ∧ Fpc.plain.divsq = false) := by decide +kernel

/-- ShufflesExchange, LaneWordsCombine: the words issue in a native program, and in a segment with the vector registers of the first and the last uniform register as destination. -/
theorem witness_lane_words : ([.shflIdx ⟨0, 1, 2, 3, 0⟩, .shflXor ⟨0, 1, 2, 3, 0⟩, .shflUp ⟨0, 1, 2, 3, 0⟩, .shflDown ⟨0, 1, 2, 3, 0⟩, .vote ⟨0, 1, 0, 2⟩, .vote ⟨0, 1, 1, 2⟩, .vote ⟨0, 1, 2, 2⟩,
      .bcast ⟨0, 1, 2, 3, 0⟩, .redux ⟨0, 1, 2, 10⟩, .scan ⟨0, 1, 2, 10⟩] : List Instr).all (fun i => issuesWith (ready i) i fun c _ => c.act ≠ 0 && !c.vox) = true ∧
    ([.shflIdx ⟨0, 1, 2, 3, 0⟩, .vote ⟨0, 98, 0, 2⟩, .vote ⟨0, 105, 1, 2⟩, .vote ⟨0, 105, 2, 2⟩, .bcast ⟨0, 98, 2, 3, 0⟩, .bcast ⟨0, 105, 2, 3, 0⟩, .redux ⟨0, 98, 2, 0⟩, .redux ⟨0, 105, 2, 10⟩] : List Instr).all
      (fun i => issuesWith (inSegment (ready i)) i fun c _ => c.act ≠ 0 && c.vox && c.vregs = 96 && 32 % c.width = 0 && c.width = 8) = true := by decide +kernel

/-- ControlTransfers, MeetWordsSetMeet, and a calli whose lane 31 alone exceeds the budget of 112. -/
theorem witness_control_words : ([.bra ⟨0, 0x3FFFFF⟩, .brx ⟨0, 2⟩, .ret ⟨0, 2⟩, .call ⟨0, 4, 5⟩, .calli ⟨0, 20, 6, 10, 0⟩, .meetLabel ⟨0, 8, 5⟩, .meetRegister ⟨0, 8, 4⟩, .nop ⟨0⟩] : List Instr).all runs = true ∧
    issuesWith ((ready (.calli ⟨0, 20, 6, 10, 0⟩)).modWave 1 fun w => w.setV 31 10 113) (.calli ⟨0, 20, 6, 10, 0⟩) (fun c _ => c.gr.regs = 112 &&
      (List.range 32).all fun l => (c.act.getLsbD l && decide (c.gr.regs < (c.b ⟨0, 20, 6, 10, 0⟩ l).toNat)) = decide (l = 31)) = true := by decide +kernel

/-- ExitAndYieldLeave: exit; a wave with lanes left; yield of an expired gang, of one that is not, and of no lane; yield at a segment's end with a successor that is a segment and one that is none; next and next.va. -/
theorem witness_exit_and_yield :
    issuesWith (ready (.exit ⟨0⟩)) (.exit ⟨0⟩) (fun c t => (match t.wave? c.w.id with | some x => x.ended ||| 1 ≠ BitVec.allOnes 32 | none => false)) = true ∧
    issuesWith { ready (.yield ⟨0⟩) with gangs := (ready (.yield ⟨0⟩)).gangs.map fun g => { g with expired := some 0 } } (.yield ⟨0⟩)
      (fun c t => c.gr.vox.isNone && c.act ≠ 0 && !c.w.tm && (t.gang? c.ga.id).any fun g => g.expired.isSome || t.headNeeds g.id) = true ∧
    issuesWith (ready (.yield ⟨0⟩)) (.yield ⟨0⟩) (fun c t => c.gr.vox.isNone && !((t.gang? c.ga.id).any fun g => g.expired.isSome || t.headNeeds g.id)) = true ∧
    issuesWith (ready (.yield ⟨1⟩)) (.yield ⟨1⟩) (fun c _ => c.act = 0) = true ∧
    issuesWith (inSegment (ready (.yield ⟨0⟩))) (.yield ⟨0⟩) (fun c _ => c.vox && (List.range 32).all fun l => (c.w.getV l c.vregs).toNat < 1) = true ∧
    issuesWith ((inSegment (ready (.yield ⟨0⟩))).modWave 1 fun w => w.setV 31 96 1) (.yield ⟨0⟩) (fun c _ => c.vox && c.act.getLsbD 31 && 1 ≤ (c.w.getV 31 c.vregs).toNat) = true ∧
    issuesWith (inSegment (ready (.nop ⟨0⟩))) (.next 5) (fun c _ => c.act ≠ 0) = true ∧ issuesWith (inSegment (ready (.nop ⟨0⟩))) (.nextVa 6) (fun c _ => c.act ≠ 0) = true := by decide +kernel

/-- The state with a number added to its launch's record, modulo 2^2048. -/
def withRecord (x : Nat) (s : State) : State := { s with grids := s.grids.map fun g => { g with record := g.record + BitVec.ofNat 2048 x } }

/-- The state with a second wave, wave 2, in the workgroup, at the same place. -/
def paired (s : State) : State := { s with waves := s.waves ++ s.waves.map fun w => { w with id := 2, index := 1, slot := 1 } }

/-- The state in which the first line of gang-local memory is a barrier line. -/
def tagged (s : State) : State := { s with gangs := s.gangs.map fun g => { g with tags := [0] } }

/-- The state in which lane 31 alone has not ended. -/
def oneLane (s : State) : State := s.modWave 1 fun w => { w with ended := ~~~laneBit 31 }

/-- The state with one resource, whose entry at 0x1100 is `e`. -/
def withEntry (e : Nat) (s : State) : State := (withRecord (0x1100 * 2 ^ 64 + 2 ^ 224) s).putNat 0x60100 64 e

/-- The state in which lane 31 is to commit a word it has read at 0x1100 and one to be written at 0x1108. -/
def committing : State := (ready (.nop ⟨0⟩)).modWave 1 fun w => { w with
  txTodo := laneBit 31, txDone := laneBit 31, txPred := some 2, txId := 1, txSet := [⟨31, 0x60100, 0x1100, 0x6002F, 0, 0, false⟩, ⟨31, 0x60108, 0x1108, 0x6002F, 0, 7, true⟩] }

/-- The state whose context has its vector table at 0x1100 and its trap records at 0x0, on the page 0x70000, and in which lane 31 alone has not ended. -/
def handling : State := oneLane <| (({ ready (.nop ⟨0⟩) with mem := (ready (.nop ⟨0⟩)).mem.setRange 0x50000 (bytesOfNat 8 0x7002F) } : State).putNat 0x60100 8 0x1200).modCtx 1 fun c => { c with tvbase := 0x1100 }

/-- The state after an instruction or a step, where it is a next state. -/
def after (i : Instr) (s : State) : State := match exec i s with
  | .next t => t
  | _ => s

/-- The state after a word of wave 1 whose lane 31 alone lives, with 0x1100 in the pairs v2:v3 and v20:v21 of every lane. -/
def issued (i : Instr) : State := after i (oneLane ((ready i).modWave 1 fun w => (w.setVs (BitVec.allOnes 32) 2 fun _ => 0x1100).setVs (BitVec.allOnes 32) 20 fun _ => 0x1100))

/-- As above, once the access in flight is translated. -/
def translated (i : Instr) : State := after (.walkComplete 2 (laneBit 31) 0) (issued i)

/-- The lane 31 of the first access in flight, with its access, wave, gang and launch, passes a check. -/
def lane31 (s : State) (p : Access → Wave → Gang → Grid → AccLane → Bool) : Bool := match s.flights with
  | a :: _ => (match s.wave? a.wave, a.laneAt 31 0 with
    | some w, some l => (match s.home? w with
      | some (ga, gr) => s.flight? a.id = some a && s.isResident w.gang && p a w ga gr l
      | none => false)
    | _, _ => false)
  | [] => false

/-- Two waves of a team, both held in the latch on a word. -/
def latched (i : Instr) : State :=
  let s := paired (ready i)
  { s with waves := s.waves.map fun w => { w with team := 0x8001 + BitVec.ofNat 64 (8 * w.index), wake := wakeOf 7 0, waiting := some i } }

/-- Two waves that both wait on team for the team of both. -/
def asking : State := { latched (.team 8) with waves := (latched (.team 8)).waves.map fun w => w.setS 8 0x8001 }

/-- A tile of the team of waves 0 and 1 of gang 1, with depth 32. -/
def aTile : Tile :=
  { id := 5, gang := 1, team := 0x8001, quad := 0, n := 16, depth := 32, gask := 1, trap := false, scaled := false, slotA := 0, slotB := 0, granules := 1, aux := 0, scaleA := none, scaleB := none,
    cells := [], entries := [], passes := 0, foldedAt := 0, peA := 0, peB := 0, folds := 0, frozen := none }

/-- The state with that tile open. -/
def tiled (s : State) : State := s.modMatrix fun m => { m with tiles := [aTile] }

/-- An entry of a reservation table for that tile. -/
def anEntry (i : Instr) : MxEntry :=
  { quad := 0, gang := 1, team := 0x8001, tile := 5, cls := 0, order := 0, instr := i, word := 0, pcs := [], privileged := false, regs := [0, 0, 0], after := [], pages := [], scales := [none, none] }

/-- A queue of one command of wave 1: 64 bytes from 0x1100 to gang-local offset 0. -/
def aCopy : Copy :=
  { id := 9, wave := 1, gang := 1, queue := 0, asid := 1, word := 0, pc := 0x1000, active := 1, privileged := false, fence := none, dst := [0, 0, 0, 0], src := [0x1100, 0], count := 64, ctrl := 0, fmt := 0,
    entry := 0, after := [], release := none, arrived := [], faults := [], barriers := [], scales := [], planes := none, staged := [], lti := 0 }

/-- The state with a command in its copy queues. -/
def copying (k : Copy) : State := (ready (.nop ⟨0⟩)).modEng fun e => { e with copies := [k] }

/-- An engine trap of a copy. -/
def anEngineTrap : EngineTrap := ⟨9, 0, 0, 0x1000, 1, 1, 0, 0, false, false⟩

/-- A push that has passed its filter. -/
def aPush : Push := ⟨9, 0, 1, 5, ⟨0, 1, 0, 0⟩, 1, 0, true⟩

/-- The state whose context's cone ring, with this header, is at 0x1100, and with that push on its way. -/
def ringed (header : Nat) : State := (((ready (.nop ⟨0⟩)).putNat 0x60100 64 header).modCtx 1 fun c => { c with crbase := 0x1101 }).modEng fun e => { e with pushes := [aPush] }

/-- A binning queue with one record in one bin, whose single producer has or has not ended. -/
def aQueue (ended : Nat) : BinQueue := ⟨9, 1, 0x1100, 1, 4, 1, ended, [⟨3, [7], 0⟩], [], 0⟩

/-- The state in which lane 31 of wave 1 has posed a rast query. -/
def posed : State := after (.rast ⟨0, 50, 20, 8⟩) (oneLane (withEntry (3 * 2 ^ 128) (ready (.rast ⟨0, 50, 20, 8⟩))))

/-- The placed state with 8 registers and no gang-local memory, and a save region of one page at an address. -/
def small (at_ size : Nat) : State := (withRecord (2 ^ 2048 - 104 * 2 ^ 270 - 128 * 2 ^ 288) (ready (.nop ⟨0⟩))).modCtx 1 fun c => { c with svbase := BitVec.ofNat 64 at_, svsize := BitVec.ofNat 64 size }

/-- Gang 1, and its launch, of a state. -/
def gang1 (s : State) (p : Gang → Grid → Bool) : Bool := match s.gang? 1, s.grid? 1 with
  | some g, some gr => s.gang? g.id = some g && s.grid? g.grid = some gr && s.grid? gr.id = some gr && p g gr
  | _, _ => false

/-- Gang 1 has expired and yields, with a request held. -/
def leaving : State := { (small 0x1000 1).modGang 1 fun g => { g with expired := some 0 } with cycle := 0x200000 }.modWave 1 fun w => { w with wake := wakeOf 9 0, heldSince := some 0 }

/-- Gang 1 evicted, with an area of 64 bytes at 0x1000, at the FIFO's head. -/
def evicted : State := { (small 0x1000 1).modGang 1 fun g => { g with resident := false, cores := [], saved := some (0x1000, 64) } with fifo := [.gang 1] }

/-- A completion queue at 0x4000 and a submission queue at 0x8000, of 16 entries each. -/
def queued (s : State) : State := (s.putNat 0x8000 4 1).modHost fun h => { h with
  subs := [⟨1, 0x8000, 4, 0, 1⟩], comps := [⟨0, 0x4000, 4, 3, 1, 1, 0, 1, 0, [0]⟩] }

/-- A claimed command with this entry, the only one, of submission queue 1. -/
def aCommand (e : Nat) : Command := ⟨9, 1, 1, BitVec.ofNat 512 e⟩

/-- The state with that command claimed. -/
def commanded (e : Nat) (s : State) : State := (queued s).modHost fun h => { h with commands := [aCommand e] }

/-- The command is the only one of its queue, and a check holds of it, of the state without it and of its entry. -/
def commandIs (e : Nat) (s : State) (p : Command → State → Nat → Bool) : Bool :=
  decide ((commanded e s).host.commands.find? (fun x => x.id = (aCommand e).id) = some (aCommand e)) && decide ((commanded e s).host.commands.find? (fun x => x.queue = (aCommand e).queue) = some (aCommand e)) &&
    p (aCommand e) ((commanded e s).modHost fun h => { h with commands := h.commands.filter fun x => x.id ≠ (aCommand e).id }) (aCommand e).entry.toNat

/-- An entry of a command without fields that must be zero. -/
def badEntry (e : Nat) : Bool := decide (e % 2 ^ 8 = 0 ∨ 7 < e % 2 ^ 8 ∨ e / 2 ^ 8 % 2 ^ 8 ≠ 0 ∨ e / 2 ^ 32 % 2 ^ 32 ≠ 0 ∨ e / 2 ^ 128 % 2 ^ 384 ≠ 0)

/-- The state whose launch is in a phase, for command 7 of queue 1. -/
def phased (p : GridPhase) (s : State) : State := { s with grids := s.grids.map fun g => { g with phase := p, queue := 1, tag := 7 } }

/-- A launch record that the checks accept: 8 registers, no barriers and no gang-local memory. -/
def smallRecord : Nat := 0x1000 + 2 ^ 192 + 2 ^ 256 + 32 * 2 ^ 259 + 8 * 2 ^ 270 + 2 ^ 352

/-- A segment of one word, `next` to itself, without and with bar as its first word. -/
def aSegment (gather : Bool) : CodeEntry := ⟨[0xA0000000], 3, 96, gather⟩

/-- The state in which wave 1, of a Voxunet launch of two segments with virtual waves of 32 lanes, stands at its segment's end with successor 0. -/
def atSegmentEnd : State :=
  ({ inSegment (ready (.next 0)) with
    grids := (ready (.next 0)).grids.map fun g => { g with vox := some (⟨0, 32, [aSegment false]⟩ : VoxModule) }
    groups := [⟨1, 0, [0]⟩], code := [aSegment false], cycle := 1 } : State).modWave 1 fun w => { w with wake := wakeOf 9 0, parked := BitVec.allOnes 32 }

/-- The state with a mailbox command and its arguments. -/
def mailed (op : Nat) (args : List Nat) (s : State) : State := s.modKiln fun k => { k with mbcmd := BitVec.ofNat 64 op, mbarg := SMap.cells 0 (args.map (BitVec.ofNat 64)) }

/-- No command runs, the device is not in recovery, and the mailbox holds that command. -/
def mailReady (op : Nat) (args : List Nat) (s : State) : Bool :=
  (mailed op args s).kiln.recovery = false && (mailed op args s).kiln.mbstat.getLsbD 0 = false && decide ((mailed op args s).kiln.mbcmd.toNat % 2 ^ 16 = op)

/-- A load of wave 1 that has not been translated. -/
def aLoad : Access := { id := 9, wave := 1, core := 0, asid := 1, kind := .load 4 false false false, word := 0, pc := 0, active := 1, seq := 0, dst := none, lanes := [newLane 0 0 64 0 0], after := [], acquire := none, privileged := false, log := none, abort := false, taken := false, counter := 1, placement := 0, noInstall := false, block := 32, time := 0 }

/-- WordIssues, the choice of a partition: a wave that comes after a ready one, and that one; a deterministic wave, which the pointer stands at, alone on its partition. -/
theorem witness_choice :
    ([1, 2] : List Nat).all (fun n => match (sharing (ready (.nop ⟨0⟩))).wave? n with
      | some w => (sharing (ready (.nop ⟨0⟩))).rotationSlots w.part = [] && (match (sharing (ready (.nop ⟨0⟩))).gridOf w with | some g => !g.det | none => false) &&
          (sharing (ready (.nop ⟨0⟩))).isChoice w = decide (n = 1)
      | none => false) = true ∧
    (match (withRecord (2 ^ 320) (ready (.nop ⟨0⟩))).wave? 1 with
      | some w => (withRecord (2 ^ 320) (ready (.nop ⟨0⟩))).isDet w && (withRecord (2 ^ 320) (ready (.nop ⟨0⟩))).isResident w.gang && (withRecord (2 ^ 320) (ready (.nop ⟨0⟩))).rotationSlots w.part = [0] &&
          pointedSlot 0 [0] = some 0 && (withRecord (2 ^ 320) (ready (.nop ⟨0⟩))).isChoice w
      | none => false) = true := by decide +kernel

/-- BarriersHoldAndRelease, the words: bar of no lane and of every lane, with its wave's writes done; bar past a launch's BARS of 1; barnet so. -/
theorem witness_barrier_words :
    issuesWith (ready (.bar ⟨1, 15⟩)) (.bar ⟨1, 15⟩) (fun c _ => 15 < c.gr.bars && c.act = 0) = true ∧
    issuesWith (ready (.bar ⟨0, 15⟩)) (.bar ⟨0, 15⟩) (fun c _ => 15 < c.gr.bars && c.act ≠ 0 && (ready (.bar ⟨0, 15⟩)).writesDone c.w.id c.w.core 1) = true ∧
    issuesWith (withRecord (2 ^ 2048 - 15 * 2 ^ 277) (ready (.bar ⟨0, 1⟩))) (.bar ⟨0, 1⟩) (fun c _ => c.gr.bars = 1) = true ∧
    issuesWith (ready (.barnet ⟨1, 2⟩)) (.barnet ⟨1, 2⟩) (fun c _ => c.act = 0) = true ∧
    ([2, 5] : List (BitVec 3)).all (fun n => issuesWith (ready (.barnet ⟨0, n⟩)) (.barnet ⟨0, n⟩) (fun c _ => c.act ≠ 0 &&
      (ready (.barnet ⟨0, n⟩)).writesDone c.w.id c.w.core ((ready (.barnet ⟨0, n⟩)).netScope c.w n.toNat))) = true := by decide +kernel

/-- BarriersHoldAndRelease, the release: a workgroup of one wave, all of which arrive, and of two, of which one does. -/
theorem witness_barrier_release : ([(ready (.bar ⟨0, 1⟩), true), (paired (ready (.bar ⟨0, 1⟩)), false)] : List (State × Bool)).all (fun e => match e.1.wave? 1 with
    | some w =>
      let held : Wave := { w.withdraw.raise (Instr.counter (.bar ⟨0, 1⟩)) with wake := wakeOf 1 1, waiting := some (.bar ⟨0, 1⟩), releaser := 0 }
      let b : State := e.1.modWave 1 fun w => { w.withdraw.raise (Instr.counter (.bar ⟨0, 1⟩)) with wake := wakeOf 1 1, waiting := some (.bar ⟨0, 1⟩), releaser := 0 }
      w.alive && decide ((∀ x ∈ (b.wavesOfWg held.gang held.wg).filter Wave.alive, x.wake = held.wake) ↔ e.2 = true)
    | none => false) = true := by decide +kernel

/-- BarriersHoldAndRelease, barnet: a gang of one wave, all of which waits, at each scope, and of two, of which one does. -/
theorem witness_net_release : ([2, 3, 4, 5] : List Nat).all (fun a => ([(ready (.barnet ⟨0, 2⟩), true), (paired (ready (.barnet ⟨0, 2⟩)), false)] : List (State × Bool)).all (fun e =>
    let s := e.1.modWave 1 fun w => { w with wake := wakeOf 2 a, waiting := some (.barnet ⟨0, BitVec.ofNat 3 a⟩) }
    match s.wave? 1 with
    | some w => (match s.home? w with
      | some (ga, gr) => w.alive && w.wake = wakeOf 2 a && s.waves.contains w && s.gangs.all (fun g => g.grid = gr.id && g.id = ga.id) && decide (s.waves.all (fun x => x.wake = w.wake) = e.2) &&
          decide (gr.lastGang ≤ gr.nextGang ∧ gr.ndevice ≤ 1)
      | none => false)
    | none => false)) = true := by decide +kernel

/-- BarriersHoldAndRelease, an arrival in flight: of lane 31, that nothing holds, alone and with a second wave that waits on the record. -/
theorem witness_arrival : ([(0, 0), (3, 1)] : List (Nat × Nat)).all (fun k => lane31 (let s := after (.barArrive ⟨0, 10⟩) (oneLane (tagged (ready (.barArrive ⟨0, 10⟩)))); if k.1 = 0 then s else
      { s with waves := s.waves ++ s.waves.map fun w => { w with id := 2, index := 1, slot := 1, wake := wakeOf 3 0, waiting := some (.barWait ⟨0, 11, 10⟩) } }) (fun a w ga _ l =>
    let s0 := after (.barArrive ⟨0, 10⟩) (oneLane (tagged (ready (.barArrive ⟨0, 10⟩))))
    let s : State := if k.1 = 0 then s0 else { s0 with waves := s0.waves ++ s0.waves.map fun w => { w with id := 2, index := 1, slot := 1, wake := wakeOf 3 0, waiting := some (.barWait ⟨0, 11, 10⟩) } }
    a.kind = .arrive false && l.status = .fresh && !s.fenceHeld a.after && !s.windowHeld a l && ga.present l.va && s.eng.matrix.tiles = [] && decide ((s.waves.map Wave.id).Nodup) && w.id = 1 &&
      (s.waves.filter fun x => x.gang = ga.id && x.wakeKind = 3).length = k.2)) = true := by decide +kernel

/-- BarriersHoldAndRelease, barrier objects at offset 0: bar.init with counts 1 and 65535; bar.arrive; bar.wait whose token is another phase than the record's, and whose token is that phase; bar.sync. -/
theorem witness_barrier_objects :
    ([1, 65535] : List Word).all (fun n => issuesWith ((ready (.barInit ⟨0, 11, 10⟩)).modWave 1 fun w => w.setVs (BitVec.allOnes 32) 11 fun _ => n) (.barInit ⟨0, 11, 10⟩) (fun c t =>
      match t.gang? c.ga.id with
      | some g => c.act ≠ 0 && !t.windowsBusy c.w.id ((laneList c.act).map (c.record 10)) && (List.range 32).all fun l => inRange c.gr (c.record 10 l) && !g.absent.contains (c.record 10 l / 64) &&
          (c.vsrc c.vimm 11 2 l).toNat = n.toNat && !t.lineAwaited g.id (c.record 10 l / 64) && t.eng.matrix.tiles = [] && t.fencesOf c.w.id = []
      | none => false)) = true ∧
    ([.barArrive ⟨0, 10⟩, .barSync ⟨0, 10⟩] : List Instr).all (fun i => issuesWith (tagged (ready i)) i (fun c t => match t.gang? c.ga.id with
      | some g => c.act ≠ 0 && g.tags = [0] && !t.storesPending g.id ((laneList c.act).map (c.record 10)) && c.unheld ⟨.arrive true, none, (laneList c.act).map fun l => newLane l 0 (c.record 10 l) 0 0, false, true, 0⟩ t &&
          (List.range 32).all fun l => inRange c.gr (c.record 10 l) && c.record 10 l / 64 = 0 && g.absent = []
      | none => false)) = true ∧
    ([0, 1] : List Word).all (fun n => issuesWith ((tagged (ready (.barWait ⟨0, 11, 10⟩))).modWave 1 fun w => w.setVs (BitVec.allOnes 32) 11 fun _ => n) (.barWait ⟨0, 11, 10⟩) (fun c t =>
      match t.gang? c.ga.id with
      | some g => c.act ≠ 0 && t.readsBack c.w.id && !t.storesPending g.id ((laneList c.act).map (c.record 10)) && !t.windowsBusy c.w.id ((laneList c.act).map (c.record 10)) && g.tags = [0] && g.phase (c.record 10 0) = 0 &&
          (List.range 32).all fun l => (c.vsrc c.vimm 11 2 l).toNat = n.toNat && inRange c.gr (c.record 10 l)
      | none => false)) = true ∧
    ([.barInit ⟨1, 11, 10⟩, .barArrive ⟨1, 10⟩, .barWait ⟨1, 11, 10⟩, .barSync ⟨1, 10⟩] : List Instr).all (fun i => issuesWith (tagged (ready i)) i fun c _ => c.act = 0) = true := by decide +kernel

/-- HintWordsWait: each hint issues first; a third, and a second of its kind, are refused. -/
theorem witness_hints :
    ([.hintExt 5, .hintStall 15, .hintNeg, .hintRnd 3, .hintSat 1, .hintCache 1 1, .hintNb, .hintDtree] : List Instr).all (fun i => match (ready i).wave? 1 with
      | some w => (match (ready i).home? w, w.nextGroup with
        | some (ga, gr), some (pc, _) => (ready i).canIssue w ga && ((ready i).ctx gr.asid).fetchMatches w pc = [] && w.hints = [] && Instr.legal gr.regs i
        | _, _ => false)
      | none => false) = true ∧
    (match (hinted (.hintSat 1) (ready (.hintSat 0))).wave? 1 with | some w => w.hintKinds.contains (Instr.hintKind (.hintSat 0)) && w.nextGroup.isSome | none => false) = true := by decide +kernel

/-- LoadsAndStoresAccess: every word with ACTIVE lanes that nothing holds, and one without; ldlod of a resource whose entry is read. -/
theorem witness_loads_and_stores :
    ([.ldZ8 ⟨0, 4, 2, 63, 0⟩, .ldI8 ⟨0, 4, 2, 0, 0⟩, .ldZ16 ⟨0, 4, 2, 0, 0⟩, .ldI16 ⟨0, 4, 2, 0, 0⟩, .ld32 ⟨0, 4, 2, 0, 3⟩, .ld64 ⟨0, 4, 2, 0, 1⟩, .st8 ⟨0, 4, 2, 0, 0⟩, .st16 ⟨0, 4, 2, 0, 0⟩,
      .st32 ⟨0, 4, 2, 0, 2⟩, .st64 ⟨0, 4, 2, 63, 3⟩, .lck ⟨0, 4, 2⟩, .ulk ⟨0, 4, 2⟩, .pref ⟨0, 2⟩] : List Instr).all runs = true ∧
    issuesWith (ready (.ld32 ⟨0, 4, 2, 0, 0⟩)) (.ld32 ⟨0, 4, 2, 0, 0⟩) (fun c t =>
      c.unheld ⟨.load 4 false false false, some (4, 1), (laneList c.act).map fun l => newLane l 0 0 0 0, false, false, 0⟩ t) = true ∧
    issuesWith (ready (.st32 ⟨0, 4, 2, 0, 2⟩)) (.st32 ⟨0, 4, 2, 0, 2⟩) (fun c t => c.unheld ⟨.store 4, none, (laneList c.act).map fun l => newLane l 0 0 0 0, false, true, 0⟩ t) = true ∧
    issuesWith (ready (.ld32 ⟨1, 4, 2, 0, 0⟩)) (.ld32 ⟨1, 4, 2, 0, 0⟩) (fun c _ => c.act = 0) = true ∧
    issuesWith (withEntry (4 * 2 ^ 128) (ready (.ldlod ⟨0, 12, 4, 16, 0, 3⟩))) (.ldlod ⟨0, 12, 4, 16, 0, 3⟩)
      (fun c t => c.act ≠ 0 && !c.gr.det && (match c.entries 16 t with | .ok (es, _) => es.length = 1 | .error _ => false)) = true := by decide +kernel

/-- AtomicsAccess: every word; red under a dtree hint; lists of one destination and of none. -/
theorem witness_atomics :
    ([.atom32 ⟨0, 4, 1, 1, 9, 0⟩, .atom64 ⟨0, 4, 1, 6, 8, 3⟩, .acas ⟨0, 4, 1, 6, 0, 0⟩, .acas ⟨0, 4, 1, 8, 1, 0⟩, .red ⟨0, 0, 10, 3, 9, 0⟩, .red ⟨0, 1, 10, 4, 7, 2⟩] : List Instr).all runs = true ∧
    issuesWith (hinted .hintDtree (ready (.red ⟨0, 0, 10, 3, 9, 0⟩))) (.red ⟨0, 0, 10, 3, 9, 0⟩) (fun c _ => c.hints.dtree) = true ∧
    ([.mcst ⟨0, 4, 24, 0, 0⟩, .rdst ⟨0, 4, 24, 0, 0, 0⟩] : List Instr).all (fun i =>
      issuesWith ((ready i).modWave 1 fun w => w.setS 24 1) i (fun c _ => c.act ≠ 0 && (List.range 32).all fun l => !c.listBad 24 l) &&
      issuesWith ((ready i).modWave 1 fun w => w.setS 24 8) i (fun c _ => (List.range 32).all fun l => !c.listBad 24 l) &&
      issuesWith ((ready i).modWave 1 fun w => w.setS 24 9) i (fun c _ => c.act.getLsbD 0 && c.listBad 24 0) && issuesWith (ready i) i (fun c _ => c.act.getLsbD 31 && c.listBad 24 31)) = true := by decide +kernel

/-- AtomicsAccess, the combining of a dtree hint: lanes 0 and 2 name one address with 1.0 and 2.0, lane 1 another. -/
theorem test_dtree_combines : (combined [newLane 0 0 64 0x3F800000 0, newLane 1 0 68 0x3F800000 0, newLane 2 0 64 0x40000000 0]).map (fun l => (l.data, l.status)) =
    [(0x40400000, .fresh), (0x3F800000, .fresh), (0x40000000, .done)] := by decide +kernel

/-- AccessEntersFlight: the context of a load, with an acquire and without, of a store that is a release, and of an atomic, in a launch of either kind. -/
theorem witness_flight : ([false, true] : List Bool).all (fun det => issuesWith (if det then withRecord (2 ^ 320) (ready (.ld32 ⟨0, 4, 2, 0, 1⟩)) else ready (.ld32 ⟨0, 4, 2, 0, 1⟩)) (.ld32 ⟨0, 4, 2, 0, 1⟩) (fun c _ => c.gr.det = det &&
    ([⟨.load 4 false true false, some (4, 1), [newLane 0 0 0 0 0], true, false, 0⟩, ⟨.load 4 false false false, some (4, 1), [newLane 0 0 0 0 0], false, false, 0⟩,
      ⟨.store 4, none, [newLane 0 0 0 0 0], false, true, 0⟩, ⟨.atomic 0 4 true, some (4, 1), [newLane 31 0 64 0 0], false, false, 0⟩] : List MemOp).all fun op => op.lanes.any (fun l => l.status ≠ .done))) = true := by decide +kernel

/-- LocalWordsAccess: offsets in range and present; one lane's offset at 512 KiB, past the workgroup's memory; an absent line. -/
theorem witness_local_words :
    ([.lds32 ⟨0, 4, 1, 0, 0⟩, .lds64 ⟨0, 4, 1, 63, 0⟩, .sts32 ⟨0, 4, 1, 0, 0⟩, .sts64 ⟨0, 4, 1, 0, 2⟩] : List Instr).all (fun i =>
      issuesWith (ready i) i (fun c t => match t.gang? c.ga.id with
        | some g => c.act ≠ 0 && g.absent = [] && g.tags = [] && inRange c.gr 0 && inRange c.gr 504
        | none => false) &&
      issuesWith ((ready i).modWave 1 fun w => w.setV 31 1 0x80000) i (fun c _ => c.act.getLsbD 31 && !inRange c.gr 0x80000 && inRange c.gr 0x7FFFC) &&
      issuesWith { ready i with gangs := (ready i).gangs.map fun g => { g with absent := [0, 7] } } i (fun c t => match t.gang? c.ga.id with
        | some g => c.act.getLsbD 0 && g.absent = [0, 7]
        | none => false)) = true := by decide +kernel

/-- TransactionsRun, the words: none of their guards; txst of one lane in a transaction, with its address permitting both accesses; txc of one lane that may commit and of lanes none of which may. -/
theorem witness_transaction_words :
    ([.txb ⟨0⟩, .txa ⟨0⟩, .txst ⟨0, 4, 2⟩, .txld ⟨0, 4, 2⟩] : List Instr).all (fun i => issuesWith (ready i) i fun c t => !t.committing c.w.id && !t.txReading c.w.id c.act && c.w.txIn &&& c.act = 0 &&
      c.unheld ⟨.txRead, some (4, 2), (laneList c.act).map fun l => newLane l 0 0 0 0, false, false, 0⟩ t && c.unheld ⟨.txWrite, none, (laneList c.act).map fun l => { newLane l 0 (c.src2 .vec 2 l).toNat (c.src2 .vec 4 l) 0 with status := .done }, false, false, 0⟩ t) = true ∧
    issuesWith (oneLane ((ready (.txst ⟨0, 4, 2⟩)).modWave 1 fun w => { w.setV 31 2 0x1100 with txIn := laneBit 31 })) (.txst ⟨0, 4, 2⟩) (fun c t => !t.committing c.w.id && laneList c.act = [31] &&
      c.w.txIn.getLsbD 31 && !c.w.txAbort.getLsbD 31 && (c.src2 .vec 2 31).toNat = 0x1100 && (match t.translate 0 1 0x1100 needBoth false 0 with | (.ok tr, _) => !t.txForbidden tr && !t.foreign c.w 0x1100 | _ => false) &&
      c.w.txWords 31 true = [] && c.unheld ⟨.txWrite, none, [newLane 31 0 0x1100 0 0], false, false, 0⟩ t) = true ∧
    issuesWith ((ready (.txc ⟨0, 2⟩)).modWave 1 fun w => { w with txIn := laneBit 31 }) (.txc ⟨0, 2⟩) (fun c t => !t.committing c.w.id && !t.txReading c.w.id c.act && !t.txUnreported c.w c.act && !c.gr.det &&
      c.act &&& c.w.txIn &&& ~~~c.w.txAbort = laneBit 31 && (c.w.txFails.get 31).toNat < 16) = true ∧
    issuesWith (ready (.txc ⟨0, 2⟩)) (.txc ⟨0, 2⟩) (fun c t => c.act ≠ 0 && !t.committing c.w.id && !t.txReading c.w.id c.act && !t.txUnreported c.w c.act && c.w.txIn = 0) = true ∧
    issuesWith (ready (.txc ⟨1, 2⟩)) (.txc ⟨1, 2⟩) (fun c _ => c.act = 0) = true := by decide +kernel

/-- TransactionsRun, lanes in transactions: a txld of lane 31, in a transaction, aborted, with its word in the write set, in the read set, with no words, and with eight others; on a HOME 10 page; a txst so, with its word, with none, and with four others. -/
theorem witness_transaction_lanes :
    ([(0, true, false, 0x60100, 1, false), (0, false, true, 0x60100, 1, false), (0, false, false, 0x60100, 1, false), (0, false, false, 0x60000, 0, false), (1, false, false, 0x60000, 8, true)] :
      List (Nat × Bool × Bool × Nat × Nat × Bool)).all (fun e => issuesWith ((oneLane (ready (.txld ⟨0, 4, 2⟩))).modWave 1 fun w => { w.setV 31 2 0x1100 with
        txIn := laneBit 31, txAbort := if e.2.1 then laneBit 31 else 0, txSet := List.replicate e.2.2.2.2.1 ⟨31, e.2.2.2.1, e.2.2.2.1 % 0x10000 + 0x1000, 0x6002F, 0, 7, e.2.2.1⟩ }) (.txld ⟨0, 4, 2⟩) (fun c t =>
      !t.committing c.w.id && laneList c.act = [31] && (c.src2 .vec 2 31).toNat = 0x1100 && t.txPending c.w.id 31 = [] && (c.w.txWords 31 e.2.2.1).length = e.2.2.2.2.1 &&
        decide ((c.w.txSet.find? fun x => x.va = 0x1100).isSome = decide (e.2.2.2.1 = 0x60100)) && (match t.translate 0 1 0x1100 needRead false 0 with
          | (.ok p, _) => t.localPa p.pa = 0x60100 && windowOf 0x60100 = 0 && leafHome p.leaf = 0
          | _ => false) &&
        (e.2.2.2.2.2 || c.unheld ⟨.txRead, some (4, 2), [if e.2.2.2.1 = 0x60100 then { newLane 31 0 0x1100 0 0 with status := .done } else newLane 31 0 0x1100 1 0], false, false, 0⟩ t))) = true ∧
    ([.txld ⟨0, 4, 2⟩, .txst ⟨0, 4, 2⟩] : List Instr).all (fun i => issuesWith ({ (oneLane (ready i)).modWave 1 fun w => { w.setV 31 2 0x1100 with txIn := laneBit 31 } with
        mem := (ready i).mem.setRange 0x50008 (bytesOfNat 8 0x6042F) }) i (fun c t => laneList c.act = [31] &&
      (match t.translate 0 1 0x1100 needRead false 0, t.translate 0 1 0x1100 needBoth false 0 with | (.ok p, _), (.ok q, _) => leafHome p.leaf = 2 && leafHome q.leaf = 2 && !t.foreign c.w 0x1100 | _, _ => false))) = true ∧
    ([(0x60100, 1), (0x60000, 0), (0x60000, 4)] : List (Nat × Nat)).all (fun e => issuesWith ((oneLane (ready (.txst ⟨0, 4, 2⟩))).modWave 1 fun w => { w.setV 31 2 0x1100 with
        txIn := laneBit 31, txSet := List.replicate e.2 ⟨31, e.1, e.1 % 0x10000 + 0x1000, 0x6002F, 0, 7, true⟩ }) (.txst ⟨0, 4, 2⟩) (fun c t => !t.committing c.w.id && laneList c.act = [31] &&
      (c.w.txWords 31 true).length = e.2 && decide ((c.w.txSet.find? fun x => x.va = 0x1100).isSome = decide (e.1 = 0x60100)) && !t.foreign c.w 0x1100 &&
        (match t.translate 0 1 0x1100 needBoth false 0 with | (.ok _, _) => true | _ => false) && c.unheld ⟨.txWrite, none, [newLane 31 0 0x1100 0 0], false, false, 0⟩ t)) = true ∧
    lane31 (translated (.txld ⟨0, 4, 2⟩)) (fun a _ _ gr l => let s := translated (.txld ⟨0, 4, 2⟩)
      a.kind = .txRead && l.status = .ready && !s.locationHeld a l && !s.storeUnwritten a l && !s.fenceHeld a.after && !s.homeHeld a l && !gr.det && !(s.ctx a.asid).ordlog.getLsbD 0 && !(s.ctx a.asid).ordlog.getLsbD 1) = true := by decide +kernel

/-- TransactionsRun, the commit: the lane whose turn it is, with one word read that still holds its value and one to write. -/
theorem witness_commit : (match committing.wave? 1 with
    | some w => (match committing.home? w, committing.validates 1 (w.txSet.filter fun x => x.lane = 31 && !x.write) with
      | some (_, gr), (ok, _) => ok && committing.commitTurn w = some 31 && w.alive && w.txTodo.getLsbD 31 && !committing.commitWaits w 31 && !(committing.ctx gr.asid).ordlog.getLsbD 0 &&
          !(committing.ctx gr.asid).ordlog.getLsbD 1
      | none, _ => false)
    | none => false) = true := by decide +kernel

/-- FencesWaitsAndInvalidations: the fences with what they wait for over, at die scope too, and with a load still out; a wait that is met and one that is not; the invalidations. -/
theorem witness_fences :
    ([.fence ⟨0, 2, 0⟩, .fence ⟨0, 6, 0⟩, .fence ⟨0, 4, 1⟩, .fence ⟨0, 1, 2⟩, .fence ⟨0, 3, 2⟩, .fence ⟨0, 3, 3⟩, .fence ⟨0, 4, 3⟩] : List Instr).all (fun i => issuesWith (ready i) i fun c t => c.act ≠ 0 && t.readsBack c.w.id && t.reportsIn c.w.id &&
      !t.loggedFault c.w.id && ([1, 3, 4] : List Nat).all fun n => t.writesDone c.w.id c.w.core n) = true ∧
    ([.fence ⟨0, 2, 0⟩, .fence ⟨0, 4, 1⟩, .fence ⟨0, 3, 2⟩] : List Instr).all (fun i => issuesWith { ready i with flights := [aLoad] } i fun c t => c.act ≠ 0 && !t.readsBack c.w.id && !t.reportsIn c.w.id) = true ∧
    issuesWith (ready (.wait ⟨0, 0, 0, 0, 15⟩)) (.wait ⟨0, 0, 0, 0, 15⟩) (fun c t => c.act ≠ 0 && c.w.ld = 0 && t.flights = []) = true ∧
    issuesWith ((ready (.wait ⟨0, 14, 15, 15, 15⟩)).modWave 1 fun w => { w with ld := 15 }) (.wait ⟨0, 14, 15, 15, 15⟩) (fun c _ => c.act ≠ 0 && 14 < c.w.ld.toNat) = true ∧
    ([.cinvLine ⟨0, 2⟩, .cinvUnl ⟨0, 2⟩, .cinvIline ⟨0, 2⟩, .cinvAll ⟨0⟩, .cinvIall ⟨0⟩] : List Instr).all runs = true ∧ issuesWith (ready (.fence ⟨1, 4, 2⟩)) (.fence ⟨1, 4, 2⟩) (fun c _ => c.act = 0) = true := by
  decide +kernel

/-- SpecialRegistersReadAndWrite: every register read and written by a wave with privilege; those that others may; without ACTIVE lanes; a register that wants privilege, without it. -/
theorem witness_special_registers :
    ([0x000, 0x001, 0x002, 0x003, 0x004, 0x005, 0x006, 0x008, 0x010, 0x014, 0x020, 0x02A, 0x030, 0x050, 0x057] : List (BitVec 12)).all (fun n =>
      issuesWith (asHandler (ready (.csrr ⟨0, 4, n⟩))) (.csrr ⟨0, 4, n⟩) fun c _ => c.act ≠ 0 && c.w.priv && c.w.tl = 0) = true ∧
    ([0x000, 0x004, 0x007, 0x008, 0x010, 0x014, 0x020, 0x02A, 0x030, 0x042, 0x050, 0x057] : List (BitVec 12)).all (fun n =>
      issuesWith (asHandler (ready (.csrw ⟨0, 4, n⟩))) (.csrw ⟨0, 4, n⟩) fun c _ => c.act ≠ 0 && c.w.priv) = true ∧
    ([0x004, 0x007, 0x012, 0x020] : List (BitVec 12)).all (fun n => issuesWith (ready (.csrw ⟨0, 4, n⟩)) (.csrw ⟨0, 4, n⟩) fun c _ => c.act ≠ 0 && !c.w.priv) = true ∧
    ([0x002, 0x008] : List (BitVec 12)).all (fun n => issuesWith (ready (.csrr ⟨1, 4, n⟩)) (.csrr ⟨1, 4, n⟩) fun c _ => c.act = 0 && !c.w.priv) = true ∧
    issuesWith (asHandler (ready (.csrw ⟨1, 4, 0x020⟩))) (.csrw ⟨1, 4, 0x020⟩) (fun c _ => c.act = 0 && c.w.priv) = true := by decide +kernel

/-- SpecialRegistersReadAndWrite, the posts: a descriptor of a range and of a kind that does not exist, with nothing and with sixteen posts in flight. -/
theorem witness_posts : ([0x040, 0x041] : List (BitVec 12)).all (fun n => ([1 * 2 ^ 64 + 2 ^ 96, 3 * 2 ^ 112] : List Nat).all fun d =>
    let s : State := (asHandler (ready (.csrw ⟨0, 4, n⟩))).modWave 1 fun w => w.setS 4 0x1100
    let sweep : Sweep := ⟨0, .wave 1, 1, 0, 1, 0, 0, 1, false⟩
    ([s.putNat 0x60100 32 d, { s.putNat 0x60100 32 d with eng := { s.eng with shootdowns := List.replicate 16 sweep, cleans := List.replicate 16 sweep } }] : List State).all fun s =>
      issuesWith s (.csrw ⟨0, 4, n⟩) fun c t => c.w.priv && c.act ≠ 0 && (match t.readDesc 1 0x1100 true with | .ok (e, _) => e = d | .error _ => false) && t.eng.cleans.length = t.eng.shootdowns.length) = true := by
  decide +kernel

/-- SystemWordsAct: smask by a wave with privilege and without; clock to a pair; rng to a register and to vz; trapret. -/
theorem witness_system_words :
    ([.smask ⟨0, 0⟩, .smask ⟨0, 1⟩, .trapret ⟨0, 0⟩, .trapret ⟨0, 1⟩] : List Instr).all (fun i => issuesWith (asHandler (ready i)) i (fun c t => c.w.priv && c.act ≠ 0 && !t.storesOut c.w.id && !c.gr.det) &&
      issuesWith (ready i) i (fun c _ => !c.w.priv)) = true ∧
    ([.clock ⟨0, 94⟩, .clock ⟨0, 0⟩, .rng ⟨0, 111, 0, 1⟩, .rng ⟨0, 124, 111, 0⟩] : List Instr).all runs = true ∧
    ([.smask ⟨1, 0⟩, .trapret ⟨1, 0⟩] : List Instr).all (fun i => issuesWith (asHandler (ready i)) i fun c _ => c.w.priv && c.act = 0) = true := by decide +kernel

/-- SystemWordsAct, the return: the record of wave 1 can be read. -/
theorem witness_return : (match (handling.coreRead 0 1 (handling.traddr 1 ((handling.wave? 1).getD (Wave.start 1 1 0 0 0 0 0 0 [] 0))) 1024 true) with | .ok (bs, _) => bs.length = 1024 | .error _ => false) = true := by
  decide +kernel

/-- TrapEntryEntersHandler: the record is written, and the vector of ILLOP, 0x1200, read. -/
theorem witness_trap_entry : (match handling.wave? 1 with
    | some w =>
      let info : TrapInfo := ⟨0, 0, false, false, 0, 0x1000, 1, 1, 0, 0, 0, 0⟩
      !w.tm && (match (recordParts w info).foldl (fun (acc : Except (Flt × Nat) State) (p : Nat × List Byte) => acc.bind fun z => z.ctxWrite 1 (handling.traddr 1 w + p.1) p.2 needWrite true (some w.core)) (.ok handling) with
        | .ok s1 => (match s1.ctxNat 1 ((s1.ctx 1).tvbase.toNat + 8 * 0) 8 needRead true with | .ok (v, s2) => v = 0x1200 && (s2.wave? 1).isSome | .error _ => false)
        | .error _ => false)
    | none => false) = true := by decide +kernel

/-- MatrixWordsMeet: every matrix word of a member of a whole team, and of a wave without a team; team with no members, and with two. -/
theorem witness_matrix_words :
    ([.mxbeg ⟨0, 1, 12, 28⟩, .mxop ⟨0, 1, 20, 24, 28⟩, .mxopZero ⟨0, 1, 20, 24, 28⟩, .mxfold 16, .mxres, .mxend, .mxdrnI32 4 28, .mxdrnI64 4 28, .mxdrnF32 4 28] : List Instr).all (fun i =>
      issuesWith (let s := paired (ready i); { s with waves := s.waves.map fun w => { w with team := 0x8001 + BitVec.ofNat 64 (8 * w.index) } }) i (fun c t =>
        !t.committing c.w.id && t.teamsNaming c.w = [] && t.heldWith c.w = [] && teamList c.w.team = [0, 1] && !t.teamBroken c.ga.id c.w.team) &&
      issuesWith (ready i) i (fun c t => !t.committing c.w.id && t.teamsNaming c.w = [] && t.heldWith c.w = [] && teamList c.w.team = [])) = true ∧
    issuesWith (ready (.team 8)) (.team 8) (fun c t => !t.committing c.w.id && t.heldWith c.w = [] && t.teamsNaming c.w = [] && c.w.getS 9 ++ c.w.getS 8 = (0 : Quad) && !t.teamOpen c.w) = true ∧
    issuesWith ((paired (ready (.team 8))).modWave 1 fun w => w.setS 8 0x8001) (.team 8) (fun c t => !t.committing c.w.id && t.heldWith c.w = [] && t.teamsNaming c.w = [] &&
      teamList (c.w.getS 9 ++ c.w.getS 8) = [0, 1] && !t.teamWrong c.w (c.w.getS 9 ++ c.w.getS 8)) = true := by decide +kernel

/-- MatrixWordsMeet, the latch: both members on mxend, with their tile open, without it, and with the table full; one member alone; both on team. -/
theorem witness_latch :
    ([(tiled (latched .mxend), true, true), (latched .mxend, false, true), ((tiled (latched .mxend)).modMatrix fun m => { m with table := List.replicate 16 { anEntry .mxend with gang := 2 } }, true, false)] :
      List (State × Bool × Bool)).all (fun e => match e.1.wave? 1 with
      | some w => (match e.1.home? w, e.1.members 1 w.team with
        | some (ga, gr), w0 :: ms => w.waiting = some .mxend && w.teamAsked = none && ga.id = 1 && allHeld (w0 :: ms) .mxend && (w0 :: ms).length = (teamList w.team).length &&
            (match e.1.latchCheck gr w0 ga.id (teamKey w0.team) .mxend ((mxRegs .mxend).map w0.getS) with | .ok _ => e.2.1 | .error _ => !e.2.1) && e.1.tableRoom (quadOf w0.core) = e.2.2
        | _, _ => false)
      | none => false) = true ∧
    (match ((latched .mxend).modWave 2 fun w => { w with wake := 0, waiting := none }).wave? 1 with
      | some w => (match ((latched .mxend).modWave 2 fun w => { w with wake := 0, waiting := none }).members 1 w.team with | w0 :: ms => !allHeld (w0 :: ms) .mxend && w0 = w | [] => false)
      | none => false) = true ∧
    (match asking.wave? 1 with
      | some w => w.teamAsked = some 0x8001 && (asking.members 1 0x8001).length = 2 && (asking.members 1 0x8001).all fun x => x.alive && x.teamAsked = some 0x8001 && x.engineTraps = []
      | none => false) = true := by decide +kernel

/-- CopyWordsEnqueue: plain copies of 64 bytes and of none whose checks pass, one whose count is not a multiple of 4, and a queue fence; each without ACTIVE lanes too. -/
theorem witness_copy_words :
    ([0, 1] : List (BitVec 1)).all (fun r => issuesWith ((ready (.cpy ⟨0, 10, 0, 12, 4, r, 0⟩)).modWave 1 fun w => (w.setS 0 0x1100).setS 12 64) (.cpy ⟨0, 10, 0, 12, 4, r, 0⟩) (fun c t =>
      c.act ≠ 0 && !t.committing c.w.id && (match (c.copyOf ⟨0, 10, 0, 12, 4, r, 0⟩ t).check c.gr c.w.core 10 0 t with | .ok _ => true | .error _ => false) && !t.queueFull c.ga.id (fun q => q = 0) &&
        !t.linesBusy c.w.id (c.copyOf ⟨0, 10, 0, 12, 4, r, 0⟩ t).dstLines && t.reportsIn c.w.id && !t.loggedFault c.w.id && !c.gr.det && (c.copyOf ⟨0, 10, 0, 12, 4, r, 0⟩ t).count ≠ 0)) = true ∧
    issuesWith ((ready (.cpy ⟨0, 10, 0, 12, 4, 0, 0⟩)).modWave 1 fun w => (w.setS 0 0x1100).setS 12 0) (.cpy ⟨0, 10, 0, 12, 4, 0, 0⟩) (fun c t =>
      c.act ≠ 0 && !t.committing c.w.id && (match (c.copyOf ⟨0, 10, 0, 12, 4, 0, 0⟩ t).check c.gr c.w.core 10 0 t with | .ok _ => true | .error _ => false) &&
        (c.copyOf ⟨0, 10, 0, 12, 4, 0, 0⟩ t).conv = 0 && (c.copyOf ⟨0, 10, 0, 12, 4, 0, 0⟩ t).count = 0) = true ∧
    issuesWith ((ready (.cpy ⟨0, 10, 0, 12, 4, 0, 0⟩)).modWave 1 fun w => w.setS 12 66) (.cpy ⟨0, 10, 0, 12, 4, 0, 0⟩) (fun c t => c.act ≠ 0 &&
      (match (c.copyOf ⟨0, 10, 0, 12, 4, 0, 0⟩ t).check c.gr c.w.core 10 0 t with | .ok _ => false | .error (f, _) => f.code = 4 && !f.held)) = true ∧
    issuesWith (ready (.cpyf ⟨0, 15, 2, 0⟩)) (.cpyf ⟨0, 15, 2, 0⟩) (fun c t => c.act ≠ 0 && !t.queueFull c.ga.id (fun q => (15 : BitVec 4).getLsbD q)) = true ∧
    ([.cpy ⟨1, 10, 0, 12, 4, 0, 0⟩, .cpyf ⟨1, 15, 2, 0⟩] : List Instr).all (fun i => issuesWith (ready i) i fun c _ => c.act = 0) = true := by decide +kernel

/-- QueryAndTextureWordsAct, the queries: each word of lane 31 with a node pool as its resource; a wave marked RAYLOST; no ACTIVE lane; geosync with scope words that are allowed and not. -/
theorem witness_query_words :
    ([.trav ⟨0, 40, 20, 8⟩, .trnx ⟨0, 40, 30, 8⟩, .isect ⟨0, 40, 18, 8⟩, .rast ⟨0, 50, 20, 8⟩] : List Instr).all (fun i =>
      issuesWith (oneLane (withEntry (3 * 2 ^ 128) (ready i))) i (fun c t => c.act ≠ 0 && !c.w.rayLost && (match c.entries 8 t with
        | .ok (es, u) => es = [(0, 3 * 2 ^ 128)] && !Entry.noPool (3 * 2 ^ 128) && t.slotsUsed c.w.core + laneCount c.act ≤ 2048 && u.eng.queries = t.eng.queries
        | .error _ => false)) &&
      issuesWith ((ready i).modWave 1 fun w => { w with rayLost := true }) i (fun c _ => c.act ≠ 0 && c.w.rayLost)) = true ∧
    issuesWith (ready (.trav ⟨1, 40, 20, 8⟩)) (.trav ⟨1, 40, 20, 8⟩) (fun c _ => c.act = 0) = true ∧
    ([(0, true), (1, true), (2, true), (3 + 4 * 383, true), (3 + 4 * 384, false), (2 ^ 11, false)] : List (Nat × Bool)).all (fun e =>
      issuesWith ((ready (.geosync ⟨0, 6⟩)).modWave 1 fun w => w.setS 6 (BitVec.ofNat 32 e.1)) (.geosync ⟨0, 6⟩) (fun c _ => c.act ≠ 0 && decide ((c.ssrc 6 0 (lowestLane c.act)).toNat = e.1 ∧
        ((e.1 < 2 ^ 11 ∧ e.1 / 4 % 2 ^ 9 ≤ 383) ↔ e.2 = true)))) = true := by decide +kernel

/-- QueryAndTextureWordsAct, the filter: texq and tex of lane 31 with a texture of one texel of format 0x20 at 0x1140. -/
theorem witness_texture_words :
    issuesWith (oneLane (withEntry (0x1140 + 64 * 2 ^ 64 + 2 * 2 ^ 128 + 0x20 * 2 ^ 136) (ready (.texq ⟨0, 108, 4, 8⟩)))) (.texq ⟨0, 108, 4, 8⟩) (fun c t => c.act ≠ 0 && (match c.entries 8 t with
      | .ok (es, u) => es.all (fun e => !Entry.noTexture e.2) && (match laneResults (fun l z => z.texSize c.w.core c.gr.asid ((es.headD (0, 0)).2) (c.w.getV l 4).toNat (c.w.getV l 5).toNat c.w.priv (some ⟨c.w, z.nextId⟩)) u.nextId (laneList c.act) u with
        | ([(31, .ok ws)], _) => ws = [1, 1, 1, 0]
        | _ => false)
      | .error _ => false)) = true ∧
    issuesWith (oneLane (withEntry (0x1140 + 64 * 2 ^ 64 + 2 * 2 ^ 128 + 0x20 * 2 ^ 136) (ready (.tex ⟨0, 20, 4, 8⟩)))) (.tex ⟨0, 20, 4, 8⟩) (fun c t => c.act ≠ 0 && (match c.entries 8 t with
      | .ok (es, u) => (match laneResults (fun l z => z.texSample c.w.core c.gr.asid 0 ((es.headD (0, 0)).2) (c.w.getV l 4) (c.w.getV l 5) (c.w.getV l 6) c.w.priv (some ⟨c.w, z.nextId⟩)) u.nextId (laneList c.act) u with
        | ([(31, .ok ws)], _) => ws.length = 5
        | _ => false)
      | .error _ => false)) = true := by decide +kernel

/-- WalkTranslatesLanes: a load's access of lane 31; a store's so; a lane past 2^60, one misaligned, one without a leaf, one that an earlier store of its thread holds. -/
theorem witness_walk_complete :
    lane31 (issued (.ld32 ⟨0, 4, 2, 0, 0⟩)) (fun a w _ _ l => let s := issued (.ld32 ⟨0, 4, 2, 0, 0⟩)
      a.id = 2 && a.kind.isGlobal && !a.kind.isLod && laneBit 31 &&& s.missing a ≠ 0 && l.va = 0x1100 && l.va < 2 ^ 60 && a.kind.aligned && l.va % a.kind.size = 0 && !s.foreign w l.va && !a.kind.writes &&
        (match s.translate (quadOf a.core) a.asid l.va a.kind.need a.privileged 0 with | (.ok _, _) => true | _ => false) &&
        (match s.translate (quadOf a.core) a.asid 0x200000 a.kind.need a.privileged 0 with | (.ok _, _) => false | (.error _, _) => true) && a.kind.size = 4) = true ∧
    lane31 (issued (.st32 ⟨0, 4, 2, 0, 0⟩)) (fun a _ _ _ l => let s := issued (.st32 ⟨0, 4, 2, 0, 0⟩)
      a.kind.writes && (match s.translate (quadOf a.core) a.asid l.va a.kind.need a.privileged 0 with
        | (.ok tr, s1) => !s1.laneHeld a { l with pa := s1.localPa tr.pa, leaf := BitVec.ofNat 64 tr.leaf, side := tr.side, status := .ready, stamp := s1.nextId } &&
            ({ s1 with flights := { a with id := 1, seq := 0 } :: s1.flights } : State).laneHeld { a with seq := 1 } { l with pa := s1.localPa tr.pa, leaf := BitVec.ofNat 64 tr.leaf, side := tr.side, status := .ready, stamp := s1.nextId }
        | _ => false)) = true := by decide +kernel

/-- LoadsReturnBytes: a translated load of lane 31 with no line in the L1; the same with its line there; a gang-local load. -/
theorem witness_load_return :
    lane31 (translated (.ld32 ⟨0, 4, 2, 0, 0⟩)) (fun a w _ gr l => let s := translated (.ld32 ⟨0, 4, 2, 0, 0⟩)
      a.kind = .load 4 false false false && l.status = .ready && !s.locationHeld a l && !s.storeUnwritten a l && !s.fenceHeld a.after && s.loadHit a w l false = none && !s.homeHeld a l && !gr.det &&
        !(s.ctx a.asid).ordlog.getLsbD 0 && !(s.ctx a.asid).ordlog.getLsbD 1 &&
        (s.modCaches fun c => { c with l1 := [⟨0, 1, 0x1100 / 64, 0x60100 / 64, 0, false, false, false, false, 0x1100 / 64⟩] }).loadHit a w l false = some ⟨0, 1, 0x1100 / 64, 0x60100 / 64, 0, false, false, false, false, 0x1100 / 64⟩) = true ∧
    lane31 (issued (.lds32 ⟨0, 4, 1, 0, 0⟩)) (fun a _ ga _ l => a.kind = .localLoad 4 && l.status = .fresh && (issued (.lds32 ⟨0, 4, 1, 0, 0⟩)).eng.matrix.tiles = [] && a.left ≠ [] && a.left.all fun m => m.status = .fresh && !(issued (.lds32 ⟨0, 4, 1, 0, 0⟩)).windowHeld a m && !ga.absent.contains (m.va / 64)) = true := by
  decide +kernel

/-- StoresWriteBytes: a translated store of lane 31, and of a lane below it that names the same bytes; a performed lane; a gang-local store. -/
theorem witness_store_steps :
    lane31 (translated (.st32 ⟨0, 4, 2, 0, 0⟩)) (fun a _ _ gr l => let s := translated (.st32 ⟨0, 4, 2, 0, 0⟩)
      a.kind = .store 4 && s.writeReady a l && !gr.det && !(s.ctx a.asid).ordlog.getLsbD 0 && !(s.ctx a.asid).ordlog.getLsbD 1 && leafHome l.leaf.toNat = 0 && !s.dte a.asid && s.caches.dirty.length + linesAt (homeSlice (s.localPa l.pa)) s.slicePins < 32768 && !a.shadows l l.pa &&
        a.shadows { l with lane := 0 } l.pa) = true ∧
    lane31 (after (.homeSliceWrite 2 (laneBit 31) 0) (translated (.st32 ⟨0, 4, 2, 0, 0⟩))) (fun a _ _ _ l => a.kind.writes && l.status = .performed) = true ∧
    lane31 (issued (.sts32 ⟨0, 4, 1, 0, 0⟩)) (fun a _ ga _ l => let s := issued (.sts32 ⟨0, 4, 1, 0, 0⟩)
      a.kind = .localStore 4 && l.status = .fresh && 32 ≤ a.block && s.eng.matrix.tiles = [] && !s.fenceHeld a.after && ga.absent = [] && a.left.all fun m => m.status = .fresh && !s.windowHeld a m) = true := by decide +kernel

/-- AtomicsUpdateMemory: every operation of a translated atomic of lane 31; a compare and swap; an addition to a list of one destination. -/
theorem witness_atomic_steps :
    ([0, 1, 2, 3, 4, 5, 6, 7, 8, 9] : List (BitVec 4)).all (fun p => lane31 (translated (.atom32 ⟨0, 4, 1, 1, p, 0⟩)) (fun a _ _ gr l => let s := translated (.atom32 ⟨0, 4, 1, 1, p, 0⟩)
      a.kind = .atomic p.toNat 4 true && s.writeReady a l && !gr.det && !(s.ctx a.asid).ordlog.getLsbD 0 && !(s.ctx a.asid).ordlog.getLsbD 1 && leafHome l.leaf.toNat = 0 && !s.dte a.asid &&
        s.poisoned l.pa 4 = none && !s.cmpMixed l.pa (entryBit l.leaf.toNat 7) && s.caches.dirty.length + linesAt (homeSlice (s.localPa l.pa)) s.slicePins < 32768)) = true ∧
    lane31 (translated (.acas ⟨0, 4, 1, 6, 0, 0⟩)) (fun a _ _ _ l => a.kind = .cas 4 && (translated (.acas ⟨0, 4, 1, 6, 0, 0⟩)).writeReady a l) = true ∧
    lane31 (after (.rdst ⟨0, 4, 24, 0, 0, 0⟩) (oneLane ((ready (.rdst ⟨0, 4, 24, 0, 0, 0⟩)).modWave 1 fun w => (w.setS 24 1).setS 26 0x1084))) (fun a _ _ _ _ => a.kind = .multi (some 0) 4) = true := by decide +kernel

/-- BackgroundStepsAct, write-backs and due traps: a line modified under a side record; a queued engine trap and nothing else under way. -/
theorem witness_writeback_and_traps :
    ((State.reset.modCaches fun c => { c with dirty := [⟨5, [(0x2000, 3)], 0⟩] }).caches.dirty.find? (fun x => x.pline = 5 && x.home = 0) = some ⟨5, [(0x2000, 3)], 0⟩) ∧
    (match ((ready (.nop ⟨0⟩)).modWave 1 fun w => { w with engineTraps := [anEngineTrap] }).wave? 1 with
      | some w => w.alive && w.nextTrap = some anEngineTrap && w.hints = [] && !w.inSync && ((ready (.nop ⟨0⟩)).modWave 1 fun w => { w with engineTraps := [anEngineTrap] }).isResident w.gang &&
          !((ready (.nop ⟨0⟩)).modWave 1 fun w => { w with engineTraps := [anEngineTrap] }).committing w.id && (ready (.nop ⟨0⟩)).waves.length = 1
      | none => false) = true := by decide +kernel

/-- BackgroundStepsAct, the cone ring at 0x1100 of 16 entries: a push that has passed its filter, with the ring empty and full; a notice on its way. -/
theorem witness_cone_ring :
    ([(4 * 2 ^ 97, true), (16 + 4 * 2 ^ 97, false)] : List (Nat × Bool)).all (fun e => match (ringed e.1).ctxNat 1 0x1100 64 needBoth true with
      | .ok (h, s1) => decide ((ringed e.1).eng.pushes.find? (fun x => x.id = 9) = some aPush) && aPush.passed && !(ringed e.1).pushBehind aPush && ((ringed e.1).ctx 1).crbase.getLsbD 0 &&
          ((ringed e.1).ctx 1).crbase.toNat / 64 % 2 ^ 54 * 64 = 0x1100 && h = e.1 && decide ((h % 2 ^ 32 + 2 ^ 32 - h / 2 ^ 32 % 2 ^ 32) % 2 ^ 32 < 16) = e.2 &&
          (match s1.ctxWrite 1 (0x1100 + 64) (bytesOfNat 16 0) needWrite true none with | .ok s2 => (match s2.ctxWrite 1 0x1100 (bytesOfNat 64 0) needBoth true none with | .ok _ => true | .error _ => false) | .error _ => false)
      | .error _ => false) = true ∧
    ((State.reset.modEng fun e => { e with notices := [⟨9, ⟨0, 1, 0, 0⟩⟩] }).eng.notices.find? (fun x => x.id = 9) = some ⟨9, ⟨0, 1, 0, 0⟩⟩) := by decide +kernel

/-- BackgroundStepsAct, batches and woken waves: a bin 65,536 cycles after its last arrival, and one all of whose producers have ended; a wave at a port, which can be served, and one that waits for its ticket, each with a nop and with an iadd to perform. -/
theorem witness_batches_and_wakes :
    ([({ State.reset with cycle := 65536, bins := [aQueue 0] }, true), ({ State.reset with bins := [aQueue 1] }, false)] : List (State × Bool)).all (fun e => match e.1.bins.find? (fun x => x.id = 9) with
      | some q => q.bins.find? (fun x => x.key = 3) = some ⟨3, [7], 0⟩ && decide ((0 : Nat) + 65536 ≤ e.1.cycle.toNat) = e.2 && decide (q.producers ≤ q.producersEnded) = !e.2
      | none => false) = true ∧
    ([4, 8] : List Nat).all (fun k => match ((ready (.nop ⟨0⟩)).modWave 1 fun w => { w with wake := wakeOf k 0, waiting := some (.nop ⟨0⟩) }).wave? 1 with
      | some w => w.wakeKind = k && w.waiting = some (.nop ⟨0⟩) && ((ready (.nop ⟨0⟩)).modWave 1 fun w => { w with wake := wakeOf k 0, waiting := some (.nop ⟨0⟩) }).waitServed w &&
          (match (ready (.nop ⟨0⟩)).home? w with | some (ga, _) => ((ready (.nop ⟨0⟩)).modWave 1 fun w => { w with wake := wakeOf k 0, waiting := some (.nop ⟨0⟩) }).canIssue w.withdraw ga | none => false) && (match performWord (.nop ⟨0⟩) { ((ready (.nop ⟨0⟩)).modWave 1 fun w => { w with wake := wakeOf k 0, waiting := some (.nop ⟨0⟩) }).modWave 1 fun x =>
          { x.withdraw with time := if k = 4 then maxTime w.time w.releaser + 1 else w.time } with issuer := 1 } with
        | .next t => (match t.wave? 1 with | some x => x.wakeKind = 0 | none => false)
        | _ => false)
      | none => false) = true ∧
    ([4, 8] : List Nat).all (fun k => let i : Instr := .iadd ⟨0, 5, 0, 6, 7⟩
      match ((ready i).modWave 1 fun w => { w with wake := wakeOf k 0, waiting := some i }).wave? 1 with
      | some w => w.wakeKind = k && w.waiting = some i && ((ready i).modWave 1 fun w => { w with wake := wakeOf k 0, waiting := some i }).waitServed w && issuesWith { ((ready i).modWave 1 fun w => { w with wake := wakeOf k 0, waiting := some i }).modWave 1 fun x =>
          { x.withdraw with time := if k = 4 then maxTime w.time w.releaser + 1 else w.time } with issuer := 1 } i fun _ _ => true
      | none => false) = true := by decide +kernel

/-- CopiesArriveAndComplete: a piece that may arrive from global and from gang-local memory; a copy all of whose pieces have arrived, to global memory and to gang-local; a queue fence that is met; a gang without its line, which stays and which is about to leave. -/
theorem witness_copies :
    ([aCopy, { aCopy with ctrl := 1, dst := [0x1100, 0, 0, 0], src := [0, 0] }] : List Copy).all (fun k => decide ((copying k).copy? 9 = some k) && ((copying k).wave? 1).isSome && k.pieces.length = 1 && (copying k).copyMayRun k &&
      (match (copying k).wave? 1 with | some w => (copying k).released k w && !(copying k).mapsHeld k w && k.pieces.all (fun p => !(copying k).engineHeld w.core k.asid k.privileged (k.touches p)) | none => false) &&
      k.pieces.all fun p => (copying k).sourcePresent k p) = true ∧
    ([{ aCopy with arrived := [0] }, { aCopy with arrived := [0], ctrl := 1, dst := [0x1100, 0, 0, 0], src := [0, 0] }] : List Copy).all (fun k => k.fence = none && (copying k).copyMayRun k && (List.range k.pieces.length).all k.arrived.contains) = true ∧
    ((copying { aCopy with fence := some 3 }).fenceMet { aCopy with fence := some 3 } 3 = true) ∧ (aCopy.toGlobal = false ∧ aCopy.dstLines = [0] ∧ (copying aCopy).fifo = []) ∧
    ([none, some 5] : List (Option Nat)).all (fun o => (((copying aCopy).modGang 1 fun g => { g with absent := [0], leaving := o }).gang? 1).any fun g => g.leaving = o && g.absent = [0]) = true ∧
    (match (copying aCopy).wave? 1 with | some w => w.alive && w.gang = 1 && w.wakeKind ≠ 5 | none => false) = true := by decide +kernel

/-- MatrixEngineRuns: an mxbeg and another word that the arbiter grants; a pass and a drain that run; a latch all of whose members are there; a granted word whose tile has gone, one that ends its tile and one that folds a tile without entries. -/
theorem witness_matrix_engine :
    ([.mxbeg ⟨0, 1, 12, 28⟩, .mxend] : List Instr).all (fun i => decide (((ready (.nop ⟨0⟩)).modMatrix fun m => { m with table := [anEntry i] }).arbiter 0 = some (anEntry i)) && ((ready (.nop ⟨0⟩)).gridOfGang 1).isSome) = true ∧
    (match ((tiled (ready (.nop ⟨0⟩))).modMatrix fun m => { m with running := [anEntry .mxend] }).granted 0 with
      | some e => e = anEntry .mxend && ((tiled (ready (.nop ⟨0⟩))).runEntry e).isSome
      | none => false) = true ∧
    ([.mxdrnI32 4 28, .mxdrnI64 4 28, .mxdrnF32 4 28] : List Instr).all (fun i => (((tiled (ready (.nop ⟨0⟩))).modMatrix fun m => { m with running := [anEntry i] }).granted 0 = some (anEntry i) &&
      !(tiled (ready (.nop ⟨0⟩))).fenceHeld [] && decide ((tiled (ready (.nop ⟨0⟩))).tile? 1 0x8001 = some aTile))) = true ∧
    (match (latched .mxend).wave? 1 with | some w => w.alive && w.inLatch && w.teamAsked = none && allHeld ((latched .mxend).members w.gang w.team) .mxend && (latched .mxend).tableRoom (quadOf w.core) | none => false) = true ∧
    ([anEntry .mxend, { anEntry .mxend with tile := 6 }, anEntry (.mxfold 16)] : List MxEntry).all (fun e => decide ((tiled (ready (.nop ⟨0⟩))).tile? e.gang e.team = some aTile) && ((tiled (ready (.nop ⟨0⟩))).gridOfGang e.gang).isSome &&
      aTile.entries = []) = true := by decide +kernel

/-- MatrixEngineRuns, the arbiter: of an mxbeg of CLASS 1 and an mxend of another team, the mxbeg, while there is room, and else the mxend; of two words of one team the earlier; of a team with a frozen pass its mxend. -/
theorem witness_arbiter :
    let beg : MxEntry := { anEntry (.mxbeg ⟨0, 1, 12, 28⟩) with cls := 1, order := 1, team := 6 }
    ([([anEntry .mxend, beg], [], 1), ([anEntry .mxend, beg], [5, 6, 7, 8], 0), ([anEntry (.mxop ⟨0, 1, 20, 24, 28⟩), { anEntry .mxend with order := 1 }], [], 0), ([anEntry (.mxop ⟨0, 1, 20, 24, 28⟩), { anEntry .mxend with order := 1 }], [5], 1)] :
      List (List MxEntry × List Nat × Nat)).all (fun k =>
      let s := (ready (.nop ⟨0⟩)).modMatrix fun m => { m with table := k.1, tiles := k.2.1.map fun n => { aTile with id := n, frozen := some ⟨0, 0, 0, 0, 0, [], [], 0, 0⟩ } }
      decide ((s.eng.matrix.table.map fun x => x.order).Pairwise (· < ·)) && s.eng.matrix.running = [] && (s.arbiter 0).any fun e => e.order = k.2.2 && k.1.contains e) = true := by decide +kernel

/-- A tile of two cells in its first two rows, with an entry, and the state with its launch's slots of two planes and that tile. -/
def passing (cells : List (List (BitVec 24))) (granules : Nat) : Tile × State :=
  let t : Tile := { aTile with cells, granules, trap := true, entries := [(0, 2)] }
  (t, (withRecord ((2 * 2 ^ 2 + 2 * 2 ^ 6 + 2 ^ 11) * 2 ^ 384) (ready (.nop ⟨0⟩))).modMatrix fun m => { m with tiles := [t] })

/-- PassesAndDrainsCompute, passes: an mxop on two rows of ones, whose products fit their cells, and which freezes where a cell has no room for its carry. -/
theorem witness_passes :
    ([([[3, 4], [5, 6]], 1, true), ([[3, 0x7FFFFF]], 0, false)] : List (List (List (BitVec 24)) × Nat × Bool)).all (fun k =>
      let (t, s0) := passing k.1 k.2.1
      let s := s0.modGang 1 fun g => { g with bytes := g.bytes.setRange 0 [1, 0, 0, 0, 0, 0, 0, 0, 1] }
      let e : MxEntry := { anEntry (.mxop ⟨0, 0, 20, 24, 28⟩) with regs := [0, 8 + 16 * 2 ^ 16, 2048, 0, 8 + 1 * 2 ^ 16, 128, 2] }
      match s.gridOfGang 1, s.gang? 1, layoutIn e.regs 0, layoutIn e.regs 3 with
      | some gr, some g, some la, some lb => decide (s.tile? 1 0x8001 = some t) && !s.fenceHeld e.after && !t.scaled && s.passPresent gr t e.regs t.passes && (s.members 1 0x8001).all Wave.alive &&
          decide ((t.entries.map fun x => x.1).Nodup) && t.cells.all (fun r => r.length ≤ 512) && lb.apart 2 (gr.slot 0).pr (max t.depth 1) &&
          (let cycles := passCycles 2 (operandPlanes g s.fresh (gr.slot 0) la 128 (planesRead g 0 (gr.slot 0)) 0 32) (operandPlanes g (s.fresh + 8192) (gr.slot 0) lb 2 (planesRead g 0 (gr.slot 0)) 0 32);
            cycles.length = 4 && cycles.all (fun x => decide (-(2 ^ 17) ≤ x.2.1.weight * x.2.2.weight ∧ x.2.1.weight * x.2.2.weight ≤ 2 ^ 17)) &&
            (runCycles (t.granules * 256) (!t.trap && t.aux ≠ auxNone) false 2 (cycles.map fun x => (0, x)) ⟨t.cells, t.entries, [], none⟩).frozen.isNone = k.2.2)
      | _, _, _, _ => false) = true := by decide +kernel

/-- PassesAndDrainsCompute, drains: an integer drain to gang-local rows of 8 bytes, and one to a page that it holds; finite scales and a NaN. -/
theorem witness_drains :
    ([(0x10008, true), (8, false)] : List (Word × Bool)).all (fun k => let e : MxEntry := { anEntry (.mxdrnI32 4 28) with regs := [0x1000, 0, k.1, 2] }
      (tiled (ready (.nop ⟨0⟩))).eng.matrix.tiles = [aTile] && ((tiled (ready (.nop ⟨0⟩))).gang? 1).any (fun g => g.tags = []) && (drainDest e.regs).2.2 = k.2 && 2 * drainSize e.instr ≤ (drainDest e.regs).2.1 &&
        (tiled (ready (.nop ⟨0⟩))).gangs.all (fun g => g.tags = [])) = true ∧
    (([(⟨0, 1, 0x1000, 12, 0x6002F, 0x60000, 0⟩)] : List TlbEntry).find? (fun y => y.base = 0x1038 / 4096 * 4096)).isSome = true ∧ 0x1038 % 64 + [(0 : Byte)].length ≤ 64 ∧
    (f32.exp 0x3F800000 ≠ 2 ^ f32.ebits - 1) ∧ f32.isNan 0x7FC00000 = true := by decide +kernel

/-- PassesAndDrainsCompute, AccumulationIsExact: a sum within 24 bits; one that carries, with room for its entry; one that freezes; one that is folded; at the ends of the range; one of a scaled tile. -/
theorem witness_accumulation :
    ((accumulate ⟨4, false, 16, 0, 0, 0, false⟩ 3 1 5 ⟨[], [], [], none⟩).2.frozen = none) ∧ ((accumulate ⟨4, false, 16, 0, 0, 0, false⟩ 3 (2 ^ 23) 0x7FFFFF ⟨[], [(3, 1)], [], none⟩).2.entries = [(3, 2)]) ∧
    ((accumulate ⟨4, false, 16, 0, 0, 0, false⟩ 3 (-(2 ^ 23)) 0x800000 ⟨[], [(3, -511)], [], none⟩).2.frozen ≠ none) ∧ ((accumulate ⟨0, true, 16, 0, 0, 0, false⟩ 3 (2 ^ 23) 0x7FFFFF ⟨[], [], [], none⟩).2.frozen = none) ∧
    ((accumulate ⟨0, false, 16, 0, 0, 0, true⟩ 3 (2 ^ 23) 0x7FFFFF ⟨[], [], [], none⟩).2.frozen = none) := by
  decide +kernel

/-- QueriesAnswer: the last lane of a rast whose answer is read, whose root is the last that its pool does not hold, and which may be discarded; a geosync under way. -/
theorem witness_queries :
    (match posed.eng.queries with
      | q :: _ => decide (posed.eng.queries.find? (fun x => x.id = q.id) = some q) && q.dst + q.words ≤ 112 && q.lostWords.length = q.words && decide ((q.lanes.map fun l => l.lane).Nodup) &&
        (posed.wave? q.wave).any Wave.alive && (match q.lanes with
        | l :: _ => l.lane = 31 && decide (Entry.nodes ({ l with root := Entry.nodes l.entry } : QueryLane).entry ≤ ({ l with root := Entry.nodes l.entry } : QueryLane).root) && q.lanes.find? (fun x => x.lane = 31) = some l && (match q.answer l posed with | .ok (ws, _) => ws.length = q.words | .error _ => false)
        | [] => false)
      | [] => false) = true ∧
    ((State.reset.modEng fun e => { e with syncs := [⟨9, 1, 1, [0]⟩] }).eng.syncs.find? (fun x => x.id = 9) = some ⟨9, 1, 1, [0]⟩) := by decide +kernel

/-- GangsExpireAndMove: a quantum that is over with something in the FIFO; a quiet gang at blocking points, expired and yielding, one forced 130,000 cycles later, and one whose request was held 2^20 cycles; an evicted gang at the FIFO's head that fits. -/
theorem witness_gangs_leave_and_return :
    gang1 { ready (.nop ⟨0⟩) with fifo := [.grid 5], cycle := 8 * 325000 } (fun g gr => g.resident && g.expired = none && decide (g.placedAt + (({ ready (.nop ⟨0⟩) with fifo := [.grid 5], cycle := 8 * 325000 } : State).quanta.get gr.cls).toNat * 325000 ≤ 8 * 325000)) = true ∧
    gang1 leaving (fun g _ => leaving.quiet g.id && (leaving.wavesOf g.id).all leaving.atBlocking && g.expired.isSome && leaving.hasYielded g.id && !leaving.masked g.id && g.resident && g.leaving = none && !({ leaving with flights := [aLoad] } : State).quiet g.id && g.expired = some 0 && decide (0 + 2 ^ 20 ≤ leaving.cycle.toNat) &&
      (leaving.wavesOf g.id).any fun w => w.alive && w.heldSince = some 0) = true ∧
    gang1 evicted (fun g gr => g.saved = some (0x1000, 64) && evicted.fifo = [.gang g.id] && match evicted.choose gr g, evicted.ctxRead gr.asid 0x1000 64 needRead true with
      | some first, .ok (bs, s1) => (({ s1 with fifo := [] } : State).bringBack gr g first bs).isSome && evicted.waves.all fun w => !w.priv
      | _, _ => false) = true := by decide +kernel

/-- GangsExpireAndMove, evictions: no room in the save region; a region that is not mapped; one that is, with a transaction open and entries of other gangs in the tables. -/
theorem witness_evictions :
    gang1 (small 0x1000 0) (fun g gr => (((small 0x1000 0).modWaves (((small 0x1000 0).wavesOf g.id).map fun w => w.id) Wave.saving).withdrawEntries g.id).areaPlace gr.asid
      ((((small 0x1000 0).modWaves (((small 0x1000 0).wavesOf g.id).map fun w => w.id) Wave.saving).withdrawEntries g.id).saveArea gr g false).length = none) = true ∧
    ([(0x100000, false), (0x1000, true)] : List (Nat × Bool)).all (fun e => gang1 (small e.1 1) (fun g gr => match (((small e.1 1).modWaves (((small e.1 1).wavesOf g.id).map fun w => w.id) Wave.saving).withdrawEntries g.id).areaPlace gr.asid
        ((((small e.1 1).modWaves (((small e.1 1).wavesOf g.id).map fun w => w.id) Wave.saving).withdrawEntries g.id).saveArea gr g false).length with
      | some a => (match ((((small e.1 1).modWaves (((small e.1 1).wavesOf g.id).map fun w => w.id) Wave.saving).withdrawEntries g.id).noteReads gr.asid
          ((((small e.1 1).modWaves (((small e.1 1).wavesOf g.id).map fun w => w.id) Wave.saving).withdrawEntries g.id).recordLooksOf gr g.id)).ctxWrite gr.asid a
          ((((small e.1 1).modWaves (((small e.1 1).wavesOf g.id).map fun w => w.id) Wave.saving).withdrawEntries g.id).saveArea gr g false) needWrite true none with
        | .ok _ => e.2
        | .error _ => !e.2)
      | none => false)) = true := by decide +kernel

/-- CommandsRun: an entry to claim; an entry whose OP is not listed; launch records that cannot be read, that fail their checks and that pass them. -/
theorem witness_claims_and_launches :
    ((queued (ready (.nop ⟨0⟩))).sub? 1 = some ⟨1, 0x8000, 4, 0, 1⟩) ∧ ((queued (ready (.nop ⟨0⟩))).natAt 0x8000 4 ≠ (queued (ready (.nop ⟨0⟩))).natAt (0x8000 + 4) 4) ∧ 0x8000 % 64 = 0 ∧ (queued (ready (.nop ⟨0⟩))).poison = [] ∧
    ((queued (ready (.nop ⟨0⟩))).poisoned 0x8000 8 = none) ∧ ((queued (ready (.nop ⟨0⟩))).poisoned 0x8040 64 = none) ∧
    ([0, 8, 0x101, 1 + 2 ^ 32, 1 + 2 ^ 128] : List Nat).all (fun e => commandIs e (ready (.nop ⟨0⟩)) fun _ _ n => badEntry n) = true ∧
    (commandIs (1 + 0x200000 * 2 ^ 64) (ready (.nop ⟨0⟩)) fun c t e => !badEntry e && e % 256 = 1 && ((t.noteReads c.asid (t.recordLooks c.asid (e / 2 ^ 64 % 2 ^ 64) c.queue 0)).readRecord c.asid (e / 2 ^ 64 % 2 ^ 64) c.queue 0).isNone) = true ∧
    ([(0, false), (smallRecord, true)] : List (Nat × Bool)).all (fun r => commandIs (1 + 0x1100 * 2 ^ 64) ((ready (.nop ⟨0⟩)).putNat 0x60100 256 r.1) fun c t0 e => !badEntry e && (let t := t0.noteReads c.asid (t0.recordLooks c.asid (e / 2 ^ 64 % 2 ^ 64) c.queue 0); match t.readRecord c.asid (e / 2 ^ 64 % 2 ^ 64) c.queue 0 with
      | some g => decide (({ t with nextId := t.nextId + 1 } : State).launchStatus { g with id := t.nextId } none = 0) = r.2
      | none => false)) = true := by decide +kernel

/-- CommandsRun: descriptors of a shootdown and of a clean, which cannot be read and which can; a cancel of a TAG that no launch has, of a held launch and of a running one. -/
theorem witness_sweep_and_cancel_commands :
    ([3, 4] : List Nat).all (fun op => commandIs (op + 0x200000 * 2 ^ 64) (ready (.nop ⟨0⟩)) (fun c t e => !badEntry e && e % 256 = op && match t.readDesc c.asid (e / 2 ^ 64 % 2 ^ 64) true with | .error _ => true | .ok _ => false) &&
      commandIs (op + 0x1100 * 2 ^ 64) ((ready (.nop ⟨0⟩)).putNat 0x60100 32 (0x1000 + 2 ^ 64)) fun c t e => !badEntry e && match t.readDesc c.asid (e / 2 ^ 64 % 2 ^ 64) true with
        | .ok (d, u) => descRejected d (fun k => decide (k = 2 ∨ k = 1 ∧ op = 3)) = false && decide (t.eng.shootdowns.length < 16 ∧ t.eng.cleans.length < 16) && u.nextId = t.nextId
        | .error _ => false) = true ∧
    (commandIs (5 + 6 * 2 ^ 64) (phased .held (ready (.nop ⟨0⟩))) fun c t e => !badEntry e && (t.grids.find? (fun g => g.queue = c.queue && g.tag = e / 2 ^ 64 % 2 ^ 16 && g.consumerOf.isNone)).isNone) = true ∧
    ([.held, .running] : List GridPhase).all (fun p => commandIs (5 + 7 * 2 ^ 64) (phased p (ready (.nop ⟨0⟩))) fun c t e => !badEntry e && match t.grids.find? (fun g => g.queue = c.queue && g.tag = e / 2 ^ 64 % 2 ^ 16 && g.consumerOf.isNone) with
      | some g => g.phase = p
      | none => false) = true := by decide +kernel

/-- The placed launch, held for the word at an address, with no gang and with that SIGOUT. -/
def holding (addr sigout : Nat) : State := { phased .held (withRecord (addr * 2 ^ 1280 + sigout * 2 ^ 1920) (ready (.nop ⟨0⟩))) with gangs := [] }

/-- LaunchesWaitAndComplete: a held launch whose signal is met, one whose signal is not, whose read sets an accessed bit, and one whose signal cannot be read; a launch that is over; a SIGOUT counter; a launch with no result and one with a result. -/
theorem witness_launches :
    ([(0x1100, some true), (0x200000, none)] : List (Nat × Option Bool)).all (fun e => match (holding e.1 0).grid? 1 with
      | some g => (holding e.1 0).grid? g.id = some g && g.phase = .held && (holding e.1 0).signalsMet g = e.2 && g.sigaddr 0 = e.1
      | none => false) = true ∧
    (let s : State := withRecord (2 ^ 1345) (holding 0x1100 0);
      match s.grid? 1 with
      | some g => g.phase = .held && g.sigaddr 0 = 0x1100 && s.signalsMet g = some false && (s.noteReads g.asid g.signalLooks).mem ≠ s.mem && s.poison = []
      | none => false) = true ∧
    (match (phased .running (holding 0x1100 0x1100)).grid? 1 with
      | some g => (phased .running (holding 0x1100 0x1100)).grid? g.id = some g && (phased .running (holding 0x1100 0x1100)).launchOver g && g.sigout = 0x1100 && g.consumerOf = none && g.result = none &&
          ({ g with result := some (2, 0) } : Grid).result = some (2, 0) && (match (phased .running (holding 0x1100 0x1100)).ctxNat g.asid g.sigout 8 needBoth false with
            | .ok (v, s1) => (match s1.ctxWrite g.asid g.sigout (bytesOfNat 8 (v + 1)) needBoth false none with | .ok _ => v = 0 | .error _ => false)
            | .error _ => false)
      | none => false) = true := by decide +kernel

/-- CompletionsAndEvents: a queue with a held entry and room; one whose timer is over; an event that can be written; a FAULT whose slot is free and whose block lies beside the ring, and one whose slot's last record is not below HEAD; queue and ring headers at the ends of their ranges; a COUNT that is reached and one that is not. -/
theorem witness_completions :
    (({ queued (ready (.nop ⟨0⟩)) with cycle := 1300 } : State).comp? 0 = some ⟨0, 0x4000, 4, 3, 1, 1, 0, 1, 0, [0]⟩) ∧ (({ queued (ready (.nop ⟨0⟩)) with cycle := 1300 } : State).compRoom ⟨0, 0x4000, 4, 3, 1, 1, 0, 1, 0, [0]⟩ = true) ∧
    ((0 : Nat) + 1 * 1300 ≤ ({ queued (ready (.nop ⟨0⟩)) with cycle := 1300 } : State).cycle.toNat) ∧
    ((State.reset.modHost fun h => { h with ring := 0x4000, ringLog2 := 4, events := [⟨0, none⟩] }).eventReady ⟨0, none⟩ = true) ∧
    (let s : State := (State.reset.modCtx 1 fun c => { c with faultbuf := 0x1000000, fblog2n := 4 }).modHost fun h => { h with ring := 0x4000, ringLog2 := 4, slots := [(1, 0, 0)] };
      let base := (s.ctx 1).faultbuf.toNat + 2048 * ((s.ctx 1).nextFault % 2 ^ (s.ctx 1).fblog2n);
      s.host.ringLog2 ≤ 16 ∧ s.host.ring + 2 ^ 23 ≤ 2 ^ 51 ∧ base + 2048 ≤ 2 ^ 51 ∧ s.host.ring + 2 ^ 23 ≤ base ∧ (1, 0, 0) ∈ s.host.slots ∧ 2 ^ 31 ≤ (s.natAt s.host.ring 4 + 2 ^ 32 - (0 + 1)) % 2 ^ 32) ∧
    (((16 : Nat) ≤ 16) ∧ (2 ^ 51 - 2 ^ 21 + 2 ^ 21 ≤ 2 ^ 51) ∧ (2 ^ 51 - 2 ^ 23 + 2 ^ 23 ≤ 2 ^ 51) ∧ (1 ≤ 0 + 1) ∧ 0 + 1 < 2) := by decide +kernel

/-- SweepsComplete: a wave's shootdown with nothing under way, on a page that a line of the L1 and a translation lie on; its status word; a command's, the kiln's and the mailbox's, with no gang of their context left; a clean that names a modified line. -/
theorem witness_sweeps :
    (((ready (.nop ⟨0⟩)).modEng fun e => { e with shootdowns := [⟨9, .wave 1, 1, 0x1100, 0, 0x1000, 1, 1, false⟩] }).eng.shootdowns.find? (fun x => x.id = 9) = some ⟨9, .wave 1, 1, 0x1100, 0, 0x1000, 1, 1, false⟩) ∧
    (((ready (.nop ⟨0⟩)).modEng fun e => { e with shootdowns := [⟨9, .wave 1, 1, 0x1100, 0, 0x1000, 1, 1, false⟩] }).sweepReady ⟨9, .wave 1, 1, 0x1100, 0, 0x1000, 1, 1, false⟩ = true) ∧
    ([0x1100, 0x200000] : List Nat).all (fun d => (match (ready (.nop ⟨0⟩)).ctxWrite 1 (d + 16) (bytesOfNat 8 1) needBoth true none with | .ok _ => true | .error _ => false) = decide (d = 0x1100)) = true ∧
    ([.command 1 7 0x1100, .kiln, .mailbox] : List Poster).all (fun p => let w : Sweep := ⟨9, p, 1, 0x1100, 1, 0, 0, 2, false⟩
      let s := (ready (.nop ⟨0⟩)).modEng fun e => { e with shootdowns := [w] }
      s.eng.shootdowns.find? (fun x => x.id = 9) = some w && s.sweepReady w && s.gangs.all fun g => (s.grid? g.grid).any fun gr => gr.asid ≠ w.target) = true ∧
    (((ready (.nop ⟨0⟩)).modEng fun e => { e with cleans := [⟨9, .wave 1, 1, 0x1100, 0, 0x1000, 1, 1, false⟩] }).eng.cleans.find? (fun x => x.id = 9) = some ⟨9, .wave 1, 1, 0x1100, 0, 0x1000, 1, 1, false⟩) ∧
    ((ready (.nop ⟨0⟩)).cleanNames ⟨9, .wave 1, 1, 0x1100, 0, 0x1000, 1, 1, false⟩ ⟨0x60000 / 64, [], 0⟩ = true) ∧ ((ready (.nop ⟨0⟩)).cleanNames ⟨9, .wave 1, 1, 0x1100, 0, 0x1000, 1, 1, false⟩ ⟨5, [], 0⟩ = false) := by decide +kernel

/-- CheckpointsCopyMemory: commands that begin a checkpoint and a restore, whose descriptor is not as the table says, and whose descriptor cannot be read; a checkpoint of a drained device; addresses on both sides of the end of device memory and of the image; a page of an increment. -/
theorem witness_checkpoints :
    ([6, 7] : List Nat).all (fun op => commandIs (op + 0x1100 * 2 ^ 64) ((ready (.nop ⟨0⟩)).putNat 0x60100 64 (2 ^ 50 + 2 ^ 40 * 2 ^ 64)) (fun c t _ => !c.bad && c.op = op && t.eng.checkpoints = [] && match t.ctxNat c.asid c.addr 64 needRead true with
        | .ok (d, _) => decide (d / 2 ^ 129 % 2 ^ 383 = 0 ∧ d % 2 ^ 12 = 0 ∧ d / 2 ^ 50 % 2 ^ 14 = 1 ∧ 2 ^ 39 + 2 ^ 26 ≤ d / 2 ^ 64 % 2 ^ 64)
        | .error _ => false) &&
      commandIs (op + 0x1100 * 2 ^ 64) (ready (.nop ⟨0⟩)) (fun c t _ => !c.bad && c.op = op && match t.ctxNat c.asid c.addr 64 needRead true with | .ok (d, _) => decide (d / 2 ^ 50 % 2 ^ 14 ≠ 1) | .error _ => false) &&
      commandIs (op + 0x200000 * 2 ^ 64) (ready (.nop ⟨0⟩)) fun c t _ => !c.bad && c.op = op && match t.ctxNat c.asid c.addr 64 needRead true with | .ok _ => false | .error _ => true) = true ∧
    ((State.reset.modEng fun e => { e with checkpoints := [⟨9, .command 1 7 0, false, 2 ^ 50, false, 0⟩] }).drained = true) ∧
    ((State.reset.modEng fun e => { e with checkpoints := [⟨9, .command 1 7 0, false, 2 ^ 50, false, 0⟩] }).eng.checkpoints.find? (fun x => x.id = 9) = some ⟨9, .command 1 7 0, false, 2 ^ 50, false, 0⟩) ∧
    ((2 ^ 39 ≤ 2 ^ 50) ∧ (2 ^ 39 - 1 < 2 ^ 39) ∧ (2 ^ 50 + 2 ^ 39 ≤ 2 ^ 50 + 2 ^ 39) ∧ 2 ^ 27 - 1 < 2 ^ 27) := by decide +kernel

/-- The state with a Voxunet module of one segment at 0x1100, its launch record at 0x1200 and its descriptor at 0x1300. -/
def moduled (magic : Nat) : State := ((((ready (.nop ⟨0⟩)).putNat 0x60100 64 (magic + 2 ^ 32 + 5 * 2 ^ 40 + 8 * 2 ^ 48 + 2 ^ 96 + 64 * 2 ^ 160 + 84 * 2 ^ 192)).putNat 0x60140 20 (80 + 2 ^ 32 + 0xA0000000 * 2 ^ 128)).putNat
  0x60200 256 smallRecord).putNat 0x60300 16 (0x1100 + 0x1200 * 2 ^ 64)

/-- VoxLaunchesRun: a descriptor that cannot be read, a launch record that cannot, a module that its check refuses and one that passes; a segment not yet translated; a workgroup that regroups. -/
theorem witness_vox :
    (commandIs (2 + 0x200000 * 2 ^ 64) (ready (.nop ⟨0⟩)) fun c t _ => !c.bad && c.op = 2 && ((t.noteReads c.asid (t.voxLooks c)).readTable c.asid c.addr 16 1).isNone) = true ∧
    (commandIs (2 + 0x1300 * 2 ^ 64) ((moduled 0).putNat 0x60300 16 (0x1100 + 0x200000 * 2 ^ 64)) fun c t0 _ => !c.bad && c.op = 2 && (let t := t0.noteReads c.asid (t0.voxLooks c); match t.readTable c.asid c.addr 16 1 with
      | some l => (t.readRecord c.asid (l.headD 0 / 2 ^ 64 % 2 ^ 64) c.queue c.tag).isNone
      | none => false)) = true ∧
    ([(0x544E5856, true), (0, false)] : List (Nat × Bool)).all (fun e => commandIs (2 + 0x1300 * 2 ^ 64) (moduled e.1) fun c t0 _ => !c.bad && c.op = 2 && (let t := t0.noteReads c.asid (t0.voxLooks c); match t.readTable c.asid c.addr 16 1 with
      | some l => (match t.readRecord c.asid (l.headD 0 / 2 ^ 64 % 2 ^ 64) c.queue c.tag with
        | some g => (match t.checkModule c.asid (l.headD 0 % 2 ^ 64) g.wgthr with | .ok _ _ => e.2 | .bad _ _ => !e.2)
        | none => false)
      | none => false)) = true ∧
    gang1 { atSegmentEnd with code := [] } (fun _ gr => match gr.vox with | some m => m.segs[0]? = some (aSegment false) && !(({ atSegmentEnd with code := [] } : State).code.contains (aSegment false)) | none => false) = true ∧
    gang1 atSegmentEnd (fun ga gr => match gr.vox, atSegmentEnd.groups.find? (fun x => x.gang = ga.id && x.wg = 0) with
      | some m, some g => ga.resident && ga.expired = none && ((atSegmentEnd.wavesOfWg ga.id g.wg).any fun w => w.alive) && ((atSegmentEnd.wavesOfWg ga.id g.wg).all fun w => w.atEnd && w.wakeKind = 9 && w.ld = 0 && w.st = 0 && w.cp = 0 && !atSegmentEnd.trapDue w) &&
          decide (((atSegmentEnd.blocksOf ga.id g m.width).flatMap fun b => b.succ m.width (gr.regs - 16)).eraseDups.length ≤ 1)
      | _, _ => false) = true := by decide +kernel

/-- ContextAndQueueCommandsRun, contexts: CTXCREATE that is allowed and that is refused; CTXRESET, CTXDESTROY and CTXSET of a valid context and of another; the registers at the ends of CTXSET's ranges; a context that awaits its registers and entry, and one that awaits its entry. -/
theorem witness_context_commands :
    ([(2, none), (1, some 3), (4096, some 2)] : List (Nat × Option Nat)).all (fun e => mailReady 1 [e.1, 0x80001, 0, 0, 0, 0, 0, 0, 0, 0, 0, 0x9000, 12, 0] (queued (ready (.nop ⟨0⟩))) &&
      decide ((mailed 1 [e.1, 0x80001, 0, 0, 0, 0, 0, 0, 0, 0, 0, 0x9000, 12, 0] (queued (ready (.nop ⟨0⟩)))).createRefused = e.2)) = true ∧
    ([2, 3, 4] : List Nat).all (fun op => ([0x000, 0x020, 0x02A, 0x050, 0x057] : List Nat).all fun r => ([1, 5] : List Nat).all fun asid => mailReady op [asid, r, 7] (ready (.nop ⟨0⟩)) &&
      decide ((mailed op [asid, r, 7] (ready (.nop ⟨0⟩))).valid asid = decide (asid = 1))) = true ∧
    ([some (Context.zero 2), none] : List (Option Context)).all (fun c => (State.reset.modKiln fun k => { k with pending := some (2, some (0x80001, c)) }).kiln.pending = some (2, some (0x80001, c))) = true := by decide +kernel

/-- A state with another completion queue, 2, which nothing needs, and a header at 0xA000. -/
def spareQueue : State := ((queued (ready (.nop ⟨0⟩))).putNat 0xA000 8 0).putNat 0xA008 1 16 |>.modHost fun h => { h with comps := h.comps ++ [⟨2, 0x5000, 4, 3, 1, 1, 0, 0, 0, []⟩] }

/-- ContextAndQueueCommandsRun, queues: a new queue of each kind, and a number that exists, at the ends of the ranges; a submission queue that may be deleted and one with an entry posted; a completion queue that may be deleted and one that is needed; an event ring, and a LOG2N out of range. -/
theorem witness_queue_commands :
    ([0, 1] : List Nat).all (fun k => mailReady 0x10 [255 - 254 * k, 0xA000, 2, 4095] spareQueue && namedPa 0xA000 && (spareQueue.comp? 2).isSome && decide (spareQueue.natAt 0xA000 64 / 2 ^ 64 % 2 ^ 5 = 16) && decide (spareQueue.natAt 0xA000 64 / 2 ^ 69 = 0) &&
      decide ((spareQueue.sub? (255 - 254 * k)).isSome = decide (k = 1))) = true ∧
    ([0, 1] : List Nat).all (fun k => mailReady 0x11 [255 - 253 * k, 0xA000, 255, 256, 1023] spareQueue && decide (spareQueue.natAt 0xA000 64 % 2 ^ 32 = 0) && decide ((spareQueue.comp? (255 - 253 * k)).isSome = decide (k = 1))) = true ∧
    ([(0, true), (1, false)] : List (Nat × Bool)).all (fun e => mailReady 0x12 [0, 1] (spareQueue.putNat 0x8000 4 e.1) && ((spareQueue.putNat 0x8000 4 e.1).sub? 1).isSome &&
      ((mailed 0x12 [0, 1] (spareQueue.putNat 0x8000 4 e.1)).unfinished.all fun x => x.1 ≠ 1) = e.2) = true ∧
    ([(0, true), (2, false)] : List (Nat × Bool)).all (fun e => mailReady 0x12 [1, e.1] spareQueue && match (mailed 0x12 [1, e.1] spareQueue).comp? e.1 with
      | some q => (mailed 0x12 [1, e.1] spareQueue).compNeeded q = e.2
      | none => false) = true ∧
    (mailReady 0x40 [0xA000, 16] spareQueue && namedPa 0xA000 && mailReady 0x40 [0xA000, 17] spareQueue) = true := by decide +kernel

/-- The state in which the page at 0x1000 has a HOME, and the pins given. -/
def homed (home : Nat) (pins : List Pin) : State := (({ ready (.nop ⟨0⟩) with mem := (ready (.nop ⟨0⟩)).mem.setRange 0x50008 (bytesOfNat 8 (0x6002F + home * 2 ^ 9)) } : State)).modCaches fun c => { c with pins }

/-- DeviceCommandsRun: each command with arguments at the ends of its ranges and outside them; pins with and without room; an image that is empty, so not valid (of no image does the spec say that it passes, so its clause has no concrete witness); an opcode that is not listed; a running command. -/
theorem witness_device_commands :
    ([(0x20, [3, 64]), (0x20, [4, 1]), (0x20, [0, 65]), (0x30, [383]), (0x30, [384]), (0x31, []), (0x41, [63]), (0x41, [64]), (0x50, [1, 2 ^ 26]), (0x50, [0, 0]), (0x50, [2, 0]), (0x50, [1, 2 ^ 26 + 1]), (0x51, [1, 2 ^ 26]), (0x51, [0, 0]), (0x51, [2, 0]), (0x51, [1, 2 ^ 26 + 1]), (0x05, [])] : List (Nat × List Nat)).all
      (fun e => mailReady e.1 e.2 (ready (.nop ⟨0⟩))) = true ∧
    ((ready (.nop ⟨0⟩)).kiln.booted = false ∧ (verified ((ready (.nop ⟨0⟩)).kiln.slot true).image (ready (.nop ⟨0⟩)).kiln.floor).valid = false) ∧
    (mailReady 0x21 [1, 0x1000, 3] (homed 1 []) && (mailed 0x21 [1, 0x1000, 3] (homed 1 [])).pinTarget.isNone) = true ∧
    (mailReady 0x21 [1, 0x1000, 1] (homed 1 []) && match (mailed 0x21 [1, 0x1000, 1] (homed 1 [])).pinTarget with | some tr => tr.pages = [0x60] | none => false) = true ∧
    ([0, 1] : List Nat).all (fun n => match (mailed 0x21 [1, 0x1000, 2] (homed 2 [])).pinTarget with
      | some tr => ({ mailed 0x21 [1, 0x1000, 2] (homed 2 []) with pinsize := SMap.cells 0 [BitVec.ofNat 64 n] } : State).pinRoom 2 (leafOwner tr.leaf) tr.pages = decide (n = 1)
      | none => false) = true ∧
    (mailReady 0x22 [1, 0x1000, 3] (homed 1 []) && mailReady 0x22 [1, 0x1000, 1] (homed 1 []) && (mailed 0x22 [1, 0x1000, 3] (homed 1 [])).pinTarget.isNone && (mailed 0x22 [1, 0x1000, 1] (homed 1 [])).pinTarget.isSome) = true ∧
    (mailReady 0x22 [1, 0x1000, 1] (homed 1 [⟨0x60, 1, 0⟩]) && match (mailed 0x22 [1, 0x1000, 1] (homed 1 [⟨0x60, 1, 0⟩])).pinTarget with | some tr => tr.pages.contains 0x60 | none => false) = true ∧
    ((State.reset.modKiln fun k => { k with mbstat := 1 }).kiln.mbstat.getLsbD 0 = true) := by decide +kernel

/-- RegisterAndHostAccessesAct: the last argument register, quad and status register; TARGET values that are kept and 3; accesses of the host at the ends of a line, to a sound and a poisoned line, and to its own window; the last line of a stack. -/
theorem witness_host_accesses :
    (((30 : Nat) ≤ 30) ∧ ((95 : Nat) < 96) ∧ ((30 : Nat) < 31) ∧ ((2 : BitVec 64).toNat % 4 ≠ 3) ∧ ((2 : BitVec 64).getLsbD 2 = false) ∧ (3 : BitVec 64).toNat % 4 = 3) ∧
    ((State.reset.hdm 0x3F = true) ∧ (0x3F % 64 + 1 ≤ 64) ∧ (0x40 % 64 + 64 ≤ 64) ∧ (0x3F / 64 ∉ State.reset.poison) ∧ (({ State.reset with poison := [1] } : State).hdm 0x40 = true) ∧ (0x40 / 64 ∈ ({ State.reset with poison := [1] } : State).poison)) ∧
    ((2 ^ 51 - 64 < 2 ^ 52) ∧ windowOf (2 ^ 51 - 64) = 1) ∧ 2 ^ 33 - 1 < 2 ^ 33 := by decide +kernel

/-- The state in which quad 95 is in a power state, with moves in progress. -/
def powered (state : Nat) (moves : List (Nat × Nat)) : State := State.reset.modKiln fun k => { k with qpstat := k.qpstat.set 95 (BitVec.ofNat 64 state), moves }

/-- A load on its way to a peer package. -/
def toPeer : State := { translated (.ld32 ⟨0, 6, 2, 0, 0⟩) with flights := (translated (.ld32 ⟨0, 6, 2, 0, 0⟩)).flights.map fun a => { a with lanes := a.lanes.map fun l => { l with pa := 2 ^ 51 + 2 ^ 44 } } }

/-- QuadsMoveAndFailuresAreServed: the last quad with and without a move in progress, with and without a pinned region; a move of each kind that may end; spares left and none; a port with eight lanes; an access, a copy and a claimed command on their way to a peer. -/
theorem witness_quads :
    ((powered 0 []).kiln.disabled.contains 95 = false) ∧ ((powered 0 []).quadBusy 95 = false) ∧ ((powered 4 [(95, 1)]).quadBusy 95 = true) ∧
    ([0, 1] : List Nat).all (fun n => ((List.range 4).any fun j => ({ powered 0 [] with pinsize := SMap.cells 383 [BitVec.ofNat 64 n] } : State).pinsize.get (4 * 95 + j) ≠ 0) = decide (n = 1)) = true ∧
    ([(5, 0), (4, 1), (5, 2), (4, 2), (4, 4), (4, 6)] : List (Nat × Nat)).all (fun e => (powered e.1 [(95, e.2)]).kiln.moves.find? (fun m => m.1 = 95) = some (95, e.2) && (powered e.1 [(95, e.2)]).quadQuiet 95) = true ∧
    (((State.reset.kiln.spares.get (95 / 24)).toNat < 2) ∧ (2 ≤ ((State.reset.modKiln fun k => { k with spares := k.spares.set 3 2 }).kiln.spares.get (95 / 24)).toNat) ∧ State.reset.kiln.lanes.get 11 = 8) ∧
    (match toPeer.flights with | a :: _ => decide (toPeer.flight? a.id = some a) && a.lanes.any fun l => l.status = .ready && windowOf (toPeer.localPa l.pa) = 2 | [] => false) = true ∧
    (let s := { (copying aCopy) with mem := (copying aCopy).mem.setRange 0x50008 (bytesOfNat 8 (2 ^ 51 + 2 ^ 44 + 0x2F)) };
      (s.flight? 9).isNone && s.eng.copies = [aCopy] && !aCopy.allArrived && aCopy.globals.any (s.peerVa aCopy.asid) &&
        ((commanded (1 + 0x1100 * 2 ^ 64) { s with eng := (ready (.nop ⟨0⟩)).eng }).unitAtPeer 9).isSome) = true := by decide +kernel

/-- DeviceBootsAndRecovers: the recovery posture, with nothing staged, so that no image is valid (of no image does the spec say that it passes); a write that ends where BAR2 ends; the last die. -/
theorem witness_recovery :
    ((State.reset.modKiln fun k => { k with recovery := true }).kiln.recovery = true) ∧
    ((verified ((State.reset.modKiln fun k => { k with recovery := true }).kiln.staging.getRange 0 (State.reset.modKiln fun k => { k with recovery := true }).kiln.stagedLen) 0).valid = false) ∧
    (([0] : List Byte) ≠ [] ∧ 2 ^ 26 - 1 + ([0] : List Byte).length ≤ 2 ^ 26) ∧ ((3 : Nat) < 4) := by decide +kernel

/-! ### Results that the spec works out -/

/-- Lane 0 of wave 1 as an instruction leaves it, whose vector registers held these values before, in every lane. -/
def leaves (i : Instr) (regs : List (Nat × Nat)) (setup : State → State) (p : Wave → Bool) : Bool :=
  match exec i (setup ((ready i).modWave 1 fun w => regs.foldl (fun x r => x.setVs (BitVec.allOnes 32) r.1 fun _ => BitVec.ofNat 32 r.2) w)) with
  | .next t => match t.wave? 1 with
    | some w => p w
    | none => false
  | _ => false

/-- bfe of 0x1234_B6F0 with 0x0001_0808 is 0xFFFF_FFB6, and with b[16] = 0 it is 0xB6; bfi into 0xAAAA_AAAA of 5 with 0x0404 is 0xAAAA_AA5A (R291). -/
theorem test_bit_fields : (leaves (.bfe ⟨0, 1, 2, 3, 0⟩) [(2, 0x1234B6F0), (3, 0x10808)] id (fun w => w.getV 0 1 = 0xFFFFFFB6) && leaves (.bfe ⟨0, 1, 2, 3, 0⟩) [(2, 0x1234B6F0), (3, 0x0808)] id (fun w => w.getV 0 1 = 0xB6) &&
    leaves (.bfi ⟨0, 1, 2, 3, 0⟩) [(1, 0xAAAAAAAA), (2, 5), (3, 0x0404)] id fun w => w.getV 0 1 = 0xAAAAAA5A) = true := by decide +kernel

/-- Shifts by 32 and more, and a rotation by 33 (R290). -/
theorem test_shift_amounts : (leaves (.shl ⟨0, 1, 2, 3, 0⟩) [(2, 5), (3, 32)] id (fun w => w.getV 0 1 = 0) && leaves (.sar ⟨0, 1, 2, 3, 0⟩) [(2, 0x80000000), (3, 40)] id (fun w => w.getV 0 1 = 0xFFFFFFFF) &&
    leaves (.rol ⟨0, 1, 2, 3, 0⟩) [(2, 0x80000001), (3, 33)] id fun w => w.getV 0 1 = 3) = true := by decide +kernel

/-- Under sat: an unsigned 3 − 5 is 0, a signed 0x7FFF_FFFF + 1 is 0x7FFF_FFFF, and a pack of 70,000 and −5 is 0xFFFB_7FFF (R289, R304). -/
theorem test_saturation : (leaves (.isub ⟨0, 1, 2, 3, 0⟩) [(2, 3), (3, 5)] (hinted (.hintSat 0)) (fun w => w.getV 0 1 = 0) &&
    leaves (.iadd ⟨0, 1, 2, 3, 0⟩) [(2, 0x7FFFFFFF), (3, 1)] (hinted (.hintSat 1)) (fun w => w.getV 0 1 = 0x7FFFFFFF) &&
    leaves (.pack ⟨0, 1, 2, 3, 0⟩) [(2, 70000), (3, 0xFFFFFFFB)] (hinted (.hintSat 1)) fun w => w.getV 0 1 = 0xFFFB7FFF) = true := by decide +kernel

/-- A wave whose lanes 0 to 3 alone live, with the values of the spec's example in v3. -/
def fourLanes (s : State) : State := s.modWave 1 fun w => ((((({ w with ended := 0xFFFFFFF0 } : Wave).setV 0 3 0x4B800000).setV 1 3 0x3F800000).setV 2 3 0x3F800000).setV 3 3 0xCB800000)

/-- redux.add.f32 over 2^24, 1.0, 1.0 and −2^24 is 1.0, and scan writes 2^24, 2^24, 2^24 and 1.0 (R310, R311). -/
theorem test_tree_sums : (leaves (.redux ⟨0, 4, 3, 1⟩) [] fourLanes (fun w => w.getS 4 = 0x3F800000) &&
    leaves (.scan ⟨0, 4, 3, 1⟩) [] fourLanes fun w => (List.range 4).map (fun l => w.getV l 4) = [0x4B800000, 0x4B800000, 0x4B800000, 0x3F800000]) = true := by decide +kernel

/-- rng and rng.f32 in lane 0 of the first wave with v7 = 0 (R423). -/
theorem test_rng : (leaves (.rng ⟨0, 6, 7, 0⟩) [] id (fun w => w.getV 0 6 = 0x52862660 && w.getV 0 7 = 1) && leaves (.rng ⟨0, 6, 7, 1⟩) [] id fun w => w.getV 0 6 = 0x3EA50C4C) = true := by decide +kernel

/-- The tables of the walk that the spec works out. -/
def walked : State := { State.reset with mem := ([(State.reset.ctxBase + 40, 0x100001), (0x100000, 0x108001), (0x108000, 0x109001), (0x109240, 0x110001), (0x110D10, 0x11A001), (0x11AB38, 0x317C05E027)] : List (Nat × Nat)).foldl (fun m e => SMap.setRange m e.1 (bytesOfNat 8 e.2)) [] }

/-- The walk of 0x12_3456_7ABC in context 5: its physical address, its side record, and the slice of its line, 61 (R19 to R25, R63). -/
theorem test_walk : (match walk walked 5 0x1234567ABC needWrite false with | .ok t => decide (t.pa = 0x317C05EABC ∧ t.side = 0x118590 ∧ t.log2 = 12) | .error _ => false) = true ∧ homeSlice 0x317C05EABC = 61 := by decide +kernel

/-- The chunk of column 37, plane 3, block 1, with BANK 2: 0x46B0 (R359). -/
theorem test_bank_permutation : (⟨0x4000, 2, 8, 2, 1024⟩ : Layout).at_ 37 3 1 = 0x46B0 := by decide +kernel

/-- The cone-ring entry of the level-of-detail example: resource 7, level 0, page 3, context 5, TIME 0x2_1A4F (R91); its status word (R83). -/
theorem test_cone_entry : (coneEntry 7 0 3 5 0 0 0 + coneTime (0x21A4F * 1024)).toNat = 0x0050000003000007 + 0x21A4F0 * 2 ^ 64 ∧ lodStatus 1 2 2 0 = 0x221 := by decide +kernel

/-- The pool of the isect example: one node, at 0x1100, with NBITS 2. -/
def onePool : Asker := ⟨0, 1, false, 0, BitVec.ofNat 512 (0x1100 + 64 * 2 ^ 64 + 3 * 2 ^ 128 + 2 ^ 256), 0, [], false⟩

/-- Both rays of the isect example: a front hit at t = 1, and a tie that goes to the other triangle (R248, R249, R403). -/
theorem test_isect : (match onePool.isect [0x40204200, 0x00070002, 0xFF000000, 0xFFFFFFFF, 0xFF000000, 0xFFFFFFFF, 0xFF000000, 0xFFFFFFFF, 0, 0, 1, 0, 0, 0, 0, 0x7FF00000] ((ready (.nop ⟨0⟩)).putNat 0x60100 64 8),
      onePool.isect [0x40204200, 0x00070002, 0, 0, 0, 0, 0xFF000000, 0xFFFFFFFF, 0, 0, 1, 0, 0, 0, 0, 0x7FF00000] ((ready (.nop ⟨0⟩)).putNat 0x60100 64 8) with
    | .ok (a, _), .ok (b, _) => decide (a = [0, 0x3FF00000, 0] ∧ b = [0, 0x7FF00000, 0x00030000])
    | _, _ => false) = true := by decide +kernel

/-- A pass adds 2^20 to a cell at 7,340,032: it wraps to −8,388,608 with an entry of 1, in the example of R183. -/
theorem test_carry : (match accumulate ⟨256, true, 16, 0, 0, 0, false⟩ 3 (2 ^ 20) 0x700000 ⟨[], [], [], none⟩ with | (c, a) => decide (c.toInt = -8388608) && decide (a.entries = [(3, 1)])) = true := by decide +kernel


/-- A segment's native code (R430): vlane is read from a scratch register that a word placed before forms, v111 from v(VREGS + 1), s21 from v(VREGS + 3); the PC map counts both (R440). -/
theorem test_native_code : let e : CodeEntry := ⟨[BitVec.ofNat 32 (1 * 2 ^ 15 + 125 * 2 ^ 8 + 111 * 2), BitVec.ofNat 32 (1 * 2 ^ 15 + 2 * 2 ^ 8 + 21 * 2 + 1), 0xA0000005], 3, 32, false⟩
    e.native.map (fun x => x.2.toNat) = [0x38000000 + 42 * 2 ^ 15 + 125 * 2 ^ 8 + 7, 1 * 2 ^ 15 + 42 * 2 ^ 8 + 33 * 2, 1 * 2 ^ 15 + 2 * 2 ^ 8 + 35 * 2, 0xA0000005, 0xB0000000] ∧
    e.pcMap = [0x00000000, 0x00010002, 0x00020003] := by decide +kernel

/-- Texel 0 of block-compressed blocks: a BC3 block of one red endpoint, a BC7 block of zeros, an ASTC void-extent block, a malformed and an HDR one (R69). -/
theorem test_blocks : (decodeTexel 0x40 0x000000000000F800000000000000FFFF 0).toNat = 0xFF0000FF ∧ (decodeTexel 0x42 0x100 0).toNat = 0 ∧
    (decodeTexel 0x43 0xFFFF12348000FF00FFFFFFFFFFFFFDFC 5).toNat = 0xFF1280FF ∧ (decodeTexel 0x43 0xFFFF12348000FF00FFFFFFFFFFFFFFFC 5).toNat = 0xFFFF00FF ∧
    (decodeTexel 0x43 0x1FC 0).toNat = 0xFFFF00FF := by decide +kernel
end Sys2Proof.Tests
end

section
/-! SUPPORT. A word that decodes to an instruction is that instruction's encoding (R260, R275, R276, R279). -/

namespace Sys2Proof

/-! ### The fields of a word, and what the formats make of them -/

@[simp] theorem fieldAt_toNat (w : Word) (lo len : Nat) : (fieldAt w lo len).toNat = fieldNat w lo len := BitVec.toNat_ofNat _ _

/-- The sum of adjacent fields of a word in their places, from bit `lo` up, by their widths. -/
def fieldSum (w : Word) : Nat → List Nat → Nat
  | _, [] => 0
  | lo, n :: ns => fieldNat w lo n * 2 ^ lo + fieldSum w (lo + n) ns

/-- Adjacent fields, each in its place, make up the word's bits from the first field on. -/
theorem fieldSum_add_mod (w : Word) (lo : Nat) (ns : List Nat) : fieldSum w lo ns + w.toNat % 2 ^ lo = w.toNat % 2 ^ (lo + ns.sum) := by
  induction ns generalizing lo with
  | nil => simp [fieldSum]
  | cons n ns ih =>
    have hfield : w.toNat % 2 ^ (lo + n) = w.toNat % 2 ^ lo + 2 ^ lo * fieldNat w lo n := by rw [Nat.pow_add, Nat.mod_mul]; rfl
    rw [fieldSum, List.sum_cons, ← Nat.add_assoc, ← ih (lo + n), hfield, Nat.mul_comm]
    omega

/-- Fields that tile the word below its major make up the word without it. -/
theorem fieldSum_tiling (w : Word) (ns : List Nat) (h : ns.sum = 25) : fieldSum w 0 ns = w.toNat % 2 ^ 25 := by
  have := fieldSum_add_mod w 0 ns
  rw [h, Nat.pow_zero, Nat.mod_one] at this
  exact this

/-! Each format's fields in their places are the word below its major, less the bits that the format leaves to the row. -/

@[simp] theorem FmtR.place_ofWord (w : Word) : (FmtR.ofWord w).place = w.toNat % 2 ^ 25 := by
  simp only [← fieldSum_tiling w [1, 7, 7, 7, 3] rfl, place, ofWord, fieldAt_toNat, fieldSum, Nat.reduceAdd]; omega

@[simp] theorem FmtP.place_ofWord (w : Word) : (FmtP.ofWord w).place = w.toNat % 2 ^ 25 := by
  simp only [← fieldSum_tiling w [1, 7, 7, 3, 4, 3] rfl, place, ofWord, fieldAt_toNat, fieldSum, Nat.reduceAdd]; omega

@[simp] theorem FmtSel.place_ofWord (w : Word) : (FmtSel.ofWord w).place = w.toNat % 2 ^ 25 := by
  simp only [← fieldSum_tiling w [1, 7, 7, 7, 3] rfl, place, ofWord, fieldAt_toNat, fieldSum, Nat.reduceAdd]; omega

@[simp] theorem FmtSh.place_ofWord (w : Word) : (FmtSh.ofWord w).place = w.toNat % 2 ^ 25 - fieldNat w 5 3 * 2 ^ 5 := by
  simp only [← fieldSum_tiling w [5, 3, 7, 7, 3] rfl, place, ofWord, fieldAt_toNat, fieldSum, Nat.reduceAdd]; omega

@[simp] theorem FmtSh64.place_ofWord (w : Word) : (FmtSh64.ofWord w).place = w.toNat % 2 ^ 25 - fieldNat w 6 2 * 2 ^ 6 := by
  simp only [← fieldSum_tiling w [6, 2, 7, 7, 3] rfl, place, ofWord, fieldAt_toNat, fieldSum, Nat.reduceAdd]; omega

@[simp] theorem FmtI.place_ofWord (w : Word) : (FmtI.ofWord w).place = w.toNat % 2 ^ 25 := by
  simp only [← fieldSum_tiling w [8, 7, 7, 3] rfl, place, ofWord, fieldAt_toNat, fieldSum, Nat.reduceAdd]; omega

@[simp] theorem FmtMovi.place_ofWord (w : Word) : (FmtMovi.ofWord w).place = w.toNat % 2 ^ 25 - fieldNat w 8 7 * 2 ^ 8 := by
  simp only [← fieldSum_tiling w [8, 7, 7, 3] rfl, place, ofWord, fieldAt_toNat, fieldSum, Nat.reduceAdd]; omega

@[simp] theorem FmtU.place_ofWord (w : Word) : (FmtU.ofWord w).place = w.toNat % 2 ^ 25 - fieldNat w 8 7 * 2 ^ 8 := by
  simp only [← fieldSum_tiling w [1, 7, 7, 7, 3] rfl, place, ofWord, fieldAt_toNat, fieldSum, Nat.reduceAdd]; omega

@[simp] theorem FmtCvt.place_ofWord (w : Word) : (FmtCvt.ofWord w).place = w.toNat % 2 ^ 25 := by
  simp only [← fieldSum_tiling w [1, 7, 3, 4, 7, 3] rfl, place, ofWord, fieldAt_toNat, fieldSum, Nat.reduceAdd]; omega

@[simp] theorem FmtCvtF.place_ofWord (w : Word) : (FmtCvtF.ofWord w).place = w.toNat % 2 ^ 25 - fieldNat w 8 1 * 2 ^ 8 := by
  simp only [← fieldSum_tiling w [1, 7, 1, 2, 4, 7, 3] rfl, place, ofWord, fieldAt_toNat, fieldSum, Nat.reduceAdd]; omega

@[simp] theorem FmtUnpk.place_ofWord (w : Word) : (FmtUnpk.ofWord w).place = w.toNat % 2 ^ 25 := by
  simp only [← fieldSum_tiling w [1, 7, 7, 7, 3] rfl, place, ofWord, fieldAt_toNat, fieldSum, Nat.reduceAdd]; omega

@[simp] theorem FmtVote.place_ofWord (w : Word) : (FmtVote.ofWord w).place = w.toNat % 2 ^ 25 - fieldNat w 0 8 - fieldNat w 11 1 * 2 ^ 11 := by
  simp only [← fieldSum_tiling w [8, 3, 1, 3, 7, 3] rfl, place, ofWord, fieldAt_toNat, fieldSum, Nat.reduceAdd]; omega

@[simp] theorem FmtRdx.place_ofWord (w : Word) : (FmtRdx.ofWord w).place = w.toNat % 2 ^ 25 - fieldNat w 0 1 := by
  simp only [← fieldSum_tiling w [1, 7, 7, 7, 3] rfl, place, ofWord, fieldAt_toNat, fieldSum, Nat.reduceAdd]; omega

@[simp] theorem FmtBra.place_ofWord (w : Word) : (FmtBra.ofWord w).place = w.toNat % 2 ^ 25 := by
  simp only [← fieldSum_tiling w [22, 3] rfl, place, ofWord, fieldAt_toNat, fieldSum, Nat.reduceAdd]; omega

@[simp] theorem FmtA1.place_ofWord (w : Word) : (FmtA1.ofWord w).place = w.toNat % 2 ^ 25 - fieldNat w 0 8 - fieldNat w 15 7 * 2 ^ 15 := by
  simp only [← fieldSum_tiling w [8, 7, 7, 3] rfl, place, ofWord, fieldAt_toNat, fieldSum, Nat.reduceAdd]; omega

@[simp] theorem FmtC.place_ofWord (w : Word) : (FmtC.ofWord w).place = w.toNat % 2 ^ 25 := by
  simp only [← fieldSum_tiling w [15, 7, 3] rfl, place, ofWord, fieldAt_toNat, fieldSum, Nat.reduceAdd]; omega

@[simp] theorem FmtDA.place_ofWord (w : Word) : (FmtDA.ofWord w).place = w.toNat % 2 ^ 25 - fieldNat w 0 8 := by
  simp only [← fieldSum_tiling w [8, 7, 7, 3] rfl, place, ofWord, fieldAt_toNat, fieldSum, Nat.reduceAdd]; omega

@[simp] theorem FmtG0.place_ofWord (w : Word) : (FmtG0.ofWord w).place = w.toNat % 2 ^ 25 - fieldNat w 0 22 := by
  simp only [← fieldSum_tiling w [22, 3] rfl, place, ofWord, fieldAt_toNat, fieldSum, Nat.reduceAdd]; omega

@[simp] theorem FmtBar.place_ofWord (w : Word) : (FmtBar.ofWord w).place = w.toNat % 2 ^ 25 - fieldNat w 4 18 * 2 ^ 4 := by
  simp only [← fieldSum_tiling w [4, 18, 3] rfl, place, ofWord, fieldAt_toNat, fieldSum, Nat.reduceAdd]; omega

@[simp] theorem FmtNet.place_ofWord (w : Word) : (FmtNet.ofWord w).place = w.toNat % 2 ^ 25 - fieldNat w 3 19 * 2 ^ 3 := by
  simp only [← fieldSum_tiling w [3, 19, 3] rfl, place, ofWord, fieldAt_toNat, fieldSum, Nat.reduceAdd]; omega

@[simp] theorem FmtM.place_ofWord (w : Word) : (FmtM.ofWord w).place = w.toNat % 2 ^ 25 := by
  simp only [← fieldSum_tiling w [2, 6, 7, 7, 3] rfl, place, ofWord, fieldAt_toNat, fieldSum, Nat.reduceAdd]; omega

@[simp] theorem FmtL.place_ofWord (w : Word) : (FmtL.ofWord w).place = w.toNat % 2 ^ 25 := by
  simp only [← fieldSum_tiling w [3, 4, 5, 3, 7, 3] rfl, place, ofWord, fieldAt_toNat, fieldSum, Nat.reduceAdd]; omega

@[simp] theorem FmtA.place_ofWord (w : Word) : (FmtA.ofWord w).place = w.toNat % 2 ^ 25 := by
  simp only [← fieldSum_tiling w [2, 4, 5, 5, 6, 3] rfl, place, ofWord, fieldAt_toNat, fieldSum, Nat.reduceAdd]; omega

@[simp] theorem FmtAcas.place_ofWord (w : Word) : (FmtAcas.ofWord w).place = w.toNat % 2 ^ 25 := by
  simp only [← fieldSum_tiling w [2, 4, 5, 5, 6, 3] rfl, place, ofWord, fieldAt_toNat, fieldSum, Nat.reduceAdd]; omega

@[simp] theorem FmtRed.place_ofWord (w : Word) : (FmtRed.ofWord w).place = w.toNat % 2 ^ 25 - fieldNat w 17 5 * 2 ^ 17 := by
  simp only [← fieldSum_tiling w [2, 4, 5, 5, 1, 5, 3] rfl, place, ofWord, fieldAt_toNat, fieldSum, Nat.reduceAdd]; omega

@[simp] theorem FmtMcst.place_ofWord (w : Word) : (FmtMcst.ofWord w).place = w.toNat % 2 ^ 25 - fieldNat w 2 1 * 2 ^ 2 - fieldNat w 4 4 * 2 ^ 4 := by
  simp only [← fieldSum_tiling w [2, 1, 1, 4, 7, 7, 3] rfl, place, ofWord, fieldAt_toNat, fieldSum, Nat.reduceAdd]; omega

@[simp] theorem FmtRdst.place_ofWord (w : Word) : (FmtRdst.ofWord w).place = w.toNat % 2 ^ 25 - fieldNat w 2 1 * 2 ^ 2 := by
  simp only [← fieldSum_tiling w [2, 1, 1, 4, 7, 7, 3] rfl, place, ofWord, fieldAt_toNat, fieldSum, Nat.reduceAdd]; omega

@[simp] theorem FmtTxc.place_ofWord (w : Word) : (FmtTxc.ofWord w).place = w.toNat % 2 ^ 25 - fieldNat w 0 15 - fieldNat w 18 4 * 2 ^ 18 := by
  simp only [← fieldSum_tiling w [15, 3, 4, 3] rfl, place, ofWord, fieldAt_toNat, fieldSum, Nat.reduceAdd]; omega

@[simp] theorem FmtFence.place_ofWord (w : Word) : (FmtFence.ofWord w).place = w.toNat % 2 ^ 25 - fieldNat w 2 1 * 2 ^ 2 - fieldNat w 6 16 * 2 ^ 6 := by
  simp only [← fieldSum_tiling w [2, 1, 3, 16, 3] rfl, place, ofWord, fieldAt_toNat, fieldSum, Nat.reduceAdd]; omega

@[simp] theorem FmtWait.place_ofWord (w : Word) : (FmtWait.ofWord w).place = w.toNat % 2 ^ 25 - fieldNat w 16 6 * 2 ^ 16 := by
  simp only [← fieldSum_tiling w [4, 4, 4, 4, 6, 3] rfl, place, ofWord, fieldAt_toNat, fieldSum, Nat.reduceAdd]; omega

@[simp] theorem FmtX.place_ofWord (w : Word) : (FmtX.ofWord w).place = w.toNat % 2 ^ 25 - fieldNat w 0 4 := by
  simp only [← fieldSum_tiling w [4, 5, 5, 5, 3, 3] rfl, place, ofWord, fieldAt_toNat, fieldSum, Nat.reduceAdd]; omega

@[simp] theorem FmtBeg.place_ofWord (w : Word) : (FmtBeg.ofWord w).place = w.toNat % 2 ^ 25 - fieldNat w 0 4 - fieldNat w 9 5 * 2 ^ 9 := by
  simp only [← fieldSum_tiling w [4, 5, 5, 5, 3, 3] rfl, place, ofWord, fieldAt_toNat, fieldSum, Nat.reduceAdd]; omega

@[simp] theorem FmtK.place_ofWord (w : Word) : (FmtK.ofWord w).place = w.toNat % 2 ^ 25 - fieldNat w 0 1 := by
  simp only [← fieldSum_tiling w [1, 2, 1, 3, 5, 5, 5, 3] rfl, place, ofWord, fieldAt_toNat, fieldSum, Nat.reduceAdd]; omega

@[simp] theorem FmtKf.place_ofWord (w : Word) : (FmtKf.ofWord w).place = w.toNat % 2 ^ 25 - fieldNat w 0 3 - fieldNat w 7 10 * 2 ^ 7 - fieldNat w 21 1 * 2 ^ 21 := by
  simp only [← fieldSum_tiling w [3, 1, 3, 10, 4, 1, 3] rfl, place, ofWord, fieldAt_toNat, fieldSum, Nat.reduceAdd]; omega

@[simp] theorem FmtG.place_ofWord (w : Word) : (FmtG.ofWord w).place = w.toNat % 2 ^ 25 - fieldNat w 0 3 := by
  simp only [← fieldSum_tiling w [3, 5, 7, 7, 3] rfl, place, ofWord, fieldAt_toNat, fieldSum, Nat.reduceAdd]; omega

@[simp] theorem FmtGs.place_ofWord (w : Word) : (FmtGs.ofWord w).place = w.toNat % 2 ^ 25 - fieldNat w 0 3 - fieldNat w 8 14 * 2 ^ 8 := by
  simp only [← fieldSum_tiling w [3, 5, 14, 3] rfl, place, ofWord, fieldAt_toNat, fieldSum, Nat.reduceAdd]; omega

@[simp] theorem FmtY.place_ofWord (w : Word) : (FmtY.ofWord w).place = w.toNat % 2 ^ 25 - fieldNat w 0 3 := by
  simp only [← fieldSum_tiling w [3, 12, 7, 3] rfl, place, ofWord, fieldAt_toNat, fieldSum, Nat.reduceAdd]; omega

@[simp] theorem FmtTret.place_ofWord (w : Word) : (FmtTret.ofWord w).place = w.toNat % 2 ^ 25 - fieldNat w 0 3 - fieldNat w 4 18 * 2 ^ 4 := by
  simp only [← fieldSum_tiling w [3, 1, 18, 3] rfl, place, ofWord, fieldAt_toNat, fieldSum, Nat.reduceAdd]; omega

@[simp] theorem FmtSmask.place_ofWord (w : Word) : (FmtSmask.ofWord w).place = w.toNat % 2 ^ 25 - fieldNat w 0 3 - fieldNat w 4 18 * 2 ^ 4 := by
  simp only [← fieldSum_tiling w [3, 1, 18, 3] rfl, place, ofWord, fieldAt_toNat, fieldSum, Nat.reduceAdd]; omega

@[simp] theorem FmtD.place_ofWord (w : Word) : (FmtD.ofWord w).place = w.toNat % 2 ^ 25 - fieldNat w 0 15 := by
  simp only [← fieldSum_tiling w [15, 7, 3] rfl, place, ofWord, fieldAt_toNat, fieldSum, Nat.reduceAdd]; omega

@[simp] theorem FmtRng.place_ofWord (w : Word) : (FmtRng.ofWord w).place = w.toNat % 2 ^ 25 - fieldNat w 0 3 - fieldNat w 4 4 * 2 ^ 4 := by
  simp only [← fieldSum_tiling w [3, 1, 4, 7, 7, 3] rfl, place, ofWord, fieldAt_toNat, fieldSum, Nat.reduceAdd]; omega

/-! ### Decoding, then encoding -/

/-- The decoder's answer for a word, where it is an instruction, is one whose row makes that very word (R275, R276). -/
def Encodes (r : Except DecodeError Instr) (w : Word) : Prop := ∀ i, r = .ok i → encodeNat i = some w.toNat

@[simp] theorem encodes_error (e : DecodeError) (w : Word) : Encodes (.error e) w := fun _ h => nomatch h

@[simp] theorem encodes_ok (i : Instr) (w : Word) : Encodes (.ok i) w ↔ encodeNat i = some w.toNat :=
  ⟨fun h => h i rfl, fun h j hj => by cases hj; exact h⟩

theorem encodes_ite (c : Prop) [Decidable c] (a b : Except DecodeError Instr) (w : Word) :
    Encodes (if c then a else b) w ↔ (c → Encodes a w) ∧ (¬c → Encodes b w) := by
  split <;> simp [*]

/-- Every row that the decoder accepts has the row's encoding of the word's fields as its word: the major, the row's fixed bits and the fields of its format tile the word. -/
theorem decodeMajor_encodes (m : Nat) (w : Word) (h : w.toNat / 2 ^ 25 = m) : Encodes (decodeMajor m w) w := by
  unfold decodeMajor
  -- one goal for each major; under the form condition of each of its rows, the row's base and fields are to make the word
  split
  all_goals simp only [encodes_ite, encodes_ok, encodes_error, implies_true, and_true, encodeNat, Option.some.injEq]
  all_goals simp [fieldNat]
  all_goals omega

/-- A word that decodes is the encoding of what it decodes to: no bit of it is ignored. -/
theorem encode_of_decode {i : Instr} {w : Word} (h : decode w = .ok i) : encode i = some w := by
  rw [encode, decodeMajor_encodes _ w rfl i h, Option.map_some, BitVec.ofNat_toNat, BitVec.setWidth_eq]

/-- A word that no instruction encodes decodes to none. -/
theorem decode_error_of_unencoded {w : Word} (h : ∀ i, encode i ≠ some w) : ∃ e, decode w = .error e := by
  cases hd : decode w with
  | error e => exact ⟨e, rfl⟩
  | ok i => exact absurd (encode_of_decode hd) (h i)

end Sys2Proof
end

section
/-! PROOFS. Words that are not performed (O12), and the host's writes to registers and accesses to memory (O58). -/

namespace Sys2Proof.Machine

/-! ### Words that are not performed (R6, R186, R192, R279) -/

/-- The ILLOP report of a group at a word: the word, its address, and the whole group as the lanes at fault (R192). -/
def illopReport (x : Word) (pc : Quad) (lanes : Lanes) : TrapInfo := ⟨0, 0, false, false, x, pc, lanes, lanes, 0, 0, 0, 0⟩

theorem precise_illop (x : Word) (pc : Quad) (lanes : Lanes) : precise 0 0 x pc lanes lanes 0 0 = illopReport x pc lanes := rfl

section
variable {s s1 : State} {w : Wave} {ga : Gang} {gr : Grid} {pc : Quad} {lanes : Lanes}

/-- A word that decodes to nothing traps with ILLOP where no fetch watch matches. -/
theorem badWord_of_unwatched (x : Word) (h : (s.ctx gr.asid).fetchMatches w pc = []) :
    s.badWord w gr pc lanes x = s.trap w.id lanes (illopReport x pc lanes) := by
  unfold State.badWord
  rw [h]
  rfl

/-- The fetch of a wave that may issue, where the word it finds decodes to nothing. -/
theorem fetchNext_of_decode_error {x : Word} {e : DecodeError} (hw : s.wave? w.id = some w) (hh : s.home? w = some (ga, gr))
    (hc : s.canIssue w ga = true) (hg : w.nextGroup = some (pc, lanes)) (hf : s.fetchWord w gr pc.toNat = (.ok x, s1))
    (hd : gr.decode pc x = .error e) : s.fetchNext w.id = .trapped (s1.badWord w gr pc lanes x) := by
  unfold State.fetchNext
  simp only [hw, hh, hc, hg, hf, hd, Bool.not_true, Bool.false_eq_true, if_false]

theorem issueWord_of_trapped {id : Nat} {t : State} (h : s.fetchNext id = .trapped t) : issueWord id s = .next t := by
  unfold issueWord
  rw [h]

/-- The front end of a wave that may issue comes to the checks of its word. -/
theorem front_eq_checks {i : Instr} (hw : s.wave? s.issuer = some w) (hh : s.home? w = some (ga, gr)) (hc : s.canIssue w ga = true)
    (hg : w.nextGroup = some (pc, lanes)) : s.front i = s.checks i (Ctx.ofIssue i w ga gr pc lanes) := by
  unfold State.front
  simp only [hw, hh, hc, hg, Bool.not_true, Bool.false_eq_true, if_false]

/-- An illegal word that no watch matches is turned away with ILLOP on its whole group. -/
theorem checks_of_illegal {i : Instr} {c : Ctx} (hwatch : (s.ctx c.gr.asid).fetchMatches c.w c.pc = []) (hi : illegalWord i c = true) :
    s.checks i c = .other (s.trap c.w.id c.lanes (illopReport c.word c.pc c.lanes)) := by
  unfold State.checks
  rw [hwatch, ite_self]
  simp only [hi, if_true, precise_illop]

end

/-- Settles O12: the fetch and the front end both turn such a word away to ILLOP; a word that no instruction encodes decodes to none because every decoded word is its instruction's encoding. -/
theorem illegalWordTraps : Obligations.IllegalWordTraps := by
  unfold Obligations.IllegalWordTraps
  refine ⟨?_, ?_, ?_⟩
  · intro s w ga gr pc lanes x e s1 hw hh hc hg hf hd hwatch
    rw [issueWord_of_trapped (fetchNext_of_decode_error hw hh hc hg hf hd), badWord_of_unwatched x hwatch]
    rfl
  · exact fun x hx => decode_error_of_unencoded hx
  · intro s i w ga gr pc lanes body hw hh hc hg hwatch hi
    exact issue_other ((front_eq_checks hw hh hc hg).trans (checks_of_illegal hwatch hi))

/-! ### Registers -/

/-- A write that takes effect is the register write's outcome. -/
theorem exec_registerWrite {s t : State} {addr : Nat} {v : Quad} (h : s.writeRegister addr v = some t) : exec (.registerWrite addr v) s = .next t :=
  event_some h

section
variable (s : State) (v : Quad)

theorem writeRegister_mbcmd : s.writeRegister 0x000 v = some (s.modKiln fun k => { k with mbcmd := v &&& 0xFFFF }) := rfl

theorem writeRegister_mbarg {n : Nat} (h : n ≤ 30) : s.writeRegister (8 + 8 * n) v = some (s.modKiln fun k => { k with mbarg := k.mbarg.set n v }) := by
  have hrange : (0x008 ≤ 8 + 8 * n && 8 + 8 * n ≤ 0x0F8 && (8 + 8 * n) % 8 = 0) = true := by
    simp only [Bool.and_eq_true, decide_eq_true_eq]
    omega
  have hindex : (8 + 8 * n - 8) / 8 = n := by omega
  unfold State.writeRegister
  rw [if_neg (by omega), if_pos hrange, hindex]

/-- A written value's bit 1 alone decides whether bit 1 is cleared. -/
theorem and_not_and_two (x v : Quad) : x &&& ~~~(v &&& 2) = if v.getLsbD 1 = true then x &&& ~~~2 else x := by
  have hbit : v &&& 2 = if v.getLsbD 1 = true then 2 else 0#64 := BitVec.and_twoPow v 1
  rw [hbit]
  split
  · rfl
  · rw [BitVec.not_zero, BitVec.and_allOnes]

theorem writeRegister_mbstat :
    s.writeRegister 0x100 v = some (s.modKiln fun k => { k with mbstat := if v.getLsbD 1 = true then k.mbstat &&& ~~~2 else k.mbstat }) := by
  simp only [← and_not_and_two]
  rfl

/-- No register from 0x108 on is one of MBARG's. -/
theorem not_mbarg_of_le {addr : Nat} (h : 0x108 ≤ addr) : ¬(0x008 ≤ addr && addr ≤ 0x0F8 && addr % 8 = 0) = true := by
  simp only [Bool.and_eq_true, decide_eq_true_eq]
  omega

/-- The registers MBRES0 to MBRES30 are read-only. -/
theorem writeRegister_mbres {n : Nat} (h : n < 31) : s.writeRegister (0x108 + 8 * n) v = some s := by
  have hquad : quadRegister (0x108 + 8 * n) = none := by
    unfold quadRegister
    rw [if_neg]
    simp only [Bool.and_eq_true, decide_eq_true_eq]
    omega
  unfold State.writeRegister
  rw [if_neg (by omega), if_neg (not_mbarg_of_le (by omega)), if_neg (by omega), if_neg (by omega), hquad]

theorem quadRegister_of_quad {q ofs : Nat} (hq : q < 96) (ho : ofs < 32) : quadRegister (0x10000 + 32 * q + ofs) = some (q, ofs) := by
  have hrange : (0x10000 ≤ 0x10000 + 32 * q + ofs && 0x10000 + 32 * q + ofs < 0x10000 + 32 * 96) = true := by
    simp only [Bool.and_eq_true, decide_eq_true_eq]
    omega
  unfold quadRegister
  rw [if_pos hrange]
  simp only [Option.some.injEq, Prod.mk.injEq]
  omega

/-- QPCTL of a quad takes the target, ignores the value 3, and leaves a write that wakes the quad to its own row. -/
theorem writeRegister_qpctl {q : Nat} (h : q < 96) : s.writeRegister (0x10000 + 32 * q) v =
    if v.toNat % 4 = 3 then some s
    else if v.getLsbD 2 = true then none
    else some (s.modKiln fun k => { k with qpctl := k.qpctl.set q (BitVec.ofNat 64 (v.toNat % 4)) }) := by
  have htarget : bitsOf v.toNat 0 2 = v.toNat % 4 := by simp [bitsOf]
  have hquad : quadRegister (0x10000 + 32 * q) = some (q, 0) := quadRegister_of_quad (ofs := 0) h (by omega)
  unfold State.writeRegister
  rw [if_neg (by omega), if_neg (not_mbarg_of_le (by omega)), if_neg (by omega), if_neg (by omega), hquad]
  simp only [htarget]

/-- QPSTAT of a quad is read-only. -/
theorem writeRegister_qpstat {q : Nat} (h : q < 96) : s.writeRegister (0x10000 + 32 * q + 8) v = some s := by
  unfold State.writeRegister
  rw [if_neg (by omega), if_neg (not_mbarg_of_le (by omega)), if_neg (by omega), if_neg (by omega), quadRegister_of_quad h (by omega)]
  rfl

end

/-! ### The host's accesses to memory (R66, R478, R479, R495) -/

section
variable {s : State} {addr n : Nat}

theorem inLine_of_le (h1 : 1 ≤ n) (h2 : addr % 64 + n ≤ 64) : inLine addr n = true := by
  simp only [inLine, h1, h2, decide_true, Bool.and_self]

/-- A read of a sound line gives its bytes, and the host may hold the line. -/
theorem exec_hostRead_of_sound (hl : inLine addr n = true) (hh : s.hdm addr = true) (hp : addr / 64 ∉ s.poison) :
    exec (.hostRead addr n) s = .next (s.modHost fun h => { h with read := s.bytesAt addr n, readPoison := false, cached := h.cached.filter (fun l => l ≠ addr / 64) ++ [addr / 64] }) := by
  apply event_some
  simp [hl, hh, hp]

theorem exec_hostRead_of_poisoned (hl : inLine addr n = true) (hh : s.hdm addr = true) (hp : addr / 64 ∈ s.poison) :
    exec (.hostRead addr n) s = .next (s.modHost fun h => { h with read := [], readPoison := true }) := by
  apply event_some
  simp [hl, hh, hp]

/-- A write of exposed device memory, which the host holds then. -/
theorem exec_hostWrite_of_hdm {bs : List Byte} (hl : inLine addr bs.length = true) (hh : s.hdm addr = true) :
    exec (.hostWrite addr bs) s = .next ((s.putBytes addr bs).modHost fun h => { h with cached := h.cached ++ [addr / 64] }) := by
  apply event_some
  simp [hl, hh]

/-- A write of the host's own window, none of which is device memory. -/
theorem exec_hostWrite_of_window {bs : List Byte} (hl : inLine addr bs.length = true) (hn : s.hdm addr = false) (hr : addr < 2 ^ 52) (hw : windowOf addr = 1) :
    exec (.hostWrite addr bs) s = .next (s.putBytes addr bs) := by
  apply event_some
  simp only [hl, hn, hw, decide_eq_true hr, Bool.not_true, Bool.false_eq_true, if_false, decide_true, Bool.and_self, if_true]

/-- Bytes put to memory are read back there. -/
theorem bytesAt_putBytes (s : State) (pa : Nat) (bs : List Byte) : (s.putBytes pa bs).bytesAt pa bs.length = bs :=
  SMap.getRange_setRange s.mem (s.localPa pa) bs

/-- Bytes put to memory change no byte outside their range. -/
theorem sameBytesOutside_putBytes (s : State) (pa : Nat) (bs : List Byte) :
    SameBytesOutside s (s.putBytes pa bs) (fun x => s.localPa pa ≤ x ∧ x < s.localPa pa + bs.length) := by
  intro a ha
  rw [State.putBytes_mem, SMap.get_setRange, if_neg ha]

theorem exec_softerr {line : Nat} (h : line < 2 ^ 33) : exec (.softerr line) s = .next (s.postSimple 4 0 line) :=
  event_some (if_pos (decide_eq_true h))

theorem exec_patrolScrub {line : Nat} (h : line < 2 ^ 33) : exec (.patrolScrub line) s =
    .next { s with fresh := s.fresh + 1, poison := if Config.uncorrectable s.fresh line = true ∧ line ∉ s.poison then s.poison ++ [line] else s.poison } := by
  apply event_some
  simp [show stackLine line = true from decide_eq_true h]

end

/-- Settles O58: each register by its own lemma; what a host write leaves is what `putBytes` leaves, in both windows. -/
theorem registerAndHostAccessesAct : Obligations.RegisterAndHostAccessesAct := by
  unfold Obligations.RegisterAndHostAccessesAct
  refine ⟨fun s v => ⟨?_, ?_, ?_, ?_, ?_⟩, ⟨?_, ?_, ?_⟩⟩
  · exact exec_registerWrite (writeRegister_mbcmd s v)
  · exact fun n hn => exec_registerWrite (writeRegister_mbarg s v hn)
  · exact exec_registerWrite (writeRegister_mbstat s v)
  · refine fun q hq => ⟨fun h3 hwake => ?_, fun h3 => ?_, ?_⟩
    · exact exec_registerWrite (by rw [writeRegister_qpctl s v hq, if_neg h3, hwake, if_neg Bool.false_ne_true])
    · exact exec_registerWrite (by rw [writeRegister_qpctl s v hq, if_pos h3])
    · exact exec_registerWrite (writeRegister_qpstat s v hq)
  · exact fun n hn => exec_registerWrite (writeRegister_mbres s v hn)
  · intro s addr n h1 h2 hh
    exact ⟨exec_hostRead_of_sound (inLine_of_le h1 h2) hh, exec_hostRead_of_poisoned (inLine_of_le h1 h2) hh⟩
  · intro s addr bs h1 h2 hmem
    have hl := inLine_of_le h1 h2
    by_cases hh : s.hdm addr = true
    · exact ⟨_, exec_hostWrite_of_hdm hl hh, bytesAt_putBytes s addr bs, sameBytesOutside_putBytes s addr bs, rfl, rfl, rfl, rfl⟩
    · obtain ⟨hr, hw⟩ := hmem.resolve_left hh
      exact ⟨_, exec_hostWrite_of_window hl (Bool.eq_false_iff.mpr hh) hr hw, bytesAt_putBytes s addr bs, sameBytesOutside_putBytes s addr bs, rfl, rfl, rfl, rfl⟩
  · exact fun s line h => ⟨exec_softerr h, exec_patrolScrub h⟩

end Sys2Proof.Machine
end

section
/-! PROOFS. Boot, recovery, staging and attestation (O60). -/

namespace Sys2Proof.Machine

/-! ### The choice of a boot slot (R490) -/

/-- Slot B is the valid slot with the higher version; a tie goes to slot A. -/
def slotBHigher (a b : FwSlot) : Prop := b.valid = true ∧ (a.valid = true → a.version < b.version)

section
variable (a b : FwSlot)

theorem bootSlot_isNone : (bootSlot a b).isNone = (!a.valid && !b.valid) := by
  unfold bootSlot
  cases a.valid <;> cases b.valid <;> rfl

theorem bootSlot_getD : (bootSlot a b).getD false = true ↔ slotBHigher a b := by
  unfold bootSlot slotBHigher
  cases a.valid <;> cases b.valid <;> simp

theorem nextBoot_none : nextBoot none a b = bootSlot a b := rfl

/-- A marked slot that is valid boots. -/
theorem nextBoot_of_valid {m : Bool} (h : (if m then b else a).valid = true) : nextBoot (some m) a b = some m := by
  cases m <;> exact if_pos h

/-- A marked slot that is not valid leaves the choice to the versions. -/
theorem nextBoot_of_invalid {m : Bool} (h : (if m then b else a).valid = false) : nextBoot (some m) a b = bootSlot a b := by
  cases m <;> exact if_neg (Bool.eq_false_iff.mp h)

/-- The recovery posture comes where neither slot is valid, whatever is marked. -/
theorem nextBoot_isNone (marked : Option Bool) : (nextBoot marked a b).isNone = (!a.valid && !b.valid) := by
  cases marked with
  | none => exact bootSlot_isNone a b
  | some m =>
    cases h : (if m then b else a).valid with
    | true =>
      rw [nextBoot_of_valid a b h]
      cases m <;> simp_all
    | false => rw [nextBoot_of_invalid a b h, bootSlot_isNone]

end

/-! ### What a boot leaves (R489 to R491) -/

section
variable (s : State) (slotA slotB : FwSlot)

theorem State.boot_slot (m : Bool) : (s.boot slotA slotB).kiln.slot m =
    if m then (s.boot slotA slotB).kiln.slotB else (s.boot slotA slotB).kiln.slotA := rfl

theorem State.boot_booted : (s.boot slotA slotB).kiln.booted =
    (nextBoot s.kiln.marked (s.boot slotA slotB).kiln.slotA (s.boot slotA slotB).kiln.slotB).getD false := rfl

theorem State.boot_recovery : (s.boot slotA slotB).kiln.recovery = (!(s.boot slotA slotB).kiln.slotA.valid && !(s.boot slotA slotB).kiln.slotB.valid) :=
  nextBoot_isNone _ _ s.kiln.marked

/-- Device memory, below the host window, is cleared, and the rest stays. -/
theorem State.boot_mem_get (x : Nat) : (s.boot slotA slotB).mem.get x = if x < 2 ^ 50 then 0 else s.mem.get x := by
  have := SMap.get_filter s.mem (fun a => decide (2 ^ 50 ≤ a)) x
  rw [show (s.boot slotA slotB).mem = s.mem.filter fun e => decide (2 ^ 50 ≤ e.1) from rfl, this]
  by_cases hx : x < 2 ^ 50
  · rw [if_neg (by simpa using hx), if_pos hx]
  · rw [if_pos (by simpa using hx), if_neg hx]

/-- A quad is disabled where the defect map names it and no spare stands for it. -/
theorem State.boot_disabled (q : Nat) :
    (s.boot slotA slotB).kiln.disabled.contains q = (s.kiln.records.defects.contains q && !s.kiln.records.mapping.contains q) := by
  rw [show (s.boot slotA slotB).kiln.disabled = s.kiln.records.off from rfl, ConfigRecords.off, Bool.eq_iff_iff]
  simp

theorem ConfigRecords.used_get (c : ConfigRecords) {die : Nat} (h : die < 4) :
    c.used.get die = BitVec.ofNat 8 (c.mapping.countP fun q => q / 24 = die) := by
  have := SMap.get_cells 0 ((List.range 4).map fun die => BitVec.ofNat 8 (c.mapping.filter fun q => q / 24 = die).length) die
  rw [Nat.zero_add] at this
  rw [ConfigRecords.used, this, List.countP_eq_length_filter]
  simp [h]

/-- Without a mark the slot with the higher version boots. -/
theorem State.boot_booted_of_unmarked (h : s.kiln.marked = none) :
    (s.boot slotA slotB).kiln.booted = true ↔ slotBHigher (s.boot slotA slotB).kiln.slotA (s.boot slotA slotB).kiln.slotB := by
  rw [State.boot_booted, h, nextBoot_none, bootSlot_getD]

/-- The marked slot boots where it is valid, else the slot with the higher version. -/
theorem State.boot_booted_of_marked {m : Bool} (h : s.kiln.marked = some m) :
    if ((s.boot slotA slotB).kiln.slot m).valid = true then (s.boot slotA slotB).kiln.booted = m
    else ((s.boot slotA slotB).kiln.booted = true ↔ slotBHigher (s.boot slotA slotB).kiln.slotA (s.boot slotA slotB).kiln.slotB) := by
  by_cases hv : ((s.boot slotA slotB).kiln.slot m).valid = true
  · rw [if_pos hv, State.boot_booted, h, nextBoot_of_valid _ _ (by rwa [State.boot_slot] at hv), Option.getD_some]
  · rw [if_neg hv, State.boot_booted, h, nextBoot_of_invalid _ _ (by rwa [State.boot_slot, Bool.not_eq_true] at hv), bootSlot_getD]

end

/-! ### Recovery, staging and attestation (R490 to R492) -/

section
variable {s : State}

theorem exec_resetBoot (s : State) : exec .resetBoot s = .next (s.boot s.kiln.slotA s.kiln.slotB) := rfl

theorem exec_recoveryCommand (h : s.kiln.recovery = true) : exec .recoveryCommand s =
    .next (if (verified (s.kiln.staging.getRange 0 s.kiln.stagedLen) s.kiln.floor).valid = true
      then s.boot (verified (s.kiln.staging.getRange 0 s.kiln.stagedLen) s.kiln.floor) s.kiln.slotB else s) := by
  apply event_some
  rw [h]
  rfl

theorem recoveryMailbox_of_recovery (h : s.kiln.recovery = true) : s.recoveryMailbox = some (s.kiln.slotA.cause, s.kiln.slotB.cause) := if_pos h

theorem bar2Byte_of_recovery (h : s.kiln.recovery = true) (o : Nat) : s.bar2Byte o = some 0 := if_pos h

theorem exec_firmwareStagingWrite {ofs : Nat} {bs : List Byte} (h1 : bs ≠ []) (h2 : ofs + bs.length ≤ 2 ^ 26) : exec (.firmwareStagingWrite ofs bs) s =
    .next (s.modKiln fun k => { k with staging := k.staging.setRange ofs bs, stagedLen := max k.stagedLen (ofs + bs.length) }) := by
  apply event_some
  rw [if_neg]
  simp only [Bool.or_eq_true, decide_eq_true_eq, not_or]
  exact ⟨h1, by omega⟩

theorem exec_spdmMessage (s : State) (bs : List Byte) : exec (.spdmMessage bs) s = .next (s.modKiln fun k =>
    { k with spdm := Config.spdmReply Config.identityKey bs (s.kiln.slotA.image, s.kiln.slotA.version) (s.kiln.slotB.image, s.kiln.slotB.version)
               (s.kiln.records.defects, s.kiln.records.mapping, s.kiln.records.repairs) s.kiln.floor }) := rfl

/-- A run of values written to a store, by the place of each. -/
theorem SMap.get_setRange_getD {w : Nat} (m : SMap w) (k : Nat) (vs : List (BitVec w)) (j : Nat) :
    (m.setRange k vs).get j = if k ≤ j ∧ j < k + vs.length then vs.getD (j - k) 0 else m.get j := by
  rw [SMap.get_setRange, List.getD_eq_getElem?_getD]

end

/-- Settles O60: a reset's parts each by the lemma of what a boot leaves there, the rest by the row's own equation. -/
theorem deviceBootsAndRecovers : Obligations.DeviceBootsAndRecovers := by
  unfold Obligations.DeviceBootsAndRecovers
  refine ⟨fun s => ?_, fun s hr => ?_, fun s hr => ?_, fun s ofs bs h1 h2 => ?_, fun s bs => ?_⟩
  · refine ⟨_, exec_resetBoot s, State.boot_mem_get s _ _, rfl, rfl, rfl, rfl, rfl, rfl, rfl, rfl, rfl, rfl, rfl,
      State.boot_disabled s _ _, fun die hd => s.kiln.records.used_get hd, State.boot_recovery s _ _, fun _ => ⟨?_, ?_⟩⟩
    · exact State.boot_booted_of_unmarked s _ _
    · exact fun m hm => State.boot_booted_of_marked s _ _ hm
  · exact ⟨recoveryMailbox_of_recovery hr, bar2Byte_of_recovery hr⟩
  · exact ⟨fun hv => by rw [exec_recoveryCommand hr, hv, if_neg Bool.false_ne_true], fun hv => by rw [exec_recoveryCommand hr, if_pos hv]⟩
  · exact ⟨_, exec_firmwareStagingWrite h1 h2, rfl, fun k => SMap.get_setRange_getD s.kiln.staging ofs bs k⟩
  · exact ⟨_, rfl, exec_spdmMessage s bs⟩

end Sys2Proof.Machine
end

section
/-! PROOFS. The page-table walk (O9). -/

namespace Sys2Proof.Machine

/-- The translation keeps to what the leaf permits, and to the address's own offset in the page (R20, R25). -/
def Trans.Permitted (t : Trans) (va : Nat) (need : Need) (priv : Bool) : Prop :=
  refused t.leaf need priv = false ∧ t.pa % 2 ^ t.log2 = va % 2 ^ t.log2

/-- A leaf that does not refuse an access has the permission for each thing that the access needs (R25). -/
theorem permissions_of_not_refused {e : Nat} {need : Need} {priv : Bool} (h : refused e need priv = false) :
    (entryBit e 4 = true → priv = true) ∧ (need.rd = true → entryBit e 1 = true) ∧ (need.wr = true → entryBit e 2 = true) ∧
      (need.ex = true → entryBit e 3 = true) := by
  simp only [refused, Bool.or_eq_false_iff, Bool.and_eq_false_imp, Bool.not_eq_false'] at h
  obtain ⟨⟨⟨hp, hr⟩, hw⟩, hx⟩ := h
  exact ⟨hp, hr, hw, hx⟩

/-- Serving a peer address of the package's own as the local one keeps the offset in a page of any size (R17, R20). -/
theorem State.localPa_mod (s : State) (pa : Nat) {k : Nat} (hk : k ≤ 44) : s.localPa pa % 2 ^ k = pa % 2 ^ k := by
  unfold State.localPa
  split
  · rw [bitsOf, Nat.pow_zero, Nat.div_one, Nat.mod_mod_of_dvd _ (Nat.pow_dvd_pow 2 hk)]
  · rfl

/-- The base-2 logarithm of the size of the page that a leaf at a level maps (R20). -/
def pageLog2 (n : Nat) : Nat := if n = 3 then 30 else if n = 4 then 21 else 12

/-- The frame of a leaf that breaks no rule is aligned to the size of its page (R21). -/
theorem entryPpn_mod {e n : Nat} (hleaf : entryBit e 5 = true) (h : reservedBroken e n = false) : entryPpn e % 2 ^ pageLog2 n = 0 := by
  simp only [reservedBroken, hleaf, if_true, Bool.or_eq_false_iff, Bool.and_eq_false_imp, decide_eq_true_eq, decide_eq_false_iff_not, ne_eq,
    Decidable.not_not] at h
  obtain ⟨-, ⟨⟨-, h3⟩, h4⟩⟩ := h
  unfold pageLog2 entryPpn
  unfold bitsOf at *
  split
  · have := (h3 ‹_›).2
    omega
  · split
    · have := (h4 ‹_›).2
      omega
    · omega

/-- What a level of a walk that is answered has found: a leaf, whose translation it is, or a table, in which the walk goes on (R24). -/
theorem walkFrom_ok {s : State} {va : Nat} {need : Need} {priv : Bool} {t : Trans} {fuel n table side : Nat}
    (h : walkFrom s va need priv (fuel + 1) n table side = .ok t) :
    (entryBit t.leaf 5 = true ∧ reservedBroken t.leaf n = false ∧ refused t.leaf need priv = false ∧ t.log2 = pageLog2 n ∧
      t.pa = s.localPa (entryPpn t.leaf + va % 2 ^ pageLog2 n)) ∨
    ∃ below side', walkFrom s va need priv fuel (n + 1) below side' = .ok t := by
  simp only [walkFrom, ← pageLog2.eq_1 n] at h
  generalize s.entryAt (table + 8 * levelIndex n va) = e at h
  generalize (if n = 3 then 40960 else 4096) = size at h
  by_cases hvalid : (!entryBit e 0) = true
  · rw [if_pos hvalid] at h
    nomatch h
  by_cases hbroken : reservedBroken e n = true
  · rw [if_neg hvalid, if_pos hbroken] at h
    nomatch h
  rw [if_neg hvalid, if_neg hbroken] at h
  by_cases hleaf : entryBit e 5 = true
  · rw [if_pos hleaf] at h
    split at h
    · nomatch h
    split at h
    · nomatch h
    split at h
    · nomatch h
    rename_i hrefused
    obtain rfl := Except.ok.inj h
    exact .inl ⟨hleaf, Bool.eq_false_iff.mpr hbroken, Bool.eq_false_iff.mpr hrefused, rfl, rfl⟩
  · rw [if_neg hleaf] at h
    by_cases hlocal : (!localTable (entryPpn e) size) = true
    · rw [if_pos hlocal] at h
      nomatch h
    · rw [if_neg hlocal] at h
      exact .inr ⟨_, _, h⟩

theorem pageLog2_le (n : Nat) : pageLog2 n ≤ 44 := by
  unfold pageLog2
  split
  · decide
  · split <;> decide

/-- What the levels of a walk answer is permitted (R24, R25). -/
theorem walkFrom_permitted {s : State} {va : Nat} {need : Need} {priv : Bool} {t : Trans} {fuel n table side : Nat}
    (h : walkFrom s va need priv fuel n table side = .ok t) : t.Permitted va need priv := by
  induction fuel generalizing n table side with
  | zero => nomatch h
  | succ fuel ih =>
    obtain ⟨hleaf, hbroken, hrefused, hlog, hpa⟩ | ⟨_, _, hbelow⟩ := walkFrom_ok h
    · refine ⟨hrefused, ?_⟩
      rw [hpa, hlog, State.localPa_mod s _ (pageLog2_le n), Nat.add_mod, entryPpn_mod hleaf hbroken, Nat.zero_add, Nat.mod_mod, Nat.mod_mod]
    · exact ih hbelow

/-- An answered walk is of a canonical address, of a valid context, and permitted; the code cache's pages are so too (R20, R24, R441). -/
theorem walk_permitted {s : State} {asid va : Nat} {need : Need} {priv : Bool} {t : Trans} (h : walk s asid va need priv = .ok t) :
    va < 2 ^ 60 ∧ entryBit (s.ctxEntry asid) 0 = true ∧ t.Permitted va need priv := by
  unfold walk at h
  split at h
  · nomatch h
  rename_i hcanonical
  simp only at h
  split at h
  · nomatch h
  rename_i hvalid
  refine ⟨by omega, by simpa using hvalid, ?_⟩
  split at h
  · nomatch h
  split at h
  · rename_i hcode
    split at h
    · nomatch h
    rename_i hrefused
    obtain rfl := Except.ok.inj h
    refine ⟨Bool.eq_false_iff.mpr hrefused, ?_⟩
    simp only [State.mapsCode, Bool.and_eq_true, decide_eq_true_eq] at hcode
    obtain ⟨⟨hbase, -⟩, -⟩ := hcode
    unfold codeBase at hbase
    simp only [codeArea, codeBase]
    omega
  · exact walkFrom_permitted h

/-- Settles O9: what a walk answers passed the leaf's check, and its frame is aligned to its page. -/
theorem walkPermits : Obligations.WalkPermits := by
  unfold Obligations.WalkPermits
  intro s asid va need priv t h
  obtain ⟨hva, hvalid, hrefused, hoffset⟩ := walk_permitted h
  obtain ⟨hp, hr, hw, hx⟩ := permissions_of_not_refused hrefused
  exact ⟨hva, hp, hr, hw, hx, hoffset, hvalid⟩

end Sys2Proof.Machine
end

section
/-! PROOFS. The translation of an access's lanes (O40). -/

namespace Sys2Proof.Machine

/-! ### The address of a lane (R26, R323) -/

theorem addressFault_of_noncanonical {va n : Nat} {aligned : Bool} (h : 2 ^ 60 ≤ va) : addressFault va n aligned = some (pageFault 1) :=
  if_pos (by omega)

theorem addressFault_of_misaligned {va n : Nat} {aligned : Bool} (hva : va < 2 ^ 60) (ha : aligned = true) (h : va % n ≠ 0) :
    addressFault va n aligned = some ⟨4, 0, false⟩ := by
  unfold addressFault
  rw [if_neg (by omega), if_pos (by simp [ha, h])]

theorem addressFault_of_sound {va n : Nat} {aligned : Bool} (hva : va < 2 ^ 60) (h : aligned = true → va % n = 0) : addressFault va n aligned = none := by
  unfold addressFault
  rw [if_neg (by omega), if_neg (by simpa using h)]

/-! ### One lane translated (R24) -/

section
variable {a : Access} {w : Wave} {how : Nat} {s s1 : State} {l : AccLane}

/-- A lane of an access other than a level-of-detail read: its address's fault, a line of another gang's, or the answer of its translation. -/
theorem translateLane_eq (hk : a.kind.isLod = false) : translateLane a w how s l =
    match addressFault l.va a.kind.size a.kind.aligned with
    | some f => ({ l with status := .faulted f.code f.cause f.lod }, s)
    | none =>
      if s.foreign w l.va then ({ l with status := .faulted 2 0 false }, s)
      else match s.translate (quadOf a.core) a.asid l.va a.kind.need a.privileged how with
        | (.error f, s1) => ({ l with status := .faulted f.code f.cause f.lod }, s1)
        | (.ok t, s1) => enterOrder a w s1 { l with pa := s1.localPa t.pa, leaf := BitVec.ofNat 64 t.leaf, side := t.side } := by
  unfold translateLane
  split
  · rename_i hlod
    rw [hlod] at hk
    nomatch hk
  · rfl

theorem translateLane_of_addressFault {f : Flt} (hk : a.kind.isLod = false) (h : addressFault l.va a.kind.size a.kind.aligned = some f) :
    translateLane a w how s l = ({ l with status := .faulted f.code f.cause f.lod }, s) := by
  rw [translateLane_eq hk, h]

theorem translateLane_of_refused {f : Flt} (hk : a.kind.isLod = false) (h : addressFault l.va a.kind.size a.kind.aligned = none) (hf : s.foreign w l.va = false)
    (ht : s.translate (quadOf a.core) a.asid l.va a.kind.need a.privileged how = (.error f, s1)) :
    translateLane a w how s l = ({ l with status := .faulted f.code f.cause f.lod }, s1) := by
  rw [translateLane_eq hk, h, hf, ht]
  rfl

theorem translateLane_of_translated {t : Trans} (hk : a.kind.isLod = false) (h : addressFault l.va a.kind.size a.kind.aligned = none) (hf : s.foreign w l.va = false)
    (ht : s.translate (quadOf a.core) a.asid l.va a.kind.need a.privileged how = (.ok t, s1)) :
    translateLane a w how s l = enterOrder a w s1 { l with pa := s1.localPa t.pa, leaf := BitVec.ofNat 64 t.leaf, side := t.side } := by
  rw [translateLane_eq hk, h, hf, ht]
  rfl

/-! ### The core's order of writes (R107, R110, R195) -/

/-- An access that writes nothing is ready at once. -/
theorem enterOrder_of_read (h : a.kind.writes = false) : enterOrder a w s l = ({ l with status := .ready, stamp := s.nextId }, { s with nextId := s.nextId + 1 }) := by
  unfold enterOrder
  simp only [h, Bool.false_and, Bool.false_eq_true, if_false]
  split
  · rename_i hstore
    rw [hstore] at h
    nomatch h
  · rfl

/-- A write that an earlier access of its thread or a fence holds is translated and waits. -/
theorem enterOrder_of_held (h : a.kind.writes = true) (hh : s.laneHeld a { l with status := .ready, stamp := s.nextId } = true) :
    enterOrder a w s l = ({ l with status := .reported }, s) := by
  unfold enterOrder
  simp only [h, hh, Bool.and_self, if_true]

/-- What a store does to its core's L1 as it takes its place: it may write its line there, and marks its lane so; nothing else changes (R37, R47). -/
theorem storeHit_eq (priv : Bool) (pa n : Nat) : ∃ (b : Bool) (l1s : List CacheLine),
    storeHit a priv s l pa n = ({ l with inL1 := b }, { s with caches := { s.caches with l1 := l1s } }) := by
  unfold storeHit
  split
  · exact ⟨l.inL1, s.caches.l1, rfl⟩
  · exact ⟨_, _, rfl⟩

/-- A write that nothing holds takes the next place in its core's order of writes; only a store changes its core's L1. -/
theorem enterOrder_of_free (hh : s.laneHeld a { l with status := .ready, stamp := s.nextId } = false) : ∃ (b : Bool) (l1s : List CacheLine),
    enterOrder a w s l = ({ l with status := .ready, stamp := s.nextId, inL1 := b }, { s with nextId := s.nextId + 1, caches := { s.caches with l1 := l1s } }) ∧
      ((∀ n, a.kind ≠ .store n) → l1s = s.caches.l1) := by
  unfold enterOrder
  simp only [hh, Bool.and_false, Bool.false_eq_true, if_false]
  split
  · rename_i n hstore
    obtain ⟨b, l1s, hhit⟩ := storeHit_eq (a := a) (s := { s with nextId := s.nextId + 1 }) (l := { l with status := .ready, stamp := s.nextId })
      (({ s with nextId := s.nextId + 1 } : State).isOwnLine w l.va) l.pa n
    exact ⟨b, l1s, hhit, fun hno => absurd hstore (hno n)⟩
  · exact ⟨l.inL1, s.caches.l1, rfl, fun _ => rfl⟩

end

/-! ### The step (R24, R166) -/

/-- WALK_COMPLETE of a global access of a resident wave reports the named lanes that are still to be translated. -/
theorem exec_walkComplete {s : State} {a : Access} {w : Wave} {lanes : Lanes} {how : Nat} (ha : s.flight? a.id = some a) (hw : s.wave? a.wave = some w)
    (hr : s.isResident w.gang = true) (hg : a.kind.isGlobal = true) (hl : lanes &&& s.missing a ≠ 0) (hh : how ≤ 2) :
    exec (.walkComplete a.id lanes how) s = .next ((s.report a (lanes &&& s.missing a) how).afterAccess a) := by
  apply event_some
  rw [ha, Option.bind_some]
  have hhow : ¬2 < how := by omega
  simp only [hw, hr, hg, Option.any_some, decide_eq_false hl, decide_eq_false hhow, Bool.not_true, Bool.or_self, Bool.false_eq_true, if_false]

/-- Settles O40: the step by its equation; a lane by its address's fault, its walk's refusal, or its place in the order of writes. -/
theorem walkTranslatesLanes : Obligations.WalkTranslatesLanes := by
  unfold Obligations.WalkTranslatesLanes
  refine ⟨fun s a w lanes how => exec_walkComplete, fun a w how s s1 l hk _ => ⟨?_, ?_, ?_⟩⟩
  · exact fun hva => translateLane_of_addressFault hk (addressFault_of_noncanonical hva)
  · exact fun hva ha hmis => translateLane_of_addressFault hk (addressFault_of_misaligned hva ha hmis)
  · intro hva ha hf
    have hsound := addressFault_of_sound hva ha
    refine ⟨fun f ht => translateLane_of_refused hk hsound hf ht, fun tr ht => ?_⟩
    simp only [translateLane_of_translated hk hsound hf ht]
    exact ⟨fun hread => enterOrder_of_read hread, fun hw hheld => enterOrder_of_held hw hheld, fun _ hfree => enterOrder_of_free hfree⟩

end Sys2Proof.Machine
end

section
/-! PROOFS. Gang-local loads and stores (O31). -/

namespace Sys2Proof.Machine

/-! ### The lanes whose offset a check refuses -/

section
variable {act : Lanes} {ofs : Nat → Nat} {bad : Nat → Bool}

theorem failing_none (h : ∀ l, l < 32 → act.getLsbD l = true → bad (ofs l) = false) : failing act ofs bad = none := by
  have hnil : ((laneList act).filter fun l => bad (ofs l)) = [] := by
    rw [List.filter_eq_nil_iff]
    intro l hl
    obtain ⟨hlt, hact⟩ := (mem_laneList act l).mp hl
    simp [h l hlt hact]
  unfold failing
  rw [hnil]

/-- Where the check refuses some lane's offset, exactly the refused lanes are named, and the offset is that of one of them. -/
theorem failing_some {m : Nat} (hm : m < 32) (ha : act.getLsbD m = true) (hb : bad (ofs m) = true) :
    ∃ (lanes : Lanes) (l : Nat), failing act ofs bad = some (lanes, ofs l) ∧ ∀ k, k < 32 → lanes.getLsbD k = (act.getLsbD k && bad (ofs k)) := by
  have hmem : m ∈ (laneList act).filter fun l => bad (ofs l) := List.mem_filter.mpr ⟨(mem_laneList act m).mpr ⟨hm, ha⟩, hb⟩
  unfold failing
  cases hf : (laneList act).filter fun l => bad (ofs l) with
  | nil => simp [hf] at hmem
  | cons l ls =>
    refine ⟨_, l, rfl, fun k hk => ?_⟩
    rw [lanesWhere_getLsbD, ← hf, Bool.eq_iff_iff]
    simp [hk, mem_laneList]

/-- The offset that a check reports is the lowest refused lane's. -/
theorem failing_lowest {m : Nat} (hm : m < 32) (ha : act.getLsbD m = true) (hb : bad (ofs m) = true)
    (hlow : ∀ l, l < m → act.getLsbD l = true → bad (ofs l) = false) : ∃ lanes, failing act ofs bad = some (lanes, ofs m) := by
  have hmem : m ∈ (laneList act).filter fun l => bad (ofs l) := List.mem_filter.mpr ⟨(mem_laneList act m).mpr ⟨hm, ha⟩, hb⟩
  have hsorted : ((laneList act).filter fun l => bad (ofs l)).Pairwise (· < ·) := (List.pairwise_lt_range.filter _).filter _
  unfold failing
  cases hf : (laneList act).filter fun l => bad (ofs l) with
  | nil => simp [hf] at hmem
  | cons l ls =>
    have hl : l ∈ (laneList act).filter fun l => bad (ofs l) := by simp [hf]
    obtain ⟨hlist, hbad⟩ := List.mem_filter.mp hl
    rw [hf] at hmem hsorted
    obtain rfl | htail := List.mem_cons.mp hmem
    · exact ⟨_, rfl⟩
    · have hlt := (List.pairwise_cons.mp hsorted).1 m htail
      rw [hlow l hlt ((mem_laneList act l).mp hlist).2] at hbad
      nomatch hbad

end

/-! ### The checks before any lane (R42, R59, R328, R329) -/

section
variable {c : Ctx} {ofs : Nat → Nat} {t : State} {g : Gang} {k : Gang → Body}

/-- Every ACTIVE lane's offset is in range, and its line present. -/
def Ctx.offsetsSound (c : Ctx) (ofs : Nat → Nat) (g : Gang) : Prop := ∀ l, l < 32 → c.act.getLsbD l = true → inRange c.gr (ofs l) = true ∧ ofs l / 64 ∉ g.absent

/-- Every ACTIVE lane's offset is in range. -/
def Ctx.offsetsInRange (c : Ctx) (ofs : Nat → Nat) : Prop := ∀ l, l < 32 → c.act.getLsbD l = true → inRange c.gr (ofs l) = true

theorem localChecks_of_sound (hg : t.gang? c.ga.id = some g) (h : c.offsetsSound ofs g) : c.localChecks ofs t k = k g := by
  have hrange : failing c.act ofs (fun o => !inRange c.gr o) = none := failing_none fun l hl ha => by simp [(h l hl ha).1]
  have hpresent : failing c.act ofs (fun o => !g.present o) = none := failing_none fun l hl ha => by simp [Gang.present, (h l hl ha).2]
  unfold Ctx.localChecks
  simp only [hrange, hg, hpresent]

/-- An offset out of range is GLRANGE on exactly the lanes that have one (R42, R328). -/
theorem localChecks_of_outside {m : Nat} (hm : m < 32) (ha : c.act.getLsbD m = true) (hout : inRange c.gr (ofs m) = false) :
    ∃ info : TrapInfo, c.localChecks ofs t k = .trap info ∧ info.code = 1 ∧ info.cause = 6 ∧ info.active = c.act ∧
      ∀ l, l < 32 → info.fault.getLsbD l = (c.act.getLsbD l && !inRange c.gr (ofs l)) := by
  obtain ⟨lanes, l, hfail, hlanes⟩ := failing_some (ofs := ofs) (bad := fun o => !inRange c.gr o) hm ha (by simp [hout])
  refine ⟨precise 1 6 c.word c.pc c.act lanes (ofs l) 0, ?_, rfl, rfl, rfl, hlanes⟩
  unfold Ctx.localChecks
  rw [hfail]
  rfl

/-- An absent line is a wait that names the line of the lowest such lane (R59; log entry 85). -/
theorem localChecks_of_absent {m : Nat} (hg : t.gang? c.ga.id = some g) (hrange : c.offsetsInRange ofs) (hm : m < 32) (ha : c.act.getLsbD m = true)
    (habsent : ofs m / 64 ∈ g.absent) (hlow : ∀ l, l < m → c.act.getLsbD l = true → ofs l / 64 ∉ g.absent) :
    c.localChecks ofs t k = .block 5 (ofs m / 64) := by
  have hin : failing c.act ofs (fun o => !inRange c.gr o) = none := failing_none fun l hl ha => by simp [hrange l hl ha]
  obtain ⟨lanes, hfail⟩ := failing_lowest (ofs := ofs) (bad := fun o => !g.present o) hm ha
    (by simp [Gang.present, habsent]) fun l hl ha => by simp [Gang.present, hlow l hl ha]
  unfold Ctx.localChecks
  simp only [hin, hg, hfail]

end

/-! ### A gang-local access in flight (R110, R115) -/

section
variable {i : Instr} {s t : State} {c : Ctx} {body : Ctx → State → Body} {op : MemOp} {counter : Nat}

/-- With no ACTIVE lane an access asks for nothing. -/
theorem launch_of_inactive (h : c.act = 0) : c.launch op counter t = .ok t := if_pos h

/-- An access that nothing holds back and that no watch matches goes into flight. -/
theorem launch_of_unheld (ha : c.act ≠ 0) (h : c.unheld op t = true) : c.launch op counter t = .ok (c.flown op counter t) := by
  simp only [Ctx.unheld, Bool.and_eq_true, Bool.not_eq_true', Option.isNone_iff_eq_none] at h
  obtain ⟨⟨⟨⟨hnamed, hreports⟩, hwatch⟩, hturn⟩, hdet⟩ := h
  unfold Ctx.launch
  simp only [if_neg ha, hwatch, hnamed, hreports, hturn, hdet, Bool.not_true, Bool.false_eq_true, if_false]
  rfl

/-- A word whose meaning is to launch an access puts it in flight. -/
theorem issue_launches (h : Issues i s c t) (hb : body c t = c.launch op counter t) : Accesses (issue i s body) c t op counter :=
  ⟨fun ha => issue_ok h (hb.trans (launch_of_inactive ha)), fun ha hu => issue_ok h (hb.trans (launch_of_unheld ha hu))⟩

/-- A word that begins with the checks of its lanes' offsets traps where one is out of range, and waits where a line is absent. -/
theorem issue_stops {ofs : Nat → Nat} {k : Gang → Body} {g : Gang} (h : Issues i s c t) (hg : t.gang? c.ga.id = some g) (hb : body c t = c.localChecks ofs t k) :
    (∀ m, m < 32 → c.act.getLsbD m = true → inRange c.gr (ofs m) = false → ∃ info : TrapInfo, issue i s body = .next (s.trap c.w.id c.lanes info) ∧
      info.code = 1 ∧ info.cause = 6 ∧ info.active = c.act ∧ ∀ l, l < 32 → info.fault.getLsbD l = (c.act.getLsbD l && !inRange c.gr (ofs l))) ∧
    (c.offsetsInRange ofs → ∀ m, m < 32 → c.act.getLsbD m = true → ofs m / 64 ∈ g.absent → (∀ l, l < m → c.act.getLsbD l = true → ofs l / 64 ∉ g.absent) →
      issue i s body = .next (s.block c.w.id 5 (ofs m / 64) i)) := by
  constructor
  · intro m hm ha hout
    obtain ⟨info, htrap, hcode, hreport⟩ := localChecks_of_outside (t := t) (k := k) hm ha hout
    exact ⟨info, issue_trap h (hb.trans htrap) (by simp [hcode]), hcode, hreport⟩
  · intro hrange m hm ha habsent hlow
    exact issue_block h (hb.trans (localChecks_of_absent hg hrange hm ha habsent hlow))

end

/-! ### The words (R327 to R329) -/

section
variable {f : FmtM} {n : Nat} {c : Ctx} {t : State} {g : Gang}

/-- The lanes of a gang-local access at some offsets, each with its datum. -/
def Ctx.localLanes (c : Ctx) (ofs : Nat → Nat) (data : Nat → Quad) : List AccLane := (laneList c.act).map fun l => newLane l 0 (ofs l) (data l) 0

theorem loadLocal_of_sound (hg : t.gang? c.ga.id = some g) (h : c.offsetsSound (c.localOfs f n) g) : c.loadLocal f n t =
    c.launch ⟨.localLoad n, destOf f.d.toNat (if n = 8 then 2 else 1), c.localLanes (c.localOfs f n) fun _ => 0, f.o = 1, false, 0⟩ 1 t :=
  localChecks_of_sound hg h

/-- A store to present lines of which none is a barrier line is launched as it is. -/
theorem storeLocal_of_sound (hg : t.gang? c.ga.id = some g) (h : c.offsetsSound (c.localOfs f n) g)
    (htags : ∀ l, l < 32 → c.act.getLsbD l = true → c.localOfs f n l / 64 ∉ g.tags) : c.storeLocal f n t =
    c.launch ⟨.localStore n, none, c.localLanes (c.localOfs f n) (c.storeData f n), false, f.o = 2, 0⟩ 2 t := by
  have hclobber : failing c.act (c.localOfs f n) (fun o => g.tags.contains (o / 64) && t.lineAwaited g.id (o / 64)) = none :=
    failing_none fun l hl ha => by simp [htags l hl ha]
  have htagged : ((laneList c.act).any fun l => g.tags.contains (c.localOfs f n l / 64)) = false := by
    rw [List.any_eq_false]
    intro l hl
    obtain ⟨hlt, ha⟩ := (mem_laneList c.act l).mp hl
    simp [htags l hlt ha]
  unfold Ctx.storeLocal
  rw [localChecks_of_sound hg h]
  unfold Ctx.clobberChecks
  simp only [hclobber, htagged, Bool.not_false, if_true]
  rfl

end

/-- Settles O31: each word checks its lanes' offsets and then launches its access. -/
theorem localWordsAccess : Obligations.LocalWordsAccess := by
  unfold Obligations.LocalWordsAccess
  intro f s t c g hg
  refine ⟨fun hi => ⟨fun hgood => ?_, issue_stops hi hg rfl⟩, fun hi => ⟨fun hgood => ?_, issue_stops hi hg rfl⟩,
    fun hi => ⟨fun hgood htags => ?_, issue_stops hi hg rfl⟩, fun hi => ⟨fun hgood htags => ?_, issue_stops hi hg rfl⟩⟩
  · exact issue_launches hi (loadLocal_of_sound hg hgood)
  · exact issue_launches hi (loadLocal_of_sound hg hgood)
  · exact issue_launches hi (storeLocal_of_sound hg hgood htags)
  · exact issue_launches hi (storeLocal_of_sound hg hgood htags)

end Sys2Proof.Machine
end

section
/-! PROOFS. Shootdowns and cleans (O53). -/

namespace Sys2Proof.Machine

/-! ### The steps (R39, R68) -/

section
variable {s : State} {w : Sweep}

/-- The state in which a shootdown's own effect is complete: nothing of its pages is held, it is off the list, and the kiln's shootdowns that waited have begun. -/
def State.sweptOut (s : State) (w : Sweep) : State :=
  (s.sweepOut w).modEng fun e => ({ e with shootdowns := e.shootdowns.filter fun x => x.id ≠ w.id } : Engines).beginQueued

theorem exec_shootdownComplete (hf : s.eng.shootdowns.find? (fun x => x.id = w.id) = some w) (hr : s.sweepReady w = true) (hq : s.resetQuiet w = true) :
    exec (.shootdownComplete w.id) s = .next (s.completeSweep w).distribute := by
  apply event_some
  rw [hf, Option.bind_some, hr, hq]
  rfl

/-- The post of a wave or of a command waits for no gang. -/
theorem resetQuiet_of_posted (h : (∃ asid, w.poster = .wave asid) ∨ ∃ queue tag addr, w.poster = .command queue tag addr) : s.resetQuiet w = true := by
  unfold State.resetQuiet
  obtain ⟨asid, h⟩ | ⟨queue, tag, addr, h⟩ := h <;> rw [h]

theorem completeSweep_of_posted (h : (∃ asid, w.poster = .wave asid) ∨ ∃ queue tag addr, w.poster = .command queue tag addr) :
    s.completeSweep w = (s.sweptOut w).finishPost w := by
  unfold State.completeSweep
  obtain ⟨asid, h⟩ | ⟨queue, tag, addr, h⟩ := h <;> rw [h] <;> rfl

/-- A shootdown of the kiln's or the mailbox's may complete once no gang of its context is left (R488). -/
theorem resetQuiet_of_gone (h : ∀ g ∈ s.gangs, ∀ gr, s.grid? g.grid = some gr → gr.asid ≠ w.target) : s.resetQuiet w = true := by
  have hall : (s.gangs.all fun g => match s.grid? g.grid with | some gr => gr.asid ≠ w.target | none => true) = true := by
    rw [List.all_eq_true]
    intro g hg
    cases hgr : s.grid? g.grid with
    | none => rfl
    | some gr => exact decide_eq_true (h g hg gr hgr)
  unfold State.resetQuiet
  split
  · exact hall
  · exact hall
  · rfl

theorem completeSweep_of_mailbox (h : w.poster = .mailbox) : s.completeSweep w = ((s.sweptOut w).closeReset w.target).afterMailboxSweep w.target := by
  unfold State.completeSweep
  rw [h]
  rfl

theorem completeSweep_of_kiln (h : w.poster = .kiln) : s.completeSweep w = (s.sweptOut w).closeReset w.target := by
  unfold State.completeSweep
  rw [h]
  rfl

theorem exec_cleanComplete (h : s.eng.cleans.find? (fun x => x.id = w.id) = some w) : exec (.cleanComplete w.id) s =
    .next (((s.cleanLines w).modEng fun e => { e with cleans := e.cleans.filter fun x => x.id ≠ w.id }).finishPost w) := by
  apply event_some
  rw [h]
  rfl

end

/-! ### The kiln's own shootdowns (R38) -/

/-- Those that wait begin in their order, up to 16 in flight. -/
theorem beginQueued_append (e : Engines) : e.beginQueued.shootdowns ++ e.beginQueued.queued = e.shootdowns ++ e.queued := by
  simp only [Engines.beginQueued, List.append_assoc, List.take_append_drop]

theorem beginQueued_length (e : Engines) :
    e.beginQueued.shootdowns.length = e.shootdowns.length + min (16 - e.shootdowns.length) e.queued.length := by
  simp only [Engines.beginQueued, List.length_append, List.length_take]

/-! ### What a shootdown removes (R39 to R41, R55) -/

section
variable (s : State) (w : Sweep)

/-- An address of a context lies on a page that the shootdown names: of every context, of its whole target, or of its target's range. -/
theorem names_iff (asid va : Nat) : w.names asid va = true ↔
    w.kind = 2 ∨ asid = w.target ∧ (w.kind = 1 ∨ w.va ≤ va ∧ va < w.va + 4096 * w.count) := by
  simp [Sweep.names]

/-- A translation that holds an address of a named page overlaps one. -/
theorem overlaps_of_names {e : TlbEntry} {va : Nat} (hlo : e.base ≤ va) (hhi : va < e.base + 2 ^ e.log2) (h : w.names e.asid va = true) : w.overlaps e = true := by
  rw [names_iff] at h
  simp only [Sweep.overlaps, overlap, Bool.or_eq_true, Bool.and_eq_true, decide_eq_true_eq]
  omega

theorem mem_kept {ls : List CacheLine} (x : CacheLine) : x ∈ (ls.filter fun l => !w.names l.asid (l.src * 64)) ↔ x ∈ ls ∧ ¬w.names x.asid (x.src * 64) = true := by
  simp [List.mem_filter]

/-- The lanes of a wave that fail are those in a transaction that holds a word of a named page (R40). -/
theorem failing_getLsbD (asid : Nat) (v : Wave) {l : Nat} (hl : l < 32) :
    (w.failing asid v).getLsbD l = true ↔ v.txIn.getLsbD l = true ∧ ∃ x ∈ v.txSet, x.lane = l ∧ w.names asid x.va = true := by
  rw [Sweep.failing, lanesWhere_getLsbD]
  simp [hl, List.any_eq_true]

end

/-! ### STATUS and completion (R38, R67) -/

section
variable {s t : State} {w : Sweep}

theorem finishPost_of_wave {asid : Nat} (hi : w.irq = false) (hp : w.poster = .wave asid)
    (h : s.ctxWrite w.asid (w.desc + 16) (bytesOfNat 8 1) needBoth true none = .ok t) : s.finishPost w = t := by
  unfold State.finishPost
  rw [h, hi, hp]
  rfl

theorem finishPost_of_command {queue tag : Nat} {addr : Quad} (hi : w.irq = false) (hp : w.poster = .command queue tag addr)
    (h : s.ctxWrite w.asid (w.desc + 16) (bytesOfNat 8 1) needBoth true none = .ok t) : s.finishPost w = t.answer queue tag addr.toNat 0 := by
  unfold State.finishPost
  rw [h, hi, hp]
  rfl

theorem finishPost_of_failed {queue tag : Nat} {addr : Quad} {e : Flt × Nat} (hi : w.irq = false) (hp : w.poster = .command queue tag addr)
    (h : s.ctxWrite w.asid (w.desc + 16) (bytesOfNat 8 1) needBoth true none = .error e) : s.finishPost w = s.answer queue tag addr.toNat 3 := by
  unfold State.finishPost
  rw [h, hi, hp]
  rfl

end

/-! ### What a clean leaves (R31, R67, R68) -/

@[simp] theorem State.setDirty_caches (s : State) (side page : Nat) : (s.setDirty side page).caches = s.caches := by
  unfold State.setDirty
  split
  · rfl
  · exact State.putBytes_caches s _ _

/-- The DIRTY bits of side records are memory: no cache changes as they are set. -/
theorem foldl_setDirty_caches (sides : List (Nat × Nat)) (s : State) : (sides.foldl (fun t x => t.setDirty x.1 x.2) s).caches = s.caches := by
  induction sides generalizing s with
  | nil => rfl
  | cons x sides ih => rw [List.foldl_cons, ih, State.setDirty_caches]

theorem foldl_setDirtyLines_caches (ds : List DirtyLine) (s : State) :
    (ds.foldl (fun t d => d.sides.foldl (fun u x => u.setDirty x.1 x.2) t) s).caches = s.caches := by
  induction ds generalizing s with
  | nil => rfl
  | cons d ds ih => rw [List.foldl_cons, ih, foldl_setDirty_caches]

theorem mem_cleanLines_dirty (s : State) (w : Sweep) (d : DirtyLine) : d ∈ (s.cleanLines w).caches.dirty ↔ d ∈ s.caches.dirty ∧ s.cleanNames w d = false := by
  simp only [State.cleanLines, State.modCaches_caches, foldl_setDirtyLines_caches, List.mem_filter, State.cleanNames, List.contains_eq_mem, Bool.not_eq_true',
    decide_eq_false_iff_not, not_and, Bool.not_eq_true]
  exact and_congr_right fun hd => ⟨fun h => h hd, fun h _ => h⟩

/-- Settles O53: the steps by their equations, what a shootdown leaves by what its filters keep, what a clean leaves since setting DIRTY bits changes no cache. -/
theorem sweepsComplete : Obligations.SweepsComplete := by
  unfold Obligations.SweepsComplete
  refine ⟨fun s w hf hr => ⟨fun hp => ?_, fun hgone => ⟨fun hp => ?_, fun hp => ?_⟩⟩, fun e => ⟨beginQueued_append e, beginQueued_length e, rfl⟩, fun s w => ?_,
    fun s w hi => ⟨fun asid t hp h => finishPost_of_wave hi hp h, fun queue tag addr hp => ⟨fun t h => finishPost_of_command hi hp h, fun e h => finishPost_of_failed hi hp h⟩⟩,
    fun s w h => exec_cleanComplete h, mem_cleanLines_dirty⟩
  · rw [exec_shootdownComplete hf hr (resetQuiet_of_posted hp), completeSweep_of_posted hp]
    rfl
  · rw [exec_shootdownComplete hf hr (resetQuiet_of_gone hgone), completeSweep_of_mailbox hp]
    rfl
  · rw [exec_shootdownComplete hf hr (resetQuiet_of_gone hgone), completeSweep_of_kiln hp]
    rfl
  · simp only [← names_iff]
    refine ⟨rfl, mem_kept w, mem_kept w, mem_kept w, mem_kept w, fun e he => ?_, fun v => w.failing (s.asidOf v) v, rfl, fun v l hl => failing_getLsbD w (s.asidOf v) v hl⟩
    obtain ⟨hmem, hout⟩ := List.mem_filter.mp he
    refine ⟨hmem, fun va hlo hhi hnamed => ?_⟩
    rw [overlaps_of_names w hlo hhi hnamed] at hout
    nomatch hout

end Sys2Proof.Machine
end

section
/-! PROOFS. Write-backs, due traps, cone-ring pushes, batches and woken waves (O44). -/

namespace Sys2Proof.Machine

/-! ### Write-backs, pushes, notices and batches (R31, R64, R90 to R93, R158) -/

section
variable {s s1 s2 s3 : State}

theorem exec_sliceWriteback {d : DirtyLine} (h : s.caches.dirty.find? (fun x => x.pline = d.pline && x.home = 0) = some d) : exec (.sliceWriteback d.pline) s =
    .next ((d.sides.foldl (fun t x => t.setDirty x.1 x.2) s).modCaches fun c => { c with dirty := c.dirty.filter fun x => x.pline ≠ d.pline }) := by
  apply event_some
  rw [h]
  rfl

theorem exec_conePush {p : Push} (h : s.eng.pushes.find? (fun x => x.id = p.id) = some p) (hp : p.passed = true) (hb : s.pushBehind p = false) :
    exec (.conePush p.id) s = .next ((s.deliverPush p).modEng fun e => { e with pushes := e.pushes.filter fun x => x.id ≠ p.id }) := by
  apply event_some
  rw [h, Option.filter_some, hp, hb]
  rfl

theorem exec_dropNotice {n : Notice} (h : s.eng.notices.find? (fun x => x.id = n.id) = some n) : exec (.dropNotice n.id) s =
    .next ((s.modCaches fun c => { c with filters := c.filters.filter fun k => k ≠ n.key }).modEng fun e => { e with notices := e.notices.filter fun x => x.id ≠ n.id }) := by
  apply event_some
  rw [h]
  rfl

theorem exec_partialBatchTimeout {q : BinQueue} {b : Bin} (hq : s.bins.find? (fun x => x.id = q.id) = some q) (hb : q.bins.find? (fun x => x.key = b.key) = some b)
    (h : b.last + 65536 ≤ s.cycle.toNat ∨ q.producers ≤ q.producersEnded) : exec (.partialBatchTimeout q.id b.key) s =
    .next (({ s with bins := s.bins.map fun x => if x.id = q.id then
      { x with bins := x.bins.filter (fun y => y.key ≠ b.key), batches := x.batches ++ [b.records] } else x } : State).launchBatches q.id).distribute := by
  apply event_some
  rw [hq, Option.bind_some, hb, Option.bind_some, if_pos (by simpa using h)]

end

/-! ### A push at its ring (R90 to R93) -/

/-- The address of a context's cone-ring header (R90). -/
def State.coneBase (s : State) (asid : Nat) : Nat := bitsOf (s.ctx asid).crbase.toNat 6 54 * 64

/-- The number of entries in use of a ring whose header is given. -/
def coneUsed (h : Nat) : Nat := (h % 2 ^ 32 + 2 ^ 32 - bitsOf h 32 32) % 2 ^ 32

/-- The base-2 logarithm of a ring's size, in its header. -/
def coneLog2 (h : Nat) : Nat := bitsOf h 97 5

theorem bitsOf_lt (x lo n : Nat) : bitsOf x lo n < 2 ^ n := Nat.mod_lt _ (Nat.two_pow_pos n)

theorem bitsOf_zero (x n : Nat) : bitsOf x 0 n = x % 2 ^ n := by rw [bitsOf, Nat.pow_zero, Nat.div_one]

section
variable {s s1 s2 s3 : State} {p : Push} {h : Nat}

/-- A push to a ring with room writes its entry at PROD, and PROD rises by 1. -/
theorem deliverPush_of_room (hv : (s.ctx p.asid).crbase.getLsbD 0 = true) (hh : s.ctxNat p.asid (s.coneBase p.asid) 64 needBoth true = .ok (h, s1))
    (hlo : 4 ≤ coneLog2 h) (hhi : coneLog2 h ≤ 20) (hroom : coneUsed h < 2 ^ coneLog2 h)
    (h2 : s1.ctxWrite p.asid (s.coneBase p.asid + 64 + 16 * (h % 2 ^ 32 % 2 ^ coneLog2 h)) (bytesOfNat 16 p.entry.toNat) needWrite true none = .ok s2)
    (h3 : s2.ctxWrite p.asid (s.coneBase p.asid) (coneHeader (h % 2 ^ 32 + 1) (bitsOf h 32 32) (bitsOf h 64 32) (bitsOf h 96 1) (coneLog2 h)) needBoth true none = .ok s3) :
    s.deliverPush p = s3 := by
  have hfull : (decide (coneLog2 h < 4) || decide (20 < coneLog2 h) || decide (2 ^ coneLog2 h ≤ coneUsed h)) = false := by
    rw [decide_eq_false (by omega), decide_eq_false (by omega), decide_eq_false (by omega)]
    rfl
  unfold State.coneBase at hh h2 h3
  unfold coneUsed coneLog2 at hfull
  unfold coneLog2 at h2 h3
  unfold State.deliverPush
  simp only [bitsOf_zero, hv, hh, hfull, h2, h3, Bool.not_true, Bool.false_eq_true, if_false]

/-- A push to a full ring is dropped: DROP rises, OVF is set, and a notice goes to the filter of its die. -/
theorem deliverPush_of_full (hv : (s.ctx p.asid).crbase.getLsbD 0 = true) (hh : s.ctxNat p.asid (s.coneBase p.asid) 64 needBoth true = .ok (h, s1))
    (hfull : 2 ^ coneLog2 h ≤ coneUsed h)
    (h2 : s1.ctxWrite p.asid (s.coneBase p.asid) (coneHeader (h % 2 ^ 32) (bitsOf h 32 32) (bitsOf h 64 32 + 1) 1 (coneLog2 h)) needBoth true none = .ok s2) :
    s.deliverPush p = { s2 with nextId := s2.nextId + 1, eng := { s2.eng with notices := s2.eng.notices ++ [⟨s2.nextId, p.key⟩] } } := by
  have hfull : (decide (coneLog2 h < 4) || decide (20 < coneLog2 h) || decide (2 ^ coneLog2 h ≤ coneUsed h)) = true := by
    rw [decide_eq_true hfull, Bool.or_true]
  unfold State.coneBase at hh h2
  unfold coneUsed coneLog2 at hfull
  unfold coneLog2 at h2
  unfold State.deliverPush
  simp only [bitsOf_zero, hv, hh, hfull, h2, Bool.not_true, Bool.false_eq_true, if_false, if_true]

/-- A header's bytes where DROP fits its field. -/
theorem coneHeader_of_fields {prod cons drop ovf log2 : Nat} (hd : drop < 2 ^ 32) :
    coneHeader prod cons drop ovf log2 = bytesOfNat 64 (prod % 2 ^ 32 + cons * 2 ^ 32 + drop * 2 ^ 64 + ovf * 2 ^ 96 + log2 * 2 ^ 97) := by
  rw [coneHeader, Nat.min_eq_left (by omega)]

end

/-! ### A due trap at a boundary (R187, R191, R371) -/

section
variable {s : State} {w : Wave}

theorem reportAll_of_no_flight (h : ∀ a ∈ s.flights, a.wave ≠ w.id) : s.reportAll w.id = s := by
  have hnil : (s.flights.filter fun a => a.wave = w.id && a.unreported) = [] := by
    rw [List.filter_eq_nil_iff]
    intro a ha
    simp [h a ha]
  unfold State.reportAll
  rw [hnil]
  rfl

theorem reportDue_of_no_flight (h : ∀ a ∈ s.flights, a.wave ≠ w.id) : s.reportDue w.id = false := by
  unfold State.reportDue
  rw [List.any_eq_false]
  intro a ha
  simp [h a ha]

theorem loggedTrap_of_no_flight (h : ∀ a ∈ s.flights, a.wave ≠ w.id) : s.loggedTrap w = none := by
  have hnil : (s.flights.filter fun a => a.wave = w.id && a.reported) = [] := by
    rw [List.filter_eq_nil_iff]
    intro a ha
    simp [h a ha]
  unfold State.loggedTrap
  rw [hnil]
  rfl

/-- A change that leaves the only wave of a name as it is changes nothing. -/
theorem modWave_of_fixed {f : Wave → Wave} (h : ∀ x ∈ s.waves, x.id = w.id → f x = x) : s.modWave w.id f = s := by
  have hmap : (s.waves.map fun x => if x.id = w.id then f x else x) = s.waves := by
    rw [List.map_congr_left (g := id), List.map_id]
    intro x hx
    split
    · exact h x hx ‹_›
    · rfl
  unfold State.modWave
  rw [hmap]

/-- An engine trap that a wave takes at its next boundary is due. -/
theorem trapDue_of_nextTrap {e : EngineTrap} (h : w.nextTrap = some e) : s.trapDue w = true := by
  unfold Wave.nextTrap at h
  unfold State.trapDue
  rw [Bool.or_eq_true]
  right
  rw [List.any_eq_true]
  cases hf : w.engineTraps.find? EngineTrap.precise with
  | some x => exact ⟨x, List.mem_of_find?_eq_some hf, by simp [List.find?_some hf]⟩
  | none =>
    rw [hf, Option.orElse_none] at h
    split at h
    · nomatch h
    · exact ⟨e, List.mem_of_head? h, by simp_all⟩

/-- A wave that has nothing in flight and no hint takes the trap that is next, off its list. -/
theorem boundaryTrap_of_quiet {e : EngineTrap} (hw : s.wave? w.id = some w) (hf : ∀ a ∈ s.flights, a.wave ≠ w.id) (hh : w.hints = [])
    (hu : ∀ x ∈ s.waves, x.id = w.id → x = w) (ht : w.nextTrap = some e) :
    s.boundaryTrap w = some ((s.modWave w.id fun x => { x with engineTraps := x.engineTraps.erase e }).trapEntry { w with engineTraps := w.engineTraps.erase e } (e.info w)) := by
  have hunhint : s.modWave w.id (fun x => x.unhint x.hintLanes) = s := modWave_of_fixed fun x hx hid => by
    rw [hu x hx hid]
    exact if_pos hh
  unfold State.boundaryTrap
  simp only [reportAll_of_no_flight hf, reportDue_of_no_flight hf, Bool.and_false, Bool.false_eq_true, if_false, hunhint, hw, Option.bind_some, loggedTrap_of_no_flight hf, ht,
    Option.map_some]

theorem exec_trapEntry {t : State} (hw : s.wave? w.id = some w) (ha : w.alive = true) (hr : s.isResident w.gang = true) (hc : s.committing w.id = false) (hy : w.inSync = false)
    (hg : ∀ g ∈ s.eng.syncs, g.wave ≠ w.id) (hd : s.trapDue w = true) (hb : s.boundaryTrap w = some t) : exec (.trapEntry w.id) s = .next t.distribute := by
  have hsync : (s.eng.syncs.any fun g => g.wave = w.id) = false := by
    rw [List.any_eq_false]
    intro g hmem
    simp [hg g hmem]
  apply event_some
  rw [hw, Option.bind_some]
  simp only [ha, hr, hc, hy, hd, hsync, hb, Bool.not_true, Bool.or_self, Bool.false_eq_true, if_false, Option.map_some]

end

/-! ### A wave that goes on at its word (R160, R164, R165) -/

/-- No wave of a name waits at a word. -/
def State.NoneWaits (s : State) (id : Nat) : Prop := ∀ x ∈ s.waves, x.id = id → x.waiting = none

section
variable {s t u : State} {w : Wave} {i : Instr} {c : Ctx}

@[simp] theorem Wave.modCounter_id (w : Wave) (n : Nat) (f : BitVec 6 → BitVec 6) : (w.modCounter n f).id = w.id := by
  unfold Wave.modCounter
  split <;> rfl

@[simp] theorem Wave.modCounter_gang (w : Wave) (n : Nat) (f : BitVec 6 → BitVec 6) : (w.modCounter n f).gang = w.gang := by
  unfold Wave.modCounter
  split <;> rfl

/-- A withdrawn wave is the wave with one of its counters changed and no wait. -/
theorem Wave.withdraw_eq (w : Wave) : ∃ v : Wave, v.id = w.id ∧ v.gang = w.gang ∧ w.withdraw = { v with wake := 0, waiting := none } := by
  unfold Wave.withdraw
  split
  · split
    · exact ⟨w, rfl, rfl, rfl⟩
    · exact ⟨_, Wave.modCounter_id _ _ _, Wave.modCounter_gang _ _ _, rfl⟩
  · exact ⟨w, rfl, rfl, rfl⟩

@[simp] theorem Wave.withdraw_id (w : Wave) : w.withdraw.id = w.id := by
  obtain ⟨v, hid, -, h⟩ := w.withdraw_eq
  rw [h, ← hid]

@[simp] theorem Wave.withdraw_gang (w : Wave) : w.withdraw.gang = w.gang := by
  obtain ⟨v, -, hg, h⟩ := w.withdraw_eq
  rw [h, ← hg]

theorem noneWaits_modWave {id : Nat} {f : Wave → Wave} (hid : ∀ x, (f x).id = x.id) (hf : ∀ x, x.waiting = none → (f x).waiting = none) (h : s.NoneWaits id) (j : Nat) :
    (s.modWave j f).NoneWaits id := by
  intro x hx hxid
  obtain ⟨y, hy, rfl⟩ := List.mem_map.mp hx
  split at hxid
  · rw [if_pos ‹_›]
    exact hf y (h y hy ((hid y).symm.trans hxid))
  · rw [if_neg ‹_›]
    exact h y hy hxid

/-- The group that goes on to its word waits at none. -/
theorem noneWaits_of_go (h : s.go i c = .run c t) : t.NoneWaits c.w.id := by
  obtain ⟨-, rfl⟩ := Front.run.inj h
  intro x hx hxid
  obtain ⟨y, hy, rfl⟩ := List.mem_map.mp hx
  by_cases hyid : y.id = c.w.id
  · rw [if_pos hyid]
    rfl
  · rw [if_neg hyid] at hxid
    exact absurd hxid hyid

/-- A word that its ports serve goes on for the wave whose word it is. -/
theorem viaPorts_run {us : List PortUse} {d : Ctx} (h : s.viaPorts i c us = .run d t) : d.w = c.w ∧ ∃ r : State, r.go i d = .run d t := by
  simp only [State.viaPorts] at h
  split at h
  · obtain ⟨rfl, -⟩ := Front.run.inj h
    exact ⟨rfl, s, h⟩
  split at h
  · nomatch h
  split at h
  · nomatch h
  split at h
  · split at h <;> nomatch h
  · obtain ⟨rfl, -⟩ := Front.run.inj h
    exact ⟨rfl, _, h⟩

theorem checks_run {d : Ctx} (h : s.checks i c = .run d t) : d.w = c.w ∧ ∃ r : State, r.go i d = .run d t := by
  unfold State.checks at h
  split at h
  · split at h
    · nomatch h
    · split at h <;> nomatch h
  · split at h
    · nomatch h
    split at h
    · nomatch h
    split at h
    · nomatch h
    split at h
    · obtain ⟨rfl, -⟩ := Front.run.inj h
      exact ⟨rfl, s, h⟩
    · exact viaPorts_run h

/-- A word that passes the front end is of the wave whose turn it is, which may issue, and goes on. -/
theorem issues_run (h : Issues i s c t) : ∃ ga gr, s.wave? s.issuer = some c.w ∧ s.home? c.w = some (ga, gr) ∧ s.canIssue c.w ga = true ∧ ∃ r : State, r.go i c = .run c t := by
  unfold Issues State.front at h
  split at h
  · nomatch h
  rename_i w hw
  split at h
  · nomatch h
  rename_i ga gr hh
  split at h
  · nomatch h
  rename_i hc
  split at h
  · nomatch h
  obtain ⟨hcw, hrun⟩ := checks_run h
  change c.w = w at hcw
  rw [hcw]
  exact ⟨ga, gr, hw, hh, by simpa using hc, hrun⟩


/-- A wave of a name is changed alike by two changes that agree on it. -/
theorem modWave_congr {id : Nat} {f g : Wave → Wave} (h : ∀ x ∈ s.waves, x.id = id → f x = g x) : s.modWave id f = s.modWave id g := by
  unfold State.modWave
  rw [List.map_congr_left]
  intro x hx
  by_cases hid : x.id = id
  · rw [if_pos hid, if_pos hid, h x hx hid]
  · rw [if_neg hid, if_neg hid]

/-- The state in which a wave that waited has been withdrawn from its wait, with a logical time, and is to perform its word. -/
def State.woken (s : State) (w : Wave) (time : Quad) : State := { s.modWave w.id fun x => { x.withdraw with time := time } with issuer := w.id }

theorem woken_wave? (hw : s.wave? w.id = some w) (time : Quad) : (s.woken w time).wave? w.id = some { w.withdraw with time := time } := by
  have h := State.wave?_modWave s w.id (fun x => { x.withdraw with time := time }) (fun x => x.withdraw_id) w.id
  rw [hw, Option.map_some, if_pos rfl] at h
  exact h

/-- A word that passes the front end of a woken wave shows that the withdrawn wave may issue. -/
theorem canIssue_of_woken {time : Quad} (hw : s.wave? w.id = some w) (h : Issues i (s.woken w time) c u) :
    c.w.id = w.id ∧ ∃ ga gr, s.home? w = some (ga, gr) ∧ s.canIssue w.withdraw ga = true := by
  obtain ⟨ga, gr, hwave, hhome, hissue, -⟩ := issues_run h
  have hcw : c.w = { w.withdraw with time := time } := Option.some.inj (hwave.symm.trans (woken_wave? hw time))
  rw [hcw] at hhome hissue ⊢
  refine ⟨w.withdraw_id, ga, gr, ?_, hissue⟩
  rw [← hhome]
  unfold State.home?
  rw [show ({ w.withdraw with time := time } : Wave).gang = w.gang from w.withdraw_gang]
  rfl

/-- A wave whose wait is over performs its word, unless it would wait the same way again. -/
theorem performWaiting_next {kind : Nat} {later : Bool} {time : Quad} (hw : s.wave? w.id = some w) (hi : w.waiting = some i) (hu : ∀ x ∈ s.waves, x.id = w.id → x = w)
    (hc : ∃ ga gr, s.home? w = some (ga, gr) ∧ s.canIssue w.withdraw ga = true) (hk : w.wakeKind = kind)
    (htime : time = if later then maxTime w.time w.releaser + 1 else w.time) (hp : performWord i (s.woken w time) = .next t)
    (hn : ∀ x, t.wave? w.id = some x → ¬(x.wakeKind = kind ∧ x.waiting = some i)) : s.performWaiting w.id kind later = some t := by
  obtain ⟨ga, gr, hhome, hissue⟩ := hc
  have hwoken : ({ s.modWave w.id fun x => { x.withdraw with time := if later then maxTime x.time x.releaser + 1 else x.time } with issuer := w.id } : State) = s.woken w time := by
    rw [modWave_congr (g := fun x => { x.withdraw with time := time }) fun x hx hid => by rw [hu x hx hid, htime]]
    rfl
  have hagain : ((t.wave? w.id).any fun x => x.wakeKind = kind && x.waiting = some i) = false := by
    cases ht : t.wave? w.id with
    | none => rfl
    | some x => simpa using hn x ht
  unfold State.performWaiting
  rw [hw, Option.bind_some]
  simp only [hk, hhome, Option.any_some, hissue, hwoken, hi, hp, hagain, ne_eq, not_true_eq_false, decide_false, Bool.not_true, Bool.or_self, Bool.false_eq_true, if_false]

theorem exec_portWake (hw : s.wave? w.id = some w) (hk : w.wakeKind = 4) (hs : s.waitServed w = true) (h : s.performWaiting w.id 4 true = some t) :
    exec (.portWake w.id) s = .next t := by
  apply event_some
  rw [hw, Option.bind_some, if_neg (by simp [hk]), if_pos hs, h]

theorem exec_ticketTurn (h : s.performWaiting w.id 8 false = some t) : exec (.ticketTurn w.id) s = .next t := event_some h

/-! ### The integer words of two or three sources (R288, R290) -/

/-- The integer words of format R on 32 bits, of one set of fields. -/
def integerWords (f : FmtR) : List Instr :=
  [.iadd f, .isub f, .imul f, .imad f, .imulhI f, .imulhZ f, .and f, .or f, .xor f, .shl f, .shr f, .sar f, .rol f, .iminI f, .iminZ f, .imaxI f, .imaxZ f]

/-- Each of them writes one value a lane to its destination; and its performance at a wait is its execution. -/
theorem exec_integerWord {f : FmtR} (h : i ∈ integerWords f) :
    (∃ g : Ctx → Nat → Word, ∀ s, exec i s = issueOk i s fun c => c.putV f.d.toNat (g c)) ∧ ∀ s, performWord i s = exec i s := by
  simp only [integerWords, List.mem_cons, List.not_mem_nil, or_false] at h
  obtain rfl | rfl | rfl | rfl | rfl | rfl | rfl | rfl | rfl | rfl | rfl | rfl | rfl | rfl | rfl | rfl | rfl := h <;>
    exact ⟨⟨_, fun _ => rfl⟩, fun _ => rfl⟩

/-- A vector destination that is no port leaves every wave's wait as it is. -/
theorem noneWaits_putV {d id : Nat} {g : Nat → Word} (hd : isPort d = false) (h : u.NoneWaits id) : (c.putV d g u).NoneWaits id := by
  unfold Ctx.putV
  split
  · exact noneWaits_modWave (f := fun w => w.setVs c.act d g) (fun _ => rfl) (fun _ hx => hx) h _
  · rw [hd, Bool.false_and, if_neg Bool.false_ne_true]
    exact h

/-- An integer word that passes the front end of a woken wave is performed, and the wave then waits at no word. -/
theorem integerWord_next {f : FmtR} (hd : isPort f.d.toNat = false) (hi : i ∈ integerWords f) (h : Issues i s c u) :
    ∃ t, exec i s = .next t ∧ performWord i s = .next t ∧ t.NoneWaits c.w.id := by
  obtain ⟨⟨g, hexec⟩, hperform⟩ := exec_integerWord hi
  obtain ⟨-, -, -, -, -, r, hgo⟩ := issues_run h
  have hnext : exec i s = .next ((c.putV f.d.toNat (g c) u).modWave c.w.id Wave.settle) := by
    rw [hexec]
    exact issueOk_completes h _
  refine ⟨_, hnext, (hperform s).trans hnext, ?_⟩
  exact noneWaits_modWave (f := Wave.settle) (fun _ => rfl) (fun _ hx => hx) (noneWaits_putV hd (noneWaits_of_go hgo)) _

/-- A wave that waits at an integer word performs it as it is woken. -/
theorem integerWord_woken {kind : Nat} {later : Bool} {time : Quad} {f : FmtR} (hw : s.wave? w.id = some w) (hwait : w.waiting = some i)
    (hu : ∀ x ∈ s.waves, x.id = w.id → x = w) (hd : isPort f.d.toNat = false) (hi : i ∈ integerWords f) (hk : w.wakeKind = kind)
    (htime : time = if later then maxTime w.time w.releaser + 1 else w.time) (h : Issues i (s.woken w time) c u) :
    ∃ t, s.performWaiting w.id kind later = some t ∧ exec i (s.woken w time) = .next t := by
  obtain ⟨hid, hissue⟩ := canIssue_of_woken hw h
  obtain ⟨t, hexec, hperform, hnone⟩ := integerWord_next hd hi h
  rw [hid] at hnone
  refine ⟨t, performWaiting_next hw hwait hu hissue hk htime hperform fun x hx hagain => ?_, hexec⟩
  have hxid : x.id = w.id := by simpa using List.find?_some hx
  rw [hnone x (List.mem_of_find?_eq_some hx) hxid] at hagain
  nomatch hagain.2

end

/-- Settles O44: each step by its equation; a woken wave's word is performed, and then the wave waits at none. -/
theorem backgroundStepsAct : Obligations.BackgroundStepsAct := by
  unfold Obligations.BackgroundStepsAct
  refine ⟨⟨fun s d => exec_sliceWriteback, ?_⟩, fun s p => exec_conePush, ?_, fun s n => exec_dropNotice, fun s q b => exec_partialBatchTimeout, ?_, ?_⟩
  · intro s w e hw ha hr hc hy hg hf hh hu ht
    exact exec_trapEntry hw ha hr hc hy hg (trapDue_of_nextTrap ht) (boundaryTrap_of_quiet hw hf hh hu ht)
  · intro s s1 p h hv base hh prod cons log2 hlo hhi
    constructor
    · intro hroom s2 s3 h2 h3
      refine deliverPush_of_room hv hh hlo hhi hroom h2 ?_
      rw [coneHeader_of_fields (bitsOf_lt h 64 32)]
      exact h3
    · intro hfull s2 h2
      refine deliverPush_of_full hv hh hfull ?_
      rw [coneHeader, Nat.mod_mod]
      exact h2
  · intro s u w f i c hw hwait hu hd hi woken
    constructor
    · intro hk hs hissue
      obtain ⟨t, hnext, hexec⟩ := integerWord_woken (later := true) hw hwait hu hd hi hk rfl hissue
      exact ⟨t, exec_portWake hw hk hs hnext, hexec⟩
    · intro hk hissue
      obtain ⟨t, hnext, hexec⟩ := integerWord_woken (later := false) hw hwait hu hd hi hk rfl hissue
      exact ⟨t, exec_ticketTurn hnext, hexec⟩
  · intro s t w i hw hwait woken hissue
    constructor
    · intro hk hs hu hp hn
      exact exec_portWake hw hk hs (performWaiting_next hw hwait hu hissue hk rfl hp fun x hx hagain => hn x hx hagain.1)
    · intro hk hu hp hn
      exact exec_ticketTurn (performWaiting_next hw hwait hu hissue hk rfl hp fun x hx hagain => hn x hx hagain.1)

end Sys2Proof.Machine
end

section
/-! PROOFS. Accesses that enter the flights (O30). -/

namespace Sys2Proof.Machine

/-! ### The flight of a word (R110, R165, R195) -/

section
variable {c : Ctx} {op : MemOp} {counter : Nat} {t : State}

/-- The scope that the windows of a word's addresses give its orders (R112); quad scope for a gang-local access. -/
def Ctx.orderScope (c : Ctx) (op : MemOp) (t : State) : Nat :=
  if op.kind.isGlobal then t.scopeOf c.w.core c.gr.asid c.w.priv (op.lanes.map fun x => x.va) else 2

/-- A release puts its fence in flight before its access (R110). -/
def Ctx.fenced (c : Ctx) (op : MemOp) (t : State) : State := if op.release = true then t.addFence c.w c.gr.asid (c.orderScope op t) else t

/-- An atomic, a compare and swap or a multi-destination store removes its lines before it is in flight (R47). -/
def Ctx.cleared (c : Ctx) (op : MemOp) (s : State) : State := match op.kind with
  | .atomic _ _ _ | .cas _ | .multi _ _ => s.removeLines c.w.core c.gr.asid (op.lanes.map fun x => x.va)
  | _ => s

theorem cleared_nextId (s : State) : (c.cleared op s).nextId = s.nextId := by
  unfold Ctx.cleared
  split <;> rfl

theorem asked_ne_nil (h : ∃ l ∈ op.lanes, l.status ≠ .done) : op.asked ≠ [] := by
  obtain ⟨l, hl, hs⟩ := h
  exact List.ne_nil_of_mem (List.mem_filter.mpr ⟨hl, decide_eq_true hs⟩)

/-- The access of a word that asks for something is one more flight, which a global one of a deterministic launch performs at once. -/
theorem flown_of_asked (h : ∃ l ∈ op.lanes, l.status ≠ .done) :
    let r := c.cleared op (c.fenced op t)
    let a := c.accessOf op counter (c.orderScope op t) r
    let u : State := { r with flights := r.flights ++ [a], nextId := (c.fenced op t).nextId + 1 }
    c.flown op counter t = if c.gr.det = true ∧ op.kind.isGlobal = true then u.performAll a.id else u := by
  intro r a u
  have hid : r.nextId = (c.fenced op t).nextId := cleared_nextId _
  have hfly : c.flown op counter t = if op.asked = [] then ({ r with flights := r.flights ++ [a], nextId := r.nextId + 1 } : State).finishAccess r.nextId
      else if (c.gr.det && op.kind.isGlobal) = true then ({ r with flights := r.flights ++ [a], nextId := r.nextId + 1 } : State).performAll r.nextId
      else { r with flights := r.flights ++ [a], nextId := r.nextId + 1 } := rfl
  rw [hfly, if_neg (asked_ne_nil h), hid]
  simp only [Bool.and_eq_true]
  rw [show a.id = (c.fenced op t).nextId from hid]

end

/-! ### What a release waits for (R110) -/

theorem mem_releasedBy {s : State} {wave core scope n : Nat} : n ∈ s.releasedBy wave core scope ↔
    (∃ b ∈ s.flights, b.id = n ∧ (∀ k, b.kind ≠ .fence k) ∧ (b.wave = wave ∨ 2 ≤ scope ∧ b.core = core ∧ b.kind.writes = true)) ∨
      ∃ q ∈ s.eng.queries, q.id = n ∧ q.wave = wave := by
  have hkind (b : Access) : (match b.kind with
      | .fence _ => false
      | k => b.wave = wave || (2 ≤ scope && b.core = core && k.writes)) = true ↔
      (∀ k, b.kind ≠ .fence k) ∧ (b.wave = wave ∨ 2 ≤ scope ∧ b.core = core ∧ b.kind.writes = true) := by
    cases b.kind <;> simp [and_assoc]
  unfold State.releasedBy
  rw [List.mem_append, List.mem_map, List.mem_map]
  refine or_congr (exists_congr fun b => ?_) (exists_congr fun q => ?_)
  · rw [List.mem_filter]
    exact ⟨fun ⟨⟨hb, hk⟩, hn⟩ => ⟨hb, hn, (hkind b).mp hk⟩, fun ⟨hb, hn, hk⟩ => ⟨⟨hb, (hkind b).mpr hk⟩, hn⟩⟩
  · rw [List.mem_filter, decide_eq_true_eq]
    exact ⟨fun ⟨⟨hq, hw⟩, hn⟩ => ⟨hq, hn, hw⟩, fun ⟨hq, hn, hw⟩ => ⟨⟨hq, hw⟩, hn⟩⟩

/-! ### Lines that leave the L1, and the fills of them that are out (R47, R50, R127) -/

/-- Where some accesses are marked so that their fills install nothing, the marked ones are those and what was marked before. -/
theorem getElem?_markNoInstall {fl : List Access} {p : Access → Bool} {k : Nat} {b : Access} (h : fl[k]? = some b) :
    ∃ no : Bool, (fl.map fun a => if p a = true then { a with noInstall := true } else a)[k]? = some { b with noInstall := no } ∧ (no = true ↔ b.noInstall = true ∨ p b = true) := by
  rw [List.getElem?_map, h, Option.map_some]
  by_cases hp : p b = true
  · exact ⟨true, by rw [if_pos hp], by simp [hp]⟩
  · exact ⟨b.noInstall, by rw [if_neg hp], by simp [hp]⟩

theorem mem_removeLines_l1 {s : State} {core asid : Nat} {vas : List Nat} {x : CacheLine} : x ∈ (s.removeLines core asid vas).caches.l1 ↔
    x ∈ s.caches.l1 ∧ ¬(x.core = core ∧ x.asid = asid ∧ x.decoded = false ∧ ∃ va ∈ vas, va / 64 = x.line) := by
  show x ∈ List.filter _ _ ↔ _
  rw [List.mem_filter]
  simp only [Bool.not_eq_true', Bool.and_eq_false_imp, Bool.and_eq_true, decide_eq_true_eq, List.any_eq_false, not_and, not_exists, and_imp]

/-- A fill of a removed line that is still out installs none (R127). -/
theorem removeLines_flight {s : State} {core asid : Nat} {vas : List Nat} {k : Nat} {b : Access} (h : s.flights[k]? = some b) :
    ∃ no : Bool, (s.removeLines core asid vas).flights[k]? = some { b with noInstall := no } ∧ (no = true ↔ b.noInstall = true ∨ b.core = core ∧ b.asid = asid ∧
      b.kind.cached = true ∧ ∃ l ∈ b.lanes, (l.status = .fresh ∨ l.status = .ready) ∧ ∃ va ∈ vas, va / 64 = l.va / 64) := by
  obtain ⟨no, hget, hno⟩ := getElem?_markNoInstall (p := fun b => b.core = core && b.asid = asid && b.kind.cached &&
    b.lanes.any fun l => (l.status = .fresh || l.status = .ready) && vas.any fun va => va / 64 = l.line) h
  refine ⟨no, hget, hno.trans ?_⟩
  simp only [Bool.and_eq_true, Bool.or_eq_true, decide_eq_true_eq, List.any_eq_true, and_assoc]
  exact Iff.rfl

/-- Settles O30: the access by the equation of its flight, its fence by what a release waits for, the removed lines by what the filter keeps. -/
theorem accessEntersFlight : Obligations.AccessEntersFlight := by
  unfold Obligations.AccessEntersFlight
  refine ⟨fun c op counter t h => ?_, fun t w asid scope => ?_, fun s core asid vas => ?_⟩
  · exact ⟨c.accessOf op counter (c.orderScope op t) (c.cleared op (c.fenced op t)), flown_of_asked h, cleared_nextId _, rfl, rfl, rfl, rfl, rfl, rfl, rfl, rfl, rfl,
      rfl, rfl, rfl, rfl, rfl, rfl, rfl⟩
  · exact ⟨{ blankAccess t.nextId w asid (.fence scope) with after := t.releasedBy w.id w.core scope }, rfl, rfl, rfl, rfl, rfl, rfl, rfl, fun n => mem_releasedBy⟩
  · exact ⟨rfl, fun x => mem_removeLines_l1, List.length_map _, fun k b => removeLines_flight⟩

end Sys2Proof.Machine
end

section
/-! PROOFS. Fences, wait and the invalidations of caches (O33). -/

namespace Sys2Proof.Machine

/-! ### Fences (R110, R349) -/

section
variable {c : Ctx} {t : State} {order scope : Nat}

/-- What a fence of an order waits for is over: the wave's reads, the reports of its accesses, or its reads and writes. -/
def Ctx.fenceReady (c : Ctx) (order scope : Nat) (t : State) : Prop := match order with
  | 0 => t.readsBack c.w.id = true
  | 1 => t.reportsIn c.w.id = true ∧ t.loggedFault c.w.id = false
  | _ => t.readsBack c.w.id = true ∧ t.writesDone c.w.id c.w.core scope = true

theorem fence_of_inactive (h : c.act = 0) : c.fence order scope t = .ok t := if_pos h

theorem fence_acquire (h : c.act ≠ 0) (ho : order = 0) (hr : c.fenceReady order scope t) : c.fence order scope t = .ok (t.acquireAt c.w.core scope) := by
  subst ho
  have hreads : t.readsBack c.w.id = true := hr
  unfold Ctx.fence
  simp only [if_neg h, hreads, if_true]

theorem fence_release (h : c.act ≠ 0) (ho : order = 1) (hr : c.fenceReady order scope t) : c.fence order scope t = .ok (t.addFence c.w c.gr.asid scope) := by
  subst ho
  obtain ⟨hreports, hfault⟩ : t.reportsIn c.w.id = true ∧ t.loggedFault c.w.id = false := hr
  unfold Ctx.fence
  simp only [if_neg h, hreports, hfault, Bool.not_false, Bool.and_self, if_true]

theorem fence_both (h : c.act ≠ 0) (ho : 2 ≤ order) (hr : c.fenceReady order scope t) :
    c.fence order scope t = .ok ((t.acceptAll c.w.id c.w.core scope).acquireAt c.w.core scope) := by
  obtain ⟨n, rfl⟩ := Nat.exists_eq_add_of_le' ho
  obtain ⟨hreads, hwrites⟩ : t.readsBack c.w.id = true ∧ t.writesDone c.w.id c.w.core scope = true := hr
  unfold Ctx.fence
  simp only [if_neg h, hreads, hwrites, Bool.and_self, if_true]

/-- At die scope, and only there, the stores that a release waits for are accepted (R108). -/
theorem acceptAll_eq {wave core : Nat} {x : BitVec 3} : t.acceptAll wave core x.toNat = if x = 3 then t.accept core (t.releasedBy wave core 3) else t := by
  by_cases hx : x = 3
  · rw [hx]
    rfl
  · rw [if_neg hx]
    exact if_neg fun h => hx (BitVec.eq_of_toNat_eq h)

theorem fence_held (h : c.act ≠ 0) (hr : ¬c.fenceReady order scope t) : c.fence order scope t = .stay := by
  unfold Ctx.fence
  rw [if_neg h]
  match order with
  | 0 => exact if_neg hr
  | 1 => exact if_neg fun hboth => hr (show _ ∧ _ by simpa using hboth)
  | _ + 2 => exact if_neg fun hboth => hr (show _ ∧ _ by simpa using hboth)

end

/-! ### The core's ordinary lines removed (R50) -/

theorem mem_invalidateL1 {s : State} {core : Nat} {x : CacheLine} : x ∈ (s.invalidateL1 core).caches.l1 ↔ x ∈ s.caches.l1 ∧ (x.core ≠ core ∨ x.locked = true) := by
  show x ∈ List.filter _ _ ↔ _
  rw [List.mem_filter, Bool.or_eq_true, decide_eq_true_eq]

/-- A fill that the core has asked for is not installed (R50). -/
theorem invalidateL1_flight {s : State} {core k : Nat} {a : Access} (h : s.flights[k]? = some a) :
    (s.invalidateL1 core).flights[k]? = some (if a.core = core ∧ (∃ l ∈ a.lanes, l.status = .ready) then { a with noInstall := true } else a) := by
  show (List.map _ s.flights)[k]? = _
  rw [List.getElem?_map, h, Option.map_some]
  simp only [Bool.and_eq_true, decide_eq_true_eq, List.any_eq_true]

/-! ### wait (R121, R274) -/

section
variable {f : FmtWait} {s t : State} {c : Ctx}

theorem within_iff {x : BitVec 6} {n : BitVec 4} : within x n = true ↔ n = 15 ∨ x.toNat ≤ n.toNat := by
  rw [within, Bool.or_eq_true, decide_eq_true_eq, decide_eq_true_eq]

/-- Every counter that the word names is at or below its field. -/
def Ctx.waitMet (c : Ctx) (f : FmtWait) : Bool := within c.w.ld f.l && within c.w.st f.s && within c.w.cp f.c && within c.w.tl f.t

theorem waitMet_iff : c.waitMet f = true ↔ within c.w.ld f.l = true ∧ within c.w.st f.s = true ∧ within c.w.cp f.c = true ∧ within c.w.tl f.t = true := by
  simp only [Ctx.waitMet, Bool.and_eq_true, and_assoc]

/-- What a wait that is met leaves: a field of 0 for CP or TL acquires what the wave's copies or drains wrote (R121). -/
def Ctx.afterWait (c : Ctx) (f : FmtWait) (t : State) : State :=
  (if f.c = 0 ∧ c.w.copied = true ∨ f.t = 0 ∧ c.w.drained = true then t.invalidateL1 c.w.core else t).modWave c.w.id fun w =>
    { w with copied := w.copied && decide (f.c ≠ 0), drained := w.drained && decide (f.t ≠ 0) }

theorem exec_wait : exec (.wait f) s = issue (.wait f) s fun c t => if c.act = 0 then .ok t else if c.waitMet f = true then .ok (c.afterWait f t) else .stay := by
  rw [show exec (.wait f) s = execWait f s from rfl]
  unfold execWait Ctx.waitMet Ctx.afterWait
  simp only [Bool.or_eq_true, Bool.and_eq_true (decide _), decide_eq_true_eq]

theorem wait_completes_of_inactive (h : Issues (.wait f) s c t) (ha : c.act = 0) : Completes (exec (.wait f) s) c t := by
  rw [exec_wait]
  exact issue_ok h (if_pos ha)

theorem wait_completes_of_met (h : Issues (.wait f) s c t) (ha : c.act ≠ 0) (hm : c.waitMet f = true) : Completes (exec (.wait f) s) c (c.afterWait f t) := by
  rw [exec_wait]
  exact issue_ok h ((if_neg ha).trans (if_pos hm))

theorem wait_held (h : Issues (.wait f) s c t) (ha : c.act ≠ 0) (hm : ¬c.waitMet f = true) : exec (.wait f) s = .next s := by
  rw [exec_wait]
  exact issue_stay h ((if_neg ha).trans (if_neg hm))

end

/-! ### The invalidations by address (R336) -/

section
variable {c : Ctx} {a : BitVec 7} {line : Nat}

/-- An ACTIVE lane names the line, by an address below 2^60. -/
def Ctx.namesLine (c : Ctx) (a : BitVec 7) (line : Nat) : Prop :=
  ∃ l, l < 32 ∧ c.act.getLsbD l = true ∧ (c.src2 .vec a.toNat l).toNat < 2 ^ 60 ∧ (c.src2 .vec a.toNat l).toNat / 64 = line

theorem named_any_iff : ((c.named a).any fun va => va / 2 ^ 60 = 0 && va / 64 = line) = true ↔ c.namesLine a line := by
  have hea (l : Nat) : c.ea a.toNat 0 l = (c.src2 .vec a.toNat l).toNat := by rw [Ctx.ea, BitVec.add_zero]
  have hcanonical (va : Nat) : va / 2 ^ 60 = 0 ↔ va < 2 ^ 60 := by omega
  simp only [Ctx.named, List.any_map, List.any_eq_true, mem_laneList, Function.comp, Bool.and_eq_true, decide_eq_true_eq, hea, hcanonical, Ctx.namesLine, and_assoc]

variable {t : State} {core asid : Nat} {locked : Bool}

/-- The lines that go are those named, locked ones only where asked. -/
theorem mem_cinvLines_l1 {x : CacheLine} : x ∈ (t.cinvLines core asid (c.named a) locked).caches.l1 ↔
    x ∈ t.caches.l1 ∧ ¬(x.core = core ∧ x.asid = asid ∧ c.namesLine a x.line ∧ (locked = true ∨ x.locked = false)) := by
  show x ∈ List.filter _ _ ↔ _
  rw [List.mem_filter, Bool.not_eq_true', ← Bool.not_eq_true]
  simp only [Bool.and_eq_true, Bool.or_eq_true, decide_eq_true_eq, named_any_iff, Bool.not_eq_true', and_assoc]

/-- A fill of a named line that is out is not installed. -/
theorem cinvLines_flight {k : Nat} {b : Access} (h : t.flights[k]? = some b) :
    ∃ no : Bool, (t.cinvLines core asid (c.named a) locked).flights[k]? = some { b with noInstall := no } ∧
      (no = true ↔ b.noInstall = true ∨ b.core = core ∧ b.asid = asid ∧ ∃ x ∈ b.lanes, x.status = .ready ∧ c.namesLine a (x.va / 64)) := by
  obtain ⟨no, hget, hno⟩ := getElem?_markNoInstall (p := fun b => b.core = core && b.asid = asid &&
    b.lanes.any fun l => l.status = .ready && (c.named a).any fun va => va / 2 ^ 60 = 0 && va / 64 = l.line) h
  refine ⟨no, hget, hno.trans ?_⟩
  simp only [Bool.and_eq_true, decide_eq_true_eq, List.any_eq_true (l := b.lanes), named_any_iff, and_assoc]
  exact Iff.rfl

theorem cinvLines_eq : t.cinvLines core asid (c.named a) locked =
    { t with caches := { t.caches with l1 := (t.cinvLines core asid (c.named a) locked).caches.l1 }, flights := (t.cinvLines core asid (c.named a) locked).flights } := rfl

/-- The lines of an L1 instruction cache that a word's invalidation leaves. -/
def Ctx.ilinesLeft (c : Ctx) (a : BitVec 7) (ls : List CacheLine) : List CacheLine := ls.filter fun l =>
  !(l.core = c.w.core && l.asid = c.gr.asid && (c.named a).any fun va => va / 2 ^ 60 = 0 && va / 64 = l.line)

theorem mem_ilinesLeft {ls : List CacheLine} {x : CacheLine} : x ∈ c.ilinesLeft a ls ↔ x ∈ ls ∧ ¬(x.core = c.w.core ∧ x.asid = c.gr.asid ∧ c.namesLine a x.line) := by
  unfold Ctx.ilinesLeft
  rw [List.mem_filter, Bool.not_eq_true', ← Bool.not_eq_true]
  simp only [Bool.and_eq_true, decide_eq_true_eq, named_any_iff, and_assoc]

variable {f : FmtG0} {s : State}

theorem exec_cinvIall : exec (.cinvIall f) s = issueOk (.cinvIall f) s fun c t =>
    if c.act = 0 then t else t.modCaches fun k => { k with l1i := k.l1i.filter fun l => l.core ≠ c.w.core } := rfl

theorem cinvIall_of_inactive (h : Issues (.cinvIall f) s c t) (ha : c.act = 0) : Completes (exec (.cinvIall f) s) c t := by
  have hdone := issueOk_completes h fun c t => if c.act = 0 then t else t.modCaches fun k => { k with l1i := k.l1i.filter fun l => l.core ≠ c.w.core }
  rwa [if_pos ha, ← exec_cinvIall] at hdone

theorem cinvIall_of_active (h : Issues (.cinvIall f) s c t) (ha : c.act ≠ 0) :
    Completes (exec (.cinvIall f) s) c (t.modCaches fun k => { k with l1i := k.l1i.filter fun l => l.core ≠ c.w.core }) := by
  have hdone := issueOk_completes h fun c t => if c.act = 0 then t else t.modCaches fun k => { k with l1i := k.l1i.filter fun l => l.core ≠ c.w.core }
  rwa [if_neg ha, ← exec_cinvIall] at hdone

end

/-- Settles O33: each fence by its order, wait by its counters, each invalidation by what its filters keep and mark. -/
theorem fencesWaitsAndInvalidations : Obligations.FencesWaitsAndInvalidations := by
  unfold Obligations.FencesWaitsAndInvalidations
  refine ⟨fun f s t c h => ?_, fun s core => ⟨fun x => mem_invalidateL1, rfl, List.length_map _, fun k a => invalidateL1_flight, rfl⟩, fun f s t c => ?_, fun f s t c => ?_, fun f s t c => ?_⟩
  · refine ⟨fun ha => issue_ok h (fence_of_inactive ha), fun ha hr => issue_stay h (fence_held ha hr), fun ha ho hr => ?_, fun ha ho hr => ?_, fun ha ho hr => ?_⟩
    · exact issue_ok h (fence_acquire ha (congrArg BitVec.toNat ho) hr)
    · exact ⟨_, rfl, rfl, rfl, rfl, rfl, rfl, issue_ok h (fence_release ha (congrArg BitVec.toNat ho) hr)⟩
    · rw [← acceptAll_eq]
      exact issue_ok h (fence_both ha ho hr)
  · intro under h
    refine ⟨wait_completes_of_inactive h, fun ha hl hs hc ht => ?_, fun ha hm => ?_⟩
    · exact wait_completes_of_met h ha (waitMet_iff.mpr ⟨within_iff.mpr hl, within_iff.mpr hs, within_iff.mpr hc, within_iff.mpr ht⟩)
    · refine wait_held h ha fun hmet => hm ?_
      obtain ⟨hl, hs, hc, ht⟩ := waitMet_iff.mp hmet
      exact ⟨within_iff.mp hl, within_iff.mp hs, within_iff.mp hc, within_iff.mp ht⟩
  · have hasked (locked : Bool) := fun k b => cinvLines_flight (t := t) (c := c) (a := f.a) (core := c.w.core) (asid := c.gr.asid) (locked := locked) (k := k) (b := b)
    refine ⟨fun h => ⟨_, _, issueOk_completes h _, ⟨List.length_map _, hasked false⟩, fun x => mem_cinvLines_l1.trans ?_⟩,
      fun h => ⟨_, _, issueOk_completes h _, ⟨List.length_map _, hasked true⟩, fun x => mem_cinvLines_l1.trans ?_⟩,
      fun h => ⟨c.ilinesLeft f.a t.caches.l1i, issueOk_completes h _, fun x => mem_ilinesLeft⟩⟩
    · simp only [Bool.false_eq_true, false_or]
      exact Iff.rfl
    · simp only [true_or, and_true]
      exact Iff.rfl
  · refine ⟨fun h => issueOk_completes h _, fun h => ?_⟩
    by_cases ha : c.act = 0
    · exact ⟨t.caches.l1i, cinvIall_of_inactive h ha, fun x => ⟨fun hx => ⟨hx, fun hc => hc.1 ha⟩, fun hx => hx.1⟩⟩
    · refine ⟨_, cinvIall_of_active h ha, fun x => ?_⟩
      rw [List.mem_filter, decide_eq_true_eq]
      exact and_congr_right fun _ => ⟨fun hne hc => hne hc.2, fun hc heq => hc ⟨ha, heq⟩⟩

end Sys2Proof.Machine
end

section
/-! PROOFS. Copies and queue fences at issue (O38). -/

namespace Sys2Proof.Machine

/-! ### cpy (R382 to R388) -/

section
variable {c : Ctx} {f : FmtK} {t u : State} {e : BitVec 512}

theorem cpy_of_inactive (h : c.act = 0) : c.cpy f t = .ok t := if_pos h

/-- A command whose operands a check refuses traps as the check's reads left the state. -/
theorem cpy_of_refused {flt : Flt} {a : Nat} (h : c.act ≠ 0) (hc : t.committing c.w.id = false)
    (hk : (c.copyOf f t).check c.gr c.w.core f.d.toNat f.s.toNat t = .error (flt, a, u)) (hf : flt.held = false) :
    c.cpy f t = .failed (c.faultInfo flt c.act a) u := by
  unfold Ctx.cpy
  simp only [if_neg h, hc, hk, hf, Bool.false_eq_true, if_false]
  rfl

/-- A copy of no bytes is over at once: CP falls again (R385). -/
theorem cpy_of_nothing (h : c.act ≠ 0) (hc : t.committing c.w.id = false)
    (hk : (c.copyOf f t).check c.gr c.w.core f.d.toNat f.s.toNat t = .ok (e, u)) (hn : (c.copyOf f t).nothing = true) :
    c.cpy f t = .ok (u.modWave c.w.id fun w => { w with cp := w.cp - 1, copied := true }) := by
  unfold Ctx.cpy
  simp only [if_neg h, hc, hk, hn, Bool.false_eq_true, if_false, if_true]
  rfl

/-- Something keeps a command from its queue: the queue is full, an earlier gang-local access of the wave to its destination is under way, or a release waits for a report (R110, R132, R382). -/
def Ctx.copyHeld (c : Ctx) (f : FmtK) (t : State) : Bool :=
  t.queueFull c.ga.id (fun q => q = f.q.toNat) || t.linesBusy c.w.id (c.copyOf f t).dstLines || (f.r = 1 && !(t.reportsIn c.w.id && !t.loggedFault c.w.id))

theorem copyHeld_of_free (hq : t.queueFull c.ga.id (fun q => q = f.q.toNat) = false) (hl : t.linesBusy c.w.id (c.copyOf f t).dstLines = false)
    (hr : f.r = 1 → t.reportsIn c.w.id = true ∧ t.loggedFault c.w.id = false) : c.copyHeld f t = false := by
  have hrelease : (f.r = 1 && !(t.reportsIn c.w.id && !t.loggedFault c.w.id)) = false := by
    by_cases h1 : f.r = 1
    · obtain ⟨hreports, hfault⟩ := hr h1
      rw [hreports, hfault]
      exact Bool.and_false _
    · rw [decide_eq_false h1, Bool.false_and]
  rw [Ctx.copyHeld, hq, hl, hrelease]
  rfl

/-- Outside a deterministic launch no command needs a ticket (R165). -/
theorem ticketed_of_not_det {k : Copy} {gr : Grid} {gang : Nat} (h : gr.det = false) : k.ticketed gr gang = false := by
  rw [Copy.ticketed, h, Bool.false_and]

/-- A command that nothing holds and that needs no ticket enters its queue, with the entry that it uses. -/
theorem cpy_of_free (h : c.act ≠ 0) (hc : t.committing c.w.id = false)
    (hk : (c.copyOf f t).check c.gr c.w.core f.d.toNat f.s.toNat t = .ok (e, u)) (hn : (c.copyOf f t).nothing = false)
    (hheld : c.copyHeld f t = false) (hd : c.gr.det = false) : c.cpy f t = .ok (c.enqueue { c.copyOf f t with entry := e } u) := by
  unfold Ctx.copyHeld at hheld
  unfold Ctx.cpy
  simp only [if_neg h, hc, hk, hn, hheld, ticketed_of_not_det hd, Bool.false_eq_true, if_false]

theorem nothing_iff {k : Copy} : k.nothing = true ↔ k.conv = 0 ∧ k.count = 0 := by
  rw [Copy.nothing, Bool.and_eq_true, decide_eq_true_eq, decide_eq_true_eq]

end

/-! ### cpyf (R391) -/

section
variable {f : FmtKf} {s t : State} {c : Ctx}

/-- The queue fence that a cpyf issues. -/
def Ctx.queueFence (c : Ctx) (f : FmtKf) (t : State) : Copy := { c.blankCopy t.nextId with fence := some f.m }

theorem exec_cpyf : exec (.cpyf f) s = issue (.cpyf f) s fun c t => if c.act = 0 then .ok t
    else if t.queueFull c.ga.id (fun q => f.m.getLsbD q) = true then .stay else .ok (c.enqueue (c.queueFence f t) t) := rfl

theorem cpyf_completes_of_inactive (h : Issues (.cpyf f) s c t) (ha : c.act = 0) : Completes (exec (.cpyf f) s) c t := by
  rw [exec_cpyf]
  exact issue_ok h (if_pos ha)

theorem cpyf_completes_of_room (h : Issues (.cpyf f) s c t) (ha : c.act ≠ 0) (hq : t.queueFull c.ga.id (fun q => f.m.getLsbD q) = false) :
    Completes (exec (.cpyf f) s) c (c.enqueue (c.queueFence f t) t) := by
  rw [exec_cpyf]
  exact issue_ok h ((if_neg ha).trans (if_neg (by simp [hq])))

end

/-! ### The queue (R59, R132) -/

/-- The absent lines of a gang once a command has entered its queue. -/
def Copy.absentAfter (k : Copy) (g : Gang) : List Nat := g.absent.filter (fun l => !k.dstLines.contains l) ++ k.dstLines.eraseDups

theorem mem_absentAfter {k : Copy} {g : Gang} {l : Nat} : l ∈ k.absentAfter g ↔ l ∈ g.absent ∨ l ∈ k.dstLines := by
  rw [Copy.absentAfter, List.mem_append, List.mem_filter, List.mem_eraseDups]
  by_cases hl : l ∈ k.dstLines <;> simp [hl]

/-- Settles O38: cpy by its checks and holds, cpyf by its queue, and what the queue receives by the equation of `enqueue`. -/
theorem copyWordsEnqueue : Obligations.CopyWordsEnqueue := by
  unfold Obligations.CopyWordsEnqueue
  refine ⟨fun f s t u c e h => ⟨fun ha => issue_ok h (cpy_of_inactive ha), fun ha hc hk => ⟨fun h1 h2 => ?_, fun hsome hq hl hr hd => ?_⟩, fun ha hc flt a hk hf _ => ?_⟩,
    fun f s t c h => ⟨cpyf_completes_of_inactive h, cpyf_completes_of_room h⟩, fun c f k t => ⟨⟨k.absentAfter, rfl, fun g l => mem_absentAfter⟩, ?_⟩⟩
  · exact issue_ok h (cpy_of_nothing ha hc hk (nothing_iff.mpr ⟨h1, h2⟩))
  · have hn : (c.copyOf f t).nothing = false := Bool.eq_false_iff.mpr fun hno => by
      obtain ⟨hconv, hcount⟩ := nothing_iff.mp hno
      exact hsome.elim (· hconv) (· hcount)
    exact issue_ok h (cpy_of_free ha hc hk hn (copyHeld_of_free hq hl hr) hd)
  · exact issue_failed h (cpy_of_refused ha hc hk hf)
  · exact ⟨rfl, rfl, rfl, rfl, rfl, rfl, rfl, rfl, rfl, rfl, rfl⟩

end Sys2Proof.Machine
end

section
/-! PROOFS. Loads that return (O41). -/

namespace Sys2Proof.Machine

/-! ### A step of one lane (R272) -/

theorem laneList_laneBit {n : Nat} (h : n < 32) : laneList (laneBit n) = [n] := by
  have hall : ∀ k : Fin 32, laneList (laneBit k) = [k.val] := by decide
  exact hall ⟨n, h⟩

theorem laneBit_ne_zero {n : Nat} (h : n < 32) : laneBit n ≠ 0 := by
  have hall : ∀ k : Fin 32, laneBit k ≠ 0 := by decide
  exact hall ⟨n, h⟩

/-- A step of an access on one lane is that lane's own. -/
theorem accessStep_of_lane {s t : State} {a : Access} {n : Nat} {row : String} {f : State → Nat → Option State} (ha : s.flight? a.id = some a) (hn : n < 32) (hf : f s n = some t) :
    accessStep row a.id (laneBit n) f s = .next (t.afterAccess a) := by
  apply event_some
  rw [ha, Option.bind_some, if_neg (laneBit_ne_zero hn), laneList_laneBit hn]
  simp only [lanesDo, hf, Option.bind_some, Option.map_some]

theorem onLane_of_resident {s : State} {a : Access} {w : Wave} {l : AccLane} {lane dest : Nat} {k : Access → Wave → AccLane → Option State} (ha : s.flight? a.id = some a)
    (hw : s.wave? a.wave = some w) (hl : a.laneAt lane dest = some l) (hr : s.isResident w.gang = true) : s.onLane a.id lane dest k = k a w l := by
  unfold State.onLane
  simp only [ha, hw, hl, hr, if_true]

/-! ### The datum (R207, R280, R324) -/

theorem natOfBytes_lineBytes_lt (d : BitVec 512) (off n : Nat) : natOfBytes (lineBytes d off n) < 2 ^ (8 * n) := by
  rw [lineBytes, natOfBytes_bytesOfNat]
  exact Nat.mod_lt _ (Nat.two_pow_pos _)

/-- A number of at most eight bytes, extended from its own width. -/
theorem extend_ofNat {signed : Bool} {n x : Nat} (hn : n ≤ 64) (hx : x < 2 ^ n) :
    extend signed n (BitVec.ofNat 64 x) = if signed = true then BitVec.ofInt 64 (signedOf n x) else BitVec.ofNat 64 x := by
  have hx64 : x < 2 ^ 64 := Nat.lt_of_lt_of_le hx (Nat.pow_le_pow_right (by omega) hn)
  rw [extend, BitVec.toNat_ofNat, Nat.mod_eq_of_lt hx64, Nat.mod_eq_of_lt hx]

/-! ### The home of a line (R47, R63, R205) -/

/-- The state with another note of which wave accessed each line last, which only the operation-order log reads. -/
def State.withLast (s : State) (m : List (Nat × Nat)) : State := { s with caches := { s.caches with lastWave := m } }

/-- Outside the recording and the replay of an order log an access has its turn at once. -/
theorem atHome_of_unlogged {s : State} {w : Wave} {asid pa : Nat} (h0 : (s.ctx asid).ordlog.getLsbD 0 = false) (h1 : (s.ctx asid).ordlog.getLsbD 1 = false) :
    ∃ m, ∀ k, s.atHome w asid pa k = k (s.withLast m) := by
  unfold State.atHome State.orderTurn
  cases s.home? w with
  | none => exact ⟨s.caches.lastWave, fun k => rfl⟩
  | some h =>
    simp only [h0, h1, Bool.not_false, Bool.and_self, if_true]
    split
    · exact ⟨_, fun k => rfl⟩
    · exact ⟨s.caches.lastWave, fun k => rfl⟩

/-- The gangs and the launches are the same. -/
def State.SameLaunches (s u : State) : Prop := u.gangs = s.gangs ∧ u.grids = s.grids

theorem State.SameLaunches.trans {s t u : State} (h1 : s.SameLaunches t) (h2 : t.SameLaunches u) : s.SameLaunches u := ⟨h2.1.trans h1.1, h2.2.trans h1.2⟩

theorem State.SameLaunches.home {s u : State} (h : s.SameLaunches u) (w : Wave) : u.home? w = s.home? w := by
  unfold State.home? State.gang? State.grid?
  rw [h.1, h.2]

section
variable (s : State)

theorem postEvent_launches (e : Event) : s.SameLaunches (s.postEvent e) := by
  unfold State.postEvent State.writeEvent
  split
  · cases e.fault <;> simp [State.SameLaunches, State.putNat]
  · exact ⟨rfl, rfl⟩

theorem logEvent_launches (code asid arg0 arg1 arg2 : Nat) : s.SameLaunches (s.logEvent code asid arg0 arg1 arg2) := by
  unfold State.logEvent
  simp only
  split
  · split
    · exact ⟨rfl, rfl⟩
    · exact postEvent_launches s _
  · exact postEvent_launches s _

theorem notePin_launches (asid pa leaf : Nat) : s.SameLaunches (s.notePin asid pa leaf) := by
  unfold State.notePin
  split
  · exact logEvent_launches s _ _ _ _ _
  · split
    · exact logEvent_launches s _ _ _ _ _
    · exact ⟨rfl, rfl⟩

theorem meetPoison_launches (asid line : Nat) : s.SameLaunches (s.meetPoison asid line) := by
  unfold State.meetPoison State.postSimple
  exact postEvent_launches s _

theorem readHome_launches (asid pa leaf n : Nat) : s.SameLaunches (s.readHome asid pa leaf n).2 := by
  refine (notePin_launches s asid pa leaf).trans ?_
  unfold State.readHome
  simp only
  split
  · exact meetPoison_launches _ asid _
  · split <;> exact ⟨rfl, rfl⟩

theorem lineHome_launches (asid pa leaf : Nat) : s.SameLaunches (s.lineHome asid pa leaf).2 := by
  unfold State.lineHome
  exact readHome_launches s asid (pa / 64 * 64) leaf 64

variable (m : List (Nat × Nat))

theorem putBytes_withLast (pa : Nat) (bs : List Byte) : (s.withLast m).putBytes pa bs = (s.putBytes pa bs).withLast m := rfl

theorem putNat_withLast (pa n x : Nat) : (s.withLast m).putNat pa n x = (s.putNat pa n x).withLast m := rfl

theorem modHost_withLast (f : HostQueues → HostQueues) : (s.withLast m).modHost f = (s.modHost f).withLast m := rfl

theorem modCtx_withLast (asid : Nat) (f : Context → Context) : (s.withLast m).modCtx asid f = (s.modCtx asid f).withLast m := rfl

theorem writeEvent_withLast (e : Event) : (s.withLast m).writeEvent e = (s.writeEvent e).withLast m := by
  have hhost : (s.withLast m).host = s.host := rfl
  have hctx (asid : Nat) : (s.withLast m).ctx asid = s.ctx asid := rfl
  have hslot (asid : Nat) : (s.withLast m).faultSlot asid = s.faultSlot asid := rfl
  unfold State.writeEvent
  cases e.fault <;> simp only [hhost, hctx, hslot, putBytes_withLast, putNat_withLast, modHost_withLast, modCtx_withLast]

theorem postEvent_withLast (e : Event) : (s.withLast m).postEvent e = (s.postEvent e).withLast m := by
  unfold State.postEvent
  rw [apply_ite (State.withLast · m), ← writeEvent_withLast]
  rfl

theorem postSimple_withLast (type asid data : Nat) : (s.withLast m).postSimple type asid data = (s.postSimple type asid data).withLast m := postEvent_withLast s m _

theorem logEvent_withLast (code asid arg0 arg1 arg2 : Nat) : (s.withLast m).logEvent code asid arg0 arg1 arg2 = (s.logEvent code asid arg0 arg1 arg2).withLast m := by
  have hhost : (s.withLast m).host = s.host := rfl
  have hcycle : (s.withLast m).cycle = s.cycle := rfl
  unfold State.logEvent
  simp only [hhost, hcycle, postSimple_withLast]
  split
  · split <;> rfl
  · rfl

theorem notePin_withLast (asid pa leaf : Nat) : (s.withLast m).notePin asid pa leaf = (s.notePin asid pa leaf).withLast m := by
  have hserved : (s.withLast m).servedHome pa leaf = s.servedHome pa leaf := rfl
  unfold State.notePin
  simp only [hserved, logEvent_withLast]
  split
  · rfl
  · split <;> rfl

theorem meetPoison_withLast (asid line : Nat) : (s.withLast m).meetPoison asid line = (s.meetPoison asid line).withLast m := by
  unfold State.meetPoison
  rw [postSimple_withLast]
  rfl

/-- A read at the home does not depend on which wave accessed the line last. -/
theorem readHome_withLast (asid pa leaf n : Nat) : (s.withLast m).readHome asid pa leaf n = ((s.readHome asid pa leaf n).1, (s.readHome asid pa leaf n).2.withLast m) := by
  unfold State.readHome
  simp only [notePin_withLast]
  generalize s.notePin asid pa leaf = t
  have hpoison : (t.withLast m).poisoned pa n = t.poisoned pa n := rfl
  have hmixed : (t.withLast m).cmpMixed pa (entryBit leaf 7) = t.cmpMixed pa (entryBit leaf 7) := rfl
  simp only [hpoison, hmixed, meetPoison_withLast]
  split
  · rfl
  · split <;> rfl

theorem lineHome_withLast (asid pa leaf : Nat) : (s.withLast m).lineHome asid pa leaf = ((s.lineHome asid pa leaf).1, (s.lineHome asid pa leaf).2.withLast m) := by
  unfold State.lineHome
  simp only [readHome_withLast]

end

/-! ### A load's lane (R47, R165, R167) -/

section
variable {s : State} {a : Access} {w : Wave} {ga : Gang} {gr : Grid} {l : AccLane} {n : Nat} {home noFill : Bool} {victim : Option Nat}

theorem readLane_of_hit {line : CacheLine} {k : List Byte → State → Option State} (h : s.loadHit a w l home = some line) :
    s.readLane a w l n home noFill victim k = k (lineBytes line.data (l.va % 64) n) s := by
  unfold State.readLane
  rw [h]

/-- Outside deterministic mode a wave sees the bytes as they are at the home. -/
theorem overlaid_of_not_det {va : Nat} {bs : List Byte} (hh : s.home? w = some (ga, gr)) (hd : gr.det = false) : s.overlaid w va bs = bs := by
  have howner : gr.ownerOf va = none := by
    unfold Grid.ownerOf
    rw [hd]
    rfl
  unfold State.overlaid
  simp only [hh, howner, reduceCtorEq, if_false]

/-- The state once a line that missed has been brought to the core's L1, where it is filled. -/
def State.filledIf (s : State) (fill : Bool) (c : CacheLine) (victim : Option Nat) : State := if fill then s.install c victim else s

theorem filledIf_mem (t : State) (fill : Bool) (c : CacheLine) (victim : Option Nat) : (t.filledIf fill c victim).mem = t.mem := by
  unfold State.filledIf
  split <;> rfl

theorem filledIf_waves (t : State) (fill : Bool) (c : CacheLine) (victim : Option Nat) : (t.filledIf fill c victim).waves = t.waves := by
  unfold State.filledIf
  split <;> rfl

/-- The bytes of a line that came from its home, as the access sees them. -/
theorem readLane_at_home {k : List Byte → State → Option State} {s1 : State} (h : s.loadHit a w l home = none) (hready : l.status = .ready) (hheld : s.homeHeld a l = false)
    (hk : a.kind ≠ .txRead) (hturn : ∀ k, s.atHome w a.asid l.pa k = k s1) :
    s.readLane a w l n home noFill victim k = k ((s1.lineHome a.asid l.pa l.leaf.toNat).2.overlaid w l.va (lineBytes (s1.lineHome a.asid l.pa l.leaf.toNat).1 (l.va % 64) n))
      ((s1.lineHome a.asid l.pa l.leaf.toNat).2.filledIf ((s1.lineHome a.asid l.pa l.leaf.toNat).2.fills a.asid l.leaf.toNat && !home && !noFill && !a.noInstall)
        ⟨a.core, a.asid, l.line, l.pa / 64, (s1.lineHome a.asid l.pa l.leaf.toNat).1, entryBit l.leaf.toNat 4, false, false, false, l.line⟩ victim) := by
  have hgo : ¬ ((decide (l.status ≠ .ready) || s.homeHeld a l) = true) := by simp [hready, hheld]
  unfold State.readLane
  rw [h]
  dsimp only
  rw [if_neg hgo, hturn, if_neg hk]
  unfold State.filledIf
  rfl

/-- A load that its core's L1 does not serve is given the bytes that the home holds, with memory and the waves as that read leaves them. -/
theorem readLane_of_miss (h : s.loadHit a w l home = none) (hready : l.status = .ready) (hheld : s.homeHeld a l = false) (hk : a.kind ≠ .txRead) (hh : s.home? w = some (ga, gr))
    (hd : gr.det = false) (h0 : (s.ctx a.asid).ordlog.getLsbD 0 = false) (h1 : (s.ctx a.asid).ordlog.getLsbD 1 = false) :
    ∃ u, (∀ k, s.readLane a w l n home noFill victim k = k (lineBytes (s.lineHome a.asid l.pa l.leaf.toNat).1 (l.va % 64) n) u) ∧
      u.mem = (s.lineHome a.asid l.pa l.leaf.toNat).2.mem ∧ u.waves = (s.lineHome a.asid l.pa l.leaf.toNat).2.waves := by
  obtain ⟨m, hturn⟩ := atHome_of_unlogged (w := w) (pa := l.pa) h0 h1
  have hhome : ((s.lineHome a.asid l.pa l.leaf.toNat).2.withLast m).home? w = some (ga, gr) := ((lineHome_launches s a.asid l.pa l.leaf.toNat).home w).trans hh
  have hread (k : List Byte → State → Option State) := readLane_at_home (n := n) (noFill := noFill) (victim := victim) (k := k) h hready hheld hk hturn
  simp only [lineHome_withLast, overlaid_of_not_det hhome hd] at hread
  exact ⟨_, hread, filledIf_mem .., filledIf_waves ..⟩

/-- What a lane of a load comes to: the bytes that it reads, extended to the registers, and the lane is over. -/
theorem loadLane_of_load {signed : Bool} {bs : List Byte} {u : State} (ha : s.flight? a.id = some a) (hw : s.wave? a.wave = some w) (hl : a.laneAt l.lane 0 = some l) (hr : s.isResident w.gang = true)
    (hk : a.kind = .load n signed home noFill) (hst : l.status = .fresh ∨ l.status = .ready) (hloc : s.locationHeld a l = false) (hstore : s.storeUnwritten a l = false)
    (hfence : s.fenceHeld a.after = false) (hread : ∀ k, s.readLane a w l n home noFill victim k = k bs u) :
    s.loadLane a.id l.lane victim = some ((u.deliver a l.lane (extend signed (8 * n) (BitVec.ofNat 64 (natOfBytes bs)))).laneTo a.id l.lane 0 .done) := by
  have hstatus : (decide (l.status = .fresh) || decide (l.status = .ready)) = true := by simpa using hst
  unfold State.loadLane
  rw [onLane_of_resident ha hw hl hr]
  simp only [hk, hstatus, hloc, hstore, hfence, hread, Bool.not_true, Bool.or_self, Bool.false_eq_true, if_false]

end

/-! ### A gang-local load (R59, R327) -/

section
variable {s : State} {a : Access} {w : Wave} {g : Gang} {n : Nat}

theorem deliver_eng (lane : Nat) (x : Quad) : (s.deliver a lane x).eng = s.eng := by
  unfold State.deliver
  split <;> rfl

theorem inSide_congr {t : State} (h : t.eng = s.eng) (gang o : Nat) : t.inSide gang o = s.inSide gang o := by
  unfold State.inSide
  rw [h]

/-- Outside every open side tile an access reads and writes its own bytes. -/
theorem unsided_of_outside {gang o : Nat} {bs : List Byte} (h : ∀ j < bs.length, s.inSide gang (o + j) = false) : s.unsided gang o bs = (bs, s) := by
  have hnone : ((List.range bs.length).any fun j => s.inSide gang (o + j)) = false := by
    rw [List.any_eq_false]
    intro j hj
    rw [h j (List.mem_range.mp hj)]
    exact Bool.false_ne_true
  unfold State.unsided
  rw [hnone]
  rfl

/-- A gang-local access whose lanes are all still to be performed, in their windows' order, and whose lines are present may be performed whole. -/
theorem localReady_of_present (hg : s.gang? w.gang = some g) (hfence : s.fenceHeld a.after = false) (h : ∀ m ∈ a.left, m.status = .fresh ∧ s.windowHeld a m = false ∧ m.va / 64 ∉ g.absent) :
    s.localReady a w a.left = some g := by
  have hheld : (a.left.any fun l => l.status ≠ .fresh || s.windowHeld a l) = false := by
    rw [List.any_eq_false]
    intro m hm
    obtain ⟨hfresh, hwindow, -⟩ := h m hm
    simp [hfresh, hwindow]
  have hpresent : (a.left.all fun l => g.present l.va) = true := by
    rw [List.all_eq_true]
    intro m hm
    obtain ⟨-, -, hline⟩ := h m hm
    simp [Gang.present, hline]
  unfold State.localReady
  simp only [hfence, hheld, Bool.or_self, Bool.false_eq_true, if_false, hg, Option.filter_some, hpresent, if_true]

/-- The bytes of a gang from an offset on, as a value. -/
def Gang.valueAt (g : Gang) (o n : Nat) : Quad := BitVec.ofNat 64 (natOfBytes ((List.range n).map fun j => g.bytes.get (o + j)))

/-- Performed whole, each lane receives the gang's own bytes. -/
theorem loadWhole_eq (h : ∀ m ∈ a.left, ∀ j < n, s.inSide g.id (m.va + j) = false) :
    s.loadWhole a g n = a.left.foldl (fun u m => (u.deliver a m.lane (g.valueAt m.va n)).laneTo a.id m.lane m.dest .done) s := by
  unfold State.loadWhole
  have hfold : ∀ (ls : List AccLane) (t : State), t.eng = s.eng → (∀ m ∈ ls, m ∈ a.left) →
      ls.foldl (fun t l => let (bs, u) := t.unsided g.id l.va (g.bytes.getRange l.va n)
        (u.deliver a l.lane (BitVec.ofNat 64 (natOfBytes bs))).laneTo a.id l.lane l.dest .done) t =
      ls.foldl (fun u m => (u.deliver a m.lane (g.valueAt m.va n)).laneTo a.id m.lane m.dest .done) t := by
    intro ls
    induction ls with
    | nil => exact fun t _ _ => rfl
    | cons m ls ih =>
      intro t ht hls
      have hout : t.unsided g.id m.va (g.bytes.getRange m.va n) = (g.bytes.getRange m.va n, t) := unsided_of_outside fun j hj => by
        rw [inSide_congr ht]
        exact h m (hls m (by simp)) j (by simpa [SMap.getRange] using hj)
      rw [List.foldl_cons, List.foldl_cons, hout]
      exact ih _ ((deliver_eng m.lane _).trans ht) fun x hx => hls x (by simp [hx])
  exact hfold a.left s rfl fun _ hm => hm

theorem loadLane_of_localLoad {l : AccLane} {victim : Option Nat} (ha : s.flight? a.id = some a) (hw : s.wave? a.wave = some w) (hl : a.laneAt l.lane 0 = some l) (hr : s.isResident w.gang = true)
    (hk : a.kind = .localLoad n) (hready : s.localReady a w a.left = some g) : s.loadLane a.id l.lane victim = some (s.loadWhole a g n) := by
  unfold State.loadLane
  rw [onLane_of_resident ha hw hl hr]
  simp only [hk, hready, Option.map_some]

end

/-! ### The registers that receive it (R266, R272) -/

section
variable {s : State} {a : Access} {lane d : Nat} {x : Quad}

theorem deliver_of_none (h : a.dst = none) : s.deliver a lane x = s := by
  unfold State.deliver
  rw [h]

theorem deliver_of_one (h : a.dst = some (d, 1)) : s.deliver a lane x = s.modWave a.wave fun y => y.setV lane d (lo32 x) := by
  unfold State.deliver
  rw [h]
  rfl

theorem deliver_of_pair (h : a.dst = some (d, 2)) : s.deliver a lane x = s.modWave a.wave fun y => (y.setV lane d (lo32 x)).setV lane (d + 1) (hi32 x) := by
  unfold State.deliver
  rw [h]
  rfl

end

theorem gang?_of_home? {s : State} {w : Wave} {ga : Gang} {gr : Grid} (h : s.home? w = some (ga, gr)) : s.gang? w.gang = some ga := by
  unfold State.home? at h
  cases hg : s.gang? w.gang with
  | none =>
    rw [hg] at h
    nomatch h
  | some g =>
    cases hgr : s.grid? g.grid with
    | none => simp [hg, hgr] at h
    | some r => simp_all

/-- Settles O41: a lane by where its bytes come from, a gang-local load whole, the registers by their number. -/
theorem loadsReturnBytes : Obligations.LoadsReturnBytes := by
  unfold Obligations.LoadsReturnBytes
  intro s a w ga gr l victim ha hw hh hr hl hlane hfence returns
  have hvalue (n : Nat) (signed : Bool) (hn : n ∈ [1, 2, 4, 8]) (d : BitVec 512) := extend_ofNat (signed := signed) (n := 8 * n)
    (by simp only [List.mem_cons, List.not_mem_nil, or_false] at hn; omega) (natOfBytes_lineBytes_lt d (l.va % 64) n)
  refine ⟨fun n signed home noFill hk hn hst hloc hstore => ⟨fun line hhit => ?_, fun hmiss hready hheld hd h0 h1 => ?_⟩, fun n hk hall => ?_, fun x d => ⟨fun h => ?_, fun h => ?_, fun h => ?_⟩⟩
  · have hdone := accessStep_of_lane (row := "LOAD_RETURN") (f := fun t n => t.loadLane a.id n victim) ha hlane
      (loadLane_of_load (victim := victim) ha hw hl hr hk hst hloc hstore hfence fun k => readLane_of_hit hhit)
    rw [hvalue n signed hn] at hdone
    exact hdone
  · obtain ⟨u, hread, hmem, hwaves⟩ := readLane_of_miss (n := n) (noFill := noFill) (victim := victim) hmiss hready hheld (by rw [hk]; nofun) hh hd h0 h1
    have hdone := accessStep_of_lane (row := "LOAD_RETURN") (f := fun t n => t.loadLane a.id n victim) ha hlane
      (loadLane_of_load (victim := victim) ha hw hl hr hk hst hloc hstore hfence hread)
    rw [hvalue n signed hn] at hdone
    exact ⟨u, hdone, hmem, hwaves⟩
  · have hready := localReady_of_present (gang?_of_home? hh) hfence fun m hm => ⟨(hall m hm).1, (hall m hm).2.1, (hall m hm).2.2.1⟩
    have hdone := accessStep_of_lane (row := "LOAD_RETURN") (f := fun t n => t.loadLane a.id n victim) ha hlane (loadLane_of_localLoad (victim := victim) ha hw hl hr hk hready)
    rw [loadWhole_eq fun m hm => (hall m hm).2.2.2] at hdone
    exact hdone
  · rw [deliver_of_none h]
  · rw [deliver_of_one h]
  · rw [deliver_of_pair h]

end Sys2Proof.Machine
end

section
/-! PROOFS. A store that turns on its own context's dirty tracking (O42). -/

namespace Sys2Proof.Machine

/-! ### What the end of an access leaves in memory -/

section
variable {s : State}

/-- Steps of a fold that each leave memory as it is leave it so together. -/
theorem foldl_keeps_mem {β : Type} {f : State → β → State} (h : ∀ t b, (f t b).mem = t.mem) (l : List β) (s : State) : (l.foldl f s).mem = s.mem := by
  induction l generalizing s with
  | nil => rfl
  | cons b l ih => rw [List.foldl_cons, ih, h]

theorem settleFences_mem : s.settleFences.mem = s.mem := by
  unfold State.settleFences
  refine foldl_keeps_mem (fun t a => ?_) _ _
  split
  · split
    · split <;> rfl
    · rfl
  · rfl

theorem settleAcquires_mem : s.settleAcquires.mem = s.mem := by
  unfold State.settleAcquires
  refine foldl_keeps_mem (fun t a => ?_) _ _
  split
  · rfl
  · split
    · split
      · split <;> rfl
      · rfl
    · rfl

theorem finishAccess_mem (id : Nat) : (s.finishAccess id).mem = s.mem := by
  unfold State.finishAccess
  rw [settleFences_mem, settleAcquires_mem]
  split
  · rfl
  · split <;> rfl

theorem filterPush_mem (p : Push) : (s.filterPush p).mem = s.mem := by
  unfold State.filterPush
  split <;> rfl

theorem settlePushes_mem : s.settlePushes.mem = s.mem := by
  unfold State.settlePushes
  refine foldl_keeps_mem (fun t n => foldl_keeps_mem (fun u p => ?_) _ _) _ _
  split
  · rfl
  · exact filterPush_mem p

/-- The end of an access of a wave that lives changes no memory. -/
theorem afterAccess_mem {a : Access} {w : Wave} (hw : s.wave? a.wave = some w) (ha : w.alive = true) : (s.afterAccess a).mem = s.mem := by
  unfold State.afterAccess
  simp only [hw, ha, if_true, settlePushes_mem, finishAccess_mem]

end

/-! ### The state (R18, R30, R31) -/

/-- A wave that lives, on core 0. -/
def tableWave : Wave := Wave.start 1 1 0 0 0 0 0x1000 0 [] 0

/-- Its resident gang. -/
def tableGang : Gang := { Gang.start 1 1 0 with cores := [0], resident := true }

/-- Its launch, in context 1, not deterministic. -/
def tableGrid : Grid :=
  { id := 1, asid := 1, lrec := 0, record := 0, phase := .running, queue := 0, tag := 0, nextGang := 1, lastGang := 1, dispNext := 0, dispEnd := 0,
    ports := [], owners := [], result := none, consumerOf := none, vox := none, podArrivals := 0, podUses := 0 }

theorem tableGrid_det : tableGrid.det = false := by decide +kernel

/-- A ready lane whose datum sets DTE, at the physical address of its context's entry, under a side record at 0x1000. -/
def tableLane : AccLane := { newLane 31 0 0x8000 2 0 with status := .ready, pa := 2 ^ 50 + 8, side := 0x1000, stamp := 1 }

/-- A store of eight bytes of that lane. -/
def tableStore : Access := { blankAccess 2 tableWave 1 (.store 8) with lanes := [tableLane] }

/-- A context table in the host window, whose entry of context 1 is zero, and the store to that entry in flight. -/
def tableState : State :=
  { State.reset with ctxBase := 2 ^ 50, waves := [tableWave], gangs := [tableGang], grids := [tableGrid], flights := [tableStore], nextId := 3 }

/-- The byte of the page's DIRTY bit in the side record. -/
def tableMark : Nat := 0x1001

/-- The store sets DTE of its own context before its write is noted, and so a DIRTY bit too. -/
theorem tableState_marks : (match exec (.homeSliceWrite 2 (laneBit 31) 0) tableState with
    | .next t => t.mem.get tableMark
    | _ => 0) = 1 := by
  decide +kernel

/-- Refutes O42: a store out of the package may write DTE of its own context's entry; the model asks whether the context tracks dirty pages after it has written the bytes, so that the write
sets a DIRTY bit at once, a byte of memory that is not the store's. -/
theorem not_storesWriteBytes : ¬ Obligations.StoresWriteBytes := by
  unfold Obligations.StoresWriteBytes
  intro h
  obtain ⟨hwrite, -⟩ := h tableState tableStore tableWave tableGang tableGrid tableLane rfl rfl rfl rfl rfl (by decide)
  obtain ⟨u, hexec, -, hsame, hwaves, -⟩ := hwrite 8 (.inl rfl) (by decide) tableGrid_det (by decide) (by decide) (by decide) (by decide) (by decide) fun _ => by decide
  have hmarks := tableState_marks
  have hmem : ((u.laneTo tableStore.id tableLane.lane tableLane.dest .performed).afterAccess tableStore).mem = u.mem :=
    afterAccess_mem (w := tableWave) (congrArg (List.find? fun w : Wave => w.id = 1) hwaves) (by decide)
  have hunchanged : u.mem.get tableMark = 0 := hsame tableMark (by decide)
  rw [show exec (.homeSliceWrite 2 (laneBit 31) 0) tableState = _ from hexec] at hmarks
  simp only [hmem, hunchanged] at hmarks
  nomatch hmarks

end Sys2Proof.Machine
end

section
/-! PROOFS. The arrival of a copy's pieces, and its completion (O45). -/

namespace Sys2Proof.Machine

/-! ### The steps (R59, R119, R390) -/

section
variable {s : State} {k : Copy} {w : Wave}

/-- A piece that nothing keeps away arrives. -/
theorem exec_copyLineArrival {n : Nat} {p : Nat × Nat} (hk : s.copy? k.id = some k) (hw : s.wave? k.wave = some w) (hp : k.pieces[n]? = some p) (hn : n ∉ k.arrived)
    (hrun : s.copyMayRun k = true) (hrel : s.released k w = true) (hsrc : s.sourcePresent k p = true) (hmaps : s.mapsHeld k w = false)
    (heng : s.engineHeld w.core k.asid k.privileged (k.touches p) = false) : exec (.copyLineArrival k.id n) s = .next (s.arrivePiece k w n p) := by
  apply event_some
  unfold State.arrival
  simp only [hk, hw, hp, Option.bind_some, List.contains_eq_mem, decide_eq_false hn, hrun, hrel, hsrc, hmaps, heng, Bool.not_true, Bool.or_self, Bool.false_eq_true, if_false]

theorem allArrived_of_mem (h : ∀ n, n < k.pieces.length → n ∈ k.arrived) : k.allArrived = true := by
  unfold Copy.allArrived
  rw [List.all_eq_true]
  exact fun n hn => by simpa using h n (List.mem_range.mp hn)

theorem exec_copyComplete (hk : s.copy? k.id = some k) (hf : k.fence = none) (ha : k.allArrived = true) (hrun : s.copyMayRun k = true) :
    exec (.copyComplete k.id) s = .next (s.finishCopy k) := by
  apply event_some
  unfold State.completion
  simp only [hk, hf, ha, hrun, Option.bind_some, Option.isSome_none, Bool.not_true, Bool.or_self, Bool.false_eq_true, if_false]

theorem exec_queueFenceComplete {m : BitVec 4} (hk : s.copy? k.id = some k) (hf : k.fence = some m) (hm : s.fenceMet k m = true) :
    exec (.queueFenceComplete k.id) s = .next (s.finishCopy k) := by
  apply event_some
  simp only [hk, hf, hm, Option.bind_some, if_true]

end

/-! ### Presence bits and the waves parked on them (R59) -/

section
variable {s : State} {gang : Nat} {lines : List Nat} {g : Gang}

/-- The state with the presence bits of some lines set, no wave woken yet. -/
def State.markPresent (s : State) (gang : Nat) (lines : List Nat) : State := s.modGang gang fun g => { g with absent := g.absent.filter fun l => !lines.contains l }

/-- Setting presence bits changes the gangs' bits and at most the waves. -/
theorem setPresent_eq : s.setPresent gang lines = { s.markPresent gang lines with waves := (s.setPresent gang lines).waves } := by
  unfold State.setPresent
  split <;> rfl

theorem setPresent_gangs : (s.setPresent gang lines).gangs = (s.markPresent gang lines).gangs := by rw [setPresent_eq]

theorem setPresent_mem : (s.setPresent gang lines).mem = s.mem := by
  rw [setPresent_eq]
  rfl

theorem setPresent_eng : (s.setPresent gang lines).eng = s.eng := by
  rw [setPresent_eq]
  rfl

theorem setPresent_fifo : (s.setPresent gang lines).fifo = s.fifo := by
  rw [setPresent_eq]
  rfl

theorem not_absent_of_setPresent {x : Gang} {l : Nat} (hx : x ∈ (s.setPresent gang lines).gangs) (hid : x.id = gang) (hl : l ∈ lines) : l ∉ x.absent := by
  rw [setPresent_gangs] at hx
  obtain ⟨y, -, rfl⟩ := List.mem_map.mp hx
  by_cases hy : y.id = gang
  · rw [if_pos hy, List.mem_filter]
    simp [hl]
  · rw [if_neg hy] at hid
    exact absurd hid hy

/-- The waves of a gang that are parked on a present line are withdrawn from their wait, and no others change. -/
theorem wakePresent_waves (hg : s.gang? gang = some g) : (s.wakePresent gang).waves =
    s.waves.map fun x => if x.gang = gang ∧ x.wakeKind = 5 ∧ bitsOf x.wake.toNat 4 28 ∉ g.absent then x.withdraw else x := by
  unfold State.wakePresent
  simp only [hg, Option.any_some, Bool.and_eq_true, decide_eq_true_eq, Bool.not_eq_true', List.contains_eq_mem, decide_eq_false_iff_not, and_assoc]

theorem gang?_modGang_same {f : Gang → Gang} (hf : ∀ g, (f g).id = g.id) (hg : s.gang? gang = some g) : (s.modGang gang f).gang? gang = some (f g) := by
  rw [State.gang?_modGang _ _ _ hf, hg, Option.map_some, if_pos rfl]

/-- A line that comes wakes the waves parked on it at once, unless their gang is about to leave. -/
theorem setPresent_waves (hg : s.gang? gang = some g) : (s.setPresent gang lines).waves = s.waves.map fun x =>
    if g.leaving = none ∧ x.gang = gang ∧ x.wakeKind = 5 ∧ (bitsOf x.wake.toNat 4 28 ∉ g.absent ∨ bitsOf x.wake.toNat 4 28 ∈ lines) then x.withdraw else x := by
  unfold State.setPresent
  rw [hg, Option.any_some]
  cases hleave : g.leaving with
  | none =>
    have hmarked : (s.markPresent gang lines).gang? gang = some { g with absent := g.absent.filter fun l => !lines.contains l } :=
      gang?_modGang_same (f := fun g => { g with absent := g.absent.filter fun l => !lines.contains l }) (fun _ => rfl) hg
    refine (wakePresent_waves hmarked).trans ?_
    simp only [List.mem_filter, Bool.not_eq_true', List.contains_eq_mem, decide_eq_false_iff_not, not_and_or, not_not, true_and]
    rfl
  | some _ => simp [State.modGang]

/-- A gang that stays wakes the waves parked on what has come meanwhile. -/
theorem stopLeaving_waves (hg : s.gang? gang = some g) : (s.stopLeaving gang).waves =
    s.waves.map fun x => if x.gang = gang ∧ x.wakeKind = 5 ∧ bitsOf x.wake.toNat 4 28 ∉ g.absent then x.withdraw else x := by
  have hstays : (s.modGang gang fun g => { g with leaving := none }).gang? gang = some { g with leaving := none } :=
    gang?_modGang_same (f := fun g => { g with leaving := none }) (fun _ => rfl) hg
  have hwaves := wakePresent_waves hstays
  exact hwaves

/-- A withdrawn wave waits at nothing, and its group stands where it did. -/
theorem withdraw_waits_nowhere (x : Wave) : x.withdraw.wakeKind = 0 ∧ x.withdraw.waiting = none ∧ x.withdraw.pc = x.pc ∧ x.withdraw.s = x.s ∧ x.withdraw.v = x.v ∧ x.withdraw.p = x.p := by
  have hcounter (i : Instr) : (x.lower i.counter).pc = x.pc ∧ (x.lower i.counter).s = x.s ∧ (x.lower i.counter).v = x.v ∧ (x.lower i.counter).p = x.p := by
    unfold Wave.lower Wave.modCounter
    split <;> exact ⟨rfl, rfl, rfl, rfl⟩
  refine ⟨by simp [Wave.withdraw, Wave.wakeKind, bitsOf], rfl, ?_⟩
  unfold Wave.withdraw
  split
  · split
    · exact ⟨rfl, rfl, rfl, rfl⟩
    · exact hcounter _
  · exact ⟨rfl, rfl, rfl, rfl⟩

variable {w : Wave} {id : Nat}

/-- A wave that is not parked on a line stays as it is. -/
theorem wave?_wakePresent (hw : s.wave? id = some w) (h : w.wakeKind ≠ 5) : (s.wakePresent gang).wave? id = some w := by
  have hnames : (fun x : Wave => decide (x.id = id)) ∘ (fun x => if x.gang = gang && x.wakeKind = 5 && (s.gang? gang).any (fun g => !g.absent.contains (bitsOf x.wake.toNat 4 28))
      then x.withdraw else x) = fun x => decide (x.id = id) := by
    funext x
    simp only [Function.comp]
    split
    · rw [Wave.withdraw_id]
    · rfl
  unfold State.wave? at hw
  unfold State.wakePresent State.wave?
  rw [List.find?_map, hnames, hw, Option.map_some, decide_eq_false h, Bool.and_false, Bool.false_and, if_neg Bool.false_ne_true]

theorem wave?_setPresent (hw : s.wave? id = some w) (h : w.wakeKind ≠ 5) : (s.setPresent gang lines).wave? id = some w := by
  unfold State.setPresent
  simp only
  split
  · exact wave?_wakePresent hw h
  · exact hw

end

/-! ### A command that leaves its queue (R389, R390) -/

section
variable {s : State} {k : Copy} {w : Wave}

/-- What the wave of a command notes as the command leaves its queue: CP falls, and its report is queued. -/
def Wave.afterCopy (w : Wave) (k : Copy) : Wave :=
  if w.alive then (match k.report with | some t => { w with cp := w.cp - 1 }.queueTrap t | none => { w with cp := w.cp - 1 }) else w

/-- The state in which a command has left its queue: its lines are present, and its wave has noted it. -/
def State.leftQueue (s : State) (k : Copy) : State :=
  ((s.modEng fun e => { e with copies := e.copies.filter fun x => x.id ≠ k.id }).setPresent k.gang k.dstLines).modWave k.wave fun w => w.afterCopy k

theorem finishCopy_eq : s.finishCopy k = ((s.leftQueue k).sweepGang k.gang).distribute := rfl

/-- A gang with a wave that lives is not over. -/
theorem sweepGang_of_alive {t : State} {x : Wave} (hx : x ∈ t.waves) (ha : x.alive = true) : t.sweepGang x.gang = t := by
  have hlives : ((t.wavesOf x.gang).all fun y => !y.alive) = false := by
    rw [List.all_eq_false]
    exact ⟨x, List.mem_filter.mpr ⟨hx, by simp⟩, by simp [ha]⟩
  unfold State.sweepGang
  simp only [hlives, Bool.false_and, Bool.false_eq_true, if_false]

theorem distribute_of_fifo_nil {t : State} (h : t.fifo = []) : t.distribute = t := if_pos h

@[simp] theorem Wave.afterCopy_id (w : Wave) (k : Copy) : (w.afterCopy k).id = w.id := by
  unfold Wave.afterCopy
  split
  · split <;> rfl
  · rfl

theorem afterCopy_of_alive (ha : w.alive = true) : w.afterCopy k = { w with cp := w.cp - 1, engineTraps := w.engineTraps ++ k.report.toList } := by
  unfold Wave.afterCopy
  rw [if_pos ha]
  cases k.report with
  | none => simp
  | some t => rfl

/-- The wave of a command that is not parked on a line, once the command has left its queue. -/
theorem wave?_leftQueue (hw : s.wave? k.wave = some w) (h5 : w.wakeKind ≠ 5) : (s.leftQueue k).wave? k.wave = some (w.afterCopy k) := by
  unfold State.leftQueue
  rw [State.wave?_modWave _ _ _ fun w => w.afterCopy_id k, wave?_setPresent (s := s.modEng _) hw h5, Option.map_some, if_pos rfl]

/-- Where the wave of a command lives and no gang waits for room, its completion is all that happens. -/
theorem finishCopy_of_alive (hfifo : s.fifo = []) (hw : s.wave? k.wave = some w) (ha : w.alive = true) (hg : w.gang = k.gang) (h5 : w.wakeKind ≠ 5) :
    s.finishCopy k = s.leftQueue k := by
  have hmem := List.mem_of_find?_eq_some (wave?_leftQueue hw h5)
  rw [afterCopy_of_alive ha] at hmem
  rw [finishCopy_eq, ← hg]
  have hgang := sweepGang_of_alive hmem ha
  simp only at hgang
  rw [hgang, distribute_of_fifo_nil]
  exact setPresent_fifo.trans hfifo

end

/-- Settles O45: the steps by their equations; presence bits by the gangs' and waves' maps; a completion as its wave lives and no gang waits for room. -/
theorem copiesArriveAndComplete : Obligations.CopiesArriveAndComplete := by
  unfold Obligations.CopiesArriveAndComplete
  intro s k w hk hw
  refine ⟨fun n p hp hn hrun hrel hsrc hmaps heng => ?_, fun hf ha hrun => exec_copyComplete hk hf (allArrived_of_mem ha) hrun, fun m hf hm => exec_queueFenceComplete hk hf hm,
    fun gang lines => ⟨fun g hg hid l hl => not_absent_of_setPresent hg hid hl, setPresent_mem⟩, fun gang lines g hg => ⟨setPresent_waves hg, stopLeaving_waves hg⟩, withdraw_waits_nowhere,
    fun hfifo ha hg h5 => ?_⟩
  · rw [exec_copyLineArrival hk hw hp hn hrun hrel hsrc hmaps heng]
    rfl
  · intro u
    have hu : u = s.leftQueue k := finishCopy_of_alive hfifo hw ha hg h5
    rw [hu]
    refine ⟨congrArg Engines.copies setPresent_eng, setPresent_mem, fun l hl g hg hid => not_absent_of_setPresent hg hid hl, ?_⟩
    rw [wave?_leftQueue hw h5, afterCopy_of_alive ha]

end Sys2Proof.Machine
end

section
/-! PROOFS. The mailbox's other commands (O57). -/

namespace Sys2Proof.Machine

/-! ### Lines written back where a slice has no room (R31, R64) -/

/-- Some dirty marks are set: memory changes at most at their bytes, the host loses lines that it held, and nothing else changes. -/
structure MarksDirty (marks : List (Nat × Nat)) (s u : State) : Prop where
  frame : u = { s with mem := u.mem, host := { s.host with cached := u.host.cached } }
  mem : ∀ x, (∀ k ∈ marks, x ≠ s.localPa (k.1 + k.2 / 8)) → u.mem.get x = s.mem.get x

/-- Modified lines are written back: some are modified no longer, memory changes at most at the dirty marks that they carry, and nothing else changes. -/
structure WritesBack (t u : State) : Prop where
  frame : u = { t with mem := u.mem, caches := { t.caches with dirty := u.caches.dirty }, host := { t.host with cached := u.host.cached } }
  dirty : u.caches.dirty.Sublist t.caches.dirty
  mem : ∀ x, (∀ d ∈ t.caches.dirty, ∀ side ∈ d.sides, x ≠ t.localPa (side.1 + side.2 / 8)) → u.mem.get x = t.mem.get x

/-- Where a state's address map is another's, they name the same local addresses (R17). -/
theorem localPa_congr {s u : State} (h : u.kiln = s.kiln) (pa : Nat) : u.localPa pa = s.localPa pa := by
  unfold State.localPa
  rw [h]

/-- A byte is written: no line is whole, so that no line's poison clears (R495). -/
theorem putBytes_byte_poison (s : State) (pa : Nat) (b : Byte) : (s.putBytes pa [b]).poison = s.poison := by
  refine List.filter_eq_self.mpr fun l _ => ?_
  rw [Bool.not_eq_true', ← Bool.not_eq_true, Bool.and_eq_true, decide_eq_true_eq, decide_eq_true_eq, List.length_singleton]
  omega

theorem MarksDirty.putByte (s : State) (pa : Nat) (b : Byte) (marks : List (Nat × Nat)) (h : ∃ k ∈ marks, k.1 + k.2 / 8 = pa) : MarksDirty marks s (s.putBytes pa [b]) := by
  constructor
  · calc s.putBytes pa [b] = { s with mem := (s.putBytes pa [b]).mem, poison := (s.putBytes pa [b]).poison, host := { s.host with cached := (s.putBytes pa [b]).host.cached } } := rfl
      _ = _ := by rw [putBytes_byte_poison]
  · intro x hx
    obtain ⟨k, hk, hpa⟩ := h
    have hne := hx k hk
    rw [hpa] at hne
    exact sameBytesOutside_putBytes s pa [b] x fun ⟨hlo, hhi⟩ => hne (by rw [List.length_singleton] at hhi; omega)

theorem MarksDirty.refl (marks : List (Nat × Nat)) (s : State) : MarksDirty marks s s := ⟨rfl, fun _ _ => rfl⟩

theorem MarksDirty.trans {marks : List (Nat × Nat)} {s t u : State} (h1 : MarksDirty marks s t) (h2 : MarksDirty marks t u) : MarksDirty marks s u := by
  have hkiln : t.kiln = s.kiln := by rw [h1.frame]
  constructor
  · rw [h2.frame, h1.frame]
  · exact fun x hx => (h2.mem x fun k hk => by rw [localPa_congr hkiln]; exact hx k hk).trans (h1.mem x hx)

theorem MarksDirty.setDirty {marks : List (Nat × Nat)} (s : State) {k : Nat × Nat} (h : k ∈ marks) : MarksDirty marks s (s.setDirty k.1 k.2) := by
  unfold State.setDirty
  split
  · exact MarksDirty.refl marks s
  · exact MarksDirty.putByte s _ _ marks ⟨k, h, rfl⟩

/-- Marks set one after another. -/
theorem MarksDirty.foldl {marks : List (Nat × Nat)} (ks : List (Nat × Nat)) (s : State) (h : ∀ k ∈ ks, k ∈ marks) : MarksDirty marks s (ks.foldl (fun t x => t.setDirty x.1 x.2) s) := by
  induction ks generalizing s with
  | nil => exact MarksDirty.refl marks s
  | cons k ks ih => exact (MarksDirty.setDirty s (h k (by simp))).trans (ih _ fun x hx => h x (by simp [hx]))

theorem WritesBack.refl (t : State) : WritesBack t t := ⟨rfl, List.Sublist.refl _, fun _ _ => rfl⟩

theorem WritesBack.trans {s t u : State} (h1 : WritesBack s t) (h2 : WritesBack t u) : WritesBack s u := by
  have hkiln : t.kiln = s.kiln := by rw [h1.frame]
  refine ⟨?_, h2.dirty.trans h1.dirty, fun x hx => ?_⟩
  · rw [h2.frame, h1.frame]
  · refine (h2.mem x fun d hd side hside => ?_).trans (h1.mem x hx)
    rw [localPa_congr hkiln]
    exact hx d (h1.dirty.mem hd) side hside

theorem writeBack_dirty (s : State) (d : DirtyLine) : (s.writeBack d).caches.dirty = s.caches.dirty.filter fun x => x.pline ≠ d.pline := by
  unfold State.writeBack
  rw [State.modCaches_caches, foldl_setDirty_caches]

/-- A modified line of a state, written back in a state that comes after it. -/
theorem WritesBack.writeBack {t s : State} {d : DirtyLine} (h : WritesBack t s) (hd : d ∈ t.caches.dirty) : WritesBack t (s.writeBack d) := by
  have hkiln : s.kiln = t.kiln := by rw [h.frame]
  have hmarks := MarksDirty.foldl (marks := d.sides) d.sides s fun _ hk => hk
  refine ⟨?_, ?_, fun x hx => ?_⟩
  · unfold State.writeBack
    rw [hmarks.frame, h.frame]
    rfl
  · rw [writeBack_dirty]
    exact List.filter_sublist.trans h.dirty
  · refine (hmarks.mem x fun k hk => ?_).trans (h.mem x hx)
    rw [localPa_congr hkiln]
    exact hx d hd k hk

theorem WritesBack.foldl {t : State} (ds : List DirtyLine) {s : State} (h : WritesBack t s) (hds : ∀ d ∈ ds, d ∈ t.caches.dirty) : WritesBack t (ds.foldl State.writeBack s) := by
  induction ds generalizing s with
  | nil => exact h
  | cons d ds ih => exact ih (h.writeBack (hds d (by simp))) fun x hx => hds x (by simp [hx])

theorem foldl_writeBack_dirty (ds : List DirtyLine) (s : State) :
    (ds.foldl State.writeBack s).caches.dirty = s.caches.dirty.filter fun x => ds.all fun d => x.pline ≠ d.pline := by
  induction ds generalizing s with
  | nil => exact (List.filter_eq_self.mpr fun _ _ => rfl).symm
  | cons d ds ih =>
    rw [List.foldl_cons, ih, writeBack_dirty, List.filter_filter]
    simp only [List.all_cons, Bool.and_comm]

/-! ### The room of a slice (R1, R46, R64) -/

/-- The modified HOME 00 lines of a slice. -/
def State.sliceLines (t : State) (k : Nat) : List DirtyLine := t.caches.dirty.filter fun d => decide (d.home = 0 ∧ homeSlice (d.pline * 64) = k)

/-- The slice has room for its pinned lines and its modified ones, or has no modified one left. -/
def State.SliceFits (t : State) (k : Nat) : Prop := t.sliceLines k = [] ∨ (t.sliceLines k).length + linesAt k t.slicePins ≤ 32768

theorem sliceRoom_eq (t : State) (k : Nat) : t.sliceRoom k = ((t.sliceLines k).take ((t.sliceLines k).length + linesAt k t.slicePins - 32768)).foldl State.writeBack t := by
  simp only [State.sliceRoom, State.sliceLines, Bool.decide_and]

theorem WritesBack.sliceRoom (t : State) (k : Nat) : WritesBack t (t.sliceRoom k) := by
  rw [sliceRoom_eq]
  exact WritesBack.foldl _ (WritesBack.refl t) fun d hd => (List.mem_filter.mp (List.mem_of_mem_take hd)).1

theorem WritesBack.slicePins {t u : State} (h : WritesBack t u) : u.slicePins = t.slicePins := by
  unfold State.slicePins
  rw [h.frame]

/-- Lines that are written back take no room. -/
theorem WritesBack.fits {t u : State} {k : Nat} (h : WritesBack t u) (hf : t.SliceFits k) : u.SliceFits k := by
  have hsub : (u.sliceLines k).Sublist (t.sliceLines k) := h.dirty.filter _
  unfold State.SliceFits
  rw [h.slicePins]
  refine hf.imp (fun hnil => ?_) fun hroom => ?_
  · rw [hnil] at hsub
    exact List.sublist_nil.mp hsub
  · have := hsub.length_le
    omega

/-- Of a list without what shares a key with its first entries, no more is left than the rest. -/
theorem length_filter_take_le {ls : List DirtyLine} {n : Nat} : (ls.filter fun x => (ls.take n).all fun d => x.pline ≠ d.pline).length ≤ ls.length - n := by
  have htaken : ((ls.take n).filter fun x => (ls.take n).all fun d => x.pline ≠ d.pline) = [] := by
    rw [List.filter_eq_nil_iff]
    intro x hx hall
    exact of_decide_eq_true (List.all_eq_true.mp hall x hx) rfl
  calc (ls.filter fun x => (ls.take n).all fun d => x.pline ≠ d.pline).length
      = ((ls.take n ++ ls.drop n).filter fun x => (ls.take n).all fun d => x.pline ≠ d.pline).length := by rw [List.take_append_drop]
    _ = ((ls.drop n).filter fun x => (ls.take n).all fun d => x.pline ≠ d.pline).length := by rw [List.filter_append, htaken, List.nil_append]
    _ ≤ (ls.drop n).length := List.length_filter_le _ _
    _ = ls.length - n := List.length_drop

/-- The lines modified longest leave until the slice has room. -/
theorem sliceRoom_fits (t : State) (k : Nat) : (t.sliceRoom k).SliceFits k := by
  have hpins := (WritesBack.sliceRoom t k).slicePins
  have hlines : (t.sliceRoom k).sliceLines k = (t.sliceLines k).filter fun x =>
      ((t.sliceLines k).take ((t.sliceLines k).length + linesAt k t.slicePins - 32768)).all fun d => x.pline ≠ d.pline := by
    rw [sliceRoom_eq, State.sliceLines, foldl_writeBack_dirty, List.filter_filter, State.sliceLines, List.filter_filter]
    simp only [Bool.and_comm]
  have hle : ((t.sliceRoom k).sliceLines k).length ≤ (t.sliceLines k).length - ((t.sliceLines k).length + linesAt k t.slicePins - 32768) := by
    rw [hlines]
    exact length_filter_take_le
  unfold State.SliceFits
  rw [hpins]
  by_cases hpinned : linesAt k t.slicePins ≤ 32768
  · right
    omega
  · left
    exact List.eq_nil_of_length_eq_zero (by omega)

theorem sliceRoom_of_roomy {t : State} {k : Nat} (h : (t.sliceLines k).length + linesAt k t.slicePins ≤ 32768) : t.sliceRoom k = t := by
  have hnone : (t.sliceLines k).length + linesAt k t.slicePins - 32768 = 0 := Nat.sub_eq_zero_iff_le.mpr h
  rw [sliceRoom_eq, hnone]
  rfl

theorem foldl_sliceRoom (ks : List Nat) (t : State) : WritesBack t (ks.foldl State.sliceRoom t) ∧ ∀ k ∈ ks, (ks.foldl State.sliceRoom t).SliceFits k := by
  induction ks generalizing t with
  | nil => exact ⟨WritesBack.refl t, fun _ h => nomatch h⟩
  | cons k ks ih =>
    obtain ⟨hback, hfits⟩ := ih (t.sliceRoom k)
    rw [List.foldl_cons]
    refine ⟨(WritesBack.sliceRoom t k).trans hback, fun j hj => ?_⟩
    obtain rfl | hj := List.mem_cons.mp hj
    · exact hback.fits (sliceRoom_fits t j)
    · exact hfits j hj

theorem foldl_sliceRoom_of_roomy (ks : List Nat) {t : State} (h : ∀ k ∈ ks, (t.sliceLines k).length + linesAt k t.slicePins ≤ 32768) : ks.foldl State.sliceRoom t = t := by
  induction ks with
  | nil => rfl
  | cons k ks ih => rw [List.foldl_cons, sliceRoom_of_roomy (h k (by simp)), ih fun j hj => h j (by simp [hj])]

/-! ### A command that the mailbox answers at once (R480, R481) -/

/-- The device runs, no mailbox command does, and MBCMD holds an OP. -/
structure State.Idle (s : State) (op : Nat) : Prop where
  posture : s.kiln.recovery = false
  free : s.busy = false
  op : s.mailboxOp = op

theorem idle_of_op {s : State} {op : Nat} (h1 : s.kiln.recovery = false) (h2 : s.kiln.mbstat.getLsbD 0 = false) (h : s.kiln.mbcmd.toNat % 2 ^ 16 = op) : s.Idle op :=
  ⟨h1, h2, (bitsOf_zero _ _).trans h⟩

/-- A command that succeeds leaves the result 0. -/
theorem mailboxDone_ok (s : State) : s.mailboxDone 0 = s.modKiln fun k => { k with mbstat := k.mbstat &&& 2, pending := none } := by
  unfold State.mailboxDone
  rw [Nat.zero_mul]
  simp only [BitVec.ofNat_eq_ofNat, BitVec.or_zero]

section
variable {s t : State} {op r : Nat} {row : String} {run : State → Nat × State}

theorem doorbell_answers (h : s.Idle op) (hr : run s = (r, t)) : doorbell row op s run = .next (t.mailboxDone r).distribute := by
  rw [doorbell_next h.posture h.free h.op, hr]

/-! ### QUANTUM, PEERNUM and the proofs (R161, R206, R489) -/

theorem exec_quantum_of_range (h : s.Idle 0x20) (h0 : s.arg 0 ≤ 3) (h1 : 1 ≤ s.arg 1) (h64 : s.arg 1 ≤ 64) :
    exec .quantum s = .next (({ s with quanta := s.quanta.set (s.arg 0) (s.kiln.mbarg.get 1) } : State).mailboxDone 0).distribute := by
  have hvalue : BitVec.ofNat 64 (s.arg 1) = s.kiln.mbarg.get 1 := BitVec.ofNat_toNat _ _
  rw [← hvalue]
  exact (doorbell_answers h (if_neg (by simp; omega)) : execQuantum s = _)

theorem exec_quantum_of_bad (h : s.Idle 0x20) (hb : 3 < s.arg 0 ∨ s.arg 1 = 0 ∨ 64 < s.arg 1) : exec .quantum s = .next (s.mailboxDone 2).distribute :=
  (doorbell_answers h (if_pos (by simpa [or_assoc] using hb)) : execQuantum s = _)

theorem exec_peernum_of_range (h : s.Idle 0x41) (h63 : s.arg 0 ≤ 63) :
    exec .peernum s = .next (((s.modKiln fun k => { k with peernum := BitVec.ofNat 6 (s.arg 0) }).renameLines).mailboxDone 0).distribute :=
  (doorbell_answers h (if_neg (by omega)) : execPeernum s = _)

theorem exec_peernum_of_bad (h : s.Idle 0x41) (hb : 63 < s.arg 0) : exec .peernum s = .next (s.mailboxDone 2).distribute :=
  (doorbell_answers h (if_pos hb) : execPeernum s = _)

theorem exec_proofpull (h : s.Idle 0x31) : exec .proofpull s = .next (s.pullProof.mailboxDone 0).distribute := (doorbell_answers h rfl : execProofpull s = _)

/-- The proof of a wave (R206). -/
def Wave.proof (w : Wave) : Proof :=
  { core := w.core, slot := w.slot, pc := (lowestPc w.groupPcs).getD 0, tstat := w.tstat,
    counters := BitVec.ofNat 64 (w.ld.toNat + w.st.toNat * 64 + w.cp.toNat * 4096 + w.tl.toNat * 262144), wake := w.wake }

theorem pullProof_eq : s.pullProof = s.modKiln fun k => { k with proofs := (s.waves.filter fun w => w.alive && s.isResident w.gang).map Wave.proof } := rfl

theorem proof_eq_iff {p : Proof} {w : Wave} : w.proof = p ↔ p.core = w.core ∧ p.slot = w.slot ∧ p.pc = (lowestPc w.groupPcs).getD 0 ∧ p.tstat = w.tstat ∧ p.wake = w.wake ∧
    p.counters = BitVec.ofNat 64 (w.ld.toNat + w.st.toNat * 2 ^ 6 + w.cp.toNat * 2 ^ 12 + w.tl.toNat * 2 ^ 18) := by
  constructor
  · rintro rfl
    exact ⟨rfl, rfl, rfl, rfl, rfl, rfl⟩
  · obtain ⟨core, slot, pc, tstat, counters, wake⟩ := p
    rintro ⟨rfl, rfl, rfl, rfl, rfl, rfl⟩
    rfl

theorem mem_proofs {p : Proof} : p ∈ (s.waves.filter fun w => w.alive && s.isResident w.gang).map Wave.proof ↔
    ∃ w ∈ s.waves, w.alive = true ∧ s.isResident w.gang = true ∧ w.proof = p := by
  simp only [List.mem_map, List.mem_filter, Bool.and_eq_true, and_assoc]

/-- The words of MBRES that a core's latched proofs give; their layout is not stated (log entry 63). -/
def proofWords (ps : List Proof) (n : Nat) : Quad := Config.proofWord (ps.map fun p => (p.slot, p.pc, p.tstat, p.counters, p.wake)) n

/-- MBRES after a PROOFREAD. -/
def State.proofRead (s : State) : SMap 64 := s.kiln.mbres.setMany (List.range 31) (fun j => j) (proofWords (s.kiln.proofs.filter fun p => p.core = s.arg 0))

theorem modKiln_modKiln (s : State) (f g : Kiln → Kiln) : (s.modKiln f).modKiln g = s.modKiln fun k => g (f k) := rfl

theorem modKiln_congr {f g : Kiln → Kiln} (h : f s.kiln = g s.kiln) : s.modKiln f = s.modKiln g := by
  unfold State.modKiln
  rw [h]

theorem exec_proofread_of_core (h : s.Idle 0x30) (hc : s.arg 0 ≤ 383) :
    exec .proofread s = .next (s.modKiln fun k => { k with mbres := s.proofRead, mbstat := k.mbstat &&& 2, pending := none }).distribute := by
  have hrun : exec .proofread s = .next ((s.modKiln fun k =>
      { k with mbres := k.mbres.setMany (List.range 31) (fun j => j) (proofWords (s.kiln.proofs.filter fun p => p.core = s.arg 0)) }).mailboxDone 0).distribute :=
    (doorbell_answers h (if_neg (by omega)) : execProofread s = _)
  rw [modKiln_congr (g := fun k => { k with mbres := s.proofRead }) rfl, mailboxDone_ok, modKiln_modKiln] at hrun
  exact hrun

theorem exec_proofread_of_bad (h : s.Idle 0x30) (hb : 383 < s.arg 0) : exec .proofread s = .next (s.mailboxDone 2).distribute :=
  (doorbell_answers h (if_pos hb) : execProofread s = _)

/-- A write of the first entries of a store. -/
theorem get_setMany_range {m : SMap 64} {f : Nat → Quad} {k n : Nat} : (m.setMany (List.range k) (fun j => j) f).get n = if n < k then f n else m.get n := by
  rw [SMap.get_setMany _ _ _ _ _ fun _ _ _ _ h => h, find_self]
  by_cases hn : n < k <;> simp [hn]

/-! ### PIN and UNPIN (R60, R61, R64) -/

theorem pinTarget_eq_some {tr : Trans} : s.pinTarget = some tr ↔ s.arg 0 ≤ 4095 ∧ s.arg 1 % 4096 = 0 ∧ (s.arg 2 = 1 ∨ s.arg 2 = 2) ∧
    walk s (s.arg 0) (s.arg 1) ⟨false, false, false⟩ true = .ok tr ∧ leafHome tr.leaf = s.arg 2 := by
  have hrange : ¬(4095 < s.arg 0 || s.arg 1 % 4096 ≠ 0 || !(s.arg 2 = 1 || s.arg 2 = 2)) = true ↔ s.arg 0 ≤ 4095 ∧ s.arg 1 % 4096 = 0 ∧ (s.arg 2 = 1 ∨ s.arg 2 = 2) := by
    simp [or_iff_not_imp_left]
  unfold State.pinTarget
  split
  · rename_i hbad
    have := mt hrange.mpr (not_not_intro hbad)
    simp only [reduceCtorEq, false_iff]
    exact fun ⟨h0, h1, h2, _⟩ => this ⟨h0, h1, h2⟩
  · rename_i hok
    obtain ⟨h0, h1, h2⟩ := hrange.mp hok
    simp only [h0, h1, h2, true_and]
    cases walk s (s.arg 0) (s.arg 1) ⟨false, false, false⟩ true with
    | error f => simp
    | ok t =>
      simp only [Except.ok.injEq, Option.ite_none_right_eq_some, Option.some.injEq]
      exact ⟨fun ⟨hl, ht⟩ => ⟨ht, ht ▸ hl⟩, fun ⟨ht, hl⟩ => ⟨ht ▸ hl, ht⟩⟩

/-- The owner of the pins that a PIN makes: the leaf's, of a HOME 10 page. -/
def State.pinOwner (s : State) (tr : Trans) : Nat := if s.arg 2 = 2 then leafOwner tr.leaf else 0

/-- The pages of a translation that have no such pin yet. -/
def State.pinPages (s : State) (tr : Trans) : List Nat := tr.pages.filter fun p => !s.caches.pins.contains ⟨p, s.arg 2, s.pinOwner tr⟩

/-- The state with the pins of a PIN made, before any line gives way to them. -/
def State.pinned (s : State) (tr : Trans) : State := s.modCaches fun c => { c with pins := c.pins ++ (s.pinPages tr).map fun p => ⟨p, s.arg 2, s.pinOwner tr⟩ }

theorem exec_pin_of_unmapped (h : s.Idle 0x21) (hp : s.pinTarget = none) : exec .pin s = .next (s.mailboxDone 2).distribute :=
  (doorbell_answers h (by rw [hp]; rfl) : execPin s = _)

theorem exec_pin_of_room {tr : Trans} (h : s.Idle 0x21) (hp : s.pinTarget = some tr) (hr : s.pinRoom (s.arg 2) (s.pinOwner tr) (s.pinPages tr) = true) :
    exec .pin s = .next ((s.pinned tr).slicesRoom.mailboxDone 0).distribute :=
  (doorbell_answers h (by rw [hp]; exact if_neg (by rw [Bool.not_eq_true', Bool.not_eq_false]; exact hr)) : execPin s = _)

theorem exec_pin_of_full {tr : Trans} (h : s.Idle 0x21) (hp : s.pinTarget = some tr) (hr : s.pinRoom (s.arg 2) (s.pinOwner tr) (s.pinPages tr) = false) :
    exec .pin s = .next (s.mailboxDone 2).distribute :=
  (doorbell_answers h (by rw [hp]; exact if_pos (by rw [Bool.not_eq_true']; exact hr)) : execPin s = _)

/-- A page of a translation has a pin of the HOME that the command names. -/
def State.HasPin (s : State) (tr : Trans) : Prop := ∃ p ∈ s.caches.pins, p.page ∈ tr.pages ∧ p.home = s.arg 2

theorem hasPin_iff {tr : Trans} : (s.caches.pins.any fun p => tr.pages.contains p.page && p.home = s.arg 2) = true ↔ s.HasPin tr := by
  simp only [List.any_eq_true, Bool.and_eq_true, List.contains_iff_mem, decide_eq_true_eq, State.HasPin]

/-- The state with the pins of a page taken away and its modified lines served as HOME 00, before any of them gives way (R64). -/
def State.unpinned (s : State) (tr : Trans) : State := s.modCaches fun c => { c with
  pins := c.pins.filter fun p => !(tr.pages.contains p.page && p.home = s.arg 2)
  dirty := c.dirty.map fun d => if s.arg 2 = 1 ∧ d.home = 1 ∧ d.pline / 64 ∈ tr.pages then { d with home := 0 } else d }

theorem exec_unpin_of_unmapped (h : s.Idle 0x22) (hp : s.pinTarget = none) : exec .unpin s = .next (s.mailboxDone 2).distribute :=
  (doorbell_answers h (by rw [hp]; rfl) : execUnpin s = _)

theorem exec_unpin_of_unpinned {tr : Trans} (h : s.Idle 0x22) (hp : s.pinTarget = some tr) (hn : ¬s.HasPin tr) : exec .unpin s = .next (s.mailboxDone 2).distribute :=
  (doorbell_answers h (by rw [hp]; exact if_pos (by rw [Bool.not_eq_true', ← Bool.not_eq_true, hasPin_iff]; exact hn)) : execUnpin s = _)

theorem unpinLines_eq (tr : Trans) : (s.modCaches fun c => { c with pins := c.pins.filter fun p => !(tr.pages.contains p.page && p.home = s.arg 2) }.unpinLines
    (if s.arg 2 = 1 then tr.pages else [])) = s.unpinned tr := by
  unfold State.unpinned Caches.unpinLines
  by_cases h2 : s.arg 2 = 1 <;> simp [h2]

theorem exec_unpin_of_pinned {tr : Trans} (h : s.Idle 0x22) (hp : s.pinTarget = some tr) (hpin : s.HasPin tr) :
    exec .unpin s = .next ((s.unpinned tr).slicesRoom.mailboxDone 0).distribute := by
  rw [← unpinLines_eq]
  show execUnpin s = _
  exact doorbell_answers h (by rw [hp]; exact if_neg (by rw [Bool.not_eq_true', Bool.not_eq_false, hasPin_iff]; exact hpin))

/-! ### Firmware (R490) -/

theorem fwArgs_of_range (h0 : s.arg 0 ≤ 1) (h1 : s.arg 1 ≤ 2 ^ 26) : s.fwArgs = some (decide (s.arg 0 = 1), s.arg 1) := if_neg (by simp; omega)

theorem fwArgs_of_bad (hb : 1 < s.arg 0 ∨ 2 ^ 26 < s.arg 1) : s.fwArgs = none := if_pos (by simpa using hb)

theorem exec_fwstage_of_bad (h : s.Idle 0x50) (hb : 1 < s.arg 0 ∨ 2 ^ 26 < s.arg 1) : exec .fwstage s = .next (s.mailboxDone 2).distribute :=
  (doorbell_answers h (by rw [fwArgs_of_bad hb]; rfl) : execFwstage s = _)

theorem exec_fwstage_of_booted (h : s.Idle 0x50) (h0 : s.arg 0 ≤ 1) (h1 : s.arg 1 ≤ 2 ^ 26) (hb : s.kiln.booted = decide (s.arg 0 = 1)) :
    exec .fwstage s = .next (s.mailboxDone 3).distribute :=
  (doorbell_answers h (by rw [fwArgs_of_range h0 h1]; exact if_pos hb.symm) : execFwstage s = _)

/-- The slot that a FWSTAGE fills with the image received. -/
def State.stagedSlot (s : State) : FwSlot :=
  { image := s.kiln.staging.getRange 0 (s.arg 1), version := Config.imageVersion (s.kiln.staging.getRange 0 (s.arg 1)), valid := false, cause := 0 }

theorem exec_fwstage_of_other (h : s.Idle 0x50) (h0 : s.arg 0 ≤ 1) (h1 : s.arg 1 ≤ 2 ^ 26) (hb : s.kiln.booted ≠ decide (s.arg 0 = 1)) :
    exec .fwstage s = .next ((s.modKiln fun k => { k.setSlot (decide (s.arg 0 = 1)) s.stagedSlot with marked := none }).mailboxDone 0).distribute :=
  (doorbell_answers h (by rw [fwArgs_of_range h0 h1]; exact if_neg hb.symm) : execFwstage s = _)

theorem exec_fwcommit_of_bad (h : s.Idle 0x51) (hb : 1 < s.arg 0 ∨ 2 ^ 26 < s.arg 1) : exec .fwcommit s = .next (s.mailboxDone 2).distribute :=
  (doorbell_answers h (by rw [fwArgs_of_bad hb]; rfl) : execFwcommit s = _)

theorem exec_fwcommit_of_booted (h : s.Idle 0x51) (h0 : s.arg 0 ≤ 1) (h1 : s.arg 1 ≤ 2 ^ 26) (hb : s.kiln.booted = decide (s.arg 0 = 1)) :
    exec .fwcommit s = .next (s.mailboxDone 3).distribute :=
  (doorbell_answers h (by rw [fwArgs_of_range h0 h1]; exact if_pos hb.symm) : execFwcommit s = _)

/-- The slot of a FWCOMMIT as the verification of its image leaves it. -/
def State.committed (s : State) : FwSlot := verified (s.kiln.slot (decide (s.arg 0 = 1))).image s.kiln.floor

theorem exec_fwcommit_of_valid (h : s.Idle 0x51) (h0 : s.arg 0 ≤ 1) (h1 : s.arg 1 ≤ 2 ^ 26) (hb : s.kiln.booted ≠ decide (s.arg 0 = 1)) (hv : s.committed.valid = true) :
    exec .fwcommit s = .next ((s.modKiln fun k => { k.setSlot (decide (s.arg 0 = 1)) s.committed with marked := some (decide (s.arg 0 = 1)) }).mailboxDone 0).distribute :=
  (doorbell_answers h (by rw [fwArgs_of_range h0 h1]; exact (if_neg hb.symm).trans (if_pos hv)) : execFwcommit s = _)

theorem exec_fwcommit_of_invalid (h : s.Idle 0x51) (h0 : s.arg 0 ≤ 1) (h1 : s.arg 1 ≤ 2 ^ 26) (hb : s.kiln.booted ≠ decide (s.arg 0 = 1)) (hv : s.committed.valid = false) :
    exec .fwcommit s = .next ((s.modKiln fun k => k.setSlot (decide (s.arg 0 = 1)) s.committed).mailboxDone 3).distribute :=
  (doorbell_answers h (by rw [fwArgs_of_range h0 h1]; exact (if_neg hb.symm).trans (if_neg (by rw [Bool.not_eq_true]; exact hv))) : execFwcommit s = _)

/-- An image passes exactly where nothing in it fails: it is not empty, its own check finds no cause, and its version is not below the floor. -/
theorem imageFailure_eq_zero {image : List Byte} {floor : Nat} : imageFailure image floor = 0 ↔ image ≠ [] ∧ Config.imageCause image = 0 ∧ floor ≤ Config.imageVersion image := by
  unfold imageFailure
  split
  · simp_all
  · split
    · simp_all
    · split <;> simp_all

/-! ### Doorbells that start nothing (R480, R481) -/

theorem exec_mailboxBadcmd (h : s.Idle op) (hop : op ∉ mailboxOps) : exec .mailboxBadcmd s = .next (s.mailboxDone 1) := by
  apply event_some
  have hnot : mailboxOps.contains s.mailboxOp = false := by simpa [h.op] using hop
  simp only [h.posture, h.free, hnot, Bool.or_self, Bool.false_eq_true, if_false, resultBadcmd]

theorem exec_doorbellWhileBusy (h : s.busy = true) : exec .doorbellWhileBusy s = .next (s.modKiln fun k => { k with mbstat := k.mbstat ||| 2 }) := event_some (if_pos h)

end

/-- What lines that give way leave, in the words of the obligation. -/
theorem slicesRoom_trims (t : State) : (t.slicesRoom = { t with mem := t.slicesRoom.mem, caches := { t.caches with dirty := t.slicesRoom.caches.dirty }, host := { t.host with cached := t.slicesRoom.host.cached } }) ∧
    ((∀ k, k < 192 → (t.sliceLines k).length + linesAt k t.slicePins ≤ 32768) → t.slicesRoom = t) ∧
    (∀ k, k < 192 → t.slicesRoom.sliceLines k = [] ∨ (t.slicesRoom.sliceLines k).length + linesAt k t.slicePins ≤ 32768) ∧ (∀ d ∈ t.slicesRoom.caches.dirty, d ∈ t.caches.dirty) ∧
    ∀ x, (∀ d ∈ t.caches.dirty, ∀ side ∈ d.sides, x ≠ t.localPa (side.1 + side.2 / 8)) → t.slicesRoom.mem.get x = t.mem.get x := by
  obtain ⟨hback, hfits⟩ := foldl_sliceRoom (List.range 192) t
  unfold State.slicesRoom
  refine ⟨hback.frame, fun h => foldl_sliceRoom_of_roomy _ fun k hk => h k (List.mem_range.mp hk), fun k hk => ?_, fun d hd => hback.dirty.mem hd, hback.mem⟩
  have hk := hfits k (List.mem_range.mpr hk)
  unfold State.SliceFits at hk
  rwa [hback.slicePins] at hk

/-- Settles O57: each command by its equations; the lines that give way by what a write-back keeps; an image by what can fail in it. -/
theorem deviceCommandsRun : Obligations.DeviceCommandsRun := by
  unfold Obligations.DeviceCommandsRun
  refine ⟨fun s h1 h2 => ?_, ⟨proofWords, fun s h1 h2 hop h0 => ?_⟩, fun image floor => ?_, fun s h => exec_doorbellWhileBusy h⟩
  · intro op a ends mine roomy trimmed
    have idle {n : Nat} (h : op = n) : s.Idle n := idle_of_op h1 h2 h
    refine ⟨fun h => ⟨exec_quantum_of_range (idle h), exec_quantum_of_bad (idle h)⟩, fun tr => pinTarget_eq_some, fun h => ⟨exec_pin_of_unmapped (idle h), fun tr hp => ⟨fun hr => ?_, fun hr => ?_⟩⟩,
      fun h => ⟨exec_unpin_of_unmapped (idle h), fun tr hp => ⟨fun hn => ?_, fun hpin => ?_⟩⟩, fun h => exec_proofread_of_bad (idle h), fun h => ?_, fun h => ⟨fun h63 => ?_, exec_peernum_of_bad (idle h)⟩,
      fun h => ⟨fun h0 h1 hb => ?_, fun h0 h1 hb => ?_, fun hb => ?_⟩, fun h => ⟨fun hb => ?_, fun h0 h1 hb => ?_⟩, fun h h0 h1 hb => ⟨fun hv => ?_, fun hv => ?_⟩, fun hop => ?_⟩
    · exact ⟨(s.pinned tr).slicesRoom, exec_pin_of_room (idle h) hp hr, slicesRoom_trims _⟩
    · exact exec_pin_of_full (idle h) hp hr
    · exact exec_unpin_of_unpinned (idle h) hp hn
    · exact ⟨(s.unpinned tr).slicesRoom, exec_unpin_of_pinned (idle h) hp hpin, slicesRoom_trims _⟩
    · refine ⟨_, exec_proofpull (idle h), List.length_map _, fun p => mem_proofs.trans ?_⟩
      simp only [proof_eq_iff]
    · exact exec_peernum_of_range (idle h) h63
    · exact exec_fwstage_of_other (idle h) h0 h1 hb
    · exact exec_fwstage_of_booted (idle h) h0 h1 hb
    · exact exec_fwstage_of_bad (idle h) hb
    · exact exec_fwcommit_of_bad (idle h) hb
    · exact exec_fwcommit_of_booted (idle h) h0 h1 hb
    · exact exec_fwcommit_of_valid (idle h) h0 h1 hb hv
    · exact exec_fwcommit_of_invalid (idle h) h0 h1 hb hv
    · exact exec_mailboxBadcmd (idle rfl) hop
  · have hidle : s.Idle 0x30 := idle_of_op h1 h2 hop
    exact ⟨s.proofRead, exec_proofread_of_core hidle h0, fun n => get_setMany_range⟩
  · exact ⟨rfl, rfl, decide_eq_true_iff, decide_eq_true_iff.trans imageFailure_eq_zero⟩

end Sys2Proof.Machine
end

section
/-! PROOFS. An atomic that turns on its own context's dirty tracking (O43). -/

namespace Sys2Proof.Machine

/-- An exchange of eight bytes by the ready lane whose datum sets DTE, at the entry of its own context. -/
def tableAtomic : Access := { tableStore with kind := .atomic 8 8 false }

/-- The context table in the host window, with the exchange in flight. -/
def tableAtomicState : State := { tableState with flights := [tableAtomic] }

/-- The exchange sets DTE of its own context before its write is noted, and so a DIRTY bit too. -/
theorem tableAtomicState_marks : (match exec (.atomicPerform 2 31 0) tableAtomicState with
    | .next t => t.mem.get tableMark
    | _ => 0) = 1 := by
  decide +kernel

/-- Refutes O43: like a store (O42), an atomic out of the package may write DTE of its own context's entry; the model asks whether the context tracks dirty pages after it has written the
new value, so that the write sets a DIRTY bit at once, a byte of memory that is not the atomic's. -/
theorem not_atomicsUpdateMemory : ¬ Obligations.AtomicsUpdateMemory := by
  unfold Obligations.AtomicsUpdateMemory
  intro h
  obtain ⟨hops, -⟩ := h tableAtomicState tableAtomic tableWave tableGang tableGrid tableLane rfl rfl rfl rfl rfl (by decide) (by decide) tableGrid_det (by decide) (by decide) (by decide)
    (by decide) (by decide) 8 (.inr rfl) (by decide) (by decide)
  obtain ⟨-, -, -, -, -, -, -, -, hexchange, -⟩ := hops false
  obtain ⟨u, hexec, -, hsame, hwaves⟩ := hexchange rfl
  have hmarks := tableAtomicState_marks
  have hmem : ((u.laneTo tableAtomic.id tableLane.lane tableLane.dest .performed).afterAccess tableAtomic).mem = u.mem :=
    afterAccess_mem (w := tableWave) (congrArg (List.find? fun w : Wave => w.id = 1) hwaves) (by decide)
  have hunchanged : u.mem.get tableMark = 0 := hsame tableMark (by decide)
  rw [show exec (.atomicPerform 2 31 0) tableAtomicState = _ from hexec, if_neg Bool.false_ne_true] at hmarks
  simp only [hmem, hunchanged] at hmarks
  nomatch hmarks

end Sys2Proof.Machine
end

section
/-! PROOFS. The barriers of workgroups and networks (O26). -/

namespace Sys2Proof.Machine

/-! ### What the merge of a gang's staged bytes leaves (R24, R31, R61, R167, R495) -/

/-- What accesses of the device itself leave: only memory, its poison, the caches, the contexts, the host's queues and the kiln may change. -/
structure OnlyHomes (s u : State) : Prop where
  frame : u = { s with mem := u.mem, poison := u.poison, caches := u.caches, contexts := u.contexts, host := u.host, kiln := u.kiln }

section
variable {s t u : State}

theorem OnlyHomes.of_eq {m : Memory} {p : List Nat} {c : Caches} {x : List Context} {h : HostQueues} {k : Kiln}
    (e : u = { s with mem := m, poison := p, caches := c, contexts := x, host := h, kiln := k }) : OnlyHomes s u := ⟨by rw [e]⟩

theorem OnlyHomes.refl (s : State) : OnlyHomes s s := ⟨rfl⟩

theorem OnlyHomes.trans (h1 : OnlyHomes s t) (h2 : OnlyHomes t u) : OnlyHomes s u := ⟨by rw [h2.frame, h1.frame]⟩

theorem OnlyHomes.foldl {β : Type} {f : State → β → State} (h : ∀ t b, OnlyHomes t (f t b)) (l : List β) (s : State) : OnlyHomes s (l.foldl f s) := by
  induction l generalizing s with
  | nil => exact OnlyHomes.refl s
  | cons b l ih => exact (h s b).trans (ih (f s b))

theorem OnlyHomes.putBytes (h : OnlyHomes s t) (pa : Nat) (bs : List Byte) : OnlyHomes s (t.putBytes pa bs) := h.trans ⟨rfl⟩

theorem OnlyHomes.modCaches (h : OnlyHomes s t) (f : Caches → Caches) : OnlyHomes s (t.modCaches f) := h.trans ⟨rfl⟩

theorem OnlyHomes.modHost (h : OnlyHomes s t) (f : HostQueues → HostQueues) : OnlyHomes s (t.modHost f) := h.trans ⟨rfl⟩

theorem OnlyHomes.modKiln (h : OnlyHomes s t) (f : Kiln → Kiln) : OnlyHomes s (t.modKiln f) := h.trans ⟨rfl⟩

theorem OnlyHomes.modCtx (h : OnlyHomes s t) (asid : Nat) (f : Context → Context) : OnlyHomes s (t.modCtx asid f) := h.trans ⟨rfl⟩

theorem OnlyHomes.postEvent (h : OnlyHomes s t) (e : Event) : OnlyHomes s (t.postEvent e) := by
  unfold State.postEvent
  split
  · unfold State.writeEvent
    cases e.fault with
    | none => exact ((h.putBytes _ _).putBytes _ _).modHost _
    | some _ => exact (((((h.putBytes _ _).modCtx _ _).modHost _).putBytes _ _).putBytes _ _).modHost _
  · exact h.modHost _

theorem OnlyHomes.logEvent (h : OnlyHomes s t) (code asid arg0 arg1 arg2 : Nat) : OnlyHomes s (t.logEvent code asid arg0 arg1 arg2) := by
  unfold State.logEvent
  dsimp only
  split
  · split
    · exact h.modHost _
    · exact (h.postEvent _).modHost _
  · exact (h.postEvent _).modHost _

theorem OnlyHomes.notePin (h : OnlyHomes s t) (asid pa leaf : Nat) : OnlyHomes s (t.notePin asid pa leaf) := by
  unfold State.notePin
  split
  · exact h.logEvent ..
  · split
    · exact h.logEvent ..
    · exact h

theorem OnlyHomes.noteWalk (h : OnlyHomes s t) (asid va : Nat) : OnlyHomes s (t.noteWalk asid va) := by
  unfold State.noteWalk
  split
  · exact h
  · exact h.trans (OnlyHomes.foldl (fun u l => ((OnlyHomes.refl u).postEvent _).modKiln _) _ t)

theorem OnlyHomes.markAccessed (h : OnlyHomes s t) (tr : Trans) : OnlyHomes s (t.markAccessed tr) := by
  unfold State.markAccessed
  split
  · exact h
  · exact h.putBytes _ _

theorem OnlyHomes.walked (h : OnlyHomes s t) (asid va : Nat) (need : Need) (priv : Bool) : OnlyHomes s (t.walked asid va need priv).2 := by
  unfold State.walked
  split
  · exact h.noteWalk asid va
  · exact (h.noteWalk asid va).markAccessed _

theorem OnlyHomes.tlbInsert (h : OnlyHomes s t) (quad asid va : Nat) (tr : Trans) (run : Bool) : OnlyHomes s (t.tlbInsert quad asid va tr run) := by
  unfold State.tlbInsert
  exact h.modCaches _

theorem OnlyHomes.translate (h : OnlyHomes s t) (quad asid va : Nat) (need : Need) (priv : Bool) (how : Nat) : OnlyHomes s (t.translate quad asid va need priv how).2 := by
  have hwalk := h.walked asid va need priv
  unfold State.translate
  split
  · exact h
  · split
    · exact h
    · split
      · rename_i hw
        rwa [hw] at hwalk
      · rename_i hw
        rw [hw] at hwalk
        exact hwalk.tlbInsert ..

theorem OnlyHomes.through (h : OnlyHomes s t) (core : Option Nat) (asid va : Nat) (need : Need) (priv : Bool) : OnlyHomes s (t.through core asid va need priv).2 := by
  unfold State.through
  split
  · exact h.translate ..
  · exact h.walked ..

theorem OnlyHomes.setDirty (h : OnlyHomes s t) (side page : Nat) : OnlyHomes s (t.setDirty side page) := by
  unfold State.setDirty
  split
  · exact h
  · exact h.putBytes _ _

theorem OnlyHomes.sliceRoom (h : OnlyHomes s t) (slice : Nat) : OnlyHomes s (t.sliceRoom slice) := h.trans (OnlyHomes.of_eq (WritesBack.sliceRoom t slice).frame)

theorem OnlyHomes.noteDirty (h : OnlyHomes s t) (asid va pa leaf side : Nat) : OnlyHomes s (t.noteDirty asid va pa leaf side) := by
  have hmarked (b : Bool) (page : Nat) : OnlyHomes s (if b = true then t.setDirty side page else t) := by
    split
    · exact h.setDirty side page
    · exact h
  unfold State.noteDirty
  dsimp only
  split
  · exact hmarked _ _
  · exact ((hmarked _ _).modCaches _).sliceRoom _

theorem OnlyHomes.storeHome (h : OnlyHomes s t) (asid va pa leaf side : Nat) (bs : List Byte) : OnlyHomes s (t.storeHome asid va pa leaf side bs) :=
  ((h.putBytes pa bs).noteDirty asid va pa leaf side).modCaches _

end

section
variable (s : State)

/-- A merge writes at the homes, and then the gang has nothing staged. -/
theorem mergeStaging_eq (gang : Nat) : ∃ v, OnlyHomes s v ∧ (s.mergeStaging gang = v ∨ s.mergeStaging gang = v.modGang gang fun x => { x with staged := [], before := [] }) := by
  unfold State.mergeStaging
  split
  · exact ⟨s, OnlyHomes.refl s, .inl rfl⟩
  · rename_i g _
    split
    · exact ⟨s, OnlyHomes.refl s, .inl rfl⟩
    · split
      · exact ⟨s, OnlyHomes.refl s, .inl rfl⟩
      · rename_i gr _
        refine ⟨_, OnlyHomes.foldl (fun t e => ?_) _ s, .inr rfl⟩
        have hthrough := (OnlyHomes.refl t).through g.cores.head? gr.asid e.1 needWrite false
        split
        · rename_i heq
          rw [heq] at hthrough
          split
          · exact (hthrough.notePin ..).storeHome ..
          · exact hthrough.storeHome ..
        · rename_i heq
          rw [heq] at hthrough
          split
          · exact hthrough.logEvent ..
          · exact hthrough

theorem mergeStaging_waves (gang : Nat) : (s.mergeStaging gang).waves = s.waves := by
  obtain ⟨v, hv, h | h⟩ := mergeStaging_eq s gang
  · rw [h, hv.frame]
  · rw [h, State.modGang_waves, hv.frame]

end

/-! ### The release of waves (R124, R155, R167) -/

section
variable {s : State}

theorem foldl_mergeStaging_waves (gangs : List Nat) (s : State) : (gangs.foldl (fun t g => t.mergeStaging g) s).waves = s.waves := by
  induction gangs generalizing s with
  | nil => rfl
  | cons g gangs ih => rw [List.foldl_cons, ih, mergeStaging_waves]

theorem foldl_invalidateL1_waves (cores : List Nat) (s : State) : (cores.foldl (fun x c => x.invalidateL1 c) s).waves = s.waves := by
  induction cores generalizing s with
  | nil => rfl
  | cons c cores ih =>
    rw [List.foldl_cons, ih]
    rfl

/-- After the invalidation of some cores' L1 only locked lines of theirs are left (R50). -/
theorem mem_foldl_invalidateL1 (cores : List Nat) (s : State) {x : CacheLine} :
    x ∈ (cores.foldl (fun x c => x.invalidateL1 c) s).caches.l1 ↔ x ∈ s.caches.l1 ∧ (x.core ∈ cores → x.locked = true) := by
  induction cores generalizing s with
  | nil => simp
  | cons c cores ih =>
    rw [List.foldl_cons, ih, mem_invalidateL1, List.mem_cons, and_assoc, or_imp, ne_eq, ← imp_iff_not_or]

/-- Waves that leave a barrier at quad scope or wider. -/
theorem releaseWaves_wide {ws : List Wave} {scope now : Nat} (h : 2 ≤ scope) :
    (s.releaseWaves ws scope now).waves = (s.waves.map fun x => if ∃ y ∈ ws, y.id = x.id then x.leave (latest ws) now else x) ∧
    ∀ x ∈ (s.releaseWaves ws scope now).caches.l1, (∃ y ∈ ws, y.core = x.core) → x.locked = true := by
  unfold State.releaseWaves
  simp only [if_pos h]
  constructor
  · rw [foldl_invalidateL1_waves, State.modWaves_waves, foldl_mergeStaging_waves]
    simp only [List.contains_iff_mem, List.mem_map]
  · intro x hx hcore
    obtain ⟨y, hy, hcore⟩ := hcore
    exact ((mem_foldl_invalidateL1 _ _).mp hx).2 (List.mem_eraseDups.mpr (List.mem_map.mpr ⟨y, hy, hcore⟩))

/-- Waves that leave a workgroup's barrier: nothing but them changes. -/
theorem releaseWaves_core (ws : List Wave) (now : Nat) : s.releaseWaves ws 1 now = s.modWaves (ws.map fun x => x.id) fun x => x.leave (latest ws) now := by
  unfold State.releaseWaves
  simp only [show ¬(2 ≤ 1) by omega, if_false]

end

/-! ### Wake conditions (R201) -/

theorem wakeOf_toNat {k a : Nat} (hk : k < 16) (ha : a < 2 ^ 28) : (wakeOf k a).toNat = k + 16 * a := by
  rw [wakeOf, BitVec.toNat_ofNat, Nat.mod_eq_of_lt hk, Nat.mod_eq_of_lt ha, Nat.mod_eq_of_lt (by omega)]

/-- The kind of a wake condition, whatever its argument. -/
theorem wakeOf_kind {k a : Nat} (hk : k < 16) : bitsOf (wakeOf k a).toNat 0 4 = k := by
  have ha : a % 2 ^ 28 < 2 ^ 28 := Nat.mod_lt _ (by decide)
  have h := wakeOf_toNat hk ha
  rw [wakeOf, Nat.mod_mod, ← wakeOf] at h
  rw [bitsOf, h]
  omega

theorem wakeOf_arg {k a : Nat} (hk : k < 16) (ha : a < 2 ^ 28) : bitsOf (wakeOf k a).toNat 4 28 = a := by
  rw [bitsOf, wakeOf_toNat hk ha]
  omega

/-! ### The release of a barrier (R154, R155, R320, R321) -/

section
variable {s : State} {w : Wave} {ga : Gang} {gr : Grid} {a : Nat} {ws : List Wave}

/-- With a wave of the list that has not ended, the barrier is complete exactly when all such waves wait at it. -/
theorem allWait_iff {wake : Quad} (h : ∃ x ∈ ws, x.alive = true) : allWait ws wake = true ↔ ∀ x ∈ ws.filter Wave.alive, x.wake = wake := by
  obtain ⟨x, hx, ha⟩ := h
  have hne : ws.filter Wave.alive ≠ [] := List.ne_nil_of_mem (List.mem_filter.mpr ⟨hx, ha⟩)
  unfold allWait
  simp only [ne_eq, hne, not_false_eq_true, decide_true, Bool.true_and, List.all_eq_true, decide_eq_true_eq]

theorem tryRelease_workgroup (hk : w.wakeKind = 1) : s.tryRelease w =
    if allWait (s.wavesOfWg w.gang w.wg) w.wake then s.releaseWaves ((s.wavesOfWg w.gang w.wg).filter Wave.alive) 1 s.cycle.toNat else s := by
  unfold State.tryRelease
  simp only [hk]

/-- A network's barrier is complete: every participant waits there, every gang that takes part is placed, and the peers have arrived. -/
def State.netComplete (s : State) (w : Wave) (a : Nat) : Bool := allWait (s.netWaves w a) w.wake && s.allPlaced w a && s.peersArrived w a

/-- A use of the pod barrier counted. -/
def State.usePod (s : State) (gr : Grid) (a : Nat) : State := if a = 5 then s.modGrid gr.id fun g => { g with podUses := g.podUses + 1 } else s

theorem usePod_keeps (s : State) (gr : Grid) (a : Nat) : (s.usePod gr a).waves = s.waves ∧ (s.usePod gr a).caches = s.caches := by
  unfold State.usePod
  split <;> exact ⟨rfl, rfl⟩

theorem tryRelease_net (hh : s.home? w = some (ga, gr)) (hwake : w.wake = wakeOf 2 a) (ha : a < 2 ^ 28) : s.tryRelease w =
    if s.netComplete w a then (s.releaseWaves ((s.netWaves w a).filter Wave.alive) (s.netScope w a) s.cycle.toNat).usePod gr a else s := by
  have hk : w.wakeKind = 2 := by rw [Wave.wakeKind, hwake, wakeOf_kind (by omega)]
  have harg : bitsOf w.wake.toNat 4 28 = a := by rw [hwake, wakeOf_arg (by omega) ha]
  unfold State.tryRelease
  simp only [hk, harg, hh]
  rfl

theorem gangs_of_home? (h : s.home? w = some (ga, gr)) : ga ∈ s.gangs ∧ ga.id = w.gang ∧ ga.grid = gr.id := by
  unfold State.home? at h
  obtain ⟨g, hg, h⟩ := Option.bind_eq_some_iff.mp h
  obtain ⟨r, hr, h⟩ := Option.bind_eq_some_iff.mp h
  obtain ⟨rfl, rfl⟩ := Prod.mk.inj (Option.some.inj h)
  have hid := List.find?_some hg
  have hgrid := List.find?_some hr
  exact ⟨List.mem_of_find?_eq_some hg, of_decide_eq_true hid, (of_decide_eq_true hgrid).symm⟩

/-- The participants of the barnet of a scope that a wave joins, those of its gang and grid that have not ended (R154). -/
def State.netParts (s : State) (w : Wave) (ga : Gang) (gr : Grid) (a : Nat) : List Wave := s.waves.filter fun x => decide (x.alive = true ∧ if a = 2 then x.gang = ga.id
  else (∃ g ∈ s.gangs, g.grid = gr.id ∧ g.id = x.gang) ∧ (a = 3 → gr.pers = true → dieOf x.core = dieOf w.core))

/-- A grid's waves by their gangs, which its launch holds. -/
theorem gridWaves_eq (grid : Nat) : s.gridWaves grid = s.waves.filter fun x => decide (∃ g ∈ s.gangs, g.grid = grid ∧ g.id = x.gang) := by
  unfold State.gridWaves
  refine List.filter_congr fun x _ => ?_
  rw [Bool.eq_iff_iff]
  simp [List.mem_filter, and_assoc]

theorem netWaves_alive (hh : s.home? w = some (ga, gr)) : (s.netWaves w a).filter Wave.alive = s.netParts w ga gr a := by
  unfold State.netWaves State.netParts
  simp only [hh, gridWaves_eq]
  by_cases h2 : a = 2
  · simp only [if_pos h2, State.wavesOf, List.filter_filter, Bool.decide_and, Bool.decide_eq_true]
  · by_cases h3 : (decide (a = 3) && gr.pers) = true
    · obtain ⟨ha, hpers⟩ := Bool.and_eq_true_iff.mp h3
      simp only [if_neg h2, if_pos h3, List.filter_filter]
      simp only [of_decide_eq_true ha, hpers, true_imp_iff, Bool.decide_and, Bool.decide_eq_true, Bool.and_comm]
    · have hfree : (a = 3 → gr.pers = true → False) := fun ha hp => h3 (by simp [ha, hp])
      simp only [if_neg h2, if_neg h3, List.filter_filter]
      refine List.filter_congr fun x _ => ?_
      rw [Bool.eq_iff_iff]
      simp only [Bool.and_eq_true, decide_eq_true_eq]
      exact and_congr_right fun _ => (and_iff_left fun ha hp => (hfree ha hp).elim).symm

theorem allPlaced_iff (hh : s.home? w = some (ga, gr)) : s.allPlaced w a = true ↔
    a = 2 ∨ (if a = 3 ∧ gr.pers = true then min gr.lastGang (gr.device * 96 + dieOf w.core * 24 + 24) else gr.lastGang) ≤ gr.nextGang := by
  unfold State.allPlaced
  simp only [hh, Bool.or_eq_true, decide_eq_true_eq, Bool.and_eq_true]
  split <;> simp

theorem peersArrived_iff (hh : s.home? w = some (ga, gr)) : s.peersArrived w a = true ↔ (a = 5 → gr.ndevice ≤ 1 ∨ gr.podUses < gr.podArrivals) := by
  unfold State.peersArrived
  simp only [hh, Bool.or_eq_true, decide_eq_true_eq, ne_eq, ← imp_iff_not_or]

/-- A barnet's scope orders at quad scope or wider (R124, R154). -/
theorem two_le_netScope (h : 2 ≤ a) : 2 ≤ s.netScope w a := by
  unfold State.netScope
  split
  · split
    · split <;> omega
    · omega
  · exact h

/-- The barnet at which a wave waits is complete exactly when all its participants wait there, every gang that takes part has been placed, and at pod scope the peers have arrived (R154, R155). -/
theorem netComplete_iff (hh : s.home? w = some (ga, gr)) (hw : w ∈ s.waves) (ha : w.alive = true) : s.netComplete w a = true ↔
    (∀ x ∈ s.netParts w ga gr a, x.wake = w.wake) ∧
    (a = 2 ∨ (if a = 3 ∧ gr.pers = true then min gr.lastGang (gr.device * 96 + dieOf w.core * 24 + 24) else gr.lastGang) ≤ gr.nextGang) ∧
    (a = 5 → gr.ndevice ≤ 1 ∨ gr.podUses < gr.podArrivals) := by
  obtain ⟨hgang, hid, hgrid⟩ := gangs_of_home? hh
  have hself : w ∈ s.netParts w ga gr a := by
    refine List.mem_filter.mpr ⟨hw, decide_eq_true ⟨ha, ?_⟩⟩
    split
    · exact hid.symm
    · exact ⟨⟨ga, hgang, hgrid, hid⟩, fun _ _ => rfl⟩
  have hlive : ∃ x ∈ s.netWaves w a, x.alive = true := ⟨w, (List.mem_filter.mp (netWaves_alive hh ▸ hself)).1, ha⟩
  unfold State.netComplete
  rw [Bool.and_eq_true, Bool.and_eq_true, allWait_iff hlive, netWaves_alive hh, allPlaced_iff hh, peersArrived_iff hh, and_assoc]

/-- What the release of a complete barnet leaves of the waves and of their cores' ordinary lines. -/
theorem tryRelease_complete (hh : s.home? w = some (ga, gr)) (h2 : 2 ≤ a) (h5 : a ≤ 5) (hwake : w.wake = wakeOf 2 a) (hc : s.netComplete w a = true) :
    (s.tryRelease w).waves = (s.waves.map fun x => if ∃ y ∈ s.netParts w ga gr a, y.id = x.id then x.leave (latest (s.netParts w ga gr a)) s.cycle.toNat else x) ∧
    ∀ x ∈ (s.tryRelease w).caches.l1, (∃ y ∈ s.netParts w ga gr a, y.core = x.core) → x.locked = true := by
  rw [tryRelease_net hh hwake (by omega), if_pos hc, netWaves_alive hh]
  obtain ⟨hwaves, hcaches⟩ := usePod_keeps (s.releaseWaves (s.netParts w ga gr a) (s.netScope w a) s.cycle.toNat) gr a
  rw [hwaves, hcaches]
  exact releaseWaves_wide (two_le_netScope h2)

end

/-! ### The words and the arrivals (R124, R320, R321) -/

section
variable {s : State} {w : Wave} {id kind a : Nat} {i : Instr}

/-- The wave that has arrived at a barrier and waits there. -/
def Wave.heldAt (w : Wave) (kind a : Nat) (i : Instr) : Wave := { w.withdraw.raise i.counter with wake := wakeOf kind a, waiting := some i, releaser := 0 }

theorem block_eq : s.block id kind a i = s.modWave id fun w => w.heldAt kind a i := rfl

theorem modCounter_place (w : Wave) (n : Nat) (f : BitVec 6 → BitVec 6) :
    (w.modCounter n f).id = w.id ∧ (w.modCounter n f).core = w.core ∧ (w.modCounter n f).ended = w.ended := by
  unfold Wave.modCounter
  split <;> exact ⟨rfl, rfl, rfl⟩

theorem withdraw_place (w : Wave) : w.withdraw.id = w.id ∧ w.withdraw.core = w.core ∧ w.withdraw.ended = w.ended := by
  unfold Wave.withdraw
  split
  · split
    · exact ⟨rfl, rfl, rfl⟩
    · exact modCounter_place w _ _
  · exact ⟨rfl, rfl, rfl⟩

/-- A wave that waits at a barrier is the wave that it was. -/
theorem heldAt_place (w : Wave) (kind a : Nat) (i : Instr) :
    (w.heldAt kind a i).id = w.id ∧ (w.heldAt kind a i).core = w.core ∧ (w.heldAt kind a i).ended = w.ended := by
  obtain ⟨hid, hcore, hended⟩ := withdraw_place w
  obtain ⟨hid', hcore', hended'⟩ := modCounter_place w.withdraw i.counter (· + 1)
  exact ⟨hid'.trans hid, hcore'.trans hcore, hended'.trans hended⟩

theorem wave?_block (hw : s.wave? id = some w) : (s.block id kind a i).wave? id = some (w.heldAt kind a i) := by
  rw [block_eq, State.wave?_modWave _ _ _ fun w => (heldAt_place w kind a i).1, hw, Option.map_some, if_pos rfl]

/-- An arrival: the wave waits, and its barrier is released where it is complete (R155). -/
theorem arriveAt_eq (hw : s.wave? id = some w) : s.arriveAt id kind a i =
    (if kind = 2 then (s.block id kind a i).acceptAll id w.core ((s.block id kind a i).netScope (w.heldAt kind a i) a) else s.block id kind a i).tryRelease (w.heldAt kind a i) := by
  obtain ⟨hid, hcore, -⟩ := heldAt_place w kind a i
  have hname : w.id = id := of_decide_eq_true (List.find?_some (p := fun w : Wave => decide (w.id = id)) hw)
  unfold State.arriveAt
  simp only [wave?_block hw, hid, hcore, hname]

/-- The live waves of the workgroup of a wave that has arrived at its barrier. -/
def State.barGroup (s : State) (w : Wave) (id a : Nat) (i : Instr) : List Wave := ((s.block id 1 a i).wavesOfWg (w.heldAt 1 a i).gang (w.heldAt 1 a i).wg).filter Wave.alive

theorem arriveAt_workgroup (hw : s.wave? id = some w) : s.arriveAt id 1 a i =
    if allWait ((s.block id 1 a i).wavesOfWg (w.heldAt 1 a i).gang (w.heldAt 1 a i).wg) (wakeOf 1 a) then
      (s.block id 1 a i).modWaves ((s.barGroup w id a i).map fun x => x.id) fun x => x.leave (latest (s.barGroup w id a i)) s.cycle.toNat
    else s.block id 1 a i := by
  rw [arriveAt_eq hw, if_neg (by omega), tryRelease_workgroup (w := w.heldAt 1 a i) (wakeOf_kind (by omega)), releaseWaves_core]
  rfl

/-- The last arrival of a workgroup's live waves releases them all (R155, R320). -/
theorem arriveAt_last (hw : s.wave? id = some w) (ha : w.alive = true) (h : ∀ x ∈ s.barGroup w id a i, x.wake = wakeOf 1 a) :
    s.arriveAt id 1 a i = (s.block id 1 a i).modWaves ((s.barGroup w id a i).map fun x => x.id) fun x => x.leave (latest (s.barGroup w id a i)) s.cycle.toNat := by
  have hself : w.heldAt 1 a i ∈ (s.block id 1 a i).wavesOfWg (w.heldAt 1 a i).gang (w.heldAt 1 a i).wg :=
    List.mem_filter.mpr ⟨List.mem_of_find?_eq_some (wave?_block hw), by simp⟩
  have halive : (w.heldAt 1 a i).alive = true := by rw [Wave.alive, (heldAt_place w 1 a i).2.2]; exact ha
  rw [arriveAt_workgroup hw, if_pos ((allWait_iff ⟨_, hself, halive⟩).mpr h)]

/-- Before the last arrival a workgroup's waves go on waiting. -/
theorem arriveAt_early (hw : s.wave? id = some w) (h : ∃ x ∈ s.barGroup w id a i, x.wake ≠ wakeOf 1 a) : s.arriveAt id 1 a i = s.block id 1 a i := by
  obtain ⟨x, hx, hne⟩ := h
  obtain ⟨hgroup, hlive⟩ := List.mem_filter.mp hx
  rw [arriveAt_workgroup hw, if_neg fun hall => hne ((allWait_iff ⟨x, hgroup, hlive⟩).mp hall x hx)]

/-- An arrival at a network (R124, R321). -/
theorem arriveAt_net (hw : s.wave? id = some w) : s.arriveAt id 2 a i =
    (if (s.block id 2 a i).netScope (w.heldAt 2 a i) a = 3 then (s.block id 2 a i).accept w.core ((s.block id 2 a i).releasedBy id w.core 3) else s.block id 2 a i).tryRelease (w.heldAt 2 a i) := by
  rw [arriveAt_eq hw, if_pos rfl]
  unfold State.acceptAll
  split
  · rename_i h
    rw [h]
  · rfl

end

section
variable {s t : State} {c : Ctx}

theorem exec_bar {f : FmtBar} : exec (.bar f) s = issue (.bar f) s fun c t =>
    if c.gr.bars ≤ f.x.toNat then .trap (precise 0 0 c.word c.pc c.lanes c.lanes 0 0)
    else if c.act = 0 then .ok t
    else if !s.writesDone c.w.id c.w.core 1 then .stay
    else .arrive 1 f.x.toNat := by rfl

theorem bar_of_inactive {f : FmtBar} (h : Issues (.bar f) s c t) (hx : f.x.toNat < c.gr.bars) (ha : c.act = 0) : Completes (exec (.bar f) s) c t := by
  rw [exec_bar]
  exact issue_ok h (by rw [if_neg (by omega), if_pos ha])

theorem bar_of_excess {f : FmtBar} (h : Issues (.bar f) s c t) (hx : c.gr.bars ≤ f.x.toNat) :
    exec (.bar f) s = .next (s.trap c.w.id c.lanes (precise 0 0 c.word c.pc c.lanes c.lanes 0 0)) := by
  rw [exec_bar]
  exact issue_trap h (if_pos hx) (show 0 ≠ 12 by omega)

theorem bar_arrives {f : FmtBar} (h : Issues (.bar f) s c t) (hx : f.x.toNat < c.gr.bars) (ha : c.act ≠ 0) (hd : s.writesDone c.w.id c.w.core 1 = true) :
    exec (.bar f) s = .next (s.arriveAt c.w.id 1 f.x.toNat (.bar f)) := by
  rw [exec_bar]
  exact issue_arrive h (by rw [if_neg (by omega), if_neg ha, hd]; rfl)

theorem exec_barnet {f : FmtNet} : exec (.barnet f) s = issue (.barnet f) s fun c t =>
    if c.act = 0 then .ok t
    else if !s.writesDone c.w.id c.w.core (s.netScope c.w f.s.toNat) then .stay
    else .arrive 2 f.s.toNat := by rfl

theorem barnet_of_inactive {f : FmtNet} (h : Issues (.barnet f) s c t) (ha : c.act = 0) : Completes (exec (.barnet f) s) c t := by
  rw [exec_barnet]
  exact issue_ok h (if_pos ha)

theorem barnet_arrives {f : FmtNet} (h : Issues (.barnet f) s c t) (ha : c.act ≠ 0) (hd : s.writesDone c.w.id c.w.core (s.netScope c.w f.s.toNat) = true) :
    exec (.barnet f) s = .next (s.arriveAt c.w.id 2 f.s.toNat (.barnet f)) := by
  rw [exec_barnet]
  exact issue_arrive h (by rw [if_neg ha, hd]; rfl)

end

end Sys2Proof.Machine
end

section
/-! PROOFS. Barrier records and the words of barrier objects (O26). -/

namespace Sys2Proof.Machine

/-! ### What the waits on barrier records read (R352, R353) -/

/-- What a gang's barrier records are read from. -/
def Gang.place (g : Gang) : Nat × Nat × SMap 8 := (g.id, g.grid, g.bytes)

theorem place_inj {g g' : Gang} (h : g'.place = g.place) : g'.id = g.id ∧ g'.grid = g.grid ∧ g'.bytes = g.bytes :=
  ⟨congrArg (fun p => p.1) h, congrArg (fun p => p.2.1) h, congrArg (fun p => p.2.2) h⟩

/-- Two states whose gangs' bytes, grids, engines, cycle and free values agree: the waits on barrier records read nothing else of a state. -/
structure SameRecords (s u : State) : Prop where
  gangs : u.gangs.map Gang.place = s.gangs.map Gang.place
  grids : u.grids = s.grids
  eng : u.eng = s.eng
  fresh : u.fresh = s.fresh
  cycle : u.cycle = s.cycle

section
variable {s t u : State}

theorem SameRecords.refl (s : State) : SameRecords s s := ⟨rfl, rfl, rfl, rfl, rfl⟩

theorem SameRecords.trans (h1 : SameRecords s t) (h2 : SameRecords t u) : SameRecords s u :=
  ⟨h2.gangs.trans h1.gangs, h2.grids.trans h1.grids, h2.eng.trans h1.eng, h2.fresh.trans h1.fresh, h2.cycle.trans h1.cycle⟩

theorem SameRecords.gang? (h : SameRecords s u) (id : Nat) : (u.gang? id).map Gang.place = (s.gang? id).map Gang.place := by
  have hfind (v : State) : (v.gang? id).map Gang.place = (v.gangs.map Gang.place).find? fun p => decide (p.1 = id) := by
    rw [List.find?_map]
    rfl
  rw [hfind, hfind, h.gangs]

/-- The gang of a name, as a state with the same records has it. -/
theorem SameRecords.gang?_some (h : SameRecords s u) {id : Nat} {g : Gang} (hg : s.gang? id = some g) : ∃ g', u.gang? id = some g' ∧ g'.place = g.place := by
  have hmap := h.gang? id
  rw [hg, Option.map_some] at hmap
  exact Option.map_eq_some_iff.mp hmap

theorem SameRecords.gang?_none (h : SameRecords s u) {id : Nat} (hg : s.gang? id = none) : u.gang? id = none := by
  have hmap := h.gang? id
  rw [hg] at hmap
  exact Option.map_eq_none_iff.mp hmap

theorem OnlyHomes.sameRecords (h : OnlyHomes s u) : SameRecords s u := by
  rw [h.frame]
  exact ⟨rfl, rfl, rfl, rfl, rfl⟩

theorem modWave_sameRecords (s : State) (id : Nat) (f : Wave → Wave) : SameRecords s (s.modWave id f) := ⟨rfl, rfl, rfl, rfl, rfl⟩

theorem mergeStaging_sameRecords (s : State) (gang : Nat) : SameRecords s (s.mergeStaging gang) := by
  obtain ⟨v, hv, h | h⟩ := mergeStaging_eq s gang
  · rw [h]
    exact hv.sameRecords
  · rw [h]
    refine hv.sameRecords.trans ⟨?_, rfl, rfl, rfl, rfl⟩
    rw [State.modGang_gangs, List.map_map]
    refine List.map_congr_left fun g _ => ?_
    simp only [Function.comp]
    split <;> rfl

/-- The phase of a record, in states with the same records. -/
theorem SameRecords.recordPhase (h : SameRecords s u) {g g' : Gang} (hg : g'.place = g.place) (o : Nat) : u.recordPhase g' o = s.recordPhase g o := by
  obtain ⟨hid, -, hbytes⟩ := place_inj hg
  unfold State.recordPhase Gang.phase Gang.recField
  rw [inSide_congr h.eng, h.fresh, hid, hbytes]

/-- A wave's home, in states with the same records. -/
theorem SameRecords.home? (h : SameRecords s u) (w : Wave) :
    (s.home? w = none ∧ u.home? w = none) ∨ ∃ g g' gr, s.home? w = some (g, gr) ∧ u.home? w = some (g', gr) ∧ g'.place = g.place := by
  unfold State.home?
  cases hg : s.gang? w.gang with
  | none => exact .inl ⟨rfl, by rw [h.gang?_none hg]; rfl⟩
  | some g =>
    obtain ⟨g', hg', hplace⟩ := h.gang?_some hg
    obtain ⟨-, hgrid, -⟩ := place_inj hplace
    have hgr : u.grid? g'.grid = s.grid? g.grid := by
      unfold State.grid?
      rw [hgrid, h.grids]
    rw [hg']
    simp only [bind, Option.bind, hgr]
    cases s.grid? g.grid with
    | none => exact .inl ⟨rfl, rfl⟩
    | some gr => exact .inr ⟨g, g', gr, rfl, rfl, hplace⟩

/-- What a wave waits for at barrier records does not depend on the argument of its wake condition, nor, at a bar.wait, on noted phases. -/
theorem awaited_congr (h : SameRecords s u) {x y : Wave} (hx : x.wakeKind = 3) (hy : y.wakeKind = 3) (hxy : y = { x with wake := y.wake, phases := y.phases })
    (hp : y.phases = x.phases ∨ ∃ f, x.waiting = some (.barWait f)) : u.awaited y = s.awaited x := by
  have hnext : y.nextGroup = x.nextGroup := (congrArg Wave.nextGroup hxy).trans rfl
  have hwaiting : y.waiting = x.waiting := (congrArg Wave.waiting hxy).trans rfl
  have hhome : u.home? y = u.home? x := (congrArg u.home? hxy).trans rfl
  unfold State.awaited State.waitingCtx
  rw [if_neg (not_not.mpr hx), if_neg (not_not.mpr hy), hnext, hwaiting, hhome]
  rcases h.home? x with ⟨hs, hu⟩ | ⟨g, g', gr, hs, hu, hplace⟩
  · rw [hs, hu]
    cases x.waiting <;> rfl
  · rw [hs, hu]
    cases hi : x.waiting with
    | none => rfl
    | some i =>
      cases x.nextGroup with
      | none => rfl
      | some p =>
        obtain ⟨pc, lanes⟩ := p
        have hact : (Ctx.ofIssue i y g' gr pc lanes).act = (Ctx.ofIssue i x g gr pc lanes).act := by
          rw [hxy]
          rfl
        have hval (num role l : Nat) : (Ctx.ofIssue i y g' gr pc lanes).vsrc (Ctx.ofIssue i y g' gr pc lanes).vimm num role l =
            (Ctx.ofIssue i x g gr pc lanes).vsrc (Ctx.ofIssue i x g gr pc lanes).vimm num role l := by
          rw [hxy]
          rfl
        have hrec (a : BitVec 7) (l : Nat) : (Ctx.ofIssue i y g' gr pc lanes).record a l = (Ctx.ofIssue i x g gr pc lanes).record a l := congrArg recordAt (hval _ _ l)
        have hphase (o : Nat) : u.recordPhase (Ctx.ofIssue i y g' gr pc lanes).ga o = s.recordPhase (Ctx.ofIssue i x g gr pc lanes).ga o := h.recordPhase hplace o
        simp only
        split
        case h_1 _ f c heq =>
          obtain ⟨rfl, rfl⟩ := Prod.mk.inj (Option.some.inj heq)
          simp only [hact, hrec, hval, hphase]
        case h_2 _ f c heq =>
          obtain ⟨rfl, rfl⟩ := Prod.mk.inj (Option.some.inj heq)
          have hph : y.phases = x.phases := hp.resolve_right fun ⟨_, hf⟩ => by rw [hi] at hf; nomatch hf
          simp only [hact, hrec, hphase, hph]
        case h_3 hwait hsync =>
          split
          case h_1 heq =>
            obtain ⟨rfl, -⟩ := Prod.mk.inj (Option.some.inj heq)
            exact (hwait _ _ rfl).elim
          case h_2 heq =>
            obtain ⟨rfl, -⟩ := Prod.mk.inj (Option.some.inj heq)
            exact (hsync _ _ rfl).elim
          case h_3 => rfl

end

/-! ### The waves that wait on a gang's records (R353) -/

section
variable {s t u : State} {gang : Nat} {by_ : Quad}

/-- One wave of a gang after an arrival: it goes on where its objects are all met, and else waits on the lowest unmet one. -/
def State.wakeRecord (gang : Nat) (by_ : Quad) (t : State) (w : Wave) : State :=
  if w.wakeKind ≠ 3 then t
  else match (t.awaited w).find? fun x => x.2 with
    | some x => t.modWave w.id fun y => { y with wake := wakeOf 3 (x.1 / 16) }
    | none => ((t.mergeStaging gang).modWave w.id fun y => { y.leave by_ t.cycle.toNat with phases := none }).invalidateL1 w.core

theorem wakeRecords_eq : s.wakeRecords gang by_ = (s.wavesOf gang).foldl (State.wakeRecord gang by_) s := by rfl

/-- The wave itself after an arrival. -/
def State.afterRecords (s : State) (by_ : Quad) (w : Wave) : Wave :=
  if w.wakeKind ≠ 3 then w
  else match (s.awaited w).find? fun x => x.2 with
    | some x => { w with wake := wakeOf 3 (x.1 / 16) }
    | none => { w.leave by_ s.cycle.toNat with phases := none }

theorem wakeRecord_sameRecords (t : State) (w : Wave) : SameRecords t (t.wakeRecord gang by_ w) := by
  unfold State.wakeRecord
  split
  · exact SameRecords.refl t
  · split
    · exact modWave_sameRecords ..
    · exact (mergeStaging_sameRecords t gang).trans ⟨rfl, rfl, rfl, rfl, rfl⟩

theorem wakeRecords_sameRecords (s : State) : SameRecords s (s.wakeRecords gang by_) := by
  rw [wakeRecords_eq]
  generalize s.wavesOf gang = ws
  induction ws generalizing s with
  | nil => exact SameRecords.refl s
  | cons w ws ih => exact (wakeRecord_sameRecords s w).trans (ih _)

theorem leave_place (w : Wave) (time : Quad) (now : Nat) : (w.leave time now).id = w.id ∧ (w.leave time now).gang = w.gang := by
  unfold Wave.leave
  split <;> exact ⟨rfl, rfl⟩

theorem afterRecords_place (s : State) (by_ : Quad) (w : Wave) : (s.afterRecords by_ w).id = w.id ∧ (s.afterRecords by_ w).gang = w.gang := by
  unfold State.afterRecords
  split
  · exact ⟨rfl, rfl⟩
  · split
    · exact ⟨rfl, rfl⟩
    · exact leave_place w _ _

/-- The step of a wave that stands in a state as its name says. -/
theorem wakeRecord_waves (h : SameRecords s t) {w : Wave} (hw : ∀ y ∈ t.waves, y.id = w.id → y = w) :
    (t.wakeRecord gang by_ w).waves = t.waves.map fun x => if x.id = w.id then s.afterRecords by_ x else x := by
  have hawaited (hk : w.wakeKind = 3) : t.awaited w = s.awaited w := awaited_congr h hk hk rfl (.inl rfl)
  have hmap {f g : Wave → Wave} (hfg : f w = g w) : (t.waves.map fun x => if x.id = w.id then f x else x) = t.waves.map fun x => if x.id = w.id then g x else x := by
    refine List.map_congr_left fun x hx => ?_
    split
    · rename_i hid
      rw [hw x hx hid, hfg]
    · rfl
  unfold State.wakeRecord
  split
  · rename_i hk
    have hself : t.waves = t.waves.map fun x => if x.id = w.id then x else x := by simp
    refine hself.trans (hmap (f := fun x => x) ?_)
    rw [State.afterRecords, if_pos hk]
  · rename_i hk
    have hk3 : w.wakeKind = 3 := not_not.mp hk
    rw [hawaited hk3]
    split
    · rename_i y hy
      refine hmap (f := fun x => { x with wake := wakeOf 3 (y.1 / 16) }) ?_
      rw [State.afterRecords, if_neg hk, hy]
    · rename_i hy
      show ((t.mergeStaging gang).waves.map fun x => if x.id = w.id then { x.leave by_ t.cycle.toNat with phases := none } else x) = _
      rw [mergeStaging_waves]
      refine hmap (f := fun x => { x.leave by_ t.cycle.toNat with phases := none }) ?_
      rw [State.afterRecords, if_neg hk, hy, h.cycle]

theorem foldl_wakeRecord_waves (ws : List Wave) (t : State) (h : SameRecords s t) (hnodup : (ws.map Wave.id).Nodup) (hws : ∀ w ∈ ws, ∀ y ∈ t.waves, y.id = w.id → y = w) :
    (ws.foldl (State.wakeRecord gang by_) t).waves = t.waves.map fun x => if x.id ∈ ws.map Wave.id then s.afterRecords by_ x else x := by
  induction ws generalizing t with
  | nil => simp
  | cons w ws ih =>
    obtain ⟨hnotin, hrest⟩ := List.nodup_cons.mp hnodup
    have hstep := wakeRecord_waves (gang := gang) (by_ := by_) h (hws w (by simp))
    rw [List.foldl_cons, ih _ (h.trans (wakeRecord_sameRecords t w)) hrest, hstep, List.map_map]
    · refine List.map_congr_left fun x hx => ?_
      by_cases hid : x.id = w.id
      · have hout : (s.afterRecords by_ x).id ∉ ws.map Wave.id := by
          rw [(afterRecords_place s by_ x).1, hid]
          exact hnotin
        simp only [Function.comp, hid, if_true, hout, if_false, List.map_cons, List.mem_cons, true_or]
      · simp only [Function.comp, hid, if_false, List.map_cons, List.mem_cons, false_or]
    · intro v hv y hy hid
      rw [hstep] at hy
      obtain ⟨x, hx, rfl⟩ := List.mem_map.mp hy
      by_cases hxw : x.id = w.id
      · rw [if_pos hxw, (afterRecords_place s by_ x).1, hxw] at hid
        exact absurd (hid ▸ List.mem_map_of_mem hv) hnotin
      · rw [if_neg hxw] at hid ⊢
        exact hws v (by simp [hv]) x hx hid

/-- The waves after an arrival: those of the gang by what they wait for, the others as they were. -/
theorem wakeRecords_waves (hnodup : (s.waves.map Wave.id).Nodup) : (s.wakeRecords gang by_).waves = s.waves.map fun x => if x.gang = gang then s.afterRecords by_ x else x := by
  have hinj : ∀ x ∈ s.waves, ∀ y ∈ s.waves, x.id = y.id → x = y := fun x hx y hy h => List.inj_on_of_nodup_map hnodup hx hy h
  have hsub : ((s.wavesOf gang).map Wave.id).Nodup := (List.filter_sublist.map Wave.id).nodup hnodup
  rw [wakeRecords_eq, foldl_wakeRecord_waves _ s (SameRecords.refl s) hsub fun w hw y hy h => hinj y hy w (List.mem_filter.mp hw).1 h]
  refine List.map_congr_left fun x hx => ?_
  have hmem : x.id ∈ (s.wavesOf gang).map Wave.id ↔ x.gang = gang := by
    constructor
    · intro h
      obtain ⟨y, hy, hid⟩ := List.mem_map.mp h
      obtain ⟨hyw, hyg⟩ := List.mem_filter.mp hy
      rw [← hinj y hyw x hx hid]
      exact of_decide_eq_true hyg
    · exact fun h => List.mem_map_of_mem (List.mem_filter.mpr ⟨hx, decide_eq_true h⟩)
  simp only [hmem]

/-- A wave that goes past its word waits on no record. -/
theorem leave_wakeKind {w : Wave} {time : Quad} {now : Nat} (h : w.nextGroup ≠ none) : (w.leave time now).wakeKind ≠ 3 := by
  unfold Wave.leave
  split
  · rename_i hn
    exact (h hn).elim
  · unfold Wave.settle Wave.wakeKind
    dsimp only
    split
    · rw [wakeOf_kind (by omega)]
      omega
    · simp [Wave.advance, bitsOf]

/-- After an arrival a wave of the gang that still waits waits on a record unmet. -/
theorem wakeRecords_waiters_unmet (hnodup : (s.waves.map Wave.id).Nodup) {x : Wave} (hx : x ∈ (s.wakeRecords gang by_).waves) (hg : x.gang = gang) (hk : x.wakeKind = 3)
    (hctx : (s.wakeRecords gang by_).waitingCtx x ≠ none) : ∃ y ∈ (s.wakeRecords gang by_).awaited x, y.2 = true := by
  rw [wakeRecords_waves hnodup] at hx
  obtain ⟨v, -, rfl⟩ := List.mem_map.mp hx
  by_cases hv : v.gang = gang
  · rw [if_pos hv] at hg hk hctx ⊢
    by_cases hk' : v.wakeKind = 3
    · unfold State.afterRecords at hk hctx ⊢
      simp only [hk', ne_eq, not_true, if_false] at hk hctx ⊢
      split at hk
      · rename_i y hy
        simp only [hy] at hctx ⊢
        rw [awaited_congr (wakeRecords_sameRecords s) hk' hk rfl (.inl rfl)]
        exact ⟨y, List.mem_of_find?_eq_some hy, List.find?_some hy⟩
      · rename_i hy
        simp only [hy] at hctx ⊢
        by_cases hn : v.nextGroup = none
        · refine absurd ?_ hctx
          have hnext : ({ v.leave by_ s.cycle.toNat with phases := none } : Wave).nextGroup = none := by
            unfold Wave.leave
            rw [hn]
            exact hn
          unfold State.waitingCtx
          rw [hnext]
          split
          · rename_i hnone
            nomatch hnone
          · rfl
        · exact absurd hk (leave_wakeKind hn)
    · unfold State.afterRecords at hk
      rw [if_pos hk'] at hk
      exact absurd hk hk'
  · rw [if_neg hv] at hg
    exact absurd hg hv

/-- A wave of the gang with a record unmet waits on. -/
theorem wakeRecords_keeps_unmet (hnodup : (s.waves.map Wave.id).Nodup) {x : Wave} (hx : x ∈ s.waves) (hg : x.gang = gang) (hk : x.wakeKind = 3) (hu : ∃ y ∈ s.awaited x, y.2 = true) :
    ∃ y ∈ (s.wakeRecords gang by_).waves, y.id = x.id ∧ y.wakeKind = 3 ∧ y.waiting = x.waiting := by
  rw [wakeRecords_waves hnodup]
  refine ⟨s.afterRecords by_ x, List.mem_map.mpr ⟨x, hx, if_pos hg⟩, (afterRecords_place s by_ x).1, ?_⟩
  obtain ⟨y, hy⟩ := Option.isSome_iff_exists.mp (List.find?_isSome.mpr hu)
  unfold State.afterRecords
  rw [if_neg (not_not.mpr hk), hy]
  exact ⟨wakeOf_kind (by omega), rfl⟩

end

/-! ### The record of an arrival (R352, R353, R367) -/

section
variable {s t : State} {a : Access} {w : Wave} {g : Gang} {l : AccLane} {noting : Bool} {o : Nat}

/-- No side tile is open in a gang. -/
def State.NoSide (s : State) (gang : Nat) : Prop := ∀ t ∈ s.eng.matrix.tiles, t.gang = gang → t.scaled = false

theorem State.NoSide.unsided (h : s.NoSide g.id) (ht : t.eng = s.eng) (o : Nat) (bs : List Byte) : t.unsided g.id o bs = (bs, t) := by
  refine unsided_of_outside fun j _ => ?_
  rw [inSide_congr ht]
  unfold State.inSide
  rw [List.any_eq_false]
  intro x hx
  by_cases hgang : x.gang = g.id
  · simp [h x hx hgang]
  · simp [hgang]

/-- LEFT of a record as an arrival lowers it. -/
def Gang.leftAfter (g : Gang) (o : Nat) : Nat := (g.recField o 2 2 + 65535) % 65536

/-- The bytes of a gang with an arrival at the record at an offset: LEFT has fallen by 1, and at 0 the phase advances and LEFT becomes EXPECT. -/
def Gang.countDown (g : Gang) (o : Nat) (m : SMap 8) : SMap 8 :=
  if g.leftAfter o = 0 then (m.setRange (o + 2) (g.bytes.getRange o 2)).setRange (o + 4) (bytesOfNat 4 (g.recField o 4 4 + 1))
  else m.setRange (o + 2) (bytesOfNat 2 (g.leftAfter o))

/-- A wave that has noted the phase that an arrival of its bar.sync meets. -/
def Wave.notePhase (x : Wave) (g : Gang) (l : AccLane) : Wave := match x.phases with
  | some m => { x with phases := some ((m.set l.lane (BitVec.ofNat 32 (g.recField l.va 4 4))).set (l.lane + 32) 1) }
  | none => x

/-- An arrival of a bar.sync notes the phase that it meets. -/
def State.notePhase (s : State) (w : Wave) (g : Gang) (l : AccLane) (noting : Bool) : State := if noting then s.modWave w.id fun x => x.notePhase g l else s

theorem Wave.notePhase_eq (x : Wave) (g : Gang) (l : AccLane) : x.notePhase g l = { x with phases := (x.notePhase g l).phases } := by
  unfold Wave.notePhase
  split <;> rfl

/-- The state once an arrival is written to its record, before the waits that it ends. -/
def State.recorded (s : State) (a : Access) (w : Wave) (g : Gang) (l : AccLane) (noting : Bool) : State :=
  ((s.notePhase w g l noting).modGang g.id fun x => { x with bytes := g.countDown l.va x.bytes }).laneTo a.id l.lane l.dest .done

theorem drop_take_range {α : Type} (f : Nat → α) {n k j : Nat} (h : k + j ≤ n) : ((((List.range n).map f).drop k).take j) = (List.range j).map fun i => f (k + i) := by
  refine List.ext_getElem (by simp; omega) fun i h1 h2 => ?_
  simp

/-- A field of a gang's record, from the record's bytes. -/
theorem natIn_getRange (g : Gang) (o : Nat) {k j : Nat} (h : k + j ≤ 16) : natIn (g.bytes.getRange o 16) k j = g.recField o k j := by
  unfold natIn Gang.recField SMap.getRange
  rw [drop_take_range _ h]
  simp only [Nat.add_assoc]

theorem take_getRange (g : Gang) (o : Nat) : (g.bytes.getRange o 16).take 2 = g.bytes.getRange o 2 := by
  have h := drop_take_range (fun j => g.bytes.get (o + j)) (n := 16) (k := 0) (j := 2) (by omega)
  simpa [SMap.getRange] using h

theorem notePhase_eng : (s.notePhase w g l noting).eng = s.eng := by
  unfold State.notePhase
  split <;> rfl

/-- Bytes written to a record, free ones in an open side tile. -/
def State.putRecord (t : State) (gang o : Nat) (bs : List Byte) : State :=
  (t.unsided gang o bs).2.modGang gang fun x => { x with bytes := x.bytes.setRange o (t.unsided gang o bs).1 }

theorem putRecord_outside (h : s.NoSide g.id) (ht : t.eng = s.eng) (o : Nat) (bs : List Byte) :
    t.putRecord g.id o bs = t.modGang g.id fun x => { x with bytes := x.bytes.setRange o bs } := by
  unfold State.putRecord
  rw [h.unsided ht]

theorem modGang_modGang {gang : Nat} {f f' : Gang → Gang} (hf : ∀ x, (f x).id = x.id) : (s.modGang gang f).modGang gang f' = s.modGang gang fun x => f' (f x) := by
  unfold State.modGang
  simp only [List.map_map]
  congr 1
  refine List.map_congr_left fun x _ => ?_
  by_cases h : x.id = gang
  · simp only [Function.comp, if_pos h, hf x]
  · simp only [Function.comp, if_neg h]

theorem arriveRecord_puts (hg : s.gang? w.gang = some g) (hside : s.NoSide g.id) : s.arriveRecord a w l noting =
    ((if g.leftAfter l.va = 0 then
      ((s.notePhase w g l noting).putRecord g.id (l.va + 2) (g.bytes.getRange l.va 2)).putRecord g.id (l.va + 4) (bytesOfNat 4 (g.recField l.va 4 4 + 1))
    else (s.notePhase w g l noting).putRecord g.id (l.va + 2) (bytesOfNat 2 (g.leftAfter l.va))).laneTo a.id l.lane l.dest .done).wakeRecords g.id a.time := by
  unfold State.arriveRecord
  simp only [hg, hside.unsided rfl, natIn_getRange g l.va (k := 2) (j := 2) (by omega), natIn_getRange g l.va (k := 4) (j := 4) (by omega), take_getRange]
  rfl

/-- An arrival outside open side tiles. -/
theorem arriveRecord_eq (hg : s.gang? w.gang = some g) (hside : s.NoSide g.id) : s.arriveRecord a w l noting = (s.recorded a w g l noting).wakeRecords g.id a.time := by
  rw [arriveRecord_puts hg hside, putRecord_outside hside notePhase_eng, putRecord_outside hside notePhase_eng, putRecord_outside hside (State.modGang_eng .. |>.trans notePhase_eng)]
  unfold State.recorded Gang.countDown
  split
  · exact congrArg (fun t : State => (t.laneTo a.id l.lane l.dest .done).wakeRecords g.id a.time) (modGang_modGang fun _ => rfl)
  · rfl

theorem recorded_gang? (hg : s.gang? w.gang = some g) : (s.recorded a w g l noting).gang? g.id = some { g with bytes := g.countDown l.va g.bytes } := by
  have hid : g.id = w.gang := of_decide_eq_true (List.find?_some (p := fun x : Gang => decide (x.id = w.gang)) hg)
  have hnote : (s.notePhase w g l noting).gang? g.id = some g := by
    unfold State.notePhase
    rw [hid]
    split <;> exact hg
  exact gang?_modGang_same (fun _ => rfl) hnote

/-- The bytes outside a record's LEFT and PHASE stand. -/
theorem countDown_get (h : o < l.va + 2 ∨ l.va + 8 ≤ o) : (g.countDown l.va g.bytes).get o = g.bytes.get o := by
  unfold Gang.countDown
  split
  · rw [SMap.get_setRange, if_neg, SMap.get_setRange, if_neg]
    · simp [SMap.getRange]
      omega
    · rw [bytesOfNat_length]
      omega
  · rw [SMap.get_setRange, if_neg]
    rw [bytesOfNat_length]
    omega

/-- LEFT after an arrival (R353). -/
theorem countDown_left : natOfBytes ((g.countDown o g.bytes).getRange (o + 2) 2) = if g.leftAfter o = 0 then g.recField o 0 2 else g.leftAfter o := by
  have hexpect : (g.bytes.getRange o 2).length = 2 := by simp [SMap.getRange]
  unfold Gang.countDown
  split
  · rw [SMap.getRange_setRange_other _ _ _ _ _ (.inl (by omega))]
    have hread := SMap.getRange_setRange g.bytes (o + 2) (g.bytes.getRange o 2)
    rw [hexpect] at hread
    rw [hread]
    rfl
  · have hread := SMap.getRange_setRange g.bytes (o + 2) (bytesOfNat 2 (g.leftAfter o))
    rw [bytesOfNat_length] at hread
    rw [hread, natOfBytes_bytesOfNat, Nat.mod_eq_of_lt]
    unfold Gang.leftAfter
    omega

/-- PHASE after an arrival (R353). -/
theorem countDown_phase : natOfBytes ((g.countDown o g.bytes).getRange (o + 4) 4) = if g.leftAfter o = 0 then (g.recField o 4 4 + 1) % 2 ^ 32 else g.recField o 4 4 := by
  unfold Gang.countDown
  split
  · have hread := SMap.getRange_setRange (g.bytes.setRange (o + 2) (g.bytes.getRange o 2)) (o + 4) (bytesOfNat 4 (g.recField o 4 4 + 1))
    rw [bytesOfNat_length] at hread
    rw [hread, natOfBytes_bytesOfNat]
  · rw [SMap.getRange_setRange_other _ _ _ _ _ (.inr (by rw [bytesOfNat_length]))]
    rfl

/-- The gang's bytes after an arrival. -/
theorem arriveRecord_bytes (hg : s.gang? w.gang = some g) (hside : s.NoSide g.id) : ∃ h, (s.arriveRecord a w l noting).gang? g.id = some h ∧ h.bytes = g.countDown l.va g.bytes := by
  rw [arriveRecord_eq hg hside]
  obtain ⟨h, hh, hplace⟩ := (wakeRecords_sameRecords (gang := g.id) (by_ := a.time) (s.recorded a w g l noting)).gang?_some (recorded_gang? hg)
  obtain ⟨-, -, hbytes⟩ := place_inj hplace
  dsimp only at hbytes
  exact ⟨h, hh, hbytes⟩

/-- What an arrival does to a wave before it ends any wait: at most a phase is noted. -/
theorem recorded_waves : ∃ note : Wave → Wave, (s.recorded a w g l noting).waves = s.waves.map note ∧ ∀ x, note x = { x with phases := (note x).phases } := by
  cases noting with
  | false => exact ⟨fun x => x, (List.map_id _).symm, fun _ => rfl⟩
  | true =>
    refine ⟨fun x => if x.id = w.id then x.notePhase g l else x, rfl, fun x => ?_⟩
    by_cases h : x.id = w.id
    · simp only [if_pos h]
      exact x.notePhase_eq g l
    · simp only [if_neg h]

theorem recorded_names (hnodup : (s.waves.map Wave.id).Nodup) : ((s.recorded a w g l noting).waves.map Wave.id).Nodup := by
  obtain ⟨note, hwaves, hnote⟩ := recorded_waves (s := s) (a := a) (w := w) (g := g) (l := l) (noting := noting)
  have hids : Wave.id ∘ note = Wave.id := by
    funext x
    exact (congrArg Wave.id (hnote x)).trans rfl
  rwa [hwaves, List.map_map, hids]

/-- After an arrival the waves that still wait on the gang's records wait on one unmet (R353). -/
theorem arriveRecord_waiters (hg : s.gang? w.gang = some g) (hside : s.NoSide g.id) (hnodup : (s.waves.map Wave.id).Nodup) {x : Wave} (hx : x ∈ (s.arriveRecord a w l noting).waves)
    (hgang : x.gang = g.id) (hk : x.wakeKind = 3) (hctx : (s.arriveRecord a w l noting).waitingCtx x ≠ none) : ∃ y ∈ (s.arriveRecord a w l noting).awaited x, y.2 = true := by
  rw [arriveRecord_eq hg hside] at hx hctx ⊢
  exact wakeRecords_waiters_unmet (recorded_names hnodup) hx hgang hk hctx

/-- A bar.wait with a record unmet after an arrival waits on (R353). -/
theorem arriveRecord_keeps {f : FmtDA} (hg : s.gang? w.gang = some g) (hside : s.NoSide g.id) (hnodup : (s.waves.map Wave.id).Nodup) {x : Wave} (hx : x ∈ s.waves)
    (hgang : x.gang = g.id) (hk : x.wakeKind = 3) (hwait : x.waiting = some (.barWait f)) (hu : ∃ y ∈ (s.arriveRecord a w l noting).awaited x, y.2 = true) :
    ∃ y ∈ (s.arriveRecord a w l noting).waves, y.id = x.id ∧ y.wakeKind = 3 ∧ y.waiting = x.waiting := by
  rw [arriveRecord_eq hg hside] at hu ⊢
  obtain ⟨note, hwaves, hnote⟩ := recorded_waves (s := s) (a := a) (w := w) (g := g) (l := l) (noting := noting)
  have hmem : note x ∈ (s.recorded a w g l noting).waves := hwaves ▸ List.mem_map_of_mem hx
  have hid : (note x).id = x.id := (congrArg Wave.id (hnote x)).trans rfl
  have hgang' : (note x).gang = g.id := (congrArg Wave.gang (hnote x)).trans hgang
  have hk' : (note x).wakeKind = 3 := (congrArg Wave.wakeKind (hnote x)).trans hk
  have hwait' : (note x).waiting = x.waiting := (congrArg Wave.waiting (hnote x)).trans rfl
  have hback : x = { note x with wake := x.wake, phases := x.phases } := by rw [hnote x]
  rw [awaited_congr (wakeRecords_sameRecords (s.recorded a w g l noting)) hk' hk hback (.inr ⟨f, hwait'.trans hwait⟩)] at hu
  rw [← hid, ← hwait']
  exact wakeRecords_keeps_unmet (recorded_names hnodup) hmem hgang' hk' hu

/-- The arrival of a lane that nothing holds (R59, R110, R115). -/
theorem exec_arrival {r : Wave} (ha : s.flight? a.id = some a) (hk : a.kind = .arrive noting) (hr : s.wave? a.wave = some r) (hres : s.isResident r.gang = true) (hl : a.laneAt l.lane l.dest = some l)
    (hlane : l.lane < 32) (hg : s.gang? r.gang = some g) (hfresh : l.status = .fresh) (hfence : s.fenceHeld a.after = false) (hwindow : s.windowHeld a l = false) (hp : g.present l.va = true) :
    exec (.storeAcknowledge a.id (laneBit l.lane) l.dest) s = .next ((s.arriveRecord a r l noting).afterAccess a) := by
  have hready : s.localReady a r [l] = some g := by
    unfold State.localReady
    simp [hfence, hfresh, hwindow, hg, hp]
  refine accessStep_of_lane (row := "STORE_ACKNOWLEDGE") (f := fun t n => t.ackLane a.id n l.dest) ha hlane ?_
  unfold State.ackLane
  rw [onLane_of_resident ha hr hl hres]
  simp only [hk, hready, Option.map_some]

end

/-! ### The words of barrier objects (R62, R352 to R354) -/

section
variable {s t : State} {c : Ctx} {g : Gang} {ofs : Nat → Nat} {k : Gang → Body}

/-- The lines of every ACTIVE lane's record have a barrier tag. -/
def Ctx.recordsTagged (c : Ctx) (ofs : Nat → Nat) (g : Gang) : Prop := ∀ l, l < 32 → c.act.getLsbD l = true → ofs l / 64 ∈ g.tags

theorem clobberChecks_of_good {bad : Nat → Bool} {b : Body} (h : ∀ l, l < 32 → c.act.getLsbD l = true → bad (ofs l) = false) : c.clobberChecks ofs bad b = b := by
  unfold Ctx.clobberChecks
  rw [failing_none h]

theorem recordChecks_of_tagged (hg : t.gang? c.ga.id = some g) (h : c.offsetsSound ofs g) (ht : c.recordsTagged ofs g) : c.recordChecks ofs t k = k g := by
  unfold Ctx.recordChecks
  rw [localChecks_of_sound hg h, clobberChecks_of_good fun l hl ha => by simp [ht l hl ha]]

/-- A record as bar.init leaves it, in a gang with no side tile open at its bytes: its bytes are written and its line is tagged. -/
def State.initRecord (u : State) (gang o count : Nat) : State :=
  (u.putLocal gang o (bytesOfNat 16 (count + count * 2 ^ 16))).modGang gang fun x => { x with tags := x.tags.filter (fun k => k ≠ o / 64) ++ [o / 64] }

theorem exec_barInit {f : FmtDA} : exec (.barInit f) s = execBarInit f s := by rfl

theorem barInit_of_inactive {f : FmtDA} (h : Issues (.barInit f) s c t) (ha : c.act = 0) : Completes (exec (.barInit f) s) c t := by
  rw [exec_barInit, execBarInit]
  exact issue_ok h (if_pos ha)

/-- Two folds that agree on what both keep are one. -/
theorem foldl_congr_of_kept {α β : Type} {f f' : β → α → β} {P : β → Prop} {ls : List α} {b : β} (hb : P b) (h : ∀ l ∈ ls, ∀ b, P b → f b l = f' b l ∧ P (f' b l)) :
    ls.foldl f b = ls.foldl f' b := by
  induction ls generalizing b with
  | nil => rfl
  | cons l ls ih =>
    obtain ⟨heq, hkept⟩ := h l (by simp) b hb
    rw [List.foldl_cons, List.foldl_cons, heq]
    exact ih hkept fun x hx => h x (by simp [hx])

theorem barInit_completes {f : FmtDA} (h : Issues (.barInit f) s c t) (hg : t.gang? c.ga.id = some g) (ha : c.act ≠ 0) (hgood : c.offsetsSound (c.record f.a) g)
    (hall : ∀ l, l < 32 → c.act.getLsbD l = true → 1 ≤ (c.vsrc c.vimm f.d.toNat 2 l).toNat ∧ (c.vsrc c.vimm f.d.toNat 2 l).toNat ≤ 65535 ∧
      t.lineAwaited g.id (c.record f.a l / 64) = false ∧ ∀ j < 16, t.inSide g.id (c.record f.a l + j) = false)
    (hbusy : t.windowsBusy c.w.id ((laneList c.act).map (c.record f.a)) = false) (hfence : t.fencesOf c.w.id = []) :
    Completes (exec (.barInit f) s) c ((laneList c.act).foldl (fun u l => u.initRecord g.id (c.record f.a l) (c.vsrc c.vimm f.d.toNat 2 l).toNat) t) := by
  have hwrong : (lanesWhere fun l => c.act.getLsbD l && (decide ((c.vsrc c.vimm f.d.toNat 2 l).toNat = 0) || decide (65535 < (c.vsrc c.vimm f.d.toNat 2 l).toNat))) = 0 := by
    refine BitVec.eq_of_getLsbD_eq fun l hl => ?_
    rw [lanesWhere_getLsbD]
    by_cases hact : c.act.getLsbD l = true
    · obtain ⟨hlow, hhigh, -⟩ := hall l hl hact
      simp [show (c.vsrc c.vimm f.d.toNat 2 l).toNat ≠ 0 by omega, show ¬ 65535 < (c.vsrc c.vimm f.d.toNat 2 l).toNat by omega]
    · simp [hact]
  rw [exec_barInit, execBarInit]
  refine issue_ok h ?_
  simp only [if_neg ha, hwrong, ne_eq, not_true, if_false]
  rw [localChecks_of_sound hg hgood, clobberChecks_of_good (ofs := c.record f.a) (bad := fun o => t.lineAwaited g.id (o / 64)) fun l hl hact => (hall l hl hact).2.2.1, hbusy, hfence]
  refine congrArg Body.ok (foldl_congr_of_kept (P := fun u : State => u.eng = t.eng) rfl fun l hl u hu => ⟨?_, hu⟩)
  obtain ⟨hlt, hact⟩ := (mem_laneList _ _).mp hl
  obtain ⟨-, -, -, hout⟩ := hall l hlt hact
  rw [unsided_of_outside fun j hj => (inSide_congr hu _ _).trans (hout j (by simpa [freshRecord] using hj))]
  rfl

/-- The arrivals of a word's ACTIVE lanes, as the access that it puts in flight. -/
def Ctx.arrivalOp (c : Ctx) (a : BitVec 7) (noting : Bool) : MemOp := ⟨.arrive noting, none, (laneList c.act).map fun l => newLane l 0 (c.record a l) 0 0, false, true, 0⟩

theorem exec_barArrive {f : FmtA1} : exec (.barArrive f) s = execBarArrive f s := by rfl

theorem barArrive_accesses {f : FmtA1} (h : Issues (.barArrive f) s c t) (hg : t.gang? c.ga.id = some g) (hgood : c.offsetsSound (c.record f.a) g) (ht : c.recordsTagged (c.record f.a) g) :
    Accesses (exec (.barArrive f) s) c t (c.arrivalOp f.a false) 2 := by
  rw [exec_barArrive, execBarArrive]
  exact issue_launches h (recordChecks_of_tagged hg hgood ht)

theorem exec_barWait {f : FmtDA} : exec (.barWait f) s = execBarWait f s := by rfl

theorem barWait_of_inactive {f : FmtDA} (h : Issues (.barWait f) s c t) (ha : c.act = 0) : Completes (exec (.barWait f) s) c t := by
  rw [exec_barWait, execBarWait]
  exact issue_ok h (if_pos ha)

/-- Nothing holds a bar.wait: its windows are free, its wave's reads are back, and no store to its records' lines is still to be performed. -/
def Ctx.waitFree (c : Ctx) (f : FmtDA) (g : Gang) (t : State) : Prop :=
  t.windowsBusy c.w.id ((laneList c.act).map (c.record f.a)) = false ∧ t.readsBack c.w.id = true ∧ t.storesPending g.id ((laneList c.act).map (c.record f.a)) = false

theorem find?_laneList {act : Lanes} {p : Nat → Bool} {m : Nat} (hm : m < 32) (ha : act.getLsbD m = true) (hp : p m = true) (hlow : ∀ l, l < m → act.getLsbD l = true → p l = false) :
    (laneList act).find? p = some m := by
  unfold laneList
  rw [List.find?_filter, List.find?_range_eq_some]
  refine ⟨by simp [ha, hp], List.mem_range.mpr hm, fun l hl => ?_⟩
  cases hact : act.getLsbD l with
  | false => simp
  | true => simp [hlow l hl hact]

/-- Every ACTIVE lane's record has left the phase that its token names. -/
theorem barWait_completes {f : FmtDA} (h : Issues (.barWait f) s c t) (hg : t.gang? c.ga.id = some g) (ha : c.act ≠ 0) (hgood : c.offsetsSound (c.record f.a) g)
    (ht : c.recordsTagged (c.record f.a) g) (hfree : c.waitFree f g t)
    (hleft : ∀ l, l < 32 → c.act.getLsbD l = true → t.recordPhase g (c.record f.a l) ≠ (c.vsrc c.vimm f.d.toNat 2 l).toNat) :
    Completes (exec (.barWait f) s) c ((t.mergeStaging c.ga.id).invalidateL1 c.w.core) := by
  obtain ⟨hbusy, hread, hstores⟩ := hfree
  have hnone : ((laneList c.act).find? fun l => t.recordPhase g (c.record f.a l) = (c.vsrc c.vimm f.d.toNat 2 l).toNat) = none := List.find?_eq_none.mpr fun l hl => by
    obtain ⟨hlt, hact⟩ := (mem_laneList _ _).mp hl
    simpa using hleft l hlt hact
  rw [exec_barWait, execBarWait]
  refine issue_ok h ?_
  rw [if_neg ha, recordChecks_of_tagged hg hgood ht, hbusy, hread, hstores, hnone]
  rfl

/-- The lowest ACTIVE lane whose record is still in the phase of its token keeps the wave waiting. -/
theorem barWait_waits {f : FmtDA} {m : Nat} (h : Issues (.barWait f) s c t) (hg : t.gang? c.ga.id = some g) (ha : c.act ≠ 0) (hgood : c.offsetsSound (c.record f.a) g)
    (ht : c.recordsTagged (c.record f.a) g) (hfree : c.waitFree f g t) (hm : m < 32) (hact : c.act.getLsbD m = true)
    (hmet : t.recordPhase g (c.record f.a m) = (c.vsrc c.vimm f.d.toNat 2 m).toNat)
    (hlow : ∀ l, l < m → c.act.getLsbD l = true → t.recordPhase g (c.record f.a l) ≠ (c.vsrc c.vimm f.d.toNat 2 l).toNat) :
    exec (.barWait f) s = .next (s.block c.w.id 3 (c.record f.a m / 16) (.barWait f)) := by
  obtain ⟨hbusy, hread, hstores⟩ := hfree
  have hsome : ((laneList c.act).find? fun l => t.recordPhase g (c.record f.a l) = (c.vsrc c.vimm f.d.toNat 2 l).toNat) = some m :=
    find?_laneList hm hact (decide_eq_true hmet) fun l hl hal => decide_eq_false (hlow l hl hal)
  rw [exec_barWait, execBarWait]
  refine issue_block h ?_
  rw [if_neg ha, recordChecks_of_tagged hg hgood ht, hbusy, hread, hstores, hsome]
  rfl

theorem exec_barSync {f : FmtA1} : exec (.barSync f) s = execBarSync f s := by rfl

theorem barSync_of_inactive {f : FmtA1} (h : Issues (.barSync f) s c t) (ha : c.act = 0) : Completes (exec (.barSync f) s) c t := by
  rw [exec_barSync, execBarSync]
  exact issue_ok h (if_pos ha)

theorem barSync_completes {f : FmtA1} (h : Issues (.barSync f) s c t) (hg : t.gang? c.ga.id = some g) (ha : c.act ≠ 0) (hgood : c.offsetsSound (c.record f.a) g)
    (ht : c.recordsTagged (c.record f.a) g) (hstores : t.storesPending g.id ((laneList c.act).map (c.record f.a)) = false) (hu : c.unheld (c.arrivalOp f.a true) t = true) :
    Completes (exec (.barSync f) s) c (c.waitSync (.barSync f) (c.record f.a) (c.flown (c.arrivalOp f.a true) 2 t)) := by
  have hlaunch : c.arrivals (c.record f.a) true t = .ok (c.flown (c.arrivalOp f.a true) 2 t) := launch_of_unheld ha hu
  rw [exec_barSync, execBarSync]
  refine issue_ok h ?_
  rw [if_neg ha, recordChecks_of_tagged hg hgood ht, hstores, hlaunch]
  rfl

end

/-- Settles O26: the words by their front conditions; a barrier by who waits at it; an arrival by its record's bytes and by what the gang's waiting waves read of them. -/
theorem barriersHoldAndRelease : Obligations.BarriersHoldAndRelease := by
  unfold Obligations.BarriersHoldAndRelease
  refine ⟨⟨fun f s t c h => ⟨fun hx => bar_of_inactive h hx, bar_of_excess h, fun hx => bar_arrives h hx⟩, fun f s t c h => ⟨barnet_of_inactive h, barnet_arrives h⟩,
    fun s id a i w hw => ?_, fun s id a i w hw => arriveAt_net hw, fun s w ga gr a hh hw ha h2 h5 hwake => ?_, fun s a w g l noting hg hside => ?_⟩, fun s t c g hg => ?_⟩
  · exact fun _ => ⟨wave?_block hw, arriveAt_last hw, arriveAt_early hw⟩
  · have hwhole := netComplete_iff (a := a) hh hw ha
    refine ⟨fun hno => ?_, fun hall => tryRelease_complete hh h2 h5 hwake (hwhole.mpr hall)⟩
    rw [tryRelease_net hh hwake (by omega), if_neg fun hc => hno (hwhole.mp hc)]
  · refine ⟨?_, fun hnodup => ?_, fun ha hk hr hres hl hlane hfresh hfence hwindow hp => ?_⟩
    · obtain ⟨h, hh, hbytes⟩ := arriveRecord_bytes (a := a) (l := l) (noting := noting) hg hside
      refine ⟨h, hh, fun o ho => ?_, ?_, ?_⟩ <;> rw [hbytes]
      · exact countDown_get ho
      · exact countDown_left
      · exact countDown_phase
    · exact ⟨fun x hx => arriveRecord_waiters hg hside hnodup hx, fun x hx f => arriveRecord_keeps hg hside hnodup hx⟩
    · exact exec_arrival ha hk hr hres hl hlane hg hfresh hfence hwindow hp
  · refine ⟨fun _ _ => rfl, fun f h => ⟨barInit_of_inactive h, fun ha hgood hall hbusy hfence => barInit_completes h hg ha hgood hall hbusy hfence⟩,
      fun f h hgood ht => barArrive_accesses h hg hgood ht, fun f h => ⟨barWait_of_inactive h, fun ha hgood ht hbusy hread hstores => ⟨fun hleft => ?_, fun m hm hact hmet hlow => ?_⟩⟩,
      fun f h => ⟨barSync_of_inactive h, fun ha hgood ht hstores hu => barSync_completes h hg ha hgood ht hstores hu⟩⟩
    · exact barWait_completes h hg ha hgood ht ⟨hbusy, hread, hstores⟩ hleft
    · exact barWait_waits h hg ha hgood ht ⟨hbusy, hread, hstores⟩ hm hact hmet hlow

end Sys2Proof.Machine
end

section
/-! PROOFS. The word that issues, and the choice of a partition (O10). -/

namespace Sys2Proof.Machine

/-! ### The wave whose word goes on (R149, R150, R272, R287) -/

section
variable {i : Instr} {w : Wave}

/-- A wave as its word goes on to its meaning: withdrawn from a wait, the word's counter raised, and the group's lanes at the next word. -/
def Ctx.gone (c : Ctx) (i : Instr) (now : Nat) (w : Wave) : Wave := (if c.act = 0 then w.withdraw else w.withdraw.raise i.counter).advance c.lanes c.pc now

theorem modCounter_frame (w : Wave) (n : Nat) (f : BitVec 6 → BitVec 6) :
    w.modCounter n f = { w with ld := (w.modCounter n f).ld, st := (w.modCounter n f).st, cp := (w.modCounter n f).cp, tl := (w.modCounter n f).tl } := by
  unfold Wave.modCounter
  split <;> rfl

theorem withdraw_frame (w : Wave) :
    w.withdraw = { w with ld := w.withdraw.ld, st := w.withdraw.st, cp := w.withdraw.cp, tl := w.withdraw.tl, wake := 0, waiting := none } := by
  unfold Wave.withdraw
  split
  · split
    · rfl
    · rw [Wave.lower, modCounter_frame]
  · rfl

/-- A withdrawn wave differs from the wave in its counters and its wait alone, with its counter raised or not. -/
theorem raised_frame (b : Prop) [Decidable b] (w : Wave) (n : Nat) : let y := if b then w.withdraw else w.withdraw.raise n
    y = { w with ld := y.ld, st := y.st, cp := y.cp, tl := y.tl, wake := 0, waiting := none } := by
  dsimp only
  split
  · exact withdraw_frame w
  · rw [Wave.raise, modCounter_frame, withdraw_frame w]

/-- What going on changes of a wave beside its counters, and what it leaves. -/
theorem gone_fields (c : Ctx) (i : Instr) (now : Nat) (w : Wave) : let x := c.gone i now w
    x.id = w.id ∧ x.pc = (w.setPcs c.lanes fun _ => c.pc + 4).pc ∧ x.released = w.released &&& ~~~c.lanes ∧ x.v = w.v ∧ x.s = w.s ∧ x.p = w.p ∧
      x.meet = w.meet ∧ x.team = w.team ∧ x.tstat = w.tstat ∧ x.time = w.time + 1 := by
  dsimp only
  unfold Ctx.gone
  rw [raised_frame]
  exact ⟨rfl, rfl, rfl, rfl, rfl, rfl, rfl, rfl, rfl, rfl⟩

/-- The counter that a word raises is one of the four, or none. -/
theorem counter_le_four (i : Instr) : i.counter ≤ 4 := by
  unfold Instr.counter
  split <;> decide

theorem counter_raise (w : Wave) {n : Nat} (hn : n ≤ 4) : (w.raise n).counter n = if n = 0 then w.counter n else w.counter n + 1 := by
  match n with
  | 0 | 1 | 2 | 3 | 4 => rfl
  | n + 5 => omega

theorem counter_advance (w : Wave) (lanes : Lanes) (pc : Quad) (now n : Nat) : (w.advance lanes pc now).counter n = w.counter n := by
  unfold Wave.counter
  split <;> rfl

/-- A wave that did not wait has the counter of its word's kind one higher once a lane is ACTIVE. -/
theorem gone_counter (c : Ctx) (now : Nat) (hw : w.waiting = none) :
    (c.gone i now w).counter i.counter = if i.counter = 0 ∨ c.act = 0 then w.counter i.counter else w.counter i.counter + 1 := by
  have hstill : w.withdraw.counter i.counter = w.counter i.counter := by
    have : w.withdraw = { w with wake := 0, waiting := none } := by
      unfold Wave.withdraw
      rw [hw]
    rw [this]
    rfl
  unfold Ctx.gone
  rw [counter_advance]
  by_cases ha : c.act = 0
  · rw [if_pos ha, if_pos (Or.inr ha), hstill]
  · rw [if_neg ha, counter_raise _ (counter_le_four i), hstill]
    simp only [ha, or_false]

end

/-! ### The choice outside deterministic mode (R179) -/

section
variable {s : State} {w : Wave}

/-- The CLASS of a wave's launch. -/
def State.classOf (s : State) (w : Wave) : Nat := match s.gridOf w with | some g => g.cls | none => 0

theorem classOf_of_grid {g : Grid} (h : s.gridOf w = some g) : s.classOf w = g.cls := by
  unfold State.classOf
  rw [h]

theorem isDet_of_grid {g : Grid} (h : s.gridOf w = some g) : s.isDet w = g.det := by
  unfold State.isDet
  rw [h]

theorem before_iff {x : Wave} : s.before x w = true ↔
    s.classOf w < s.classOf x ∨ s.classOf x = s.classOf w ∧ (x.lastIssue < w.lastIssue ∨ x.lastIssue = w.lastIssue ∧ x.slot < w.slot) := by
  change (decide (s.classOf w < s.classOf x) || (decide (s.classOf x = s.classOf w) && (decide (x.lastIssue < w.lastIssue) || (decide (x.lastIssue = w.lastIssue) && decide (x.slot < w.slot))))) = true ↔ _
  simp only [Bool.or_eq_true, Bool.and_eq_true, decide_eq_true_eq]

theorem mem_slotHolders {core p : Nat} {x : Wave} : x ∈ s.slotHolders core p ↔
    x ∈ s.waves ∧ x.core = core ∧ x.partition = p ∧ s.isResident x.gang = true ∧ (x.alive = true ∨ ((s.gridOf x).bind Grid.vox).isSome = true) := by
  simp only [State.slotHolders, List.mem_filter, Bool.and_eq_true, Bool.or_eq_true, decide_eq_true_eq, and_assoc]

/-- On a partition without a rotation the choice is a wave that no other ready one comes before. -/
theorem isChoice_of_no_rotation (hr : s.rotationSlots w.part = []) (hd : s.isDet w = false) : s.isChoice w = true ↔
    ∀ x ∈ s.slotHolders w.core w.partition, x.id ≠ w.id → s.isDet x = false → s.ready x = true → ¬s.before x w = true := by
  unfold State.isChoice
  simp only [hd, hr, Bool.false_eq_true, if_false, decide_true, Bool.true_or, Bool.true_and, List.all_eq_true, Bool.or_eq_true, Bool.not_eq_true', decide_eq_true_eq]
  refine forall₂_congr fun x _ => ?_
  cases s.isDet x <;> cases s.ready x <;> simp [or_iff_not_imp_left]

/-! ### The rotation (R181) -/

/-- A deterministic wave is the choice where the pointer stands at it, outside the cycles that a shared partition keeps for R179's choice. -/
theorem isChoice_of_det (hd : s.isDet w = true) : s.isChoice w = true ↔
    pointedSlot (s.rotation.get w.part).toNat (s.rotationSlots w.part) = some w.slot ∧ (s.sharesPart w.part = true → s.cycle.toNat % 4 ≠ 0) := by
  unfold State.isChoice
  simp only [hd, if_true, Bool.and_eq_true, Bool.not_eq_true', Bool.and_eq_false_iff, decide_eq_true_eq, decide_eq_false_iff_not]
  cases s.sharesPart w.part <;> simp [and_comm]

theorem fourths_one (n : Nat) : fourths n 1 = if n % 4 = 0 then 1 else 0 := by
  unfold fourths
  split <;> omega

theorem rotationSlots_nodup (part : Nat) : (s.rotationSlots part).Nodup := List.nodup_range.filter _

theorem rotationSlots_lt {part x : Nat} (h : x ∈ s.rotationSlots part) : x < 64 := List.mem_range.mp (List.mem_filter.mp h).1

/-- One cycle moves a pointer by one slot of its rotation, unless the cycle goes to R179's choice. -/
theorem pointerAfter_one {part k : Nat} (hk : k < (s.rotationSlots part).length)
    (hp : pointedSlot (s.rotation.get part).toNat (s.rotationSlots part) = some ((s.rotationSlots part).getD k 0)) :
    (s.pointerAfter 1 part).toNat = if s.sharesPart part = true ∧ s.cycle.toNat % 4 = 0 then (s.rotationSlots part).getD k 0
      else (s.rotationSlots part).getD ((k + 1) % (s.rotationSlots part).length) 0 := by
  have hindex : (s.rotationSlots part).idxOf ((s.rotationSlots part).getD k 0) = k := by
    rw [List.getD_eq_getElem _ _ hk]
    exact (rotationSlots_nodup part).idxOf_getElem k hk
  have hslot (n : Nat) : (BitVec.ofNat 64 ((s.rotationSlots part)[n % (s.rotationSlots part).length]?.getD 0)).toNat = (s.rotationSlots part).getD (n % (s.rotationSlots part).length) 0 := by
    have hn := Nat.mod_lt n (Nat.lt_of_le_of_lt (Nat.zero_le k) hk)
    have hlt := rotationSlots_lt (List.getElem_mem hn)
    rw [List.getD_eq_getElem _ _ hn, List.getElem?_eq_getElem hn, Option.getD_some, BitVec.toNat_ofNat, Nat.mod_eq_of_lt (by omega)]
  have hmoves : (if s.sharesPart part = true then 1 - fourths s.cycle.toNat 1 else 1) = if s.sharesPart part = true ∧ s.cycle.toNat % 4 = 0 then 0 else 1 := by
    rw [fourths_one]
    by_cases hshare : s.sharesPart part = true <;> by_cases hfour : s.cycle.toNat % 4 = 0 <;> simp [hshare, hfour]
  unfold State.pointerAfter
  simp only [hp, hindex, hmoves]
  rw [hslot]
  split
  · rw [Nat.add_zero, Nat.mod_eq_of_lt hk]
  · rfl

theorem mem_rotations (hw : w ∈ s.waves) (hr : s.isResident w.gang = true) (hd : s.isDet w = true) : w.part ∈ s.rotations := by
  unfold State.rotations
  rw [List.mem_eraseDups]
  exact List.mem_map_of_mem (List.mem_filter.mpr ⟨hw, by rw [hr, hd]; rfl⟩)

theorem passCycles_pointer {part : Nat} (n : Nat) (h : part ∈ s.rotations) : (s.passCycles n).rotation.get part = s.pointerAfter n part := by
  have hset : (s.passCycles n).rotation = s.rotation.setMany s.rotations (fun p => p) (s.pointerAfter n) := rfl
  rw [hset, SMap.get_setMany _ _ _ _ _ fun a _ b _ e => e, find_self, if_pos h]

end

/-- Settles O10: the word goes on by the frame of an issue (`front_run`), and each field of its wave by what going on changes; a partition's choice by its two kinds of wave. -/
theorem wordIssues : Obligations.WordIssues := by
  unfold Obligations.WordIssues
  refine ⟨fun i s w ga gr pc lanes hw hh hc hg hwatch hlegal hhold hfull hports => ?_, fun s w g hr hg hd => ?_, fun s w g hg hd => ?_, fun s w k hw hres hd hk hp => ?_, fun _ _ => rfl⟩
  · let c : Ctx := Ctx.ofIssue i w ga gr pc lanes
    have hid : w.id = s.issuer := of_decide_eq_true (List.find?_some (p := fun w : Wave => decide (w.id = s.issuer)) hw)
    have hrun : Issues i s c (s.modWave w.id (c.gone i s.cycle.toNat)) := front_run hw hh hc hg hwatch hlegal hhold hfull hports
    have hwave : (s.modWave w.id (c.gone i s.cycle.toNat)).wave? w.id = some (c.gone i s.cycle.toNat w) := by
      rw [State.wave?_modWave _ _ _ fun x => (gone_fields c i _ x).1, hid, hw, Option.map_some, if_pos rfl]
    obtain ⟨-, hpc, hreleased, hv, hs, hp, hmeet, hteam, htstat, htime⟩ := gone_fields c i s.cycle.toNat w
    refine ⟨_, _, hrun, rfl, hwave, fun l hl => ?_, hreleased, hv, hs, hp, hmeet, hteam, htstat, htime, gone_counter c s.cycle.toNat⟩
    rw [Wave.pcOf, hpc]
    exact (Wave.pcOf_setPcs w lanes (fun _ => pc + 4) l).trans (if_congr (and_iff_right hl) rfl rfl)
  · rw [isChoice_of_no_rotation hr ((isDet_of_grid hg).trans hd), ← classOf_of_grid hg]
    simp only [mem_slotHolders, before_iff, and_imp]
    rfl
  · exact isChoice_of_det ((isDet_of_grid hg).trans hd)
  · rw [passCycles_pointer 1 (mem_rotations hw hres hd)]
    exact pointerAfter_one hk hp

end Sys2Proof.Machine
end

section
/-! PROOFS. Words with port operands (O11). -/

namespace Sys2Proof.Machine

/-! ### A word that has come to its ports (R160, R201, R267) -/

section
variable {i : Instr} {s : State} {c : Ctx} {us : List PortUse}

/-- Only the entries of its ports can hold the word back: some lane is ACTIVE, its ticket has come, its wave's writes are done before a push to a FIFO and its reads back before a pop from one. -/
structure Ctx.AtPorts (c : Ctx) (us : List PortUse) (s : State) : Prop where
  active : c.act ≠ 0
  ticket : c.gr.det = false ∨ s.ticketReady c.w = true
  writes : (∃ u ∈ us, u.pop = false ∧ (c.gr.port u.port).1 = 1) → s.writesDone c.w.id c.w.core 4 = true
  reads : (∃ u ∈ us, u.pop = true ∧ (c.gr.port u.port).1 = 1) → s.readsBack c.w.id = true

/-- What is left once the descriptors have been read: they are read where not every lane can be served. -/
def Ctx.polled (c : Ctx) (us : List PortUse) (s : State) : State :=
  if s.servable c.gr us (laneCount c.act) < laneCount c.act then s.portPolls c.gr us (laneCount c.act) else s

/-- The ACTIVE lanes that the ports can serve, from the lowest one. -/
def Ctx.served (c : Ctx) (us : List PortUse) (s : State) : Lanes := firstLanes c.act (s.servable c.gr us (laneCount c.act))

theorem servable_le (gr : Grid) (n : Nat) : s.servable gr us n ≤ n := by
  induction n with
  | zero => exact Nat.le_refl 0
  | succ n ih =>
    unfold State.servable
    split
    · exact Nat.le_refl _
    · exact Nat.le_succ_of_le ih

/-- No ticket holds a word that has come to its ports. -/
theorem Ctx.AtPorts.ticketed (h : c.AtPorts us s) (b : Bool) : (c.gr.det && b && !s.ticketReady c.w) = false := by
  rcases h.ticket with hd | ht
  · rw [hd, Bool.false_and, Bool.false_and]
  · rw [ht, Bool.not_true, Bool.and_false]

/-- The use of a FIFO in a direction whose earlier accesses are over does not hold the word. -/
theorem fifoUse_free {pop done : Bool} (h : (∃ u ∈ us, u.pop = pop ∧ (c.gr.port u.port).1 = 1) → done = true) :
    ((us.any fun u => u.pop = pop && (c.gr.port u.port).1 = 1) && !done) = false := by
  cases done with
  | true => exact Bool.and_false _
  | false =>
    rw [Bool.not_false, Bool.and_true, List.any_eq_false]
    intro u hu hfifo
    simp only [Bool.and_eq_true, decide_eq_true_eq] at hfifo
    exact Bool.false_ne_true (h ⟨u, hu, hfifo⟩)

/-- A word that has come to its ports goes on for the lanes that they serve, with the entries popped, where they serve every lane or the hint asks for no more. -/
theorem viaPorts_served (h : c.AtPorts us s) (hserved : s.servable c.gr us (laneCount c.act) = laneCount c.act ∨ c.hints.nb = true) :
    ∃ got ended s1, popAll c.ga c.gr c.w (c.served us s) us (c.polled us s) = ((got, ended), s1) ∧
      s.viaPorts i c us = (s1.modWave c.w.id fun w => w.portGuard (i.guard.getD 0).toNat c.hints.nb c.act (c.served us s) ended).go i { c with act := c.served us s, popped := got } := by
  have hgo : (s.servable c.gr us (laneCount c.act) < laneCount c.act && !c.hints.nb) = false := by
    rcases hserved with he | hnb
    · rw [decide_eq_false (Nat.not_lt.mpr (Nat.le_of_eq he.symm)), Bool.false_and]
    · rw [hnb, Bool.not_true, Bool.and_false]
  rcases hpop : popAll c.ga c.gr c.w (c.served us s) us (c.polled us s) with ⟨⟨got, ended⟩, s1⟩
  refine ⟨got, ended, s1, rfl, ?_⟩
  unfold Ctx.served Ctx.polled at hpop
  simp only [State.viaPorts, h.active, h.ticketed, fifoUse_free h.writes, fifoUse_free h.reads, hgo, hpop, Bool.or_self, Bool.false_eq_true, if_false]
  rfl

/-- A word that has come to its ports waits at the first that cannot serve its lanes (KIND 4), where no hint lets it go on for fewer. -/
theorem viaPorts_waits {u : PortUse} (h : c.AtPorts us s) (hshort : s.servable c.gr us (laneCount c.act) < laneCount c.act) (hnb : c.hints.nb = false)
    (hu : us.find? (fun u => !s.serves c.gr us (laneCount c.act) u) = some u) : s.viaPorts i c us = .other ((c.polled us s).block c.w.id 4 (u.port - 112) i) := by
  unfold Ctx.polled
  simp only [State.viaPorts, h.active, h.ticketed, fifoUse_free h.writes, fifoUse_free h.reads, hshort, hnb, hu, Bool.or_self, Bool.not_false, Bool.and_true, decide_true,
    Bool.false_eq_true, if_false, if_true]

/-! ### What reading the descriptors leaves (R351, R487) -/

/-- Reads of descriptors and rings that all are mapped leave nothing but what a look leaves. -/
theorem portPolls_of_mapped {gr : Grid} {n : Nat} (h : s.unmappedPort gr us n = none) : ∃ looks, s.portPolls gr us n = s.noteReads gr.asid looks := by
  unfold State.portPolls
  rw [h]
  exact ⟨_, rfl⟩

/-- An unmapped descriptor or ring is logged besides, with LOG code 6. -/
theorem portPolls_of_unmapped {gr : Grid} {n : Nat} {v : PortUse} {f : Flt} (h : s.unmappedPort gr us n = some (v, f)) :
    ∃ looks, s.portPolls gr us n = (s.noteReads gr.asid looks).logEvent 6 gr.asid (gr.port v.port).2 (f.code * 2 ^ 8 + f.cause) (v.port - 112) := by
  unfold State.portPolls
  rw [h]
  exact ⟨_, rfl⟩

end

/-- Settles O11: the word has come to its ports; which of the two it does there is told by how many lanes they serve. -/
theorem portWordIssues : Obligations.PortWordIssues := by
  unfold Obligations.PortWordIssues
  intro i s c us _ hact hticket hwrites hreads
  have h : c.AtPorts us s := ⟨hact, hticket, hwrites, hreads⟩
  exact ⟨viaPorts_served h, fun u => viaPorts_waits h, portPolls_of_mapped, fun v f => portPolls_of_unmapped⟩

end Sys2Proof.Machine
end

section
/-! PROOFS. Branches, calls and returns (O23). -/

namespace Sys2Proof.Machine

/-! ### Changes of one wave, one after another -/

section
variable {s t : State} {c : Ctx}

/-- Two changes of one wave are one change, where the first keeps its name. -/
theorem modWave_modWave {id : Nat} {f g : Wave → Wave} (hf : ∀ w, (f w).id = w.id) : (s.modWave id f).modWave id g = s.modWave id fun w => g (f w) := by
  unfold State.modWave
  simp only [List.map_map]
  congr 1
  refine List.map_congr_left fun w _ => ?_
  by_cases hw : w.id = id <;> simp [hf, hw]

/-- No lane is in a set that is empty. -/
theorem lanes_eq_zero {m : Lanes} (h : ∀ l, l < 32 → m.getLsbD l = false) : m = 0 :=
  BitVec.eq_of_getLsbD_eq fun l hl => (h l hl).trans BitVec.getLsbD_zero.symm

theorem lanes_ne_zero {m : Lanes} {l : Nat} (h : m.getLsbD l = true) : m ≠ 0 := fun hz => by
  have hzero : (0 : Lanes).getLsbD l = false := BitVec.getLsbD_zero
  rw [hz, hzero] at h
  nomatch h

/-! ### A jump (R150, R161, R204, R311 to R315) -/

/-- The jump is noted for the choice of the next group: a call, or a branch of some lane to its own address or below. -/
def Ctx.turnsBack (c : Ctx) (call : Bool) (target : Nat → Quad) : Bool := c.act ≠ 0 && (call || (laneList c.act).any fun l => target l ≤ c.pc)

/-- A jump that is noted is where the wave of an expired gang yields, unless it runs masked. -/
def Ctx.yieldsAt (c : Ctx) (t : State) (back : Bool) : Bool := back && (t.gang? c.ga.id).any (fun g => g.expired.isSome) && !c.w.tm

/-- A wave after a jump. -/
def Ctx.jumped (c : Ctx) (t : State) (back : Bool) (target : Nat → Quad) (w : Wave) : Wave :=
  { w.setPcs c.act target with backFrom := if back = true then some c.pc else w.backFrom, wake := if c.yieldsAt t back = true then wakeOf 9 0 else w.wake }

theorem expiredYield_eq : t.expiredYield c = t.modWave c.w.id fun w => { w with wake := if c.yieldsAt t true = true then wakeOf 9 0 else w.wake } := by
  have hstays : t.modWave c.w.id (fun w => w) = t := modWave_of_fixed (w := c.w) fun _ _ _ => rfl
  unfold State.expiredYield Ctx.yieldsAt
  rw [Bool.true_and]
  cases t.gang? c.ga.id with
  | none => exact hstays.symm
  | some g =>
    cases hy : g.expired.isSome && !c.w.tm with
    | true => simp only [hy, Option.any_some, if_true]
    | false =>
      simp only [hy, Option.any_some, Bool.false_eq_true, if_false]
      exact hstays.symm

theorem jump_eq (call : Bool) (target : Nat → Quad) : c.jump call target t = t.modWave c.w.id (c.jumped t (c.turnsBack call target) target) := by
  have hcases : c.jump call target t = if c.turnsBack call target = true
      then ((t.modWave c.w.id fun w => w.setPcs c.act target).modWave c.w.id fun w => { w with backFrom := some c.pc }).expiredYield c
      else t.modWave c.w.id fun w => w.setPcs c.act target := rfl
  rw [hcases]
  cases c.turnsBack call target with
  | true =>
    rw [if_pos rfl, expiredYield_eq, modWave_modWave (by intro w; rfl), modWave_modWave (by intro w; rfl)]
    rfl
  | false => rfl

/-- A wave whose pair `link`, where there is one, holds the address of the next word in the ACTIVE lanes. -/
def Ctx.linked (c : Ctx) (link : Option Nat) (w : Wave) : Wave := match link with
  | none => w
  | some d => if d ≤ 110 then (w.setVs c.act d fun _ => lo32 (c.pc + 4)).setVs c.act (d + 1) fun _ => hi32 (c.pc + 4) else w

theorem linked_of_pair {d : Nat} (hd : d ≤ 110) (w : Wave) :
    c.linked (some d) w = (w.setVs c.act d fun _ => lo32 (c.pc + 4)).setVs c.act (d + 1) fun _ => hi32 (c.pc + 4) := if_pos hd

theorem linked_of_no_pair {d : Nat} (hd : ¬d ≤ 110) (w : Wave) : c.linked (some d) w = w := if_neg hd

theorem linked_frame (link : Option Nat) (w : Wave) : c.linked link w = { w with v := (c.linked link w).v } := by
  unfold Ctx.linked
  split
  · rfl
  · split <;> rfl

theorem putV2_link (d : Nat) : c.putV2 d (fun _ => c.pc + 4) t = t.modWave c.w.id (c.linked (some d)) := by
  by_cases hd : d ≤ 110
  · rw [funext (linked_of_pair hd)]
    exact if_pos hd
  · rw [modWave_of_fixed (w := c.w) fun x _ _ => linked_of_no_pair hd x]
    exact if_neg hd

/-- What the registers of a wave hold once its pair has the address of the next word. -/
theorem getV_linked (link : Option Nat) (w : Wave) {l n : Nat} (hl : l < 32) (hn : n ≤ 111) : (c.linked link w).getV l n = match link with
    | none => w.getV l n
    | some d => if d ≤ 110 ∧ c.act.getLsbD l = true ∧ n = d then lo32 (c.pc + 4)
      else if d ≤ 110 ∧ c.act.getLsbD l = true ∧ n = d + 1 then hi32 (c.pc + 4) else w.getV l n := by
  cases link with
  | none => rfl
  | some d =>
    by_cases hd : d ≤ 110
    · rw [linked_of_pair hd, Wave.getV_setVs _ _ _ _ _ _ (by omega) (by omega), Wave.getV_setVs _ _ _ _ _ _ (by omega) (by omega)]
      by_cases hnd : n = d
      · simp [hnd, hl, hd]
      · simp [hnd, hl, hd]
    · simp only [linked_of_no_pair hd, hd, false_and, if_false]

/-- A word that links and jumps has the result of a jump. -/
theorem jump_result {r : Result} (link : Option Nat) (target : Nat → Quad) (h : Completes r c (c.jump link.isSome target (t.modWave c.w.id (c.linked link)))) :
    JumpResult r c t link target := by
  have hid (w : Wave) : (c.linked link w).id = w.id := by rw [linked_frame]
  refine ⟨fun w => (w.setPcs c.act target).pc, fun w => (c.linked link w).v, ?_, fun w l hl => ?_, fun w l n hl hn => getV_linked link w hl hn⟩
  · rw [show r = _ from h, jump_eq, modWave_modWave hid, modWave_modWave (by intro w; exact hid w)]
    refine congrArg Host.Outcome.next (modWave_congr fun w _ _ => ?_)
    rw [linked_frame]
    rfl
  · exact (Wave.pcOf_setPcs w c.act target l).trans (if_congr (and_iff_right hl) rfl rfl)

theorem jump_result_unlinked {r : Result} (target : Nat → Quad) (h : Completes r c (c.jump false target t)) : JumpResult r c t none target := by
  refine jump_result none target ?_
  rwa [show t.modWave c.w.id (c.linked none) = t from modWave_of_fixed (w := c.w) fun _ _ _ => rfl]

theorem jump_result_linked {r : Result} (d : Nat) (target : Nat → Quad) (h : Completes r c (c.jump true target (c.putV2 d (fun _ => c.pc + 4) t))) :
    JumpResult r c t (some d) target := jump_result (some d) target (putV2_link d ▸ h)

/-! ### A target past the budget (R315) -/

theorem lowestPc_isSome {xs : List Quad} (h : xs ≠ []) : ∃ p, lowestPc xs = some p := by
  cases xs with
  | nil => exact absurd rfl h
  | cons x xs =>
    unfold lowestPc
    split <;> exact ⟨_, rfl⟩

/-- The lowest of some addresses is one of them, and none is lower. -/
theorem lowestPc_le {xs : List Quad} {p : Quad} (h : lowestPc xs = some p) : p ∈ xs ∧ ∀ q ∈ xs, p ≤ q := by
  induction xs generalizing p with
  | nil => nomatch h
  | cons x xs ih =>
    unfold lowestPc at h
    split at h
    · rename_i hnone
      obtain rfl := Option.some.inj h
      have hnil : xs = [] := by
        by_contra hne
        obtain ⟨q, hq⟩ := lowestPc_isSome hne
        rw [hnone] at hq
        nomatch hq
      simp [hnil]
    · rename_i q hq
      obtain ⟨hmem, hle⟩ := ih hq
      obtain rfl := Option.some.inj h
      by_cases hx : x ≤ q
      · rw [if_pos hx]
        refine ⟨List.mem_cons_self, fun r hr => ?_⟩
        rcases List.mem_cons.mp hr with rfl | hr
        · exact BitVec.le_refl _
        · exact BitVec.le_trans hx (hle r hr)
      · rw [if_neg hx]
        refine ⟨List.mem_cons_of_mem _ hmem, fun r hr => ?_⟩
        rcases List.mem_cons.mp hr with rfl | hr
        · exact BitVec.le_of_lt (BitVec.not_le.mp hx)
        · exact hle r hr

variable {f : FmtR}

/-- The ACTIVE lanes whose budget exceeds REGS. -/
def Ctx.overBudget (c : Ctx) (f : FmtR) : Lanes := lanesWhere fun l => c.act.getLsbD l && decide (c.gr.regs < (c.b f l).toNat)

/-- What the record of BUDGET names. -/
def Ctx.budgetReport (c : Ctx) (f : FmtR) : TrapInfo :=
  precise 6 0 c.word c.pc c.act (c.overBudget f) 0 (leastAddr ((laneList (c.overBudget f)).map fun l => c.target f.a l)).toNat

theorem overBudget_getLsbD {l : Nat} (hl : l < 32) : (c.overBudget f).getLsbD l = (c.act.getLsbD l && decide (c.gr.regs < (c.b f l).toNat)) := by
  rw [Ctx.overBudget, lanesWhere_getLsbD, decide_eq_true hl, Bool.true_and]

theorem exec_calli : exec (.calli f) s = issue (.calli f) s fun c t => if c.overBudget f ≠ 0 then .trap (c.budgetReport f)
    else .ok (c.jump true (fun l => c.target f.a l) (c.putV2 f.d.toNat (fun _ => c.pc + 4) t)) := rfl

theorem calli_jumps (h : Issues (.calli f) s c t) (hb : c.overBudget f = 0) : JumpResult (exec (.calli f) s) c t (some f.d.toNat) fun l => c.target f.a l := by
  rw [exec_calli]
  exact jump_result_linked _ _ (issue_ok h (if_neg (not_not_intro hb)))

theorem calli_traps (h : Issues (.calli f) s c t) (hb : c.overBudget f ≠ 0) : exec (.calli f) s = .next (s.trap c.w.id c.lanes (c.budgetReport f)) := by
  rw [exec_calli]
  exact issue_trap h (if_pos hb) (show (6 : Nat) ≠ 12 by decide)

/-- AUX of BUDGET is the least of the targets past the budget. -/
theorem budgetReport_aux {m : Nat} (hm : m < 32) (he : (c.overBudget f).getLsbD m = true) :
    (c.budgetReport f).aux ≤ (c.target f.a m).toNat ∧ ∃ l, l < 32 ∧ (c.overBudget f).getLsbD l = true ∧ (c.budgetReport f).aux = (c.target f.a l).toNat := by
  have hmem : c.target f.a m ∈ (laneList (c.overBudget f)).map fun l => c.target f.a l := List.mem_map_of_mem ((mem_laneList _ m).mpr ⟨hm, he⟩)
  obtain ⟨p, hp⟩ := lowestPc_isSome (List.ne_nil_of_mem hmem)
  obtain ⟨hin, hle⟩ := lowestPc_le hp
  have haux : (c.budgetReport f).aux = p.toNat := by
    show (leastAddr _).toNat = p.toNat
    rw [leastAddr, hp, Option.getD_some]
  obtain ⟨l, hl, rfl⟩ := List.mem_map.mp hin
  rw [haux]
  exact ⟨BitVec.le_def.mp (hle _ hmem), l, ((mem_laneList _ l).mp hl).1, ((mem_laneList _ l).mp hl).2, rfl⟩

end

/-- Settles O23: each word is a jump, with or without a link; a calli is one when no lane is past the budget, and else BUDGET names the lanes that are. -/
theorem controlTransfers : Obligations.ControlTransfers := by
  unfold Obligations.ControlTransfers
  refine ⟨fun f s t c h => jump_result_unlinked _ (issueOk_completes h _), fun f s t c => ⟨fun h => jump_result_unlinked _ (issueOk_completes h _), fun h => jump_result_unlinked _ (issueOk_completes h _)⟩,
    fun f s t c h => jump_result_linked _ _ (issueOk_completes h _), fun f s t c h => ?_⟩
  dsimp only
  refine ⟨fun hnone => calli_jumps h (lanes_eq_zero fun l hl => (overBudget_getLsbD hl).trans (hnone l hl)), fun m hm he => ?_⟩
  have hover : (c.overBudget f).getLsbD m = true := (overBudget_getLsbD hm).trans he
  obtain ⟨hle, l, hl, hex, heq⟩ := budgetReport_aux hm hover
  exact ⟨c.budgetReport f, calli_traps h (lanes_ne_zero hover), rfl, rfl, rfl, rfl, rfl, rfl, fun l hl => overBudget_getLsbD hl, rfl, hle, l, hl, (overBudget_getLsbD hl).symm.trans hex, heq⟩

end Sys2Proof.Machine
end

section
/-! PROOFS. exit, yield and next (O25). -/

namespace Sys2Proof.Machine

section
variable {s t : State} {c : Ctx} {f : FmtG0}

/-! ### exit (R147, R317) -/

/-- A wave of which lanes have ended. -/
def Wave.without (lanes : Lanes) (w : Wave) : Wave := ({ w with ended := w.ended ||| lanes, txIn := w.txIn &&& ~~~lanes } : Wave).settle

/-- Where a thread of the wave lives on, the end of lanes is a change of that wave alone. -/
theorem endLanes_of_living {id : Nat} {lanes : Lanes} {x : Wave} (hx : t.wave? id = some x) (hl : x.ended ||| lanes ≠ BitVec.allOnes 32) :
    t.endLanes id lanes = t.modWave id (Wave.without lanes) := by
  have hwave : (t.modWave id (Wave.without lanes)).wave? id = some (x.without lanes) := by
    rw [State.wave?_modWave _ _ (Wave.without lanes) fun _ => rfl, hx, Option.map_some, if_pos rfl]
  have halive : (x.without lanes).alive = true := decide_eq_true hl
  change (match (t.modWave id (Wave.without lanes)).wave? id with
    | none => t.modWave id (Wave.without lanes)
    | some w => if w.alive then t.modWave id (Wave.without lanes) else _) = _
  simp only [hwave, halive, if_true]

/-! ### yield of a native program (R161, R319) -/

/-- The gang has expired, or the head of a FIFO needs its room. -/
def Ctx.mustYield (c : Ctx) (t : State) : Bool := (t.gang? c.ga.id).any fun g => g.expired.isSome || t.headNeeds g.id

/-- What the yield of a native program leaves before the meeting rule. -/
def Ctx.yielded (c : Ctx) (t : State) : State := if c.act ≠ 0 && c.mustYield t then t.modWave c.w.id fun w => { w with wake := wakeOf 9 0 } else t

theorem exec_yield : exec (.yield f) s = issue (.yield f) s fun c t => match (if c.vox then c.gr.vox else none) with
    | some m => c.segmentEnd m t
    | none => .ok <| match t.gang? c.ga.id with
      | some g => if c.act ≠ 0 && (g.expired.isSome || t.headNeeds g.id) then t.modWave c.w.id fun w => { w with wake := wakeOf 9 0 } else t
      | none => t := by rfl

theorem yield_of_native (h : Issues (.yield f) s c t) (hv : c.gr.vox = none) : Completes (exec (.yield f) s) c (c.yielded t) := by
  rw [exec_yield]
  refine issue_ok h ?_
  unfold Ctx.yielded Ctx.mustYield
  rw [hv, ite_self]
  cases t.gang? c.ga.id with
  | none => simp only [Option.any_none, Bool.and_false, Bool.false_eq_true, if_false]
  | some g => simp only [Option.any_some]

theorem yielded_of_expired (ha : c.act ≠ 0) (hy : c.mustYield t = true) : c.yielded t = t.modWave c.w.id fun w => { w with wake := wakeOf 9 0 } := by
  unfold Ctx.yielded
  rw [hy, decide_eq_true ha, Bool.and_self, if_pos rfl]

theorem yielded_of_idle (h : c.act = 0 ∨ c.mustYield t = false) : c.yielded t = t := by
  unfold Ctx.yielded
  rcases h with ha | hy
  · rw [decide_eq_false (not_not_intro ha), Bool.false_and, if_neg Bool.false_ne_true]
  · rw [hy, Bool.and_false, if_neg Bool.false_ne_true]

/-! ### The end of a Voxunet segment (R430, R432) -/

variable {m : VoxModule}

/-- The segment that a lane goes on to. -/
def Ctx.successor (c : Ctx) (l : Nat) : Nat := (c.w.getV l c.vregs).toNat

/-- The ACTIVE lanes whose successor is no segment. -/
def Ctx.astray (c : Ctx) (m : VoxModule) : Lanes := lanesWhere fun l => c.act.getLsbD l && decide (m.segs.length ≤ c.successor l)

/-- The gathering that is noted at a segment's end. -/
def Ctx.gathers (c : Ctx) (m : VoxModule) (gathering : Lanes) : Lanes :=
  (gathering &&& ~~~c.act) ||| lanesWhere fun l => c.act.getLsbD l && (m.segs[c.successor l]?).any fun e => e.gather

theorem astray_getLsbD {l : Nat} (hl : l < 32) : (c.astray m).getLsbD l = (c.act.getLsbD l && decide (m.segs.length ≤ c.successor l)) := by
  rw [Ctx.astray, lanesWhere_getLsbD, decide_eq_true hl, Bool.true_and]

theorem gathers_getLsbD (gathering : Lanes) {l : Nat} (hl : l < 32) :
    (c.gathers m gathering).getLsbD l = if c.act.getLsbD l = true then (m.segs[c.successor l]?).any (fun e => e.gather) else gathering.getLsbD l := by
  rw [Ctx.gathers, BitVec.getLsbD_or, BitVec.getLsbD_and, BitVec.getLsbD_not, lanesWhere_getLsbD, decide_eq_true hl, Bool.true_and, Bool.true_and]
  cases c.act.getLsbD l <;> simp

theorem segmentEnd_eq : c.segmentEnd m t = if c.astray m ≠ 0 then .trap (precise 0 0 c.word c.pc c.act (c.astray m) 0 0)
    else .ok (t.modWave c.w.id fun w => { w.setPcs c.act (fun _ => c.pc) with parked := w.parked ||| c.act, gathering := c.gathers m w.gathering }) := by
  have hany (o : Option CodeEntry) : o.any (fun e => e.gather) = match o with | some e => e.gather | none => false := by cases o <;> rfl
  unfold Ctx.gathers
  simp only [hany]
  rfl

theorem exec_yield_of_segment (h : Issues (.yield f) s c t) (hvox : c.vox = true) (hm : c.gr.vox = some m) {b : Body} (hb : c.segmentEnd m t = b) :
    exec (.yield f) s = issue (.yield f) s fun _ _ => b := by
  rw [exec_yield]
  unfold issue
  rw [show s.front (.yield f) = .run c t from h]
  simp only [hvox, hm, if_true, hb]

/-- The ACTIVE threads park at the yield where every successor is a segment. -/
theorem yield_parks (h : Issues (.yield f) s c t) (hvox : c.vox = true) (hm : c.gr.vox = some m) (hb : c.astray m = 0) : Completes (exec (.yield f) s) c
    (t.modWave c.w.id fun w => { w.setPcs c.act (fun _ => c.pc) with parked := w.parked ||| c.act, gathering := c.gathers m w.gathering }) := by
  rw [exec_yield_of_segment h hvox hm (segmentEnd_eq.trans (if_neg (not_not_intro hb)))]
  exact issue_ok h rfl

/-- A successor that is no segment is ILLOP of its lanes. -/
theorem yield_traps (h : Issues (.yield f) s c t) (hvox : c.vox = true) (hm : c.gr.vox = some m) (hb : c.astray m ≠ 0) :
    exec (.yield f) s = .next (s.trap c.w.id c.lanes (precise 0 0 c.word c.pc c.act (c.astray m) 0 0)) := by
  rw [exec_yield_of_segment h hvox hm (segmentEnd_eq.trans (if_pos hb))]
  exact issue_trap h rfl (show (0 : Nat) ≠ 12 by decide)

end

/-- Settles O25: exit by its shared operation; yield by whether the word ends a segment; the Voxunet readings by their destination. -/
theorem exitAndYieldLeave : Obligations.ExitAndYieldLeave := by
  unfold Obligations.ExitAndYieldLeave
  refine ⟨⟨fun f s t c h => issueOk_completes h _, fun t id lanes x => endLanes_of_living, fun f s t c h => ⟨fun hv => ⟨fun ha hy => ?_, fun hidle => ?_⟩, fun m hvox hm => ⟨fun hsegs => ?_, fun l hl ha hout => ?_⟩⟩⟩,
    fun s t c => ⟨fun n h => putV_result c t _ _ (issueOk_completes h _), fun a h => putV_result c t _ _ (issueOk_completes h _)⟩⟩
  · exact yielded_of_expired ha hy ▸ yield_of_native h hv
  · have hnative := yield_of_native h hv
    rwa [yielded_of_idle hidle] at hnative
  · have hnone : c.astray m = 0 := by
      refine lanes_eq_zero fun l hl => ?_
      rw [astray_getLsbD hl]
      cases ha : c.act.getLsbD l with
      | false => rfl
      | true => exact decide_eq_false (Nat.not_le.mpr (hsegs l hl ha))
    refine ⟨fun w => (w.setPcs c.act fun _ => c.pc).pc, fun w => c.gathers m w.gathering, yield_parks h hvox hm hnone, fun w l hl => ⟨?_, gathers_getLsbD w.gathering hl⟩⟩
    exact (Wave.pcOf_setPcs w c.act (fun _ => c.pc) l).trans (if_congr (and_iff_right hl) rfl rfl)
  · have hastray : (c.astray m).getLsbD l = true := by
      rw [astray_getLsbD hl, ha, Bool.true_and]
      exact decide_eq_true hout
    exact ⟨precise 0 0 c.word c.pc c.act (c.astray m) 0 0, yield_traps h hvox hm (lanes_ne_zero hastray), rfl, rfl, rfl, rfl, hastray⟩

end Sys2Proof.Machine
end

section
/-! PROOFS. smask of a wave whose name another wave bears too (O35). -/

namespace Sys2Proof.Machine

/-- A wave of gang 1 that runs with privilege, with traps unmasked. -/
def twinWave : Wave := tableWave.setTstat false true false

/-- A wave of the same name in gang 2. -/
def twinOther : Wave := { twinWave with gang := 2 }

/-- Two waves of the name 1: that of gang 1, to which no pre-emption request has come, and that of gang 2, which has expired. -/
def twinState : State :=
  { State.reset with waves := [twinWave, twinOther], gangs := [tableGang, { tableGang with id := 2, expired := some 0 }], grids := [tableGrid], issuer := 1 }

/-- The smask that sets TM. -/
def twinWord : FmtSmask := ⟨0, 1⟩

/-- The word of the wave of gang 1. -/
def twinCtx : Ctx := Ctx.ofIssue (.smask twinWord) twinWave tableGang tableGrid 0x1000 (BitVec.allOnes 32)

/-- smask makes the wave of gang 2 hold its own gang's request. -/
theorem twinState_holds : (match exec (.smask twinWord) twinState with
    | .next t => t.waves.map Wave.prepend
    | _ => []) = [false, true] := by
  decide +kernel

/-- The word passes the front end for the wave of gang 1, at whose gang no request stands; no wave holds one yet. -/
theorem twinWord_issues : ∃ t, Issues (.smask twinWord) twinState twinCtx t ∧ t.waves.map Wave.prepend = [false, false] ∧ t.requestedAt twinCtx.w.gang = none :=
  ⟨_, front_run (w := twinWave) (ga := tableGang) (gr := tableGrid) rfl rfl (by decide +kernel) (by decide +kernel) (by decide +kernel) (by decide +kernel) (by decide +kernel)
    (Or.inl rfl) (by decide +kernel), by decide +kernel, by decide +kernel⟩

theorem modWave_prepends {t : State} {id : Nat} {f : Wave → Wave} (hf : ∀ w, (f w).prepend = w.prepend) : (t.modWave id f).waves.map Wave.prepend = t.waves.map Wave.prepend := by
  rw [State.modWave_waves, List.map_map]
  refine List.map_congr_left fun w _ => ?_
  by_cases hw : w.id = id <;> simp [hw, hf]

/-- Refutes O35: the statement asks for a request at the gang of the wave that issues, and the model, for every wave of that wave's name, for one at that wave's own gang; nothing keeps two waves
of a state from bearing one name, and then a wave of another gang, which has expired, comes to hold a request that the statement does not give it. -/
theorem not_systemWordsAct : ¬ Obligations.SystemWordsAct := by
  unfold Obligations.SystemWordsAct
  intro h
  obtain ⟨⟨hsmask, -⟩, -⟩ := h
  obtain ⟨t, hissues, hnone, hrequest⟩ := twinWord_issues
  obtain ⟨-, -, hset, -⟩ := hsmask twinWord twinState t twinCtx hissues
  obtain ⟨hfree, -⟩ := hset (by decide +kernel) (by decide +kernel) rfl
  have hexec : exec (.smask twinWord) twinState = _ := hfree hrequest
  have hholds := twinState_holds
  simp only [hexec] at hholds
  rw [modWave_prepends (f := Wave.settle) fun w => rfl, modWave_prepends fun w => Wave.setTstat_prepend w true w.priv w.prepend, hnone] at hholds
  nomatch hholds

end Sys2Proof.Machine
end

section
/-! PROOFS. What the kiln's reads and writes of a context's memory leave of the waves (O49). -/

namespace Sys2Proof.Machine

section
variable {s t u : State}

theorem OnlyHomes.waves (h : OnlyHomes s u) : u.waves = s.waves := by rw [h.frame]

theorem OnlyHomes.writeHome (h : OnlyHomes s t) (asid va pa leaf side : Nat) (bs : List Byte) : OnlyHomes s (t.writeHome asid va pa leaf side bs) :=
  (h.notePin asid pa leaf).storeHome asid va pa leaf side bs

theorem OnlyHomes.meetPoison (h : OnlyHomes s t) (asid line : Nat) : OnlyHomes s (t.meetPoison asid line) := (h.postEvent _).modKiln _

theorem readHome_waves (s : State) (asid pa leaf n : Nat) : (s.readHome asid pa leaf n).2.waves = s.waves := by
  have hpin := (OnlyHomes.refl s).notePin asid pa leaf
  unfold State.readHome
  dsimp only
  split
  · exact (hpin.meetPoison asid _).waves
  · split <;> exact hpin.waves

theorem noteLook_waves (s : State) (asid : Nat) (l : Look) : (s.noteLook asid l).2.waves = s.waves := by
  unfold State.noteLook
  refine List.foldlRecOn (motive := fun acc : Bool × State => acc.2.waves = s.waves) _ _ rfl fun acc h p _ => ?_
  have hthrough := ((OnlyHomes.refl acc.2).through none asid p.1 l.need l.priv).waves.trans h
  split
  · exact h
  · split
    · rename_i hp
      rwa [hp] at hthrough
    · rename_i hp
      rw [hp] at hthrough
      dsimp only
      split
      · exact hthrough
      · exact (readHome_waves _ _ _ _ _).trans hthrough

theorem noteReads_waves (s : State) (asid : Nat) (looks : List Look) : (s.noteReads asid looks).waves = s.waves := by
  unfold State.noteReads
  refine List.foldlRecOn (motive := fun acc : Bool × State => acc.2.waves = s.waves) _ _ rfl fun acc h l _ => ?_
  split
  · exact (noteLook_waves acc.2 asid l).trans h
  · exact h

theorem homeRead_waves {core : Option Nat} {asid va n : Nat} {need : Need} {priv : Bool} {bs : List Byte} (h : s.homeRead core asid va n need priv = .ok (bs, u)) : u.waves = s.waves := by
  unfold State.homeRead at h
  refine List.foldlRecOn (motive := fun acc : Except (Flt × Nat) (List Byte × State) => ∀ x, acc = .ok x → x.2.waves = s.waves) _ _ ?_ (fun acc hacc p _ x hx => ?_) _ h
  · rintro x hx
    obtain rfl := Except.ok.inj hx
    rfl
  · cases acc with
    | error e => nomatch hx
    | ok y =>
      have hthrough := ((OnlyHomes.refl y.2).through core asid p.1 need priv).waves.trans (hacc y rfl)
      simp only [bind, Except.bind] at hx
      split at hx
      · nomatch hx
      · rename_i hp
        rw [hp] at hthrough
        obtain rfl := Except.ok.inj hx
        exact (readHome_waves _ _ _ _ _).trans hthrough

theorem ctxRead_waves {asid va n : Nat} {need : Need} {priv : Bool} {bs : List Byte} (h : s.ctxRead asid va n need priv = .ok (bs, u)) : u.waves = s.waves := homeRead_waves h

/-- A write of a context's memory changes nothing but memory, the caches, the contexts, the host's queues and the kiln. -/
theorem OnlyHomes.ctxWrite {asid va : Nat} {bs : List Byte} {need : Need} {priv : Bool} {core : Option Nat} (h : s.ctxWrite asid va bs need priv core = .ok u) : OnlyHomes s u := by
  unfold State.ctxWrite at h
  split at h
  · nomatch h
  · obtain rfl := Except.ok.inj h
    refine OnlyHomes.foldl (fun t p => ?_) _ s
    have hthrough := (OnlyHomes.refl t).through core asid p.1 need priv
    split
    · exact OnlyHomes.refl t
    · rename_i hp
      rw [hp] at hthrough
      dsimp only
      split
      · exact (hthrough.writeHome ..).modCaches _
      · exact hthrough.writeHome ..

end

end Sys2Proof.Machine
end

section
/-! PROOFS. Gangs that expire, leave their cores and come back (O49). -/

namespace Sys2Proof.Machine

section
variable {s : State} {g : Gang} {gr : Grid}

/-! ### Expiry (R161, R204) -/

theorem holdRequest_eq (w : Wave) (now : Nat) :
    w.holdRequest true now = if w.tm = true ∧ w.prepend = false then { w.setTstat w.tm w.priv true with heldSince := some now } else w := by
  unfold Wave.holdRequest
  refine if_congr ?_ rfl rfl
  rw [Bool.true_and, Bool.and_eq_true, Bool.not_eq_true']

/-- An expiring gang's cycle is noted, and its masked waves that hold no request come to hold this one. -/
theorem expire_eq (gang : Nat) : s.expire gang = { s.modGang gang fun x => { x with expired := some s.cycle.toNat } with
    waves := s.waves.map fun w => if w.gang = gang ∧ w.tm = true ∧ w.prepend = false then { w.setTstat w.tm w.priv true with heldSince := some s.cycle.toNat } else w } := by
  unfold State.expire
  simp only [holdRequest_eq, ite_and]

theorem exec_quantumExpiry (hg : s.gang? g.id = some g) (hgr : s.grid? g.grid = some gr) (hres : g.resident = true) (hexp : g.expired = none) (hfifo : s.fifo ≠ [])
    (hover : g.placedAt + (s.quanta.get gr.cls).toNat * 325000 ≤ s.cycle.toNat) : exec (.quantumExpiry g.id) s = .next (s.expire g.id) := by
  refine event_some (o := (s.gang? g.id).bind _) ?_
  rw [hg, Option.bind_some, hgr, Option.bind_some, if_pos]
  simp only [hres, hexp, Option.isNone_none, Bool.true_and, Bool.and_eq_true, decide_eq_true_eq]
  exact ⟨hfifo, hover⟩

/-! ### Leaving (R160, R161, R200, R204) -/

theorem leave_of_quiet {full : Bool} (hq : s.quiet g.id = true) : s.leave g full = some (s.evict g.id full) := if_pos hq

theorem leave_of_busy {full : Bool} (hres : g.resident = true) (hq : s.quiet g.id = false) (hl : g.leaving = none) :
    s.leave g full = some (s.modGang g.id fun x => { x with leaving := some s.cycle.toNat }) := by
  unfold State.leave
  rw [hq, hl, hres]
  rfl

/-- A step by which a gang leaves saves and evicts it where it is quiet, and else has it issue nothing more. -/
theorem leaves_of_leave {i : Instr} {row : String} {full : Bool} (hres : g.resident = true) (h : exec i s = event row (s.leave g full)) :
    (s.quiet g.id = true → exec i s = .next (s.evict g.id full)) ∧
      (s.quiet g.id = false → g.leaving = none → exec i s = .next (s.modGang g.id fun x => { x with leaving := some s.cycle.toNat })) :=
  ⟨fun hq => h.trans (event_some (leave_of_quiet hq)), fun hq hl => h.trans (event_some (leave_of_busy hres hq hl))⟩

theorem masked_of_unmasked (h : ∀ w ∈ s.wavesOf g.id, w.alive = true → w.tm = false) : s.masked g.id = false := by
  unfold State.masked
  rw [List.any_eq_false]
  intro w hw hm
  obtain ⟨ha, htm⟩ := Bool.and_eq_true_iff.mp hm
  rw [h w hw ha] at htm
  nomatch htm

theorem exec_gangEviction (hg : s.gang? g.id = some g) (hres : g.resident = true) (hblock : ∀ w ∈ s.wavesOf g.id, s.atBlocking w = true)
    (hcause : g.expired.isSome = true ∨ s.headNeeds g.id = true ∨ s.hasYielded g.id = true) (hm : s.masked g.id = false) :
    exec (.gangEviction g.id) s = event "GANG_EVICTION" (s.leave g false) := by
  have hblocked : s.gangBlocked g = true := by
    unfold State.gangBlocked
    rw [hres, Bool.true_and]
    exact List.all_eq_true.mpr hblock
  have hany : (g.expired.isSome || s.headNeeds g.id || s.hasYielded g.id) = true := by
    simpa only [Bool.or_eq_true, or_assoc] using hcause
  show event "GANG_EVICTION" ((s.gang? g.id).bind _) = _
  rw [hg, Option.bind_some]
  simp only [hblocked, hany, hm, Bool.and_self, Bool.or_true, if_true, Bool.false_eq_true, if_false, Bool.not_true]

theorem exec_forcedSave {at_ : Nat} (hg : s.gang? g.id = some g) (hexp : g.expired = some at_) (hlong : at_ + 130000 ≤ s.cycle.toNat) (hm : s.masked g.id = false) :
    exec (.forcedSave g.id) s = event "FORCED_SAVE" (s.leave g true) := by
  show event "FORCED_SAVE" ((s.gang? g.id).bind _) = _
  rw [hg, Option.bind_some, hexp, Option.bind_some, if_pos hlong, hm, if_neg Bool.false_ne_true]

theorem exec_preemptHoldTimeout {w : Wave} {at_ : Nat} (hg : s.gang? g.id = some g) (hw : w ∈ s.wavesOf g.id) (ha : w.alive = true) (hheld : w.heldSince = some at_)
    (hlong : at_ + 2 ^ 20 ≤ s.cycle.toNat) : exec (.preemptHoldTimeout g.id) s = event "PREEMPT_HOLD_TIMEOUT" (s.leave g true) := by
  show event "PREEMPT_HOLD_TIMEOUT" ((s.gang? g.id).bind _) = _
  rw [hg, Option.bind_some, if_pos]
  refine List.any_eq_true.mpr ⟨w, hw, ?_⟩
  rw [ha, hheld, Bool.true_and]
  exact decide_eq_true hlong

/-- A wave of a gang that is to leave issues nothing, unless a hint has been issued whose word is still to come. -/
theorem canIssue_of_leaving {w : Wave} (hl : g.leaving.isSome = true) (hh : w.hints = []) : s.canIssue w g = false := by
  obtain ⟨at_, hat⟩ := Option.isSome_iff_exists.mp hl
  unfold State.canIssue
  simp [hat, hh]

/-! ### Coming back (R177, R203) -/

theorem exec_gangRestore {s1 : State} {area size first : Nat} {bs : List Byte} {rest : List Runnable} (hfifo : s.fifo = .gang g.id :: rest) (hg : s.gang? g.id = some g)
    (hsaved : g.saved = some (area, size)) (hgr : s.grid? g.grid = some gr) (hfirst : s.choose gr g = some first) (hread : s.ctxRead gr.asid area size needRead true = .ok (bs, s1)) :
    exec (.gangRestore g.id) s = event "GANG_RESTORE" ((({ s1 with fifo := rest } : State).bringBack gr g first bs).map State.distribute) := by
  show execGangRestore g.id s = _
  unfold execGangRestore
  rw [hfifo]
  simp only [ne_eq, not_true, if_false, hg, hsaved, hgr, hfirst, hread, Option.bind_some]

/-- A gang without privileged waves has no trap records to write, and comes back. -/
theorem bringBack_of_unprivileged {first : Nat} {area : List Byte} (h : ∀ w ∈ s.waves, w.gang = g.id → w.priv = false) : ∃ t, s.bringBack gr g first area = some t := by
  have hprivs : (s.wavesOf g.id).filter Wave.priv = [] := by
    refine List.filter_eq_nil_iff.mpr fun w hw hp => ?_
    obtain ⟨hmem, hgang⟩ := List.mem_filter.mp hw
    rw [h w hmem (of_decide_eq_true hgang)] at hp
    nomatch hp
  unfold State.bringBack
  simp only [hprivs, List.length_nil, List.range_zero, List.filterMap_nil, State.bringRecords, Option.map_some]
  exact ⟨_, rfl⟩

/-! ### The save (R177, R185, R200 to R202, R348) -/

/-- The state as a gang's save leaves its waves and the reservation tables. -/
def State.toSave (s : State) (gang : Nat) : State := (s.modWaves ((s.wavesOf gang).map fun w => w.id) Wave.saving).withdrawEntries gang

/-- The state once the trap records of a gang's privileged waves have been read. -/
def State.recordsRead (s : State) (gr : Grid) (gang : Nat) : State := (s.toSave gang).noteReads gr.asid ((s.toSave gang).recordLooksOf gr gang)

section
variable {full : Bool} {a : Nat} {s2 : State}

theorem evict_unplaced (hg : s.gang? g.id = some g) (hgr : s.grid? g.grid = some gr) (hplace : (s.toSave g.id).areaPlace gr.asid ((s.toSave g.id).saveArea gr g full).length = none) :
    s.evict g.id full = s.stayOn gr g ((s.toSave g.id).saveArea gr g full).length := by
  unfold State.toSave at hplace ⊢
  simp only [State.evict, hg, hgr, hplace]

theorem evict_unwritten {f : Flt × Nat} (hg : s.gang? g.id = some g) (hgr : s.grid? g.grid = some gr)
    (hplace : (s.toSave g.id).areaPlace gr.asid ((s.toSave g.id).saveArea gr g full).length = some a)
    (hwrite : (s.recordsRead gr g.id).ctxWrite gr.asid a ((s.toSave g.id).saveArea gr g full) needWrite true none = .error f) :
    s.evict g.id full = s.stayOn gr g ((s.toSave g.id).saveArea gr g full).length := by
  unfold State.recordsRead State.toSave at hwrite
  unfold State.toSave at hplace ⊢
  simp only [State.evict, hg, hgr, hplace, hwrite]

theorem evict_written (hg : s.gang? g.id = some g) (hgr : s.grid? g.grid = some gr)
    (hplace : (s.toSave g.id).areaPlace gr.asid ((s.toSave g.id).saveArea gr g full).length = some a)
    (hwrite : (s.recordsRead gr g.id).ctxWrite gr.asid a ((s.toSave g.id).saveArea gr g full) needWrite true none = .ok s2) :
    s.evict g.id full = (s2.putAway g.id a ((s.toSave g.id).saveArea gr g full).length).distribute := by
  unfold State.recordsRead State.toSave at hwrite
  unfold State.toSave at hplace ⊢
  simp only [State.evict, hg, hgr, hplace, hwrite]

/-- A gang that stays has a new quantum, and is neither expired nor about to leave. -/
theorem stayOn_gang {size : Nat} {x : Gang} (hx : x ∈ (s.stayOn gr g size).gangs) (hid : x.id = g.id) :
    ∃ y ∈ s.gangs, x = { y with expired := none, leaving := none, placedAt := s.cycle.toNat } := by
  have hgangs : (s.stayOn gr g size).gangs = (s.modGang g.id fun y => { y with expired := none, leaving := none, placedAt := s.cycle.toNat }).gangs := (logEvent_launches _ _ _ _ _ _).1
  rw [hgangs] at hx
  obtain ⟨y, hy, rfl⟩ := List.mem_map.mp hx
  refine ⟨y, hy, if_pos ?_⟩
  by_contra hne
  rw [if_neg hne] at hid
  exact hne hid

/-- A gang put away holds no core and names its area. -/
theorem putAway_gang {gang area size : Nat} {x : Gang} (hx : x ∈ (s.putAway gang area size).gangs) (hid : x.id = gang) :
    x.resident = false ∧ x.cores = [] ∧ x.expired = none ∧ x.saved = some (area, size) := by
  obtain ⟨y, -, rfl⟩ := List.mem_map.mp hx
  by_cases hy : y.id = gang
  · rw [if_pos hy]
    exact ⟨rfl, rfl, rfl, rfl⟩
  · rw [if_neg hy] at hid
    exact absurd hid hy

theorem putAway_waves (gang area size : Nat) : (s.putAway gang area size).waves = s.waves.map fun w => if w.gang = gang then { w with wake := s.savedWake gang w } else w := rfl

/-- Where no two waves bear one name, the save touches the gang's waves alone. -/
theorem toSave_waves (gang : Nat) (hone : ∀ x ∈ s.waves, ∀ y ∈ s.waves, x.id = y.id → x = y) : (s.toSave gang).waves = s.waves.map fun w => if w.gang = gang then w.saving else w := by
  refine List.map_congr_left fun w hw => if_congr ?_ rfl rfl
  rw [List.contains_iff_mem, List.mem_map]
  constructor
  · rintro ⟨x, hx, hid⟩
    obtain ⟨hmem, hgang⟩ := List.mem_filter.mp hx
    rw [← hone x hmem w hw hid]
    exact of_decide_eq_true hgang
  · exact fun hgang => ⟨w, List.mem_filter.mpr ⟨hw, decide_eq_true hgang⟩, rfl⟩

/-- The waves of a gang that has been put away are as its save left them, but for their wake conditions; the other waves are as before. -/
theorem putAway_saved_waves (hwrite : (s.recordsRead gr g.id).ctxWrite gr.asid a ((s.toSave g.id).saveArea gr g full) needWrite true none = .ok s2)
    (hone : ∀ x ∈ s.waves, ∀ y ∈ s.waves, x.id = y.id → x = y) (size : Nat) :
    (s2.putAway g.id a size).waves = s.waves.map fun w => if w.gang = g.id then { w.saving with wake := s2.savedWake g.id w.saving } else w := by
  have hwaves : s2.waves = (s.toSave g.id).waves := (OnlyHomes.ctxWrite hwrite).waves.trans (noteReads_waves _ _ _)
  rw [putAway_waves, hwaves, toSave_waves g.id hone, List.map_map]
  refine List.map_congr_left fun w _ => ?_
  by_cases hw : w.gang = g.id
  · simp only [Function.comp, if_pos hw]
    exact if_pos hw
  · simp only [Function.comp, if_neg hw]

end

end

/-- Settles O49: each way of leaving is the same `leave`; an eviction by whether its area has a place and can be written. -/
theorem gangsExpireAndMove : Obligations.GangsExpireAndMove := by
  unfold Obligations.GangsExpireAndMove
  refine ⟨⟨fun s g gr hg hgr hres hexp hfifo hover => ?_, fun s g hg hres => ?_, fun s w g => canIssue_of_leaving, fun s s1 g gr area size first bs rest hfifo hg hsaved hgr hfirst hread => ?_⟩,
    fun s g gr full hg hgr => ?_⟩
  · rw [exec_quantumExpiry hg hgr hres hexp hfifo hover, expire_eq]
  · exact ⟨fun hblock hcause hun => leaves_of_leave hres (exec_gangEviction hg hres hblock hcause (masked_of_unmasked hun)),
      fun at_ hexp hlong hun => leaves_of_leave hres (exec_forcedSave hg hexp hlong (masked_of_unmasked hun)),
      fun w at_ hw ha hheld hlong => leaves_of_leave hres (exec_preemptHoldTimeout hg hw ha hheld hlong)⟩
  · have hexec := exec_gangRestore hfifo hg hsaved hgr hfirst hread
    have hnext (t : State) (ht : ({ s1 with fifo := rest } : State).bringBack gr g first bs = some t) : exec (.gangRestore g.id) s = .next t.distribute := by
      rw [hexec, ht]
      rfl
    refine ⟨hnext, fun hun => ?_⟩
    obtain ⟨t, ht⟩ := bringBack_of_unprivileged (s := { s1 with fifo := rest }) (gr := gr) (g := g) (first := first) (area := bs) fun w hw => hun w (ctxRead_waves hread ▸ hw)
    exact ⟨t, ht, hnext t ht⟩
  · refine ⟨evict_unplaced hg hgr, fun a f => evict_unwritten hg hgr, fun x hx hid => stayOn_gang hx hid, fun a s2 hplace hwrite => ?_, rfl, rfl⟩
    exact ⟨_, evict_written hg hgr hplace hwrite, rfl, fun x hx hid => putAway_gang hx hid, rfl, rfl, fun hone => ⟨_, putAway_saved_waves hwrite hone _⟩⟩

end Sys2Proof.Machine
end

section
/-! PROOFS. The matrix arbiter, and what a granted word does to its tile (O46). -/

namespace Sys2Proof.Machine

/-! ### The next entry of each team (R184) -/

section
variable {s : State} {quad : Nat} {x y e : MxEntry} {l : List MxEntry}

/-- Entries of one team. -/
def MxEntry.sameTeam (x y : MxEntry) : Bool := x.gang = y.gang && x.team = y.team

theorem sameTeam_iff : x.sameTeam y = true ↔ x.gang = y.gang ∧ x.team = y.team := by
  simp only [MxEntry.sameTeam, Bool.and_eq_true, decide_eq_true_eq]

/-- Of a list of entries, the first of each team. -/
def firstOfTeams (l : List MxEntry) : List MxEntry := l.foldl (fun r e => if r.any fun x => x.sameTeam e then r else r ++ [e]) []

theorem leaders_eq : s.leaders quad = firstOfTeams (s.eng.matrix.table.filter fun e => e.quad = quad && s.mayLead e) := rfl

theorem firstOfTeams_append_singleton : firstOfTeams (l ++ [e]) = if (firstOfTeams l).any fun x => x.sameTeam e then firstOfTeams l else firstOfTeams l ++ [e] := by
  rw [firstOfTeams, List.foldl_append]
  rfl

/-- A team has a first entry where it has one. -/
theorem exists_firstOfTeams : (∃ x ∈ firstOfTeams l, x.gang = y.gang ∧ x.team = y.team) ↔ ∃ x ∈ l, x.gang = y.gang ∧ x.team = y.team := by
  induction l using List.reverseRecOn with
  | nil => rfl
  | append_singleton l e ih =>
    rw [firstOfTeams_append_singleton]
    split
    · rename_i hmate
      simp only [List.any_eq_true, sameTeam_iff] at hmate
      grind
    · grind

/-- In a list in posting order the first entry of a team is the one that was posted earliest. -/
theorem mem_firstOfTeams (hl : (l.map fun x => x.order).Pairwise (· < ·)) :
    x ∈ firstOfTeams l ↔ x ∈ l ∧ ∀ y ∈ l, y.gang = x.gang → y.team = x.team → x.order ≤ y.order := by
  induction l using List.reverseRecOn with
  | nil => simp [firstOfTeams]
  | append_singleton l e ih =>
    rw [List.map_append, List.pairwise_append] at hl
    obtain ⟨hl, -, hlast⟩ := hl
    have hbefore (y : MxEntry) (hy : y ∈ l) : y.order < e.order := hlast y.order (List.mem_map_of_mem hy) e.order (by simp)
    have hany : (firstOfTeams l).any (fun x => x.sameTeam e) = true ↔ ∃ y ∈ l, y.gang = e.gang ∧ y.team = e.team := by
      rw [← exists_firstOfTeams]
      simp only [List.any_eq_true, sameTeam_iff]
    -- `e` was posted after all of `l`: it is its team's earliest exactly where `l` holds no entry of its team.
    rw [firstOfTeams_append_singleton]
    split
    · rw [ih hl]
      grind
    · rw [List.mem_append, ih hl]
      grind

/-- The entry's team has no frozen pass, or is not held back by it (R369). -/
def State.Able (s : State) (x : MxEntry) : Prop :=
  (∃ d, x.instr = .mxfold d) ∨ x.instr = .mxres ∨ x.instr = .mxend ∨ ∀ t, s.tile? x.gang x.team = some t → t.frozen = none

theorem passesFrozen_iff (i : Instr) : Instr.passesFrozen i = true ↔ (∃ d, i = .mxfold d) ∨ i = .mxres ∨ i = .mxend := by
  unfold Instr.passesFrozen
  split <;> simp_all

theorem mayLead_iff : s.mayLead x = true ↔ s.Able x := by
  unfold State.mayLead State.Able
  rw [Bool.or_eq_true, passesFrozen_iff, or_assoc, or_assoc]
  cases s.tile? x.gang x.team <;> simp

/-- The entry is its team's next on an engine: the earliest posted of its entries that no frozen pass holds back. -/
def State.Leads (s : State) (quad : Nat) (x : MxEntry) : Prop :=
  x ∈ s.eng.matrix.table ∧ x.quad = quad ∧ s.Able x ∧ ∀ y ∈ s.eng.matrix.table, y.quad = quad → y.gang = x.gang → y.team = x.team → s.Able y → x.order ≤ y.order

theorem mem_leaders (ht : (s.eng.matrix.table.map fun x => x.order).Pairwise (· < ·)) : x ∈ s.leaders quad ↔ s.Leads quad x := by
  have hsorted : ((s.eng.matrix.table.filter fun e => e.quad = quad && s.mayLead e).map fun x => x.order).Pairwise (· < ·) := ht.sublist (List.filter_sublist.map _)
  rw [leaders_eq, mem_firstOfTeams hsorted]
  simp only [State.Leads, List.mem_filter, Bool.and_eq_true, decide_eq_true_eq, mayLead_iff, and_assoc, and_imp]
  grind

end

/-! ### The arbiter's choice (R183, R184) -/

section
variable {s : State} {quad : Nat} {x y z e : MxEntry} {l : List MxEntry}

/-- An entry is granted before another: its CLASS is higher, or it was posted earlier within the class. -/
def MxEntry.Ahead (x y : MxEntry) : Prop := y.cls < x.cls ∨ x.cls = y.cls ∧ x.order < y.order

theorem not_ahead_self (x : MxEntry) : ¬x.Ahead x := by
  unfold MxEntry.Ahead
  omega

theorem mem_rankEntries : x ∈ rankEntries l ↔ x ∈ l := by
  induction l using List.reverseRecOn with
  | nil => rfl
  | append_singleton l e ih =>
    rw [rankEntries, List.foldl_append]
    change x ∈ (rankEntries l).filter _ ++ [e] ++ (rankEntries l).filter _ ↔ _
    simp only [List.mem_append, List.mem_filter, List.mem_singleton, ih]
    grind

/-- No entry of the arbiter's order stands behind one that it is ahead of. -/
theorem rankEntries_sorted (l : List MxEntry) : (rankEntries l).Pairwise fun x y => ¬y.Ahead x := by
  induction l using List.reverseRecOn with
  | nil => exact List.Pairwise.nil
  | append_singleton l e ih =>
    rw [rankEntries, List.foldl_append]
    change List.Pairwise _ ((rankEntries l).filter _ ++ [e] ++ (rankEntries l).filter _)
    rw [List.pairwise_append, List.pairwise_append]
    simp only [List.mem_append, List.mem_filter, List.mem_singleton, Bool.or_eq_true, Bool.and_eq_true, decide_eq_true_eq, Bool.not_eq_true', Bool.or_eq_false_iff, Bool.and_eq_false_iff,
      decide_eq_false_iff_not, MxEntry.Ahead]
    refine ⟨⟨ih.filter _, List.pairwise_singleton _ _, ?_⟩, ih.filter _, ?_⟩
    · rintro a ⟨-, ha⟩ b rfl
      omega
    · rintro a (⟨-, ha⟩ | rfl) b ⟨-, hb⟩ <;> omega

/-- The first entry of the arbiter's order that meets a condition is the one that no other that meets it is ahead of. -/
theorem find?_rankEntries {p : MxEntry → Bool} (hinj : ∀ x ∈ l, ∀ y ∈ l, x.order = y.order → x = y) :
    (rankEntries l).find? p = some e ↔ e ∈ l ∧ p e = true ∧ ∀ x ∈ l, p x = true → ¬x.Ahead e := by
  have hbest (z : MxEntry) (hz : (rankEntries l).find? p = some z) : z ∈ l ∧ p z = true ∧ ∀ x ∈ l, p x = true → ¬x.Ahead z := by
    refine ⟨mem_rankEntries.mp (List.mem_of_find?_eq_some hz), List.find?_some hz, fun x hx hpx => ?_⟩
    obtain ⟨-, before, after, hsplit, hbefore⟩ := List.find?_eq_some_iff_append.mp hz
    have hsorted := rankEntries_sorted l
    rw [← mem_rankEntries, hsplit, List.mem_append, List.mem_cons] at hx
    rw [hsplit, List.pairwise_append, List.pairwise_cons] at hsorted
    obtain ⟨-, ⟨hafter, -⟩, -⟩ := hsorted
    obtain hx | rfl | hx := hx
    · have hpassed := hbefore x hx
      rw [hpx] at hpassed
      nomatch hpassed
    · exact not_ahead_self x
    · exact hafter x hx
  refine ⟨hbest e, fun ⟨he, hpe, hfirst⟩ => ?_⟩
  obtain ⟨z, hz⟩ := Option.isSome_iff_exists.mp (List.find?_isSome.mpr ⟨e, mem_rankEntries.mpr he, hpe⟩)
  obtain ⟨hzl, hpz, hzfirst⟩ := hbest z hz
  have hez := hzfirst e he hpe
  have hze := hfirst z hzl hpz
  unfold MxEntry.Ahead at hez hze
  rw [hz, hinj z hzl e he (by omega)]

theorem order_injective (ht : (s.eng.matrix.table.map fun x => x.order).Pairwise (· < ·)) (hx : x ∈ s.leaders quad) (hy : y ∈ s.leaders quad) (h : x.order = y.order) : x = y := by
  rw [mem_leaders ht] at hx hy
  exact List.inj_on_of_nodup_map (ht.imp Nat.ne_of_lt) hx.1 hy.1 h

/-- Of the mxbegs that are next of their teams it is the best, and there is room for its tile. -/
def State.FirstBeg (s : State) (quad : Nat) (x : MxEntry) : Prop :=
  Instr.isBeg x.instr = true ∧ s.tileRoom x = true ∧ ∀ y, s.Leads quad y → Instr.isBeg y.instr = true → ¬y.Ahead x

/-- The engine's array is free. -/
def State.ArrayIdle (s : State) (quad : Nat) : Prop := ∀ x ∈ s.eng.matrix.running, x.quad ≠ quad

/-- The arbiter does not pass over an entry that is its team's next: a word that opens no tile, or the best of the mxbegs with room. -/
def State.mayGrant (s : State) (quad : Nat) (e : MxEntry) : Bool :=
  !Instr.isBeg e.instr || (rankEntries (s.leaders quad)).find? (fun x => Instr.isBeg x.instr) = some e && s.tileRoom e

theorem arbiter_of_idle (h : s.ArrayIdle quad) : s.arbiter quad = (rankEntries (s.leaders quad)).find? (s.mayGrant quad) :=
  if_neg (by simpa [State.ArrayIdle] using h)

theorem idle_of_arbiter (h : s.arbiter quad = some e) : s.ArrayIdle quad := by
  intro x hx hq
  have hbusy : s.arbiter quad = none := if_pos (List.any_eq_true.mpr ⟨x, hx, decide_eq_true hq⟩)
  rw [hbusy] at h
  nomatch h

variable (ht : (s.eng.matrix.table.map fun x => x.order).Pairwise (· < ·))
include ht

theorem mayGrant_iff (hx : s.Leads quad x) : s.mayGrant quad x = true ↔ Instr.isBeg x.instr = false ∨ s.FirstBeg quad x := by
  unfold State.mayGrant State.FirstBeg
  rw [Bool.or_eq_true, Bool.and_eq_true, Bool.not_eq_true', decide_eq_true_eq, find?_rankEntries fun a ha b hb => order_injective ht ha hb]
  simp only [mem_leaders ht, hx, true_and]
  tauto

/-- What the arbiter grants is its team's next, and what is ahead of it is an mxbeg that the arbiter passes over. -/
theorem arbiter_grants (h : s.arbiter quad = some e) : s.ArrayIdle quad ∧ s.Leads quad e ∧ (Instr.isBeg e.instr = true → s.FirstBeg quad e) ∧
    ∀ x, s.Leads quad x → x.Ahead e → Instr.isBeg x.instr = true ∧ ¬s.FirstBeg quad x := by
  have hidle := idle_of_arbiter h
  rw [arbiter_of_idle hidle, find?_rankEntries fun a ha b hb => order_injective ht ha hb, mem_leaders ht] at h
  obtain ⟨hnext, hgrant, hfirst⟩ := h
  refine ⟨hidle, hnext, fun hbeg => ?_, fun x hx hahead => ?_⟩
  · obtain hno | hyes := (mayGrant_iff ht hnext).mp hgrant
    · rw [hbeg] at hno
      nomatch hno
    · exact hyes
  · have hpassed : ¬s.mayGrant quad x = true := fun hgr => hfirst x ((mem_leaders ht).mpr hx) hgr hahead
    rw [mayGrant_iff ht hx, not_or, Bool.not_eq_false] at hpassed
    exact hpassed

/-- A free engine with an entry that need not be passed over has one to grant. -/
theorem arbiter_isSome (hidle : s.ArrayIdle quad) (hx : s.Leads quad x) (h : Instr.isBeg x.instr = false ∨ s.FirstBeg quad x) : ∃ e, s.arbiter quad = some e := by
  rw [arbiter_of_idle hidle]
  exact Option.isSome_iff_exists.mp (List.find?_isSome.mpr ⟨x, mem_rankEntries.mpr ((mem_leaders ht).mpr hx), (mayGrant_iff ht hx).mpr h⟩)

end

/-! ### The steps (R153, R182 to R184, R365, R378) -/

section
variable {s t : State} {quad : Nat} {e : MxEntry} {gr : Grid} {tile : Tile}

theorem engineEvent_some {row : String} {o : Option State} (h : o = some t) : engineEvent row o = .next t.distribute := by
  rw [h]
  rfl

/-- The state in which an admitted mxbeg's tile is open. -/
def State.admitted (s : State) (gr : Grid) (e : MxEntry) : State :=
  ({ (s.dropEntry e).modMatrix fun m => { m with tiles := m.tiles ++ [s.openTile gr e] } with fresh := s.fresh + 256 * (s.openTile gr e).granules + 1 } : State).lowerTeam e.gang e.team 1

theorem exec_mxbegAdmission (ha : s.arbiter quad = some e) (hg : s.gridOfGang e.gang = some gr) (hb : Instr.isBeg e.instr = true) :
    exec (.mxbegAdmission quad) s = .next (s.admitted gr e).distribute := by
  refine engineEvent_some ?_
  rw [ha, Option.bind_some, hb, hg]
  rfl

theorem exec_passGrant (ha : s.arbiter quad = some e) (hb : Instr.isBeg e.instr = false) :
    exec (.passGrant quad) s = .next ((s.dropEntry e).modMatrix fun m => { m with running := m.running ++ [e] }).distribute := by
  refine engineEvent_some ?_
  rw [ha, Option.bind_some, hb]
  rfl

theorem exec_passComplete (hg : s.granted quad = some e) (hr : s.runEntry e = some t) : exec (.passComplete quad) s = .next (t.arrayFree e).distribute := by
  refine engineEvent_some ?_
  rw [hg, Option.bind_some, hr]
  rfl

theorem tile?_filter_of_id (ht : s.tile? e.gang e.team = some tile) (hid : tile.id = e.tile) : ((s.tile? e.gang e.team).filter fun x => x.id = e.tile) = some tile := by
  rw [ht]
  exact Option.filter_some_pos (decide_eq_true hid)

theorem tile?_filter_of_gone (ht : s.tile? e.gang e.team = some tile) (hid : tile.id ≠ e.tile) : ((s.tile? e.gang e.team).filter fun x => x.id = e.tile) = none := by
  rw [ht]
  exact Option.filter_some_neg (by simpa using hid)

theorem exec_drainComplete (hr : s.granted quad = some e) (hg : s.gridOfGang e.gang = some gr) (hf : s.fenceHeld e.after = false) (ht : s.tile? e.gang e.team = some tile) (hid : tile.id = e.tile)
    (hh : s.engineHeld (4 * quad) gr.asid e.privileged (tile.scaleLines ++ e.drainLines) = false)
    (hi : (∃ d n, e.instr = .mxdrnI32 d n) ∨ (∃ d n, e.instr = .mxdrnI64 d n) ∨ ∃ d n, e.instr = .mxdrnF32 d n) :
    exec (.drainComplete quad) s = .next ((s.runDrain gr e tile).arrayFree e).distribute := by
  refine engineEvent_some ?_
  rw [hr, Option.bind_some]
  obtain ⟨d, n, hi⟩ | ⟨d, n, hi⟩ | ⟨d, n, hi⟩ := hi <;> simp [hi, hf, hg, tile?_filter_of_id ht hid, hh]

theorem exec_reservationPost {w : Wave} {i : Instr} (hw : s.wave? w.id = some w) (ha : w.alive = true) (hl : w.inLatch = true) (hn : w.teamAsked = none) (hi : w.waiting = some i)
    (hm : allHeld (s.members w.gang w.team) i = true) (hr : s.tableRoom (quadOf w.core) = true) (hp : s.tryLatch w.id ≠ s) :
    exec (.reservationPost w.id) s = .next (s.tryLatch w.id) := by
  change execReservationPost w.id s = _
  unfold execReservationPost
  simp [hw, ha, hl, hn, hi, hm, hr, hp]

end

/-! ### A granted word at its team's tile (R356, R373, R375) -/

section
variable {s : State} {e : MxEntry} {gr : Grid} {t : Tile}

theorem runEntry_of_gone (hg : s.gridOfGang e.gang = some gr) (hf : s.fenceHeld e.after = false) (ht : s.tile? e.gang e.team = some t) (hid : t.id ≠ e.tile) :
    s.runEntry e = some (s.lowerTeam e.gang e.team 1) := by
  unfold State.runEntry
  simp [hg, hf, tile?_filter_of_gone ht hid]

theorem runEntry_of_mxend (hg : s.gridOfGang e.gang = some gr) (hf : s.fenceHeld e.after = false) (ht : s.tile? e.gang e.team = some t) (hid : t.id = e.tile) (hi : e.instr = .mxend) :
    s.runEntry e = some ((s.modMatrix fun m => { m with tiles := m.tiles.filter fun x => x.id ≠ t.id }).lowerTeam e.gang e.team (if t.frozen.isSome = true then 2 else 1)) := by
  have hraise : 1 + t.frozen.isSome.toNat = if t.frozen.isSome = true then 2 else 1 := by cases t.frozen <;> rfl
  unfold State.runEntry
  rw [← hraise]
  simp [hg, hf, tile?_filter_of_id ht hid, hi, Instr.passes]

theorem runEntry_of_mxfold {d : BitVec 5} (hg : s.gridOfGang e.gang = some gr) (hf : s.fenceHeld e.after = false) (ht : s.tile? e.gang e.team = some t) (hid : t.id = e.tile) (hi : e.instr = .mxfold d) :
    s.runEntry e = some (s.runFold e t) := by
  unfold State.runEntry
  simp [hg, hf, tile?_filter_of_id ht hid, hi, Instr.passes]

/-- A fold of a tile without entries adds no count. -/
theorem runFold_of_empty (h : t.entries = []) : s.runFold e t = (s.putTile { t with entries := [] }).lowerTeam e.gang e.team 1 := by
  unfold State.runFold
  rw [h]
  rfl

end

/-- Settles O46: the arbiter by the order of its candidates, each step by the state that it leaves, and a granted word by what stands at its team's tile. -/
theorem matrixEngineRuns : Obligations.MatrixEngineRuns := by
  unfold Obligations.MatrixEngineRuns
  refine ⟨⟨fun s quad e gr ha hg => ⟨exec_mxbegAdmission ha hg, exec_passGrant ha⟩, fun s t quad e => exec_passComplete, fun s quad e gr t hr hg hf ht hid hh => exec_drainComplete hr hg hf ht hid hh,
    fun s w i => exec_reservationPost, fun s quad ht => ⟨fun e => arbiter_grants ht, fun x => arbiter_isSome ht⟩⟩,
    fun s e gr t hg hf ht => ⟨runEntry_of_gone hg hf ht, runEntry_of_mxend hg hf ht, fun d hid hi hempty => ?_⟩⟩
  rw [runEntry_of_mxfold hg hf ht hid hi, runFold_of_empty hempty]

end Sys2Proof.Machine
end

section
/-! PROOFS. The claim of a command, and the commands of a submission queue (O50). -/

namespace Sys2Proof.Machine

/-! ### The claim (R170, R482) -/

section
variable {s : State}

/-- An address and the one that follows it by less than a line are served alike (R17). -/
theorem localPa_add {pa k : Nat} (hpa : pa % 64 = 0) (hk : k < 64) : s.localPa (pa + k) = s.localPa pa + k := by
  have hwindow : bitsOf (pa + k) 50 2 = bitsOf pa 50 2 := by unfold bitsOf; omega
  have hpeer : bitsOf (pa + k) 44 6 = bitsOf pa 44 6 := by unfold bitsOf; omega
  have hofs : bitsOf (pa + k) 0 44 = bitsOf pa 0 44 + k := by unfold bitsOf; omega
  unfold State.localPa
  rw [hwindow, hpeer, hofs]
  split <;> rfl

/-- A number among bytes read from the start of a line. -/
theorem natIn_bytesAt {pa n k j : Nat} (hpa : pa % 64 = 0) (hk : k < 64) (h : k + j ≤ n) : natIn (s.bytesAt pa n) k j = s.natAt (pa + k) j := by
  unfold natIn State.natAt State.bytesAt SMap.getRange
  rw [drop_take_range _ h, localPa_add hpa hk]
  simp only [Nat.add_assoc]

theorem kilnRead_of_sound {asid pa n : Nat} (h : s.poisoned pa n = none) : s.kilnRead asid pa n = (s.bytesAt pa n, s) := by
  unfold State.kilnRead
  rw [h]

/-- The state in which a queue's next entry is claimed. -/
def State.claimed (s : State) (q : SubQueue) : State :=
  (({ s with nextId := s.nextId + 1 } : State).putNat (q.header + 4) 4 (s.natAt (q.header + 4) 4 + 1)).modHost fun h =>
    { h with commands := h.commands ++ [⟨s.nextId, q.id, q.asid, BitVec.ofNat 512 (s.natAt (q.header + 64 + 64 * (s.natAt (q.header + 4) 4 % 2 ^ q.log2)) 64)⟩] }

theorem exec_commandClaim {q : SubQueue} (hq : s.sub? q.id = some q) (hopen : s.natAt q.header 4 ≠ s.natAt (q.header + 4) 4) (halign : q.header % 64 = 0)
    (hheader : s.poisoned q.header 8 = none) (hentry : s.poisoned (q.header + 64 + 64 * (s.natAt (q.header + 4) 4 % 2 ^ q.log2)) 64 = none) :
    exec (.commandClaim q.id) s = .next (s.claimed q) := by
  have htail : natIn (s.bytesAt q.header 8) 0 4 = s.natAt q.header 4 := natIn_bytesAt halign (by omega) (by omega)
  have hclaim : natIn (s.bytesAt q.header 8) 4 4 = s.natAt (q.header + 4) 4 := natIn_bytesAt halign (by omega) (by omega)
  apply event_some
  simp only [hq, Option.bind_some, kilnRead_of_sound hheader, htail, hclaim, if_neg hopen, kilnRead_of_sound hentry]
  rfl

end

/-! ### What an entry says (R482) -/

section
variable {c : Command}

theorem Command.op_eq : c.op = c.entry.toNat % 2 ^ 8 := bitsOf_zero _ _

theorem Command.bad_iff : c.bad = true ↔
    c.op = 0 ∨ 7 < c.op ∨ c.entry.toNat / 2 ^ 8 % 2 ^ 8 ≠ 0 ∨ c.entry.toNat / 2 ^ 32 % 2 ^ 32 ≠ 0 ∨ c.entry.toNat / 2 ^ 128 % 2 ^ 384 ≠ 0 := by
  simp only [Command.bad, Bool.or_eq_true, decide_eq_true_eq, or_assoc]
  rfl

theorem accepts_of_op {n : Nat} (hb : ¬c.bad = true) (ho : c.op = n) : (!c.bad && c.op = n) = true := by
  rw [Bool.not_eq_true] at hb
  rw [hb, ho]
  simp

end

/-! ### The commands (R38, R67, R168 to R173, R482 to R484) -/

/-- The state once a claimed command has been taken off the list. -/
def State.taken (s : State) (c : Command) : State := s.modHost fun h => { h with commands := h.commands.filter fun x => x.id ≠ c.id }

/-- A claimed command that is the oldest of its queue. -/
structure Oldest (s : State) (c : Command) : Prop where
  found : s.host.commands.find? (fun x => x.id = c.id) = some c
  first : s.host.commands.find? (fun x => x.queue = c.queue) = some c

section
variable {s t : State} {c : Command}

theorem Oldest.runs {row : String} {ok : Command → Bool} {run : Command → State → Option State} (h : Oldest s c) (hk : ok c = true) (hr : run c (s.taken c) = some t) :
    runCommand row c.id ok run s = .next t :=
  runCommand_next h.found h.first hk hr

theorem exec_unlistedOp (h : Oldest s c) (hb : c.bad = true) : exec (.unlistedOp c.id) s = .next ((s.taken c).answer c.queue c.tag c.addr 1) := by
  change execUnlistedOp c.id s = _
  unfold execUnlistedOp
  exact h.runs hb rfl

/-! #### LAUNCH -/

/-- What the reads of a launch leave. -/
def State.recordRead (s : State) (c : Command) : State := s.noteReads c.asid (s.recordLooks c.asid c.addr c.queue c.tag)

/-- A launch run, after its reads. -/
def State.runLaunch (s : State) (c : Command) : State :=
  match s.readRecord c.asid c.addr c.queue c.tag with
  | none => s.unreadLaunch c.queue c.tag
  | some g => ({ s with nextId := s.nextId + 1 } : State).launch { g with id := s.nextId }

theorem exec_launch (h : Oldest s c) (hb : ¬c.bad = true) (ho : c.op = 1) (hrun : ((s.taken c).recordRead c).runLaunch c = t) :
    exec (.launch c.id) s = .next { t with fresh := t.fresh + (((s.taken c).recordRead c).fresh - (s.taken c).fresh) } := by
  change execLaunch c.id s = _
  unfold execLaunch
  refine h.runs (accepts_of_op hb ho) ?_
  rw [← hrun]
  rfl

theorem runLaunch_unread (h : s.readRecord c.asid c.addr c.queue c.tag = none) : s.runLaunch c = s.unreadLaunch c.queue c.tag := by
  unfold State.runLaunch
  rw [h]

theorem launch_begun {g : Grid} (h : s.launchStatus g none = 0) : s.launch g = s.begin g := by
  unfold State.launch
  simp only [h]

theorem launch_failed {g : Grid} (h : s.launchStatus g none ≠ 0) : s.launch g = s.complete (s.launchCq g) (completionEntry (s.launchStatus g none) 3 g.tag g.queue g.launchId) := by
  unfold State.launch
  split
  · contradiction
  · rfl

section
variable {g : Grid} (h : s.readRecord c.asid c.addr c.queue c.tag = some g)
include h

/-- A grid that is read from a record has the command's queue and TAG. -/
theorem readRecord_names : g.queue = c.queue ∧ g.tag = c.tag := by
  unfold State.readRecord at h
  simp only [Option.bind_eq_some_iff, Option.map_eq_some_iff] at h
  obtain ⟨-, -, -, -, rfl⟩ := h
  exact ⟨rfl, rfl⟩

theorem runLaunch_read : s.runLaunch c = ({ s with nextId := s.nextId + 1 } : State).launch { g with id := s.nextId } := by
  unfold State.runLaunch
  rw [h]

theorem runLaunch_failed (hfail : ({ s with nextId := s.nextId + 1 } : State).launchStatus { g with id := s.nextId } none ≠ 0) : let u : State := { s with nextId := s.nextId + 1 }
    let g1 : Grid := { g with id := s.nextId }
    s.runLaunch c = u.complete (u.launchCq g1) (completionEntry (u.launchStatus g1 none) 3 c.tag c.queue g1.launchId) := by
  obtain ⟨hqueue, htag⟩ := readRecord_names h
  rw [runLaunch_read h, launch_failed hfail, htag, hqueue]

end

/-! #### SHOOTDOWN and CLEAN -/

theorem exec_shootdown (h : Oldest s c) (hb : ¬c.bad = true) (ho : c.op = 3) (hp : (s.taken c).postCommand false c = some t) : exec (.shootdown c.id) s = .next t := by
  change execShootdown c.id s = _
  unfold execShootdown
  exact h.runs (accepts_of_op hb ho) hp

theorem exec_clean (h : Oldest s c) (hb : ¬c.bad = true) (ho : c.op = 4) (hp : (s.taken c).postCommand true c = some t) : exec (.clean c.id) s = .next t := by
  change execClean c.id s = _
  unfold execClean
  exact h.runs (accepts_of_op hb ho) hp

theorem postCommand_unread {clean : Bool} {f : Flt} (h : s.readDesc c.asid c.addr true = .error f) : s.postCommand clean c = some (s.answer c.queue c.tag c.addr 3) := by
  unfold State.postCommand
  rw [h]

/-- The work that a command's descriptor asks for. -/
def Command.sweep (c : Command) (id d : Nat) : Sweep := sweepOf id (.command c.queue c.tag (BitVec.ofNat 64 c.addr)) c.asid c.addr d

theorem Command.sweep_eq (c : Command) (id d : Nat) : c.sweep id d =
    ⟨id, .command c.queue c.tag (BitVec.ofNat 64 c.addr), c.asid, c.addr, d / 2 ^ 112 % 2 ^ 8, d % 2 ^ 64, d / 2 ^ 64 % 2 ^ 32, d / 2 ^ 96 % 2 ^ 12, d.testBit 120⟩ := by
  rw [← bitsOf_zero d 64]
  rfl

/-- The kinds that ignore VA and COUNT: of a shootdown 1 and 2, of a clean 2 alone (R38, R67). -/
theorem bare_of_shootdown {n : Nat} (h : n = 3) : (fun k => decide (k = 2 ∨ k = 1 ∧ n = 3)) = bareShoot := by
  funext k
  simp [bareShoot, h, Bool.or_comm]

theorem bare_of_clean {n : Nat} (h : n = 4) : (fun k => decide (k = 2 ∨ k = 1 ∧ n = 3)) = bareClean := by
  funext k
  simp [bareClean, h]

/-- A post of the work put among those in flight. -/
def State.withSweep (s : State) (clean : Bool) (w : Sweep) : State :=
  ({ s with nextId := s.nextId + 1 } : State).modEng fun e => if clean then { e with cleans := e.cleans ++ [w] } else { e with shootdowns := e.shootdowns ++ [w] }

theorem postCommand_posted {clean : Bool} {d : Nat} {u : State} (h : s.readDesc c.asid c.addr true = .ok (d, u))
    (hroom : (if clean then s.eng.cleans else s.eng.shootdowns).length < 16) (hok : descRejected d (if clean then bareClean else bareShoot) = false) :
    s.postCommand clean c = some (u.withSweep clean (c.sweep u.nextId d)) := by
  unfold State.postCommand
  rw [h]
  simp only [State.postSweep, hok, if_neg (Nat.not_le.mpr hroom)]
  rfl

/-! #### CANCEL -/

/-- The launch that a CANCEL ends: the earliest unfinished one of its queue that has the TAG. -/
def State.toCancel (s : State) (c : Command) : Option Grid := s.grids.find? fun g => g.queue = c.queue && g.tag = bitsOf c.addr 0 16 && g.consumerOf.isNone

theorem exec_cancel_unfound (h : Oldest s c) (hb : ¬c.bad = true) (ho : c.op = 5) (hg : (s.taken c).toCancel c = none) :
    exec (.cancel c.id) s = .next ((s.taken c).answer c.queue c.tag c.addr 3) := by
  change execCancel c.id s = _
  unfold execCancel
  refine h.runs (accepts_of_op hb ho) ?_
  unfold State.toCancel at hg
  simp only [hg]

theorem exec_cancel_found {g : Grid} (h : Oldest s c) (hb : ¬c.bad = true) (ho : c.op = 5) (hg : (s.taken c).toCancel c = some g) : exec (.cancel c.id) s =
    .next ((if g.phase = .held then ({ s.taken c with grids := (s.taken c).grids.filter fun x => x.id ≠ g.id } : State).launchAnswer g 0 2
      else ((s.taken c).endLaunch g 2).distribute).answer c.queue c.tag c.addr 0) := by
  change execCancel c.id s = _
  unfold execCancel
  refine h.runs (accepts_of_op hb ho) ?_
  unfold State.toCancel at hg
  simp only [hg]

end

/-- Settles O50: the claim by what the header and the slot hold, and each command by the equation of its row. -/
theorem commandsRun : Obligations.CommandsRun := by
  unfold Obligations.CommandsRun
  refine ⟨fun s q => exec_commandClaim, ?_⟩
  intro s c hfound hfirst t e op tag addr bad
  have hold : Oldest s c := ⟨hfound, hfirst⟩
  have hop : c.op = op := c.op_eq
  have hbad : c.bad = true ↔ bad := by rw [c.bad_iff, hop]
  rw [← hbad]
  refine ⟨exec_unlistedOp hold, fun hb ho => ?_, fun hb _ => ⟨fun f hf => ?_, fun d u hd hok => ?_⟩, fun hb ho => ⟨fun hg => ?_, fun g hg => ?_⟩⟩
  · exact ⟨fun hread => exec_launch hold hb (hop.trans ho) (runLaunch_unread hread), fun g hread =>
      ⟨fun hok => exec_launch hold hb (hop.trans ho) ((runLaunch_read hread).trans (launch_begun hok)), fun hfail => exec_launch hold hb (hop.trans ho) (runLaunch_failed hread hfail)⟩⟩
  · exact ⟨fun ho => exec_shootdown hold hb (hop.trans ho) (postCommand_unread hf), fun ho => exec_clean hold hb (hop.trans ho) (postCommand_unread hf)⟩
  · refine ⟨fun ho hroom => ?_, fun ho hroom => ?_⟩
    · rw [bare_of_shootdown ho] at hok
      have hpost := exec_shootdown hold hb (hop.trans ho) (postCommand_posted (clean := false) hd hroom hok)
      rwa [c.sweep_eq] at hpost
    · rw [bare_of_clean ho] at hok
      have hpost := exec_clean hold hb (hop.trans ho) (postCommand_posted (clean := true) hd hroom hok)
      rwa [c.sweep_eq] at hpost
  · rw [← bitsOf_zero] at hg
    exact exec_cancel_unfound hold hb (hop.trans ho) hg
  · rw [← bitsOf_zero] at hg
    have hcancel := exec_cancel_found hold hb (hop.trans ho) hg
    exact ⟨fun hheld => by rwa [if_pos hheld] at hcancel, fun hrun => by rwa [if_neg hrun] at hcancel⟩

end Sys2Proof.Machine
end

section
/-! PROOFS. What the kiln's reads leave of the poisoned lines (O51). -/

namespace Sys2Proof.Machine

/-- Context 1 with one page at 0x1000, at physical address 0x60000, whose first line is poisoned, and an event ring at 0x80000, the line of whose first slot is poisoned too. -/
def poisonedRing : State :=
  { State.reset with
    mem := (placedTables State.reset.ctxBase).foldl (fun (m : Memory) e => m.setRange e.1 (bytesOfNat 8 e.2)) []
    poison := [0x60000 / 64, 0x80040 / 64]
    host := { HostQueues.none with ring := 0x80000, ringLog2 := 1 } }

/-- The kiln's read of a word at 0x1000 meets the poison there, and its UNCORR record takes the ring's first slot: that line is poisoned no longer. -/
theorem poisonedRing_read : (poisonedRing.noteReads 1 [plainLook 0x1000 8]).poison = [0x60000 / 64] := by
  decide +kernel

/-- Refutes O51: of what the kiln's reads leave the statement lets only memory, the caches, the free values, the host's queues and the kiln change, but the record of a poisoned line that they
meet (R487) is a write of a whole line of the event ring, which clears the poison of that line (R495). -/
theorem not_launchesWaitAndComplete : ¬ Obligations.LaunchesWaitAndComplete := by
  unfold Obligations.LaunchesWaitAndComplete
  intro h
  obtain ⟨-, hreads, -⟩ := h
  obtain ⟨hframe, -⟩ := hreads poisonedRing 1 [plainLook 0x1000 8]
  have hpoison : (poisonedRing.noteReads 1 [plainLook 0x1000 8]).poison = poisonedRing.poison := by rw [hframe]
  rw [poisonedRing_read] at hpoison
  nomatch hpoison

end Sys2Proof.Machine
end

section
/-! PROOFS. A turn in which a wave is named to issue (O1). -/

namespace Sys2Proof.Machine

section
variable {s : State} {w : Wave} {ts : List Turn}

theorem step_of_issue {id : Nat} (h : s.turns = .issue id :: ts) : step s = afterTurn s (issueTurn id { s with turns := ts }) := by
  unfold step
  rw [h]
  rfl

theorem issueTurn_of_choice (hw : s.wave? w.id = some w) (hc : (s.slotFor w).isChoice w = true) :
    issueTurn w.id s = issueWord w.id { s.slotFor w with issued := (s.slotFor w).issued.set w.part ((s.slotFor w).cycle + 1) } := by
  obtain ⟨hno, -⟩ | ⟨-, h⟩ := issueTurn_cases hw
  · rw [hc] at hno
    nomatch hno
  · exact h

theorem issueTurn_of_passed (hw : s.wave? w.id = some w) (hc : (s.slotFor w).isChoice w = false) : issueTurn w.id s = .next s := by
  obtain ⟨-, h⟩ | ⟨hyes, -⟩ := issueTurn_cases hw
  · exact h
  · rw [hc] at hyes
    nomatch hyes

theorem issueWord_of_instr {id : Nat} {i : Instr} {t : State} (h : s.fetchNext id = .instr i t) : issueWord id s = exec i t := by
  unfold issueWord
  rw [h]

end

/-- Settles O1: the turn is the named wave's issue, in the cycle in which its partition can issue, and what follows a turn follows it. -/
theorem stepRunsFetchedInstruction : Obligations.StepRunsFetchedInstruction := by
  unfold Obligations.StepRunsFetchedInstruction
  intro s w ts hts hw s1 ending
  have hslot : ({ s with turns := ts } : State).slotFor w = s1 := rfl
  rw [step_of_issue hts]
  refine ⟨fun i t hc hf => ?_, fun hc => ?_⟩
  · rw [issueTurn_of_choice hw hc, hslot, issueWord_of_instr hf]
    cases exec i t <;> rfl
  · rw [issueTurn_of_passed hw hc]
    rfl

end Sys2Proof.Machine
end

section
/-! PROOFS. Entry to a trap handler, and what the trap record holds (O36). -/

namespace Sys2Proof.Machine

/-! ### Fields that stand side by side -/

/-- The number that fields of given widths and values make, the first at bit `off` and each next above the last. -/
def stacked : Nat → List (Nat × Nat) → Nat
  | _, [] => 0
  | off, (n, x) :: fs => x * 2 ^ off + stacked (off + n) fs

/-- Every field's value fits its width. -/
def Fit (fs : List (Nat × Nat)) : Prop := ∀ f ∈ fs, f.2 < 2 ^ f.1

section
variable {fs : List (Nat × Nat)}

/-- Fields that start `d` bits higher. -/
theorem stacked_add (off d : Nat) (fs : List (Nat × Nat)) : stacked (off + d) fs = stacked off fs * 2 ^ d := by
  induction fs generalizing off with
  | nil => simp [stacked]
  | cons f fs ih =>
    obtain ⟨n, x⟩ := f
    rw [stacked, stacked, Nat.add_right_comm, ih, Nat.add_mul, Nat.mul_assoc, Nat.pow_add]

theorem stacked_cons (n x : Nat) (fs : List (Nat × Nat)) : stacked 0 ((n, x) :: fs) = x + 2 ^ n * stacked 0 fs := by
  rw [stacked, stacked_add, Nat.pow_zero, Nat.mul_one, Nat.mul_comm]

/-- The fields take no more bits than their widths. -/
theorem stacked_lt (h : Fit fs) : stacked 0 fs < 2 ^ (fs.map Prod.fst).sum := by
  induction fs with
  | nil => simp [stacked]
  | cons f fs ih =>
    obtain ⟨n, x⟩ := f
    obtain ⟨hx, hfs⟩ := List.forall_mem_cons.mp h
    rw [stacked_cons, List.map_cons, List.sum_cons, Nat.pow_add]
    calc x + 2 ^ n * stacked 0 fs < 2 ^ n * (stacked 0 fs + 1) := by
          rw [Nat.mul_add, Nat.mul_one, Nat.add_comm]
          exact Nat.add_lt_add_left hx _
      _ ≤ 2 ^ n * 2 ^ (fs.map Prod.fst).sum := Nat.mul_le_mul_left _ (ih hfs)

/-- Each field is read back at the sum of the widths below it. -/
theorem stacked_field {k n x off : Nat} (h : Fit fs) (hk : fs[k]? = some (n, x)) (hoff : ((fs.take k).map Prod.fst).sum = off) : stacked 0 fs / 2 ^ off % 2 ^ n = x := by
  induction fs generalizing k off with
  | nil => nomatch hk
  | cons f fs ih =>
    obtain ⟨m, y⟩ := f
    obtain ⟨hy, hfs⟩ := List.forall_mem_cons.mp h
    rw [stacked_cons]
    cases k with
    | zero =>
      obtain ⟨rfl, rfl⟩ := Prod.mk.inj (Option.some.inj hk)
      subst hoff
      rw [List.take_zero, List.map_nil, List.sum_nil, Nat.pow_zero, Nat.div_one, Nat.add_mul_mod_self_left, Nat.mod_eq_of_lt hy]
    | succ k =>
      subst hoff
      rw [List.take_succ_cons, List.map_cons, List.sum_cons, Nat.pow_add, ← Nat.div_div_eq_div_mul, Nat.add_mul_div_left _ _ (Nat.two_pow_pos m), Nat.div_eq_of_lt hy, Nat.zero_add]
      exact ih hfs hk rfl

/-- A field of one bit is a bit of the number. -/
theorem stacked_testBit {k off : Nat} {b : Bool} (h : Fit fs) (hk : fs[k]? = some (1, b.toNat)) (hoff : ((fs.take k).map Prod.fst).sum = off) : (stacked 0 fs).testBit off = b := by
  have hbit : stacked 0 fs / 2 ^ off % 2 = b.toNat := stacked_field h hk hoff
  rw [Nat.testBit_eq_decide_div_mod_eq, hbit]
  cases b <;> rfl

end

/-! ### The header of the trap record (R192) -/

/-- The fields of the header, lowest first, each with its width. -/
def TrapInfo.fields (t : TrapInfo) : List (Nat × Nat) :=
  [(8, t.code), (8, t.cause), (1, t.logged.toNat), (1, t.lod.toNat), (6, laneCount (BitVec.ofNat 32 t.logmask)), (8, 0), (32, t.word.toNat), (64, t.pc.toNat),
    (32, t.active.toNat), (32, t.fault.toNat), (32, t.destmask), (32, t.logmask), (64, t.faddr), (32, 0), (96, t.aux)]

/-- The widths of the header's fields. -/
def headerWidths : List Nat := [8, 8, 1, 1, 6, 8, 32, 64, 32, 32, 32, 32, 64, 32, 96]

theorem fields_widths (t : TrapInfo) : t.fields.map Prod.fst = headerWidths := rfl

theorem header_eq (t : TrapInfo) : t.header = bytesOfNat 64 (stacked 0 t.fields) := by
  simp only [TrapInfo.header, TrapInfo.fields, stacked, Nat.reduceAdd, Nat.zero_mul, Nat.add_zero, Nat.zero_add, Nat.pow_zero, Nat.mul_one, Nat.add_assoc]

theorem laneCount_lt (m : Lanes) : laneCount m < 2 ^ 6 :=
  Nat.lt_of_le_of_lt (List.length_filter_le _ _) (by decide)

theorem header_fields_fit {t : TrapInfo} (hcode : t.code < 2 ^ 8) (hcause : t.cause < 2 ^ 8) (hdest : t.destmask < 2 ^ 32) (hlog : t.logmask < 2 ^ 32) (hfaddr : t.faddr < 2 ^ 64)
    (haux : t.aux < 2 ^ 96) : Fit t.fields := by
  simp only [Fit, TrapInfo.fields, List.forall_mem_cons, List.not_mem_nil, false_implies, implies_true, and_true]
  exact ⟨hcode, hcause, t.logged.toNat_lt, t.lod.toNat_lt, laneCount_lt _, Nat.two_pow_pos 8, t.word.isLt, t.pc.isLt, t.active.isLt, t.fault.isLt, hdest, hlog, hfaddr, Nat.two_pow_pos 32, haux⟩

theorem stacked_fields_lt {t : TrapInfo} (h : Fit t.fields) : stacked 0 t.fields < 2 ^ headerWidths.sum := by
  rw [← fields_widths t]
  exact stacked_lt h

/-- A number of no more bits than `n` bytes hold is read back from them. -/
theorem natOfBytes_bytesOfNat_of_lt {n k x : Nat} (hx : x < 2 ^ k) (hk : k ≤ 8 * n) : natOfBytes (bytesOfNat n x) = x := by
  rw [natOfBytes_bytesOfNat]
  exact Nat.mod_eq_of_lt (Nat.lt_of_lt_of_le hx (Nat.pow_le_pow_right Nat.zero_lt_two hk))

theorem natOfBytes_header {t : TrapInfo} (h : Fit t.fields) : natOfBytes t.header = stacked 0 t.fields := by
  rw [header_eq]
  exact natOfBytes_bytesOfNat_of_lt (stacked_fields_lt h) (by decide)

/-- Nothing stands in the header above its fields. -/
theorem header_above {t : TrapInfo} (h : Fit t.fields) {off : Nat} (hoff : headerWidths.sum = off) : natOfBytes t.header / 2 ^ off = 0 := by
  rw [natOfBytes_header h, ← hoff]
  exact Nat.div_eq_of_lt (stacked_fields_lt h)

theorem header_field {t : TrapInfo} (h : Fit t.fields) (k : Nat) {n x off : Nat} (hk : t.fields[k]? = some (n, x)) (hoff : (headerWidths.take k).sum = off) :
    natOfBytes t.header / 2 ^ off % 2 ^ n = x := by
  rw [natOfBytes_header h]
  exact stacked_field h hk (by rw [List.map_take, fields_widths, hoff])

theorem header_testBit {t : TrapInfo} (h : Fit t.fields) (k : Nat) {b : Bool} {off : Nat} (hk : t.fields[k]? = some (1, b.toNat)) (hoff : (headerWidths.take k).sum = off) :
    (natOfBytes t.header).testBit off = b := by
  rw [natOfBytes_header h]
  exact stacked_testBit h hk (by rw [List.map_take, fields_widths, hoff])

/-! ### The parts of the trap record (R192) -/

section
variable (w : Wave)

/-- The predicates p1 to p7 of a lane, one bit each. -/
def Wave.predFields (lane : Nat) : List (Nat × Nat) := (List.range 7).map fun k => (1, (w.getP lane (k + 1)).toNat)

theorem predFields_fit (lane : Nat) : Fit (w.predFields lane) := by
  intro f hf
  obtain ⟨k, -, rfl⟩ := List.mem_map.mp hf
  exact Bool.toNat_lt _

theorem predByte_eq (lane : Nat) : w.predByte lane = BitVec.ofNat 8 (stacked 0 (w.predFields lane)) := by
  simp [Wave.predByte, Wave.predFields, List.range_succ, stacked, Nat.add_assoc]

theorem predByte_getLsbD {lane k : Nat} (hk : k < 7) : (w.predByte lane).getLsbD k = w.getP lane (k + 1) := by
  have hget : (w.predFields lane)[k]? = some (1, (w.getP lane (k + 1)).toNat) := by simp [Wave.predFields, hk]
  have hoff : (((w.predFields lane).take k).map Prod.fst).sum = k := by
    simp [Wave.predFields, ← List.map_take, Function.comp_def, Nat.min_eq_left hk.le]
  rw [predByte_eq, BitVec.getLsbD_ofNat, stacked_testBit (predFields_fit w lane) hget hoff, decide_eq_true (Nat.lt_succ_of_lt hk), Bool.true_and]

theorem predByte_getLsbD_seven (lane : Nat) : (w.predByte lane).getLsbD 7 = false := by
  have hlt : stacked 0 (w.predFields lane) < 2 ^ 7 := stacked_lt (predFields_fit w lane)
  rw [predByte_eq, BitVec.getLsbD_ofNat, Nat.testBit_lt_two_pow hlt, Bool.and_false]

/-- The byte of a lane's predicates is the one byte with p1 to p7 below a zero. -/
theorem eq_predByte_iff (lane : Nat) (b : Byte) : b = w.predByte lane ↔ (∀ k, k < 7 → b.getLsbD k = w.getP lane (k + 1)) ∧ b.getLsbD 7 = false := by
  constructor
  · rintro rfl
    exact ⟨fun k hk => predByte_getLsbD w hk, predByte_getLsbD_seven w lane⟩
  · rintro ⟨hlow, hhigh⟩
    refine BitVec.eq_of_getLsbD_eq fun k hk => ?_
    obtain hk | rfl := Nat.lt_or_eq_of_le (Nat.le_of_lt_succ hk)
    · rw [hlow k hk, predByte_getLsbD w hk]
    · rw [hhigh, predByte_getLsbD_seven]

theorem live_getLsbD {l : Nat} (hl : l < 32) : w.live.getLsbD l = !w.ended.getLsbD l := by
  rw [Wave.live, BitVec.getLsbD_not, decide_eq_true hl, Bool.true_and]

theorem mem_liveList (l : Nat) : l ∈ laneList w.live ↔ l < 32 ∧ w.ended.getLsbD l = false := by
  rw [mem_laneList]
  exact and_congr_right fun hl => by rw [live_getLsbD w hl, Bool.not_eq_true']

/-- A part that stands once for each live thread. -/
theorem mem_liveParts (f : Nat → Nat × List Byte) (p : Nat × List Byte) : p ∈ (laneList w.live).map f ↔ ∃ l, (l < 32 ∧ w.ended.getLsbD l = false) ∧ p = f l := by
  simp only [List.mem_map, mem_liveList, eq_comm]

theorem mem_recordParts (t : TrapInfo) (p : Nat × List Byte) : p ∈ recordParts w t ↔ p = (0, t.header) ∨
    (∃ l, (l < 32 ∧ w.ended.getLsbD l = false) ∧ (p = (64 + 8 * l, bytesOfNat 8 (w.pcOf l).toNat) ∨ p = (320 + 8 * l, bytesOfNat 8 (w.meetOf l).toNat) ∨ p = (576 + l, [w.predByte l]))) ∨
    p = (608, (List.range 4).flatMap fun j => bytesOfNat 4 (w.getS (92 + j)).toNat) := by
  simp only [recordParts, List.mem_append, List.mem_singleton, mem_liveParts, and_or_left, exists_or, or_assoc]

theorem predPart_iff (l : Nat) (p : Nat × List Byte) : p = (576 + l, [w.predByte l]) ↔
    ∃ b : Byte, p = (576 + l, [b]) ∧ (∀ k, k < 7 → b.getLsbD k = w.getP l (k + 1)) ∧ b.getLsbD 7 = false := by
  simp only [← eq_predByte_iff, exists_eq_right]

end

/-! ### The handler's first state (R191, R348) -/

/-- The wave `y` is the wave `x` gone to a handler: its live threads stand there with MEET all ones, TM and PRIV are set, s92:s93 hold the record's address, its transaction has failed, and the
rest is as before. -/
def AtHandler (x y : Wave) (handler : Quad) (rec : Nat) : Prop :=
  y.tm = true ∧ y.priv = true ∧
  (∀ l, l < 32 → y.pcOf l = (if x.ended.getLsbD l = true then x.pcOf l else handler) ∧ y.meetOf l = if x.ended.getLsbD l = true then x.meetOf l else BitVec.allOnes 64) ∧
  y.getS 92 = BitVec.ofNat 32 rec ∧ y.getS 93 = BitVec.ofNat 32 (rec / 2 ^ 32) ∧ (∀ n, n ≠ 92 → n ≠ 93 → y.getS n = x.getS n) ∧ y.v = x.v ∧ y.p = x.p ∧
  y.ended = x.ended ∧ y.team = x.team ∧ y.time = x.time ∧ y.txIn = x.txIn ∧ y.txAbort = x.txAbort ||| x.txIn ∧ y.txSet = []

section
variable (w : Wave) (handler : Quad) (rec : Nat)

/-- The wave with the handler's registers and places, before TSTAT is set and its wait and transaction are dropped. -/
def Wave.placed : Wave :=
  (((w.setPcs w.live fun _ => handler).setMeets w.live fun _ => BitVec.allOnes 64).setS 92 (BitVec.ofNat 32 rec)).setS 93 (BitVec.ofNat 32 (rec / 2 ^ 32))

theorem withdraw_fields : let y := w.withdraw
    y.id = w.id ∧ y.wake = 0 ∧ y.pc = w.pc ∧ y.meet = w.meet ∧ y.s = w.s ∧ y.v = w.v ∧ y.p = w.p ∧ y.ended = w.ended ∧ y.team = w.team ∧ y.time = w.time ∧ y.txIn = w.txIn := by
  dsimp only
  rw [withdraw_frame]
  exact ⟨rfl, rfl, rfl, rfl, rfl, rfl, rfl, rfl, rfl, rfl, rfl⟩

/-- Entering a handler withdraws the wave from its wait, sets TM and PRIV, fails its transaction, and forgets its groups' hints, meetings and parked lanes. -/
theorem enter_eq : w.enter handler rec = { (w.placed handler rec).withdraw.setTstat true true w.prepend with
    released := 0, parked := 0, phases := none, hints := [], backFrom := none, txAbort := w.txAbort ||| w.txIn, txSet := [], txTodo := 0, txPred := none } := rfl

theorem enter_fields : let x := w.placed handler rec
    let y := w.enter handler rec
    y.id = w.id ∧ y.wake = 0 ∧ y.pc = x.pc ∧ y.meet = x.meet ∧ y.s = x.s ∧ y.v = w.v ∧ y.p = w.p ∧ y.ended = w.ended ∧ y.team = w.team ∧ y.time = w.time ∧ y.txIn = w.txIn ∧
      y.txAbort = w.txAbort ||| w.txIn ∧ y.txSet = [] := by
  obtain ⟨hid, hwake, hpc, hmeet, hs, hv, hp, hended, hteam, htime, htxIn⟩ := withdraw_fields (w.placed handler rec)
  rw [enter_eq]
  exact ⟨hid, hwake, hpc, hmeet, hs, hv, hp, hended, hteam, htime, htxIn, rfl, rfl⟩

theorem enter_tm : (w.enter handler rec).tm = true := by
  rw [enter_eq]
  exact Wave.setTstat_tm (w.placed handler rec).withdraw true true w.prepend

theorem enter_priv : (w.enter handler rec).priv = true := by
  rw [enter_eq]
  exact Wave.setTstat_priv (w.placed handler rec).withdraw true true w.prepend

theorem pcOf_placed {l : Nat} (hl : l < 32) : (w.placed handler rec).pcOf l = if w.ended.getLsbD l = true then w.pcOf l else handler := by
  have hpc : (w.placed handler rec).pcOf l = (w.setPcs w.live fun _ => handler).pcOf l := rfl
  rw [hpc, Wave.pcOf_setPcs, live_getLsbD w hl]
  cases w.ended.getLsbD l <;> simp [hl]

theorem meetOf_placed {l : Nat} (hl : l < 32) : (w.placed handler rec).meetOf l = if w.ended.getLsbD l = true then w.meetOf l else BitVec.allOnes 64 := by
  have hmeet : (w.placed handler rec).meetOf l = (w.setMeets w.live fun _ => BitVec.allOnes 64).meetOf l := rfl
  rw [hmeet, Wave.meetOf_setMeets, live_getLsbD w hl]
  cases w.ended.getLsbD l <;> simp [hl]

theorem getS_placed (n : Nat) : (w.placed handler rec).getS n =
    if n = 93 then BitVec.ofNat 32 (rec / 2 ^ 32) else if n = 92 then BitVec.ofNat 32 rec else w.getS n := by
  unfold Wave.placed
  rw [Wave.getS_setS, Wave.getS_setS]
  rfl

theorem enter_atHandler : AtHandler w (w.enter handler rec) handler rec := by
  obtain ⟨-, -, hpc, hmeet, hs, hkeeps⟩ := enter_fields w handler rec
  have hget (n : Nat) : (w.enter handler rec).getS n = (w.placed handler rec).getS n := congrArg (SMap.get · n) hs
  refine ⟨enter_tm w handler rec, enter_priv w handler rec, fun l hl => ⟨?_, ?_⟩, ?_, ?_, fun n h92 h93 => ?_, hkeeps⟩
  · exact (congrArg (SMap.get · l) hpc).trans (pcOf_placed w handler rec hl)
  · exact (congrArg (SMap.get · l) hmeet).trans (meetOf_placed w handler rec hl)
  · rw [hget, getS_placed, if_neg (by decide), if_pos rfl]
  · rw [hget, getS_placed, if_pos rfl]
  · rw [hget, getS_placed, if_neg h93, if_neg h92]

end

/-- Holding a pre-emption request changes nothing of what a handler's first state says. -/
theorem holdRequest_atHandler {x y : Wave} {handler : Quad} {rec : Nat} (h : AtHandler x y handler rec) (requested : Bool) (now : Nat) :
    AtHandler x (y.holdRequest requested now) handler rec := by
  unfold Wave.holdRequest
  split
  · obtain ⟨htm, hpriv, hrest⟩ := h
    exact ⟨(Wave.setTstat_tm y y.tm y.priv true).trans htm, (Wave.setTstat_priv y y.tm y.priv true).trans hpriv, hrest⟩
  · exact h

theorem holdRequest_id_wake (y : Wave) (requested : Bool) (now : Nat) : (y.holdRequest requested now).id = y.id ∧ (y.holdRequest requested now).wake = y.wake := by
  unfold Wave.holdRequest
  split <;> exact ⟨rfl, rfl⟩

/-- The wave that a trap leaves at the handler, where it holds a pre-emption request that stands for its gang (R204). -/
def Wave.handling (w : Wave) (handler : Quad) (rec : Nat) (requested : Option Nat) : Wave := (w.enter handler rec).holdRequest requested.isSome (requested.getD 0)

theorem handling_id_wake (x : Wave) (handler : Quad) (rec : Nat) (requested : Option Nat) : (x.handling handler rec requested).id = x.id ∧ (x.handling handler rec requested).wake = 0 := by
  obtain ⟨hid, hwake, -⟩ := enter_fields x handler rec
  obtain ⟨hid', hwake'⟩ := holdRequest_id_wake (x.enter handler rec) requested.isSome (requested.getD 0)
  exact ⟨hid'.trans hid, hwake'.trans hwake⟩

theorem handling_atHandler (x : Wave) (handler : Quad) (rec : Nat) (requested : Option Nat) : AtHandler x (x.handling handler rec requested) handler rec :=
  holdRequest_atHandler (enter_atHandler x handler rec) _ _

/-! ### Taking a trap (R191) -/

section
variable {s s1 s2 : State} {w x : Wave} {info : TrapInfo} {v : Nat}

/-- The record of a trap, written part by part through the wave's context. -/
def State.writeRecord (s : State) (w : Wave) (info : TrapInfo) : Except (Flt × Nat) State :=
  (recordParts w info).foldl (fun acc p => acc.bind fun z => z.ctxWrite (s.asidOf w) (s.traddr (s.asidOf w) w + p.1) p.2 needWrite true (some w.core)) (.ok s)

/-- The state in which a wave has entered the handler at `v`. -/
def State.entered (s : State) (w : Wave) (v rec : Nat) : State :=
  ((s.modWave w.id fun x => x.handling (BitVec.ofNat 64 v) rec (s.requestedAt w.gang)).stopLeaving w.gang).takeLogged w.id

theorem trapEntry_of_vector (htm : w.tm = false) (hcode : info.code ≠ 11) (hrec : s.writeRecord w info = .ok s1)
    (hvec : s1.ctxNat (s.asidOf w) ((s1.ctx (s.asidOf w)).tvbase.toNat + 8 * info.code) 8 needRead true = .ok (v, s2)) (hv : v ≠ 0) :
    s.trapEntry w info = s2.entered w v (s.traddr (s.asidOf w) w) := by
  unfold State.writeRecord at hrec
  unfold State.trapEntry
  simp only [if_neg hcode, htm, Bool.false_eq_true, if_false, bind, hrec, hvec, if_neg hv]
  rfl

theorem wave?_entered {rec : Nat} (hx : s.wave? w.id = some x) :
    (s.entered w v rec).wave? w.id = some (x.handling (BitVec.ofNat 64 v) rec (s.requestedAt w.gang)) := by
  have henters : (s.modWave w.id fun x => x.handling (BitVec.ofNat 64 v) rec (s.requestedAt w.gang)).wave? w.id = some (x.handling (BitVec.ofNat 64 v) rec (s.requestedAt w.gang)) := by
    rw [State.wave?_modWave _ _ _ (fun y => (handling_id_wake y _ _ _).1), hx, Option.map_some, if_pos rfl]
  have hawake : (x.handling (BitVec.ofNat 64 v) rec (s.requestedAt w.gang)).wakeKind ≠ 5 := by
    rw [Wave.wakeKind, (handling_id_wake x _ _ _).2]
    decide
  exact wave?_wakePresent (s := (s.modWave w.id _).modGang w.gang _) henters hawake

theorem entered_mem (s : State) (w : Wave) (v rec : Nat) : (s.entered w v rec).mem = s.mem := rfl

end

/-- Settles O36: the trap enters the handler with what the record's writes and the vector's read leave; the header by its fields side by side, the other parts by the lanes that live. -/
theorem trapEntryEntersHandler : Obligations.TrapEntryEntersHandler := by
  unfold Obligations.TrapEntryEntersHandler
  refine ⟨?_, ?_, ?_⟩
  · intro s s1 s2 w x info v htm hcode asid record hrec hvec hv hx
    rw [trapEntry_of_vector htm hcode hrec hvec hv, wave?_entered hx, entered_mem]
    obtain ⟨ht, hpriv, hplaces, hlow, hhigh, hgets, hvs, hp, hended, hteam, htime, htxIn, htxAbort, htxSet⟩ := handling_atHandler x (BitVec.ofNat 64 v) record (s2.requestedAt w.gang)
    exact ⟨_, rfl, ht, hpriv, hplaces, hlow, hhigh, hgets, hvs, hp, hended, hteam, htime, htxIn, htxAbort, htxSet, rfl⟩
  · intro t hcode hcause hdest hlog hfaddr haux
    have hfit := header_fields_fit hcode hcause hdest hlog hfaddr haux
    have hcode0 : natOfBytes t.header / 2 ^ 0 % 2 ^ 8 = t.code := header_field hfit 0 rfl (by decide)
    rw [Nat.pow_zero, Nat.div_one] at hcode0
    exact ⟨by rw [header_eq, bytesOfNat_length], hcode0, header_field hfit 1 rfl (by decide), header_testBit hfit 2 rfl (by decide),
      header_testBit hfit 3 rfl (by decide), header_field hfit 4 rfl (by decide), header_field hfit 5 rfl (by decide), header_field hfit 6 rfl (by decide),
      header_field hfit 7 rfl (by decide), header_field hfit 8 rfl (by decide), header_field hfit 9 rfl (by decide), header_field hfit 10 rfl (by decide),
      header_field hfit 11 rfl (by decide), header_field hfit 12 rfl (by decide), header_field hfit 13 rfl (by decide), header_field hfit 14 rfl (by decide), header_above hfit (by decide)⟩
  · intro w t p
    rw [mem_recordParts]
    simp only [predPart_iff, and_assoc]
    rfl

end Sys2Proof.Machine
end

section
/-! PROOFS. Bytes written and read back (O8). -/

namespace Sys2Proof.Machine

/-- A number written at a physical address is read back modulo its bytes. -/
theorem natAt_putNat (s : State) (pa n x : Nat) : (s.putNat pa n x).natAt pa n = x % 2 ^ (8 * n) := by
  have h := State.bytesAt_putBytes s pa (bytesOfNat n x)
  rw [bytesOfNat_length] at h
  exact (congrArg natOfBytes h).trans (natOfBytes_bytesOfNat n x)

/-- Settles O8: bytes by the laws of a write of a run, numbers by the bytes that lay them out. -/
theorem memoryReadsBack : Obligations.MemoryReadsBack := by
  unfold Obligations.MemoryReadsBack
  intro s pa bs
  refine ⟨State.bytesAt_putBytes s pa bs, fun a ha => ?_, State.putBytes_wf s pa bs, natAt_putNat s pa⟩
  rw [State.putBytes_get, if_neg ha]

end Sys2Proof.Machine
end

section
/-! PROOFS. Integer words (O14). -/

namespace Sys2Proof.Machine

section
variable {i : Instr} {s t : State} {c : Ctx} {d : Nat}

/-- A word whose effect is one vector destination writes it as `VectorResult` says. -/
theorem issueOk_putV {g : Ctx → Nat → Word} (h : Issues i s c t) : VectorResult (issueOk i s fun c => c.putV d (g c)) c t d (g c) :=
  putV_result _ _ _ _ (issueOk_completes h _)

/-- A word whose effect is one vector pair writes it as `PairResult` says. -/
theorem issueOk_putV2 {g : Ctx → Nat → Quad} (h : Issues i s c t) : PairResult (issueOk i s fun c => c.putV2 d (g c)) c t d (g c) :=
  putV2_result _ _ _ _ (issueOk_completes h _)

/-- The same where the values are known by an equation. -/
theorem issueOk_putV_of_eq {g : Ctx → Nat → Word} {v : Nat → Word} (hv : ∀ l, g c l = v l) (h : Issues i s c t) :
    VectorResult (issueOk i s fun c => c.putV d (g c)) c t d v := by
  rw [← funext hv]
  exact issueOk_putV h

theorem issueOk_putV2_of_eq {g : Ctx → Nat → Quad} {v : Nat → Quad} (hv : ∀ l, g c l = v l) (h : Issues i s c t) :
    PairResult (issueOk i s fun c => c.putV2 d (g c)) c t d v := by
  rw [← funext hv]
  exact issueOk_putV2 h

end

/-! ### Words under a sat hint (R208, R289) -/

section
variable {n : Nat} {sat : Option (BitVec 1)} {plain a b d : BitVec n} {op : Int → Int → Int → Int}

theorem satOr_of_none (h : sat = none) : satOr sat plain op a b d = plain := by rw [h]; rfl

theorem satOr_of_some {p : BitVec 1} (h : sat = some p) : satOr sat plain op a b d =
    BitVec.ofInt n (clampInt (p = 1) n (op (satRead (p = 1) n a.toNat) (satRead (p = 1) n b.toNat) (satRead (p = 1) n d.toNat))) := by rw [h]; rfl

end

section
variable {i : Instr} {f : FmtR} {s t : State} {c : Ctx}

/-- A word of 32 bits writes its plain value, or under a sat hint the exact one clamped; `third` is what it makes of d as a source. -/
theorem aluR_satOr (plain : Word → Word → Word → Word) (exact : Int → Int → Int → Int) (third : Word → Word) (h : Issues i s c t) :
    let r := aluR i f s fun c a b d => satOr c.hints.sat (plain a b d) exact a b (third d)
    (c.hints.sat = none → VectorResult r c t f.d.toNat fun l => plain (c.a f l) (c.b f l) (c.d f l)) ∧
    ∀ p, c.hints.sat = some p → VectorResult r c t f.d.toNat fun l => BitVec.ofInt 32 (clampInt (p = 1) 32
      (exact (satRead (p = 1) 32 (c.a f l).toNat) (satRead (p = 1) 32 (c.b f l).toNat) (satRead (p = 1) 32 (third (c.d f l)).toNat))) :=
  ⟨fun hnone => issueOk_putV_of_eq (fun _ => satOr_of_none hnone) h, fun _ hsome => issueOk_putV_of_eq (fun _ => satOr_of_some hsome) h⟩

/-- The same of a word on pairs. -/
theorem aluR64_satOr (plain : Quad → Quad → Quad → Quad) (exact : Int → Int → Int → Int) (third : Quad → Quad) (h : Issues i s c t) :
    let r := aluR64 i f s fun c a b d => satOr c.hints.sat (plain a b d) exact a b (third d)
    (c.hints.sat = none → PairResult r c t f.d.toNat fun l => plain (c.a64 f l) (c.b64 f l) (c.d64 f l)) ∧
    ∀ p, c.hints.sat = some p → PairResult r c t f.d.toNat fun l => BitVec.ofInt 64 (clampInt (p = 1) 64
      (exact (satRead (p = 1) 64 (c.a64 f l).toNat) (satRead (p = 1) 64 (c.b64 f l).toNat) (satRead (p = 1) 64 (third (c.d64 f l)).toNat))) :=
  ⟨fun hnone => issueOk_putV2_of_eq (fun _ => satOr_of_none hnone) h, fun _ hsome => issueOk_putV2_of_eq (fun _ => satOr_of_some hsome) h⟩

end

/-! ### Minimum, maximum and ladd (R288, R296) -/

theorem minI_eq (a b : Word) : minI a b = if a.toInt ≤ b.toInt then a else b := by
  simp only [minI, BitVec.sle_eq_decide, decide_eq_true_eq]

theorem maxI_eq (a b : Word) : maxI a b = if a.toInt ≤ b.toInt then b else a := by
  simp only [maxI, BitVec.sle_eq_decide, decide_eq_true_eq]

/-- A 64-bit base and a 32-bit offset, zero extended, add modulo 2^64. -/
theorem add_setWidth_eq (x : Quad) (a : Word) : x + a.setWidth 64 = BitVec.ofNat 64 ((x.toNat + a.toNat) % 2 ^ 64) := by
  apply BitVec.eq_of_toNat_eq
  rw [BitVec.toNat_add, BitVec.toNat_setWidth, BitVec.toNat_ofNat]
  omega

/-- Settles O14: each word writes its own function of its operands; under a sat hint by the two cases of `satOr`. -/
theorem integerWordsCompute : Obligations.IntegerWordsCompute := by
  unfold Obligations.IntegerWordsCompute
  refine ⟨fun f s t c => ⟨?iadd, ?isub, ?imul, ?imad, issueOk_putV, issueOk_putV, issueOk_putV, issueOk_putV, issueOk_putV, ?iminI, issueOk_putV, ?imaxI, issueOk_putV⟩,
    fun f s t c => ⟨?iadd64, ?isub64, ?imul64⟩, fun f s t c h => ?ladd⟩
  case iadd => exact aluR_satOr (fun a b _ => a + b) (fun x y _ => x + y) fun _ => 0
  case isub => exact aluR_satOr (fun a b _ => a - b) (fun x y _ => x - y) fun _ => 0
  case imul => exact aluR_satOr (fun a b _ => a * b) (fun x y _ => x * y) fun _ => 0
  case imad => exact aluR_satOr (fun a b d => a * b + d) (fun x y z => x * y + z) fun d => d
  case iminI => exact issueOk_putV_of_eq fun _ => minI_eq _ _
  case imaxI => exact issueOk_putV_of_eq fun _ => maxI_eq _ _
  case iadd64 => exact aluR64_satOr (fun a b _ => a + b) (fun x y _ => x + y) fun _ => 0
  case isub64 => exact aluR64_satOr (fun a b _ => a - b) (fun x y _ => x - y) fun _ => 0
  case imul64 => exact aluR64_satOr (fun a b _ => a * b) (fun x y _ => x * y) fun _ => 0
  case ladd => exact issueOk_putV2_of_eq (fun _ => add_setWidth_eq _ _) h

end Sys2Proof.Machine
end

section
/-! PROOFS. Floating-point words (O18). -/

namespace Sys2Proof.Machine

/-- A packed word's elements are the halves of its operands. -/
theorem packed_halves (op : Nat → Nat → Nat → Nat) (a b d : Word) : packed op a.toNat b.toNat d.toNat =
    op (a.toNat % 2 ^ 16) (b.toNat % 2 ^ 16) (d.toNat % 2 ^ 16) + op (a.toNat / 2 ^ 16) (b.toNat / 2 ^ 16) (d.toNat / 2 ^ 16) * 2 ^ 16 := by
  have low (x : Word) : bitsOf x.toNat 0 16 = x.toNat % 2 ^ 16 := by rw [bitsOf, Nat.pow_zero, Nat.div_one]
  have high (x : Word) : bitsOf x.toNat 16 16 = x.toNat / 2 ^ 16 := Nat.mod_eq_of_lt (by have := x.isLt; omega)
  rw [packed, low, low, low, high, high, high]

/-- Settles O18: each word writes its own function of its operands; a packed one, element by element. -/
theorem floatWordsCompute : Obligations.FloatWordsCompute := by
  unfold Obligations.FloatWordsCompute
  refine ⟨⟨fun f s t c => ⟨issueOk_putV, issueOk_putV, issueOk_putV, issueOk_putV, issueOk_putV, issueOk_putV, issueOk_putV, ?hadd2, ?hfma2, ?bfma2⟩,
      fun f s t c => ⟨issueOk_putV, issueOk_putV, issueOk_putV, issueOk_putV, issueOk_putV, issueOk_putV, issueOk_putV, issueOk_putV⟩⟩,
    fun f s t c => ⟨issueOk_putV2, issueOk_putV2, issueOk_putV2, issueOk_putV2, issueOk_putV2, issueOk_putV2, issueOk_putV2⟩,
    fun f s t c => ⟨issueOk_putV2, issueOk_putV2⟩⟩
  case hadd2 | hfma2 | bfma2 => exact issueOk_putV_of_eq fun l => congrArg (BitVec.ofNat 32) (packed_halves _ _ _ _)

end Sys2Proof.Machine
end

section
/-! PROOFS. Conversions, pack and unpk (O20). -/

namespace Sys2Proof.Machine

section
variable {i : Instr} {s t : State} {c : Ctx} {d : Nat}

/-- A conversion writes the pair of a wide target, and the low word of a narrow one. -/
theorem issueOk_putCvt {code : Nat} {g : Ctx → Nat → Quad} (h : Issues i s c t) : let r := issueOk i s fun c => c.putCvt code d (g c)
    (typeWide code = true → PairResult r c t d (g c)) ∧ (typeWide code = false → VectorResult r c t d fun l => lo32 (g c l)) := by
  have hdone := issueOk_completes h fun c => c.putCvt code d (g c)
  unfold Ctx.putCvt at hdone
  constructor
  · intro hwide
    rw [if_pos hwide] at hdone
    exact putV2_result _ _ _ _ hdone
  · intro hnarrow
    rw [if_neg (by simp [hnarrow])] at hdone
    exact putV_result _ _ _ _ hdone

/-- The wave with other vector registers. -/
def Wave.withV (w : Wave) (v : SMap 32) : Wave := { w with v := v }

/-- A run of registers written one after another: those of the run read their own values in the ACTIVE lanes, the others as before. -/
theorem foldl_putV_run (c : Ctx) (g : Nat → Nat → Word) (t : State) (d k : Nat) (hk : d + k ≤ 112) :
    ∃ F : Wave → SMap 32, (List.range k).foldl (fun u j => c.putV (d + j) (g j) u) t = t.modWave c.w.id (fun w => w.withV (F w)) ∧
      ∀ (w : Wave) (l r : Nat), l < 32 → r ≤ 111 → SMap.get (F w) (vKey l r) = if c.act.getLsbD l = true ∧ d ≤ r ∧ r < d + k then g (r - d) l else w.getV l r := by
  induction k with
  | zero => exact ⟨fun w => w.v, by simp [State.modWave, Wave.withV], fun w l r _ _ => by rw [if_neg (by omega)]; rfl⟩
  | succ k ih =>
    obtain ⟨F, hrun, hget⟩ := ih (by omega)
    refine ⟨fun w => ((w.withV (F w)).setVs c.act (d + k) (g k)).v, ?_, fun w l r hl hr => ?_⟩
    · rw [List.range_succ, List.foldl_append, hrun, List.foldl_cons, List.foldl_nil, Ctx.putV, if_pos (by omega),
        modWave_modWave (f := fun w => w.withV (F w)) fun _ => rfl]
      rfl
    · refine (Wave.getV_setVs (w.withV (F w)) c.act (d + k) (g k) l r (by omega) (by omega)).trans ?_
      have hold : (w.withV (F w)).getV l r = _ := hget w l r hl hr
      rw [hold]
      by_cases hlast : r = d + k
      · subst hlast
        simp [hl]
      · have hrange : r < d + (k + 1) ↔ r < d + k := by omega
        simp [hlast, hrange]

/-- A word that writes such a run leaves the registers of the run changed and no others. -/
theorem vectorsBecome_run {r : Result} {k : Nat} {g : Nat → Nat → Word} (hk : d + k ≤ 112)
    (h : Completes r c ((List.range k).foldl (fun u j => c.putV (d + j) (g j) u) t)) :
    VectorsBecome r t c.w.id fun w l n => if c.act.getLsbD l = true ∧ d ≤ n ∧ n < d + k then g (n - d) l else w.getV l n := by
  obtain ⟨F, hrun, hget⟩ := foldl_putV_run c g t d k hk
  rw [hrun, Completes, modWave_modWave (f := fun w => w.withV (F w)) fun _ => rfl] at h
  exact ⟨F, h, hget⟩

end

theorem signedOf_mod {n x y : Nat} (h : x % 2 ^ n = y % 2 ^ n) : signedOf n x = signedOf n y := by
  unfold signedOf
  rw [h]

/-- The extension of a field is that of the word shifted down to it. -/
theorem extendReg_bitsOf {signed : Bool} {n : Nat} (x k : Nat) (hn : n ≤ 32) :
    extendReg signed n (BitVec.ofNat 32 (bitsOf x k n)) = extendReg signed n (BitVec.ofNat 32 (x / 2 ^ k)) := by
  have hdvd : 2 ^ n ∣ 2 ^ 32 := Nat.pow_dvd_pow 2 hn
  have hmod : (BitVec.ofNat 32 (bitsOf x k n)).toNat % 2 ^ n = (BitVec.ofNat 32 (x / 2 ^ k)).toNat % 2 ^ n := by
    rw [BitVec.toNat_ofNat, BitVec.toNat_ofNat, Nat.mod_mod_of_dvd _ hdvd, Nat.mod_mod_of_dvd _ hdvd, bitsOf, Nat.mod_mod]
  unfold extendReg
  rw [signedOf_mod hmod, hmod]

theorem narrow16_of_none {sat : Option (BitVec 1)} (x : Word) (h : sat = none) : narrow16 sat x = x.extractLsb' 0 16 := by rw [h]; rfl

theorem narrow16_of_some {sat : Option (BitVec 1)} {p : BitVec 1} (x : Word) (h : sat = some p) :
    narrow16 sat x = BitVec.ofInt 16 (clampInt (p = 1) 16 x.toInt) := by rw [h]; rfl

/-- The width of the fields that unpk moves (R305). -/
def unpkWidth (f : FmtUnpk) : Nat := if f.m.toNat < 2 then 16 else 8

/-- What unpk writes to the register at a distance from its first (R305). -/
def Ctx.unpkField (c : Ctx) (f : FmtUnpk) (k l : Nat) : Word :=
  extendReg (f.m.toNat % 2 = 0) (unpkWidth f) (BitVec.ofNat 32 ((c.src1 c.vimm (classOf f.s) f.b.toNat 1 l).toNat / 2 ^ (unpkWidth f * k)))

/-- unpk writes the run of registers from d up, or nothing for vz. -/
theorem exec_unpk (f : FmtUnpk) (s : State) : exec (.unpk f) s = issueOk (.unpk f) s fun c t =>
    if f.d.toNat = 124 then t else (List.range (32 / unpkWidth f)).foldl (fun u k => c.putV (f.d.toNat + k) (c.unpkField f k) u) t := by
  have hwidth : unpkWidth f ≤ 32 := by unfold unpkWidth; split <;> decide
  unfold Ctx.unpkField
  simp only [← extendReg_bitsOf _ _ hwidth]
  rfl

/-- Settles O20: a conversion by its target's width, pack by its hint, unpk as a run of registers. -/
theorem conversionsConvert : Obligations.ConversionsConvert := by
  unfold Obligations.ConversionsConvert
  refine ⟨fun f s t c h => issueOk_putCvt h, fun f s t c h => issueOk_putCvt h, fun f s t c h => ⟨fun hnone => ?_, fun p hsome => ?_⟩, fun f s t c h => ?_⟩
  · exact issueOk_putV_of_eq (fun l => congrArg₂ _ (narrow16_of_none _ hnone) (narrow16_of_none _ hnone)) h
  · exact issueOk_putV_of_eq (fun l => congrArg₂ _ (narrow16_of_some _ hsome) (narrow16_of_some _ hsome)) h
  · have hdone := issueOk_completes h fun c t =>
      if f.d.toNat = 124 then t else (List.range (32 / unpkWidth f)).foldl (fun u k => c.putV (f.d.toNat + k) (c.unpkField f k) u) t
    rw [← exec_unpk] at hdone
    refine ⟨fun hvz => ?_, fun hfit => ?_⟩
    · rwa [if_pos hvz] at hdone
    · have hreg : f.d.toNat ≤ 112 := Nat.le_of_add_right_le hfit
      rw [if_neg (by omega)] at hdone
      exact vectorsBecome_run hfit hdone

end Sys2Proof.Machine
end

section
/-! PROOFS. vote, bcast, redux and scan (O22). -/

namespace Sys2Proof.Machine

/-! ### The integer sum of the index tree (R226, R310) -/

section
variable {α : Type} {op : α → α → α} {e : α}

/-- The combination of the children that are there, one after another from `e`. -/
def combineFrom (op : α → α → α) (e : α) (xs : List (Option α)) : α := xs.foldr (fun x r => x.elim r fun a => op a r) e

theorem length_treeLevel (xs : List (Option α)) : (treeLevel op xs).length = (xs.length + 1) / 2 := by
  induction xs using treeLevel.induct with
  | case1 x y r ih => simp only [treeLevel, List.length_cons, ih]; omega
  | case2 x => simp [treeLevel]
  | case3 => simp [treeLevel]

/-- A level of the tree of an associative operation keeps the combination. -/
theorem combineFrom_treeLevel (assoc : ∀ a b c, op (op a b) c = op a (op b c)) (xs : List (Option α)) :
    combineFrom op e (treeLevel op xs) = combineFrom op e xs := by
  induction xs using treeLevel.induct with
  | case1 x y r ih =>
    rw [combineFrom] at ih
    cases x <;> cases y <;> simp [treeLevel, combineFrom, ih, assoc]
  | case2 x => rfl
  | case3 => rfl

theorem length_treeFold (k : Nat) (xs : List (Option α)) (h : xs.length = 2 ^ k) : (treeFold op k xs).length = 1 := by
  induction k generalizing xs with
  | zero => exact h
  | succ k ih => exact ih _ (by rw [length_treeLevel, h, Nat.pow_succ]; omega)

theorem combineFrom_treeFold (assoc : ∀ a b c, op (op a b) c = op a (op b c)) (k : Nat) (xs : List (Option α)) :
    combineFrom op e (treeFold op k xs) = combineFrom op e xs := by
  induction k generalizing xs with
  | zero => rfl
  | succ k ih => exact (ih _).trans (combineFrom_treeLevel assoc xs)

/-- The index tree of an associative operation with a neutral element, whatever its shape, is the combination of the children that are there. -/
theorem indexTree_eq_combineFrom (assoc : ∀ a b c, op (op a b) c = op a (op b c)) (neutral : ∀ a, op a e = a) {k : Nat} {xs : List (Option α)} (h : xs.length = 2 ^ k) :
    (indexTree op xs k).getD e = combineFrom op e xs := by
  obtain ⟨x, hx⟩ := List.length_eq_one_iff.mp (length_treeFold (op := op) k xs h)
  rw [← combineFrom_treeFold assoc k, indexTree, hx]
  cases x <;> simp [combineFrom, neutral]

end

/-- The combination over the lanes of a set is the sum of their values. -/
theorem combineFrom_lanes (act : Lanes) (a : Nat → Word) :
    combineFrom (· + ·) 0 ((List.range 32).map fun k => if act.getLsbD k then some (a k) else none) = ((laneList act).map a).foldl (· + ·) 0 := by
  rw [← List.sum_eq_foldl, laneList]
  induction List.range 32 with
  | nil => rfl
  | cons k ks ih =>
    rw [combineFrom] at ih ⊢
    rw [List.map_cons, List.foldr_cons, ih]
    by_cases hk : act.getLsbD k = true
    · rw [if_pos hk, List.filter_cons_of_pos hk, List.map_cons, List.sum_cons]
      rfl
    · rw [if_neg hk, List.filter_cons_of_neg hk]
      rfl

theorem laneTree_add (fpc : Fpc) (act : Lanes) (a : Nat → Word) : laneTree fpc 0 0 32 act a = ((laneList act).map a).foldl (· + ·) 0 := by
  have htree : (indexTree (reduxOp fpc 0) ((List.range 32).map fun k => if act.getLsbD k then some (a k) else none) 5).getD 0 = combineFrom (· + ·) 0 _ :=
    indexTree_eq_combineFrom BitVec.add_assoc BitVec.add_zero (by simp)
  rw [← combineFrom_lanes]
  rw [← show clog2 32 = 5 by decide] at htree
  simpa [laneTree, reduxIn] using htree

/-! ### The words (R306, R308 to R310) -/

section
variable {c : Ctx} {i : Instr} {s t : State} {d : Nat} {g : Ctx → Lanes → Word}

theorem lowestLane_lt (m : Lanes) : lowestLane m < 32 := by
  unfold lowestLane
  cases h : laneList m with
  | nil => decide
  | cons l ls => exact ((mem_laneList m l).mp (by rw [h]; exact List.mem_cons_self)).1

/-- Outside a translated segment cross-lane words act over the 32 lanes, one block. -/
theorem width_of_native (h : c.vox = false) : c.width = 32 := by
  unfold Ctx.width
  cases c.gr.vox with
  | none => rfl
  | some m => simp [h]

theorem blockBase_of_native (h : c.vox = false) {l : Nat} (hl : l < 32) : c.blockBase l = 0 := by
  rw [Ctx.blockBase, width_of_native h, Nat.div_eq_of_lt hl, Nat.zero_mul]

/-- A word whose effect is one scalar destination: in a native program, and in a translated segment. -/
theorem issueOk_putS (h : Issues i s c t) : let r := issueOk i s fun c => c.putS d (g c)
    (c.vox = false → ScalarResult r c t d (g c c.act)) ∧
    (c.vox = true → c.vregs + 2 ≤ d → d ≤ c.vregs + 9 → c.vregs + 9 ≤ 111 → 32 % c.width = 0 → UniformResult r c t d (g c)) := by
  have hdone := issueOk_completes h fun c => c.putS d (g c)
  exact ⟨fun hn => putS_result c t d (g c) hn hdone, fun hv _ hd hr hw => putS_uniform c t d (g c) hv (by omega) hw hdone⟩

/-- What vote computes from the ACTIVE lanes of a block (R308). -/
def Ctx.voteValue (c : Ctx) (f : FmtVote) (act : Lanes) : Word :=
  match f.m.toNat with
  | 0 => if (laneList act).all (fun l => c.w.getP l f.q.toNat) then 1 else 0
  | 1 => if (laneList act).any (fun l => c.w.getP l f.q.toNat) then 1 else 0
  | _ => lanesWhere (fun l => act.getLsbD l && c.w.getP l f.q.toNat) >>> c.blockBase (lowestLane act)

theorem exec_vote (f : FmtVote) (s : State) : exec (.vote f) s = issueOk (.vote f) s fun c => c.putS f.d.toNat (c.voteValue f) := rfl

theorem voteValue_all {f : FmtVote} (h : f.m.toNat = 0) (act : Lanes) : c.voteValue f act = if (laneList act).all (fun l => c.w.getP l f.q.toNat) then 1 else 0 := by
  simp only [Ctx.voteValue, h]

theorem voteValue_any {f : FmtVote} (h : f.m.toNat = 1) (act : Lanes) : c.voteValue f act = if (laneList act).any (fun l => c.w.getP l f.q.toNat) then 1 else 0 := by
  simp only [Ctx.voteValue, h]

/-- A ballot has the predicates of the block's ACTIVE lanes, the block's first lane at bit 0. -/
theorem voteValue_ballot {f : FmtVote} (h : 2 ≤ f.m.toNat) (act : Lanes) (k : Nat) :
    (c.voteValue f act).getLsbD k = (act.getLsbD (c.blockBase (lowestLane act) + k) && c.w.getP (c.blockBase (lowestLane act) + k) f.q.toNat) := by
  have hballot : c.voteValue f act = lanesWhere (fun l => act.getLsbD l && c.w.getP l f.q.toNat) >>> c.blockBase (lowestLane act) := by
    unfold Ctx.voteValue
    split
    · omega
    · omega
    · rfl
  rw [hballot, BitVec.getLsbD_ushiftRight, lanesWhere_getLsbD]
  by_cases hk : c.blockBase (lowestLane act) + k < 32
  · rw [decide_eq_true hk, Bool.true_and]
  · rw [BitVec.getLsbD_of_ge act _ (Nat.le_of_not_lt hk), Bool.false_and, Bool.and_false]

theorem laneSrc_eq (f : FmtR) (j : Nat) : c.laneSrc f j = if c.vox = true ∧ f.a.toNat = c.vregs + 10 then BitVec.ofNat 32 (j % c.width) else c.a f j := by
  simp only [Ctx.laneSrc, Bool.and_eq_true, decide_eq_true_eq]

/-- What bcast computes from the ACTIVE lanes of a block, at the count of free values (R309). -/
def Ctx.bcastValue (c : Ctx) (f : FmtR) (fresh : Nat) (act : Lanes) : Word :=
  if (c.b f (lowestLane act)).toNat % 32 < c.width then c.laneSrc f (c.blockBase (lowestLane act) + (c.b f (lowestLane act)).toNat % 32)
  else Config.freeWord (fresh + c.blockBase (lowestLane act))

theorem exec_bcast (f : FmtR) (s : State) : exec (.bcast f) s = issueOk (.bcast f) s fun c t =>
    c.putS f.d.toNat (c.bcastValue f t.fresh) (if c.width = 32 then t else { t with fresh := t.fresh + 32 }) := by
  have hfield (x : Nat) : bitsOf x 0 5 = x % 32 := by simp [bitsOf]
  unfold Ctx.bcastValue
  simp only [← hfield]
  rfl

theorem bcastValue_of_lane {f : FmtR} {fresh : Nat} {act : Lanes} (h : (c.b f (lowestLane act)).toNat % 32 < c.width) :
    c.bcastValue f fresh act = c.laneSrc f (c.blockBase (lowestLane act) + (c.b f (lowestLane act)).toNat % 32) := if_pos h

end

/-- Settles O22: each word's scalar by the two kinds of destination, the integer sum by the tree of an associative operation. -/
theorem laneWordsCombine : Obligations.LaneWordsCombine := by
  unfold Obligations.LaneWordsCombine
  refine ⟨⟨?vote, ?bcast, ?trees⟩, laneTree_add⟩
  case vote =>
    intro f s t c tells h
    have htells (act : Lanes) : tells act (c.voteValue f act) := ⟨fun hm => voteValue_all hm act, fun hm => voteValue_any hm act, fun hm k _ => voteValue_ballot hm act k⟩
    obtain ⟨hnative, hvox⟩ := issueOk_putS (d := f.d.toNat) (g := fun c => c.voteValue f) h
    rw [exec_vote]
    exact ⟨fun hn => ⟨_, hnative hn, htells _⟩, fun hv h1 h2 h3 hw => ⟨_, hvox hv h1 h2 h3 hw, htells⟩⟩
  case bcast =>
    intro f s t c source src u h
    have hdone := issueOk_completes h fun c t => c.putS f.d.toNat (c.bcastValue f t.fresh) (if c.width = 32 then t else { t with fresh := t.fresh + 32 })
    have hlane (act : Lanes) (hact : source act < c.width) : c.bcastValue f t.fresh act = src (c.blockBase (lowestLane act) + source act) := by
      rw [bcastValue_of_lane hact, laneSrc_eq]
    rw [← exec_bcast] at hdone
    refine ⟨fun hn => ?_, fun hv _ hd hr hw => ⟨_, putS_uniform c u f.d.toNat _ hv (by omega) hw hdone, hlane⟩⟩
    have hsource : source c.act < c.width := by
      rw [width_of_native hn]
      exact Nat.mod_lt _ (by decide)
    have hresult := putS_result c _ f.d.toNat _ hn hdone
    rwa [if_pos (width_of_native hn), hlane _ hsource, blockBase_of_native hn (lowestLane_lt _), Nat.zero_add] at hresult
  case trees =>
    intro f s t c a tree
    refine ⟨fun h => ?_, fun h => ⟨_, issueOk_putV h, fun l hl => rfl⟩⟩
    obtain ⟨hnative, hvox⟩ := issueOk_putS (d := f.d.toNat) (g := fun c act => laneTree c.fpc f.o.toNat (c.blockBase (lowestLane act)) c.width act fun l => c.vsrc c.vimm f.a.toNat 0 l) h
    refine ⟨fun hn => ?_, hvox⟩
    have hbase : c.blockBase (lowestLane c.act) = c.blockBase 0 := (blockBase_of_native hn (lowestLane_lt _)).trans (blockBase_of_native hn (by decide)).symm
    have hresult := hnative hn
    rwa [hbase] at hresult

end Sys2Proof.Machine
end

section
/-! PROOFS. Atomics and multi-destination stores (O29). -/

namespace Sys2Proof.Machine

section
variable {c : Ctx} {i : Instr} {s t : State}

/-! ### Addresses and lanes (R323, R337) -/

/-- An address without an offset is the pair. -/
theorem ea_zero (c : Ctx) (a l : Nat) : c.ea a 0 l = (c.src2 .vec a l).toNat := congrArg BitVec.toNat (BitVec.add_zero _)

/-! ### Lanes combined under a dtree hint (R269, R271) -/

theorem filter_head_of_first {before after : List AccLane} {l : AccLane} (h : before.any (fun m => m.va = l.va) = false) :
    ((before ++ l :: after).filter fun m => m.va = l.va).head? = some l := by
  have hnil : before.filter (fun m => m.va = l.va) = [] := by
    rw [List.filter_eq_nil_iff]
    simpa using h
  simp [hnil]

theorem filter_head_of_later {before after : List AccLane} {l : AccLane} (h : before.any (fun m => m.va = l.va) = true) (hl : l ∉ before) :
    ((before ++ l :: after).filter fun m => m.va = l.va).head? ≠ some l := by
  intro hhead
  obtain ⟨m, hm, hva⟩ := List.any_eq_true.mp h
  cases hf : before.filter fun m => m.va = l.va with
  | nil => exact List.filter_eq_nil_iff.mp hf m hm hva
  | cons x xs =>
    rw [List.filter_append, hf, List.cons_append, List.head?_cons, Option.some.injEq] at hhead
    have hx : x ∈ before.filter fun m => m.va = l.va := by rw [hf]; exact List.mem_cons_self
    exact hl (hhead ▸ (List.mem_filter.mp hx).1)

/-- The first lane that names an address makes the access with the lanes' sum; a later one is over. -/
theorem combined_at {ls before after : List AccLane} {l : AccLane} (hls : ls = before ++ l :: after) (hl : l ∉ before) : (combined ls)[before.length]? =
    some (if before.any fun m => m.va = l.va then { l with status := .done } else { l with data := dtreeSum (ls.filter fun m => m.va = l.va) }) := by
  have hat : ls[before.length]? = some l := by simp [hls]
  rw [combined, List.getElem?_map, hat, Option.map_some]
  congr 1
  by_cases h : before.any (fun m => m.va = l.va) = true
  · rw [if_pos h, hls, if_neg (filter_head_of_later h hl)]
    rfl
  · rw [if_neg h, hls, if_pos (filter_head_of_first (by simpa using h))]

/-! ### Destination lists (R341 to R343) -/

theorem mem_multiLanes {list n : Nat} {data : Nat → Quad} {x : AccLane} : x ∈ c.multiLanes list n data ↔
    ∃ k l, k < 8 ∧ l < 32 ∧ c.act.getLsbD l = true ∧ k < (c.ssrc list 0 l).toNat % 16 ∧
      x = newLane l k (c.src2 .scal (list + 2 + 2 * k) l + BitVec.ofNat 64 (n * (l % c.width))).toNat (data l) 0 := by
  have hcount (l : Nat) : c.listCount list l = (c.ssrc list 0 l).toNat % 16 := by simp [Ctx.listCount, bitsOf]
  simp only [Ctx.multiLanes, List.mem_flatMap, mem_laneList, List.mem_map, List.mem_filter, List.mem_range, decide_eq_true_eq, hcount, Ctx.listBase]
  constructor
  · rintro ⟨l, ⟨hl, ha⟩, k, ⟨hk, hn⟩, rfl⟩
    exact ⟨k, l, hk, hl, ha, hn, rfl⟩
  · rintro ⟨k, l, hk, hl, ha, hn, rfl⟩
    exact ⟨l, ⟨hl, ha⟩, k, ⟨hk, hn⟩, rfl⟩

/-- The access of a multi-destination store of `n` bytes. -/
def Ctx.multiOp (c : Ctx) (op : Option Nat) (list d : BitVec 7) (n : Nat) (release : Bool) : MemOp :=
  ⟨.multi op n, none, (fun x => if c.hints.dtree then combined x else x) (c.multiLanes list.toNat n fun l => if n = 8 then c.src2 .vec d.toNat l else (c.vsrc c.vimm d.toNat 2 l).setWidth 64),
    false, release, 0⟩

variable {op : Option Nat} {list d : BitVec 7} {wide release : Bool} {n : Nat}

theorem multi_of_allowed (hn : n = if wide then 8 else 4) (h : ∀ l, l < 32 → c.act.getLsbD l = true → c.listBad list.toNat l = false) :
    c.multi op list d wide release t = c.launch (c.multiOp op list d n release) 2 t := by
  have hnone : (laneList c.act).any (c.listBad list.toNat) = false := by
    rw [List.any_eq_false]
    intro l hl
    obtain ⟨hlt, ha⟩ := (mem_laneList c.act l).mp hl
    simp [h l hlt ha]
  subst hn
  unfold Ctx.multi
  rw [hnone, Bool.and_false]
  cases wide <;> rfl

theorem multi_of_bad {l : Nat} (hl : l < 32) (ha : c.act.getLsbD l = true) (h : c.listBad list.toNat l = true) :
    c.multi op list d wide release t = .trap (precise 0 0 c.word c.pc c.act c.act 0 0) := by
  have hany : (laneList c.act).any (c.listBad list.toNat) = true := List.any_eq_true.mpr ⟨l, (mem_laneList c.act l).mpr ⟨hl, ha⟩, h⟩
  unfold Ctx.multi
  rw [hany, decide_eq_true (lanes_ne_zero ha)]
  rfl

/-- A word that is a multi-destination store makes its access where its lists are allowed, and is ILLOP where one is not. -/
theorem issue_multi (hn : n = if wide then 8 else 4) (h : Issues i s c t) : let r := issue i s fun c t => c.multi op list d wide release t
    ((∀ l, l < 32 → c.act.getLsbD l = true → c.listBad list.toNat l = false) → Accesses r c t (c.multiOp op list d n release) 2) ∧
    ∀ l, l < 32 → c.act.getLsbD l = true → c.listBad list.toNat l = true → r = .next (s.trap c.w.id c.lanes (precise 0 0 c.word c.pc c.act c.act 0 0)) :=
  ⟨fun hgood => issue_launches h (multi_of_allowed hn hgood), fun _ hl ha hbad => issue_trap h (multi_of_bad hl ha hbad) (Nat.zero_ne_add_one 11)⟩

end

/-- The access of red (R339). -/
def Ctx.redOp (c : Ctx) (f : FmtRed) : MemOp := ⟨.atomic f.p.toNat (if f.w = 1 then 8 else 4) false, none, c.redLanes f (if f.w = 1 then 8 else 4), false, f.o = 2, 0⟩

theorem exec_red (f : FmtRed) (s : State) : exec (.red f) s = issue (.red f) s fun c t => c.launch (c.redOp f) 2 t := rfl

theorem exec_mcst (f : FmtMcst) (s : State) : exec (.mcst f) s = issue (.mcst f) s fun c t => c.multi none f.l f.d (f.w = 1) (f.o = 2) t := rfl

theorem exec_rdst (f : FmtRdst) (s : State) : exec (.rdst f) s = issue (.rdst f) s fun c t => c.multi (some f.p.toNat) f.l f.d (f.w = 1) (f.o = 2) t := rfl

/-- Settles O29: each word launches its access; a combined lane by whether an earlier one names its address; a destination list by its check. -/
theorem atomicsAccess : Obligations.AtomicsAccess := by
  unfold Obligations.AtomicsAccess
  refine ⟨?atom, ?acas, ?red, fun ls before after l => combined_at, ?mcst, ?rdst, fun c list n data x => mem_multiLanes⟩
  case atom =>
    intro f s t c op
    simp only [op, ← ea_zero]
    exact ⟨fun h => issue_launches h rfl, fun h => issue_launches h rfl⟩
  case acas =>
    intro f s t c h
    simp only [← ea_zero]
    refine issue_launches h ?_
    by_cases hw : f.w = 1
    · simp only [Ctx.casOp, hw, if_true]
      rfl
    · simp only [Ctx.casOp, hw, if_false]
      rfl
  case red =>
    intro f s t c h
    simp only [← ea_zero]
    rw [exec_red]
    exact issue_launches h rfl
  case mcst =>
    intro f s t c n h
    rw [exec_mcst]
    exact issue_multi (by simp [n]) h
  case rdst =>
    intro f s t c n h
    rw [exec_rdst]
    exact issue_multi (by simp [n]) h

end Sys2Proof.Machine
end

section
/-! PROOFS. The magnitudes of a floating-point format, and rounding to them (O19). -/

namespace Sys2Proof.Machine

/-! ### The formats (R209) -/

section
variable {f : FFmt}

theorem all_sound (hf : f ∈ FFmt.all) : 2 ≤ f.ebits ∧ 1 ≤ f.fbits ∧ f.fbits ≤ 52 := by
  simp only [FFmt.all, List.mem_cons, List.not_mem_nil, or_false] at hf
  obtain rfl | rfl | rfl | rfl := hf <;> decide

/-- The bits of an encoding below its sign: the place of its magnitude among the format's. -/
def FFmt.code (f : FFmt) (x : Nat) : Nat := x % 2 ^ f.top

theorem two_pow_top (f : FFmt) : 2 ^ f.top = 2 ^ f.fbits * 2 ^ f.ebits := by rw [FFmt.top, Nat.add_comm, Nat.pow_add]

theorem code_lt (f : FFmt) (x : Nat) : f.code x < 2 ^ f.top := Nat.mod_lt _ (Nat.two_pow_pos _)

theorem exp_eq_code (f : FFmt) (x : Nat) : f.exp x = f.code x / 2 ^ f.fbits := by
  rw [FFmt.exp, bitsOf, FFmt.code, two_pow_top, Nat.mod_mul_right_div_self]

theorem frac_eq_code (f : FFmt) (x : Nat) : f.frac x = f.code x % 2 ^ f.fbits := by
  rw [FFmt.frac, bitsOf, Nat.pow_zero, Nat.div_one, FFmt.code, two_pow_top, Nat.mod_mul_right_mod]

theorem exp_lt (f : FFmt) (x : Nat) : f.exp x < 2 ^ f.ebits := Nat.mod_lt _ (Nat.two_pow_pos _)

/-- The finite encodings are those whose code is below that of infinity. -/
theorem finite_iff (f : FFmt) (x : Nat) : f.finite x ↔ f.code x < f.infBits := by
  have hlt := exp_lt f x
  rw [FFmt.infBits, ← Nat.div_lt_iff_lt_mul (Nat.two_pow_pos _), ← exp_eq_code, FFmt.finite]
  omega

/-- The NaNs are the encodings whose code is above that of infinity. -/
theorem isNan_iff (f : FFmt) (x : Nat) : f.isNan x = true ↔ f.infBits < f.code x := by
  have hsplit := Nat.div_add_mod (f.code x) (2 ^ f.fbits)
  rw [← exp_eq_code, ← frac_eq_code, Nat.mul_comm] at hsplit
  have hfrac : f.frac x < 2 ^ f.fbits := Nat.mod_lt _ (Nat.two_pow_pos _)
  rw [FFmt.isNan, Bool.and_eq_true, decide_eq_true_eq, decide_eq_true_eq, FFmt.infBits, ← hsplit]
  constructor
  · rintro ⟨hexp, hne⟩
    rw [hexp]
    omega
  · intro h
    have hexp : ¬ f.exp x < 2 ^ f.ebits - 1 := fun hlow => by
      have := Nat.mul_le_mul_right (2 ^ f.fbits) (Nat.succ_le_of_lt hlow)
      rw [Nat.succ_mul] at this
      omega
    have hlt := exp_lt f x
    have heq : f.exp x = 2 ^ f.ebits - 1 := by omega
    rw [heq] at h
    exact ⟨heq, by omega⟩

theorem infBits_lt_top (f : FFmt) : f.infBits < 2 ^ f.top := by
  have hpos := Nat.two_pow_pos f.ebits
  rw [FFmt.infBits, two_pow_top, Nat.mul_comm]
  exact Nat.mul_lt_mul_of_pos_left (by omega) (Nat.two_pow_pos _)

theorem code_sign_add {k : Nat} (neg : Bool) (h : k < 2 ^ f.top) : f.code (f.sign neg + k) = k := by
  cases neg <;> simp [FFmt.code, FFmt.sign, Nat.mod_eq_of_lt h]

theorem neg_sign_add {k : Nat} (neg : Bool) (h : k < 2 ^ f.top) : f.neg (f.sign neg + k) = neg := by
  cases neg
  · simp [FFmt.neg, FFmt.sign, Nat.testBit_lt_two_pow h]
  · simp [FFmt.neg, FFmt.sign, Nat.testBit_two_pow_add_eq, Nat.testBit_lt_two_pow h]

theorem sign_add_lt {k : Nat} (neg : Bool) (h : k < 2 ^ f.top) : f.sign neg + k < 2 ^ (f.top + 1) := by
  rw [Nat.pow_succ]
  cases neg <;> simp only [FFmt.sign, Bool.false_eq_true, if_false, if_true] <;> omega

/-- An encoding is its sign and its code. -/
theorem sign_add_code {x : Nat} (h : x < 2 ^ (f.top + 1)) : f.sign (f.neg x) + f.code x = x := by
  have hdm := Nat.div_add_mod x (2 ^ f.top)
  have hdiv : x / 2 ^ f.top < 2 := Nat.div_lt_of_lt_mul (by rwa [← Nat.pow_succ])
  rw [FFmt.neg, Nat.testBit_eq_decide_div_mod_eq, Nat.mod_eq_of_lt hdiv, FFmt.code, FFmt.sign]
  obtain h0 | h1 := Nat.le_one_iff_eq_zero_or_eq_one.mp (Nat.le_of_lt_succ hdiv)
  · rw [h0] at hdm ⊢
    simpa using hdm
  · rw [h1] at hdm ⊢
    simpa using hdm

/-! ### The magnitudes in their order (R209) -/

/-- The exponent of the step from a magnitude to the next one, above the least. -/
def FFmt.step (f : FFmt) (k : Nat) : Nat := k / 2 ^ f.fbits - 1

/-- The magnitude of a code, of an exponent field without an upper end. -/
def FFmt.grid (f : FFmt) (k : Nat) : Rat := ((k - f.step k * 2 ^ f.fbits : Nat) : Rat) * 2 ^ (f.emin + f.step k)

/-- A code is its step and the multiple of it, which has a full mantissa above the least step. -/
theorem step_split (f : FFmt) (k : Nat) : ∃ n, k = f.step k * 2 ^ f.fbits + n ∧ n < 2 * 2 ^ f.fbits ∧ (f.step k = 0 ∨ 2 ^ f.fbits ≤ n) := by
  have hdm := Nat.div_add_mod k (2 ^ f.fbits)
  have hmod := Nat.mod_lt k (Nat.two_pow_pos f.fbits)
  unfold FFmt.step
  rcases h : k / 2 ^ f.fbits with - | e
  · rw [h] at hdm
    exact ⟨k, by simp, by omega, .inl rfl⟩
  · rw [h, Nat.mul_succ, Nat.mul_comm] at hdm
    exact ⟨2 ^ f.fbits + k % 2 ^ f.fbits, by rw [Nat.add_sub_cancel]; omega, by omega, .inr (by omega)⟩

theorem grid_eq {u n : Nat} (hn : n ≤ 2 * 2 ^ f.fbits) (h : u = 0 ∨ 2 ^ f.fbits ≤ n) : f.grid (u * 2 ^ f.fbits + n) = n * 2 ^ (f.emin + u) := by
  have hpos := Nat.two_pow_pos f.fbits
  have hstep (v m : Nat) (hm : m < 2 ^ f.fbits) : (v * 2 ^ f.fbits + m) / 2 ^ f.fbits = v := by
    rw [Nat.add_comm, Nat.add_mul_div_right _ _ hpos, Nat.div_eq_of_lt hm, Nat.zero_add]
  obtain hlow | hmid | htop : n < 2 ^ f.fbits ∨ (2 ^ f.fbits ≤ n ∧ n < 2 * 2 ^ f.fbits) ∨ n = 2 * 2 ^ f.fbits := by omega
  · obtain rfl : u = 0 := by omega
    simp [FFmt.grid, FFmt.step, Nat.div_eq_of_lt hlow]
  · have hs : f.step (u * 2 ^ f.fbits + n) = u := by
      rw [FFmt.step, show u * 2 ^ f.fbits + n = (u + 1) * 2 ^ f.fbits + (n - 2 ^ f.fbits) by rw [Nat.succ_mul]; omega, hstep _ _ (by omega), Nat.add_sub_cancel]
    rw [FFmt.grid, hs, Nat.add_sub_cancel_left]
  · have hs : f.step (u * 2 ^ f.fbits + n) = u + 1 := by
      rw [FFmt.step, show u * 2 ^ f.fbits + n = (u + 2) * 2 ^ f.fbits + 0 by rw [Nat.add_mul, htop]; rfl, hstep _ _ hpos]
      rfl
    rw [FFmt.grid, hs, show u * 2 ^ f.fbits + n - (u + 1) * 2 ^ f.fbits = 2 ^ f.fbits by rw [Nat.succ_mul]; omega, htop, Nat.cast_succ, ← add_assoc,
      zpow_add_one₀ two_ne_zero]
    push_cast
    ring

/-- Neighbouring magnitudes are one step apart. -/
theorem grid_succ (f : FFmt) (k : Nat) : f.grid (k + 1) = f.grid k + 2 ^ (f.emin + f.step k) := by
  obtain ⟨n, hk, hn, h⟩ := step_split f k
  have hnext : f.grid (k + 1) = (n + 1 : Nat) * 2 ^ (f.emin + f.step k) := by
    conv_lhs => rw [hk, Nat.add_assoc]
    exact grid_eq (by omega) (by omega)
  have hthis : f.grid k = n * 2 ^ (f.emin + f.step k) := by
    conv_lhs => rw [hk]
    exact grid_eq (by omega) h
  rw [hnext, hthis]
  push_cast
  ring

theorem grid_strictMono (f : FFmt) : StrictMono f.grid := strictMono_nat_of_lt_succ fun k => by
  rw [grid_succ]
  have : (0 : Rat) < 2 ^ (f.emin + f.step k) := by positivity
  linarith

theorem grid_zero (f : FFmt) : f.grid 0 = 0 := by simp [FFmt.grid, FFmt.step]

theorem grid_nonneg (f : FFmt) (k : Nat) : 0 ≤ f.grid k := by
  rw [← grid_zero f]
  exact (grid_strictMono f).monotone (Nat.zero_le k)

theorem bias_nonneg (f : FFmt) : 0 ≤ f.bias := by
  have : (1 : Int) ≤ 2 ^ (f.ebits - 1) := one_le_pow₀ one_le_two
  unfold FFmt.bias
  omega

/-- The magnitude that would follow the largest finite one is 2^(bias + 1). -/
theorem grid_infBits (hf : f ∈ FFmt.all) : f.grid f.infBits = 2 ^ (f.bias + 1) := by
  obtain ⟨heb, -⟩ := all_sound hf
  have hbits : 2 ^ f.ebits = 2 * 2 ^ (f.ebits - 1) := by rw [← Nat.pow_succ', Nat.succ_eq_add_one, Nat.sub_add_cancel (by omega)]
  have hpos := Nat.two_pow_pos (f.ebits - 1)
  have hsplit : f.infBits = (2 * 2 ^ (f.ebits - 1) - 2) * 2 ^ f.fbits + 2 ^ f.fbits := by
    rw [FFmt.infBits, hbits, ← Nat.succ_mul, Nat.succ_eq_add_one]
    congr 1
    omega
  rw [hsplit, grid_eq (by omega) (.inr le_rfl), Nat.cast_pow, Nat.cast_ofNat, ← zpow_natCast, ← zpow_add₀ two_ne_zero]
  congr 1
  rw [FFmt.emin, FFmt.bias, Nat.cast_sub (by omega)]
  push_cast
  ring

/-- A value as a rational: 0 of an infinity. -/
def FVal.mag : FVal → Rat
  | .inf _ => 0
  | .fin _ m e => m * 2 ^ e

theorem fin_mag_eq (m : Nat) (e : Int) : (if 0 ≤ e then ((m * 2 ^ e.toNat : Nat) : Rat) else (m : Rat) / (2 ^ (-e).toNat : Nat)) = m * 2 ^ e := by
  by_cases h : 0 ≤ e
  · rw [if_pos h]
    conv_rhs => rw [← Int.toNat_of_nonneg h]
    rw [zpow_natCast]
    push_cast
    rfl
  · rw [if_neg h]
    have hneg : e = -((-e).toNat : Int) := by omega
    conv_rhs => rw [hneg]
    rw [zpow_neg, zpow_natCast]
    push_cast
    rfl

theorem mag_eq_value (f : FFmt) (x : Nat) : f.mag x = (f.value x).mag := by
  unfold FFmt.mag
  cases f.value x with
  | inf n => rfl
  | fin n m e => exact fin_mag_eq m e

/-- The value of a finite encoding: its sign, and the magnitude of its code. -/
theorem value_of_finite {x : Nat} (h : f.finite x) : ∃ m e, f.value x = .fin (f.neg x) m e ∧ (m : Rat) * 2 ^ e = f.grid (f.code x) := by
  have hdm := Nat.div_add_mod (f.code x) (2 ^ f.fbits)
  have hmod := Nat.mod_lt (f.code x) (Nat.two_pow_pos f.fbits)
  unfold FFmt.value
  rw [if_neg h]
  by_cases hz : f.exp x = 0
  · rw [if_pos hz]
    refine ⟨_, _, rfl, ?_⟩
    rw [exp_eq_code] at hz
    rw [frac_eq_code, FFmt.grid, FFmt.step, hz]
    rw [hz, Nat.mul_zero, Nat.zero_add] at hdm
    simp [hdm]
  · rw [if_neg hz]
    refine ⟨_, _, rfl, ?_⟩
    rw [exp_eq_code] at hz ⊢
    rw [frac_eq_code, FFmt.grid, FFmt.step]
    obtain ⟨e, he⟩ := Nat.exists_eq_succ_of_ne_zero hz
    rw [he, Nat.succ_sub_one]
    rw [he, Nat.mul_succ, Nat.mul_comm] at hdm
    rw [show f.code x - e * 2 ^ f.fbits = 2 ^ f.fbits + f.code x % 2 ^ f.fbits by omega]
    congr 2
    push_cast
    ring

theorem value_of_infinite {x : Nat} (h : ¬f.finite x) : f.value x = .inf (f.neg x) := by
  unfold FFmt.value
  rw [if_pos (not_not.mp h)]

theorem mag_of_finite {x : Nat} (h : f.finite x) : f.mag x = f.grid (f.code x) := by
  obtain ⟨m, e, hv, hm⟩ := value_of_finite h
  rw [mag_eq_value, hv]
  exact hm

/-- The encodings below infinity are the finite magnitudes, each its own code. -/
theorem mag_of_lt {y : Nat} (h : y < f.infBits) : f.mag y = f.grid y := by
  have hcode : f.code y = y := Nat.mod_eq_of_lt (h.trans (infBits_lt_top f))
  rw [mag_of_finite ((finite_iff f y).mpr (by rwa [hcode])), hcode]

end

end Sys2Proof.Machine
end

section
/-! PROOFS. Rounding to a format's magnitudes (O19). -/

namespace Sys2Proof.Machine

/-! ### Ratios (R212) -/

theorem scale_ratio (p q : Nat) (k : Int) : ((scale p q k).1 : Rat) / (scale p q k).2 = p / q * 2 ^ k := by
  unfold scale
  by_cases h : 0 ≤ k
  · rw [if_pos h]
    conv_rhs => rw [← Int.toNat_of_nonneg h]
    rw [zpow_natCast]
    push_cast
    ring
  · have hneg : k = -((-k).toNat : Int) := by omega
    rw [if_neg h]
    conv_rhs => rw [hneg]
    rw [zpow_neg, zpow_natCast]
    push_cast
    field_simp

theorem scale_pos {p q : Nat} (k : Int) (hq : 0 < q) : 0 < (scale p q k).2 := by
  unfold scale
  split
  · exact hq
  · exact Nat.mul_pos hq (Nat.two_pow_pos _)

theorem two_zpow_pos (k : Int) : (0 : Rat) < 2 ^ k := zpow_pos two_pos k

/-- The logarithm's floor: the power of two just at or below the ratio. -/
theorem log2Ratio_spec {p q : Nat} (hp : 0 < p) (hq : 0 < q) :
    (2 : Rat) ^ log2Ratio p q ≤ (p : Rat) / q ∧ (p : Rat) / q < 2 ^ (log2Ratio p q + 1) := by
  have hq' : (0 : Rat) < q := Nat.cast_pos.mpr hq
  have low {n : Nat} (hn : 0 < n) : (2 : Rat) ^ ((Nat.log2 n : Nat) : Int) ≤ n := by
    rw [zpow_natCast]
    exact_mod_cast Nat.log2_self_le hn.ne'
  have high (n : Nat) : (n : Rat) < 2 ^ (((Nat.log2 n : Nat) : Int) + 1) := by
    rw [← Nat.cast_succ, zpow_natCast]
    exact_mod_cast Nat.lt_log2_self
  have hup : (p : Rat) / q < 2 ^ (((Nat.log2 p : Nat) : Int) - Nat.log2 q + 1) := by
    rw [div_lt_iff₀ hq']
    calc (p : Rat) < 2 ^ (((Nat.log2 p : Nat) : Int) + 1) := high p
      _ = 2 ^ (((Nat.log2 p : Nat) : Int) - Nat.log2 q + 1) * 2 ^ ((Nat.log2 q : Nat) : Int) := by rw [← zpow_add₀ two_ne_zero]; congr 1; ring
      _ ≤ _ := mul_le_mul_of_nonneg_left (low hq) (two_zpow_pos _).le
  have hdown : (2 : Rat) ^ (((Nat.log2 p : Nat) : Int) - Nat.log2 q - 1) < (p : Rat) / q := by
    rw [lt_div_iff₀ hq']
    calc (2 : Rat) ^ (((Nat.log2 p : Nat) : Int) - Nat.log2 q - 1) * q < 2 ^ (((Nat.log2 p : Nat) : Int) - Nat.log2 q - 1) * 2 ^ (((Nat.log2 q : Nat) : Int) + 1) :=
          mul_lt_mul_of_pos_left (high q) (two_zpow_pos _)
      _ = 2 ^ ((Nat.log2 p : Nat) : Int) := by rw [← zpow_add₀ two_ne_zero]; congr 1; ring
      _ ≤ p := low hp
  have hcmp (e : Int) : (scale p q (-e)).1 < (scale p q (-e)).2 ↔ (p : Rat) / q < 2 ^ e := by
    have hpos : (0 : Rat) < (scale p q (-e)).2 := Nat.cast_pos.mpr (scale_pos _ hq)
    rw [← Nat.cast_lt (α := Rat), ← div_lt_one hpos, scale_ratio, zpow_neg, ← div_eq_mul_inv, div_lt_one (two_zpow_pos e)]
  unfold log2Ratio
  simp only [hcmp]
  split
  · rename_i h
    exact ⟨hdown.le, by rwa [Int.sub_add_cancel]⟩
  · rename_i h
    exact ⟨not_lt.mp h, hup⟩

/-! ### The place of a magnitude among those of a format (R212, R213) -/

section
variable {f : FFmt}

/-- The magnitude `x` lies at the code `c` or between it and the next one. -/
def FFmt.At (f : FFmt) (c : Nat) (x : Rat) : Prop := f.grid c ≤ x ∧ x < f.grid (c + 1)

/-- Whether a magnitude at the code `c` is taken up to the next one. -/
def FFmt.goesUp (f : FFmt) (mode : RMode) (neg : Bool) (c : Nat) (x : Rat) : Prop :=
  match mode with
  | 0 => f.grid c + f.grid (c + 1) < 2 * x ∨ 2 * x = f.grid c + f.grid (c + 1) ∧ c % 2 = 1
  | 1 => False
  | 2 => neg = false ∧ f.grid c < x
  | _ => neg = true ∧ f.grid c < x

/-- The encoding of a sign and a code, whose exponent may be too great. -/
def FFmt.encode (f : FFmt) (mode : RMode) (neg : Bool) (k : Nat) : Nat := if f.infBits ≤ k then f.overflow mode neg else f.sign neg + k

/-- `r` is what a magnitude at the code `c` becomes. -/
def FFmt.Picks (f : FFmt) (mode : RMode) (neg : Bool) (c : Nat) (x : Rat) (r : Nat) : Prop :=
  (f.goesUp mode neg c x → r = f.encode mode neg (c + 1)) ∧ (¬f.goesUp mode neg c x → r = f.encode mode neg c)

/-- A magnitude lies at one code only. -/
theorem at_unique {c d : Nat} {x : Rat} (hc : f.At c x) (hd : f.At d x) : c = d := by
  have h1 := (grid_strictMono f).lt_iff_lt.mp (hc.1.trans_lt hd.2)
  have h2 := (grid_strictMono f).lt_iff_lt.mp (hd.1.trans_lt hc.2)
  omega

theorem picks_unique {mode : RMode} {neg : Bool} {c r r' : Nat} {x : Rat} (h : f.Picks mode neg c x r) (h' : f.Picks mode neg c x r') : r = r' := by
  by_cases hup : f.goesUp mode neg c x
  · rw [h.1 hup, h'.1 hup]
  · rw [h.2 hup, h'.2 hup]

/-- The remainder of the division by a step decides as the place between two codes does. -/
theorem roundsUp_iff (hf : f ∈ FFmt.all) {mode : RMode} {neg : Bool} {n r d c u : Nat} {x : Rat} {w : Rat} (hd : 0 < d) (hw : 0 < w)
    (hx : x = (n + (r : Rat) / d) * w) (hc : c = u * 2 ^ f.fbits + n) (hlow : f.grid c = n * w) (hhigh : f.grid (c + 1) = (n + 1 : Nat) * w) :
    roundsUp mode neg n r d = true ↔ f.goesUp mode neg c x := by
  have hd' : (0 : Rat) < d := Nat.cast_pos.mpr hd
  have hparity : c % 2 = n % 2 := by
    obtain ⟨b, hb⟩ : ∃ b, 2 ^ f.fbits = 2 * b := ⟨2 ^ (f.fbits - 1), by rw [← Nat.pow_succ', Nat.succ_eq_add_one, Nat.sub_add_cancel (all_sound hf).2.1]⟩
    rw [hc, hb, Nat.mul_left_comm]
    omega
  have hhalf : f.grid c + f.grid (c + 1) < 2 * x ↔ d < 2 * r := by
    have : 2 * x - (f.grid c + f.grid (c + 1)) = (2 * r - d) * (w / d) := by rw [hx, hlow, hhigh]; push_cast; field_simp; ring
    rw [← sub_pos, this, mul_pos_iff_of_pos_right (by positivity), sub_pos]
    exact_mod_cast Iff.rfl
  have htie : 2 * x = f.grid c + f.grid (c + 1) ↔ 2 * r = d := by
    have : 2 * x - (f.grid c + f.grid (c + 1)) = (2 * r - d) * (w / d) := by rw [hx, hlow, hhigh]; push_cast; field_simp; ring
    rw [← sub_eq_zero, this, mul_eq_zero, or_iff_left (by positivity), sub_eq_zero]
    exact_mod_cast Iff.rfl
  have habove : f.grid c < x ↔ r ≠ 0 := by
    have : x - f.grid c = r * (w / d) := by rw [hx, hlow]; field_simp; ring
    rw [← sub_pos, this, mul_pos_iff_of_pos_right (by positivity), Nat.cast_pos, Nat.pos_iff_ne_zero]
  unfold roundsUp FFmt.goesUp
  split <;> simp [hhalf, htie, habove, hparity]

/-- The exponent of the step that a positive ratio is rounded at (R212). -/
def FFmt.ulp (f : FFmt) (p q : Nat) : Int := max (log2Ratio p q - f.fbits) f.emin

theorem round_of_pos {mode : RMode} {neg : Bool} {p q : Nat} (hp : 0 < p) : let a := (scale p q (-f.ulp p q)).1
    let b := (scale p q (-f.ulp p q)).2
    f.round mode neg p q = f.encode mode neg ((f.ulp p q - f.emin).toNat * 2 ^ f.fbits + if roundsUp mode neg (a / b) (a % b) b then a / b + 1 else a / b) := by
  unfold FFmt.round
  rw [if_neg hp.ne']
  rfl

theorem infBits_pos (hf : f ∈ FFmt.all) : 0 < f.infBits := by
  obtain ⟨heb, -⟩ := all_sound hf
  exact Nat.mul_pos (Nat.sub_pos_of_lt (Nat.one_lt_two_pow (by omega))) (Nat.two_pow_pos _)

theorem not_goesUp_zero (f : FFmt) (mode : RMode) (neg : Bool) : ¬f.goesUp mode neg 0 0 := by
  have hone : (0 : Rat) < f.grid 1 := by
    rw [← grid_zero f]
    exact grid_strictMono f one_pos
  unfold FFmt.goesUp
  split
  · rw [grid_zero]
    rintro (h | h)
    · linarith
    · linarith [h.1]
  · exact id
  · simp [grid_zero]
  · simp [grid_zero]

/-- The mantissa that a ratio has at its step: within one bit more than the fraction, and full above the least step. -/
theorem ulp_mantissa {p q : Nat} (hp : 0 < p) (hq : 0 < q) : (p : Rat) / q * 2 ^ (-f.ulp p q) < 2 * 2 ^ f.fbits ∧
    (f.ulp p q = f.emin ∨ (2 : Rat) ^ f.fbits ≤ (p : Rat) / q * 2 ^ (-f.ulp p q)) := by
  obtain ⟨hlow, hhigh⟩ := log2Ratio_spec hp hq
  have hw := two_zpow_pos (f.ulp p q)
  rw [zpow_neg, ← div_eq_mul_inv, div_lt_iff₀ hw, le_div_iff₀ hw, ← zpow_natCast, ← zpow_one_add₀ two_ne_zero, ← zpow_add₀ two_ne_zero, ← zpow_add₀ two_ne_zero]
  refine ⟨hhigh.trans_le (zpow_le_zpow_right₀ one_le_two ?_), ?_⟩
  · have := le_max_left (log2Ratio p q - f.fbits) f.emin
    rw [FFmt.ulp]
    omega
  · by_cases hleast : f.ulp p q = f.emin
    · exact .inl hleast
    · right
      refine le_trans (zpow_le_zpow_right₀ one_le_two ?_) hlow
      unfold FFmt.ulp at hleast ⊢
      omega

/-- A ratio is its quotient and its remainder. -/
theorem div_add_mod_ratio (a : Nat) {b : Nat} (hb : 0 < b) : (a : Rat) / b = (a / b : Nat) + ((a % b : Nat) : Rat) / b ∧ ((a % b : Nat) : Rat) / b < 1 ∧ 0 ≤ ((a % b : Nat) : Rat) / b := by
  have hb' : (0 : Rat) < b := Nat.cast_pos.mpr hb
  refine ⟨?_, (div_lt_one hb').mpr (Nat.cast_lt.mpr (Nat.mod_lt a hb)), by positivity⟩
  rw [div_eq_iff hb'.ne', add_mul, div_mul_cancel₀ _ hb'.ne']
  exact_mod_cast (Nat.div_add_mod' a b).symm

/-- Rounding picks from the code at which a positive magnitude lies. -/
theorem round_picks_of_pos (hf : f ∈ FFmt.all) (mode : RMode) (neg : Bool) {p q : Nat} (hp : 0 < p) (hq : 0 < q) :
    ∃ c, f.At c ((p : Rat) / q) ∧ f.Picks mode neg c ((p : Rat) / q) (f.round mode neg p q) := by
  obtain ⟨hmantissa, hfull⟩ := ulp_mantissa (f := f) hp hq
  have hratio := scale_ratio p q (-f.ulp p q)
  have hround := round_of_pos (f := f) (mode := mode) (neg := neg) (q := q) hp
  have hb := scale_pos (p := p) (-f.ulp p q) hq
  generalize scale p q (-f.ulp p q) = ab at hratio hround hb
  obtain ⟨a, b⟩ := ab
  dsimp only at hratio hround hb
  have hw := two_zpow_pos (f.ulp p q)
  have hexp : f.emin + ((f.ulp p q - f.emin).toNat : Int) = f.ulp p q := by
    have hemin : f.emin ≤ f.ulp p q := le_max_right _ _
    rw [Int.toNat_of_nonneg (Int.sub_nonneg.mpr hemin), add_sub_cancel]
  have hx : (p : Rat) / q = (a : Rat) / b * 2 ^ f.ulp p q := by
    rw [hratio, mul_assoc, ← zpow_add₀ two_ne_zero, neg_add_cancel, zpow_zero, mul_one]
  obtain ⟨hsplit, hrem, hrem'⟩ := div_add_mod_ratio a hb
  rw [← hratio, hsplit] at hmantissa hfull
  have hn : a / b < 2 * 2 ^ f.fbits := by
    rw [← Nat.cast_lt (α := Rat)]
    push_cast
    linarith
  have hn' : (f.ulp p q - f.emin).toNat = 0 ∨ 2 ^ f.fbits ≤ a / b := by
    refine hfull.imp (fun h => by omega) fun h => ?_
    rw [← Nat.lt_add_one_iff, ← Nat.cast_lt (α := Rat)]
    push_cast
    linarith
  have hlow := grid_eq (f := f) hn.le hn'
  have hhigh : f.grid ((f.ulp p q - f.emin).toNat * 2 ^ f.fbits + a / b + 1) = (a / b + 1 : Nat) * 2 ^ (f.emin + ((f.ulp p q - f.emin).toNat : Int)) := by
    rw [Nat.add_assoc]
    exact grid_eq hn (by omega)
  rw [hexp] at hlow hhigh
  rw [hsplit] at hx
  have hiff := roundsUp_iff hf (mode := mode) (neg := neg) hb hw hx rfl hlow hhigh
  refine ⟨(f.ulp p q - f.emin).toNat * 2 ^ f.fbits + a / b, ⟨?_, ?_⟩, fun hup => ?_, fun hup => ?_⟩
  · rw [hlow, hx]
    exact mul_le_mul_of_nonneg_right (by linarith) hw.le
  · rw [hhigh, hx]
    refine mul_lt_mul_of_pos_right ?_ hw
    push_cast
    linarith
  · rw [hround, if_pos (hiff.mpr hup), Nat.add_assoc]
  · rw [hround, if_neg (fun h => hup (hiff.mp h))]

theorem round_picks (hf : f ∈ FFmt.all) (mode : RMode) (neg : Bool) (p : Nat) {q : Nat} (hq : 0 < q) :
    ∃ c, f.At c ((p : Rat) / q) ∧ f.Picks mode neg c ((p : Rat) / q) (f.round mode neg p q) := by
  obtain rfl | hp := Nat.eq_zero_or_pos p
  · have hzero : f.round mode neg 0 q = f.encode mode neg 0 := by
      rw [FFmt.round, if_pos rfl, FFmt.encode, if_neg (infBits_pos hf).not_ge]
      rfl
    rw [Nat.cast_zero, zero_div]
    refine ⟨0, ⟨(grid_zero f).le, ?_⟩, fun h => absurd h (not_goesUp_zero f mode neg), fun _ => hzero⟩
    rw [← grid_zero f]
    exact grid_strictMono f (Nat.lt_succ_self 0)
  · exact round_picks_of_pos hf mode neg hp hq

/-- Rounding sees a ratio alone, not the numbers that make it. -/
theorem round_congr (hf : f ∈ FFmt.all) (mode : RMode) (neg : Bool) {p q p' q' : Nat} (hq : 0 < q) (hq' : 0 < q') (h : (p : Rat) / q = p' / q') :
    f.round mode neg p q = f.round mode neg p' q' := by
  obtain ⟨c, hat, hpick⟩ := round_picks hf mode neg p hq
  obtain ⟨c', hat', hpick'⟩ := round_picks hf mode neg p' hq'
  rw [← h] at hat' hpick'
  rw [← at_unique hat hat'] at hpick'
  exact picks_unique hpick hpick'

/-! ### What the picked encoding is (R212, R213) -/

/-- A sign and a code up to that of infinity, as an encoding. -/
theorem sign_add_spec {j : Nat} (hf : f ∈ FFmt.all) (neg : Bool) (h : j ≤ f.infBits) : f.neg (f.sign neg + j) = neg ∧ f.sign neg + j < 2 ^ (f.top + 1) ∧
    (f.finite (f.sign neg + j) ↔ j < f.infBits) ∧ (f.sign neg + j = f.inf neg ↔ j = f.infBits) ∧ (j < f.infBits → f.mag (f.sign neg + j) = f.grid j) ∧
    (f.sign neg + j) % 2 = j % 2 := by
  have hlt : j < 2 ^ f.top := h.trans_lt (infBits_lt_top f)
  have hfinite : f.finite (f.sign neg + j) ↔ j < f.infBits := by rw [finite_iff, code_sign_add neg hlt]
  refine ⟨neg_sign_add neg hlt, sign_add_lt neg hlt, hfinite, by rw [FFmt.inf, Nat.add_left_cancel_iff], fun hj => ?_, ?_⟩
  · rw [mag_of_finite (hfinite.mpr hj), code_sign_add neg hlt]
  · have hsign : f.sign neg % 2 = 0 := by
      obtain ⟨b, hb⟩ : ∃ b, 2 ^ f.top = 2 * b := ⟨2 ^ (f.top - 1), by
        rw [← Nat.pow_succ', Nat.succ_eq_add_one, Nat.sub_add_cancel (show 1 ≤ f.top from le_trans (all_sound hf).2.1 (Nat.le_add_left _ _))]⟩
      unfold FFmt.sign
      split <;> omega
    omega

theorem mode_cases {mode : Nat} (h : mode ≤ 3) : mode = 0 ∨ mode = 1 ∨ mode = 2 ∨ mode = 3 := by omega

theorem encode_of_towardZero {mode : RMode} {neg : Bool} (h : towardZero mode neg) (k : Nat) (hf : f ∈ FFmt.all) : f.encode mode neg k = f.sign neg + min k (f.infBits - 1) := by
  have hpos := infBits_pos hf
  have hover : f.overflow mode neg = f.sign neg + f.infBits - 1 := by
    obtain rfl | ⟨rfl, rfl⟩ | ⟨rfl, rfl⟩ := h <;> rfl
  unfold FFmt.encode
  split
  · rw [hover, min_eq_right ((Nat.sub_le _ _).trans ‹_›)]
    omega
  · rw [min_eq_left (Nat.le_sub_one_of_lt (not_le.mp ‹_›))]

theorem encode_of_not_towardZero {mode : RMode} {neg : Bool} (hmode : mode ≤ 3) (h : ¬towardZero mode neg) (k : Nat) : f.encode mode neg k = f.sign neg + min k f.infBits := by
  have hover : f.overflow mode neg = f.sign neg + f.infBits := by
    obtain rfl | rfl | rfl | rfl := mode_cases hmode
    · rfl
    · exact absurd (.inl rfl) h
    · cases neg
      · rfl
      · exact absurd (.inr (.inl ⟨rfl, rfl⟩)) h
    · cases neg
      · exact absurd (.inr (.inr ⟨rfl, rfl⟩)) h
      · rfl
  unfold FFmt.encode
  split
  · rw [hover, min_eq_right ‹_›]
  · rw [min_eq_left (not_le.mp ‹_›).le]

variable {c : Nat} {x : Rat}

theorem le_of_grid_le (hat : f.At c x) {y : Nat} (h : f.grid y ≤ x) : y ≤ c :=
  Nat.lt_succ_iff.mp ((grid_strictMono f).lt_iff_lt.mp (h.trans_lt hat.2))

/-- The code picked to nearest is at least as near as every other, and even where another is as near. -/
theorem nearest_code (hat : f.At c x) {neg : Bool} {k : Nat} (hup : f.goesUp 0 neg c x → k = c + 1) (hdown : ¬f.goesUp 0 neg c x → k = c) (y : Nat) :
    size (f.grid k - x) ≤ size (f.grid y - x) ∧ (size (f.grid k - x) = size (f.grid y - x) → y = k ∨ k % 2 = 0) := by
  obtain ⟨hlow, hhigh⟩ := hat
  have hmono := (grid_strictMono f).monotone
  have hinj := (grid_strictMono f).injective
  have below {z : Nat} (h : f.grid z ≤ x) : size (f.grid z - x) = x - f.grid z := by rw [size, max_eq_right (by linarith)]; ring
  have above {z : Nat} (h : x ≤ f.grid z) : size (f.grid z - x) = f.grid z - x := by rw [size, max_eq_left (by linarith)]
  by_cases h : f.goesUp 0 neg c x
  · obtain rfl := hup h
    have hhalf : f.grid c + f.grid (c + 1) ≤ 2 * x ∧ (2 * x = f.grid c + f.grid (c + 1) → c % 2 = 1) := by
      obtain hlt | ⟨heq, hodd⟩ := h
      · exact ⟨hlt.le, fun heq => absurd heq hlt.ne'⟩
      · exact ⟨heq.ge, fun _ => hodd⟩
    rw [above hhigh.le]
    obtain hy | hy := Nat.lt_or_ge c y
    · have hge := hmono (Nat.succ_le_of_lt hy)
      rw [above (hhigh.le.trans hge)]
      exact ⟨by linarith, fun heq => .inl (hinj (by linarith))⟩
    · have hle := hmono hy
      rw [below (hle.trans hlow)]
      refine ⟨by linarith [hhalf.1], fun heq => .inr ?_⟩
      have := hhalf.2 (by linarith [hhalf.1])
      omega
  · obtain rfl := hdown h
    have hhalf : 2 * x ≤ f.grid k + f.grid (k + 1) ∧ (2 * x = f.grid k + f.grid (k + 1) → k % 2 = 0) := by
      obtain ⟨hlt, htie⟩ := not_or.mp h
      exact ⟨not_lt.mp hlt, fun heq => (Nat.mod_two_eq_zero_or_one k).resolve_right fun hodd => htie ⟨heq, hodd⟩⟩
    rw [below hlow]
    obtain hy | hy := Nat.lt_or_ge k y
    · have hge := hmono (Nat.succ_le_of_lt hy)
      rw [above (hhigh.le.trans hge)]
      exact ⟨by linarith [hhalf.1], fun heq => .inr (hhalf.2 (by linarith [hhalf.1]))⟩
    · have hle := hmono hy
      rw [below (hle.trans hlow)]
      exact ⟨by linarith, fun heq => .inl (hinj (by linarith))⟩

theorem infBits_even (hf : f ∈ FFmt.all) : f.infBits % 2 = 0 := by
  obtain ⟨-, hfb, -⟩ := all_sound hf
  have hpow : 2 ^ f.fbits = 2 * 2 ^ (f.fbits - 1) := by rw [← Nat.pow_succ', Nat.succ_eq_add_one, Nat.sub_add_cancel hfb]
  rw [FFmt.infBits, hpow, Nat.mul_left_comm, Nat.mul_mod_right]

/-- The code picked to nearest reaches that of infinity half a step above the largest finite one. -/
theorem infBits_le_nearest (hf : f ∈ FFmt.all) (hat : f.At c x) {neg : Bool} {k : Nat} (hup : f.goesUp 0 neg c x → k = c + 1) (hdown : ¬f.goesUp 0 neg c x → k = c) :
    f.infBits ≤ k ↔ f.grid (f.infBits - 1) + f.grid f.infBits ≤ 2 * x := by
  have hpos := infBits_pos hf
  have heven := infBits_even hf
  have hmono := (grid_strictMono f).monotone
  have hlast : f.grid (f.infBits - 1) < f.grid f.infBits := grid_strictMono f (by omega)
  obtain hc | hc | hc : c + 1 < f.infBits ∨ c + 1 = f.infBits ∨ f.infBits ≤ c := by omega
  · have hk : k ≤ c + 1 := by by_cases h : f.goesUp 0 neg c x <;> simp_all
    have hx := hat.2.trans_le (hmono (show c + 1 ≤ f.infBits - 1 by omega))
    exact ⟨fun h => by omega, fun h => by linarith⟩
  · have hgap : f.grid (f.infBits - 1) + f.grid f.infBits = f.grid c + f.grid (c + 1) := by rw [← hc, Nat.add_sub_cancel]
    rw [hgap]
    by_cases h : f.goesUp 0 neg c x
    · rw [hup h]
      exact ⟨fun _ => h.elim le_of_lt fun h => h.1.ge, fun _ => hc.ge⟩
    · rw [hdown h]
      refine ⟨fun h => by omega, fun hle => absurd ?_ h⟩
      exact hle.lt_or_eq.imp_right fun heq => ⟨heq.symm, by omega⟩
  · have hk : c ≤ k := by by_cases h : f.goesUp 0 neg c x <;> simp_all
    have hx := (hmono hc).trans hat.1
    exact ⟨fun _ => by linarith, fun _ => hc.trans hk⟩

/-- Away from zero, the code picked is the least whose magnitude is not below. -/
theorem away_code (hat : f.At c x) {mode : RMode} {neg : Bool} (hmode : mode ≤ 3) (h0 : mode ≠ 0) (haway : ¬towardZero mode neg) {k : Nat}
    (hup : f.goesUp mode neg c x → k = c + 1) (hdown : ¬f.goesUp mode neg c x → k = c) (y : Nat) : k ≤ y ↔ x ≤ f.grid y := by
  have hgoes : f.goesUp mode neg c x ↔ f.grid c < x := by
    obtain rfl | rfl | rfl := (mode_cases hmode).resolve_left h0
    · exact absurd (.inl rfl) haway
    · cases neg
      · simp [FFmt.goesUp]
      · exact absurd (.inr (.inl ⟨rfl, rfl⟩)) haway
    · cases neg
      · exact absurd (.inr (.inr ⟨rfl, rfl⟩)) haway
      · simp [FFmt.goesUp]
  have hmono := (grid_strictMono f).monotone
  rw [hgoes] at hup hdown
  by_cases hlt : f.grid c < x
  · rw [hup hlt]
    exact ⟨fun hy => hat.2.le.trans (hmono hy), fun hy => (grid_strictMono f).lt_iff_lt.mp (hlt.trans_le hy)⟩
  · rw [hdown hlt]
    exact ⟨fun hy => (not_lt.mp hlt).trans (hmono hy), fun hy => (grid_strictMono f).le_iff_le.mp (hat.1.trans hy)⟩

/-- Toward zero, nothing goes up. -/
theorem not_goesUp_towardZero {mode : RMode} {neg : Bool} (h : towardZero mode neg) : ¬f.goesUp mode neg c x := by
  obtain rfl | ⟨rfl, rfl⟩ | ⟨rfl, rfl⟩ := h <;> simp [FFmt.goesUp]

/-- What rounding picks is the magnitude rounded once. -/
theorem roundsTo_of_picks (hf : f ∈ FFmt.all) {mode : RMode} {neg : Bool} {r : Nat} (hmode : mode ≤ 3) (hat : f.At c x) (hpick : f.Picks mode neg c x r) : f.RoundsTo mode neg x r := by
  have hpos := infBits_pos hf
  have hmono := (grid_strictMono f).monotone
  obtain ⟨k, hr, hup, hdown⟩ : ∃ k, r = f.encode mode neg k ∧ (f.goesUp mode neg c x → k = c + 1) ∧ (¬f.goesUp mode neg c x → k = c) := by
    by_cases h : f.goesUp mode neg c x
    · exact ⟨c + 1, hpick.1 h, fun _ => rfl, fun hn => absurd h hn⟩
    · exact ⟨c, hpick.2 h, fun hn => absurd hn h, fun _ => rfl⟩
  have hmag {y : Nat} (hy : y < f.infBits) : f.mag y = f.grid y := mag_of_lt hy
  have hlargest : f.mag (f.largest false) = f.grid (f.infBits - 1) := by
    rw [FFmt.largest, FFmt.sign, if_neg Bool.false_ne_true, Nat.zero_add, hmag (by omega)]
  by_cases hzero : towardZero mode neg
  · have hk := hdown (not_goesUp_towardZero hzero)
    rw [encode_of_towardZero hzero k hf, hk] at hr
    obtain ⟨h1, h2, hfinite, -, hval, -⟩ := sign_add_spec hf neg ((Nat.min_le_right c _).trans (Nat.sub_le _ 1))
    have hlt : min c (f.infBits - 1) < f.infBits := by omega
    have hmode0 : mode ≠ 0 := by
      rintro rfl
      simp [towardZero] at hzero
    subst hr
    refine ⟨h1, h2, .inl (hfinite.mpr hlt), fun h => absurd h hmode0, fun _ => ⟨hfinite.mpr hlt, ?_, fun y hy hle => ?_⟩, fun _ h => absurd hzero h⟩
    · rw [hval hlt]
      exact (hmono (Nat.min_le_left _ _)).trans hat.1
    · rw [hval hlt, hmag hy]
      rw [hmag hy] at hle
      exact hmono (Nat.le_min.mpr ⟨le_of_grid_le hat hle, by omega⟩)
  · rw [encode_of_not_towardZero hmode hzero k] at hr
    obtain ⟨h1, h2, hfinite, hinf, hval, hparity⟩ := sign_add_spec hf neg (Nat.min_le_right k f.infBits)
    have hreach : min k f.infBits = f.infBits ↔ f.infBits ≤ k := by omega
    subst hr
    refine ⟨h1, h2, ?_, fun h0 => ⟨?_, fun hfin y hy => ?_⟩, fun h => absurd h hzero, fun h0 _ => ⟨?_, fun hfin => ⟨?_, fun y hy hle => ?_⟩⟩⟩
    · rw [hfinite, hinf]
      omega
    · subst h0
      have hsum : f.mag (f.largest false) + ((2 ^ (f.bias + 1).toNat : Nat) : Rat) = f.grid (f.infBits - 1) + f.grid f.infBits := by
        have hbias := bias_nonneg f
        rw [hlargest, grid_infBits hf, Nat.cast_pow, Nat.cast_ofNat, ← zpow_natCast, Int.toNat_of_nonneg (by omega)]
      rw [hinf, hreach, hsum]
      exact infBits_le_nearest hf hat hup hdown
    · subst h0
      rw [hfinite] at hfin
      have hk : min k f.infBits = k := by omega
      rw [hval hfin, hmag hy, hparity, hk]
      obtain ⟨hnear, htie⟩ := nearest_code hat hup hdown y
      exact ⟨hnear, fun heq => (htie heq).imp_left fun h => by rw [h]⟩
    · rw [hinf, hreach, hlargest, ← not_le, ← away_code hat hmode h0 hzero hup hdown]
      omega
    · rw [hfinite] at hfin
      rw [hval hfin, ← away_code hat hmode h0 hzero hup hdown]
      omega
    · rw [hfinite] at hfin
      rw [hmag hy, ← away_code hat hmode h0 hzero hup hdown] at hle
      rw [hval hfin, hmag hy]
      exact hmono (by omega)

/-- Rounding to a format gives the exact magnitude rounded once. -/
theorem round_roundsTo (hf : f ∈ FFmt.all) {mode : RMode} (neg : Bool) (p : Nat) {q : Nat} (hmode : mode ≤ 3) (hq : 0 < q) : f.RoundsTo mode neg ((p : Rat) / q) (f.round mode neg p q) := by
  obtain ⟨c, hat, hpick⟩ := round_picks hf mode neg p hq
  exact roundsTo_of_picks hf hmode hat hpick

end

end Sys2Proof.Machine
end

section
/-! PROOFS. What the exact operations give, and NaNs, infinities and flushes (O19). -/

namespace Sys2Proof.Machine

/-! ### The number that a value stands for -/

section
variable {f : FFmt} {x y : Nat}

/-- The number of a value: 0 of an infinity. -/
def FVal.number : FVal → Rat
  | .inf _ => 0
  | .fin n m e => (signed n m : Int) * 2 ^ e

theorem signed_cast (n : Bool) (m : Nat) : ((signed n m : Int) : Rat) = if n then -(m : Rat) else m := by
  cases n <;> simp [signed]

theorem number_fin (n : Bool) (m : Nat) (e : Int) : (FVal.fin n m e).number = if n then -((m : Rat) * 2 ^ e) else (m : Rat) * 2 ^ e := by
  rw [FVal.number, signed_cast]
  cases n <;> simp

theorem real_eq_number (h : f.finite x) : f.real x = (f.value x).number := by
  obtain ⟨m, e, hv, hm⟩ := value_of_finite h
  rw [FFmt.real, mag_of_finite h, hv, number_fin, hm]

theorem number_negate (v : FVal) : v.negate.number = -v.number := by
  cases v with
  | inf n => simp [FVal.negate, FVal.number]
  | fin n m e => cases n <;> simp [FVal.negate, number_fin]

/-- A result is the exact number `v`, with the sign `zero` where it is zero. -/
def FRes.Is (r : FRes) (zero : Bool) (v : Rat) : Prop :=
  ∃ neg p q, r = .rat neg p q ∧ 0 < q ∧ (p : Rat) / q = size v ∧ neg = if v = 0 then zero else decide (v < 0)

theorem size_eq_abs (v : Rat) : size v = |v| := rfl

/-- A magnitude with a sign is the number of that sign. -/
theorem rat_is {neg : Bool} {p q : Nat} {v : Rat} (hq : 0 < q) (h : v = if neg then -((p : Rat) / q) else (p : Rat) / q) : (FRes.rat neg p q).Is neg v := by
  have hnonneg : (0 : Rat) ≤ (p : Rat) / q := by positivity
  refine ⟨neg, p, q, rfl, hq, ?_, ?_⟩
  · rw [size_eq_abs, h]
    cases neg <;> simp [abs_of_nonneg hnonneg]
  · by_cases hz : v = 0
    · rw [if_pos hz]
    · rw [if_neg hz]
      cases neg
      · rw [h] at hz ⊢
        simpa using hnonneg
      · rw [h] at hz ⊢
        have : (p : Rat) / q ≠ 0 := by simpa using hz
        simpa using hnonneg.lt_of_ne' this

/-- A mantissa brought to a lesser exponent stands for the same number. -/
theorem number_scaled (n : Bool) (m : Nat) {e g : Int} (h : g ≤ e) : ((signed n (m * 2 ^ (e - g).toNat) : Int) : Rat) * 2 ^ g = (FVal.fin n m e).number := by
  have hpow : (2 : Rat) ^ (e - g).toNat * 2 ^ g = 2 ^ e := by
    rw [← zpow_natCast, Int.toNat_of_nonneg (by omega), ← zpow_add₀ two_ne_zero, Int.sub_add_cancel]
  rw [signed_cast, number_fin, ← hpow]
  push_cast
  cases n <;> simp [mul_assoc]

theorem exactSum_eq (mode : RMode) (n1 n2 : Bool) (m1 m2 : Nat) (e1 e2 : Int) : exactSum mode n1 m1 e1 n2 m2 e2 =
    if signed n1 (m1 * 2 ^ (e1 - min e1 e2).toNat) + signed n2 (m2 * 2 ^ (e2 - min e1 e2).toNat) = 0 then .rat (if n1 = n2 then n1 else decide (mode = 3)) 0 1
    else .rat (decide (signed n1 (m1 * 2 ^ (e1 - min e1 e2).toNat) + signed n2 (m2 * 2 ^ (e2 - min e1 e2).toNat) < 0))
      (scale (signed n1 (m1 * 2 ^ (e1 - min e1 e2).toNat) + signed n2 (m2 * 2 ^ (e2 - min e1 e2).toNat)).natAbs 1 (min e1 e2)).1
      (scale (signed n1 (m1 * 2 ^ (e1 - min e1 e2).toNat) + signed n2 (m2 * 2 ^ (e2 - min e1 e2).toNat)).natAbs 1 (min e1 e2)).2 := rfl

theorem exactSum_is (mode : RMode) (n1 n2 : Bool) (m1 m2 : Nat) (e1 e2 : Int) :
    (exactSum mode n1 m1 e1 n2 m2 e2).Is (if n1 = n2 then n1 else decide (mode = 3)) ((FVal.fin n1 m1 e1).number + (FVal.fin n2 m2 e2).number) := by
  rw [exactSum_eq, ← number_scaled n1 m1 (min_le_left e1 e2), ← number_scaled n2 m2 (min_le_right e1 e2), ← add_mul]
  generalize min e1 e2 = e
  generalize hs : signed n1 (m1 * 2 ^ (e1 - e).toNat) + signed n2 (m2 * 2 ^ (e2 - e).toNat) = s
  rw [← Int.cast_add, hs]
  have hw := two_zpow_pos e
  by_cases hz : s = 0
  · subst hz
    rw [if_pos rfl, Int.cast_zero, zero_mul]
    exact ⟨_, 0, 1, rfl, one_pos, by simp [size], (if_pos rfl).symm⟩
  · rw [if_neg hz]
    have hratio := scale_ratio s.natAbs 1 e
    have hpos := scale_pos (p := s.natAbs) e one_pos
    generalize scale s.natAbs 1 e = pq at hratio hpos
    refine ⟨_, _, _, rfl, hpos, ?_, ?_⟩
    · rw [hratio, size_eq_abs, abs_mul, abs_of_pos hw, Nat.cast_one, div_one, Nat.cast_natAbs, Int.cast_abs]
    · have hne : (s : Rat) * 2 ^ e ≠ 0 := mul_ne_zero (Int.cast_ne_zero.mpr hz) hw.ne'
      have hsign : (s : Rat) * 2 ^ e < 0 ↔ s < 0 := by
        rw [mul_neg_iff]
        simp [hw, hw.not_gt]
      rw [if_neg hne]
      simp only [hsign]

theorem res_is (n : Bool) (m : Nat) (e : Int) : (FVal.fin n m e).res.Is n (FVal.fin n m e).number := by
  have hratio := scale_ratio m 1 e
  rw [Nat.cast_one, div_one] at hratio
  refine rat_is (p := (scale m 1 e).1) (q := (scale m 1 e).2) (scale_pos e one_pos) ?_
  rw [hratio, number_fin]

theorem exactMul_is (n1 n2 : Bool) (m1 m2 : Nat) (e1 e2 : Int) :
    exactMul (.fin n1 m1 e1) (.fin n2 m2 e2) = some (.fin (n1 != n2) (m1 * m2) (e1 + e2)) ∧
    (FVal.fin (n1 != n2) (m1 * m2) (e1 + e2)).number = (FVal.fin n1 m1 e1).number * (FVal.fin n2 m2 e2).number := by
  refine ⟨rfl, ?_⟩
  simp only [number_fin, zpow_add₀ (two_ne_zero (α := Rat)), Nat.cast_mul]
  cases n1 <;> cases n2 <;> simp <;> ring

theorem exactDiv_is (n1 n2 : Bool) (m1 : Nat) {m2 : Nat} (e1 e2 : Int) (h : m2 ≠ 0) :
    (exactDiv (.fin n1 m1 e1) (.fin n2 m2 e2)).Is (n1 != n2) ((FVal.fin n1 m1 e1).number / (FVal.fin n2 m2 e2).number) := by
  have hratio := scale_ratio m1 m2 (e1 - e2)
  have hdiv : exactDiv (.fin n1 m1 e1) (.fin n2 m2 e2) = .rat (n1 != n2) (scale m1 m2 (e1 - e2)).1 (scale m1 m2 (e1 - e2)).2 := by
    simp only [exactDiv, if_neg h]
  have hpow : (2 : Rat) ^ e2 ≠ 0 := (two_zpow_pos e2).ne'
  rw [hdiv]
  refine rat_is (scale_pos _ (Nat.pos_of_ne_zero h)) ?_
  rw [hratio, number_fin, number_fin, zpow_sub₀ two_ne_zero, div_mul_div_comm]
  cases n1 <;> cases n2 <;> simp [neg_div, div_neg]

/-- An exact number is rounded once. -/
theorem finish_roundsTo (hf : f ∈ FFmt.all) {mode : RMode} (hmode : mode ≤ 3) {r : FRes} {zero : Bool} {v : Rat} (h : r.Is zero v) :
    f.RoundsTo mode (if v = 0 then zero else decide (v < 0)) (size v) (f.finish mode r) := by
  obtain ⟨neg, p, q, rfl, hq, hv, rfl⟩ := h
  rw [← hv]
  exact round_roundsTo hf _ p hmode hq

end

/-! ### Flushes, NaNs and infinities (R211, R215) -/

section
variable {f : FFmt} {c : Fpc} {mode : RMode} {a b d : Nat}

theorem flushes_iff (hf : f ∈ FFmt.all) : f.flushes = true ↔ f = f32 ∨ f = bf16 := by
  simp only [FFmt.all, List.mem_cons, List.not_mem_nil, or_false] at hf
  obtain rfl | rfl | rfl | rfl := hf <;> decide

theorem flush_eq (hf : f ∈ FFmt.all) (on : Bool) (x : Nat) : (if on && f.flushes && f.isSub x then f.zero (f.neg x) else x) =
    if on = true ∧ (f = f32 ∨ f = bf16) ∧ f.exp x = 0 ∧ f.frac x ≠ 0 then f.sign (f.neg x) else x := by
  simp only [← flushes_iff hf, FFmt.isSub, FFmt.zero, Bool.and_eq_true, decide_eq_true_eq, and_assoc]

theorem output_of_exp {r : Nat} (h : f.exp r ≠ 0) : c.output f r = r := by
  unfold Fpc.output FFmt.isSub
  rw [decide_eq_false h, Bool.false_and, Bool.and_false, if_neg Bool.false_ne_true]

theorem output_of_code {r : Nat} (h : 2 ^ f.fbits ≤ f.code r) : c.output f r = r := by
  apply output_of_exp
  rw [exp_eq_code]
  exact (Nat.div_pos h (Nat.two_pow_pos _)).ne'

theorem le_infBits (hf : f ∈ FFmt.all) : 2 ^ f.fbits ≤ f.infBits := by
  obtain ⟨heb, -⟩ := all_sound hf
  exact Nat.le_mul_of_pos_left _ (Nat.sub_pos_of_lt (Nat.one_lt_two_pow (by omega)))

theorem output_inf (hf : f ∈ FFmt.all) (n : Bool) : c.output f (f.inf n) = f.inf n :=
  output_of_code (by rw [FFmt.inf, code_sign_add n (infBits_lt_top f)]; exact le_infBits hf)

theorem output_nan (hf : f ∈ FFmt.all) : c.output f f.nan = f.nan := by
  obtain ⟨heb, hfb, -⟩ := all_sound hf
  have hlt : f.nan < 2 ^ f.top := by
    have hhalf : 2 ^ (f.fbits - 1) < 2 ^ f.fbits := Nat.pow_lt_pow_right (by decide) (by omega)
    have hsucc : (2 ^ f.ebits - 1) * 2 ^ f.fbits + 2 ^ f.fbits = 2 ^ f.top := by
      rw [← Nat.succ_mul, Nat.succ_eq_add_one, Nat.sub_add_cancel (Nat.two_pow_pos _), two_pow_top, Nat.mul_comm]
    rw [FFmt.nan, FFmt.infBits]
    omega
  refine output_of_code ?_
  rw [FFmt.code, Nat.mod_eq_of_lt hlt]
  exact (le_infBits hf).trans (Nat.le_add_right _ _)

theorem input_lt (ha : a < 2 ^ (f.top + 1)) : c.input f a < 2 ^ (f.top + 1) := by
  unfold Fpc.input
  split
  · exact sign_add_lt (k := 0) _ (Nat.two_pow_pos _)
  · exact ha

/-- The first NaN of some operands quieted, or the canonical one. -/
theorem nanOf_eq (c : Fpc) (f : FFmt) (xs : List Nat) : c.nanOf f xs =
    if c.nanp then (match xs.find? f.isNan with | some n => f.sign (f.neg n) + f.infBits + (f.frac n ||| 2 ^ (f.fbits - 1)) | none => f.nan) else f.nan := by
  unfold Fpc.nanOf
  congr 1
  cases xs.find? f.isNan with
  | none => rfl
  | some n => simp [quietAs]

theorem op1_of_nan {op : FVal → FRes} (h : f.isNan (c.input f a) = true) : c.op1 f mode op a = c.nanOf f [c.input f a] := if_pos h

theorem op1_of_number {op : FVal → FRes} (h : f.isNan (c.input f a) = false) :
    c.op1 f mode op a = c.output f (f.finish mode (op (f.value (c.input f a)))) := if_neg (by simp [h])

theorem op2_of_nan {op : FVal → FVal → FRes} (h : f.isNan (c.input f a) = true ∨ f.isNan (c.input f b) = true) :
    c.op2 f mode op a b = c.nanOf f [c.input f a, c.input f b] := if_pos (by simpa using h)

theorem op2_of_numbers {op : FVal → FVal → FRes} (ha : f.isNan (c.input f a) = false) (hb : f.isNan (c.input f b) = false) :
    c.op2 f mode op a b = c.output f (f.finish mode (op (f.value (c.input f a)) (f.value (c.input f b)))) := if_neg (by simp [ha, hb])

theorem op3_of_nan {op : FVal → FVal → FVal → FRes} (h : f.isNan (c.input f a) = true ∨ f.isNan (c.input f b) = true ∨ f.isNan (c.input f d) = true) :
    c.op3 f mode op a b d = c.nanOf f [c.input f a, c.input f b, c.input f d] := if_pos (by simpa [or_assoc] using h)

theorem op3_of_numbers {op : FVal → FVal → FVal → FRes} (ha : f.isNan (c.input f a) = false) (hb : f.isNan (c.input f b) = false) (hd : f.isNan (c.input f d) = false) :
    c.op3 f mode op a b d = c.output f (f.finish mode (op (f.value (c.input f a)) (f.value (c.input f b)) (f.value (c.input f d)))) := if_neg (by simp [ha, hb, hd])

theorem isNan_of_finite {x : Nat} (h : f.finite x) : f.isNan x = false := by
  rw [← Bool.not_eq_true, isNan_iff]
  exact ((finite_iff f x).mp h).le.not_gt

end

end Sys2Proof.Machine
end

section
/-! PROOFS. Comparison, minimum and maximum (O19). -/

namespace Sys2Proof.Machine

section
variable {f : FFmt} {x y : Nat}

/-! ### The order of encodings (R209, R210, R216, R278) -/

/-- The finite numbers of a format in their order, from the greatest negative magnitude to the greatest. -/
def FFmt.line (f : FFmt) : Int → Rat
  | .ofNat k => f.grid k
  | .negSucc k => -f.grid (k + 1)

theorem line_strictMono (f : FFmt) : StrictMono f.line := by
  refine strictMono_int_of_lt_succ fun k => ?_
  match k with
  | .ofNat k => exact grid_strictMono f (Nat.lt_succ_self k)
  | .negSucc 0 =>
    show -f.grid 1 < f.grid 0
    have := grid_strictMono f one_pos
    rw [grid_zero] at this ⊢
    linarith
  | .negSucc (k + 1) => exact neg_lt_neg (grid_strictMono f (Nat.lt_succ_self (k + 1)))

theorem line_ord (h : f.finite x) : f.line (f.ord x) = f.real x := by
  rw [FFmt.ord, FFmt.real, mag_of_finite h]
  cases f.neg x
  · rfl
  · show f.line (-(f.code x : Int)) = -f.grid (f.code x)
    rcases f.code x with - | k
    · show f.grid 0 = -f.grid 0
      rw [grid_zero, neg_zero]
    · rfl

/-- The order of two finite values, both ways. -/
theorem cmpVal_fin (n1 n2 : Bool) (m1 m2 : Nat) (e1 e2 : Int) :
    (cmpVal (.fin n1 m1 e1) (.fin n2 m2 e2) < 0 ↔ (FVal.fin n1 m1 e1).number < (FVal.fin n2 m2 e2).number) ∧
    (cmpVal (.fin n1 m1 e1) (.fin n2 m2 e2) = 0 ↔ (FVal.fin n1 m1 e1).number = (FVal.fin n2 m2 e2).number) := by
  rw [← number_scaled n1 m1 (min_le_left e1 e2), ← number_scaled n2 m2 (min_le_right e1 e2)]
  have hw := two_zpow_pos (min e1 e2)
  rw [mul_lt_mul_iff_left₀ hw, mul_left_inj' hw.ne', Int.cast_lt, Int.cast_inj]
  unfold cmpVal
  dsimp only
  split
  · omega
  · split <;> omega

theorem code_of_infinite (h : ¬f.finite x) (hn : f.isNan x = false) : f.code x = f.infBits := by
  rw [finite_iff] at h
  rw [← Bool.not_eq_true, isNan_iff] at hn
  omega

/-- Two encodings that are no NaN compare as their places in the order. -/
theorem cmpVal_ord (hx : f.isNan x = false) (hy : f.isNan y = false) (hf : f ∈ FFmt.all) :
    (cmpVal (f.value x) (f.value y) < 0 ↔ f.ord x < f.ord y) ∧ (cmpVal (f.value x) (f.value y) = 0 ↔ f.ord x = f.ord y) := by
  have hpos := infBits_pos hf
  have hord (z : Nat) : f.ord z = if f.neg z then -(f.code z : Int) else f.code z := rfl
  by_cases hxf : f.finite x <;> by_cases hyf : f.finite y
  · obtain ⟨m1, e1, hv1, -⟩ := value_of_finite hxf
    obtain ⟨m2, e2, hv2, -⟩ := value_of_finite hyf
    have hmono := line_strictMono f
    rw [← hmono.lt_iff_lt (a := f.ord x), ← hmono.injective.eq_iff (a := f.ord x), line_ord hxf, line_ord hyf, real_eq_number hxf, real_eq_number hyf, hv1, hv2]
    exact cmpVal_fin _ _ _ _ _ _
  · obtain ⟨m1, e1, hv1, -⟩ := value_of_finite hxf
    have hlt := (finite_iff f x).mp hxf
    rw [hv1, value_of_infinite hyf, hord, hord, code_of_infinite hyf hy]
    cases f.neg x <;> cases f.neg y <;> simp [cmpVal] <;> omega
  · obtain ⟨m2, e2, hv2, -⟩ := value_of_finite hyf
    have hlt := (finite_iff f y).mp hyf
    rw [hv2, value_of_infinite hxf, hord, hord, code_of_infinite hxf hx]
    cases f.neg x <;> cases f.neg y <;> simp [cmpVal] <;> omega
  · rw [value_of_infinite hxf, value_of_infinite hyf, hord, hord, code_of_infinite hxf hx, code_of_infinite hyf hy]
    cases f.neg x <;> cases f.neg y <;> simp [cmpVal] <;> omega

/-- Encodings of one place and one sign are one. -/
theorem eq_of_ord_eq (hx : x < 2 ^ (f.top + 1)) (hy : y < 2 ^ (f.top + 1)) (hord : f.ord x = f.ord y) (hneg : f.neg x = f.neg y) : x = y := by
  have hcode : f.code x = f.code y := by
    unfold FFmt.ord at hord
    rw [hneg] at hord
    unfold FFmt.code
    split at hord <;> omega
  rw [← sign_add_code hx, ← sign_add_code hy, hneg, hcode]

variable {c : Fpc} {a b : Nat}

/-- The eight conditions, of operands compared by their places (R278, R299). -/
theorem compare_conditions (hf : f ∈ FFmt.all) (hx : c.input f a = x) (hy : c.input f b = y) : let un : Bool := f.isNan x || f.isNan y
    ((List.range 8).map fun code => c.compare f code a b) = [!un && decide (f.ord x = f.ord y), un || decide (f.ord x ≠ f.ord y), !un && decide (f.ord x < f.ord y), !un && decide (f.ord x ≤ f.ord y),
      !un && decide (f.ord y < f.ord x), !un && decide (f.ord y ≤ f.ord x), !un, un] := by
  intro un
  subst hx hy
  show [c.compare f 0 a b, c.compare f 1 a b, c.compare f 2 a b, c.compare f 3 a b, c.compare f 4 a b, c.compare f 5 a b, c.compare f 6 a b, c.compare f 7 a b] = _
  unfold Fpc.compare
  dsimp only
  by_cases hun : un = true
  · simp [show (f.isNan (c.input f a) || f.isNan (c.input f b)) = true from hun, hun]
  · have hun' : (f.isNan (c.input f a) || f.isNan (c.input f b)) = false := by simpa [un] using hun
    obtain ⟨hlt, heq⟩ := cmpVal_ord (Bool.or_eq_false_iff.mp hun').1 (Bool.or_eq_false_iff.mp hun').2 hf
    have hle : cmpVal (f.value (c.input f a)) (f.value (c.input f b)) ≤ 0 ↔ f.ord (c.input f a) ≤ f.ord (c.input f b) := by omega
    have hgt : cmpVal (f.value (c.input f a)) (f.value (c.input f b)) > 0 ↔ f.ord (c.input f b) < f.ord (c.input f a) := by omega
    have hge : cmpVal (f.value (c.input f a)) (f.value (c.input f b)) ≥ 0 ↔ f.ord (c.input f b) ≤ f.ord (c.input f a) := by omega
    simp [hun', un, hlt, heq, hle, hgt, hge]

/-- The minimum or maximum of two numbers (R216). -/
theorem pick_of_numbers (hf : f ∈ FFmt.all) (ha : a < 2 ^ (f.top + 1)) (hb : b < 2 ^ (f.top + 1)) (hx : c.input f a = x) (hy : c.input f b = y)
    (hxn : f.isNan x = false) (hyn : f.isNan y = false) (least : Bool) : c.pick f least a b =
      c.output f (if (if least then f.ord x < f.ord y else f.ord y < f.ord x) ∨ f.ord x = f.ord y ∧ (c.minmax = true ∨ f.neg x = least) then x else y) := by
  obtain ⟨hlt, heq⟩ := cmpVal_ord hxn hyn hf
  have hxlt : x < 2 ^ (f.top + 1) := hx ▸ input_lt ha
  have hylt : y < 2 ^ (f.top + 1) := hy ▸ input_lt hb
  unfold Fpc.pick
  simp only [hx, hy, hxn, hyn, heq, hlt, Bool.or_self, Bool.false_eq_true, if_false]
  congr 1
  by_cases he : f.ord x = f.ord y
  · by_cases hs : f.neg x = f.neg y
    · rw [eq_of_ord_eq hxlt hylt he hs, ite_self, ite_self]
    · cases least <;> simp [he, hs]
  · have hle : f.ord y ≤ f.ord x ↔ f.ord y < f.ord x := by omega
    cases least <;> simp [he, hle]

/-- The minimum or maximum where an operand is a NaN (R216). -/
theorem pick_of_nan (h : f.isNan (c.input f a) = true ∨ f.isNan (c.input f b) = true) (least : Bool) : c.pick f least a b =
    if c.minmax = true ∧ f.isNan (c.input f a) = false then c.output f (c.input f a)
    else if c.minmax = true ∧ f.isNan (c.input f b) = false then c.output f (c.input f b) else c.nanOf f [c.input f a, c.input f b] := by
  unfold Fpc.pick
  rw [if_pos (by simpa using h)]
  simp only [Bool.and_eq_true, Bool.not_eq_true']

end

end Sys2Proof.Machine
end

section
/-! PROOFS. Conversions of floating-point numbers (O19). -/

namespace Sys2Proof.Machine

/-! ### To integers (R212, R218) -/

section
variable {mode : RMode} {n : Nat} {t : Rat}

/-- `t` is a remainder in (0, 1) or nothing; the integer beside `n` + `t` that a mode takes for a sign. -/
theorem roundsUp_ratio (mode : RMode) (neg : Bool) (n r : Nat) {d : Nat} (hd : 0 < d) (ht : t = (r : Rat) / d) :
    roundsUp mode neg n r d = true ↔ match mode with
      | 0 => 1 < 2 * t ∨ 2 * t = 1 ∧ n % 2 = 1
      | 1 => False
      | 2 => neg = false ∧ t ≠ 0
      | _ => neg = true ∧ t ≠ 0 := by
  have hd' : (0 : Rat) < d := Nat.cast_pos.mpr hd
  have hlt : 1 < 2 * t ↔ d < 2 * r := by
    rw [ht, ← mul_div_assoc, one_lt_div hd']
    exact_mod_cast Iff.rfl
  have heq : 2 * t = 1 ↔ 2 * r = d := by
    rw [ht, ← mul_div_assoc, div_eq_one_iff_eq hd'.ne']
    exact_mod_cast Iff.rfl
  have hz : t ≠ 0 ↔ r ≠ 0 := by
    rw [ht, Ne, div_eq_zero_iff, or_iff_left hd'.ne', Nat.cast_eq_zero]
  unfold roundsUp
  split <;> simp [hlt, heq, hz]

theorem roundInt_eq (mode : RMode) (neg : Bool) (m : Nat) (e : Int) : ∃ (n : Nat) (t : Rat), 0 ≤ t ∧ t < 1 ∧ (m : Rat) * 2 ^ e = n + t ∧
    ∃ up : Bool, roundInt mode neg m e = signed neg (if up then n + 1 else n) ∧ (up = true ↔ match mode with
      | 0 => 1 < 2 * t ∨ 2 * t = 1 ∧ n % 2 = 1
      | 1 => False
      | 2 => neg = false ∧ t ≠ 0
      | _ => neg = true ∧ t ≠ 0) := by
  have hratio := scale_ratio m 1 e
  rw [Nat.cast_one, div_one] at hratio
  have hpos := scale_pos (p := m) e one_pos
  obtain ⟨hsplit, hlt, hnonneg⟩ := div_add_mod_ratio (scale m 1 e).1 hpos
  exact ⟨_, _, hnonneg, hlt, hratio.symm.trans hsplit, _, rfl, roundsUp_ratio mode neg _ _ hpos rfl⟩

/-- The nearest integer to `n` + `t`, even where two are as near. -/
theorem nearest_int {up : Bool} (h0 : 0 ≤ t) (h1 : t < 1) (hup : up = true ↔ 1 < 2 * t ∨ 2 * t = 1 ∧ n % 2 = 1) :
    2 * |((if up then n + 1 else n : Nat) : Rat) - (n + t)| ≤ 1 ∧ (2 * |((if up then n + 1 else n : Nat) : Rat) - (n + t)| = 1 → (if up then n + 1 else n) % 2 = 0) := by
  cases up
  · obtain ⟨hle, htie⟩ := not_or.mp (mt hup.mpr Bool.false_ne_true)
    have habs : |((if false then n + 1 else n : Nat) : Rat) - (n + t)| = t := by
      rw [if_neg Bool.false_ne_true, sub_add_cancel_left, abs_neg, abs_of_nonneg h0]
    rw [habs]
    exact ⟨not_lt.mp hle, fun heq => (Nat.mod_two_eq_zero_or_one n).resolve_right fun hodd => htie ⟨heq, hodd⟩⟩
  · have habs : |((if true then n + 1 else n : Nat) : Rat) - (n + t)| = 1 - t := by
      rw [if_pos rfl, Nat.cast_succ, add_sub_add_left_eq_sub, abs_of_pos (by linarith)]
    rw [habs]
    obtain hlt | ⟨heq, hodd⟩ := hup.mp rfl
    · exact ⟨by linarith, fun h => absurd h (by linarith)⟩
    · refine ⟨by linarith, fun _ => ?_⟩
      rw [if_pos rfl]
      omega

/-- A value rounded to an integer is the integer of its mode. -/
theorem roundInt_rounds (hmode : mode ≤ 3) (neg : Bool) (m : Nat) (e : Int) : IntRounds mode (FVal.fin neg m e).number (roundInt mode neg m e) := by
  obtain ⟨n, t, h0, h1, hval, up, hk, hup⟩ := roundInt_eq mode neg m e
  have hn : (0 : Rat) ≤ n := Nat.cast_nonneg n
  rw [hk, number_fin, hval]
  unfold IntRounds
  rw [signed_cast]
  obtain rfl | rfl | rfl | rfl := mode_cases hmode
  · refine ⟨fun _ => ?_, by simp, by simp, by simp⟩
    obtain ⟨hnear, htie⟩ := nearest_int h0 h1 hup
    cases neg
    · refine ⟨hnear, fun h => ?_⟩
      have := htie h
      simp only [signed, Bool.false_eq_true, if_false]
      omega
    · have hsize (a b : Rat) : size (-a - -b) = |a - b| := by rw [size_eq_abs, neg_sub_neg, abs_sub_comm]
      simp only [if_true, hsize]
      refine ⟨hnear, fun h => ?_⟩
      have := htie h
      simp only [signed, if_true]
      omega
  · have hdown : up = false := by simpa using hup
    refine ⟨by simp, fun _ => ?_, by simp, by simp⟩
    have hle : (0 : Rat) ≤ n * (n + t) := mul_nonneg hn (by linarith)
    have hsize : (n : Rat) ≤ n + t ∧ (n : Rat) + t < n + 1 := ⟨by linarith, by linarith⟩
    cases neg <;> simpa only [hdown, Bool.false_eq_true, if_true, if_false, size_eq_abs, abs_neg, neg_mul_neg, abs_of_nonneg hn, abs_of_nonneg (add_nonneg hn h0)]
      using ⟨hsize.1, hsize.2, hle⟩
  · refine ⟨by simp, by simp, fun _ => ?_, by simp⟩
    cases neg
    · obtain hz | hz := eq_or_ne t 0
      · simp_all
      · have := h0.lt_of_ne' hz
        simp_all
        linarith
    · have hdown : up = false := by simpa using hup
      simp [hdown, h0]
      linarith
  · refine ⟨by simp, by simp, by simp, fun _ => ?_⟩
    cases neg
    · have hdown : up = false := by simpa using hup
      simp [hdown, h0, h1]
    · obtain hz | hz := eq_or_ne t 0
      · simp_all
      · have := h0.lt_of_ne' hz
        simp_all
        linarith

variable {f : FFmt} {c : Fpc} {sat signed : Bool} {a : Nat}

/-- What a floating-point number beyond an integer type, or a NaN, becomes: under F2I, which a sat hint overrides, the top bit; else `k` (R218). -/
def Fpc.beyond (c : Fpc) (sat : Bool) (n : Nat) (k : Int) : Int := if c.f2i = true ∧ sat = false then 2 ^ (n - 1) else k

theorem legacy_eq (k : Int) : (if c.f2i && !sat then legacyInt n else k) = c.beyond sat n k := by
  simp [Fpc.beyond, legacyInt]

theorem toInt_of_nan (h : f.isNan (c.input f a) = true) : c.toInt f mode sat signed n a = intBits signed n (c.beyond sat n 0) := by
  unfold Fpc.toInt
  simp only [h, if_true, legacy_eq]

theorem toInt_of_infinite (hn : f.isNan (c.input f a) = false) (h : ¬f.finite (c.input f a)) :
    c.toInt f mode sat signed n a = intBits signed n (c.beyond sat n (if f.neg (c.input f a) then intMin signed n else intMax signed n)) := by
  unfold Fpc.toInt
  simp only [hn, value_of_infinite h, Bool.false_eq_true, if_false, legacy_eq]

theorem toInt_of_finite (hmode : mode ≤ 3) (h : f.finite (c.input f a)) (hrange : intMin signed n ≤ intMax signed n) : ∃ k, IntRounds mode (f.real (c.input f a)) k ∧
    c.toInt f mode sat signed n a = intBits signed n (if intMin signed n ≤ k ∧ k ≤ intMax signed n then k else c.beyond sat n (if k < intMin signed n then intMin signed n else intMax signed n)) := by
  obtain ⟨m, e, hv, -⟩ := value_of_finite h
  refine ⟨roundInt mode (f.neg (c.input f a)) m e, ?_, ?_⟩
  · rw [real_eq_number h, hv]
    exact roundInt_rounds hmode _ m e
  · unfold Fpc.toInt
    simp only [isNan_of_finite h, hv, Bool.false_eq_true, if_false, legacy_eq]
    generalize roundInt mode (f.neg (c.input f a)) m e = k
    by_cases hk : intMin signed n ≤ k ∧ k ≤ intMax signed n
    · rw [if_pos hk, if_pos hk]
    · have hclamp : clampInt signed n k = if k < intMin signed n then intMin signed n else intMax signed n := by
        unfold clampInt
        split <;> omega
      rw [if_neg hk, if_neg hk, hclamp]

end

/-! ### To other formats (R221) -/

section
variable {f g : FFmt} {c : Fpc} {mode : RMode} {a : Nat}

theorem toFloat_of_finite (hg : g ∈ FFmt.all) (hmode : mode ≤ 3) (h : f.finite (c.input f a)) :
    ∃ r, g.RoundsTo mode (f.neg (c.input f a)) (f.mag (c.input f a)) r ∧ c.toFloat f g mode a = c.output g r := by
  obtain ⟨m, e, hv, hm⟩ := value_of_finite h
  have hratio := scale_ratio m 1 e
  rw [Nat.cast_one, div_one, hm, ← mag_of_finite h] at hratio
  refine ⟨g.round mode (f.neg (c.input f a)) (scale m 1 e).1 (scale m 1 e).2, ?_, ?_⟩
  · rw [← hratio]
    exact round_roundsTo hg _ _ hmode (scale_pos e one_pos)
  · unfold Fpc.toFloat
    simp only [isNan_of_finite h, hv, Bool.false_eq_true, if_false]
    rfl

theorem toFloat_of_infinite (hg : g ∈ FFmt.all) (hn : f.isNan (c.input f a) = false) (h : ¬f.finite (c.input f a)) :
    c.toFloat f g mode a = g.inf (f.neg (c.input f a)) := by
  unfold Fpc.toFloat
  simp only [hn, value_of_infinite h, Bool.false_eq_true, if_false]
  exact output_inf hg _

theorem toFloat_of_nan (h : f.isNan (c.input f a) = true) : c.toFloat f g mode a = if c.nanp then quietAs f g (c.input f a) else g.nan := by
  unfold Fpc.toFloat
  simp only [h, if_true]

end

/-! ### Division (R217, R298) -/

section
variable {f : FFmt} {mode : RMode}

/-- A quotient by one operand sees the other's number alone. -/
theorem finish_div_congr (hf : f ∈ FFmt.all) {n : Bool} {m m' : Nat} {e e' : Int} (hm : m ≠ 0) (hm' : m' ≠ 0) (h : (m : Rat) * 2 ^ e = m' * 2 ^ e') (v : FVal) :
    f.finish mode (exactDiv (.fin n m e) v) = f.finish mode (exactDiv (.fin n m' e') v) := by
  cases v with
  | inf n2 => rfl
  | fin n2 m2 e2 =>
    by_cases hz : m2 = 0
    · simp only [exactDiv, hz, hm, hm', if_true, if_false]
    · have hdiv (m : Nat) (e : Int) : f.finish mode (exactDiv (.fin n m e) (.fin n2 m2 e2)) = f.round mode (n != n2) (scale m m2 (e - e2)).1 (scale m m2 (e - e2)).2 := by
        simp only [exactDiv, if_neg hz]
        rfl
      have hpos : 0 < m2 := Nat.pos_of_ne_zero hz
      rw [hdiv, hdiv]
      refine round_congr hf mode _ (scale_pos _ hpos) (scale_pos _ hpos) ?_
      rw [scale_ratio, scale_ratio, zpow_sub₀ two_ne_zero, zpow_sub₀ two_ne_zero, div_mul_div_comm, div_mul_div_comm, h]

/-- The encoding of 1.0, which no flush changes. -/
theorem value_one : f32.value 0x3F800000 = .fin false (2 ^ 23) (-23) ∧ f32.isNan 0x3F800000 = false ∧ f32.isSub 0x3F800000 = false := by decide

/-- A reciprocal is the quotient of 1.0 by its operand. -/
theorem recip_eq_div (c : Fpc) (b : Nat) : c.op1 f32 mode (fun v => exactDiv (.fin false 1 0) v) b = c.div f32 mode 0x3F800000 b := by
  obtain ⟨hvalue, hnum, hsub⟩ := value_one
  have hinput : c.input f32 0x3F800000 = 0x3F800000 := by
    unfold Fpc.input
    rw [hsub, Bool.and_false, if_neg Bool.false_ne_true]
  unfold Fpc.div
  by_cases hb : f32.isNan (c.input f32 b) = true
  · rw [op1_of_nan hb, op2_of_nan (.inr hb), hinput]
    simp only [Fpc.nanOf, List.find?_cons, hnum]
  · have hb' : f32.isNan (c.input f32 b) = false := by simpa using hb
    rw [op1_of_number hb', op2_of_numbers (by rw [hinput]; exact hnum) hb', hinput, hvalue,
      finish_div_congr (m' := 2 ^ 23) (e := 0) (e' := -23) (by decide) one_ne_zero (by decide) (by norm_num)]

end

end Sys2Proof.Machine
end

section
/-! PROOFS. The square root, rounded once (O19). -/

namespace Sys2Proof.Machine

/-! ### The integer root -/

theorem isqrtFrom_spec {n : Nat} (k r : Nat) (hlow : r * r ≤ n) (hhigh : n < (r + 2 ^ k) * (r + 2 ^ k)) :
    isqrtFrom n k r * isqrtFrom n k r ≤ n ∧ n < (isqrtFrom n k r + 1) * (isqrtFrom n k r + 1) := by
  induction k generalizing r with
  | zero => exact ⟨hlow, hhigh⟩
  | succ k ih =>
    rw [isqrtFrom]
    by_cases h : (r + 2 ^ k) * (r + 2 ^ k) ≤ n
    · rw [if_pos h]
      refine ih _ h ?_
      rwa [Nat.add_assoc, ← Nat.two_mul, ← Nat.pow_succ']
    · rw [if_neg h]
      exact ih _ hlow (not_le.mp h)

theorem isqrt_spec (n : Nat) : isqrt n * isqrt n ≤ n ∧ n < (isqrt n + 1) * (isqrt n + 1) := by
  refine isqrtFrom_spec _ 0 (Nat.zero_le n) ?_
  rw [Nat.zero_add, ← Nat.pow_add]
  exact Nat.lt_log2_self.trans_le (Nat.pow_le_pow_right (by decide) (by omega))

/-! ### The number that stands for a root (R298) -/

/-- `X` lies on the same side of every multiple of 2^e as the root of `x`. -/
def StandsForRoot (e : Int) (X x : Rat) : Prop :=
  ∀ k : Nat, ((k : Rat) * 2 ^ e ≤ X ↔ (k * 2 ^ e) * (k * 2 ^ e) ≤ x) ∧ (X ≤ k * 2 ^ e ↔ x ≤ (k * 2 ^ e) * (k * 2 ^ e))

theorem standsForRoot (n : Nat) (e : Int) : StandsForRoot e ((if isqrt n * isqrt n = n then 2 * isqrt n else 2 * isqrt n + 1 : Nat) / 2 * 2 ^ e) (n * (2 ^ e * 2 ^ e)) := by
  obtain ⟨hlow, hhigh⟩ := isqrt_spec n
  have hw := two_zpow_pos e
  intro k
  have hsquare : (k : Rat) * 2 ^ e * (k * 2 ^ e) = ((k * k : Nat) : Rat) * (2 ^ e * 2 ^ e) := by push_cast; ring
  rw [hsquare, mul_le_mul_iff_left₀ hw, mul_le_mul_iff_left₀ hw, mul_le_mul_iff_left₀ (mul_pos hw hw), mul_le_mul_iff_left₀ (mul_pos hw hw), le_div_iff₀ two_pos,
    div_le_iff₀ two_pos]
  generalize isqrt n = r at *
  have hle : k * k ≤ n ↔ k ≤ r := by
    constructor
    · intro h
      exact Nat.lt_succ_iff.mp (Nat.mul_self_lt_mul_self_iff.mp (h.trans_lt hhigh))
    · intro h
      exact (Nat.mul_self_le_mul_self h).trans hlow
  have hge : n ≤ k * k ↔ if r * r = n then r ≤ k else r < k := by
    split
    · rename_i h
      rw [← h, Nat.mul_self_le_mul_self_iff]
    · rename_i h
      constructor
      · intro hk
        exact Nat.mul_self_lt_mul_self_iff.mp ((lt_of_le_of_ne hlow h).trans_le hk)
      · intro hk
        exact hhigh.le.trans (Nat.mul_self_le_mul_self hk)
  rw [Nat.cast_le, Nat.cast_le, hle, hge]
  constructor
  · rw [← Nat.cast_ofNat (R := Rat), ← Nat.cast_mul, Nat.cast_le]
    split <;> omega
  · rw [← Nat.cast_ofNat (R := Rat), ← Nat.cast_mul, Nat.cast_le]
    split <;> omega

/-- The exact root of a positive value: a number that stands for it at multiples of a unit far below it. -/
theorem exactSqrt_fin {m : Nat} (hm : m ≠ 0) (e : Int) : ∃ (p q : Nat) (g : Int), exactSqrt (.fin false m e) = .rat false p q ∧ 0 < q ∧
    StandsForRoot g ((p : Rat) / q) (m * 2 ^ e) ∧ (2 : Rat) ^ ((rootBits : Int) + g) ≤ (p : Rat) / q := by
  obtain ⟨m', g, hroot, hvalue, hbig⟩ : ∃ (m' : Nat) (g : Int), exactSqrt (.fin false m e) =
      .rat false (scale (if isqrt m' * isqrt m' = m' then 2 * isqrt m' else 2 * isqrt m' + 1) 2 g).1 (scale (if isqrt m' * isqrt m' = m' then 2 * isqrt m' else 2 * isqrt m' + 1) 2 g).2 ∧
      (m : Rat) * 2 ^ e = m' * (2 ^ g * 2 ^ g) ∧ 2 ^ rootBits * 2 ^ rootBits ≤ m' := by
    refine ⟨(if e % 2 = 1 then 2 * m else m) * 2 ^ (2 * rootBits), (if e % 2 = 1 then e - 1 else e) / 2 - rootBits, ?_, ?_, ?_⟩
    · simp only [exactSqrt, if_neg hm, Bool.false_eq_true, if_false]
    · have hpow (d : Int) (hd : d % 2 = 0) : (2 : Rat) ^ (2 * rootBits) * (2 ^ (d / 2 - rootBits) * 2 ^ (d / 2 - rootBits)) = 2 ^ d := by
        rw [← zpow_natCast, ← zpow_add₀ two_ne_zero, ← zpow_add₀ two_ne_zero]
        congr 1
        push_cast
        omega
      push_cast
      rw [mul_assoc, hpow _ (by split <;> omega)]
      split
      · rw [zpow_sub_one₀ two_ne_zero]
        field_simp
      · rfl
    · rw [← Nat.pow_add, ← Nat.two_mul]
      have hpos : 0 < m := Nat.pos_of_ne_zero hm
      refine Nat.le_mul_of_pos_left _ ?_
      split
      · exact Nat.mul_pos two_pos hpos
      · exact hpos
  have hratio := scale_ratio (if isqrt m' * isqrt m' = m' then 2 * isqrt m' else 2 * isqrt m' + 1) 2 g
  rw [Nat.cast_ofNat] at hratio
  refine ⟨_, _, g, hroot, scale_pos g two_pos, ?_, ?_⟩
  · rw [hratio, hvalue]
    exact standsForRoot m' g
  · have hlarge : 2 ^ rootBits ≤ isqrt m' := Nat.lt_succ_iff.mp (Nat.mul_self_lt_mul_self_iff.mp (hbig.trans_lt (isqrt_spec m').2))
    have hhalf : ((2 ^ rootBits : Nat) : Rat) ≤ (if isqrt m' * isqrt m' = m' then 2 * isqrt m' else 2 * isqrt m' + 1 : Nat) / 2 := by
      rw [le_div_iff₀ two_pos, ← Nat.cast_ofNat (R := Rat), ← Nat.cast_mul, Nat.cast_le]
      split <;> omega
    rw [hratio, zpow_add₀ two_ne_zero]
    refine mul_le_mul_of_nonneg_right ?_ (two_zpow_pos g).le
    exact_mod_cast hhalf

/-! ### The root at its code (R298) -/

section
variable {f : FFmt} {c : Nat} {X x : Rat}

/-- The two codes beside a root's number, and the middle between them, lie at it as at the root itself. -/
theorem root_at (hf : f ∈ FFmt.all) {g : Int} (hroot : StandsForRoot g X x) (hbig : (2 : Rat) ^ ((rootBits : Int) + g) ≤ X) (hat : f.At c X) :
    ∀ t, t = f.grid c ∨ t = f.grid (c + 1) ∨ t = (f.grid c + f.grid (c + 1)) / 2 → (t ≤ X ↔ t * t ≤ x) ∧ (X ≤ t ↔ x ≤ t * t) := by
  obtain ⟨-, -, hfb⟩ := all_sound hf
  obtain ⟨n, hc, hn, hfull⟩ := step_split f c
  have hlow : f.grid c = n * 2 ^ (f.emin + f.step c) := by
    conv_lhs => rw [hc]
    exact grid_eq hn.le hfull
  have hhigh : f.grid (c + 1) = (n + 1 : Nat) * 2 ^ (f.emin + f.step c) := by
    rw [grid_succ, hlow]
    push_cast
    ring
  have hfine : g ≤ f.emin + f.step c - 1 := by
    have hlt : (2 : Rat) ^ ((rootBits : Int) + g) < 2 ^ (1 + (f.fbits : Int) + (f.emin + f.step c)) := by
      refine hbig.trans_lt (hat.2.trans_le ?_)
      rw [hhigh, zpow_add₀ two_ne_zero (1 + (f.fbits : Int)), zpow_add₀ two_ne_zero 1, zpow_one, zpow_natCast]
      refine mul_le_mul_of_nonneg_right ?_ (two_zpow_pos _).le
      exact_mod_cast hn
    have hroot : rootBits = 160 := rfl
    have := (zpow_lt_zpow_iff_right₀ one_lt_two).mp hlt
    omega
  obtain ⟨j, hj⟩ := Int.eq_ofNat_of_zero_le (Int.sub_nonneg.mpr hfine)
  have hunit : (2 : Rat) ^ (f.emin + f.step c) = (2 * 2 ^ j : Nat) * 2 ^ g := by
    rw [show f.emin + (f.step c : Int) = 1 + (j : Int) + g by omega, zpow_add₀ two_ne_zero, zpow_add₀ two_ne_zero, zpow_one, zpow_natCast]
    push_cast
    rfl
  rw [hunit] at hlow hhigh
  rintro t (rfl | rfl | rfl)
  · have := hroot (n * (2 * 2 ^ j))
    rwa [Nat.cast_mul, mul_assoc, ← hlow] at this
  · have := hroot ((n + 1) * (2 * 2 ^ j))
    rwa [Nat.cast_mul, mul_assoc, ← hhigh] at this
  · have hmid : (f.grid c + f.grid (c + 1)) / 2 = ((2 * n + 1) * 2 ^ j : Nat) * 2 ^ g := by
      rw [hlow, hhigh]
      push_cast
      ring
    rw [hmid]
    exact hroot _

/-- The next magnitude is at most the double. -/
theorem grid_succ_le {k : Nat} (hk : 0 < k) : f.grid (k + 1) ≤ 2 * f.grid k := by
  obtain ⟨n, hsplit, hn, hfull⟩ := step_split f k
  have hpos := Nat.two_pow_pos f.fbits
  have hone : (1 : Rat) ≤ n := by
    rw [Nat.one_le_cast]
    obtain hz | hle := hfull
    · rw [hz, Nat.zero_mul, Nat.zero_add] at hsplit
      omega
    · omega
  have hthis : f.grid k = n * 2 ^ (f.emin + f.step k) := by
    conv_lhs => rw [hsplit]
    exact grid_eq hn.le hfull
  have hle := mul_le_mul_of_nonneg_right hone (two_zpow_pos (f.emin + f.step k)).le
  rw [grid_succ, hthis]
  linarith

/-- The root of a positive finite number lies between the least normal magnitude and the codes that are infinite. -/
theorem root_in_range (hf : f ∈ FFmt.all) {a : Nat} (ha : a < f.infBits) (hpos : 0 < f.grid a) (hlow : f.grid c * f.grid c ≤ f.grid a) (hhigh : f.grid a < f.grid (c + 1) * f.grid (c + 1)) :
    2 ^ f.fbits ≤ c ∧ c + 1 < f.infBits := by
  have hmono := grid_strictMono f
  have hspan : (f.fbits : Int) + 1 ≤ f.bias := by
    simp only [FFmt.all, List.mem_cons, List.not_mem_nil, or_false] at hf
    obtain rfl | rfl | rfl | rfl := hf <;> decide
  have htop := grid_infBits hf
  constructor
  · by_contra hc
    have hnormal : f.grid (2 ^ f.fbits) = 2 ^ ((f.fbits : Int) + f.emin) := by
      have := grid_eq (f := f) (u := 0) (n := 2 ^ f.fbits) (by omega) (.inl rfl)
      rw [Nat.zero_mul, Nat.zero_add, Nat.cast_zero, add_zero] at this
      rw [this, zpow_add₀ two_ne_zero, zpow_natCast, Nat.cast_pow, Nat.cast_ofNat]
    have hleast : f.grid 1 = 2 ^ f.emin := by
      have := grid_eq (f := f) (u := 0) (n := 1) (by have := Nat.two_pow_pos f.fbits; omega) (.inl rfl)
      simpa using this
    have ha1 : 1 ≤ a := Nat.pos_of_ne_zero fun h => by simp [h, grid_zero] at hpos
    have hroot : f.grid (c + 1) ≤ 2 ^ ((f.fbits : Int) + f.emin) := hnormal ▸ hmono.monotone (Nat.succ_le_of_lt (not_le.mp hc))
    have hsquare := mul_self_le_mul_self (grid_nonneg f (c + 1)) hroot
    rw [← zpow_add₀ two_ne_zero] at hsquare
    have hexp : (2 : Rat) ^ ((f.fbits : Int) + f.emin + (f.fbits + f.emin)) ≤ 2 ^ f.emin := zpow_le_zpow_right₀ one_le_two (by unfold FFmt.emin; omega)
    have := hmono.monotone ha1
    rw [hleast] at this
    linarith
  · by_contra hc
    have hI := infBits_pos hf
    have hfbits := le_infBits hf
    have htwo : 1 < 2 ^ f.fbits := Nat.one_lt_two_pow (by have := (all_sound hf).2.1; omega)
    have hdouble := grid_succ_le (f := f) (k := f.infBits - 1) (by omega)
    rw [Nat.sub_add_cancel (by omega), htop, zpow_add_one₀ two_ne_zero] at hdouble
    have hroot : (2 : Rat) ^ f.bias ≤ f.grid c := le_trans (by linarith) (hmono.monotone (show f.infBits - 1 ≤ c by omega))
    have hsquare := mul_self_le_mul_self (two_zpow_pos f.bias).le hroot
    rw [← zpow_add₀ two_ne_zero] at hsquare
    have hexp : (2 : Rat) ^ (f.bias + 1) ≤ 2 ^ (f.bias + f.bias) := zpow_le_zpow_right₀ one_le_two (by omega)
    have := hmono ha
    linarith

/-- The code that a root is rounded to. -/
theorem sqrt_code (hf : f ∈ FFmt.all) (mode : RMode) (fpc : Fpc) {a : Nat} (hfin : f.finite (fpc.input f a)) (hpos : 0 < f.real (fpc.input f a)) :
    ∃ (c k : Nat) (X : Rat), fpc.sqrt f mode a = k ∧ f.At c X ∧ (f.goesUp mode false c X → k = c + 1) ∧ (¬f.goesUp mode false c X → k = c) ∧ k < f.infBits ∧
      ∀ t, t = f.grid c ∨ t = f.grid (c + 1) ∨ t = (f.grid c + f.grid (c + 1)) / 2 → (t ≤ X ↔ t * t ≤ f.mag (fpc.input f a)) ∧ (X ≤ t ↔ f.mag (fpc.input f a) ≤ t * t) := by
  generalize hx : fpc.input f a = x at *
  obtain ⟨m, e, hv, hm⟩ := value_of_finite hfin
  have hgrid := grid_nonneg f (f.code x)
  rw [FFmt.real, mag_of_finite hfin] at hpos
  have hneg : f.neg x = false := by
    by_contra h
    rw [if_pos (by simpa using h)] at hpos
    linarith
  rw [hneg, if_neg Bool.false_ne_true] at hpos
  have hm0 : m ≠ 0 := by
    rintro rfl
    rw [← hm] at hpos
    simp at hpos
  obtain ⟨p, q, g, hsqrt, hq, hroot, hbig⟩ := exactSqrt_fin hm0 e
  rw [hm] at hroot
  obtain ⟨c, hat, hup, hdown⟩ := round_picks hf mode false p hq
  have hside := root_at hf hroot hbig hat
  obtain ⟨hnormal, hfinite⟩ := root_in_range hf ((finite_iff f x).mp hfin) hpos ((hside _ (.inl rfl)).1.mp hat.1)
    (not_le.mp fun h => hat.2.not_ge ((hside _ (.inr (.inl rfl))).1.mpr h))
  have hresult : fpc.sqrt f mode a = fpc.output f (f.round mode false p q) := by
    unfold Fpc.sqrt
    rw [op1_of_number (by rw [hx]; exact isNan_of_finite hfin), hx, hv, hneg, hsqrt]
    rfl
  have hencode {k : Nat} (h1 : c ≤ k) (h2 : k ≤ c + 1) (hr : f.round mode false p q = f.encode mode false k) : fpc.sqrt f mode a = k := by
    rw [hresult, hr, FFmt.encode, if_neg (by omega), FFmt.sign, if_neg Bool.false_ne_true, Nat.zero_add]
    refine output_of_code ?_
    rw [FFmt.code, Nat.mod_eq_of_lt ((infBits_lt_top f).trans' (by omega))]
    omega
  rw [mag_of_finite hfin]
  by_cases h : f.goesUp mode false c ((p : Rat) / q)
  · exact ⟨c, c + 1, _, hencode (Nat.le_succ c) le_rfl (hup h), hat, fun _ => rfl, fun hn => absurd h hn, hfinite, hside⟩
  · exact ⟨c, c, _, hencode le_rfl (Nat.le_succ c) (hdown h), hat, fun hn => absurd hn h, fun _ => rfl, by omega, hside⟩

/-- A square root of a positive finite number is the root rounded once. -/
theorem sqrt_rounds (hf : f ∈ FFmt.all) {mode : RMode} {fpc : Fpc} {a : Nat} (hfin : f.finite (fpc.input f a)) (hpos : 0 < f.real (fpc.input f a)) :
    let r := fpc.sqrt f mode a
    let x := fpc.input f a
    f.finite r ∧ f.neg r = false ∧ ∀ y < f.infBits,
      (mode = 0 → (f.mag r < f.mag y → 4 * f.mag x ≤ (f.mag r + f.mag y) * (f.mag r + f.mag y)) ∧ (f.mag y < f.mag r → (f.mag r + f.mag y) * (f.mag r + f.mag y) ≤ 4 * f.mag x)) ∧
      (mode = 1 ∨ mode = 3 → f.mag r * f.mag r ≤ f.mag x ∧ (f.mag y * f.mag y ≤ f.mag x → f.mag y ≤ f.mag r)) ∧
      (mode = 2 → f.mag x ≤ f.mag r * f.mag r ∧ (f.mag x ≤ f.mag y * f.mag y → f.mag r ≤ f.mag y)) := by
  intro r x
  obtain ⟨c, k, X, hr, hat, hup, hdown, hk, hside⟩ := sqrt_code hf mode fpc hfin hpos
  have hcode : f.code r = k := by rw [show r = k from hr, FFmt.code, Nat.mod_eq_of_lt (hk.trans (infBits_lt_top f))]
  have hrfin : f.finite r := (finite_iff f r).mpr (by rwa [hcode])
  have hrneg : f.neg r = false := by
    have := neg_sign_add (f := f) false (hk.trans (infBits_lt_top f))
    rwa [FFmt.sign, if_neg Bool.false_ne_true, Nat.zero_add, ← hr] at this
  refine ⟨hrfin, hrneg, fun y hy => ?_⟩
  rw [mag_of_finite hrfin, hcode, mag_of_lt hy]
  have hnonneg := grid_nonneg f
  have hmono := grid_strictMono f
  generalize f.mag x = v at *
  obtain ⟨hle0, hge0⟩ := hside _ (.inl rfl)
  obtain ⟨hle1, hge1⟩ := hside _ (.inr (.inl rfl))
  obtain ⟨hleM, hgeM⟩ := hside _ (.inr (.inr rfl))
  have hlow : f.grid c * f.grid c ≤ v := hle0.mp hat.1
  have hhigh : v < f.grid (c + 1) * f.grid (c + 1) := not_le.mp fun h => hat.2.not_ge (hle1.mpr h)
  refine ⟨?_, ?_, ?_⟩
  · rintro rfl
    by_cases hgoes : f.goesUp 0 false c X
    · rw [hup hgoes]
      have hmid := hleM.mp (show (f.grid c + f.grid (c + 1)) / 2 ≤ X by obtain h | h := hgoes <;> linarith)
      refine ⟨fun hlt => ?_, fun hlt => ?_⟩
      · have := mul_self_le_mul_self (add_nonneg (hnonneg (c + 1)) (hnonneg (c + 1))) (add_le_add le_rfl hlt.le)
        linarith
      · have hy : y ≤ c := Nat.lt_succ_iff.mp (hmono.lt_iff_lt.mp hlt)
        have := mul_self_le_mul_self (add_nonneg (hnonneg (c + 1)) (hnonneg y)) (add_le_add le_rfl (hmono.monotone hy))
        linarith
    · rw [hdown hgoes]
      have hmid := hgeM.mp (show X ≤ (f.grid c + f.grid (c + 1)) / 2 by have := not_lt.mp (not_or.mp hgoes).1; linarith)
      refine ⟨fun hlt => ?_, fun hlt => ?_⟩
      · have hy : c + 1 ≤ y := hmono.lt_iff_lt.mp hlt
        have := mul_self_le_mul_self (add_nonneg (hnonneg c) (hnonneg (c + 1))) (add_le_add le_rfl (hmono.monotone hy))
        linarith
      · have := mul_self_le_mul_self (add_nonneg (hnonneg c) (hnonneg y)) (add_le_add le_rfl hlt.le)
        linarith
  · intro hmode
    have hgoes : ¬f.goesUp mode false c X := by obtain rfl | rfl := hmode <;> simp [FFmt.goesUp]
    rw [hdown hgoes]
    refine ⟨hlow, fun hsq => hmono.monotone (Nat.lt_succ_iff.mp (hmono.lt_iff_lt.mp ?_))⟩
    exact lt_of_mul_self_lt_mul_self₀ (hnonneg (c + 1)) (hsq.trans_lt hhigh)
  · rintro rfl
    by_cases hgoes : f.goesUp 2 false c X
    · rw [hup hgoes]
      refine ⟨hhigh.le, fun hsq => hmono.monotone (hmono.lt_iff_lt.mp ?_)⟩
      have hlt : f.grid c * f.grid c < v := not_le.mp fun h => hgoes.2.not_ge (hge0.mpr h)
      exact lt_of_mul_self_lt_mul_self₀ (hnonneg y) (hlt.trans_le hsq)
    · rw [hdown hgoes]
      have hx : X ≤ f.grid c := by simpa [FFmt.goesUp] using hgoes
      exact ⟨hge0.mp hx, fun hsq => (mul_self_le_mul_self_iff (hnonneg c) (hnonneg y)).mpr (hlow.trans hsq)⟩

end

end Sys2Proof.Machine
end

section
/-! PROOFS. What the floating-point operations give (O19). -/

namespace Sys2Proof.Machine

section
variable {f : FFmt} {c : Fpc} {mode : RMode} {a b d : Nat}

/-! ### Sums, products and quotients of finite numbers (R212, R213, R298) -/

/-- `r` is the exact number `v` rounded once, and flushed under FOUT; of a zero the sign is `zero`. -/
def Fpc.Once (c : Fpc) (f : FFmt) (mode : RMode) (zero : Bool) (v : Rat) (r : Nat) : Prop :=
  ∃ n, f.RoundsTo mode (if v = 0 then zero else decide (v < 0)) (size v) n ∧ r = c.output f n

/-- The sign of an exact zero sum of two signs (R213). -/
def sumSign (mode : RMode) (n m : Bool) : Bool := if n = m then n else decide (mode = 3)

theorem once_of_is (hf : f ∈ FFmt.all) (hmode : mode ≤ 3) {r : FRes} {zero : Bool} {v : Rat} (h : r.Is zero v) : c.Once f mode zero v (c.output f (f.finish mode r)) :=
  ⟨_, finish_roundsTo hf hmode h, rfl⟩

theorem exactAdd_is (mode : RMode) {x y : Nat} (hx : f.finite x) (hy : f.finite y) : (exactAdd mode (f.value x) (f.value y)).Is (sumSign mode (f.neg x) (f.neg y)) (f.real x + f.real y) ∧
    (exactAdd mode (f.value x) (f.value y).negate).Is (sumSign mode (f.neg x) (!f.neg y)) (f.real x - f.real y) := by
  obtain ⟨m1, e1, hv1, -⟩ := value_of_finite hx
  obtain ⟨m2, e2, hv2, -⟩ := value_of_finite hy
  rw [real_eq_number hx, real_eq_number hy, sub_eq_add_neg, ← number_negate, hv1, hv2]
  exact ⟨exactSum_is _ _ _ _ _ _ _, exactSum_is _ _ _ _ _ _ _⟩

/-- A product of finite numbers, as a value. -/
theorem exactMul_of_finite {x y : Nat} (hx : f.finite x) (hy : f.finite y) : ∃ m e, exactMul (f.value x) (f.value y) = some (.fin (f.neg x != f.neg y) m e) ∧
    (FVal.fin (f.neg x != f.neg y) m e).number = f.real x * f.real y := by
  obtain ⟨m1, e1, hv1, -⟩ := value_of_finite hx
  obtain ⟨m2, e2, hv2, -⟩ := value_of_finite hy
  rw [real_eq_number hx, real_eq_number hy, hv1, hv2]
  exact ⟨_, _, exactMul_is _ _ _ _ _ _⟩

/-- The mantissa of a finite number that is not zero. -/
theorem value_of_ne_zero {x : Nat} (hx : f.finite x) (h : f.real x ≠ 0) : ∃ m e, f.value x = .fin (f.neg x) m e ∧ m ≠ 0 := by
  obtain ⟨m, e, hv, -⟩ := value_of_finite hx
  refine ⟨m, e, hv, ?_⟩
  rintro rfl
  rw [real_eq_number hx, hv, number_fin] at h
  simp at h

theorem value_of_zero {x : Nat} (hx : f.finite x) (h : f.real x = 0) : ∃ e, f.value x = .fin (f.neg x) 0 e := by
  obtain ⟨m, e, hv, -⟩ := value_of_finite hx
  rw [real_eq_number hx, hv, FVal.number, mul_eq_zero, or_iff_left (two_zpow_pos e).ne', signed_cast] at h
  have hm : m = 0 := by
    split at h <;> simpa using h
  exact ⟨e, hm ▸ hv⟩

theorem finite_results (hf : f ∈ FFmt.all) (hmode : mode ≤ 3) (hx : f.finite (c.input f a)) (hy : f.finite (c.input f b)) :
    let x := c.input f a
    let y := c.input f b
    let z := c.input f d
    c.Once f mode (sumSign mode (f.neg x) (f.neg y)) (f.real x + f.real y) (c.add f mode a b) ∧ c.Once f mode (sumSign mode (f.neg x) (!f.neg y)) (f.real x - f.real y) (c.sub f mode a b) ∧
      c.Once f mode (f.neg x != f.neg y) (f.real x * f.real y) (c.mul f mode a b) ∧ (f.real y ≠ 0 → c.Once f mode (f.neg x != f.neg y) (f.real x / f.real y) (c.div f mode a b)) ∧
      (f.finite z → c.Once f mode (sumSign mode (f.neg x != f.neg y) (f.neg z)) (f.real x * f.real y + f.real z) (c.fma f mode a b d)) := by
  intro x y z
  have hxn := isNan_of_finite hx
  have hyn := isNan_of_finite hy
  obtain ⟨hadd, hsub⟩ := exactAdd_is mode hx hy
  obtain ⟨m, e, hmul, hnumber⟩ := exactMul_of_finite hx hy
  refine ⟨?_, ?_, ?_, fun hne => ?_, fun hz => ?_⟩
  · unfold Fpc.add
    rw [op2_of_numbers hxn hyn]
    exact once_of_is hf hmode hadd
  · unfold Fpc.sub
    rw [op2_of_numbers hxn hyn]
    exact once_of_is hf hmode hsub
  · unfold Fpc.mul
    rw [op2_of_numbers hxn hyn, hmul, ← hnumber]
    exact once_of_is hf hmode (res_is _ _ _)
  · obtain ⟨m1, e1, hv1, -⟩ := value_of_finite hx
    obtain ⟨m2, e2, hv2, hm2⟩ := value_of_ne_zero hy hne
    unfold Fpc.div
    rw [op2_of_numbers hxn hyn, real_eq_number hx, real_eq_number hy, hv1, hv2]
    exact once_of_is hf hmode (exactDiv_is _ _ _ _ _ hm2)
  · obtain ⟨m3, e3, hv3, -⟩ := value_of_finite hz
    unfold Fpc.fma
    rw [op3_of_numbers hxn hyn (isNan_of_finite hz), real_eq_number hz, ← hnumber, hv3, exactFma, hmul]
    exact once_of_is hf hmode (exactSum_is _ _ _ _ _ _ _)

/-! ### NaNs and invalid operations (R211) -/

theorem nan_results : let x := c.input f a
    let y := c.input f b
    let z := c.input f d
    (f.isNan x = true ∨ f.isNan y = true → c.add f mode a b = c.nanOf f [x, y] ∧ c.sub f mode a b = c.nanOf f [x, y] ∧ c.mul f mode a b = c.nanOf f [x, y] ∧ c.div f mode a b = c.nanOf f [x, y]) ∧
    (f.isNan x = true ∨ f.isNan y = true ∨ f.isNan z = true → c.fma f mode a b d = c.nanOf f [x, y, z]) ∧ (f.isNan x = true → c.sqrt f mode a = c.nanOf f [x]) :=
  ⟨fun h => ⟨op2_of_nan h, op2_of_nan h, op2_of_nan h, op2_of_nan h⟩, op3_of_nan, op1_of_nan⟩

/-- The encoding is an infinity. -/
def FFmt.Infinite (f : FFmt) (x : Nat) : Prop := ¬f.finite x ∧ f.isNan x = false

theorem infinite_pair_results (hf : f ∈ FFmt.all) (hx : f.Infinite (c.input f a)) (hy : f.Infinite (c.input f b)) : let x := c.input f a
    let y := c.input f b
    (f.neg x ≠ f.neg y → c.add f mode a b = f.nan) ∧ (f.neg x = f.neg y → c.sub f mode a b = f.nan ∧ c.add f mode a b = f.inf (f.neg x)) ∧ c.div f mode a b = f.nan := by
  intro x y
  unfold Fpc.add Fpc.sub Fpc.div
  rw [op2_of_numbers hx.2 hy.2, op2_of_numbers hx.2 hy.2, op2_of_numbers hx.2 hy.2, value_of_infinite hx.1, value_of_infinite hy.1]
  refine ⟨fun h => ?_, fun h => ⟨?_, ?_⟩, output_nan hf⟩
  · rw [exactAdd, if_neg h]
    exact output_nan hf
  · rw [FVal.negate, exactAdd, if_neg (by simp [x, y] at h; simp [h])]
    exact output_nan hf
  · rw [exactAdd, if_pos h]
    exact output_inf hf _

theorem infinite_results (hf : f ∈ FFmt.all) (hx : f.Infinite (c.input f a)) (hy : f.finite (c.input f b)) : let x := c.input f a
    let y := c.input f b
    let z := c.input f d
    c.add f mode a b = f.inf (f.neg x) ∧ (f.real y = 0 → c.mul f mode a b = f.nan ∧ c.mul f mode b a = f.nan ∧ (f.isNan z = false → c.fma f mode a b d = f.nan)) ∧
      (f.real y ≠ 0 → c.mul f mode a b = f.inf (f.neg x != f.neg y)) := by
  intro x y z
  have hyn := isNan_of_finite hy
  refine ⟨?_, fun hzero => ?_, fun hne => ?_⟩
  · obtain ⟨m, e, hv, -⟩ := value_of_finite hy
    unfold Fpc.add
    rw [op2_of_numbers hx.2 hyn, value_of_infinite hx.1, hv]
    exact output_inf hf _
  · obtain ⟨e, hv⟩ := value_of_zero hy hzero
    refine ⟨?_, ?_, fun hz => ?_⟩
    · unfold Fpc.mul
      rw [op2_of_numbers hx.2 hyn, value_of_infinite hx.1, hv]
      exact output_nan hf
    · unfold Fpc.mul
      rw [op2_of_numbers hyn hx.2, value_of_infinite hx.1, hv]
      exact output_nan hf
    · unfold Fpc.fma
      rw [op3_of_numbers hx.2 hyn hz, value_of_infinite hx.1, hv]
      exact output_nan hf
  · obtain ⟨m, e, hv, hm⟩ := value_of_ne_zero hy hne
    unfold Fpc.mul
    rw [op2_of_numbers hx.2 hyn, value_of_infinite hx.1, hv, exactMul, if_neg hm]
    exact output_inf hf _

theorem zero_div_zero (hf : f ∈ FFmt.all) (hx : f.finite (c.input f a)) (hy : f.finite (c.input f b)) (hx0 : f.real (c.input f a) = 0) (hy0 : f.real (c.input f b) = 0) :
    c.div f mode a b = f.nan := by
  obtain ⟨e1, hv1⟩ := value_of_zero hx hx0
  obtain ⟨e2, hv2⟩ := value_of_zero hy hy0
  unfold Fpc.div
  rw [op2_of_numbers (isNan_of_finite hx) (isNan_of_finite hy), hv1, hv2]
  exact output_nan hf

theorem sqrt_of_negative (hf : f ∈ FFmt.all) (hx : f.finite (c.input f a)) (h : f.real (c.input f a) < 0) : c.sqrt f mode a = f.nan := by
  obtain ⟨m, e, hv, hm⟩ := value_of_ne_zero hx h.ne
  have hneg : f.neg (c.input f a) = true := by
    by_contra hn
    rw [FFmt.real, if_neg hn, mag_of_finite hx] at h
    exact h.not_ge (grid_nonneg f _)
  unfold Fpc.sqrt
  rw [op1_of_number (isNan_of_finite hx), hv, hneg, exactSqrt, if_neg hm, if_pos rfl]
  exact output_nan hf

end

theorem intMin_le_intMax (signed : Bool) (n : Nat) : intMin signed n ≤ intMax signed n := by
  have hpos (k : Nat) : (1 : Int) ≤ 2 ^ k := one_le_pow₀ one_le_two
  have hsigned := hpos (n - 1)
  have hunsigned := hpos n
  unfold intMin intMax
  split <;> omega

/-- Settles O19: each operation by what it gives on finite numbers, NaNs and infinities, and rounding by the place of a magnitude among those of the format. -/
theorem floatsRoundOnce : Obligations.FloatsRoundOnce := by
  unfold Obligations.FloatsRoundOnce
  refine ⟨fun f hf mode neg p q hmode hq => round_roundsTo hf neg p hmode hq, ?_, ?_, ?_, ?_, ?_⟩
  · intro c f x flushed hf
    exact ⟨flush_eq hf c.fin x, flush_eq hf c.fout x⟩
  · intro f hf c mode a b d hmode ha hb hd x y z once sum first infinite
    have hfirst (xs : List Nat) : first xs = c.nanOf f xs := (nanOf_eq c f xs).symm
    obtain ⟨hnan2, hnan3, hnan1⟩ := nan_results (c := c) (f := f) (mode := mode) (a := a) (b := b) (d := d)
    refine ⟨fun hx hy => finite_results hf hmode hx hy, fun hx hpos => sqrt_rounds hf hx hpos, ?_, ?_, ?_, fun hx hy => infinite_pair_results hf hx hy, fun hx hy => infinite_results hf hx hy,
      fun hx hy h1 h2 => zero_div_zero hf hx hy h1 h2, fun hx h => sqrt_of_negative hf hx h, compare_conditions hf rfl rfl, fun hx hy => ⟨?_, ?_⟩, fun least h => ?_⟩
    · rw [hfirst]
      exact hnan2
    · rw [hfirst]
      exact hnan3
    · rw [hfirst]
      exact hnan1
    · exact pick_of_numbers hf ha hb rfl rfl hx hy true
    · exact pick_of_numbers hf ha hb rfl rfl hx hy false
    · rw [hfirst]
      exact pick_of_nan h least
  · intro f hf c mode sat signed n a hmode hn ha x lo hi legacy
    exact ⟨toInt_of_nan, toInt_of_infinite, fun hx => toInt_of_finite hmode hx (intMin_le_intMax signed n)⟩
  · intro f hf g hg c mode a hmode ha x quiet
    exact ⟨fun hx => toFloat_of_finite hg hmode hx, fun hn hx => toFloat_of_infinite hg hn hx, fun hn => toFloat_of_nan hn⟩
  · intro c mode a b hdivsq
    refine ⟨?_, ?_⟩
    · rw [Fpc.fdiv, hdivsq, Bool.false_and, Bool.false_and, if_neg Bool.false_ne_true]
    · rw [Fpc.frcp, hdivsq, if_neg Bool.false_ne_true, recip_eq_div]

end Sys2Proof.Machine
end

section
/-! PROOFS. Carries of an accumulation (O47). -/

namespace Sys2Proof.Machine

/-- The carries that some entries and folds hold for a cell. -/
def carriesOf (l : List (Nat × Int)) (k : Nat) : Int := ((l.filter fun e => e.1 = k).map fun e => e.2).sum

/-- The carries of a pass in its entries and its folds. -/
def PassState.carries (p : PassState) (k : Nat) : Int := carriesOf (p.entries ++ p.folds) k

/-- The cells of a pass's entries, one entry for each. -/
def PassState.Distinct (p : PassState) : Prop := (p.entries.map fun e => e.1).Nodup

section
variable {l r : List (Nat × Int)} {e : Nat × Int} {cell k : Nat} {ev : Int}

@[simp] theorem carriesOf_nil : carriesOf [] k = 0 := rfl

@[simp] theorem carriesOf_cons : carriesOf (e :: l) k = (if e.1 = k then e.2 else 0) + carriesOf l k := by
  unfold carriesOf
  by_cases h : e.1 = k <;> simp [h]

@[simp] theorem carriesOf_append : carriesOf (l ++ r) k = carriesOf l k + carriesOf r k := by
  simp [carriesOf]

theorem carriesOf_filter_same : carriesOf (l.filter fun e => e.1 ≠ cell) cell = 0 := by
  simp [carriesOf, List.filter_filter]

theorem carriesOf_filter_other (h : k ≠ cell) : carriesOf (l.filter fun e => e.1 ≠ cell) k = carriesOf l k := by
  unfold carriesOf
  rw [List.filter_filter]
  congr 2
  refine List.filter_congr fun e _ => ?_
  by_cases he : e.1 = k <;> simp [he, h]

theorem key_mem (he : e ∈ l) : e.1 ∈ l.map fun e => e.1 := List.mem_map_of_mem he

theorem carriesOf_of_not_mem (h : cell ∉ l.map fun e => e.1) : carriesOf l cell = 0 := by
  have hnone : (l.filter fun e => e.1 = cell) = [] := List.filter_eq_nil_iff.mpr fun e he => by
    rw [decide_eq_true_eq]
    rintro rfl
    exact h (key_mem he)
  rw [carriesOf, hnone]
  rfl

/-- Without the entry of a cell the other cells keep their carries. -/
theorem carriesOf_filter : carriesOf (l.filter fun e => e.1 ≠ cell) k = carriesOf l k - if k = cell then carriesOf l cell else 0 := by
  by_cases h : k = cell
  · rw [h, if_pos rfl, carriesOf_filter_same, sub_self]
  · rw [if_neg h, carriesOf_filter_other h, sub_zero]

theorem not_mem_of_find_none (h : (l.find? fun e => e.1 = cell) = none) : cell ∉ l.map fun e => e.1 := by
  rintro hmem
  obtain ⟨e, he, rfl⟩ := List.mem_map.mp hmem
  simpa using List.find?_eq_none.mp h e he

theorem distinct_filter (h : (l.map fun e => e.1).Nodup) (p : Nat × Int → Bool) : ((l.filter p).map fun e => e.1).Nodup :=
  h.sublist ((List.filter_sublist).map _)

theorem distinct_concat (h : (l.map fun e => e.1).Nodup) (hnew : cell ∉ l.map fun e => e.1) : ((l ++ [(cell, ev)]).map fun e => e.1).Nodup := by
  rw [List.map_append, List.nodup_append]
  refine ⟨h, List.nodup_singleton _, fun a ha b hb heq => hnew ?_⟩
  obtain rfl : b = cell := List.mem_singleton.mp hb
  exact heq ▸ ha

/-- The entry that a cell's search finds holds all its carries. -/
theorem carriesOf_of_mem (h : (l.map fun e => e.1).Nodup) (he : e ∈ l) : carriesOf l e.1 = e.2 := by
  induction l with
  | nil => nomatch he
  | cons x l ih =>
    obtain ⟨(hx : x.1 ∉ _), hl⟩ := List.nodup_cons.mp h
    rw [carriesOf_cons]
    cases List.mem_cons.mp he with
    | inl heq => rw [heq, if_pos rfl, carriesOf_of_not_mem (heq ▸ hx), add_zero]
    | inr hmem => rw [if_neg fun heq : x.1 = e.1 => hx (heq ▸ key_mem hmem), ih hl hmem, zero_add]

theorem carriesOf_find (h : (l.map fun e => e.1).Nodup) (he : (l.find? fun e => e.1 = cell) = some e) : e ∈ l ∧ e.1 = cell ∧ carriesOf l cell = e.2 := by
  have hcell : e.1 = cell := by simpa using List.find?_some he
  have hmem := List.mem_of_find?_eq_some he
  exact ⟨hmem, hcell, hcell ▸ carriesOf_of_mem h hmem⟩

/-- An entry replaced by one with another count. -/
theorem carriesOf_replace (h : (l.map fun e => e.1).Nodup) (hcell : cell ∈ l.map fun e => e.1) (n : Int) :
    carriesOf (l.map fun e => if e.1 = cell then (cell, n) else e) k = if k = cell then n else carriesOf l k := by
  induction l with
  | nil => nomatch hcell
  | cons x l ih =>
    obtain ⟨(hx : x.1 ∉ _), hl⟩ := List.nodup_cons.mp h
    rw [List.map_cons, carriesOf_cons, carriesOf_cons]
    by_cases heq : x.1 = cell
    · have hrest : (l.map fun e => if e.1 = cell then (cell, n) else e) = l := by
        refine (List.map_congr_left fun e he => if_neg fun hc => hx ?_).trans (List.map_id' l)
        exact heq.trans hc.symm ▸ key_mem he
      rw [hrest, heq, if_pos rfl]
      by_cases hk : k = cell
      · rw [hk, if_pos rfl, if_pos rfl, carriesOf_of_not_mem (heq ▸ hx), add_zero]
      · rw [if_neg hk, if_neg (Ne.symm hk), if_neg (Ne.symm hk)]
    · have hmem : cell ∈ l.map fun e => e.1 := (List.mem_cons.mp hcell).resolve_left fun hc => heq hc.symm
      rw [ih hl hmem, if_neg heq]
      by_cases hk : k = cell
      · rw [hk, if_neg heq, if_pos rfl, zero_add, if_pos rfl]
      · rw [if_neg hk, if_neg hk]

theorem distinct_replace (h : (l.map fun e => e.1).Nodup) (n : Int) : ((l.map fun e => if e.1 = cell then (cell, n) else e).map fun e => e.1).Nodup := by
  rw [List.map_map]
  refine (List.map_congr_left fun e _ => ?_ : _ = l.map fun e => e.1) ▸ h
  by_cases he : e.1 = cell <;> simp [he]

end

/-! ### Recording an event (R368, R369) -/

section
variable {cap cell why : Nat} {ev : Int} {es es' : List (Nat × Int)} {p : PassState}

/-- A recorded event raises its cell's carries by itself and leaves the others'. -/
theorem recordEvent_carries (h : recordEvent cap es cell ev = .ok es') (hes : (es.map fun e => e.1).Nodup) :
    (es'.map fun e => e.1).Nodup ∧ ∀ k, carriesOf es' k = carriesOf es k + if k = cell then ev else 0 := by
  unfold recordEvent at h
  split at h
  case h_1 c n hfind =>
    obtain ⟨hmem, rfl, hn⟩ := carriesOf_find hes hfind
    dsimp only at hn h
    split at h
    · nomatch h
    · split at h
      · rename_i hzero
        obtain rfl := Except.ok.inj h
        refine ⟨distinct_filter hes _, fun k => ?_⟩
        rw [carriesOf_filter]
        split <;> omega
      · obtain rfl := Except.ok.inj h
        refine ⟨distinct_replace hes _, fun k => ?_⟩
        rw [carriesOf_replace hes (key_mem hmem)]
        split
        · rename_i hk
          rw [hk, hn]
        · rw [add_zero]
  case h_2 hfind =>
    have hnew := not_mem_of_find_none hfind
    split at h
    · obtain rfl := Except.ok.inj h
      refine ⟨distinct_concat hes hnew, fun k => ?_⟩
      simp only [carriesOf_append, carriesOf_cons, carriesOf_nil, add_zero, eq_comm]
    · nomatch h

/-- A full condition is met by a cell that has its own entry, or by one that has none. -/
theorem recordEvent_full (h : recordEvent cap es cell ev = .error why) :
    why = 0 ∧ (∃ e, (es.find? fun e => e.1 = cell) = some e) ∨ why ≠ 0 ∧ (es.find? fun e => e.1 = cell) = none := by
  unfold recordEvent at h
  split at h
  case h_1 hfind =>
    refine .inl ⟨?_, _, hfind⟩
    split at h
    · exact (Except.error.inj h).symm
    · split at h <;> nomatch h
  case h_2 hfind =>
    refine .inr ⟨?_, hfind⟩
    split at h
    · nomatch h
    · rw [← Except.error.inj h]
      decide

/-- An entry moved to the folds, and the event in an entry of its own. -/
theorem moved_carries {e : Nat × Int} (hp : p.Distinct) (he : e ∈ p.entries) (hcell : cell ∈ p.entries.map (fun e => e.1) → e.1 = cell) :
    let q : PassState := { p with folds := p.folds ++ [e], entries := (p.entries.filter fun x => x.1 ≠ e.1) ++ [(cell, ev)] }
    q.Distinct ∧ ∀ k, q.carries k = p.carries k + if k = cell then ev else 0 := by
  refine ⟨distinct_concat (distinct_filter hp _) fun hmem => ?_, fun k => ?_⟩
  · obtain ⟨x, hx, hxc⟩ := List.mem_map.mp hmem
    obtain ⟨hx, hne⟩ := List.mem_filter.mp hx
    exact absurd (hxc.trans (hcell (hxc ▸ List.mem_map_of_mem hx)).symm) (by simpa using hne)
  · simp only [PassState.carries, carriesOf_append, carriesOf_cons, carriesOf_nil, add_zero, carriesOf_filter, carriesOf_of_mem hp he, eq_comm (a := cell), eq_comm (a := e.1)]
    split <;> omega

/-- A STALL fold loses no carry. -/
theorem stallFold_carries (hp : p.Distinct) (h : recordEvent cap p.entries cell ev = .error why) :
    (stallFold p cell why ev).Distinct ∧ ∀ k, (stallFold p cell why ev).carries k = p.carries k + if k = cell then ev else 0 := by
  unfold stallFold
  rcases recordEvent_full h with ⟨rfl, e, hfind⟩ | ⟨hwhy, hfind⟩
  · obtain ⟨hmem, hcell, -⟩ := carriesOf_find hp hfind
    rw [if_pos rfl, hfind]
    exact moved_carries hp hmem fun _ => hcell
  · rw [if_neg hwhy]
    cases hhead : p.entries.head? with
    | some e => exact moved_carries hp (List.mem_of_mem_head? hhead) fun hmem => absurd hmem (not_mem_of_find_none hfind)
    | none =>
      refine ⟨hp, fun k => ?_⟩
      simp only [PassState.carries, carriesOf_append, carriesOf_cons, carriesOf_nil, add_zero, eq_comm (a := cell)]
      omega

theorem stallFold_frozen (p : PassState) (cell why : Nat) (ev : Int) : (stallFold p cell why ev).frozen = p.frozen := by
  unfold stallFold
  dsimp only
  generalize (if why = 0 then _ else _ : Option (Nat × Int)) = out
  cases out <;> rfl

end

/-! ### An accumulation (R367 to R369) -/

section
variable {env : PassEnv} {cell : Nat} {delta : Int} {v : BitVec 24} {p : PassState}

/-- The carry of a sum of a 24-bit cell and a pass's product. -/
def carryOf (x : Int) : Int := if -(2 ^ 23) ≤ x ∧ x < 2 ^ 23 then 0 else if 0 < x then 1 else -1

theorem wrapped_cell (hlow : -(2 ^ 23) ≤ delta) (hhigh : delta ≤ 2 ^ 23) :
    (BitVec.ofInt 24 (v.toInt + delta)).toInt + 2 ^ 24 * carryOf (v.toInt + delta) = v.toInt + delta := by
  have hvlow := BitVec.le_toInt v
  have hvhigh := BitVec.toInt_lt (x := v)
  rw [BitVec.toInt_ofInt, Int.bmod_def]
  unfold carryOf
  norm_num at *
  split <;> split <;> (try split) <;> omega

/-- What an accumulation of an unscaled tile leaves: the sum wrapped with its carry recorded, or, where it freezes, cell and carries as they were. -/
theorem accumulate_cases (env : PassEnv) (cell : Nat) (delta : Int) (v : BitVec 24) (p : PassState) (hscaled : env.scaled = false) (hp : p.Distinct) :
    ((accumulate env cell delta v p).1 = BitVec.ofInt 24 (v.toInt + delta) ∧ (accumulate env cell delta v p).2.frozen = p.frozen ∧ (accumulate env cell delta v p).2.Distinct ∧
      ∀ k, (accumulate env cell delta v p).2.carries k = p.carries k + if k = cell then carryOf (v.toInt + delta) else 0) ∨
    (∃ at_, accumulate env cell delta v p = (v, { p with frozen := some at_ })) := by
  unfold accumulate
  simp only [hscaled, Bool.false_or, Bool.and_eq_true, decide_eq_true_eq]
  by_cases hfits : -(2 ^ 23) ≤ v.toInt + delta ∧ v.toInt + delta < 2 ^ 23
  · have hcarry : carryOf (v.toInt + delta) = 0 := if_pos hfits
    rw [if_pos hfits, hcarry]
    exact .inl ⟨rfl, rfl, hp, fun k => by rw [ite_self, add_zero]⟩
  · have hcarry : carryOf (v.toInt + delta) = if 0 < v.toInt + delta then 1 else -1 := if_neg hfits
    rw [if_neg hfits, ← hcarry]
    cases hrec : recordEvent env.cap p.entries cell (carryOf (v.toInt + delta)) with
    | ok es =>
      obtain ⟨hnodup, hes⟩ := recordEvent_carries hrec hp
      refine .inl ⟨rfl, rfl, hnodup, fun k => ?_⟩
      simp only [PassState.carries, carriesOf_append, hes k]
      omega
    | error why =>
      cases hstall : env.stall with
      | true =>
        obtain ⟨hnodup, hes⟩ := stallFold_carries hp hrec
        exact .inl ⟨rfl, stallFold_frozen .., hnodup, hes⟩
      | false => exact .inr ⟨_, rfl⟩

/-- What a cell is worth: its 24 bits and its carries. -/
def PassState.worth (p : PassState) (v : BitVec 24) (cell : Nat) : Int := v.toInt + 2 ^ 24 * p.carries cell

/-- An accumulation that does not freeze raises what its cell is worth by the amount added. -/
theorem accumulate_exact (hscaled : env.scaled = false) (hp : p.Distinct) (hlow : -(2 ^ 23) ≤ delta) (hhigh : delta ≤ 2 ^ 23)
    (h : (accumulate env cell delta v p).2.frozen = none) :
    (accumulate env cell delta v p).2.worth (accumulate env cell delta v p).1 cell = p.worth v cell + delta ∧ (accumulate env cell delta v p).2.Distinct ∧
      ∀ k, k ≠ cell → (accumulate env cell delta v p).2.carries k = p.carries k := by
  rcases accumulate_cases env cell delta v p hscaled hp with ⟨hcell, -, hnodup, hcarries⟩ | ⟨at_, heq⟩
  · refine ⟨?_, hnodup, fun k hk => by rw [hcarries, if_neg hk, add_zero]⟩
    have hwrapped := wrapped_cell (v := v) hlow hhigh
    rw [PassState.worth, PassState.worth, hcell, hcarries, if_pos rfl]
    linarith
  · rw [heq] at h
    nomatch h

theorem accumulate_distinct (hscaled : env.scaled = false) (hp : p.Distinct) : (accumulate env cell delta v p).2.Distinct := by
  rcases accumulate_cases env cell delta v p hscaled hp with ⟨-, -, hnodup, -⟩ | ⟨at_, heq⟩
  · exact hnodup
  · rw [heq]
    exact hp

theorem accumulate_frozen (hscaled : env.scaled = false) (hp : p.Distinct) (hnone : p.frozen = none) (h : (accumulate env cell delta v p).2.frozen ≠ none) :
    (accumulate env cell delta v p).1 = v ∧ (accumulate env cell delta v p).2.entries = p.entries ∧ (accumulate env cell delta v p).2.folds = p.folds := by
  rcases accumulate_cases env cell delta v p hscaled hp with ⟨-, hfrozen, -⟩ | ⟨at_, heq⟩
  · exact absurd (hfrozen.trans hnone) h
  · rw [heq]
    exact ⟨rfl, rfl, rfl⟩

end

end Sys2Proof.Machine
end

section
/-! PROOFS. The sums of a pass (O47). -/

namespace Sys2Proof.Machine

theorem foldl_ones_le (x : Nat) (l : List Nat) (n : Nat) : l.foldl (fun n k => if x.testBit k then n + 1 else n) n ≤ n + l.length := by
  induction l generalizing n with
  | nil => exact le_rfl
  | cons k l ih =>
    rw [List.foldl_cons, List.length_cons]
    refine (ih _).trans ?_
    split <;> omega

theorem ones_le (x : Nat) : ones x ≤ 64 := (foldl_ones_le x (List.range 64) 0).trans (by simp)

/-- What a cycle adds to the cell in a row and a column whose chunks are `a` and `b`. -/
def cycleAdds (env : PassEnv) (w : Int) (start row col a b : Nat) : Int :=
  if col < env.n ∧ col / 256 = env.chunk ∧ start ≤ row * 512 + col then w * (ones (a &&& b) : Nat) else 0

/-- A cell's part of a cycle. -/
def cellCycle (env : PassEnv) (w : Int) (a row start col : Nat) (v : BitVec 24) (b : Nat) (p : PassState) : BitVec 24 × PassState :=
  if p.frozen.isSome || env.n ≤ col || col / 256 ≠ env.chunk || row * 512 + col < start then (v, p)
  else accumulate env (row * 512 + col) (w * (ones (a &&& b) : Nat)) v p

section
variable {env : PassEnv} {w : Int} {a row start col b : Nat} {v : BitVec 24} {vs : List (BitVec 24)} {bs as : List Nat} {rs : List (List (BitVec 24))} {p q : PassState}

theorem rowCycle_cons : rowCycle env w a row start col (v :: vs) bs p =
    ((cellCycle env w a row start col v (bs.headD 0) p).1 :: (rowCycle env w a row start (col + 1) vs (bs.drop 1) (cellCycle env w a row start col v (bs.headD 0) p).2).1,
      (rowCycle env w a row start (col + 1) vs (bs.drop 1) (cellCycle env w a row start col v (bs.headD 0) p).2).2) := rfl

theorem rowsCycle_cons {r : List (BitVec 24)} : rowsCycle env w bs start row (r :: rs) as p =
    ((rowCycle env w (as.headD 0) row start 0 r bs p).1 :: (rowsCycle env w bs start (row + 1) rs (as.drop 1) (rowCycle env w (as.headD 0) row start 0 r bs p).2).1,
      (rowsCycle env w bs start (row + 1) rs (as.drop 1) (rowCycle env w (as.headD 0) row start 0 r bs p).2).2) := rfl

theorem cycleProduct_bounds (hlow : -(2 ^ 17) ≤ w) (hhigh : w ≤ 2 ^ 17) (x : Nat) : -(2 ^ 23) ≤ w * (ones x : Nat) ∧ w * (ones x : Nat) ≤ 2 ^ 23 := by
  have hones : ((ones x : Nat) : Int) ≤ 64 := by exact_mod_cast ones_le x
  constructor <;> nlinarith

/-- What some cells of a cycle leave of a pass's state: one entry a cell; and, when the pass does not freeze there, it was not frozen and the other cells keep their carries. -/
structure CycleKeeps (p q : PassState) (cells : Nat → Prop) : Prop where
  distinct : q.Distinct
  unfrozen : q.frozen = none → p.frozen = none
  others : q.frozen = none → ∀ c, ¬cells c → q.carries c = p.carries c

theorem CycleKeeps.refl (hp : p.Distinct) (cells : Nat → Prop) : CycleKeeps p p cells := ⟨hp, id, fun _ _ _ => rfl⟩

theorem CycleKeeps.trans {u : PassState} {f g cells : Nat → Prop} (h1 : CycleKeeps p q f) (h2 : CycleKeeps q u g) (hf : ∀ c, f c → cells c) (hg : ∀ c, g c → cells c) : CycleKeeps p u cells :=
  ⟨h2.distinct, fun h => h1.unfrozen (h2.unfrozen h), fun h c hc => (h2.others h c fun hx => hc (hg c hx)).trans (h1.others (h2.unfrozen h) c fun hx => hc (hf c hx))⟩

/-- One cell of a cycle. -/
theorem cellCycle_exact (hscaled : env.scaled = false) (hp : p.Distinct) (hlow : -(2 ^ 17) ≤ w) (hhigh : w ≤ 2 ^ 17) :
    CycleKeeps p (cellCycle env w a row start col v b p).2 (· = row * 512 + col) ∧ ((cellCycle env w a row start col v b p).2.frozen = none →
      (cellCycle env w a row start col v b p).2.worth (cellCycle env w a row start col v b p).1 (row * 512 + col) = p.worth v (row * 512 + col) + cycleAdds env w start row col a b) := by
  unfold cellCycle
  by_cases hpass : p.frozen.isSome || env.n ≤ col || col / 256 ≠ env.chunk || row * 512 + col < start
  · rw [if_pos hpass]
    refine ⟨CycleKeeps.refl hp _, fun h : p.frozen = none => ?_⟩
    have hout : ¬(col < env.n ∧ col / 256 = env.chunk ∧ start ≤ row * 512 + col) := by
      simp only [h, Option.isSome_none, Bool.false_or, Bool.or_eq_true, decide_eq_true_eq] at hpass
      omega
    rw [cycleAdds, if_neg hout, add_zero]
  · rw [if_neg hpass]
    simp only [Bool.or_eq_true, decide_eq_true_eq, not_or, Option.not_isSome_iff_eq_none] at hpass
    obtain ⟨⟨⟨hnone, hn⟩, hchunk⟩, hstart⟩ := hpass
    obtain ⟨hbelow, habove⟩ := cycleProduct_bounds hlow hhigh (a &&& b)
    rw [cycleAdds, if_pos ⟨by omega, by omega, by omega⟩]
    exact ⟨⟨accumulate_distinct hscaled hp, fun _ => hnone, fun h => (accumulate_exact hscaled hp hbelow habove h).2.2⟩, fun h => (accumulate_exact hscaled hp hbelow habove h).1⟩

/-- The cells of a row from a column on. -/
theorem rowCycle_exact (hscaled : env.scaled = false) (hp : p.Distinct) (hlow : -(2 ^ 17) ≤ w) (hhigh : w ≤ 2 ^ 17) :
    CycleKeeps p (rowCycle env w a row start col vs bs p).2 (fun c => row * 512 + col ≤ c ∧ c < row * 512 + col + vs.length) ∧
      (rowCycle env w a row start col vs bs p).1.length = vs.length ∧ ((rowCycle env w a row start col vs bs p).2.frozen = none →
      ∀ k < vs.length, (rowCycle env w a row start col vs bs p).2.worth ((rowCycle env w a row start col vs bs p).1.getD k 0) (row * 512 + (col + k)) =
        p.worth (vs.getD k 0) (row * 512 + (col + k)) + cycleAdds env w start row (col + k) a (bs.getD k 0)) := by
  induction vs generalizing col bs p with
  | nil => exact ⟨CycleKeeps.refl hp _, rfl, fun _ k hk => absurd hk (Nat.not_lt_zero k)⟩
  | cons v vs ih =>
    rw [rowCycle_cons]
    obtain ⟨hhead, hvalue⟩ := cellCycle_exact (a := a) (row := row) (start := start) (col := col) (v := v) (b := bs.headD 0) hscaled hp hlow hhigh
    generalize cellCycle env w a row start col v (bs.headD 0) p = mid at hhead hvalue ⊢
    obtain ⟨hrest, hlength, hvalues⟩ := ih (col := col + 1) (bs := bs.drop 1) hhead.distinct
    generalize rowCycle env w a row start (col + 1) vs (bs.drop 1) mid.2 = last at hrest hlength hvalues ⊢
    dsimp only
    refine ⟨hhead.trans hrest ?_ ?_, by rw [List.length_cons, List.length_cons, hlength], fun h k hk => ?_⟩
    · rintro c rfl
      simp
    · rintro c ⟨hc, hc'⟩
      rw [List.length_cons]
      omega
    · cases k with
      | zero =>
        rw [List.getD_cons_zero, List.getD_cons_zero, add_zero, PassState.worth, hrest.others h _ (by omega)]
        refine Eq.trans (hvalue (hrest.unfrozen h)) ?_
        cases bs <;> rfl
      | succ k =>
        rw [List.length_cons] at hk
        have hnext := hvalues h k (by omega)
        rw [show col + 1 + k = col + (k + 1) by omega] at hnext
        rw [List.getD_cons_succ, List.getD_cons_succ, hnext, PassState.worth, PassState.worth, hhead.others (hrest.unfrozen h) _ (by omega)]
        cases bs <;> rfl

/-- The rows of a cycle from one on. -/
theorem rowsCycle_exact (hscaled : env.scaled = false) (hp : p.Distinct) (hlow : -(2 ^ 17) ≤ w) (hhigh : w ≤ 2 ^ 17) (hlen : ∀ r ∈ rs, r.length ≤ 512) :
    CycleKeeps p (rowsCycle env w bs start row rs as p).2 (fun c => row * 512 ≤ c) ∧
      (rowsCycle env w bs start row rs as p).1.map List.length = rs.map List.length ∧ ((rowsCycle env w bs start row rs as p).2.frozen = none →
      ∀ m k, k < (rs.getD m []).length → (rowsCycle env w bs start row rs as p).2.worth (((rowsCycle env w bs start row rs as p).1.getD m []).getD k 0) ((row + m) * 512 + k) =
        p.worth ((rs.getD m []).getD k 0) ((row + m) * 512 + k) + cycleAdds env w start (row + m) k (as.getD m 0) (bs.getD k 0)) := by
  induction rs generalizing row as p with
  | nil => exact ⟨CycleKeeps.refl hp _, rfl, fun _ m k hk => absurd hk (by simp)⟩
  | cons r rs ih =>
    rw [rowsCycle_cons]
    have hr := hlen r (List.mem_cons_self ..)
    obtain ⟨hhead, hsize, hvalue⟩ := rowCycle_exact (a := as.headD 0) (row := row) (start := start) (col := 0) (vs := r) (bs := bs) hscaled hp hlow hhigh
    generalize rowCycle env w (as.headD 0) row start 0 r bs p = mid at hhead hsize hvalue ⊢
    obtain ⟨hrest, hsizes, hvalues⟩ := ih (row := row + 1) (as := as.drop 1) hhead.distinct fun x hx => hlen x (List.mem_cons_of_mem r hx)
    generalize rowsCycle env w bs start (row + 1) rs (as.drop 1) mid.2 = last at hrest hsizes hvalues ⊢
    dsimp only
    have hfirst (c : Nat) : row * 512 + 0 ≤ c ∧ c < row * 512 + 0 + r.length → row * 512 ≤ c := by omega
    have hlater (c : Nat) : (row + 1) * 512 ≤ c → row * 512 ≤ c := by omega
    refine ⟨hhead.trans hrest hfirst hlater, by rw [List.map_cons, List.map_cons, hsize, hsizes], fun h m k hk => ?_⟩
    cases m with
    | zero =>
      rw [List.getD_cons_zero] at hk
      have hcell := hvalue (hrest.unfrozen h) k hk
      rw [zero_add] at hcell
      rw [List.getD_cons_zero, List.getD_cons_zero, add_zero, PassState.worth, hrest.others h _ (by omega)]
      refine Eq.trans hcell ?_
      cases as <;> rfl
    | succ m =>
      rw [List.getD_cons_succ] at hk
      have hcell := hvalues h m k hk
      rw [show row + 1 + m = row + (m + 1) by omega] at hcell
      rw [List.getD_cons_succ, List.getD_cons_succ, hcell, PassState.worth, PassState.worth, hhead.others (hrest.unfrozen h) _ (by omega)]
      cases as <;> rfl

end

/-! ### Cycles of a pass (R365) -/

section
variable {env : PassEnv} {a b : PlaneBits} {start : Nat} {p : PassState}

/-- What the cell in a row and a column of a pass is worth. -/
def PassState.value (p : PassState) (m k : Nat) : Int := p.worth ((p.cells.getD m []).getD k 0) (m * 512 + k)

theorem getD_length_of_map {l r : List (List (BitVec 24))} (h : l.map List.length = r.map List.length) (m : Nat) : (l.getD m []).length = (r.getD m []).length := by
  have hm := congrArg (fun x : List Nat => x.getD m 0) h
  simpa [List.getD_eq_getElem?_getD, Option.getD_map, ← Option.getD_map List.length] using hm

/-- A cycle adds to each cell its product, exactly. -/
theorem passCycle_exact (hscaled : env.scaled = false) (hp : p.Distinct) (hlow : -(2 ^ 17) ≤ a.weight * b.weight) (hhigh : a.weight * b.weight ≤ 2 ^ 17) (hlen : ∀ r ∈ p.cells, r.length ≤ 512) :
    (passCycle env a b start p).Distinct ∧ (passCycle env a b start p).cells.map List.length = p.cells.map List.length ∧ ((passCycle env a b start p).frozen = none → p.frozen = none ∧
      ∀ m k, k < (p.cells.getD m []).length →
        (passCycle env a b start p).value m k = p.value m k + cycleAdds env (a.weight * b.weight) start m k (a.chunks.getD m 0) (b.chunks.getD k 0)) := by
  unfold passCycle
  split
  · rename_i hfrozen
    exact ⟨hp, rfl, fun h => absurd hfrozen (by rw [h]; decide)⟩
  · obtain ⟨hkeeps, hsizes, hvalues⟩ := rowsCycle_exact (bs := b.chunks) (start := start) (row := 0) (as := a.chunks) hscaled hp hlow hhigh hlen
    refine ⟨hkeeps.distinct, hsizes, fun h => ⟨hkeeps.unfrozen h, fun m k hk => ?_⟩⟩
    have hcell := hvalues h m k hk
    rw [zero_add] at hcell
    exact hcell

end

/-- What a cycle of a pass adds to a cell, as the pass's list of cycles gives it. -/
def passAdds (n m k : Nat) (x : Nat × Nat × PlaneBits × PlaneBits) : Int :=
  if k < n ∧ k / 256 = x.2.1 ∧ x.1 ≤ m * 512 + k then x.2.2.1.weight * x.2.2.2.weight * (ones (x.2.2.1.chunks.getD m 0 &&& x.2.2.2.chunks.getD k 0) : Int) else 0

/-- A pass that does not freeze adds to each cell the products of its cycles. -/
theorem runCycles_exact {cap n : Nat} {stall : Bool} (l : List (Nat × Nat × PlaneBits × PlaneBits)) (p : PassState) (hp : p.Distinct) (hlen : ∀ r ∈ p.cells, r.length ≤ 512)
    (hw : ∀ x ∈ l, -(2 ^ 17) ≤ x.2.2.1.weight * x.2.2.2.weight ∧ x.2.2.1.weight * x.2.2.2.weight ≤ 2 ^ 17) (h : (runCycles cap stall false n l p).frozen = none) :
    p.frozen = none ∧ ∀ m k, k < (p.cells.getD m []).length → (runCycles cap stall false n l p).value m k = p.value m k + (l.map (passAdds n m k)).sum := by
  induction l generalizing p with
  | nil => exact ⟨h, fun m k _ => by simp [runCycles]⟩
  | cons x l ih =>
    obtain ⟨hlow, hhigh⟩ := hw x (List.mem_cons_self ..)
    obtain ⟨hdistinct, hsizes, hfirst⟩ := passCycle_exact (env := ⟨cap, stall, n, x.2.1, x.2.2.1.plane, x.2.2.2.plane, false⟩) (start := x.1) rfl hp hlow hhigh hlen
    have hbounds : ∀ r ∈ (passCycle ⟨cap, stall, n, x.2.1, x.2.2.1.plane, x.2.2.2.plane, false⟩ x.2.2.1 x.2.2.2 x.1 p).cells, r.length ≤ 512 := fun r hr => by
      obtain ⟨y, hy, hlength⟩ := List.mem_map.mp (hsizes ▸ List.mem_map_of_mem (f := List.length) hr)
      exact hlength ▸ hlen y hy
    obtain ⟨hnone, hrest⟩ := ih _ hdistinct hbounds (fun y hy => hw y (List.mem_cons_of_mem x hy)) h
    obtain ⟨hfrozen, hcycle⟩ := hfirst hnone
    refine ⟨hfrozen, fun m k hk => ?_⟩
    rw [List.map_cons, List.sum_cons, ← add_assoc]
    refine (hrest m k (getD_length_of_map hsizes m ▸ hk)).trans ?_
    rw [hcycle m k hk]
    rfl

end Sys2Proof.Machine
end

section
/-! PROOFS. A pass's operands and its end; the values and scales of a drain (O47). -/

namespace Sys2Proof.Machine

/-! ### The planes of an operand (R222, R359, R365) -/

section
variable {g : Gang} {fresh lines pe j depth p : Nat} {sl : Slot} {l : Layout}

theorem operandPlanes_length : (operandPlanes g fresh sl l lines pe j depth).length = pe + sl.virt.toNat := by
  unfold operandPlanes
  rw [List.length_append, List.length_map, List.length_range]
  cases sl.virt <;> rfl

/-- The virtual plane stands after the ones read, with a half of the last one's weight and every bit set. -/
theorem operandPlanes_virtual (h : sl.virt = true) :
    (operandPlanes g fresh sl l lines pe j depth)[pe]? = some ⟨pe, 2 ^ (7 - pe) / sl.unit, List.replicate lines (2 ^ 64 - 1)⟩ := by
  unfold operandPlanes
  rw [List.getElem?_append_right (by simp), h]
  simp

/-- A plane of an operand whose chunks lie apart holds its lines' chunks as they stand. -/
theorem operandPlanes_plane (hp : p < pe) (h : l.apart lines sl.pr (max depth (j + 1)) = true) :
    (operandPlanes g fresh sl l lines pe j depth)[p]? = some ⟨p, sl.weight p / sl.unit, (List.range lines).map fun i => natOfBytes (g.bytes.getRange (l.at_ i p j) 8)⟩ := by
  unfold operandPlanes
  rw [List.getElem?_append_left (by simpa using hp), List.getElem?_map, List.getElem?_range hp]
  simp only [h, Bool.not_true, Bool.false_and, Gang.chunk]
  rfl

end

/-! ### A granted mxop (R365, R368 to R370) -/

theorem cyclesFrom_none (l : List (Nat × PlaneBits × PlaneBits)) : cyclesFrom l none = l.map fun x => (0, x) := rfl

theorem clobberTrap_nil (s : State) (e : MxEntry) : s.clobberTrap e [] = s := rfl

/-- A granted mxop whose tile is at hand, unscaled, with its operands' lines present, runs its pass on it. -/
theorem runEntry_mxop {s : State} {e : MxEntry} {gr : Grid} {t : Tile} {f : FmtX} (hi : e.instr = .mxop f) (hgr : s.gridOfGang e.gang = some gr) (hfence : s.fenceHeld e.after = false)
    (ht : s.tile? e.gang e.team = some t) (hid : t.id = e.tile) (hscaled : t.scaled = false) (hpresent : s.passPresent gr t e.regs t.passes = true) :
    s.runEntry e = some (s.runPass gr e t ⟨e.regs, e.word, e.pcs, none, 1, 0⟩) := by
  unfold State.runEntry
  simp [hgr, hfence, tile?_filter_of_id ht hid, hscaled, hi, hpresent]

section
variable (s : State) (gr : Grid) (e : MxEntry) (t : Tile) (g : Gang) (la lb : Layout)

/-- Where an mxop's pass stands after its cycles. -/
def passRun : PassState :=
  let n := (e.regs.getD 6 0).toNat
  let a := gr.slot t.slotA
  let b := gr.slot t.slotB
  let cycles := passCycles n (operandPlanes g s.fresh a la 128 (planesRead g t.slotA a) t.passes t.depth) (operandPlanes g (s.fresh + 8192) b lb n (planesRead g t.slotB b) t.passes t.depth)
  runCycles (t.granules * 256) (!t.trap && t.aux ≠ auxNone) t.scaled n (cycles.map fun x => (0, x)) ⟨t.cells, t.entries, [], none⟩

/-- The STALL folds of a pass written. -/
def foldsWritten (p : PassState) : List Nat × State :=
  ({ s with fresh := s.fresh + 40960 } : State).addCounts t.gang (p.folds.map fun x => (t.aux + (x.1 / 512 * t.n + x.1 % 512) * 8, x.2))

/-- A tile as a pass leaves it, but for its end. -/
def tileAfter (p : PassState) : Tile :=
  { t with cells := p.cells, entries := p.entries, folds := t.folds + p.folds.length
           peA := leastPlanes t.peA (planesRead g t.slotA (gr.slot t.slotA)), peB := leastPlanes t.peB (planesRead g t.slotB (gr.slot t.slotB)) }

/-- A tile whose pass has frozen. -/
def tileStopped (p : PassState) (cell chunk qa qb : Nat) : Tile :=
  { tileAfter gr t g p with frozen := some ⟨chunk, qa, qb, cell, e.word, e.pcs, e.regs, planesRead g t.slotA (gr.slot t.slotA), planesRead g t.slotB (gr.slot t.slotB)⟩ }

variable {s gr e t g la lb} (hg : s.gang? t.gang = some g) (hla : layoutIn e.regs 0 = some la) (hlb : layoutIn e.regs 3 = some lb) (hscaled : t.scaled = false)
include hg hla hlb hscaled

/-- The end of an mxop's pass on an unscaled tile, by the point where it froze. -/
theorem runPass_eq {p : PassState} (hp : passRun s gr e t g la lb = p) : s.runPass gr e t ⟨e.regs, e.word, e.pcs, none, 1, 0⟩ =
    match p.frozen with
    | some (cell, why, neg, chunk, qa, qb) =>
      if (s.members e.gang e.team).any fun x => !x.alive then (((foldsWritten s t p).2.putTile (tileAfter gr t g p)).lowerTeam e.gang e.team 1).clobberTrap e (foldsWritten s t p).1
      else (((((foldsWritten s t p).2.putTile (tileStopped gr e t g p cell chunk qa qb)).lowerTeam e.gang e.team 0).clobberTrap e (foldsWritten s t p).1).teamTrap e.gang e.team 7 e.word e.pcs 0
        (carryAux (tileStopped gr e t g p cell chunk qa qb) cell why neg chunk qa qb))
    | none => (((foldsWritten s t p).2.putTile { tileAfter gr t g p with frozen := none, passes := t.passes + 1 }).lowerTeam e.gang e.team 1).clobberTrap e (foldsWritten s t p).1 := by
  have hblock : (t.scaled && decide ((t.passes + 1) % 2 = 0)) = false := by rw [hscaled, Bool.false_and]
  unfold passRun at hp
  unfold State.runPass
  rw [hg, hla, hlb]
  dsimp only [cyclesFrom_none] at hp ⊢
  rw [hp, hblock, Nat.add_assoc s.fresh]
  cases p.frozen with
  | some at_ => rfl
  | none =>
    rw [if_neg Bool.false_ne_true]
    exact congrArg (State.clobberTrap _ e) (List.append_nil _)

end

end Sys2Proof.Machine
end

section
/-! PROOFS. What a drain writes for a cell (O47). -/

namespace Sys2Proof.Machine

/-! ### A value times two scales (R498) -/

section
variable {x : Int} {sa sb : Nat}

theorem integer_number (x : Int) : (FVal.fin (x < 0) x.natAbs 0).number = x := by
  rw [number_fin, zpow_zero, mul_one, Nat.cast_natAbs]
  by_cases h : x < 0
  · rw [decide_eq_true h, if_pos rfl, abs_of_neg h, Int.cast_neg, neg_neg]
  · rw [decide_eq_false h, if_neg Bool.false_ne_true, abs_of_nonneg (not_lt.mp h)]

theorem finish_fin (neg : Bool) (m : Nat) (e : Int) : f32.finish 0 (FVal.fin neg m e).res = f32.round 0 neg (scale m 1 e).1 (scale m 1 e).2 := rfl

/-- With finite scales the product is the exact number's magnitude rounded once, or +0. -/
theorem scaleProduct_finite (ha : f32.finite sa) (hb : f32.finite sb) : ∃ neg m e,
    scaleProduct x sa sb = (if m = 0 then 0 else f32.finish 0 (FVal.fin neg m e).res) ∧ (FVal.fin neg m e).number = x * f32.real sa * f32.real sb := by
  obtain ⟨m1, e1, hva, -⟩ := value_of_finite ha
  obtain ⟨m2, e2, hvb, -⟩ := value_of_finite hb
  obtain ⟨hfirst, hnumber⟩ := exactMul_is (x < 0) (f32.neg sa) x.natAbs m1 0 e1
  obtain ⟨hsecond, hproduct⟩ := exactMul_is (decide (x < 0) != f32.neg sa) (f32.neg sb) (x.natAbs * m1) m2 (0 + e1) e2
  refine ⟨_, _, _, ?_, hproduct.trans ?_⟩
  rotate_left
  · rw [hnumber, integer_number, ← hva, ← hvb, ← real_eq_number ha, ← real_eq_number hb]
  · unfold scaleProduct
    rw [isNan_of_finite ha, isNan_of_finite hb, hva, hvb, hfirst]
    dsimp only
    rw [hsecond, finish_fin]
    exact if_neg Bool.false_ne_true

theorem number_eq_zero {neg : Bool} {m : Nat} {e : Int} : (FVal.fin neg m e).number = 0 ↔ m = 0 := by
  rw [FVal.number, mul_eq_zero, or_iff_left (two_zpow_pos e).ne', Int.cast_eq_zero]
  cases neg <;> simp [signed]

theorem scaleProduct_rounds (ha : f32.finite sa) (hb : f32.finite sb) : let v := (x : Rat) * f32.real sa * f32.real sb
    if v = 0 then scaleProduct x sa sb = 0 else f32.RoundsTo 0 (decide (v < 0)) (size v) (scaleProduct x sa sb) := by
  intro v
  obtain ⟨neg, m, e, hproduct, hnumber⟩ := scaleProduct_finite (x := x) ha hb
  rw [hproduct]
  by_cases hv : v = 0
  · rw [if_pos hv, if_pos (number_eq_zero.mp (hnumber.trans hv))]
  · rw [if_neg hv, if_neg fun hm => hv (hnumber.symm.trans (number_eq_zero.mpr hm))]
    have hrounds := finish_roundsTo (f := f32) (mode := 0) (by decide) (by decide) (res_is neg m e)
    rwa [hnumber, if_neg hv] at hrounds

theorem scaleProduct_nan (h : f32.isNan sa = true ∨ f32.isNan sb = true) : scaleProduct x sa sb = f32.nan := by
  unfold scaleProduct
  rw [if_pos]
  rwa [Bool.or_eq_true]

end

/-! ### The number for a cell (R368, R377) -/

section
variable (s : State) (gr : Grid) (t : Tile) (sa sb m k : Nat) (d r : BitVec 5)

theorem drainValue_i32 : s.drainValue gr t (.mxdrnI32 d r) sa sb m k = (BitVec.ofInt 32 (saturate32 (s.cellValue t m k * t.shift gr))).toNat := rfl

theorem drainValue_i64 : s.drainValue gr t (.mxdrnI64 d r) sa sb m k = (BitVec.ofInt 64 (s.cellValue t m k * t.shift gr)).toNat := rfl

theorem drainValue_f32 : s.drainValue gr t (.mxdrnF32 d r) sa sb m k =
    if t.scaled then s.localNat t.gang (t.auxAt 4 m k) 4 else scaleProduct (s.cellValue t m k * t.shift gr) sa sb := rfl

/-- An integer drain's value fits its size. -/
theorem drainValue_lt {i : Instr} (h : (∃ d r, i = .mxdrnI32 d r) ∨ ∃ d r, i = .mxdrnI64 d r) : s.drainValue gr t i sa sb m k < 2 ^ (8 * drainSize i) := by
  rcases h with ⟨d, r, rfl⟩ | ⟨d, r, rfl⟩
  · exact BitVec.isLt _
  · exact BitVec.isLt _

end

end Sys2Proof.Machine
end

section
/-! PROOFS. The bytes of a drain (O47). -/

namespace Sys2Proof.Machine

/-! ### A drain of integers -/

/-- The bytes of a row of a drain. -/
def State.drainBytes (s : State) (gr : Grid) (e : MxEntry) (t : Tile) (m : Nat) : List Byte :=
  (List.range (e.regs.getD 3 0).toNat).flatMap fun k => bytesOfNat (drainSize e.instr) (s.drainValue gr t e.instr 0 0 m k)

/-- The rows of a drain: each with its address and its bytes. -/
def State.drainRows (s : State) (gr : Grid) (e : MxEntry) (t : Tile) : List (Nat × List Byte) :=
  (List.range 128).map fun m => ((drainDest e.regs).1 + m * (drainDest e.regs).2.1, s.drainBytes gr e t m)

section
variable {s : State} {gr : Grid} {e : MxEntry} {t : Tile} (hi : (∃ d r, e.instr = .mxdrnI32 d r) ∨ ∃ d r, e.instr = .mxdrnI64 d r)
include hi

theorem runDrain_local (hloc : (drainDest e.regs).2.2 = true) : s.runDrain gr e t =
    (((s.engineWrites t.gang (s.drainRows gr e t)).2.putTile t).lowerTeam e.gang e.team 1).clobberTrap e (s.engineWrites t.gang (s.drainRows gr e t)).1 := by
  unfold State.runDrain State.drainRows State.drainBytes
  rcases hi with ⟨d, r, hi⟩ | ⟨d, r, hi⟩ <;>
    simp only [hi, hloc, Bool.false_and, Bool.false_eq_true, if_false, if_true, List.nil_append]

theorem runDrain_global (hloc : (drainDest e.regs).2.2 = false) : s.runDrain gr e t =
    (((s.drainRows gr e t).foldl (fun x r => x.drainRow e.gang e.quad gr.asid e.privileged e.pages r.1 r.2) s).putTile t).lowerTeam e.gang e.team 1 := by
  unfold State.runDrain State.drainRows State.drainBytes
  rcases hi with ⟨d, r, hi⟩ | ⟨d, r, hi⟩ <;>
    simp only [hi, hloc, Bool.false_and, Bool.false_eq_true, if_false, List.nil_append, clobberTrap_nil]

end

/-! ### What the engine leaves of itself -/

section
variable {s : State} {t : Tile}

/-- A tile of an engine put back as it stands changes nothing there. -/
theorem putTile_self (ht : t ∈ s.eng.matrix.tiles) (hids : (s.eng.matrix.tiles.map fun x => x.id).Nodup) : (s.putTile t).eng.matrix.tiles = s.eng.matrix.tiles := by
  refine (List.map_congr_left fun x hx => ?_).trans (List.map_id' _)
  split
  · rename_i hid
    exact (List.inj_on_of_nodup_map hids hx ht hid).symm
  · rfl

theorem lowerTeam_eng (s : State) (gang : Nat) (team : Quad) (n : Nat) : (s.lowerTeam gang team n).eng = s.eng := rfl

theorem putTile_lowerTeam_mem (s : State) (t : Tile) (gang : Nat) (team : Quad) (n : Nat) : ((s.putTile t).lowerTeam gang team n).mem = s.mem := rfl

theorem putTile_lowerTeam_gangs (s : State) (t : Tile) (gang : Nat) (team : Quad) (n : Nat) : ((s.putTile t).lowerTeam gang team n).gangs = s.gangs := rfl

theorem clobberTrap_eng (s : State) (e : MxEntry) (lines : List Nat) : (s.clobberTrap e lines).eng = s.eng := by
  cases lines <;> rfl

theorem engineWrite_eng (s : State) (gang o : Nat) (bs : List Byte) : (s.engineWrite gang o bs).2.eng = s.eng := by
  unfold State.engineWrite
  refine List.foldlRecOn (motive := fun acc : List Nat × State => acc.2.eng = s.eng) _ _ rfl fun acc h p _ => ?_
  dsimp only
  split
  · exact setPresent_eng.trans h
  · exact h

theorem engineWrites_eng (s : State) (gang : Nat) (ws : List (Nat × List Byte)) : (s.engineWrites gang ws).2.eng = s.eng := by
  unfold State.engineWrites
  exact List.foldlRecOn (motive := fun acc : List Nat × State => acc.2.eng = s.eng) _ _ rfl fun acc h w _ => (engineWrite_eng acc.2 gang w.1 w.2).trans h

theorem keepBefore_eng (s : State) (gang va pa n : Nat) : (s.keepBefore gang va pa n).eng = s.eng := by
  unfold State.keepBefore
  split
  · rfl
  · split
    · rfl
    · split <;> rfl

theorem OnlyHomes.eng {u : State} (h : OnlyHomes s u) : u.eng = s.eng := by rw [h.frame]

theorem writeHome_eng (s : State) (asid va pa leaf side : Nat) (bs : List Byte) : (s.writeHome asid va pa leaf side bs).eng = s.eng :=
  ((OnlyHomes.refl s).writeHome asid va pa leaf side bs).eng

theorem drainRow_eng (s : State) (gang quad asid : Nat) (priv : Bool) (pages : List TlbEntry) (va : Nat) (bs : List Byte) : (s.drainRow gang quad asid priv pages va bs).eng = s.eng := by
  unfold State.drainRow
  refine List.foldlRecOn (motive := fun u : State => u.eng = s.eng) _ _ rfl fun u h p _ => ?_
  have htranslate := ((OnlyHomes.refl u).translate quad asid p.1 needWrite priv 0).eng
  dsimp only
  split
  · exact (writeHome_eng ..).trans ((keepBefore_eng ..).trans h)
  · split
    · rename_i hu
      rw [hu] at htranslate
      exact (writeHome_eng ..).trans ((keepBefore_eng ..).trans (htranslate.trans h))
    · rename_i hu
      rw [hu] at htranslate
      exact htranslate.trans h

/-- A drain of integers leaves every engine's tiles as they are. -/
theorem runDrain_tiles {gr : Grid} {e : MxEntry} (hi : (∃ d r, e.instr = .mxdrnI32 d r) ∨ ∃ d r, e.instr = .mxdrnI64 d r) (ht : t ∈ s.eng.matrix.tiles)
    (hids : (s.eng.matrix.tiles.map fun x => x.id).Nodup) : (s.runDrain gr e t).eng.matrix.tiles = s.eng.matrix.tiles := by
  have hput {u : State} (hu : u.eng = s.eng) : (u.putTile t).eng.matrix.tiles = s.eng.matrix.tiles := by
    rw [← hu] at ht hids ⊢
    exact putTile_self ht hids
  cases hloc : (drainDest e.regs).2.2 with
  | true =>
    rw [runDrain_local hi hloc, clobberTrap_eng, lowerTeam_eng]
    exact hput (engineWrites_eng ..)
  | false =>
    rw [runDrain_global hi hloc, lowerTeam_eng]
    exact hput (List.foldlRecOn (motive := fun u : State => u.eng = s.eng) _ _ rfl fun u h r _ => (drainRow_eng ..).trans h)

end

/-! ### Rows within a line of memory (R378) -/

theorem linePieces_zero (fuel va : Nat) : linePieces fuel va 0 = [] := by
  cases fuel <;> rfl

/-- A range within a line is one piece. -/
theorem pieces_of_fits {va n : Nat} (hn : n ≠ 0) (h : va % 64 + n ≤ 64) : pieces va n = [(va, n)] := by
  unfold pieces linePieces
  rw [if_neg hn, Nat.min_eq_left (by omega)]
  dsimp only
  rw [Nat.sub_self, linePieces_zero]

theorem drainRow_of_fits {s : State} {gang quad asid va : Nat} {priv : Bool} {pages : List TlbEntry} {x : TlbEntry} {bs : List Byte} (hbs : bs ≠ []) (h : va % 64 + bs.length ≤ 64)
    (hx : pages.find? (fun y => y.base = va / 4096 * 4096) = some x) :
    s.drainRow gang quad asid priv pages va bs = (s.keepBefore gang va (x.pa + va % 4096) bs.length).writeHome asid va (s.localPa (x.pa + va % 4096)) x.leaf.toNat x.side bs := by
  unfold State.drainRow
  rw [pieces_of_fits (List.length_pos_iff.mpr hbs).ne' h, List.foldl_cons, List.foldl_nil]
  dsimp only
  rw [hx, Nat.sub_self, List.drop_zero, List.take_length]

/-! ### Rows in gang-local space (R62, R378) -/

/-- A store of bytes with a run of them overwritten. -/
def overwritten (f : Nat → Byte) (o : Nat) (bs : List Byte) : Nat → Byte := fun k => if o ≤ k ∧ k < o + bs.length then bs.getD (k - o) 0 else f k

theorem overwritten_inside {f : Nat → Byte} {o k : Nat} {bs : List Byte} (h : o ≤ k) (h' : k < o + bs.length) : overwritten f o bs k = bs.getD (k - o) 0 := if_pos ⟨h, h'⟩

theorem overwritten_outside {f : Nat → Byte} {o k : Nat} {bs : List Byte} (h : k < o ∨ o + bs.length ≤ k) : overwritten f o bs k = f k := if_neg fun hk => by omega

theorem overwritten_nil (f : Nat → Byte) (o : Nat) : overwritten f o [] = f := funext fun _ => overwritten_outside (by simp; omega)

/-- A run overwritten in two parts. -/
theorem overwritten_take_drop (f : Nat → Byte) (o n : Nat) (bs : List Byte) (hn : n ≤ bs.length) : overwritten (overwritten f o (bs.take n)) (o + n) (bs.drop n) = overwritten f o bs := by
  funext k
  have htake : (bs.take n).length = n := List.length_take_of_le hn
  have hdrop : (bs.drop n).length = bs.length - n := List.length_drop
  by_cases hlow : k < o + n
  · rw [overwritten_outside (.inl hlow)]
    by_cases ho : o ≤ k
    · rw [overwritten_inside ho (by omega), overwritten_inside ho (by omega)]
      simp [List.getD_eq_getElem?_getD, show k - o < n by omega]
    · rw [overwritten_outside (.inl (by omega)), overwritten_outside (.inl (by omega))]
  · by_cases hhigh : k < o + bs.length
    · rw [overwritten_inside (by omega) (by omega), overwritten_inside (by omega) hhigh]
      simp [List.getD_eq_getElem?_getD, List.getElem?_drop, show n + (k - (o + n)) = k - o by omega]
    · rw [overwritten_outside (.inr (by omega)), overwritten_outside (.inr (by omega)), overwritten_outside (.inr (by omega))]

/-- A state that differs from another in a gang's local space, which holds no barrier line: its bytes are those of `f`. -/
structure HoldsLocal (s u : State) (gang : Nat) (f : Nat → Byte) : Prop where
  mem : u.mem = s.mem
  untagged : ∀ x ∈ u.gangs, x.id = gang → x.tags = []
  bytes : ∃ g, u.gang? gang = some g ∧ ∀ k, g.bytes.get k = f k

section
variable {s u : State} {gang : Nat} {f : Nat → Byte}

theorem HoldsLocal.putLocal (h : HoldsLocal s u gang f) (o : Nat) (bs : List Byte) : HoldsLocal s (u.putLocal gang o bs) gang (overwritten f o bs) := by
  obtain ⟨hmem, htags, g, hg, hbytes⟩ := h
  refine ⟨hmem, fun x hx hid => ?_, _, gang?_modGang_same (fun _ => rfl) hg, fun k => ?_⟩
  · obtain ⟨y, hy, rfl⟩ := List.mem_map.mp hx
    by_cases hyid : y.id = gang
    · rw [if_pos hyid]
      dsimp only
      rw [htags y hy hyid, List.filter_nil]
    · rw [if_neg hyid] at hid
      exact absurd hid hyid
  · rw [SMap.get_setRange_getD, hbytes]
    rfl

theorem HoldsLocal.of_gangs {v : State} (h : HoldsLocal s u gang f) (hmem : v.mem = u.mem) (hgangs : v.gangs = u.gangs) : HoldsLocal s v gang f :=
  ⟨hmem.trans h.mem, hgangs ▸ h.untagged, by
    unfold State.gang?
    rw [hgangs]
    exact h.bytes⟩

theorem HoldsLocal.no_tag (h : HoldsLocal s u gang f) (line : Nat) : (u.gangs.any fun g => g.id = gang && g.tags.contains line) = false := by
  rw [List.any_eq_false]
  intro x hx hc
  rw [Bool.and_eq_true, decide_eq_true_eq] at hc
  rw [h.untagged x hx hc.1] at hc
  nomatch hc.2

/-- A piece of an engine's write. -/
def State.writePiece (gang o : Nat) (bs : List Byte) (acc : List Nat × State) (p : Nat × Nat) : List Nat × State :=
  if (acc.2.gangs.any fun g => g.id = gang && g.tags.contains (p.1 / 64)) && acc.2.lineAwaited gang (p.1 / 64) then (acc.1 ++ [p.1 / 64 * 64], acc.2.setPresent gang [p.1 / 64])
  else (acc.1, acc.2.putLocal gang p.1 ((bs.drop (p.1 - o)).take p.2))

theorem engineWrite_eq (s : State) (gang o : Nat) (bs : List Byte) : s.engineWrite gang o bs = (pieces o bs.length).foldl (State.writePiece gang o bs) ([], s) := rfl

/-- Without barrier lines every piece of a write is written. -/
theorem HoldsLocal.linePieces {o : Nat} {bs : List Byte} (fuel at_ n : Nat) (h : HoldsLocal s u gang f) (hlow : o ≤ at_) (hend : at_ + n = o + bs.length) (hfuel : n = 0 ∨ at_ % 64 + n ≤ 64 * fuel) :
    ((linePieces fuel at_ n).foldl (State.writePiece gang o bs) ([], u)).1 = [] ∧
      HoldsLocal s ((linePieces fuel at_ n).foldl (State.writePiece gang o bs) ([], u)).2 gang (overwritten f at_ (bs.drop (at_ - o))) := by
  induction fuel generalizing u f at_ n with
  | zero =>
    have hnone : bs.drop (at_ - o) = [] := List.drop_eq_nil_of_le (by omega)
    rw [hnone, overwritten_nil]
    exact ⟨rfl, h⟩
  | succ fuel ih =>
    unfold Sys2Proof.Machine.linePieces
    by_cases hn : n = 0
    · have hnone : bs.drop (at_ - o) = [] := List.drop_eq_nil_of_le (by omega)
      rw [if_pos hn, hnone, overwritten_nil]
      exact ⟨rfl, h⟩
    · have hpiece : State.writePiece gang o bs ([], u) (at_, min n (64 - at_ % 64)) = ([], u.putLocal gang at_ ((bs.drop (at_ - o)).take (min n (64 - at_ % 64)))) := by
        unfold State.writePiece
        rw [h.no_tag, Bool.false_and, if_neg Bool.false_ne_true]
      obtain ⟨hlines, hrest⟩ := ih (at_ + min n (64 - at_ % 64)) (n - min n (64 - at_ % 64)) (h.putLocal at_ ((bs.drop (at_ - o)).take (min n (64 - at_ % 64))))
        (by omega) (by omega) (by omega)
      rw [show at_ + min n (64 - at_ % 64) - o = at_ - o + min n (64 - at_ % 64) by omega, ← List.drop_drop,
        overwritten_take_drop _ _ _ _ (by rw [List.length_drop]; omega)] at hrest
      rw [if_neg hn, List.foldl_cons, hpiece]
      exact ⟨hlines, hrest⟩

theorem HoldsLocal.engineWrite (h : HoldsLocal s u gang f) (o : Nat) (bs : List Byte) : (u.engineWrite gang o bs).1 = [] ∧ HoldsLocal s (u.engineWrite gang o bs).2 gang (overwritten f o bs) := by
  rw [engineWrite_eq, pieces]
  have hpieces := h.linePieces (o := o) (bs := bs) (bs.length / 64 + 2) o bs.length le_rfl rfl (.inr (by omega))
  rwa [Nat.sub_self, List.drop_zero] at hpieces

theorem engineWrites_cons (u : State) (gang : Nat) (w : Nat × List Byte) (ws : List (Nat × List Byte)) : u.engineWrites gang (w :: ws) =
    ws.foldl (fun acc w => (acc.1 ++ (acc.2.engineWrite gang w.1 w.2).1, (acc.2.engineWrite gang w.1 w.2).2)) ([] ++ (u.engineWrite gang w.1 w.2).1, (u.engineWrite gang w.1 w.2).2) := rfl

theorem HoldsLocal.engineWrites (h : HoldsLocal s u gang f) (ws : List (Nat × List Byte)) :
    (u.engineWrites gang ws).1 = [] ∧ HoldsLocal s (u.engineWrites gang ws).2 gang (ws.foldl (fun f w => overwritten f w.1 w.2) f) := by
  induction ws generalizing u f with
  | nil => exact ⟨rfl, h⟩
  | cons w ws ih =>
    obtain ⟨hlines, hrow⟩ := h.engineWrite w.1 w.2
    rw [engineWrites_cons, hlines]
    exact ih hrow

end

end Sys2Proof.Machine
end

section
/-! PROOFS. Passes and drains (O47). -/

namespace Sys2Proof.Machine

/-! ### What a drain leaves in gang-local space (R377, R378) -/

section
variable {α : Type} {f : α → List Byte} {size : Nat}

theorem flatMap_length (hf : ∀ x, (f x).length = size) (l : List α) : (l.flatMap f).length = l.length * size := by
  simp [List.length_flatMap, hf]

/-- A byte of parts of one size set after one another. -/
theorem flatMap_getD (hf : ∀ x, (f x).length = size) {l : List α} {x : α} {k j : Nat} (hx : l[k]? = some x) (hj : j < size) : (l.flatMap f).getD (k * size + j) 0 = (f x).getD j 0 := by
  rw [List.getD_eq_getElem?_getD, List.getD_eq_getElem?_getD]
  induction l generalizing k with
  | nil => nomatch hx
  | cons y l ih =>
    rw [List.flatMap_cons]
    cases k with
    | zero =>
      obtain rfl : y = x := Option.some.inj hx
      rw [Nat.zero_mul, Nat.zero_add, List.getElem?_append_left (by rwa [hf])]
    | succ k =>
      rw [List.getElem?_append_right (by rw [hf, Nat.succ_mul]; omega), hf, show (k + 1) * size + j - size = k * size + j by rw [Nat.succ_mul]; omega]
      exact ih hx

end

/-- A store of bytes after some rows have been written to it. -/
def rowsWritten (f : Nat → Byte) (dest stride : Nat) (row : Nat → List Byte) (n : Nat) : Nat → Byte :=
  ((List.range n).map fun m => (dest + m * stride, row m)).foldl (fun f w => overwritten f w.1 w.2) f

section
variable {f : Nat → Byte} {dest stride : Nat} {row : Nat → List Byte}

theorem rowsWritten_succ (n : Nat) : rowsWritten f dest stride row (n + 1) = overwritten (rowsWritten f dest stride row n) (dest + n * stride) (row n) := by
  simp [rowsWritten, List.range_succ]

theorem rowsWritten_outside {k : Nat} (n : Nat) (h : ∀ m < n, ∀ j < (row m).length, k ≠ dest + m * stride + j) : rowsWritten f dest stride row n k = f k := by
  induction n with
  | zero => rfl
  | succ n ih =>
    have hout : k < dest + n * stride ∨ dest + n * stride + (row n).length ≤ k := by
      by_contra hin
      exact h n (Nat.lt_succ_self n) (k - (dest + n * stride)) (by omega) (by omega)
    rw [rowsWritten_succ, overwritten_outside hout]
    exact ih fun m hm => h m (Nat.lt_succ_of_lt hm)

/-- Rows that lie apart read back as they were written. -/
theorem rowsWritten_inside (hrow : ∀ m, (row m).length ≤ stride) {n m j : Nat} (hm : m < n) (hj : j < (row m).length) :
    rowsWritten f dest stride row n (dest + m * stride + j) = (row m).getD j 0 := by
  induction n with
  | zero => exact absurd hm (Nat.not_lt_zero m)
  | succ n ih =>
    rw [rowsWritten_succ]
    by_cases heq : m = n
    · rw [heq] at hj ⊢
      rw [overwritten_inside (by omega) (by omega), Nat.add_sub_cancel_left]
    · have hlater : (m + 1) * stride ≤ n * stride := Nat.mul_le_mul_right stride (by omega)
      have hfits := hrow m
      rw [Nat.succ_mul] at hlater
      rw [overwritten_outside (.inl (by omega))]
      exact ih (by omega)

end

theorem HoldsLocal.localNat {s u : State} {gang : Nat} {f : Nat → Byte} (h : HoldsLocal s u gang f) (o n : Nat) : u.localNat gang o n = natOfBytes ((List.range n).map fun j => f (o + j)) := by
  obtain ⟨-, -, g, hg, hbytes⟩ := h
  unfold State.localNat
  rw [hg]
  exact congrArg natOfBytes (List.map_congr_left fun j _ => hbytes (o + j))

theorem list_eq_map_getD (bs : List Byte) : ((List.range bs.length).map fun j => bs.getD j 0) = bs := by
  refine List.ext_getElem (by simp) fun j _ hj => ?_
  simp [List.getD_eq_getElem?_getD, hj]

section
variable {s : State} {gr : Grid} {e : MxEntry} {t : Tile} {g : Gang}

theorem drainBytes_length (m : Nat) : (s.drainBytes gr e t m).length = (e.regs.getD 3 0).toNat * drainSize e.instr := by
  rw [State.drainBytes, flatMap_length fun _ => bytesOfNat_length .., List.length_range]

theorem drainBytes_getD {m k j : Nat} (hk : k < (e.regs.getD 3 0).toNat) (hj : j < drainSize e.instr) :
    (s.drainBytes gr e t m).getD (k * drainSize e.instr + j) 0 = (bytesOfNat (drainSize e.instr) (s.drainValue gr t e.instr 0 0 m k)).getD j 0 :=
  flatMap_getD (fun _ => bytesOfNat_length ..) (List.getElem?_range hk) hj

theorem drainRows_foldl (f : Nat → Byte) : (s.drainRows gr e t).foldl (fun f w => overwritten f w.1 w.2) f =
    rowsWritten f (drainDest e.regs).1 (drainDest e.regs).2.1 (s.drainBytes gr e t) 128 := by
  unfold State.drainRows rowsWritten
  rfl

/-- A drain to gang-local space without barrier lines writes its rows there and nothing else. -/
theorem runDrain_holds (hi : (∃ d r, e.instr = .mxdrnI32 d r) ∨ ∃ d r, e.instr = .mxdrnI64 d r) (hloc : (drainDest e.regs).2.2 = true) (hg : s.gang? t.gang = some g)
    (htags : ∀ x ∈ s.gangs, x.id = t.gang → x.tags = []) :
    HoldsLocal s (s.runDrain gr e t) t.gang (rowsWritten g.bytes.get (drainDest e.regs).1 (drainDest e.regs).2.1 (s.drainBytes gr e t) 128) := by
  have hstart : HoldsLocal s s t.gang g.bytes.get := ⟨rfl, htags, g, hg, fun _ => rfl⟩
  obtain ⟨hlines, hrows⟩ := hstart.engineWrites (s.drainRows gr e t)
  rw [drainRows_foldl] at hrows
  rw [runDrain_local hi hloc, hlines, clobberTrap_nil]
  exact hrows.of_gangs (putTile_lowerTeam_mem ..) (putTile_lowerTeam_gangs ..)

/-- The values of a drain read back from gang-local space. -/
theorem runDrain_value (hi : (∃ d r, e.instr = .mxdrnI32 d r) ∨ ∃ d r, e.instr = .mxdrnI64 d r) (hloc : (drainDest e.regs).2.2 = true) (hg : s.gang? t.gang = some g)
    (htags : ∀ x ∈ s.gangs, x.id = t.gang → x.tags = []) (hstride : (e.regs.getD 3 0).toNat * drainSize e.instr ≤ (drainDest e.regs).2.1) {m k : Nat} (hm : m < 128)
    (hk : k < (e.regs.getD 3 0).toNat) :
    (s.runDrain gr e t).localNat t.gang ((drainDest e.regs).1 + m * (drainDest e.regs).2.1 + k * drainSize e.instr) (drainSize e.instr) = s.drainValue gr t e.instr 0 0 m k := by
  have hcell : (k + 1) * drainSize e.instr ≤ (e.regs.getD 3 0).toNat * drainSize e.instr := Nat.mul_le_mul_right _ hk
  have hbyte : ∀ j ∈ List.range (drainSize e.instr), rowsWritten g.bytes.get (drainDest e.regs).1 (drainDest e.regs).2.1 (s.drainBytes gr e t) 128
      ((drainDest e.regs).1 + m * (drainDest e.regs).2.1 + k * drainSize e.instr + j) = (bytesOfNat (drainSize e.instr) (s.drainValue gr t e.instr 0 0 m k)).getD j 0 := fun j hj => by
    have hj := List.mem_range.mp hj
    rw [Nat.succ_mul] at hcell
    rw [Nat.add_assoc _ (k * drainSize e.instr), rowsWritten_inside (fun m => by rwa [drainBytes_length]) hm (by rw [drainBytes_length]; omega), drainBytes_getD hk hj]
  have hbytes := list_eq_map_getD (bytesOfNat (drainSize e.instr) (s.drainValue gr t e.instr 0 0 m k))
  rw [bytesOfNat_length] at hbytes
  rw [(runDrain_holds hi hloc hg htags).localNat, List.map_congr_left hbyte, hbytes, natOfBytes_bytesOfNat]
  exact Nat.mod_eq_of_lt (drainValue_lt s gr t 0 0 m k hi)

theorem runDrain_outside (hi : (∃ d r, e.instr = .mxdrnI32 d r) ∨ ∃ d r, e.instr = .mxdrnI64 d r) (hloc : (drainDest e.regs).2.2 = true) (hg : s.gang? t.gang = some g)
    (htags : ∀ x ∈ s.gangs, x.id = t.gang → x.tags = []) {o : Nat}
    (ho : ∀ m < 128, ∀ j < (e.regs.getD 3 0).toNat * drainSize e.instr, o ≠ (drainDest e.regs).1 + m * (drainDest e.regs).2.1 + j) :
    (s.runDrain gr e t).localNat t.gang o 1 = s.localNat t.gang o 1 := by
  have hstart : HoldsLocal s s t.gang g.bytes.get := ⟨rfl, htags, g, hg, fun _ => rfl⟩
  rw [(runDrain_holds hi hloc hg htags).localNat, hstart.localNat]
  have hsame := rowsWritten_outside (f := g.bytes.get) (row := s.drainBytes gr e t) 128 fun m hm j hj => ho m hm j (by rwa [drainBytes_length] at hj)
  simp only [List.range_one, List.map_cons, List.map_nil, add_zero, hsame]

end

/-- Settles O47: an accumulation by where its carry goes, a pass by its cycles' cells, a drain by its rows' bytes. -/
theorem passesAndDrainsCompute : Obligations.PassesAndDrainsCompute := by
  unfold Obligations.PassesAndDrainsCompute
  refine ⟨fun env cell delta v p => ⟨fun hscaled => ?scaled, fun hscaled hnone hdistinct hlow hhigh => ?unscaled⟩, ⟨?pass, ?planes, ?mxop⟩, ?values, ?scales, ?drain, ?row⟩
  case scaled =>
    unfold accumulate
    rw [hscaled]
    rfl
  case unscaled =>
    refine ⟨fun h => ?_, accumulate_frozen hscaled hdistinct hnone⟩
    obtain ⟨hworth, hkept, hothers⟩ := accumulate_exact hscaled hdistinct hlow hhigh h
    exact ⟨hworth.trans (add_right_comm _ _ _), hkept, hothers⟩
  case pass =>
    intro cap n stall l p _ hdistinct hlen hw q h m k hk
    exact (runCycles_exact l p hdistinct hlen hw h).2 m k hk
  case planes =>
    intro g fresh lines pe j depth sl l r
    exact ⟨operandPlanes_length, operandPlanes_virtual, fun p hp => operandPlanes_plane hp⟩
  case mxop =>
    intro s e gr t g la lb hi hgr hfence ht hid hscaled hg hla hlb hpresent halive
    obtain ⟨f, hi⟩ := hi
    intro n a b pa pb cycles p r after
    have hrun : passRun s gr e t g la lb = p := by
      unfold passRun
      rw [hscaled]
    rw [runEntry_mxop hi hgr hfence ht hid hscaled hpresent, runPass_eq hg hla hlb hscaled hrun]
    have hmembers : ((s.members e.gang e.team).any fun x => !x.alive) = false := by
      rw [List.any_eq_false]
      intro x hx
      rw [halive x hx]
      decide
    refine ⟨fun h => ?_, fun cell why neg chunk qa qb h => ?_⟩
    · rw [h]
      rfl
    · intro stopped
      rw [h]
      dsimp only
      rw [hmembers, if_neg Bool.false_ne_true]
      rfl
  case values =>
    intro s gr t sa sb m k d r count spilled x
    exact ⟨drainValue_i32 .., drainValue_i64 .., drainValue_f32 ..⟩
  case scales =>
    intro x sa sb _ _ v
    exact ⟨scaleProduct_rounds, scaleProduct_nan⟩
  case drain =>
    intro s gr e t g hi hg ht hids n dest size rows
    refine ⟨runDrain_tiles hi ht hids, fun hloc htags hstride => ⟨?_, fun m hm k hk => ?_, fun o ho => ?_⟩, runDrain_global hi⟩
    · exact (runDrain_holds hi hloc hg htags).mem
    · exact runDrain_value hi hloc hg htags hstride hm hk
    · exact runDrain_outside hi hloc hg htags ho
  case row =>
    intro s gang quad asid va priv pages x bs hbs hfits hx
    exact drainRow_of_fits hbs hfits hx

end Sys2Proof.Machine
end

section
/-! PROOFS. A word that encodes an instruction decodes to it (O4, O3). -/

namespace Sys2Proof

/-- A row's base and what is laid out below its major make up the word, and leave the major (R275). -/
theorem word_of_base {b x : Nat} {w : Word} (h : .ofNat 32 (b + x) = w) (hx : b % 2 ^ 25 + x < 2 ^ 25) (hlt : b < 2 ^ 32) :
    b + x = w.toNat ∧ w.toNat / 2 ^ 25 = b / 2 ^ 25 := by
  subst h
  rw [BitVec.toNat_ofNat]
  omega

/-! ### One lemma for each field layout of R275

A row's words are its base `b` plus the places of its operands. The base holds the major in the top seven bits and, below it, the bits that the row fixes; `hb` says that it holds nothing else there. From the word come back the operands, the major and those fixed bits, which tell the rows of one major apart. -/

theorem FmtR.ofWord_of_place {b : Nat} {w : Word} (f : FmtR) (h : .ofNat 32 (b + f.place) = w) (hb : b % 2 ^ 25 = 0) (hlt : b < 2 ^ 32) :
    ofWord w = f ∧ w.toNat / 2 ^ 25 = b / 2 ^ 25 := by
  cases f
  obtain ⟨h, hm⟩ := word_of_base h (by simp only [place]; omega) hlt
  simp only [place, ofWord, mk.injEq, ← BitVec.toNat_inj, fieldAt_toNat, fieldNat] at h ⊢
  and_intros <;> omega

theorem FmtP.ofWord_of_place {b : Nat} {w : Word} (f : FmtP) (h : .ofNat 32 (b + f.place) = w) (hb : b % 2 ^ 25 = 0) (hlt : b < 2 ^ 32) :
    ofWord w = f ∧ w.toNat / 2 ^ 25 = b / 2 ^ 25 := by
  cases f
  obtain ⟨h, hm⟩ := word_of_base h (by simp only [place]; omega) hlt
  simp only [place, ofWord, mk.injEq, ← BitVec.toNat_inj, fieldAt_toNat, fieldNat] at h ⊢
  and_intros <;> omega

theorem FmtSel.ofWord_of_place {b : Nat} {w : Word} (f : FmtSel) (h : .ofNat 32 (b + f.place) = w) (hb : b % 2 ^ 25 = 0) (hlt : b < 2 ^ 32) :
    ofWord w = f ∧ w.toNat / 2 ^ 25 = b / 2 ^ 25 := by
  cases f
  obtain ⟨h, hm⟩ := word_of_base h (by simp only [place]; omega) hlt
  simp only [place, ofWord, mk.injEq, ← BitVec.toNat_inj, fieldAt_toNat, fieldNat] at h ⊢
  and_intros <;> omega

theorem FmtSh.ofWord_of_place {b : Nat} {w : Word} (f : FmtSh) (h : .ofNat 32 (b + f.place) = w) (hb : b % 2 ^ 25 = b / 2 ^ 5 % 2 ^ 3 * 2 ^ 5) (hlt : b < 2 ^ 32) :
    ofWord w = f ∧ w.toNat / 2 ^ 25 = b / 2 ^ 25 ∧ fieldNat w 5 3 = b / 2 ^ 5 % 2 ^ 3 := by
  cases f
  obtain ⟨h, hm⟩ := word_of_base h (by simp only [place]; omega) hlt
  simp only [place, ofWord, mk.injEq, ← BitVec.toNat_inj, fieldAt_toNat, fieldNat] at h ⊢
  and_intros <;> omega

theorem FmtSh64.ofWord_of_place {b : Nat} {w : Word} (f : FmtSh64) (h : .ofNat 32 (b + f.place) = w) (hb : b % 2 ^ 25 = b / 2 ^ 6 % 2 ^ 2 * 2 ^ 6) (hlt : b < 2 ^ 32) :
    ofWord w = f ∧ w.toNat / 2 ^ 25 = b / 2 ^ 25 ∧ fieldNat w 6 2 = b / 2 ^ 6 % 2 ^ 2 := by
  cases f
  obtain ⟨h, hm⟩ := word_of_base h (by simp only [place]; omega) hlt
  simp only [place, ofWord, mk.injEq, ← BitVec.toNat_inj, fieldAt_toNat, fieldNat] at h ⊢
  and_intros <;> omega

theorem FmtI.ofWord_of_place {b : Nat} {w : Word} (f : FmtI) (h : .ofNat 32 (b + f.place) = w) (hb : b % 2 ^ 25 = 0) (hlt : b < 2 ^ 32) :
    ofWord w = f ∧ w.toNat / 2 ^ 25 = b / 2 ^ 25 := by
  cases f
  obtain ⟨h, hm⟩ := word_of_base h (by simp only [place]; omega) hlt
  simp only [place, ofWord, mk.injEq, ← BitVec.toNat_inj, fieldAt_toNat, fieldNat] at h ⊢
  and_intros <;> omega

theorem FmtMovi.ofWord_of_place {b : Nat} {w : Word} (f : FmtMovi) (h : .ofNat 32 (b + f.place) = w) (hb : b % 2 ^ 25 = b / 2 ^ 8 % 2 ^ 7 * 2 ^ 8) (hlt : b < 2 ^ 32) :
    ofWord w = f ∧ w.toNat / 2 ^ 25 = b / 2 ^ 25 ∧ fieldNat w 8 7 = b / 2 ^ 8 % 2 ^ 7 := by
  cases f
  obtain ⟨h, hm⟩ := word_of_base h (by simp only [place]; omega) hlt
  simp only [place, ofWord, mk.injEq, ← BitVec.toNat_inj, fieldAt_toNat, fieldNat] at h ⊢
  and_intros <;> omega

theorem FmtU.ofWord_of_place {b : Nat} {w : Word} (f : FmtU) (h : .ofNat 32 (b + f.place) = w) (hb : b % 2 ^ 25 = b / 2 ^ 8 % 2 ^ 7 * 2 ^ 8) (hlt : b < 2 ^ 32) :
    ofWord w = f ∧ w.toNat / 2 ^ 25 = b / 2 ^ 25 ∧ fieldNat w 8 7 = b / 2 ^ 8 % 2 ^ 7 := by
  cases f
  obtain ⟨h, hm⟩ := word_of_base h (by simp only [place]; omega) hlt
  simp only [place, ofWord, mk.injEq, ← BitVec.toNat_inj, fieldAt_toNat, fieldNat] at h ⊢
  and_intros <;> omega

theorem FmtCvt.ofWord_of_place {b : Nat} {w : Word} (f : FmtCvt) (h : .ofNat 32 (b + f.place) = w) (hb : b % 2 ^ 25 = 0) (hlt : b < 2 ^ 32) :
    ofWord w = f ∧ w.toNat / 2 ^ 25 = b / 2 ^ 25 := by
  cases f
  obtain ⟨h, hm⟩ := word_of_base h (by simp only [place]; omega) hlt
  simp only [place, ofWord, mk.injEq, ← BitVec.toNat_inj, fieldAt_toNat, fieldNat] at h ⊢
  and_intros <;> omega

theorem FmtCvtF.ofWord_of_place {b : Nat} {w : Word} (f : FmtCvtF) (h : .ofNat 32 (b + f.place) = w) (hb : b % 2 ^ 25 = b / 2 ^ 8 % 2 ^ 1 * 2 ^ 8) (hlt : b < 2 ^ 32) :
    ofWord w = f ∧ w.toNat / 2 ^ 25 = b / 2 ^ 25 ∧ fieldNat w 8 1 = b / 2 ^ 8 % 2 ^ 1 := by
  cases f
  obtain ⟨h, hm⟩ := word_of_base h (by simp only [place]; omega) hlt
  simp only [place, ofWord, mk.injEq, ← BitVec.toNat_inj, fieldAt_toNat, fieldNat] at h ⊢
  and_intros <;> omega

theorem FmtUnpk.ofWord_of_place {b : Nat} {w : Word} (f : FmtUnpk) (h : .ofNat 32 (b + f.place) = w) (hb : b % 2 ^ 25 = 0) (hlt : b < 2 ^ 32) :
    ofWord w = f ∧ w.toNat / 2 ^ 25 = b / 2 ^ 25 := by
  cases f
  obtain ⟨h, hm⟩ := word_of_base h (by simp only [place]; omega) hlt
  simp only [place, ofWord, mk.injEq, ← BitVec.toNat_inj, fieldAt_toNat, fieldNat] at h ⊢
  and_intros <;> omega

theorem FmtVote.ofWord_of_place {b : Nat} {w : Word} (f : FmtVote) (h : .ofNat 32 (b + f.place) = w) (hb : b % 2 ^ 25 = b % 2 ^ 8 + b / 2 ^ 11 % 2 ^ 1 * 2 ^ 11) (hlt : b < 2 ^ 32) :
    ofWord w = f ∧ w.toNat / 2 ^ 25 = b / 2 ^ 25 ∧ fieldNat w 0 8 = b % 2 ^ 8 ∧ fieldNat w 11 1 = b / 2 ^ 11 % 2 ^ 1 := by
  cases f
  obtain ⟨h, hm⟩ := word_of_base h (by simp only [place]; omega) hlt
  simp only [place, ofWord, mk.injEq, ← BitVec.toNat_inj, fieldAt_toNat, fieldNat] at h ⊢
  and_intros <;> omega

theorem FmtRdx.ofWord_of_place {b : Nat} {w : Word} (f : FmtRdx) (h : .ofNat 32 (b + f.place) = w) (hb : b % 2 ^ 25 = b % 2 ^ 1) (hlt : b < 2 ^ 32) :
    ofWord w = f ∧ w.toNat / 2 ^ 25 = b / 2 ^ 25 ∧ fieldNat w 0 1 = b % 2 ^ 1 := by
  cases f
  obtain ⟨h, hm⟩ := word_of_base h (by simp only [place]; omega) hlt
  simp only [place, ofWord, mk.injEq, ← BitVec.toNat_inj, fieldAt_toNat, fieldNat] at h ⊢
  and_intros <;> omega

theorem FmtBra.ofWord_of_place {b : Nat} {w : Word} (f : FmtBra) (h : .ofNat 32 (b + f.place) = w) (hb : b % 2 ^ 25 = 0) (hlt : b < 2 ^ 32) :
    ofWord w = f ∧ w.toNat / 2 ^ 25 = b / 2 ^ 25 := by
  cases f
  obtain ⟨h, hm⟩ := word_of_base h (by simp only [place]; omega) hlt
  simp only [place, ofWord, mk.injEq, ← BitVec.toNat_inj, fieldAt_toNat, fieldNat] at h ⊢
  and_intros <;> omega

theorem FmtA1.ofWord_of_place {b : Nat} {w : Word} (f : FmtA1) (h : .ofNat 32 (b + f.place) = w) (hb : b % 2 ^ 25 = b % 2 ^ 8 + b / 2 ^ 15 % 2 ^ 7 * 2 ^ 15) (hlt : b < 2 ^ 32) :
    ofWord w = f ∧ w.toNat / 2 ^ 25 = b / 2 ^ 25 ∧ fieldNat w 0 8 = b % 2 ^ 8 ∧ fieldNat w 15 7 = b / 2 ^ 15 % 2 ^ 7 := by
  cases f
  obtain ⟨h, hm⟩ := word_of_base h (by simp only [place]; omega) hlt
  simp only [place, ofWord, mk.injEq, ← BitVec.toNat_inj, fieldAt_toNat, fieldNat] at h ⊢
  and_intros <;> omega

theorem FmtC.ofWord_of_place {b : Nat} {w : Word} (f : FmtC) (h : .ofNat 32 (b + f.place) = w) (hb : b % 2 ^ 25 = 0) (hlt : b < 2 ^ 32) :
    ofWord w = f ∧ w.toNat / 2 ^ 25 = b / 2 ^ 25 := by
  cases f
  obtain ⟨h, hm⟩ := word_of_base h (by simp only [place]; omega) hlt
  simp only [place, ofWord, mk.injEq, ← BitVec.toNat_inj, fieldAt_toNat, fieldNat] at h ⊢
  and_intros <;> omega

theorem FmtDA.ofWord_of_place {b : Nat} {w : Word} (f : FmtDA) (h : .ofNat 32 (b + f.place) = w) (hb : b % 2 ^ 25 = b % 2 ^ 8) (hlt : b < 2 ^ 32) :
    ofWord w = f ∧ w.toNat / 2 ^ 25 = b / 2 ^ 25 ∧ fieldNat w 0 8 = b % 2 ^ 8 := by
  cases f
  obtain ⟨h, hm⟩ := word_of_base h (by simp only [place]; omega) hlt
  simp only [place, ofWord, mk.injEq, ← BitVec.toNat_inj, fieldAt_toNat, fieldNat] at h ⊢
  and_intros <;> omega

theorem FmtG0.ofWord_of_place {b : Nat} {w : Word} (f : FmtG0) (h : .ofNat 32 (b + f.place) = w) (hb : b % 2 ^ 25 = b % 2 ^ 22) (hlt : b < 2 ^ 32) :
    ofWord w = f ∧ w.toNat / 2 ^ 25 = b / 2 ^ 25 ∧ fieldNat w 0 22 = b % 2 ^ 22 := by
  cases f
  obtain ⟨h, hm⟩ := word_of_base h (by simp only [place]; omega) hlt
  simp only [place, ofWord, mk.injEq, ← BitVec.toNat_inj, fieldAt_toNat, fieldNat] at h ⊢
  and_intros <;> omega

theorem FmtBar.ofWord_of_place {b : Nat} {w : Word} (f : FmtBar) (h : .ofNat 32 (b + f.place) = w) (hb : b % 2 ^ 25 = b / 2 ^ 4 % 2 ^ 18 * 2 ^ 4) (hlt : b < 2 ^ 32) :
    ofWord w = f ∧ w.toNat / 2 ^ 25 = b / 2 ^ 25 ∧ fieldNat w 4 18 = b / 2 ^ 4 % 2 ^ 18 := by
  cases f
  obtain ⟨h, hm⟩ := word_of_base h (by simp only [place]; omega) hlt
  simp only [place, ofWord, mk.injEq, ← BitVec.toNat_inj, fieldAt_toNat, fieldNat] at h ⊢
  and_intros <;> omega

theorem FmtNet.ofWord_of_place {b : Nat} {w : Word} (f : FmtNet) (h : .ofNat 32 (b + f.place) = w) (hb : b % 2 ^ 25 = b / 2 ^ 3 % 2 ^ 19 * 2 ^ 3) (hlt : b < 2 ^ 32) :
    ofWord w = f ∧ w.toNat / 2 ^ 25 = b / 2 ^ 25 ∧ fieldNat w 3 19 = b / 2 ^ 3 % 2 ^ 19 := by
  cases f
  obtain ⟨h, hm⟩ := word_of_base h (by simp only [place]; omega) hlt
  simp only [place, ofWord, mk.injEq, ← BitVec.toNat_inj, fieldAt_toNat, fieldNat] at h ⊢
  and_intros <;> omega

theorem FmtM.ofWord_of_place {b : Nat} {w : Word} (f : FmtM) (h : .ofNat 32 (b + f.place) = w) (hb : b % 2 ^ 25 = 0) (hlt : b < 2 ^ 32) :
    ofWord w = f ∧ w.toNat / 2 ^ 25 = b / 2 ^ 25 := by
  cases f
  obtain ⟨h, hm⟩ := word_of_base h (by simp only [place]; omega) hlt
  simp only [place, ofWord, mk.injEq, ← BitVec.toNat_inj, fieldAt_toNat, fieldNat] at h ⊢
  and_intros <;> omega

theorem FmtL.ofWord_of_place {b : Nat} {w : Word} (f : FmtL) (h : .ofNat 32 (b + f.place) = w) (hb : b % 2 ^ 25 = 0) (hlt : b < 2 ^ 32) :
    ofWord w = f ∧ w.toNat / 2 ^ 25 = b / 2 ^ 25 := by
  cases f
  obtain ⟨h, hm⟩ := word_of_base h (by simp only [place]; omega) hlt
  simp only [place, ofWord, mk.injEq, ← BitVec.toNat_inj, fieldAt_toNat, fieldNat] at h ⊢
  and_intros <;> omega

theorem FmtA.ofWord_of_place {b : Nat} {w : Word} (f : FmtA) (h : .ofNat 32 (b + f.place) = w) (hb : b % 2 ^ 25 = 0) (hlt : b < 2 ^ 32) :
    ofWord w = f ∧ w.toNat / 2 ^ 25 = b / 2 ^ 25 := by
  cases f
  obtain ⟨h, hm⟩ := word_of_base h (by simp only [place]; omega) hlt
  simp only [place, ofWord, mk.injEq, ← BitVec.toNat_inj, fieldAt_toNat, fieldNat] at h ⊢
  and_intros <;> omega

theorem FmtAcas.ofWord_of_place {b : Nat} {w : Word} (f : FmtAcas) (h : .ofNat 32 (b + f.place) = w) (hb : b % 2 ^ 25 = 0) (hlt : b < 2 ^ 32) :
    ofWord w = f ∧ w.toNat / 2 ^ 25 = b / 2 ^ 25 := by
  cases f
  obtain ⟨h, hm⟩ := word_of_base h (by simp only [place]; omega) hlt
  simp only [place, ofWord, mk.injEq, ← BitVec.toNat_inj, fieldAt_toNat, fieldNat] at h ⊢
  and_intros <;> omega

theorem FmtRed.ofWord_of_place {b : Nat} {w : Word} (f : FmtRed) (h : .ofNat 32 (b + f.place) = w) (hb : b % 2 ^ 25 = b / 2 ^ 17 % 2 ^ 5 * 2 ^ 17) (hlt : b < 2 ^ 32) :
    ofWord w = f ∧ w.toNat / 2 ^ 25 = b / 2 ^ 25 ∧ fieldNat w 17 5 = b / 2 ^ 17 % 2 ^ 5 := by
  cases f
  obtain ⟨h, hm⟩ := word_of_base h (by simp only [place]; omega) hlt
  simp only [place, ofWord, mk.injEq, ← BitVec.toNat_inj, fieldAt_toNat, fieldNat] at h ⊢
  and_intros <;> omega

theorem FmtMcst.ofWord_of_place {b : Nat} {w : Word} (f : FmtMcst) (h : .ofNat 32 (b + f.place) = w) (hb : b % 2 ^ 25 = b / 2 ^ 2 % 2 ^ 1 * 2 ^ 2 + b / 2 ^ 4 % 2 ^ 4 * 2 ^ 4) (hlt : b < 2 ^ 32) :
    ofWord w = f ∧ w.toNat / 2 ^ 25 = b / 2 ^ 25 ∧ fieldNat w 2 1 = b / 2 ^ 2 % 2 ^ 1 ∧ fieldNat w 4 4 = b / 2 ^ 4 % 2 ^ 4 := by
  cases f
  obtain ⟨h, hm⟩ := word_of_base h (by simp only [place]; omega) hlt
  simp only [place, ofWord, mk.injEq, ← BitVec.toNat_inj, fieldAt_toNat, fieldNat] at h ⊢
  and_intros <;> omega

theorem FmtRdst.ofWord_of_place {b : Nat} {w : Word} (f : FmtRdst) (h : .ofNat 32 (b + f.place) = w) (hb : b % 2 ^ 25 = b / 2 ^ 2 % 2 ^ 1 * 2 ^ 2) (hlt : b < 2 ^ 32) :
    ofWord w = f ∧ w.toNat / 2 ^ 25 = b / 2 ^ 25 ∧ fieldNat w 2 1 = b / 2 ^ 2 % 2 ^ 1 := by
  cases f
  obtain ⟨h, hm⟩ := word_of_base h (by simp only [place]; omega) hlt
  simp only [place, ofWord, mk.injEq, ← BitVec.toNat_inj, fieldAt_toNat, fieldNat] at h ⊢
  and_intros <;> omega

theorem FmtTxc.ofWord_of_place {b : Nat} {w : Word} (f : FmtTxc) (h : .ofNat 32 (b + f.place) = w) (hb : b % 2 ^ 25 = b % 2 ^ 15 + b / 2 ^ 18 % 2 ^ 4 * 2 ^ 18) (hlt : b < 2 ^ 32) :
    ofWord w = f ∧ w.toNat / 2 ^ 25 = b / 2 ^ 25 ∧ fieldNat w 0 15 = b % 2 ^ 15 ∧ fieldNat w 18 4 = b / 2 ^ 18 % 2 ^ 4 := by
  cases f
  obtain ⟨h, hm⟩ := word_of_base h (by simp only [place]; omega) hlt
  simp only [place, ofWord, mk.injEq, ← BitVec.toNat_inj, fieldAt_toNat, fieldNat] at h ⊢
  and_intros <;> omega

theorem FmtFence.ofWord_of_place {b : Nat} {w : Word} (f : FmtFence) (h : .ofNat 32 (b + f.place) = w) (hb : b % 2 ^ 25 = b / 2 ^ 2 % 2 ^ 1 * 2 ^ 2 + b / 2 ^ 6 % 2 ^ 16 * 2 ^ 6) (hlt : b < 2 ^ 32) :
    ofWord w = f ∧ w.toNat / 2 ^ 25 = b / 2 ^ 25 ∧ fieldNat w 2 1 = b / 2 ^ 2 % 2 ^ 1 ∧ fieldNat w 6 16 = b / 2 ^ 6 % 2 ^ 16 := by
  cases f
  obtain ⟨h, hm⟩ := word_of_base h (by simp only [place]; omega) hlt
  simp only [place, ofWord, mk.injEq, ← BitVec.toNat_inj, fieldAt_toNat, fieldNat] at h ⊢
  and_intros <;> omega

theorem FmtWait.ofWord_of_place {b : Nat} {w : Word} (f : FmtWait) (h : .ofNat 32 (b + f.place) = w) (hb : b % 2 ^ 25 = b / 2 ^ 16 % 2 ^ 6 * 2 ^ 16) (hlt : b < 2 ^ 32) :
    ofWord w = f ∧ w.toNat / 2 ^ 25 = b / 2 ^ 25 ∧ fieldNat w 16 6 = b / 2 ^ 16 % 2 ^ 6 := by
  cases f
  obtain ⟨h, hm⟩ := word_of_base h (by simp only [place]; omega) hlt
  simp only [place, ofWord, mk.injEq, ← BitVec.toNat_inj, fieldAt_toNat, fieldNat] at h ⊢
  and_intros <;> omega

theorem FmtX.ofWord_of_place {b : Nat} {w : Word} (f : FmtX) (h : .ofNat 32 (b + f.place) = w) (hb : b % 2 ^ 25 = b % 2 ^ 4) (hlt : b < 2 ^ 32) :
    ofWord w = f ∧ w.toNat / 2 ^ 25 = b / 2 ^ 25 ∧ fieldNat w 0 4 = b % 2 ^ 4 := by
  cases f
  obtain ⟨h, hm⟩ := word_of_base h (by simp only [place]; omega) hlt
  simp only [place, ofWord, mk.injEq, ← BitVec.toNat_inj, fieldAt_toNat, fieldNat] at h ⊢
  and_intros <;> omega

theorem FmtBeg.ofWord_of_place {b : Nat} {w : Word} (f : FmtBeg) (h : .ofNat 32 (b + f.place) = w) (hb : b % 2 ^ 25 = b % 2 ^ 4 + b / 2 ^ 9 % 2 ^ 5 * 2 ^ 9) (hlt : b < 2 ^ 32) :
    ofWord w = f ∧ w.toNat / 2 ^ 25 = b / 2 ^ 25 ∧ fieldNat w 0 4 = b % 2 ^ 4 ∧ fieldNat w 9 5 = b / 2 ^ 9 % 2 ^ 5 := by
  cases f
  obtain ⟨h, hm⟩ := word_of_base h (by simp only [place]; omega) hlt
  simp only [place, ofWord, mk.injEq, ← BitVec.toNat_inj, fieldAt_toNat, fieldNat] at h ⊢
  and_intros <;> omega

theorem FmtK.ofWord_of_place {b : Nat} {w : Word} (f : FmtK) (h : .ofNat 32 (b + f.place) = w) (hb : b % 2 ^ 25 = b % 2 ^ 1) (hlt : b < 2 ^ 32) :
    ofWord w = f ∧ w.toNat / 2 ^ 25 = b / 2 ^ 25 ∧ fieldNat w 0 1 = b % 2 ^ 1 := by
  cases f
  obtain ⟨h, hm⟩ := word_of_base h (by simp only [place]; omega) hlt
  simp only [place, ofWord, mk.injEq, ← BitVec.toNat_inj, fieldAt_toNat, fieldNat] at h ⊢
  and_intros <;> omega

theorem FmtKf.ofWord_of_place {b : Nat} {w : Word} (f : FmtKf) (h : .ofNat 32 (b + f.place) = w) (hb : b % 2 ^ 25 = b % 2 ^ 3 + b / 2 ^ 7 % 2 ^ 10 * 2 ^ 7 + b / 2 ^ 21 % 2 ^ 1 * 2 ^ 21) (hlt : b < 2 ^ 32) :
    ofWord w = f ∧ w.toNat / 2 ^ 25 = b / 2 ^ 25 ∧ fieldNat w 0 3 = b % 2 ^ 3 ∧ fieldNat w 7 10 = b / 2 ^ 7 % 2 ^ 10 ∧ fieldNat w 21 1 = b / 2 ^ 21 % 2 ^ 1 := by
  cases f
  obtain ⟨h, hm⟩ := word_of_base h (by simp only [place]; omega) hlt
  simp only [place, ofWord, mk.injEq, ← BitVec.toNat_inj, fieldAt_toNat, fieldNat] at h ⊢
  and_intros <;> omega

theorem FmtG.ofWord_of_place {b : Nat} {w : Word} (f : FmtG) (h : .ofNat 32 (b + f.place) = w) (hb : b % 2 ^ 25 = b % 2 ^ 3) (hlt : b < 2 ^ 32) :
    ofWord w = f ∧ w.toNat / 2 ^ 25 = b / 2 ^ 25 ∧ fieldNat w 0 3 = b % 2 ^ 3 := by
  cases f
  obtain ⟨h, hm⟩ := word_of_base h (by simp only [place]; omega) hlt
  simp only [place, ofWord, mk.injEq, ← BitVec.toNat_inj, fieldAt_toNat, fieldNat] at h ⊢
  and_intros <;> omega

theorem FmtGs.ofWord_of_place {b : Nat} {w : Word} (f : FmtGs) (h : .ofNat 32 (b + f.place) = w) (hb : b % 2 ^ 25 = b % 2 ^ 3 + b / 2 ^ 8 % 2 ^ 14 * 2 ^ 8) (hlt : b < 2 ^ 32) :
    ofWord w = f ∧ w.toNat / 2 ^ 25 = b / 2 ^ 25 ∧ fieldNat w 0 3 = b % 2 ^ 3 ∧ fieldNat w 8 14 = b / 2 ^ 8 % 2 ^ 14 := by
  cases f
  obtain ⟨h, hm⟩ := word_of_base h (by simp only [place]; omega) hlt
  simp only [place, ofWord, mk.injEq, ← BitVec.toNat_inj, fieldAt_toNat, fieldNat] at h ⊢
  and_intros <;> omega

theorem FmtY.ofWord_of_place {b : Nat} {w : Word} (f : FmtY) (h : .ofNat 32 (b + f.place) = w) (hb : b % 2 ^ 25 = b % 2 ^ 3) (hlt : b < 2 ^ 32) :
    ofWord w = f ∧ w.toNat / 2 ^ 25 = b / 2 ^ 25 ∧ fieldNat w 0 3 = b % 2 ^ 3 := by
  cases f
  obtain ⟨h, hm⟩ := word_of_base h (by simp only [place]; omega) hlt
  simp only [place, ofWord, mk.injEq, ← BitVec.toNat_inj, fieldAt_toNat, fieldNat] at h ⊢
  and_intros <;> omega

theorem FmtTret.ofWord_of_place {b : Nat} {w : Word} (f : FmtTret) (h : .ofNat 32 (b + f.place) = w) (hb : b % 2 ^ 25 = b % 2 ^ 3 + b / 2 ^ 4 % 2 ^ 18 * 2 ^ 4) (hlt : b < 2 ^ 32) :
    ofWord w = f ∧ w.toNat / 2 ^ 25 = b / 2 ^ 25 ∧ fieldNat w 0 3 = b % 2 ^ 3 ∧ fieldNat w 4 18 = b / 2 ^ 4 % 2 ^ 18 := by
  cases f
  obtain ⟨h, hm⟩ := word_of_base h (by simp only [place]; omega) hlt
  simp only [place, ofWord, mk.injEq, ← BitVec.toNat_inj, fieldAt_toNat, fieldNat] at h ⊢
  and_intros <;> omega

theorem FmtSmask.ofWord_of_place {b : Nat} {w : Word} (f : FmtSmask) (h : .ofNat 32 (b + f.place) = w) (hb : b % 2 ^ 25 = b % 2 ^ 3 + b / 2 ^ 4 % 2 ^ 18 * 2 ^ 4) (hlt : b < 2 ^ 32) :
    ofWord w = f ∧ w.toNat / 2 ^ 25 = b / 2 ^ 25 ∧ fieldNat w 0 3 = b % 2 ^ 3 ∧ fieldNat w 4 18 = b / 2 ^ 4 % 2 ^ 18 := by
  cases f
  obtain ⟨h, hm⟩ := word_of_base h (by simp only [place]; omega) hlt
  simp only [place, ofWord, mk.injEq, ← BitVec.toNat_inj, fieldAt_toNat, fieldNat] at h ⊢
  and_intros <;> omega

theorem FmtD.ofWord_of_place {b : Nat} {w : Word} (f : FmtD) (h : .ofNat 32 (b + f.place) = w) (hb : b % 2 ^ 25 = b % 2 ^ 15) (hlt : b < 2 ^ 32) :
    ofWord w = f ∧ w.toNat / 2 ^ 25 = b / 2 ^ 25 ∧ fieldNat w 0 15 = b % 2 ^ 15 := by
  cases f
  obtain ⟨h, hm⟩ := word_of_base h (by simp only [place]; omega) hlt
  simp only [place, ofWord, mk.injEq, ← BitVec.toNat_inj, fieldAt_toNat, fieldNat] at h ⊢
  and_intros <;> omega

theorem FmtRng.ofWord_of_place {b : Nat} {w : Word} (f : FmtRng) (h : .ofNat 32 (b + f.place) = w) (hb : b % 2 ^ 25 = b % 2 ^ 3 + b / 2 ^ 4 % 2 ^ 4 * 2 ^ 4) (hlt : b < 2 ^ 32) :
    ofWord w = f ∧ w.toNat / 2 ^ 25 = b / 2 ^ 25 ∧ fieldNat w 0 3 = b % 2 ^ 3 ∧ fieldNat w 4 4 = b / 2 ^ 4 % 2 ^ 4 := by
  cases f
  obtain ⟨h, hm⟩ := word_of_base h (by simp only [place]; omega) hlt
  simp only [place, ofWord, mk.injEq, ← BitVec.toNat_inj, fieldAt_toNat, fieldNat] at h ⊢
  and_intros <;> omega

/-! ### Encoding, then decoding -/

/-- A check in the decoder comes to an instruction where the branch that its condition picks does. -/
theorem ite_eq_ok {c : Prop} [Decidable c] {a b : Except DecodeError Instr} {i : Instr} :
    (if c then a else b) = .ok i ↔ (c → a = .ok i) ∧ (¬c → b = .ok i) := by
  split <;> simp [*]

/-- The native reading gives back the instruction of every row: the word's major chooses the row's rows, its fixed bits the row, and its fields are the operands. -/
theorem decode_encode {i : Instr} {w : Word} (hn : i.isNative = true) (h : encode i = some w) : decode w = .ok i := by
  cases i
  case next | nextVa => exact absurd hn Bool.false_ne_true
  -- of the others those with a row remain, each with its word
  all_goals simp only [encode, encodeNat, Option.map_some, Option.map_none, Option.some.injEq, reduceCtorEq, Nat.add_assoc] at h
  case mxend | mxres | hintNeg | hintNb | hintDtree =>
    subst h
    rfl
  case mxdrnI32 | mxdrnI64 | mxdrnF32 | team | mxfold | hintExt | hintStall | hintRnd | hintSat | hintCache =>
    obtain ⟨hw, hmajor⟩ := word_of_base h (by omega) (by decide)
    rw [decode, hmajor]
    refine ite_eq_ok.mpr ?_
    simp [ite_eq_ok, fieldNat, ← hw, ← BitVec.toNat_inj]
    omega
  all_goals rename_i f
  all_goals obtain ⟨rfl, hbits⟩ := f.ofWord_of_place h rfl (by decide)
  all_goals simp only [decode, hbits]
  -- a major of one row; then the majors that more than one share, told apart by their fixed bits
  any_goals rfl
  all_goals refine ite_eq_ok.mpr ?_
  all_goals simp [hbits, ite_eq_ok]
  all_goals simp only [fieldNat] at hbits ⊢
  all_goals omega

/-- The Voxunet reading gives back `next` and `next.va`, whose words are those of `bra` and `brx` with the guard p0 (R429). -/
theorem decodeVox_encode {i : Instr} {w : Word} (hn : i.isNative = false) (h : encode i = some w) : decodeVox w = .ok i := by
  unfold Instr.isNative at hn
  split at hn
  case h_1 n =>
    have hbra : encode (.bra ⟨0, n⟩) = some w := by rw [← h]; simp [encode, encodeNat, FmtBra.place]
    rw [decodeVox, decode_encode rfl hbra]
    rfl
  case h_2 a =>
    have hbrx : encode (.brx ⟨0, a⟩) = some w := by rw [← h]; simp [encode, encodeNat, FmtA1.place]
    rw [decodeVox, decode_encode rfl hbrx]
    rfl
  case h_3 =>
    have hnone : encodeNat i = none := by simpa using hn
    simp [encode, hnone] at h

/-- Settles O4: one way by the row that lays the instruction out, the other by the branch of the decoder that read the word. -/
theorem encodingRoundTrips : Obligations.EncodingRoundTrips := by
  unfold Obligations.EncodingRoundTrips
  exact ⟨fun i w _ h => ⟨fun hn => decode_encode hn h, fun hn => decodeVox_encode hn h⟩, fun i w h => encode_of_decode h⟩

/-- Settles O3: each word is the encoding of its instruction. -/
theorem wordsDecodeAsEncoded : Obligations.WordsDecodeAsEncoded := by
  unfold Obligations.WordsDecodeAsEncoded
  exact ⟨decode_encode rfl rfl, decode_encode rfl rfl, decode_encode rfl rfl, decode_encode rfl rfl, decode_encode rfl rfl, decode_encode rfl rfl, decode_encode rfl rfl, decode_encode rfl rfl, decode_encode rfl rfl, decode_encode rfl rfl, decode_encode rfl rfl, decode_encode rfl rfl, decodeVox_encode rfl rfl⟩

end Sys2Proof
end

section
/-! PROOFS. Registers that read as wired (O13). -/

namespace Sys2Proof.Machine

/-- What is written to p0 is discarded (R265). -/
theorem setP_zero (w : Wave) (lanes vals : Lanes) : w.setP lanes 0 vals = w := if_pos rfl

/-- The register vlane reads as the lane's number (R263). -/
theorem vsrc_vlane (c : Ctx) (imm : Word) (role l : Nat) : c.vsrc imm 125 role l = BitVec.ofNat 32 l := rfl

/-- Settles O13: each number by the branch that reads it or writes it. -/
theorem hardwiredRegisters : Obligations.HardwiredRegisters := by
  unfold Obligations.HardwiredRegisters
  refine ⟨fun w lanes vals l => ⟨w.getP_zero l, setP_zero w lanes vals⟩, fun c imm role l => ?_, fun c g h s => ⟨rfl, rfl⟩⟩
  exact ⟨rfl, rfl, rfl, rfl, fun _ _ => vsrc_vlane c imm role l, rfl⟩

end Sys2Proof.Machine
end

section
/-! PROOFS. Hint words (O27). -/

namespace Sys2Proof.Machine

section
variable {i : Instr} {stall : Nat} {s : State} {w : Wave} {ga : Gang} {gr : Grid} {pc : Quad} {lanes : Lanes}

/-- A hint word of a wave that may issue, where no fetch watch matches: ILLOP, or the hint waits for the next word (R269, R270). -/
theorem issueHint_eq (hw : s.wave? s.issuer = some w) (hh : s.home? w = some (ga, gr)) (hc : s.canIssue w ga = true) (hg : w.nextGroup = some (pc, lanes))
    (hwatch : (s.ctx gr.asid).fetchMatches w pc = []) : issueHint i stall s =
      if !i.legal gr.regs || 2 ≤ w.hints.length || w.hintKinds.contains i.hintKind then .next (s.trap w.id lanes (illopReport ((encode i).getD 0) pc lanes))
      else .next (s.modWave w.id fun x => (x.hinted ((encode i).getD 0) pc lanes stall s.cycle.toNat).settle) := by
  unfold issueHint
  simp only [hw, hh, hc, hg, hwatch, Bool.not_true, Bool.false_eq_true, if_false, precise_illop]

/-- A hint moves its own lanes to the next word (R269). -/
theorem hinted_pcOf (w : Wave) (word : Word) (now : Nat) {l : Nat} (hl : l < 32) :
    (w.hinted word pc lanes stall now).pcOf l = if lanes.getLsbD l = true then pc + 4 else w.pcOf l := by
  have h := w.pcOf_setPcs lanes (fun _ => pc + 4) l
  simp only [hl, true_and] at h
  exact h

end

/-- Settles O27: every hint word is the same shared operation, which turns on the hints that already wait. -/
theorem hintWordsWait : Obligations.HintWordsWait := by
  unfold Obligations.HintWordsWait
  intro i stall s w ga gr pc lanes hi hw hh hc hg hwatch
  have hexec : exec i s = issueHint i stall s := by
    rcases hi with ⟨⟨_, rfl⟩, rfl⟩ | ⟨_, rfl, rfl⟩ | ⟨rfl, rfl⟩ | ⟨⟨_, rfl⟩, rfl⟩ | ⟨⟨_, rfl⟩, rfl⟩ | ⟨⟨_, _, rfl⟩, rfl⟩ | ⟨rfl, rfl⟩ | ⟨rfl, rfl⟩ <;> rfl
  rw [hexec, issueHint_eq hw hh hc hg hwatch]
  constructor
  · rintro ⟨hfew, hnew, hlegal⟩
    refine ⟨fun x => (x.hinted ((encode i).getD 0) pc lanes stall s.cycle.toNat).pc, ?_, fun x l hl => hinted_pcOf x _ _ hl⟩
    rw [if_neg (by simp [hlegal, hnew]; omega)]
    rfl
  · intro hill
    rw [if_pos (by rcases hill with h | h <;> simp [h])]
    rfl

end Sys2Proof.Machine
end

section
/-! PROOFS. Comparisons and sel (O17). -/

namespace Sys2Proof.Machine

section
variable {i : Instr} {s t : State} {c : Ctx} {q : Nat}

/-- A word whose effect is one predicate writes it as `PredicateResult` says. -/
theorem issueOk_putP_of_eq {g : Ctx → Nat → Bool} {v : Nat → Bool} (hv : ∀ l, g c l = v l) (h : Issues i s c t) :
    PredicateResult (issueOk i s fun c => c.putP q (g c)) c t q v := by
  rw [← funext hv]
  exact putP_result _ _ _ _ (issueOk_completes h _)

end

/-- The two's complement reading of a register is its integer value (R280). -/
theorem signedOf_toNat {n : Nat} (x : BitVec n) : signedOf n x.toNat = x.toInt := by
  cases n with
  | zero => simp [signedOf, BitVec.toInt, BitVec.eq_nil x]
  | succ n =>
    have hpow : 2 ^ (n + 1) = 2 * 2 ^ n := Nat.pow_succ'
    simp only [signedOf, BitVec.toInt, Nat.mod_eq_of_lt x.isLt, Nat.add_sub_cancel]
    by_cases h : 2 ^ n ≤ x.toNat
    · rw [if_pos ⟨n.succ_ne_zero, h⟩, if_neg (by omega), Nat.cast_pow, Nat.cast_ofNat]
    · rw [if_neg fun hn => h hn.2, if_pos (by omega)]

/-- The condition codes of R278 on two registers: equality, the signed order and the unsigned one. -/
theorem icmpHolds_toNat {n : Nat} (code : Nat) (a b : BitVec n) : icmpHolds code n a.toNat b.toNat = match code with
    | 0 => decide (a = b)
    | 1 => decide (a ≠ b)
    | 2 => decide (a.toInt < b.toInt)
    | 3 => decide (a.toInt ≤ b.toInt)
    | 4 => decide (b.toInt < a.toInt)
    | 5 => decide (b.toInt ≤ a.toInt)
    | 6 => decide (a.toNat < b.toNat)
    | 7 => decide (a.toNat ≤ b.toNat)
    | 8 => decide (b.toNat < a.toNat)
    | 9 => decide (b.toNat ≤ a.toNat)
    | _ => false := by
  simp only [icmpHolds, signedOf_toNat, BitVec.toNat_inj, ne_eq, gt_iff_lt, ge_iff_le] <;> rfl

/-- Settles O17: the integer comparisons by their codes on the operands' readings, the floating ones and sel as they stand. -/
theorem comparesSetPredicates : Obligations.ComparesSetPredicates := by
  unfold Obligations.ComparesSetPredicates
  refine ⟨fun f s t c => ⟨?icmp, ?icmp64, ?fcmp, ?dcmp⟩, fun f s t c => issueOk_putV⟩
  case icmp => exact issueOk_putP_of_eq fun _ => icmpHolds_toNat _ _ _
  case icmp64 => exact issueOk_putP_of_eq fun _ => icmpHolds_toNat _ _ _
  case fcmp => exact issueOk_putP_of_eq fun _ => rfl
  case dcmp => exact issueOk_putP_of_eq fun _ => rfl

end Sys2Proof.Machine
end

section
/-! PROOFS. Global loads and stores, line operations and ldlod (O28). -/

namespace Sys2Proof.Machine

/-- A set that is not empty has a lane. -/
theorem laneList_ne_nil {m : Lanes} (h : m ≠ 0) : laneList m ≠ [] := by
  intro hnil
  refine h (BitVec.eq_of_getLsbD_eq fun l hl => ?_)
  have hout : l ∉ laneList m := by simp [hnil]
  rw [mem_laneList, not_and] at hout
  rw [Bool.eq_false_iff.mpr (hout hl)]
  exact BitVec.getLsbD_zero.symm

section
variable {c : Ctx} {f : FmtL} {es : List (Nat × BitVec 512)} {s t u : State}

/-- The lanes of an ldlod once its resource entries are read: each with its coordinates and the place of its own entry among them (R330 to R332). -/
def Ctx.lodLanes (c : Ctx) (f : FmtL) (es : List (Nat × BitVec 512)) : List AccLane := (laneList c.act).map fun l =>
  { newLane l 0 0 ((c.w.getV l (f.d.toNat + 2)).setWidth 64) ((c.w.getV l (f.d.toNat + 3)).setWidth 64) with
    side := es.findIdx fun e => e.1 = c.resIndex f.r.toNat l }

/-- The access of an ldlod once its resource entries are read. -/
def Ctx.lodOp (c : Ctx) (f : FmtL) (es : List (Nat × BitVec 512)) : MemOp :=
  .plain (.lod es f.z.toNat f.l.toNat f.p.toNat) (some (f.d.toNat, 2)) (c.lodLanes f es)

theorem lodLanes_lane (c : Ctx) (f : FmtL) (es : List (Nat × BitVec 512)) : (c.lodLanes f es).map (fun x => x.lane) = laneList c.act := by
  rw [Ctx.lodLanes, List.map_map]
  exact List.map_id _

theorem lodLanes_fields {x : AccLane} (h : x ∈ c.lodLanes f es) : x.status = .fresh ∧ x.data = (c.w.getV x.lane (f.d.toNat + 2)).setWidth 64 ∧
    x.data2 = (c.w.getV x.lane (f.d.toNat + 3)).setWidth 64 ∧ x.side = es.findIdx fun e => e.1 = (c.ssrc f.r.toNat 0 x.lane).toNat := by
  obtain ⟨l, -, rfl⟩ := List.mem_map.mp h
  exact ⟨rfl, rfl, rfl, rfl⟩

theorem lodOp_asked (ha : c.act ≠ 0) : (c.lodOp f es).asked ≠ [] := by
  obtain ⟨l, hl⟩ := List.exists_mem_of_ne_nil _ (laneList_ne_nil ha)
  exact asked_ne_nil ⟨_, List.mem_map_of_mem hl, nofun⟩

/-- Outside a deterministic launch an ldlod with some lane ACTIVE is one more access in flight. -/
theorem fly_lodOp (ha : c.act ≠ 0) (hdet : c.gr.det = false) :
    c.fly (c.lodOp f es) 1 4 u = { u with flights := u.flights ++ [c.accessOf (c.lodOp f es) 1 4 u], nextId := u.nextId + 1 } := by
  have hfly : c.fly (c.lodOp f es) 1 4 u =
      let v : State := { u with flights := u.flights ++ [c.accessOf (c.lodOp f es) 1 4 u], nextId := u.nextId + 1 }
      if (c.lodOp f es).asked = [] then v.finishAccess u.nextId else if (c.gr.det && true) = true then v.performAll u.nextId else v := rfl
  rw [hfly, if_neg (lodOp_asked ha), hdet]
  rfl

theorem ldlod_of_inactive (ha : c.act = 0) : c.ldlod f t = .ok t := if_pos ha

theorem ldlod_of_read (ha : c.act ≠ 0) (hes : c.entries f.r.toNat t = .ok (es, u)) (hdet : c.gr.det = false) : c.ldlod f t = .ok (c.fly (c.lodOp f es) 1 4 u) := by
  unfold Ctx.ldlod
  simp only [if_neg ha, hes, hdet, Bool.false_and, Bool.false_eq_true, if_false]
  rfl

theorem exec_ldlod : exec (.ldlod f) s = issue (.ldlod f) s fun c t => c.ldlod f t := rfl

end

/-- Settles O28: each word launches its access; an ldlod puts its own in flight once its entries are read. -/
theorem loadsAndStoresAccess : Obligations.LoadsAndStoresAccess := by
  unfold Obligations.LoadsAndStoresAccess
  refine ⟨⟨fun f s t c => ?words, fun f s t c => ?locks, fun f s t c => ?pref⟩, fun f s t u c es h => ⟨fun ha => ?idle, fun ha hes hdet => ?lod⟩⟩
  case words =>
    refine ⟨?_, ?_, ?_, ?_, ?_, ?_, ?_, ?_, ?_, ?_⟩
    all_goals exact fun h => issue_launches h rfl
  case locks =>
    simp only [← ea_zero]
    exact ⟨fun h => issue_launches h rfl, fun h => issue_launches h rfl⟩
  case pref =>
    simp only [← ea_zero]
    exact fun h => issue_launches h rfl
  case idle =>
    rw [exec_ldlod]
    exact issue_ok h (ldlod_of_inactive ha)
  case lod =>
    refine ⟨c.lodLanes f es, c.accessOf (c.lodOp f es) 1 4 u, ?_, rfl, rfl, rfl, rfl, rfl, rfl, lodLanes_lane c f es, fun x hx => lodLanes_fields hx⟩
    rw [exec_ldlod, ← fly_lodOp ha hdet]
    exact issue_ok h (ldlod_of_read ha hes hdet)

end Sys2Proof.Machine
end

section
/-! PROOFS. The fetch of a word (O2). -/

namespace Sys2Proof.Machine

/-- The low four bytes of a number make the word of its low 32 bits, least significant first (R260). -/
theorem bytesWord_bytesOfNat (x : Nat) : bytesWord (bytesOfNat 4 x) = some (BitVec.ofNat 32 x) := by
  simp only [bytesOfNat, bytesWord, Option.some.injEq, ← BitVec.toNat_inj, BitVec.toNat_append, BitVec.toNat_ofNat]
  rw [← Nat.shiftLeft_add_eq_or_of_lt (by omega), ← Nat.shiftLeft_add_eq_or_of_lt (by omega), ← Nat.shiftLeft_add_eq_or_of_lt (by omega)]
  simp only [Nat.shiftLeft_eq]
  omega

/-- The instruction that four bytes of a line decode to is the one that the word fetched there decodes to. -/
theorem decode_of_decodeBytes_lineBytes {d : BitVec 512} {off : Nat} {i : Instr} (h : decodeBytes (lineBytes d off 4) = some i) :
    decode (BitVec.ofNat 32 (d.toNat / 2 ^ (8 * off))) = .ok i := by
  rw [decodeBytes, lineBytes, bytesWord_bytesOfNat, Option.bind_some] at h
  cases hd : decode (BitVec.ofNat 32 (d.toNat / 2 ^ (8 * off))) with
  | error e => rw [hd] at h; exact absurd h nofun
  | ok j => rw [hd] at h; exact congrArg _ (Option.some.inj h)

section
variable {s s1 : State} {w : Wave} {ga : Gang} {gr : Grid} {pc : Quad} {lanes : Lanes} {core asid va : Nat} {priv : Bool}

/-- A fetch from a line that the instruction cache holds for the privilege changes nothing (R51, R318). -/
theorem fetch_of_held {l : CacheLine} (hva : va < 2 ^ 60) (hl : findLine s.caches.l1i core asid (va / 64) false = some l) (hpv : l.pv = false ∨ priv = true) :
    s.fetch core asid va priv = (.ok (BitVec.ofNat 32 (l.data.toNat / 2 ^ (8 * (va % 64)))), s) := by
  have hpass : (some l).filter (fun l => !l.pv || priv) = some l := Option.filter_some_pos (by rcases hpv with h | h <;> simp [h])
  unfold State.fetch
  rw [if_neg (by omega), hl, hpass]

/-- A fetch of a line that the instruction cache lacks is a read at the home, and the line is installed (R318). -/
theorem fetch_of_absent {tr : Trans} {d : BitVec 512} {s2 : State} (hva : va < 2 ^ 60) (hl : findLine s.caches.l1i core asid (va / 64) false = none)
    (htr : s.translate (quadOf core) asid va needFetch priv 0 = (.ok tr, s1)) (hd : s1.lineHome asid tr.pa tr.leaf = (d, s2)) :
    s.fetch core asid va priv = (.ok (BitVec.ofNat 32 (d.toNat / 2 ^ (8 * (va % 64)))), s2.modCaches fun c =>
      { c with l1i := installFetched c.l1i ⟨core, asid, va / 64, tr.pa / 64, d, entryBit tr.leaf 4, false, false, false, va / 64⟩ }) := by
  unfold State.fetch
  rw [if_neg (by omega), hl, Option.filter_none, htr]
  simp only [hd]

/-- The next word of a wave of a native launch issues as the instruction that it decodes to. -/
theorem fetchNext_of_native {x : Word} {i : Instr} (hw : s.wave? w.id = some w) (hh : s.home? w = some (ga, gr)) (hc : s.canIssue w ga = true)
    (hg : w.nextGroup = some (pc, lanes)) (hnative : gr.vox = none) (hf : s.fetch w.core gr.asid pc.toNat w.priv = (.ok x, s1)) (hd : decode x = .ok i) :
    s.fetchNext w.id = .instr i { s1 with issuer := w.id } := by
  have hword : s.fetchWord w gr pc.toNat = (.ok x, s1) := by rw [← hf, State.fetchWord, hnative]; rfl
  have hdecode : gr.decode pc x = .ok i := by rw [← hd, Grid.decode, Grid.virtualAt, hnative]; rfl
  unfold State.fetchNext
  simp only [hw, hh, hc, hg, hword, hdecode, Bool.not_true, Bool.false_eq_true, if_false]

end

/-- Settles O2: the word that the fetch finds, in the cache or at the home, is the one that the four bytes make. -/
theorem fetchDecodesBytesAtPc : Obligations.FetchDecodesBytesAtPc := by
  unfold Obligations.FetchDecodesBytesAtPc
  intro s w ga gr pc lanes i hw hh hc hg hnative hpc _
  refine ⟨fun l hl hpv hbytes => ?held, fun tr s1 d s2 hl htr hd hbytes => ?absent⟩
  case held => exact fetchNext_of_native hw hh hc hg hnative (fetch_of_held hpc hl hpv) (decode_of_decodeBytes_lineBytes hbytes)
  case absent =>
    exact ⟨_, fetchNext_of_native hw hh hc hg hnative (fetch_of_absent hpc hl htr hd) (decode_of_decodeBytes_lineBytes hbytes), rfl, rfl, rfl, rfl, rfl⟩

end Sys2Proof.Machine
end

section
/-! PROOFS. Shifts and rotations (O15). -/

namespace Sys2Proof.Machine

section
variable {n k : Nat}

/-- A shift to the left is a product modulo the width, by an amount in full (R290). -/
theorem shl_eq (a : BitVec n) (k : Nat) : shl a k = BitVec.ofNat n (a.toNat * 2 ^ k) := by
  apply BitVec.eq_of_toNat_eq
  rw [BitVec.toNat_ofNat]
  by_cases hk : k < n
  · rw [shl, if_pos hk, BitVec.toNat_shiftLeft, Nat.shiftLeft_eq]
  · have hdvd : 2 ^ n ∣ a.toNat * 2 ^ k := Dvd.dvd.mul_left (Nat.pow_dvd_pow 2 (Nat.le_of_not_lt hk)) _
    rw [shl, if_neg hk, Nat.mod_eq_zero_of_dvd hdvd]
    exact BitVec.toNat_zero

/-- A shift to the right is a quotient, by an amount in full (R290). -/
theorem shr_eq (a : BitVec n) (k : Nat) : shr a k = BitVec.ofNat n (a.toNat / 2 ^ k) := by
  apply BitVec.eq_of_toNat_eq
  rw [BitVec.toNat_ofNat, Nat.mod_eq_of_lt (Nat.lt_of_le_of_lt (Nat.div_le_self _ _) a.isLt)]
  by_cases hk : k < n
  · rw [shr, if_pos hk, BitVec.toNat_ushiftRight, Nat.shiftRight_eq_div_pow]
  · have hsmall : a.toNat < 2 ^ k := Nat.lt_of_lt_of_le a.isLt (Nat.pow_le_pow_right (by decide) (Nat.le_of_not_lt hk))
    rw [shr, if_neg hk, Nat.div_eq_of_lt hsmall]
    exact BitVec.toNat_zero

theorem sar_of_le (a : BitVec n) (h : k ≤ n) : sar a k = a.sshiftRight k := by rw [sar, min_eq_left h]

theorem rol_of_lt (a : BitVec n) (h : k < n) : rol a k = a.rotateLeft k := by rw [rol, Nat.mod_eq_of_lt h]

end

/-- Settles O15: shifts as products and quotients by powers of 2; an immediate amount is below the width. -/
theorem shiftsShift : Obligations.ShiftsShift := by
  unfold Obligations.ShiftsShift
  refine ⟨fun f s t c => ⟨?shl, ?shr, issueOk_putV, issueOk_putV⟩, fun f s t c => ⟨?shlImm, ?shrImm, ?sarImm, ?rolImm⟩,
    fun f s t c => ⟨?shlImm64, ?shrImm64, ?sarImm64, ?rolImm64⟩⟩
  case shl | shlImm => exact issueOk_putV_of_eq fun _ => shl_eq _ _
  case shr | shrImm => exact issueOk_putV_of_eq fun _ => shr_eq _ _
  case sarImm => exact issueOk_putV_of_eq fun _ => sar_of_le _ f.n.isLt.le
  case rolImm => exact issueOk_putV_of_eq fun _ => rol_of_lt _ f.n.isLt
  case shlImm64 => exact issueOk_putV2_of_eq fun _ => shl_eq _ _
  case shrImm64 => exact issueOk_putV2_of_eq fun _ => shr_eq _ _
  case sarImm64 => exact issueOk_putV2_of_eq fun _ => sar_of_le _ f.n.isLt.le
  case rolImm64 => exact issueOk_putV2_of_eq fun _ => rol_of_lt _ f.n.isLt

end Sys2Proof.Machine
end

section
/-! PROOFS. Bit fields, immediates, moves and counts (O16). -/

namespace Sys2Proof.Machine

/-! ### Bit fields (R291) -/

theorem fieldPos_eq (b : Word) : fieldPos b = b.toNat % 32 := bitsOf_zero b.toNat 5

theorem fieldWidth_eq (b : Word) : fieldWidth b = min (min (b.toNat / 2 ^ 8 % 64) 32) (32 - b.toNat % 32) := by
  rw [← fieldPos_eq]
  rfl

theorem signedOf_bitsOf (x k n : Nat) : signedOf n (bitsOf x k n) = signedOf n (x / 2 ^ k) := signedOf_mod (Nat.mod_mod _ _)

/-- bfe gives the field itself, extended as bit 16 of b says. -/
theorem bitExtract_eq (a b : Word) : bitExtract a b = if fieldWidth b = 0 then 0
    else if b.getLsbD 16 = true then BitVec.ofInt 32 (signedOf (fieldWidth b) (a.toNat / 2 ^ fieldPos b))
    else BitVec.ofNat 32 (a.toNat / 2 ^ fieldPos b % 2 ^ fieldWidth b) := by
  rw [← signedOf_bitsOf]
  rfl

/-- The mask of a field has its bits there and no others. -/
theorem getLsbD_fieldMask (p w : Nat) {k : Nat} (hk : k < 32) :
    (BitVec.ofNat 32 ((2 ^ w - 1) * 2 ^ p)).getLsbD k = decide (p ≤ k ∧ k < p + w) := by
  rw [BitVec.getLsbD_ofNat, decide_eq_true hk, Bool.true_and, Nat.testBit_mul_two_pow, Nat.testBit_two_pow_sub_one, ← Bool.decide_and]
  exact decide_eq_decide.mpr (by omega)

/-- bfi takes a's low bits in the field and d's elsewhere. -/
theorem getLsbD_bitInsert (a b d : Word) {k : Nat} (hk : k < 32) :
    (bitInsert a b d).getLsbD k = if fieldPos b ≤ k ∧ k < fieldPos b + fieldWidth b then a.getLsbD (k - fieldPos b) else d.getLsbD k := by
  rw [bitInsert, BitVec.getLsbD_or, BitVec.getLsbD_and, BitVec.getLsbD_and, BitVec.getLsbD_not, getLsbD_fieldMask _ _ hk, BitVec.getLsbD_shiftLeft]
  by_cases hin : fieldPos b ≤ k ∧ k < fieldPos b + fieldWidth b <;> simp [hk, hin]

/-! ### Counts (R295) -/

section
variable {n : Nat}

theorem popCount_eq (x : BitVec n) : popCount x = (List.range n).countP fun k => x.getLsbD k := List.countP_eq_length_filter.symm

/-- Above the leading zeros' count nothing is set, and the bit below them is. -/
theorem leadingZeros_spec (x : BitVec n) : leadingZeros x ≤ n ∧ x.toNat < 2 ^ (n - leadingZeros x) ∧
    (leadingZeros x < n → x.getLsbD (n - 1 - leadingZeros x) = true) := by
  by_cases hx : x = 0
  · rw [leadingZeros, if_pos hx, hx]
    simp
  · have hne : x.toNat ≠ 0 := fun h => hx (BitVec.eq_of_toNat_eq h)
    have htop : x.toNat.log2 < n := (Nat.log2_lt hne).mpr x.isLt
    rw [leadingZeros, if_neg hx, show n - (n - 1 - x.toNat.log2) = x.toNat.log2 + 1 by omega, show n - 1 - (n - 1 - x.toNat.log2) = x.toNat.log2 by omega]
    exact ⟨by omega, Nat.lt_log2_self, fun _ => Nat.testBit_log2 hne⟩

end

/-- Settles O16: bit fields by their position and width, the sum by its hint, counts by the bits that are set. -/
theorem fieldAndMoveWordsCompute : Obligations.FieldAndMoveWordsCompute := by
  unfold Obligations.FieldAndMoveWordsCompute
  refine ⟨?fields, fun f s t c => ⟨?iadd, issueOk_putV⟩, fun f s t c => issueOk_putV, fun f s t c => ⟨issueOk_putV, issueOk_putV2, ?popc, ?popc64, ?clz, ?clz64⟩⟩
  case fields =>
    intro f s t c pos width
    have hpos (l : Nat) : pos l = fieldPos (c.b f l) := (fieldPos_eq _).symm
    have hwidth (l : Nat) : width l = fieldWidth (c.b f l) := (fieldWidth_eq _).symm
    simp only [hpos, hwidth]
    exact ⟨issueOk_putV_of_eq fun l => bitExtract_eq _ _, fun h => ⟨_, issueOk_putV h, fun l k hk => getLsbD_bitInsert _ _ _ hk⟩⟩
  case iadd =>
    exact fun h => ⟨fun hnone => issueOk_putV_of_eq (fun _ => satOr_of_none hnone) h, fun p hsome => issueOk_putV_of_eq (fun _ => satOr_of_some hsome) h⟩
  case popc | popc64 => exact issueOk_putV_of_eq fun l => congrArg (BitVec.ofNat 32) (popCount_eq _)
  case clz => exact fun h => ⟨fun l => leadingZeros (c.u f l), issueOk_putV h, fun l => leadingZeros_spec _⟩
  case clz64 => exact fun h => ⟨fun l => leadingZeros (c.u64 f l), issueOk_putV h, fun l => leadingZeros_spec _⟩

end Sys2Proof.Machine
end

section
/-! PROOFS. Shuffles (O21). -/

namespace Sys2Proof.Machine

section
variable {c : Ctx} {f : FmtR} {i : Instr} {s t : State} {l : Nat} {source : Nat → Nat → Nat → Int}

theorem width_pos (c : Ctx) : 0 < c.width := by
  unfold Ctx.width
  cases c.gr.vox with
  | none => simp
  | some m => cases c.vox <;> simp

/-- A lane lies in its block (R431). -/
theorem blockBase_le (c : Ctx) (l : Nat) : c.blockBase l ≤ l := Nat.div_mul_le_self _ _

theorem lt_blockBase_add_width (c : Ctx) (l : Nat) : l < c.blockBase l + c.width := Nat.lt_div_mul_add (width_pos c)

/-- The place in its block that a lane's source has; below 0 or past the width where there is none. -/
def Ctx.sourcePlace (c : Ctx) (f : FmtR) (source : Nat → Nat → Nat → Int) (l : Nat) : Int := source (l - c.blockBase l) (c.b f l).toNat c.width

/-- What a shuffle gives a lane (R307). -/
def Ctx.shuffled (c : Ctx) (f : FmtR) (source : Nat → Nat → Nat → Int) (l : Nat) : Word :=
  if 0 ≤ c.sourcePlace f source l ∧ c.sourcePlace f source l < c.width then c.laneSrc f (c.blockBase l + (c.sourcePlace f source l).toNat) else c.laneSrc f l

theorem shuffle_eq (source : Nat → Nat → Nat → Int) : shuffle i f s source = issueOk i s fun c => c.putV f.d.toNat (c.shuffled f source) := rfl

/-- A shuffle gives a lane the value of the lane `j` of its block, when its source's place is there. -/
theorem shuffled_eq {j : Nat} {inside : Prop} [Decidable inside] (hin : (0 ≤ c.sourcePlace f source l ∧ c.sourcePlace f source l < c.width) ↔ inside)
    (hj : inside → c.blockBase l + (c.sourcePlace f source l).toNat = j) : c.shuffled f source l = if inside then c.laneSrc f j else c.laneSrc f l := by
  unfold Ctx.shuffled
  by_cases h : inside
  · rw [if_pos h, if_pos (hin.mpr h), hj h]
  · rw [if_neg h, if_neg (h ∘ hin.mp)]

/-- A source that its place in the block names (shfl.idx and shfl.xor). -/
theorem shuffled_of_place {k : Nat} (hk : c.sourcePlace f source l = k) :
    c.shuffled f source l = if k < c.width then c.laneSrc f (c.blockBase l + k) else c.laneSrc f l :=
  shuffled_eq (by omega) fun _ => by omega

/-- A source `n` lanes below, in the block (shfl.up). -/
theorem shuffled_of_below {n : Nat} (hn : c.sourcePlace f source l = ((l - c.blockBase l : Nat) : Int) - n) :
    c.shuffled f source l = if c.blockBase l + n ≤ l then c.laneSrc f (l - n) else c.laneSrc f l := by
  have hle := blockBase_le c l
  have hlt := lt_blockBase_add_width c l
  exact shuffled_eq (by omega) fun _ => by omega

/-- A source `n` lanes above, in the block (shfl.down). -/
theorem shuffled_of_above {n : Nat} (hn : c.sourcePlace f source l = ((l - c.blockBase l : Nat) : Int) + n) :
    c.shuffled f source l = if l + n < c.blockBase l + c.width then c.laneSrc f (l + n) else c.laneSrc f l := by
  have hle := blockBase_le c l
  exact shuffled_eq (by omega) fun _ => by omega

/-- A shuffle writes what it gives each lane. -/
theorem shuffle_result {g : Nat → Word} (hg : ∀ l, c.shuffled f source l = g l) (h : Issues i s c t) :
    ∃ v, VectorResult (shuffle i f s source) c t f.d.toNat v ∧ ∀ l, l < 32 → v l = g l := by
  rw [shuffle_eq]
  exact ⟨_, issueOk_putV h, fun l _ => hg l⟩

end

/-- Settles O21: each form by the place of its source in the lane's block. -/
theorem shufflesExchange : Obligations.ShufflesExchange := by
  unfold Obligations.ShufflesExchange
  refine ⟨?_, fun c hn => ⟨width_of_native hn, fun l hl => blockBase_of_native hn hl⟩⟩
  intro f s t c n src
  have hsrc (j : Nat) : src j = c.laneSrc f j := (laneSrc_eq f j).symm
  simp only [hsrc]
  refine ⟨?idx, ?xor, ?up, ?down⟩
  case idx => exact shuffle_result (source := fun _ n _ => (n % 32 : Nat)) fun l => shuffled_of_place rfl
  case xor => exact shuffle_result (source := fun i n _ => (i ^^^ n % 32 : Nat)) fun l => shuffled_of_place rfl
  case up => exact shuffle_result (source := fun i n _ => (i : Int) - n) fun l => shuffled_of_below rfl
  case down => exact shuffle_result (source := fun i n _ => (i : Int) + n) fun l => shuffled_of_above rfl

end Sys2Proof.Machine
end

section
/-! PROOFS. meet and nop (O24). -/

namespace Sys2Proof.Machine

section
variable {c : Ctx} {t : State} {d : BitVec 7} {m : Nat → Quad} {r : Result}

/-- A pair's write is a change of one wave's vector registers: those of the pair hold the value in the ACTIVE lanes (R266). -/
theorem putV2_withV (c : Ctx) (t : State) (d : Nat) (g : Nat → Quad) : ∃ F : Wave → SMap 32, c.putV2 d g t = t.modWave c.w.id (fun w => w.withV (F w)) ∧
    ∀ (w : Wave) (l n : Nat), l < 32 → n ≤ 111 → SMap.get (F w) (vKey l n) = if d ≤ 110 ∧ c.act.getLsbD l = true ∧ n = d then lo32 (g l)
      else if d ≤ 110 ∧ c.act.getLsbD l = true ∧ n = d + 1 then hi32 (g l) else w.getV l n := by
  by_cases hd : d ≤ 110
  · refine ⟨fun w => ((w.setVs c.act d fun l => lo32 (g l)).setVs c.act (d + 1) fun l => hi32 (g l)).v, if_pos hd, fun w l n hl hn => ?_⟩
    refine (Wave.getV_setVs (w.setVs c.act d fun l => lo32 (g l)) c.act (d + 1) (fun l => hi32 (g l)) l n (by omega) (by omega)).trans ?_
    rw [Wave.getV_setVs _ _ _ _ _ _ (by omega) (by omega)]
    by_cases hnd : n = d <;> simp [hnd, hl, hd]
  · refine ⟨fun w => w.v, ?_, fun w l n _ _ => ?_⟩
    · exact (if_neg hd).trans (modWave_of_fixed (w := c.w) fun _ _ _ => rfl).symm
    · simp only [hd, false_and, if_false]
      rfl

/-- A word that saves and sets MEET has the result of a meet (R316). -/
theorem meet_result (h : Completes r c (c.setMeet d m t)) : MeetResult r c t d.toNat m := by
  obtain ⟨F, hpair, hget⟩ := putV2_withV c t d.toNat c.w.meetOf
  refine ⟨fun w => (w.setMeets c.act m).meet, F, ?_, fun w l hl => ?_, hget⟩
  · rw [show r = _ from h, Ctx.setMeet, hpair, modWave_modWave (f := fun w => w.withV (F w)) fun _ => rfl, modWave_modWave (by intro w; rfl)]
    rfl
  · exact (Wave.meetOf_setMeets w c.act m l).trans (if_congr (and_iff_right hl) rfl rfl)

end

/-- Settles O24: both forms of meet save and set MEET, and nop has no effect. -/
theorem meetWordsSetMeet : Obligations.MeetWordsSetMeet := by
  unfold Obligations.MeetWordsSetMeet
  exact ⟨fun f s t c h => meet_result (issueOk_completes h _), fun f s t c h => meet_result (issueOk_completes h _), fun f s t c h => issueOk_completes h _⟩

end Sys2Proof.Machine
end

section
/-! PROOFS. Transactions that open, close and begin to commit (O32). -/

namespace Sys2Proof.Machine

section
variable {f : FmtG0} {s t : State} {c : Ctx}

/-! ### txb and txa (R345) -/

theorem exec_txb : exec (.txb f) s = execTxb f s := by rfl

theorem exec_txa : exec (.txa f) s = execTxa f s := by rfl

/-- No commit of the wave and no read of the ACTIVE lanes holds a transaction word. -/
theorem txFree (hc : t.committing c.w.id = false) (hr : t.txReading c.w.id c.act = false) : ¬(c.txWaits t || t.txReading c.w.id c.act) = true := by
  simp [Ctx.txWaits, hc, hr]

theorem txb_opens (hc : t.committing c.w.id = false) (hr : t.txReading c.w.id c.act = false) (h : Issues (.txb f) s c t) :
    Completes (exec (.txb f) s) c (t.modWave c.w.id fun w =>
      { w with txIn := (w.txIn &&& ~~~c.act) ||| c.act, txAbort := w.txAbort &&& ~~~c.act, txSet := w.txSet.filter fun x => !c.act.getLsbD x.lane }) := by
  rw [exec_txb, execTxb]
  exact issue_ok h (if_neg (txFree hc hr))

theorem txa_drops (hc : t.committing c.w.id = false) (hr : t.txReading c.w.id c.act = false) (h : Issues (.txa f) s c t) :
    Completes (exec (.txa f) s) c (t.modWave c.w.id fun w => { w with txIn := w.txIn &&& ~~~c.act, txSet := w.txSet.filter fun x => !c.act.getLsbD x.lane }) := by
  rw [exec_txa, execTxa]
  exact issue_ok h (if_neg (txFree hc hr))

end

/-! ### txc (R347) -/

section
variable {f : FmtTxc} {s t : State} {c : Ctx} {w : Wave}

theorem exec_txc : exec (.txc f) s = execTxc f s := by rfl

/-- Failures of some lanes noted change nothing but the counts. -/
theorem foldl_noteTx (ls : List Nat) (ok : Bool) (w : Wave) : ∃ m, ls.foldl (fun x l => x.noteTx l ok) w = { w with txFails := m } := by
  induction ls generalizing w with
  | nil => exact ⟨w.txFails, rfl⟩
  | cons l ls ih =>
    obtain ⟨m, hm⟩ := ih (w.noteTx l ok)
    exact ⟨m, hm⟩

theorem endCommit_of_left (h : w.txTodo ≠ 0) : w.endCommit = w := if_pos h

/-- A predicate that is written changes no other part of the wave. -/
theorem setP_predicates (w : Wave) (lanes : Lanes) (n : Nat) (vals : Lanes) : w.setP lanes n vals = { w with p := (w.setP lanes n vals).p } := by
  unfold Wave.setP
  split <;> rfl

/-- The end of a commit writes its predicate, true in the lanes that committed and false in the others that it was for, and changes nothing but its own notes besides (R347). -/
theorem endCommit_of_none_left (h : w.txTodo = 0) : ∃ p, w.endCommit = { w with p := p, txDone := 0, txCommitted := 0, txPred := none } ∧
    ∀ l q, ({ w with p := p } : Wave).getP l q = if q = (w.txPred.map BitVec.toNat).getD 0 ∧ q ≠ 0 ∧ w.txDone.getLsbD l = true then w.txCommitted.getLsbD l else w.getP l q := by
  refine ⟨(w.setP w.txDone ((w.txPred.map BitVec.toNat).getD 0) w.txCommitted).p, ?_, fun l q => ?_⟩
  · rw [Wave.endCommit, if_neg (not_not.mpr h), setP_predicates]
  · refine (Wave.getP_setP w w.txDone _ w.txCommitted l q).trans ?_
    exact if_congr (and_congr_right fun hq => by rw [hq]) rfl rfl

/-- The wave as the lanes of a set begin to commit: the words of the other ACTIVE lanes are gone and their failures noted. -/
def Ctx.beginsCommit (c : Ctx) (f : FmtTxc) (t : State) (todo : Lanes) (w : Wave) : Wave :=
  let w1 := (laneList (c.act &&& c.w.txIn &&& ~~~todo)).foldl (fun x l => x.noteTx l false) (w.dropTx (c.act &&& ~~~todo))
  { w1 with txIn := w1.txIn &&& ~~~c.act, txTodo := todo, txDone := c.act, txCommitted := 0, txPred := some f.p, txId := t.nextId }

/-- Lanes taken from a set and then the whole set: the set taken. -/
theorem andNot_andNot (x a b : Lanes) : x &&& ~~~(a &&& b) &&& ~~~a = x &&& ~~~a := by
  refine BitVec.eq_of_getLsbD_eq fun l hl => ?_
  simp only [BitVec.getLsbD_and, BitVec.getLsbD_not, hl, decide_true, Bool.true_and]
  cases a.getLsbD l <;> simp

theorem beginsCommit_eq (todo : Lanes) (w : Wave) : ∃ m, c.beginsCommit f t todo w = { w with
    txIn := w.txIn &&& ~~~c.act, txSet := w.txSet.filter (fun x => !(c.act &&& ~~~todo).getLsbD x.lane), txFails := m, txTodo := todo, txDone := c.act, txCommitted := 0,
    txPred := some f.p, txId := t.nextId } := by
  obtain ⟨m, hm⟩ := foldl_noteTx (laneList (c.act &&& c.w.txIn &&& ~~~todo)) false (w.dropTx (c.act &&& ~~~todo))
  refine ⟨m, ?_⟩
  unfold Ctx.beginsCommit
  rw [hm]
  simp only [Wave.dropTx, andNot_andNot]

/-- A word is kept where its lane commits or is not ACTIVE. -/
theorem mem_keptWords {todo act : Lanes} {set : List TxWord} {x : TxWord} :
    x ∈ set.filter (fun x => !(act &&& ~~~todo).getLsbD x.lane) ↔ x ∈ set ∧ (todo.getLsbD x.lane = true ∨ act.getLsbD x.lane = false) := by
  rw [List.mem_filter, BitVec.getLsbD_and, BitVec.getLsbD_not]
  by_cases hx : x.lane < 32
  · cases act.getLsbD x.lane <;> simp [hx, -BitVec.getLsbD_eq_getElem]
  · simp [hx, BitVec.getLsbD_of_ge act x.lane (by omega)]

/-- Outside deterministic mode lanes are tried in lane order. -/
theorem commitOrder_of_not_det (hd : c.gr.det = false) (lanes : Lanes) : c.commitOrder lanes = laneList lanes := by
  unfold Ctx.commitOrder
  simp only [hd, Bool.false_eq_true, if_false]

/-- Outside deterministic mode the lanes that none before them conflicts with begin to commit, each with the token that it may ask for. -/
theorem txc_begins (h : Issues (.txc f) s c t) (ha : c.act ≠ 0) (hc : t.committing c.w.id = false) (hr : t.txReading c.w.id c.act = false)
    (hu : t.txUnreported c.w c.act = false) (hd : c.gr.det = false) :
    let keep := c.w.txKeep [] (laneList (c.act &&& c.w.txIn &&& ~~~c.w.txAbort))
    Completes (exec (.txc f) s) c (keep.foldl (fun u l => u.askToken c.w l)
      (t.modWave c.w.id fun w => (c.beginsCommit f t (lanesWhere fun l => keep.contains l) w).endCommit)) := by
  intro keep
  rw [exec_txc, execTxc]
  refine issue_ok h ?_
  simp only [if_neg ha, Ctx.txWaits, hc, hr, hu, hd, commitOrder_of_not_det hd, Bool.or_self, Bool.false_and, Bool.false_eq_true, if_false]
  rfl

theorem askToken_of_few {lane : Nat} (h : (w.txFails.get lane).toNat < 16) : t.askToken w lane = t := if_pos h

theorem lanesWhere_singleton {l : Nat} (h : l < 32) : (lanesWhere fun k => [l].contains k) = laneBit l := by
  have hall : ∀ k : Fin 32, (lanesWhere fun j => [k.val].contains j) = laneBit k := by decide
  exact hall ⟨l, h⟩

theorem lanesWhere_none : (lanesWhere fun k => ([] : List Nat).contains k) = 0 := by decide

/-- The one lane of a set. -/
theorem laneBit_getLsbD {l k : Nat} (h : l < 32) : (laneBit l).getLsbD k = true ↔ k = l := by
  rw [← lanesWhere_singleton h, lanesWhere_getLsbD]
  simp only [List.contains_cons, List.contains_nil, Bool.or_false, Bool.and_eq_true, decide_eq_true_eq, beq_iff_eq]
  omega

/-- txc of one lane that may commit (R347). -/
theorem txc_of_one {l : Nat} (h : Issues (.txc f) s c t) (hc : t.committing c.w.id = false) (hr : t.txReading c.w.id c.act = false) (hu : t.txUnreported c.w c.act = false)
    (hd : c.gr.det = false) (hl : l < 32) (hone : c.act &&& c.w.txIn &&& ~~~c.w.txAbort = laneBit l) (hfew : (c.w.txFails.get l).toNat < 16) :
    ∃ g : Wave → Wave, Completes (exec (.txc f) s) c (t.modWave c.w.id g) ∧ ∀ w : Wave, (g w).id = w.id ∧ (g w).v = w.v ∧ (g w).s = w.s ∧ (g w).p = w.p ∧ (g w).pc = w.pc ∧
      (g w).txIn = w.txIn &&& ~~~c.act ∧ (g w).txTodo = laneBit l ∧ (g w).txDone = c.act ∧ (g w).txCommitted = 0 ∧ (g w).txPred = some f.p ∧ (g w).txId = t.nextId ∧
      ∀ x, x ∈ (g w).txSet ↔ x ∈ w.txSet ∧ (x.lane = l ∨ c.act.getLsbD x.lane = false) := by
  have hact : c.act ≠ 0 := fun hz => laneBit_ne_zero hl (by rw [← hone, hz]; simp)
  have hdone := txc_begins h hact hc hr hu hd
  have hkeep : c.w.txKeep [] [l] = [l] := rfl
  simp only [hone, laneList_laneBit hl, hkeep, List.foldl_cons, List.foldl_nil, askToken_of_few hfew, lanesWhere_singleton hl] at hdone
  refine ⟨_, hdone, fun w => ?_⟩
  obtain ⟨m, hm⟩ := beginsCommit_eq (c := c) (f := f) (t := t) (laneBit l) w
  rw [endCommit_of_left (by rw [hm]; exact laneBit_ne_zero hl), hm]
  refine ⟨rfl, rfl, rfl, rfl, rfl, rfl, rfl, rfl, rfl, rfl, rfl, fun x => ?_⟩
  rw [mem_keptWords, laneBit_getLsbD hl]

theorem txc_of_inactive (h : Issues (.txc f) s c t) (ha : c.act = 0) : Completes (exec (.txc f) s) c t := by
  rw [exec_txc, execTxc]
  exact issue_ok h (if_pos ha)

/-- txc of lanes none of which may commit writes the predicate false in them (R347). -/
theorem txc_of_none (h : Issues (.txc f) s c t) (ha : c.act ≠ 0) (hc : t.committing c.w.id = false) (hr : t.txReading c.w.id c.act = false) (hu : t.txUnreported c.w c.act = false)
    (hd : c.gr.det = false) (hnone : ∀ l, l < 32 → c.act.getLsbD l = true → c.w.txIn.getLsbD l = false ∨ c.w.txAbort.getLsbD l = true) :
    ∃ g : Wave → Wave, Completes (exec (.txc f) s) c (t.modWave c.w.id g) ∧ ∀ w : Wave, (g w).id = w.id ∧ (g w).v = w.v ∧ (g w).s = w.s ∧ (g w).pc = w.pc ∧
      (g w).txIn = w.txIn &&& ~~~c.act ∧ (g w).txTodo = 0 ∧ (∀ x ∈ (g w).txSet, c.act.getLsbD x.lane = false) ∧
      ∀ l n, l < 32 → (g w).getP l n = if n = f.p.toNat ∧ n ≠ 0 ∧ c.act.getLsbD l = true then false else w.getP l n := by
  have hzero : c.act &&& c.w.txIn &&& ~~~c.w.txAbort = 0 := lanes_eq_zero fun l hl => by
    simp only [BitVec.getLsbD_and, BitVec.getLsbD_not, hl, decide_true, Bool.true_and]
    cases hb : c.act.getLsbD l with
    | false => rfl
    | true => obtain h0 | h0 := hnone l hl hb <;> simp [h0, -BitVec.getLsbD_eq_getElem]
  have hdone := txc_begins h ha hc hr hu hd
  have hlist : laneList 0 = [] := by decide
  have hkeep : c.w.txKeep [] [] = [] := rfl
  simp only [hzero, hlist, hkeep, List.foldl_nil, lanesWhere_none] at hdone
  refine ⟨_, hdone, fun w => ?_⟩
  obtain ⟨m, hm⟩ := beginsCommit_eq (c := c) (f := f) (t := t) 0 w
  obtain ⟨p, hp, hget⟩ := endCommit_of_none_left (w := c.beginsCommit f t 0 w) (by rw [hm])
  rw [hp, hm]
  refine ⟨rfl, rfl, rfl, rfl, rfl, rfl, fun x hx => ?_, fun l n _ => ?_⟩
  · exact (mem_keptWords.mp hx).2.resolve_left (by simp)
  · rw [hm] at hget
    exact (hget l n).trans (if_congr Iff.rfl (by simp) rfl)

end

end Sys2Proof.Machine
end

section
/-! PROOFS. What a transactional access of one lane comes to (O32). -/

namespace Sys2Proof.Machine

section
variable {c : Ctx} {t : State} {lane va : Nat}

/-! ### The words that a lane holds (R344, R346) -/

/-- The address as the access of a transaction translates it. -/
def Ctx.txTrans (c : Ctx) (t : State) (need : Need) (va : Nat) : Except Flt Trans := (t.translate (quadOf c.w.core) c.gr.asid va need c.w.priv 0).1

/-- The physical address, where it is known. -/
def Ctx.txPlace (c : Ctx) (t : State) (need : Need) (va : Nat) : Option Nat := match c.txTrans t need va with | .ok p => some (t.localPa p.pa) | .error _ => none

/-- The address lies where no transaction may hold a word: outside the local window, or on a HOME 10 page. -/
def Ctx.txOutside (c : Ctx) (t : State) (need : Need) (va : Nat) : Bool :=
  match c.txTrans t need va with | .ok p => (decide (windowOf (t.localPa p.pa) ≠ 0) || decide (leafHome p.leaf = 2)) && !t.foreign c.w va | .error _ => false

/-- The word of a lane's write set or read set at an address. -/
def Ctx.txHeld (c : Ctx) (t : State) (need : Need) (write : Bool) (lane va : Nat) : Option TxWord :=
  c.w.txSet.find? fun x => decide (x.lane = lane ∧ x.write = write ∧ (x.va = va ∨ c.txPlace t need va = some x.pa))

/-- The lane is in a transaction that is not aborted. -/
def Ctx.txLive (c : Ctx) (lane : Nat) : Bool := c.w.txIn.getLsbD lane && !c.w.txAbort.getLsbD lane

/-- The address is one of a word. -/
def txGood (va : Nat) : Bool := decide (va % 8 = 0 ∧ va < 2 ^ 60)

/-- The lane's read has its value as it issues. -/
def Ctx.txHit (c : Ctx) (t : State) (lane va : Nat) : Bool :=
  c.w.txIn.getLsbD lane && (c.w.txAbort.getLsbD lane || txGood va && ((c.txHeld t needRead true lane va).isSome || (c.txHeld t needRead false lane va).isSome))

/-- A read of the word by the lane has not returned. -/
def Ctx.txDue (c : Ctx) (t : State) (lane va : Nat) : Bool := (t.txPending c.w.id lane).any fun p => decide (p.1 = va ∨ c.txPlace t needRead va = some p.2)

/-- The value of a read that has it as it issues. -/
def Ctx.txValue (c : Ctx) (t : State) (lane va : Nat) : Quad :=
  if c.w.txAbort.getLsbD lane = true then 0
  else match c.txHeld t needRead true lane va, c.txHeld t needRead false lane va with | some x, _ => x.value | none, some x => x.value | none, none => 0

/-- The read is more than the transaction can hold. -/
def Ctx.txReadFull (c : Ctx) (t : State) (lane va : Nat) : Bool := c.txLive lane && txGood va && !c.txHit t lane va && !c.txDue t lane va &&
  (decide (8 ≤ (c.w.txWords lane false).length + (t.txPending c.w.id lane).length) || c.txOutside t needRead va)

/-- The read waits for an earlier one of its word. -/
def Ctx.txReadWaits (c : Ctx) (t : State) (lane va : Nat) : Bool := c.txLive lane && txGood va && !c.txHit t lane va && c.txDue t lane va

/-- The write is more than the transaction can hold. -/
def Ctx.txWriteFull (c : Ctx) (t : State) (lane va : Nat) : Bool := c.txLive lane && txGood va && (c.txHeld t needBoth true lane va).isNone &&
  (decide (4 ≤ (c.w.txWords lane true).length) || c.txOutside t needBoth va)

theorem findWord_txWords (need : Need) (write : Bool) : findWord (c.w.txWords lane write) va (c.txPlace t need va) = c.txHeld t need write lane va := by
  unfold findWord Wave.txWords Ctx.txHeld
  rw [List.find?_filter]
  congr 1
  funext x
  simp only [Bool.decide_and, Bool.decide_or, Bool.and_assoc, eq_comm (a := c.txPlace t need va), Bool.decide_eq_true]

theorem not_txGood (va : Nat) : (decide (va % 8 ≠ 0) || decide (va / 2 ^ 60 ≠ 0)) = !txGood va := by
  have h : va / 2 ^ 60 = 0 ↔ va < 2 ^ 60 := Nat.div_eq_zero_iff_lt (by decide)
  simp only [txGood, ne_eq, h, Bool.decide_and, Bool.not_and, decide_not]

theorem txDue_eq : ((t.txPending c.w.id lane).any fun p => decide (p.1 = va) || decide (some p.2 = c.txPlace t needRead va)) = c.txDue t lane va := by
  simp only [Ctx.txDue, Bool.decide_or, eq_comm (a := c.txPlace t needRead va)]

theorem txLive_iff : c.txLive lane = true ↔ c.w.txIn.getLsbD lane = true ∧ c.w.txAbort.getLsbD lane = false := by
  rw [Ctx.txLive, Bool.and_eq_true, Bool.not_eq_true']

/-! ### A read (R346) -/

theorem txldLane_eq : c.txldLane t lane va =
    if !c.w.txIn.getLsbD lane then .access false
    else if c.w.txAbort.getLsbD lane then .done 0
    else if decide (va % 8 ≠ 0) || decide (va / 2 ^ 60 ≠ 0) then .access true
    else match findWord (c.w.txWords lane true) va (c.txPlace t needRead va), findWord (c.w.txWords lane false) va (c.txPlace t needRead va) with
      | some x, _ => .done x.value
      | none, some x => .done x.value
      | none, none =>
        if (t.txPending c.w.id lane).any fun p => decide (p.1 = va) || decide (some p.2 = c.txPlace t needRead va) then .wait
        else if 8 ≤ (c.w.txWords lane false).length + (t.txPending c.w.id lane).length then .limit
        else match c.txTrans t needRead va with
          | .error _ => .access true
          | .ok p => if t.txForbidden p && !t.foreign c.w va then .limit else .access true := rfl

theorem txldLane_of_free (h : c.w.txIn.getLsbD lane = false) : c.txldLane t lane va = .access false := by
  rw [txldLane_eq, h]
  rfl

theorem txldLane_of_aborted (hin : c.w.txIn.getLsbD lane = true) (h : c.w.txAbort.getLsbD lane = true) : c.txldLane t lane va = .done 0 := by
  rw [txldLane_eq, hin, h]
  rfl

/-- A live lane's read: its address is judged as it is read, a word that the lane holds gives its value, and another is read and recorded where it can be held. -/
theorem txldLane_of_live (h : c.txLive lane = true) : c.txldLane t lane va =
    if txGood va = false then .access true
    else match c.txHeld t needRead true lane va, c.txHeld t needRead false lane va with
      | some x, _ => .done x.value
      | none, some x => .done x.value
      | none, none => if c.txDue t lane va = true then .wait
        else if (decide (8 ≤ (c.w.txWords lane false).length + (t.txPending c.w.id lane).length) || c.txOutside t needRead va) = true then .limit else .access true := by
  obtain ⟨hin, hab⟩ := txLive_iff.mp h
  have hlast : (if 8 ≤ (c.w.txWords lane false).length + (t.txPending c.w.id lane).length then TxLane.limit
      else match c.txTrans t needRead va with
        | .error _ => .access true
        | .ok p => if t.txForbidden p && !t.foreign c.w va then .limit else .access true) =
      if (decide (8 ≤ (c.w.txWords lane false).length + (t.txPending c.w.id lane).length) || c.txOutside t needRead va) = true then .limit else .access true := by
    unfold Ctx.txOutside
    cases c.txTrans t needRead va with
    | error e => simp only [Bool.or_false, decide_eq_true_eq]
    | ok p => by_cases hfull : 8 ≤ (c.w.txWords lane false).length + (t.txPending c.w.id lane).length <;> simp [hfull, State.txForbidden]
  rw [txldLane_eq, hin, hab]
  simp only [not_txGood, findWord_txWords, txDue_eq, hlast, Bool.not_true, Bool.false_eq_true, if_false, Bool.not_eq_true']

/-- What a read comes to. -/
theorem txldLane_cases : c.txldLane t lane va = if c.txHit t lane va = true then .done (c.txValue t lane va)
    else if c.txReadWaits t lane va = true then .wait else if c.txReadFull t lane va = true then .limit else .access (c.w.txIn.getLsbD lane) := by
  unfold Ctx.txReadWaits Ctx.txReadFull
  cases hin : c.w.txIn.getLsbD lane with
  | false =>
    have hlive : c.txLive lane = false := by rw [Ctx.txLive, hin, Bool.false_and]
    have hhit : c.txHit t lane va = false := by rw [Ctx.txHit, hin, Bool.false_and]
    simp [txldLane_of_free hin, hlive, hhit]
  | true =>
    cases hab : c.w.txAbort.getLsbD lane with
    | true =>
      have hhit : c.txHit t lane va = true := by rw [Ctx.txHit, hin, hab, Bool.true_or, Bool.true_and]
      rw [txldLane_of_aborted hin hab, if_pos hhit, Ctx.txValue, if_pos hab]
    | false =>
      have hlive : c.txLive lane = true := txLive_iff.mpr ⟨hin, hab⟩
      rw [txldLane_of_live hlive, Ctx.txHit, Ctx.txValue, hin, hab, hlive]
      cases txGood va with
      | false => simp
      | true =>
        cases c.txHeld t needRead true lane va with
        | some x => simp
        | none =>
          cases c.txHeld t needRead false lane va with
          | some x => simp
          | none => cases c.txDue t lane va <;> simp

theorem txldLane_of_hit (h : c.txHit t lane va = true) : c.txldLane t lane va = .done (c.txValue t lane va) := by
  rw [txldLane_cases, if_pos h]

theorem txldLane_of_access (hfull : c.txReadFull t lane va = false) (hwait : c.txReadWaits t lane va = false) (h : ¬c.txHit t lane va = true) :
    c.txldLane t lane va = .access (c.w.txIn.getLsbD lane) := by
  rw [txldLane_cases, if_neg h, if_neg (by simp [hwait]), if_neg (by simp [hfull])]

theorem txldLane_limit_iff : c.txldLane t lane va = .limit ↔ c.txReadFull t lane va = true := by
  have hfull : c.txReadFull t lane va = true → c.txHit t lane va = false ∧ c.txReadWaits t lane va = false := by
    unfold Ctx.txReadFull Ctx.txReadWaits
    cases c.txHit t lane va <;> cases c.txDue t lane va <;> simp
  rw [txldLane_cases]
  refine ⟨fun h => ?_, fun h => ?_⟩
  · split at h
    · nomatch h
    · split at h
      · nomatch h
      · split at h
        · assumption
        · nomatch h
  · obtain ⟨hhit, hwait⟩ := hfull h
    simp [hhit, hwait, h]

theorem txldLane_ne_wait (h : c.txReadWaits t lane va = false) : c.txldLane t lane va ≠ .wait := by
  rw [txldLane_cases, h]
  split
  · nofun
  · rw [if_neg Bool.false_ne_true]
    split <;> nofun

/-! ### A write (R346) -/

theorem txstLane_eq : c.txstLane t lane va =
    if !c.w.txIn.getLsbD lane || c.w.txAbort.getLsbD lane then .done 0
    else if decide (va % 8 ≠ 0) || decide (va / 2 ^ 60 ≠ 0) then .access true
    else match findWord (c.w.txWords lane true) va (c.txPlace t needBoth va) with
      | some x => .replace x.pa x.va
      | none =>
        if 4 ≤ (c.w.txWords lane true).length then .limit
        else match c.txTrans t needBoth va with
          | .error _ => .access true
          | .ok p => if t.foreign c.w va then .access true else if t.txForbidden p then .limit else .add p := rfl

theorem txstLane_of_dead (h : c.txLive lane = false) : c.txstLane t lane va = .done 0 := by
  have hdead : (!c.w.txIn.getLsbD lane || c.w.txAbort.getLsbD lane) = true := by
    rw [← Bool.not_eq_false', Bool.not_or, Bool.not_not]
    exact h
  rw [txstLane_eq, if_pos hdead]

/-- A live lane's write: its address is judged where it is not one of a word. -/
theorem txstLane_of_live (h : c.txLive lane = true) : c.txstLane t lane va =
    if txGood va = false then .access true
    else match c.txHeld t needBoth true lane va with
      | some x => .replace x.pa x.va
      | none =>
        if 4 ≤ (c.w.txWords lane true).length then .limit
        else match c.txTrans t needBoth va with
          | .error _ => .access true
          | .ok p => if t.foreign c.w va then .access true else if t.txForbidden p then .limit else .add p := by
  obtain ⟨hin, hab⟩ := txLive_iff.mp h
  rw [txstLane_eq, hin, hab]
  simp only [not_txGood, findWord_txWords, Bool.not_true, Bool.or_self, Bool.false_eq_true, if_false, Bool.not_eq_true']

theorem txstLane_limit_iff : c.txstLane t lane va = .limit ↔ c.txWriteFull t lane va = true := by
  unfold Ctx.txWriteFull
  cases hlive : c.txLive lane with
  | false => simp [txstLane_of_dead hlive]
  | true =>
    rw [txstLane_of_live hlive]
    cases txGood va with
    | false => simp
    | true =>
      cases c.txHeld t needBoth true lane va with
      | some x => simp
      | none =>
        unfold Ctx.txOutside
        by_cases hfour : 4 ≤ (c.w.txWords lane true).length
        · simp [hfour]
        · cases c.txTrans t needBoth va with
          | error e => simp [hfour]
          | ok p => cases t.foreign c.w va <;> simp [hfour, State.txForbidden, or_iff_not_imp_left]

/-- A write waits for no read: it names no word that is still to come. -/
theorem txstLane_ne_wait : c.txstLane t lane va ≠ .wait := by
  cases hlive : c.txLive lane with
  | false =>
    rw [txstLane_of_dead hlive]
    nofun
  | true =>
    rw [txstLane_of_live hlive]
    repeat' split
    all_goals nofun

/-- A live lane's write of a word that its write set has. -/
theorem txstLane_of_held {x : TxWord} (h : c.txLive lane = true) (hg : txGood va = true) (hx : c.txHeld t needBoth true lane va = some x) : c.txstLane t lane va = .replace x.pa x.va := by
  rw [txstLane_of_live h, hg, hx]
  rfl

/-- A live lane's write of a word that its write set has not. -/
theorem txstLane_of_new {p : Trans} (h : c.txLive lane = true) (hg : txGood va = true) (hx : c.txHeld t needBoth true lane va = none) (hfull : c.txWriteFull t lane va = false)
    (hp : c.txTrans t needBoth va = .ok p) (hf : t.foreign c.w va = false) : c.txstLane t lane va = .add p := by
  have hne : c.txstLane t lane va ≠ .limit := fun hlimit => by rw [txstLane_limit_iff.mp hlimit] at hfull; nomatch hfull
  rw [txstLane_of_live h, hg, hx] at hne ⊢
  simp only [hp, hf, Bool.true_eq_false, Bool.false_eq_true, if_false] at hne ⊢
  by_cases hfour : 4 ≤ (c.w.txWords lane true).length
  · exact absurd (if_pos hfour) hne
  · rw [if_neg hfour] at hne ⊢
    exact if_neg fun hforbid => hne (if_pos hforbid)

end

end Sys2Proof.Machine
end

section
/-! PROOFS. The transactional reads and writes as they issue (O32). -/

namespace Sys2Proof.Machine

/-! ### TXLIMIT and waits (R346) -/

section
variable {c : Ctx} {what : Nat → TxLane} {ea : Nat → Nat} {k : Body} {i : Instr} {s t : State} {body : Ctx → State → Body}

theorem txChecks_of_clear (h : ∀ l, l < 32 → c.act.getLsbD l = true → what l ≠ .limit ∧ what l ≠ .wait) : c.txChecks what ea k = k := by
  have hlimit : (laneList c.act).filter (fun l => what l = .limit) = [] := List.filter_eq_nil_iff.mpr fun l hl => by
    obtain ⟨hlt, ha⟩ := (mem_laneList c.act l).mp hl
    simp [(h l hlt ha).1]
  have hwait : ((laneList c.act).any fun l => what l = .wait) = false := List.any_eq_false.mpr fun l hl => by
    obtain ⟨hlt, ha⟩ := (mem_laneList c.act l).mp hl
    simp [(h l hlt ha).2]
  unfold Ctx.txChecks
  rw [hlimit, hwait]
  rfl

/-- A lane that meets TXLIMIT traps the word, precisely on the lanes that do. -/
theorem issue_limit {on : Nat → Bool} (h : Issues i s c t) (hb : body c t = c.txChecks what ea k) (hon : ∀ l, what l = .limit ↔ on l = true) :
    ∀ m, m < 32 → c.act.getLsbD m = true → on m = true → ∃ info : TrapInfo, issue i s body = .next (s.trap c.w.id c.lanes info) ∧ info.code = 9 ∧ info.cause = 0 ∧
      info.logged = false ∧ info.active = c.act ∧ ∀ l, l < 32 → info.fault.getLsbD l = (c.act.getLsbD l && on l) := by
  intro m hm ha hfull
  have hmem (l : Nat) : l ∈ (laneList c.act).filter (fun l => what l = .limit) ↔ (l < 32 ∧ c.act.getLsbD l = true) ∧ on l = true := by
    rw [List.mem_filter, mem_laneList, decide_eq_true_eq, hon]
  cases hfail : (laneList c.act).filter fun l => what l = .limit with
  | nil => exact absurd ((hmem m).mpr ⟨⟨hm, ha⟩, hfull⟩) (by simp [hfail])
  | cons l ls =>
    have htrap : c.txChecks what ea k = c.trapOn 9 0 (lanesWhere fun n => (l :: ls).contains n) (ea l) 0 := by
      unfold Ctx.txChecks
      rw [hfail]
    refine ⟨_, issue_trap h (hb.trans htrap) (by decide : (9 : Nat) ≠ 12), rfl, rfl, rfl, rfl, fun n hn => ?_⟩
    show (lanesWhere fun n => (l :: ls).contains n).getLsbD n = _
    rw [lanesWhere_getLsbD, ← hfail, Bool.eq_iff_iff]
    simp only [Bool.and_eq_true, decide_eq_true_eq, List.contains_iff_mem, hmem, hn, true_and]

end

/-! ### What a read that has its value writes (R266, R346) -/

section
variable {c : Ctx} {s t u : State} {f : FmtDA}

/-- Changes of one wave, one after another, are one change of it. -/
theorem foldl_modWave {α : Type} (w : Wave) (g : α → Wave → Wave) (hg : ∀ a x, (g a x).id = x.id) (ls : List α) (u : State) :
    ls.foldl (fun v a => v.modWave w.id (g a)) u = u.modWave w.id fun x => ls.foldl (fun y a => g a y) x := by
  induction ls generalizing u with
  | nil => exact (modWave_of_fixed fun _ _ _ => rfl).symm
  | cons a ls ih => rw [List.foldl_cons, ih, modWave_modWave (hg a)]; rfl

/-- The registers with a pair of a lane written. -/
def setPair (d : Nat) (v : SMap 32) (p : Nat × Quad) : SMap 32 := (v.set (vKey p.1 d) (lo32 p.2)).set (vKey p.1 (d + 1)) (hi32 p.2)

theorem get_setPair {d : Nat} (hd : d ≤ 110) (v : SMap 32) (p : Nat × Quad) {l n : Nat} (hn : n ≤ 111) :
    SMap.get (setPair d v p) (vKey l n) = if l = p.1 ∧ n = d then lo32 p.2 else if l = p.1 ∧ n = d + 1 then hi32 p.2 else SMap.get v (vKey l n) := by
  have hkey (r : Nat) (hr : r ≤ 111) : vKey l n = vKey p.1 r ↔ l = p.1 ∧ n = r := ⟨fun h => vKey_inj (by omega) (by omega) h, fun ⟨hl, hnr⟩ => by rw [hl, hnr]⟩
  simp only [setPair, SMap.get_set, hkey d (by omega), hkey (d + 1) (by omega)]
  by_cases hnd : n = d
  · simp [hnd]
  · simp [hnd]

/-- The pairs of some lanes, each at most once, hold what is found for them. -/
theorem get_foldl_setPair {d : Nat} (hd : d ≤ 110) (found : Nat → Option Quad) (ls : List Nat) (hls : ls.Nodup) (v : SMap 32) {l n : Nat} (hn : n ≤ 111) :
    SMap.get ((ls.filterMap fun l => (found l).map fun x => (l, x)).foldl (setPair d) v) (vKey l n) =
      if l ∈ ls then match found l with
        | some x => if n = d then lo32 x else if n = d + 1 then hi32 x else SMap.get v (vKey l n)
        | none => SMap.get v (vKey l n)
      else SMap.get v (vKey l n) := by
  induction ls generalizing v with
  | nil => rfl
  | cons a ls ih =>
    obtain ⟨ha, hls⟩ := List.nodup_cons.mp hls
    have hne (hla : l ≠ a) : l ∈ a :: ls ↔ l ∈ ls := by rw [List.mem_cons, or_iff_right hla]
    rw [List.filterMap_cons]
    cases hfound : found a with
    | none =>
      rw [Option.map_none, ih hls]
      by_cases hla : l = a
      · simp [hla, ha, hfound]
      · simp only [hne hla]
    | some x =>
      rw [Option.map_some, List.foldl_cons, ih hls, get_setPair hd v (a, x) hn]
      by_cases hla : l = a
      · simp [hla, ha, hfound]
      · simp only [hne hla, hla, false_and, if_false]

theorem nodup_laneList (m : Lanes) : (laneList m).Nodup := List.nodup_range.filter _

/-- The address of a lane's word. -/
def Ctx.txAddr (c : Ctx) (f : FmtDA) (l : Nat) : Nat := (c.src2 .vec f.a.toNat l).toNat

/-- The access of a transactional read: the lanes that have their values are over, and a lane in a transaction records what it reads. -/
def Ctx.txReadOp (c : Ctx) (f : FmtDA) (t : State) : MemOp := ⟨.txRead, destOf f.d.toNat 2, (laneList c.act).map fun l =>
  if c.txHit t l (c.txAddr f l) = true then { newLane l 0 (c.txAddr f l) 0 0 with status := .done } else newLane l 0 (c.txAddr f l) (if c.w.txIn.getLsbD l = true then 1 else 0) 0,
  false, false, 0⟩

/-- The value that a lane has as its read issues. -/
def Ctx.txFound (c : Ctx) (f : FmtDA) (t : State) (l : Nat) : Option Quad := if c.txHit t l (c.txAddr f l) = true then some (c.txValue t l (c.txAddr f l)) else none

/-- The registers once the lanes that have their values have received them. -/
def Ctx.txGiven (c : Ctx) (f : FmtDA) (t : State) (v : SMap 32) : SMap 32 :=
  if f.d.toNat ≤ 110 then ((laneList c.act).filterMap fun l => (c.txFound f t l).map fun x => (l, x)).foldl (setPair f.d.toNat) v else v

/-- No lane of the read meets TXLIMIT or waits for an earlier read. -/
def Ctx.txReadClear (c : Ctx) (f : FmtDA) (t : State) : Prop :=
  ∀ l, l < 32 → c.act.getLsbD l = true → c.txReadFull t l (c.txAddr f l) = false ∧ c.txReadWaits t l (c.txAddr f l) = false

/-- What the body of a read makes of its lanes. -/
theorem txReadOp_lanes (h : c.txReadClear f t) : ((laneList c.act).map fun l => match c.txldLane t l (c.txAddr f l) with
    | .access r => newLane l 0 (c.txAddr f l) (if r then 1 else 0) 0
    | _ => (newLane l 0 (c.txAddr f l) 0 0).over) = (c.txReadOp f t).lanes := by
  refine List.map_congr_left fun l hl => ?_
  obtain ⟨hlt, ha⟩ := (mem_laneList c.act l).mp hl
  obtain ⟨hfull, hwait⟩ := h l hlt ha
  by_cases hhit : c.txHit t l (c.txAddr f l) = true
  · rw [txldLane_of_hit hhit, if_pos hhit]
    rfl
  · rw [txldLane_of_access hfull hwait hhit, if_neg hhit]

theorem txFound_lanes (h : c.txReadClear f t) : ((laneList c.act).filterMap fun l => match c.txldLane t l (c.txAddr f l) with | .done x => some (l, x) | _ => none) =
    (laneList c.act).filterMap fun l => (c.txFound f t l).map fun x => (l, x) := by
  refine List.filterMap_congr fun l hl => ?_
  obtain ⟨hlt, ha⟩ := (mem_laneList c.act l).mp hl
  obtain ⟨hfull, hwait⟩ := h l hlt ha
  unfold Ctx.txFound
  by_cases hhit : c.txHit t l (c.txAddr f l) = true
  · rw [txldLane_of_hit hhit, if_pos hhit]
    rfl
  · rw [txldLane_of_access hfull hwait hhit, if_neg hhit]
    rfl

/-- The wave with a pair of a lane written. -/
def givePair (d : Nat) (p : Nat × Quad) (w : Wave) : Wave := (w.setV p.1 d (lo32 p.2)).setV p.1 (d + 1) (hi32 p.2)

theorem foldl_givePair (found : List (Nat × Quad)) (d : Nat) (w : Wave) : found.foldl (fun y p => givePair d p y) w = w.withV (found.foldl (setPair d) w.v) := by
  induction found generalizing w with
  | nil => rfl
  | cons p found ih => exact ih _

theorem txGiven_eq (u : State) : ((laneList c.act).filterMap fun l => (c.txFound f t l).map fun x => (l, x)).foldl
      (fun v p => if f.d.toNat ≤ 110 then v.modWave c.w.id (givePair f.d.toNat p) else v) u = u.modWave c.w.id fun w => w.withV (c.txGiven f t w.v) := by
  unfold Ctx.txGiven
  by_cases hd : f.d.toNat ≤ 110
  · simp only [if_pos hd]
    rw [foldl_modWave c.w (givePair f.d.toNat) fun _ _ => rfl]
    simp only [foldl_givePair]
  · simp only [if_neg hd, List.foldl_fixed]
    exact (modWave_of_fixed fun _ _ _ => rfl).symm

/-- A read past its checks: it makes the access of some lanes, and gives others their values. -/
def Ctx.txldGo (c : Ctx) (f : FmtDA) (t : State) (lanes : List AccLane) (found : List (Nat × Quad)) : Body :=
  match c.launch ⟨.txRead, destOf f.d.toNat 2, lanes, false, false, 0⟩ 1 t with
  | .ok u => .ok ((found.foldl (fun v p => if f.d.toNat ≤ 110 then v.modWave c.w.id (givePair f.d.toNat p) else v) u).reportFlight t.nextId)
  | b => b

/-- The meaning of a read at some addresses. -/
def Ctx.txldAt (c : Ctx) (f : FmtDA) (t : State) (ea : Nat → Nat) : Body :=
  if c.txWaits t then .stay
  else c.txChecks (fun l => c.txldLane t l (ea l)) ea (c.txldGo f t
    ((laneList c.act).map fun l => match c.txldLane t l (ea l) with
      | .access r => newLane l 0 (ea l) (if r then 1 else 0) 0
      | _ => (newLane l 0 (ea l) 0 0).over)
    ((laneList c.act).filterMap fun l => match c.txldLane t l (ea l) with | .done x => some (l, x) | _ => none))

theorem ea_txAddr : c.ea f.a.toNat 0 = c.txAddr f := funext (ea_zero c f.a.toNat)

theorem exec_txld : exec (.txld f) s = issue (.txld f) s fun c t => c.txldAt f t (c.ea f.a.toNat 0) := by rfl

theorem txldAt_of_free (hc : t.committing c.w.id = false) (ea : Nat → Nat) : c.txldAt f t ea = c.txChecks (fun l => c.txldLane t l (ea l)) ea (c.txldGo f t
    ((laneList c.act).map fun l => match c.txldLane t l (ea l) with
      | .access r => newLane l 0 (ea l) (if r then 1 else 0) 0
      | _ => (newLane l 0 (ea l) 0 0).over)
    ((laneList c.act).filterMap fun l => match c.txldLane t l (ea l) with | .done x => some (l, x) | _ => none)) :=
  if_neg (by simp [Ctx.txWaits, hc])

theorem txldGo_of_unheld (ha : c.act ≠ 0) (hop : c.unheld (c.txReadOp f t) t = true) (found : List (Nat × Quad)) : c.txldGo f t (c.txReadOp f t).lanes found =
    .ok ((found.foldl (fun v p => if f.d.toNat ≤ 110 then v.modWave c.w.id (givePair f.d.toNat p) else v) (c.flown (c.txReadOp f t) 1 t)).reportFlight t.nextId) := by
  have hlaunch : c.launch ⟨.txRead, destOf f.d.toNat 2, (c.txReadOp f t).lanes, false, false, 0⟩ 1 t = .ok (c.flown (c.txReadOp f t) 1 t) := launch_of_unheld ha hop
  unfold Ctx.txldGo
  rw [hlaunch]

/-- A read that is clear makes its access, and gives the lanes that have their values those (R346). -/
theorem txld_reads (h : Issues (.txld f) s c t) (hc : t.committing c.w.id = false) (ha : c.act ≠ 0) (hclear : c.txReadClear f t) (hop : c.unheld (c.txReadOp f t) t = true) :
    Completes (exec (.txld f) s) c (((c.flown (c.txReadOp f t) 1 t).modWave c.w.id fun w => w.withV (c.txGiven f t w.v)).reportFlight t.nextId) := by
  have hwhat (l : Nat) (hlt : l < 32) (hl : c.act.getLsbD l = true) : c.txldLane t l (c.txAddr f l) ≠ .limit ∧ c.txldLane t l (c.txAddr f l) ≠ .wait :=
    ⟨mt txldLane_limit_iff.mp (Bool.eq_false_iff.mp (hclear l hlt hl).1), txldLane_ne_wait (hclear l hlt hl).2⟩
  rw [exec_txld]
  refine issue_ok h ?_
  rw [ea_txAddr, txldAt_of_free hc, txChecks_of_clear hwhat, txReadOp_lanes hclear, txFound_lanes hclear, txldGo_of_unheld ha hop, txGiven_eq]

/-- With no ACTIVE lane a read only reports. -/
theorem txld_of_inactive (h : Issues (.txld f) s c t) (hc : t.committing c.w.id = false) (ha : c.act = 0) : Completes (exec (.txld f) s) c (t.reportFlight t.nextId) := by
  have hnone : laneList c.act = [] := by
    rw [ha]
    decide
  rw [exec_txld]
  refine issue_ok h ?_
  rw [txldAt_of_free hc, txChecks_of_clear fun l _ hl => by simp [ha] at hl, hnone]
  unfold Ctx.txldGo
  rw [launch_of_inactive ha]
  rfl

theorem txld_limit (h : Issues (.txld f) s c t) (hc : t.committing c.w.id = false) :
    ∀ m, m < 32 → c.act.getLsbD m = true → c.txReadFull t m (c.txAddr f m) = true → ∃ info : TrapInfo, exec (.txld f) s = .next (s.trap c.w.id c.lanes info) ∧ info.code = 9 ∧ info.cause = 0 ∧
      info.logged = false ∧ info.active = c.act ∧ ∀ l, l < 32 → info.fault.getLsbD l = (c.act.getLsbD l && c.txReadFull t l (c.txAddr f l)) := by
  rw [exec_txld]
  exact issue_limit h (by rw [ea_txAddr, txldAt_of_free hc]) fun l => txldLane_limit_iff

/-- Outside every transaction no lane has its value, and none can meet TXLIMIT. -/
theorem txIn_of_outside (hout : c.w.txIn &&& c.act = 0) {l : Nat} (ha : c.act.getLsbD l = true) : c.w.txIn.getLsbD l = false := by
  have hl : (c.w.txIn &&& c.act).getLsbD l = false := by
    rw [hout]
    exact BitVec.getLsbD_zero
  rwa [BitVec.getLsbD_and, ha, Bool.and_true] at hl

theorem txHit_of_free {l va : Nat} (h : c.w.txIn.getLsbD l = false) : c.txHit t l va = false := by
  rw [Ctx.txHit, h, Bool.false_and]

theorem txReadClear_of_outside (hout : c.w.txIn &&& c.act = 0) : c.txReadClear f t := fun l _ ha => by
  have hlive : c.txLive l = false := by rw [Ctx.txLive, txIn_of_outside hout ha, Bool.false_and]
  exact ⟨by simp only [Ctx.txReadFull, hlive, Bool.false_and], by simp only [Ctx.txReadWaits, hlive, Bool.false_and]⟩

/-- A read of lanes outside every transaction is made, and recorded nowhere (R346). -/
theorem txld_of_outside (h : Issues (.txld f) s c t) (hc : t.committing c.w.id = false) (hout : c.w.txIn &&& c.act = 0) (ha : c.act ≠ 0) :
    let op : MemOp := ⟨.txRead, destOf f.d.toNat 2, (laneList c.act).map fun l => newLane l 0 (c.src2 .vec f.a.toNat l).toNat 0 0, false, false, 0⟩
    c.unheld op t = true → Completes (exec (.txld f) s) c ((c.flown op 1 t).reportFlight t.nextId) := by
  intro op hop
  have hfree (l : Nat) (hl : l ∈ laneList c.act) : c.w.txIn.getLsbD l = false := txIn_of_outside hout ((mem_laneList c.act l).mp hl).2
  have hop' : c.txReadOp f t = op := congrArg (fun ls => (⟨.txRead, destOf f.d.toNat 2, ls, false, false, 0⟩ : MemOp)) (List.map_congr_left fun l hl => by
    simp only [txHit_of_free (hfree l hl), hfree l hl, Bool.false_eq_true, if_false]
    rfl)
  have hgiven (v : SMap 32) : c.txGiven f t v = v := by
    have hnone : ((laneList c.act).filterMap fun l => (c.txFound f t l).map fun x => (l, x)) = [] := List.filterMap_eq_nil_iff.mpr fun l hl => by
      simp [Ctx.txFound, txHit_of_free (hfree l hl)]
    rw [Ctx.txGiven, hnone]
    exact ite_self _
  have hdone := txld_reads h hc ha (txReadClear_of_outside hout) (by rwa [hop'])
  simp only [hop', hgiven] at hdone
  rwa [modWave_of_fixed (f := fun w => w.withV w.v) fun _ _ _ => rfl] at hdone

/-- What a clear read leaves in the registers (R266, R346). -/
theorem get_txGiven {l n : Nat} (v : SMap 32) (hl : l < 32) (hn : n ≤ 111) : SMap.get (c.txGiven f t v) (vKey l n) =
    if f.d.toNat ≤ 110 ∧ c.act.getLsbD l = true ∧ c.txHit t l (c.txAddr f l) = true ∧ n = f.d.toNat then lo32 (c.txValue t l (c.txAddr f l))
    else if f.d.toNat ≤ 110 ∧ c.act.getLsbD l = true ∧ c.txHit t l (c.txAddr f l) = true ∧ n = f.d.toNat + 1 then hi32 (c.txValue t l (c.txAddr f l)) else SMap.get v (vKey l n) := by
  unfold Ctx.txGiven
  by_cases hd : f.d.toNat ≤ 110
  · rw [if_pos hd, get_foldl_setPair hd _ _ (nodup_laneList _) _ hn]
    simp only [mem_laneList, hl, hd, true_and, Ctx.txFound]
    by_cases ha : c.act.getLsbD l = true
    · by_cases hhit : c.txHit t l (c.txAddr f l) = true
      · simp [ha, hhit, -BitVec.getLsbD_eq_getElem]
      · simp [ha, hhit, -BitVec.getLsbD_eq_getElem]
    · simp [ha, -BitVec.getLsbD_eq_getElem]
  · simp [hd]

end

end Sys2Proof.Machine
end

section
/-! PROOFS. The write sets of transactional writes (O32). -/

namespace Sys2Proof.Machine

/-! ### What translations leave of the package's own number (R17, R24) -/

section
variable (s : State)

theorem postEvent_kiln (e : Event) : (s.postEvent e).kiln = s.kiln := by
  unfold State.postEvent State.writeEvent
  split
  · cases e.fault <;> rfl
  · rfl

theorem meetPoison_peernum (asid line : Nat) : (s.meetPoison asid line).kiln.peernum = s.kiln.peernum := by
  show (s.postSimple 5 asid line).kiln.peernum = _
  exact congrArg Kiln.peernum (postEvent_kiln s _)

theorem noteWalk_peernum (asid va : Nat) : (s.noteWalk asid va).kiln.peernum = s.kiln.peernum := by
  unfold State.noteWalk
  split
  · rfl
  · exact List.foldlRecOn (motive := fun t : State => t.kiln.peernum = s.kiln.peernum) _ _ rfl fun t h l _ => (meetPoison_peernum t asid l).trans h

theorem markAccessed_kiln (tr : Trans) : (s.markAccessed tr).kiln = s.kiln := by
  unfold State.markAccessed
  split <;> rfl

theorem translate_peernum (quad asid va : Nat) (need : Need) (priv : Bool) (how : Nat) : (s.translate quad asid va need priv how).2.kiln.peernum = s.kiln.peernum := by
  have hwalk : (s.walked asid va need priv).2.kiln.peernum = s.kiln.peernum := by
    unfold State.walked
    split
    · exact noteWalk_peernum s asid va
    · exact (congrArg Kiln.peernum (markAccessed_kiln _ _)).trans (noteWalk_peernum s asid va)
  unfold State.translate
  split
  · rfl
  · split
    · rfl
    · split
      · rename_i hw
        rwa [hw] at hwalk
      · rename_i hw
        rwa [hw] at hwalk

theorem translate_localPa (quad asid va : Nat) (need : Need) (priv : Bool) (how pa : Nat) : (s.translate quad asid va need priv how).2.localPa pa = s.localPa pa := by
  unfold State.localPa
  rw [translate_peernum]

theorem OnlyHomes.flights {s u : State} (h : OnlyHomes s u) : u.flights = s.flights := by rw [h.frame]

end

/-! ### One lane's word put into the write set (R346) -/

section
variable {c : Ctx} {f : FmtDA} {s t u v : State} {what : Nat → TxLane} {ea : Nat → Nat} {data : Nat → Quad}

/-- A lane's step of a write: the address is translated where the word is new, and the write set has the word. -/
def Ctx.txStep (c : Ctx) (what : Nat → TxLane) (ea : Nat → Nat) (data : Nat → Quad) (v : State) (l : Nat) : State :=
  match what l with
  | .add tr => ((v.translate (quadOf c.w.core) c.gr.asid (ea l) needBoth c.w.priv 0).2).modWave c.w.id fun w => w.txPut l (ea l) (what l) (data l) (v.localPa tr.pa)
  | _ => v.modWave c.w.id fun w => w.txPut l (ea l) (what l) (data l) 0

/-- A lane's word put into a write set. -/
def State.putWord (t : State) (what : Nat → TxLane) (ea : Nat → Nat) (data : Nat → Quad) (set : List TxWord) (l : Nat) : List TxWord :=
  match what l with
  | .replace p va => set.map fun y => if y.lane = l && y.write && y.pa = p && y.va = va then { y with value := data l } else y
  | .add tr => set ++ [⟨l, t.localPa tr.pa, ea l, tr.leaf, tr.side, data l, true⟩]
  | _ => set

theorem txStep_of_add {l : Nat} {tr : Trans} (h : what l = .add tr) : c.txStep what ea data v l =
    ((v.translate (quadOf c.w.core) c.gr.asid (ea l) needBoth c.w.priv 0).2).modWave c.w.id fun w =>
      { w with txSet := w.txSet ++ [⟨l, v.localPa tr.pa, ea l, tr.leaf, tr.side, data l, true⟩] } := by
  unfold Ctx.txStep
  rw [h]
  rfl

theorem txStep_of_done {l : Nat} {x : Quad} (h : what l = .done x) : c.txStep what ea data v l = v := by
  unfold Ctx.txStep
  rw [h]
  exact modWave_of_fixed fun _ _ _ => rfl

/-- A step leaves the flights and the address map as they are, and of the waves it changes the words of its own. -/
theorem txStep_frame (l : Nat) : (c.txStep what ea data v l).flights = v.flights ∧ (∀ pa, (c.txStep what ea data v l).localPa pa = v.localPa pa) ∧
    (c.txStep what ea data v l).waves = (v.modWave c.w.id fun w => { w with txSet := v.putWord what ea data w.txSet l }).waves := by
  have htrans := (OnlyHomes.refl v).translate (quadOf c.w.core) c.gr.asid (ea l) needBoth c.w.priv 0
  unfold State.putWord
  cases h : what l with
  | add tr =>
    rw [txStep_of_add h]
    exact ⟨htrans.flights, translate_localPa v _ _ _ _ _ _, by rw [State.modWave_waves, htrans.waves]; rfl⟩
  | done x | replace p va | access r | limit | wait =>
    unfold Ctx.txStep
    rw [h]
    exact ⟨rfl, fun _ => rfl, rfl⟩

/-- The steps of some lanes. -/
theorem foldl_txStep_frame (ls : List Nat) (v : State) (hv : ∀ pa, v.localPa pa = t.localPa pa) : (ls.foldl (c.txStep what ea data) v).flights = v.flights ∧
    (ls.foldl (c.txStep what ea data) v).waves = (v.modWave c.w.id fun w => { w with txSet := ls.foldl (t.putWord what ea data) w.txSet }).waves := by
  induction ls generalizing v with
  | nil => exact ⟨rfl, congrArg State.waves (modWave_of_fixed (s := v) (w := c.w) fun _ _ _ => rfl).symm⟩
  | cons l ls ih =>
    obtain ⟨hflights, hpa, hwaves⟩ := txStep_frame (c := c) (what := what) (ea := ea) (data := data) (v := v) l
    obtain ⟨ihflights, ihwaves⟩ := ih (c.txStep what ea data v l) fun pa => (hpa pa).trans (hv pa)
    have hput : v.putWord what ea data = t.putWord what ea data := by
      funext set l
      unfold State.putWord
      simp only [hv]
    refine ⟨ihflights.trans hflights, ?_⟩
    have hboth := congrArg State.waves (modWave_modWave (s := v) (id := c.w.id) (f := fun w => { w with txSet := v.putWord what ea data w.txSet l })
      (g := fun w => { w with txSet := ls.foldl (t.putWord what ea data) w.txSet }) fun _ => rfl)
    rw [List.foldl_cons, ihwaves, State.modWave_waves, hwaves, ← State.modWave_waves, hboth, hput]
    rfl

/-! ### The words of the write set -/

/-- A word as the writes of some lanes leave it. -/
def replaced (what : Nat → TxLane) (data : Nat → Quad) (ls : List Nat) (y : TxWord) : TxWord :=
  if y.write = true ∧ y.lane ∈ ls ∧ what y.lane = .replace y.pa y.va then { y with value := data y.lane } else y

/-- The word that a lane adds. -/
def State.newWord (t : State) (ea : Nat → Nat) (data : Nat → Quad) (l : Nat) (tr : Trans) : TxWord := ⟨l, t.localPa tr.pa, ea l, tr.leaf, tr.side, data l, true⟩

theorem replaced_of_other {ls : List Nat} {y : TxWord} (h : ∀ p va, what y.lane ≠ .replace p va) : replaced what data ls y = y := if_neg fun hc => h _ _ hc.2.2

theorem mem_putWord {set : List TxWord} {l : Nat} {x : TxWord} : x ∈ t.putWord what ea data set l ↔
    (∃ y ∈ set, x = replaced what data [l] y) ∨ ∃ tr, what l = .add tr ∧ x = t.newWord ea data l tr := by
  have hkept (h : ∀ p va, what l ≠ .replace p va) (y : TxWord) : replaced what data [l] y = y := by
    by_cases hl : y.lane = l
    · exact replaced_of_other (by rwa [hl])
    · exact if_neg fun hc => hl (List.mem_singleton.mp hc.2.1)
  unfold State.putWord
  cases hw : what l with
  | replace p va =>
    have hput (y : TxWord) : (if y.lane = l && y.write && y.pa = p && y.va = va then { y with value := data l } else y) = replaced what data [l] y := by
      unfold replaced
      by_cases hl : y.lane = l
      · simp [hl, hw, and_assoc, eq_comm (a := p), eq_comm (a := va)]
      · simp [hl]
    simp only [hput, List.mem_map, reduceCtorEq, false_and, exists_false, or_false, eq_comm (b := x)]
  | add tr =>
    simp only [hkept (by simp [hw]), exists_eq_right', List.mem_append, List.mem_singleton, TxLane.add.injEq, exists_eq_left']
    rfl
  | done _ | access _ | limit | wait => simp only [hkept (by simp [hw]), exists_eq_right', reduceCtorEq, false_and, exists_false, or_false]

theorem replaced_fields (ls : List Nat) (y : TxWord) : (replaced what data ls y).lane = y.lane ∧ (replaced what data ls y).write = y.write ∧
    (replaced what data ls y).pa = y.pa ∧ (replaced what data ls y).va = y.va := by
  unfold replaced
  split <;> exact ⟨rfl, rfl, rfl, rfl⟩

theorem replaced_of_absent {ls : List Nat} {y : TxWord} (h : y.lane ∉ ls) : replaced what data ls y = y := if_neg fun hc => h hc.2.1

theorem replaced_cons {l : Nat} {ls : List Nat} (hl : l ∉ ls) (y : TxWord) : replaced what data ls (replaced what data [l] y) = replaced what data (l :: ls) y := by
  by_cases hyl : y.lane = l
  · rw [replaced_of_absent (by rw [(replaced_fields [l] y).1, hyl]; exact hl)]
    simp [replaced, hyl]
  · have hmem : y.lane ∈ l :: ls ↔ y.lane ∈ ls := by rw [List.mem_cons, or_iff_right hyl]
    rw [replaced_of_absent (ls := [l]) (by simpa using hyl)]
    simp only [replaced, hmem]

theorem mem_foldl_putWord {ls : List Nat} (hls : ls.Nodup) {set : List TxWord} {x : TxWord} : x ∈ ls.foldl (t.putWord what ea data) set ↔
    (∃ y ∈ set, x = replaced what data ls y) ∨ ∃ l ∈ ls, ∃ tr, what l = .add tr ∧ x = t.newWord ea data l tr := by
  induction ls generalizing set with
  | nil => simp [replaced]
  | cons l ls ih =>
    obtain ⟨hl, hls⟩ := List.nodup_cons.mp hls
    have hnew (tr : Trans) : replaced what data ls (t.newWord ea data l tr) = t.newWord ea data l tr := replaced_of_absent hl
    rw [List.foldl_cons, ih hls]
    constructor
    · rintro (⟨z, hz, rfl⟩ | ⟨k, hk, hadd⟩)
      · obtain ⟨y, hy, rfl⟩ | ⟨tr, htr, rfl⟩ := mem_putWord.mp hz
        · exact .inl ⟨y, hy, replaced_cons hl y⟩
        · exact .inr ⟨l, by simp, tr, htr, hnew tr⟩
      · exact .inr ⟨k, by simp [hk], hadd⟩
    · rintro (⟨y, hy, rfl⟩ | ⟨k, hk, tr, htr, rfl⟩)
      · exact .inl ⟨_, mem_putWord.mpr (.inl ⟨y, hy, rfl⟩), (replaced_cons hl y).symm⟩
      · obtain rfl | hk := List.mem_cons.mp hk
        · exact .inl ⟨_, mem_putWord.mpr (.inr ⟨tr, htr, rfl⟩), (hnew tr).symm⟩
        · exact .inr ⟨k, hk, tr, htr, rfl⟩

end

end Sys2Proof.Machine
end

section
/-! PROOFS. The transactional writes as they issue (O32). -/

namespace Sys2Proof.Machine

section
variable {c : Ctx} {f : FmtDA} {s t u : State}

/-- The datum of a lane's write. -/
def Ctx.txData (c : Ctx) (f : FmtDA) (l : Nat) : Quad := c.src2 .vec f.d.toNat l

/-- What each lane's write comes to. -/
def Ctx.txWrites (c : Ctx) (f : FmtDA) (t : State) (l : Nat) : TxLane := c.txstLane t l (c.txAddr f l)

/-- The access that a write asks for: the lanes outside a transaction, and the aborted ones, ask for nothing. -/
def Ctx.txWriteLane (c : Ctx) (f : FmtDA) (l : Nat) : AccLane :=
  let x := newLane l 0 (c.txAddr f l) (c.txData f l) 0
  if c.txLive l = true then x else { x with status := .done }

/-- See `txWriteLane`. -/
def Ctx.txWriteOp (c : Ctx) (f : FmtDA) : MemOp := ⟨.txWrite, none, (laneList c.act).map (c.txWriteLane f), false, false, 0⟩

theorem txWriteLane_lane (l : Nat) : (c.txWriteLane f l).lane = l := by
  unfold Ctx.txWriteLane
  dsimp only
  split <;> rfl

/-- Every live lane's write is one that its write set can hold. -/
def Ctx.txWriteClear (c : Ctx) (f : FmtDA) (t : State) : Prop := ∀ l, l < 32 → c.act.getLsbD l = true → c.txLive l = true →
  txGood (c.txAddr f l) = true ∧ c.txWriteFull t l (c.txAddr f l) = false ∧ t.foreign c.w (c.txAddr f l) = false ∧ (c.txTrans t needBoth (c.txAddr f l)).isOk = true

/-- The lines of the live lanes' words leave the core's own L1 (R47). -/
def Ctx.txCleared (c : Ctx) (f : FmtDA) (t : State) : State := t.removeLines c.w.core c.gr.asid (((laneList c.act).filter c.txLive).map (c.txAddr f))

/-- A write past its checks, given what each lane's comes to. -/
def Ctx.txstGo (c : Ctx) (f : FmtDA) (t : State) (ea : Nat → Nat) (what : Nat → TxLane) : Body :=
  let new (l : Nat) : AccLane := newLane l 0 (ea l) (c.txData f l) 0
  let op : MemOp := ⟨.txWrite, none, (laneList c.act).map fun l => if what l = .done 0 then (new l).over else new l, false, false, 0⟩
  let bad := op.lanes.map fun l => match what l.lane with | .access _ => l | _ => l.over
  match c.launch op 0 t with
  | .ok _ =>
    let u := (laneList c.act).foldl (c.txStep what ea (c.txData f)) (t.removeLines c.w.core c.gr.asid (((laneList c.act).filter fun l => what l ≠ .done 0).map ea))
    if bad.all fun l => l.status = .done then .ok u else .ok ((c.fly { op with lanes := bad } 0 4 u).reportFlight u.nextId)
  | b => b

/-- The meaning of a write at some addresses. -/
def Ctx.txstAt (c : Ctx) (f : FmtDA) (t : State) (ea : Nat → Nat) : Body :=
  if c.txWaits t then .stay else c.txChecks (fun l => c.txstLane t l (ea l)) ea (c.txstGo f t ea fun l => c.txstLane t l (ea l))

theorem exec_txst : exec (.txst f) s = issue (.txst f) s fun c t => c.txstAt f t (c.ea f.a.toNat 0) := by rfl

theorem txstAt_of_free (hc : t.committing c.w.id = false) :
    c.txstAt f t (c.txAddr f) = c.txChecks (c.txWrites f t) (c.txAddr f) (c.txstGo f t (c.txAddr f) (c.txWrites f t)) :=
  if_neg (by simp [Ctx.txWaits, hc])

theorem txst_limit (h : Issues (.txst f) s c t) (hc : t.committing c.w.id = false) :
    ∀ m, m < 32 → c.act.getLsbD m = true → c.txWriteFull t m (c.txAddr f m) = true → ∃ info : TrapInfo, exec (.txst f) s = .next (s.trap c.w.id c.lanes info) ∧ info.code = 9 ∧ info.cause = 0 ∧
      info.logged = false ∧ info.active = c.act ∧ ∀ l, l < 32 → info.fault.getLsbD l = (c.act.getLsbD l && c.txWriteFull t l (c.txAddr f l)) := by
  rw [exec_txst]
  exact issue_limit (what := c.txWrites f t) h (by rw [ea_txAddr, txstAt_of_free hc]) fun l => txstLane_limit_iff

/-- A live lane's clear write replaces the word that its write set has, or else adds the word. -/
theorem txWrites_of_clear {l : Nat} (hl : l < 32) (ha : c.act.getLsbD l = true) (hlive : c.txLive l = true) (hclear : c.txWriteClear f t) :
    (∃ x, c.txHeld t needBoth true l (c.txAddr f l) = some x ∧ c.txWrites f t l = .replace x.pa x.va) ∨
      ∃ p, c.txHeld t needBoth true l (c.txAddr f l) = none ∧ c.txTrans t needBoth (c.txAddr f l) = .ok p ∧ c.txWrites f t l = .add p := by
  obtain ⟨hgood, hfull, hown, hok⟩ := hclear l hl ha hlive
  cases hx : c.txHeld t needBoth true l (c.txAddr f l) with
  | some x => exact .inl ⟨x, rfl, txstLane_of_held hlive hgood hx⟩
  | none =>
    cases hp : c.txTrans t needBoth (c.txAddr f l) with
    | error e => rw [hp] at hok; nomatch hok
    | ok p => exact .inr ⟨p, rfl, rfl, txstLane_of_new hlive hgood hx hfull hp hown⟩

theorem txWrites_of_dead {l : Nat} (h : c.txLive l = false) : c.txWrites f t l = .done 0 := txstLane_of_dead h

/-- The lanes whose write comes to something are the live ones, and a clear write comes to no fault. -/
theorem txWrites_done_iff (hclear : c.txWriteClear f t) {l : Nat} (h : l ∈ laneList c.act) : (c.txWrites f t l = .done 0 ↔ c.txLive l = false) ∧ ∀ r, c.txWrites f t l ≠ .access r := by
  obtain ⟨hl, ha⟩ := (mem_laneList c.act l).mp h
  cases hlive : c.txLive l with
  | false => simp [txWrites_of_dead hlive]
  | true => obtain ⟨x, -, hw⟩ | ⟨p, -, -, hw⟩ := txWrites_of_clear hl ha hlive hclear <;> simp [hw]

/-- A clear write asks for what its live lanes name, and puts their words in the write set (R346). -/
theorem txstGo_of_clear (hclear : c.txWriteClear f t) (hu : c.act = 0 ∨ c.unheld (c.txWriteOp f) t = true) :
    c.txstGo f t (c.txAddr f) (c.txWrites f t) = .ok ((laneList c.act).foldl (c.txStep (c.txWrites f t) (c.txAddr f) (c.txData f)) (c.txCleared f t)) := by
  have hlanes : ((laneList c.act).map fun l => if c.txWrites f t l = .done 0 then (newLane l 0 (c.txAddr f l) (c.txData f l) 0).over else newLane l 0 (c.txAddr f l) (c.txData f l) 0) =
      (c.txWriteOp f).lanes := List.map_congr_left fun l hl => by
    simp only [(txWrites_done_iff hclear hl).1, Ctx.txWriteLane]
    cases c.txLive l <;> rfl
  have hlines : (laneList c.act).filter (fun l => c.txWrites f t l ≠ .done 0) = (laneList c.act).filter c.txLive := List.filter_congr fun l hl => by
    simp only [ne_eq, decide_not, (txWrites_done_iff hclear hl).1]
    cases c.txLive l <;> rfl
  have hbad : ((c.txWriteOp f).lanes.map fun l => match c.txWrites f t l.lane with | .access _ => l | _ => l.over).all (fun l => l.status = .done) = true := by
    simp only [List.all_eq_true, List.mem_map]
    rintro _ ⟨m, hm, rfl⟩
    obtain ⟨l, hl, rfl⟩ := List.mem_map.mp hm
    rw [txWriteLane_lane]
    split
    · rename_i r hr
      exact absurd hr ((txWrites_done_iff hclear hl).2 r)
    · rfl
  have hlaunch : ∃ v, c.launch ⟨.txWrite, none, (c.txWriteOp f).lanes, false, false, 0⟩ 0 t = .ok v := by
    by_cases ha : c.act = 0
    · exact ⟨_, launch_of_inactive ha⟩
    · exact ⟨_, launch_of_unheld ha (hu.resolve_left ha)⟩
  obtain ⟨v, hv⟩ := hlaunch
  unfold Ctx.txstGo
  simp only [hlanes, hlines, hv, hbad, if_true]
  rfl

theorem txst_writes (h : Issues (.txst f) s c t) (hc : t.committing c.w.id = false) (hclear : c.txWriteClear f t) (hu : c.act = 0 ∨ c.unheld (c.txWriteOp f) t = true) :
    Completes (exec (.txst f) s) c ((laneList c.act).foldl (c.txStep (c.txWrites f t) (c.txAddr f) (c.txData f)) (c.txCleared f t)) := by
  have hwhat (l : Nat) (hl : l < 32) (ha : c.act.getLsbD l = true) : c.txWrites f t l ≠ .limit ∧ c.txWrites f t l ≠ .wait := by
    refine ⟨fun hlimit => ?_, txstLane_ne_wait⟩
    have hfull := txstLane_limit_iff.mp hlimit
    have hlive : c.txLive l = true := by
      unfold Ctx.txWriteFull at hfull
      simp only [Bool.and_eq_true] at hfull
      exact hfull.1.1.1
    rw [(hclear l hl ha hlive).2.1] at hfull
    nomatch hfull
  rw [exec_txst]
  refine issue_ok h ?_
  rw [ea_txAddr, txstAt_of_free hc, txChecks_of_clear hwhat, txstGo_of_clear hclear hu]

/-! ### Lanes outside every transaction (R346) -/

/-- Where no line is named none is removed. -/
theorem removeLines_nil (core asid : Nat) : t.removeLines core asid [] = t := by
  have hl1 : (t.removeLines core asid []).caches.l1 = t.caches.l1 := List.filter_eq_self.mpr fun l _ => by simp
  have hflights : (t.removeLines core asid []).flights = t.flights := (List.map_congr_left fun b _ => by simp).trans (List.map_id' _)
  calc t.removeLines core asid [] = { t with caches := { t.caches with l1 := (t.removeLines core asid []).caches.l1 }, flights := (t.removeLines core asid []).flights } := rfl
    _ = t := by rw [hl1, hflights]

theorem txst_of_outside (h : Issues (.txst f) s c t) (hc : t.committing c.w.id = false) (hout : c.w.txIn &&& c.act = 0)
    (hu : c.act = 0 ∨ c.unheld ⟨.txWrite, none, (laneList c.act).map fun l =>
      { newLane l 0 (c.src2 .vec f.a.toNat l).toNat (c.src2 .vec f.d.toNat l) 0 with status := .done }, false, false, 0⟩ t = true) : Completes (exec (.txst f) s) c t := by
  have hdead (l : Nat) (hl : l ∈ laneList c.act) : c.txLive l = false := by
    rw [Ctx.txLive, txIn_of_outside hout ((mem_laneList c.act l).mp hl).2, Bool.false_and]
  have hop : c.txWriteOp f = ⟨.txWrite, none, (laneList c.act).map fun l =>
      { newLane l 0 (c.src2 .vec f.a.toNat l).toNat (c.src2 .vec f.d.toNat l) 0 with status := .done }, false, false, 0⟩ :=
    congrArg (fun ls => (⟨.txWrite, none, ls, false, false, 0⟩ : MemOp)) (List.map_congr_left fun l hl => by
      simp only [Ctx.txWriteLane, hdead l hl, Bool.false_eq_true, if_false]
      rfl)
  have hclear : c.txWriteClear f t := fun l hl ha hlive => by
    rw [hdead l ((mem_laneList c.act l).mpr ⟨hl, ha⟩)] at hlive
    nomatch hlive
  have hnone : (laneList c.act).filter c.txLive = [] := List.filter_eq_nil_iff.mpr fun l hl => by simp [hdead l hl]
  have hcleared : c.txCleared f t = t := by rw [Ctx.txCleared, hnone, List.map_nil, removeLines_nil]
  have hdone := txst_writes h hc hclear (by rwa [hop])
  rwa [hcleared, List.foldl_ext _ (fun v _ => v) t fun v l hl => txStep_of_done (txWrites_of_dead (hdead l hl)), List.foldl_fixed] at hdone

/-! ### One lane's new word (R47, R346) -/

theorem txst_of_one {l : Nat} {tr : Trans} {t1 : State} (hc : t.committing c.w.id = false) (hone : laneList c.act = [l]) (hin : c.w.txIn.getLsbD l = true) (hab : c.w.txAbort.getLsbD l = false)
    (halign : c.txAddr f l % 8 = 0) (hcanon : c.txAddr f l < 2 ^ 60) (htr : c.txTrans t needBoth (c.txAddr f l) = .ok tr) (hforbid : t.txForbidden tr = false)
    (hown : t.foreign c.w (c.txAddr f l) = false) (ht1 : t1 = ((t.removeLines c.w.core c.gr.asid [c.txAddr f l]).translate (quadOf c.w.core) c.gr.asid (c.txAddr f l) needBoth c.w.priv 0).2)
    (hroom : (c.w.txWords l true).length < 4) (hnew : ∀ x ∈ c.w.txWords l true, x.va ≠ c.txAddr f l ∧ x.pa ≠ t.localPa tr.pa)
    (hu : c.unheld ⟨.txWrite, none, [newLane l 0 (c.txAddr f l) (c.txData f l) 0], false, false, 0⟩ t = true) (h : Issues (.txst f) s c t) :
    Completes (exec (.txst f) s) c (t1.modWave c.w.id fun w => { w with txSet := w.txSet ++ [⟨l, t.localPa tr.pa, c.txAddr f l, tr.leaf, tr.side, c.txData f l, true⟩] }) := by
  have hlive : c.txLive l = true := txLive_iff.mpr ⟨hin, hab⟩
  have hgood : txGood (c.txAddr f l) = true := decide_eq_true ⟨halign, hcanon⟩
  have hheld : c.txHeld t needBoth true l (c.txAddr f l) = none := List.find?_eq_none.mpr fun x hx hat => by
    have hplace : c.txPlace t needBoth (c.txAddr f l) = some (t.localPa tr.pa) := by rw [Ctx.txPlace, htr]
    obtain ⟨hlane, hwrite, hva | hpa⟩ := of_decide_eq_true hat
    · exact (hnew x (List.mem_filter.mpr ⟨hx, by simp [hlane, hwrite]⟩)).1 hva
    · exact (hnew x (List.mem_filter.mpr ⟨hx, by simp [hlane, hwrite]⟩)).2 (Option.some.inj (hpa.symm.trans hplace))
  have hfull : c.txWriteFull t l (c.txAddr f l) = false := by
    have hinside : c.txOutside t needBoth (c.txAddr f l) = false := by
      rw [Ctx.txOutside, htr]
      exact Bool.and_eq_false_imp.mpr fun hout => nomatch (hout.symm.trans hforbid : true = false)
    rw [Ctx.txWriteFull, hinside, decide_eq_false (by omega)]
    simp
  have hlanes (k : Nat) (hk : k < 32) (ha : c.act.getLsbD k = true) : k = l := by
    have hmem := (mem_laneList c.act k).mpr ⟨hk, ha⟩
    rw [hone] at hmem
    exact List.mem_singleton.mp hmem
  have hclear : c.txWriteClear f t := fun k hk ha _ => by
    obtain rfl := hlanes k hk ha
    exact ⟨hgood, hfull, hown, by rw [htr]; rfl⟩
  have hop : c.txWriteOp f = ⟨.txWrite, none, [newLane l 0 (c.txAddr f l) (c.txData f l) 0], false, false, 0⟩ := by
    simp only [Ctx.txWriteOp, hone, List.map_cons, List.map_nil, Ctx.txWriteLane, hlive, if_true]
  have hdone := txst_writes h hc hclear (.inr (by rwa [hop]))
  have hadd : c.txWrites f t l = .add tr := txstLane_of_new hlive hgood hheld hfull htr hown
  rw [Ctx.txCleared, hone, List.filter_cons, if_pos hlive, List.filter_nil, List.map_cons, List.map_nil, List.foldl_cons, List.foldl_nil, txStep_of_add hadd, ← ht1] at hdone
  exact hdone

/-! ### The words that the live lanes put (R346) -/

/-- A word of a write set is replaced where it is the one that its lane's write names. -/
theorem txWrites_replaces_iff (hclear : c.txWriteClear f t) (y : TxWord) : (y.lane ∈ laneList c.act ∧ c.txWrites f t y.lane = .replace y.pa y.va) ↔
    c.act.getLsbD y.lane = true ∧ c.txLive y.lane = true ∧ (c.txHeld t needBoth true y.lane (c.txAddr f y.lane)).any (fun h => decide (h.pa = y.pa ∧ h.va = y.va)) = true := by
  rw [mem_laneList, and_assoc]
  have hlane (ha : c.act.getLsbD y.lane = true) : y.lane < 32 := Nat.lt_of_not_le fun hge => by
    rw [BitVec.getLsbD_of_ge _ _ hge] at ha
    nomatch ha
  rw [← and_assoc, and_iff_right_of_imp hlane]
  refine and_congr_right fun ha => ?_
  cases hlive : c.txLive y.lane with
  | false => simp [txWrites_of_dead hlive]
  | true => obtain ⟨x, hx, hw⟩ | ⟨p, hx, -, hw⟩ := txWrites_of_clear (hlane ha) ha hlive hclear <;> simp [hx, hw]

/-- A lane adds a word where it is live and its write set has not the word. -/
theorem txWrites_adds_iff (hclear : c.txWriteClear f t) {l : Nat} (hl : l < 32) (ha : c.act.getLsbD l = true) (p : Trans) : c.txWrites f t l = .add p ↔
    c.txLive l = true ∧ c.txHeld t needBoth true l (c.txAddr f l) = none ∧ c.txTrans t needBoth (c.txAddr f l) = .ok p := by
  cases hlive : c.txLive l with
  | false => simp [txWrites_of_dead hlive]
  | true => obtain ⟨x, hx, hw⟩ | ⟨q, hx, hq, hw⟩ := txWrites_of_clear hl ha hlive hclear <;> simp [*]

theorem txst_puts (h : Issues (.txst f) s c t) (hc : t.committing c.w.id = false) (hclear : c.txWriteClear f t) (hop : c.unheld (c.txWriteOp f) t = true) :
    ∃ (u : State) (set : Wave → List TxWord), Completes (exec (.txst f) s) c u ∧ u.waves = (t.modWave c.w.id fun w => { w with txSet := set w }).waves ∧
      u.flights = (c.txCleared f t).flights ∧ ∀ w x, x ∈ set w ↔
        (∃ y ∈ w.txSet, x = if y.write = true ∧ c.act.getLsbD y.lane = true ∧ c.txLive y.lane = true ∧
            (c.txHeld t needBoth true y.lane (c.txAddr f y.lane)).any (fun h => decide (h.pa = y.pa ∧ h.va = y.va)) = true
          then { y with value := c.txData f y.lane } else y) ∨
        ∃ l p, l < 32 ∧ c.act.getLsbD l = true ∧ c.txLive l = true ∧ c.txHeld t needBoth true l (c.txAddr f l) = none ∧ c.txTrans t needBoth (c.txAddr f l) = .ok p ∧
          x = t.newWord (c.txAddr f) (c.txData f) l p := by
  obtain ⟨hflights, hwaves⟩ := foldl_txStep_frame (c := c) (what := c.txWrites f t) (ea := c.txAddr f) (data := c.txData f) (t := t) (laneList c.act) (c.txCleared f t) fun _ => rfl
  refine ⟨_, _, txst_writes h hc hclear (.inr hop), hwaves, hflights, fun w x => ?_⟩
  rw [mem_foldl_putWord (nodup_laneList c.act)]
  refine or_congr (exists_congr fun y => and_congr_right fun _ => ?_) (exists_congr fun l => ?_)
  · simp only [replaced, txWrites_replaces_iff hclear]
  · rw [mem_laneList, and_assoc]
    simp only [← exists_and_left]
    refine exists_congr fun p => and_congr_right fun hl => and_congr_right fun ha => ?_
    rw [txWrites_adds_iff hclear hl ha]
    simp only [and_assoc]

end

end Sys2Proof.Machine
end

section
/-! PROOFS. Transactional reads that return (O32). -/

namespace Sys2Proof.Machine

section
variable {s u : State} {a : Access} {w : Wave} {ga : Gang} {gr : Grid} {l : AccLane}

/-- A transactional read goes to the home, installs no line, and is not overlaid with staged bytes (R48, R117, R167). -/
theorem readLane_of_txRead {victim : Option Nat} {n : Nat} {m : List (Nat × Nat)} (hk : a.kind = .txRead) (hready : l.status = .ready) (hheld : s.homeHeld a l = false)
    (hturn : ∀ k, s.atHome w a.asid l.pa k = k (s.withLast m)) (k : List Byte → State → Option State) :
    s.readLane a w l n true true victim k = k (lineBytes (s.lineHome a.asid l.pa l.leaf.toNat).1 (l.va % 64) n) ((s.lineHome a.asid l.pa l.leaf.toNat).2.withLast m) := by
  have hmiss : s.loadHit a w l true = none := rfl
  have hgo : ¬ ((decide (l.status ≠ .ready) || s.homeHeld a l) = true) := by simp [hready, hheld]
  unfold State.readLane
  rw [hmiss]
  dsimp only
  rw [if_neg hgo, hturn]
  simp only [hk, lineHome_withLast, if_true, Bool.not_true, Bool.and_false, Bool.false_and, Bool.false_eq_true, if_false]

/-- The wave with the word that a lane's read returned noted in its read set, where the lane is still in its transaction. -/
def notesRead (l : AccLane) (x : Quad) (y : Wave) : Wave :=
  if l.data = 1 ∧ y.txIn.getLsbD l.lane = true ∧ y.txAbort.getLsbD l.lane = false then { y with txSet := y.txSet ++ [⟨l.lane, l.pa, l.va, l.leaf.toNat, l.side, x, false⟩] } else y

theorem loadLane_of_txRead {victim : Option Nat} {bs : List Byte} (ha : s.flight? a.id = some a) (hw : s.wave? a.wave = some w) (hl : a.laneAt l.lane 0 = some l) (hr : s.isResident w.gang = true)
    (hk : a.kind = .txRead) (hready : l.status = .ready) (hloc : s.locationHeld a l = false) (hstore : s.storeUnwritten a l = false) (hfence : s.fenceHeld a.after = false)
    (hread : ∀ k, s.readLane a w l 8 true true none k = k bs u) : s.loadLane a.id l.lane victim =
    some (((u.modWave w.id (notesRead l (BitVec.ofNat 64 (natOfBytes bs)))).deliver a l.lane (BitVec.ofNat 64 (natOfBytes bs))).laneTo a.id l.lane 0 .done) := by
  have hnotes : (if l.data = 1 then u.modWave w.id (fun y => if y.txIn.getLsbD l.lane && !y.txAbort.getLsbD l.lane then
      { y with txSet := y.txSet ++ [⟨l.lane, l.pa, l.va, l.leaf.toNat, l.side, BitVec.ofNat 64 (natOfBytes bs), false⟩] } else y) else u) =
      u.modWave w.id (notesRead l (BitVec.ofNat 64 (natOfBytes bs))) := by
    by_cases hd : l.data = 1
    · rw [if_pos hd]
      refine modWave_congr fun y _ _ => ?_
      simp only [notesRead, hd, true_and, Bool.and_eq_true, Bool.not_eq_true']
    · rw [if_neg hd]
      exact (modWave_of_fixed fun y _ _ => if_neg fun h => hd h.1).symm
  unfold State.loadLane
  rw [onLane_of_resident ha hw hl hr]
  simp only [hk, hready, hloc, hstore, hfence, hread, hnotes, decide_true, Bool.or_true, Bool.not_true, Bool.or_self, Bool.false_eq_true, if_false]

/-- A lane's transactional read returns eight bytes of the home, and records them where it is in a transaction (R117, R346). -/
theorem txRead_returns (ha : s.flight? a.id = some a) (hw : s.wave? a.wave = some w) (hr : s.isResident w.gang = true) (hl : a.laneAt l.lane 0 = some l) (hlane : l.lane < 32)
    (hfence : s.fenceHeld a.after = false) (hk : a.kind = .txRead) (hready : l.status = .ready) (hloc : s.locationHeld a l = false) (hstore : s.storeUnwritten a l = false)
    (hheld : s.homeHeld a l = false) (h0 : (s.ctx a.asid).ordlog.getLsbD 0 = false) (h1 : (s.ctx a.asid).ordlog.getLsbD 1 = false) :
    let x : Quad := BitVec.ofNat 64 (natOfBytes (lineBytes (s.lineHome a.asid l.pa l.leaf.toNat).1 (l.va % 64) 8))
    ∃ u : State, exec (.loadReturn a.id (laneBit l.lane) none) s = .next (((u.deliver a l.lane x).laneTo a.id l.lane 0 .done).afterAccess a) ∧
      u.mem = (s.lineHome a.asid l.pa l.leaf.toNat).2.mem ∧ u.waves = ((s.lineHome a.asid l.pa l.leaf.toNat).2.modWave w.id (notesRead l x)).waves := by
  intro x
  obtain ⟨m, hturn⟩ := atHome_of_unlogged (w := w) (pa := l.pa) h0 h1
  exact ⟨_, accessStep_of_lane (row := "LOAD_RETURN") (f := fun t n => t.loadLane a.id n none) ha hlane
    (loadLane_of_txRead ha hw hl hr hk hready hloc hstore hfence (readLane_of_txRead hk hready hheld hturn)), rfl, rfl⟩

end

end Sys2Proof.Machine
end

section
/-! PROOFS. TRANSACTION_COMMIT (O32). -/

namespace Sys2Proof.Machine

/-! ### What the home of a line does not read (R31, R61, R64, R487) -/

/-- The state with another note of which wave accessed each line last, and with other gangs; no write at a home reads either. -/
def State.aside (s : State) (m : List (Nat × Nat)) (gs : List Gang) : State := { s.withLast m with gangs := gs }

section
variable (s : State) (m : List (Nat × Nat)) (gs : List Gang)

theorem localPa_aside (pa : Nat) : (s.aside m gs).localPa pa = s.localPa pa := rfl

theorem putBytes_aside (pa : Nat) (bs : List Byte) : (s.aside m gs).putBytes pa bs = (s.putBytes pa bs).aside m gs := rfl

theorem putNat_aside (pa n x : Nat) : (s.aside m gs).putNat pa n x = (s.putNat pa n x).aside m gs := rfl

theorem natAt_aside (pa n : Nat) : (s.aside m gs).natAt pa n = s.natAt pa n := rfl

theorem modHost_aside (f : HostQueues → HostQueues) : (s.aside m gs).modHost f = (s.modHost f).aside m gs := rfl

theorem modCtx_aside (asid : Nat) (f : Context → Context) : (s.aside m gs).modCtx asid f = (s.modCtx asid f).aside m gs := rfl

/-- The modified lines are noted beside what is aside. -/
theorem modDirty_aside (f : List DirtyLine → List DirtyLine) : (s.aside m gs).modCaches (fun c => { c with dirty := f c.dirty }) =
    (s.modCaches fun c => { c with dirty := f c.dirty }).aside m gs := rfl

theorem writeEvent_aside (e : Event) : (s.aside m gs).writeEvent e = (s.writeEvent e).aside m gs := by
  have hhost : (s.aside m gs).host = s.host := rfl
  have hctx (asid : Nat) : (s.aside m gs).ctx asid = s.ctx asid := rfl
  have hslot (asid : Nat) : (s.aside m gs).faultSlot asid = s.faultSlot asid := rfl
  unfold State.writeEvent
  cases e.fault <;> simp only [hhost, hctx, hslot, putBytes_aside, putNat_aside, modHost_aside, modCtx_aside]

theorem postEvent_aside (e : Event) : (s.aside m gs).postEvent e = (s.postEvent e).aside m gs := by
  unfold State.postEvent
  rw [apply_ite (State.aside · m gs), ← writeEvent_aside]
  rfl

theorem logEvent_aside (code asid arg0 arg1 arg2 : Nat) : (s.aside m gs).logEvent code asid arg0 arg1 arg2 = (s.logEvent code asid arg0 arg1 arg2).aside m gs := by
  have hlogs : (s.aside m gs).host.logs = s.host.logs := rfl
  have hcycle : (s.aside m gs).cycle = s.cycle := rfl
  have hpost (type asid data : Nat) : (s.aside m gs).postSimple type asid data = (s.postSimple type asid data).aside m gs := postEvent_aside s m gs _
  unfold State.logEvent
  simp only [hlogs, hcycle, hpost]
  split
  · split <;> rfl
  · rfl

theorem notePin_aside (asid pa leaf : Nat) : (s.aside m gs).notePin asid pa leaf = (s.notePin asid pa leaf).aside m gs := by
  have hserved : (s.aside m gs).servedHome pa leaf = s.servedHome pa leaf := rfl
  unfold State.notePin
  simp only [hserved, logEvent_aside]
  split
  · rfl
  · split <;> rfl

theorem setDirty_aside (side page : Nat) : (s.aside m gs).setDirty side page = (s.setDirty side page).aside m gs := by
  unfold State.setDirty
  rw [natAt_aside, putNat_aside]
  split <;> rfl

/-- Steps of a fold that each commute with what is aside do so together. -/
theorem foldl_aside {β : Type} {f : State → β → State} (h : ∀ t b, f (t.aside m gs) b = (f t b).aside m gs) (l : List β) : l.foldl f (s.aside m gs) = (l.foldl f s).aside m gs := by
  induction l generalizing s with
  | nil => rfl
  | cons b l ih => rw [List.foldl_cons, List.foldl_cons, h, ih]

theorem writeBack_aside (d : DirtyLine) : (s.aside m gs).writeBack d = (s.writeBack d).aside m gs := by
  unfold State.writeBack
  rw [foldl_aside s m gs fun t (x : Nat × Nat) => setDirty_aside t m gs x.1 x.2]
  exact modDirty_aside _ m gs fun ls => ls.filter fun x => x.pline ≠ d.pline

theorem sliceRoom_aside (slice : Nat) : (s.aside m gs).sliceRoom slice = (s.sliceRoom slice).aside m gs := by
  have hlines : (s.aside m gs).sliceLines slice = s.sliceLines slice := rfl
  have hpins : (s.aside m gs).slicePins = s.slicePins := rfl
  rw [sliceRoom_eq, sliceRoom_eq, hlines, hpins, foldl_aside s m gs fun t d => writeBack_aside t m gs d]

theorem noteDirty_aside (asid va pa leaf side : Nat) : (s.aside m gs).noteDirty asid va pa leaf side = (s.noteDirty asid va pa leaf side).aside m gs := by
  have hdte : (s.aside m gs).dte asid = s.dte asid := rfl
  have hserved : (s.aside m gs).servedHome pa leaf = s.servedHome pa leaf := rfl
  have hmarked (b : Bool) (page : Nat) : (if b = true then (s.aside m gs).setDirty side page else s.aside m gs) = (if b = true then s.setDirty side page else s).aside m gs := by
    rw [setDirty_aside]
    split <;> rfl
  unfold State.noteDirty
  simp only [hdte, hserved, localPa_aside, hmarked]
  split
  · rfl
  · rw [← sliceRoom_aside]
    exact congrArg (State.sliceRoom · _) (modDirty_aside _ m gs fun ls => noteModified ls (s.localPa pa / 64) (s.servedHome pa leaf) _)

/-- Marks of the CMP value do not depend on which wave accessed a line last (R73). -/
theorem foldl_markCmp_lastWave (packed : Bool) (ps : List (Nat × Nat)) (c : Caches) : ps.foldl (fun k p => k.markCmp packed p.1 p.2) { c with lastWave := m } =
    { ps.foldl (fun k p => k.markCmp packed p.1 p.2) c with lastWave := m } := by
  induction ps generalizing c with
  | nil => rfl
  | cons p ps ih => exact ih (c.markCmp packed p.1 p.2)

theorem storeHome_aside (asid va pa leaf side : Nat) (bs : List Byte) : (s.aside m gs).storeHome asid va pa leaf side bs = (s.storeHome asid va pa leaf side bs).aside m gs := by
  unfold State.storeHome
  rw [putBytes_aside, noteDirty_aside, localPa_aside]
  unfold State.aside State.withLast State.modCaches
  dsimp only
  rw [foldl_markCmp_lastWave]

theorem writeHome_aside (asid va pa leaf side : Nat) (bs : List Byte) : (s.aside m gs).writeHome asid va pa leaf side bs = (s.writeHome asid va pa leaf side bs).aside m gs := by
  unfold State.writeHome
  rw [notePin_aside, storeHome_aside]

/-- What is kept for a gang's own loads before a write changes its gang alone (R167). -/
theorem keepBefore_aside (gang va pa n : Nat) : ∃ gs', (s.aside m gs).keepBefore gang va pa n = s.aside m gs' := by
  unfold State.keepBefore
  split
  · exact ⟨gs, rfl⟩
  · split
    · exact ⟨gs, rfl⟩
    · split
      · exact ⟨gs, rfl⟩
      · exact ⟨_, rfl⟩

/-- A lane's words written at their homes (R117). -/
def State.writeWords (s : State) (asid : Nat) (words : List TxWord) : State :=
  words.foldl (fun t x => t.writeHome asid x.va x.pa x.leaf x.side (bytesOfNat 8 x.value.toNat)) s

/-- The same with what is kept for the gang's own loads. -/
def State.writeKept (s : State) (gang asid : Nat) (words : List TxWord) : State :=
  words.foldl (fun t x => (t.keepBefore gang x.va x.pa 8).writeHome asid x.va x.pa x.leaf x.side (bytesOfNat 8 x.value.toNat)) s

theorem writeKept_aside (gang asid : Nat) (words : List TxWord) : ∃ gs', (s.aside m gs).writeKept gang asid words = (s.writeWords asid words).aside m gs' := by
  induction words generalizing s gs with
  | nil => exact ⟨gs, rfl⟩
  | cons x words ih =>
    obtain ⟨gs1, hkept⟩ := keepBefore_aside s m gs gang x.va x.pa 8
    obtain ⟨gs', hrest⟩ := ih (s.writeHome asid x.va x.pa x.leaf x.side (bytesOfNat 8 x.value.toNat)) gs1
    refine ⟨gs', ?_⟩
    rw [State.writeKept, List.foldl_cons, hkept, writeHome_aside]
    exact hrest

end

/-! ### Reads of the words at their homes (R117, R205) -/

section
variable {s s1 : State} {w : Wave} {ga : Gang} {gr : Grid} {asid lane : Nat} {ok : Bool}

theorem validates_withLast (m : List (Nat × Nat)) (words : List TxWord) (s : State) :
    (s.withLast m).validates asid words = ((s.validates asid words).1, (s.validates asid words).2.withLast m) := by
  induction words generalizing s with
  | nil => rfl
  | cons x words ih =>
    unfold State.validates
    rw [readHome_withLast]
    dsimp only
    split
    · exact ih _
    · rfl

/-- Outside the recording and the replay of an order log every line's turn has come. -/
theorem turnsFor_of_unlogged (h0 : (s.ctx asid).ordlog.getLsbD 0 = false) (h1 : (s.ctx asid).ordlog.getLsbD 1 = false) (words : List TxWord) :
    ∃ m, ∀ k, s.turnsFor w asid k words = k (s.withLast m) := by
  induction words generalizing s with
  | nil => exact ⟨s.caches.lastWave, fun _ => rfl⟩
  | cons x words ih =>
    unfold State.turnsFor
    cases s.home? w with
    | none => exact ⟨s.caches.lastWave, fun _ => rfl⟩
    | some h =>
      have hturn : ∃ m, s.orderTurn asid (x.pa / 64) (logicalWave h.2 h.1 w) w.time.toNat h.2.det = .go (s.withLast m) := by
        unfold State.orderTurn
        simp only [h0, h1, Bool.not_false, Bool.and_self, if_true]
        split
        · exact ⟨_, rfl⟩
        · exact ⟨s.caches.lastWave, rfl⟩
      obtain ⟨m, hgo⟩ := hturn
      obtain ⟨m', hrest⟩ := ih (s := s.withLast m) h0 h1
      refine ⟨m', fun k => ?_⟩
      dsimp only
      rw [hgo]
      exact hrest k

/-- The wave once a lane of its commit is over: committed or failed, and its words gone. -/
def Wave.lanesOver (w : Wave) (lane : Nat) (ok : Bool) : Wave :=
  { w.noteTx lane ok with txTodo := w.txTodo &&& ~~~laneBit lane, txCommitted := if ok then w.txCommitted ||| laneBit lane else w.txCommitted, txSet := w.txSet.filter fun x => x.lane ≠ lane }

theorem endCommit_lanesOver (y : Wave) (lane : Nat) (ok : Bool) : let g := (y.lanesOver lane ok).endCommit
    g.txTodo = y.txTodo &&& ~~~laneBit lane ∧ (∀ x, x ∈ g.txSet ↔ x ∈ y.txSet ∧ x.lane ≠ lane) ∧ g.v = y.v ∧ g.pc = y.pc ∧
      (y.txTodo &&& ~~~laneBit lane ≠ 0 → g.p = y.p ∧ g.txCommitted = if ok = true then y.txCommitted ||| laneBit lane else y.txCommitted) ∧
      (y.txTodo &&& ~~~laneBit lane = 0 → ∀ l q, l < 32 → g.getP l q = if q = (y.txPred.map BitVec.toNat).getD 0 ∧ q ≠ 0 ∧ y.txDone.getLsbD l = true then
        ((if ok = true then y.txCommitted ||| laneBit lane else y.txCommitted).getLsbD l) else y.getP l q) := by
  have hwords (x : TxWord) : x ∈ y.txSet.filter (fun x => x.lane ≠ lane) ↔ x ∈ y.txSet ∧ x.lane ≠ lane := by
    rw [List.mem_filter, decide_eq_true_eq]
  intro g
  by_cases hleft : y.txTodo &&& ~~~laneBit lane = 0
  · obtain ⟨p, hp, hget⟩ := endCommit_of_none_left (w := y.lanesOver lane ok) hleft
    have hg : g = _ := hp
    rw [hg]
    exact ⟨rfl, hwords, rfl, rfl, fun h => absurd hleft h, fun _ l q _ => hget l q⟩
  · have hg : g = y.lanesOver lane ok := endCommit_of_left hleft
    rw [hg]
    exact ⟨rfl, hwords, rfl, rfl, fun _ => ⟨rfl, rfl⟩, fun h => absurd h hleft⟩

theorem asidOf_of_home (hh : s.home? w = some (ga, gr)) : s.asidOf w = gr.asid := by
  unfold State.asidOf
  rw [hh]

/-- What a lane's commit leaves of the machine but its wave: its words at their homes where they validate. -/
def State.laneCommitted (s : State) (w : Wave) (asid lane : Nat) (ok : Bool) : State :=
  let writes := (w.txSet.filter fun x => x.lane = lane).filter fun x => x.write
  (if ok then (s.writeKept w.gang asid writes).removeLines w.core asid (writes.map TxWord.va) else s).modCaches fun c =>
    { c with tokens := c.tokens.filter fun t => !(t.2.1 = w.id && t.2.2 = lane) }

theorem commitLane_of_turn (hw : s.wave? w.id = some w) (hh : s.home? w = some (ga, gr)) (htodo : w.txTodo.getLsbD lane = true) (hwait : s.commitWaits w lane = false)
    (h0 : (s.ctx gr.asid).ordlog.getLsbD 0 = false) (h1 : (s.ctx gr.asid).ordlog.getLsbD 1 = false)
    (hvalid : s.validates gr.asid ((w.txSet.filter fun x => x.lane = lane).filter fun x => !x.write) = (ok, s1)) :
    ∃ m, s.commitLane w.id lane = some (((s1.withLast m).laneCommitted w gr.asid lane ok).modWave w.id fun y => (y.lanesOver lane ok).endCommit) := by
  obtain ⟨m, hturn⟩ := turnsFor_of_unlogged (w := w) h0 h1 (w.txSet.filter fun x => x.lane = lane)
  have hgo : ¬ ((!w.txTodo.getLsbD lane || s.commitWaits w lane) = true) := by simp [htodo, hwait, -BitVec.getLsbD_eq_getElem]
  refine ⟨m, ?_⟩
  unfold State.commitLane
  rw [hw]
  dsimp only
  rw [if_neg hgo, asidOf_of_home hh, hturn, validates_withLast, hvalid]
  rfl

theorem writeKept_withLast (m : List (Nat × Nat)) (gang asid : Nat) (words : List TxWord) :
    ∃ gs, (s1.withLast m).writeKept gang asid words = (s1.writeWords asid words).aside m gs := writeKept_aside s1 m s1.gangs gang asid words

/-- Memory and the waves are as the words of a lane that validates leave them at their homes. -/
theorem laneCommitted_homes (m : List (Nat × Nat)) : let writes := (w.txSet.filter fun x => x.lane = lane).filter fun x => x.write
    let homes := if ok = true then s1.writeWords asid writes else s1
    ((s1.withLast m).laneCommitted w asid lane ok).mem = homes.mem ∧ ((s1.withLast m).laneCommitted w asid lane ok).waves = homes.waves := by
  intro writes homes
  obtain ⟨gs, hkept⟩ := writeKept_withLast (s1 := s1) m w.gang asid writes
  cases ok with
  | false => exact ⟨rfl, rfl⟩
  | true =>
    show ((s1.withLast m).writeKept w.gang asid writes).mem = _ ∧ ((s1.withLast m).writeKept w.gang asid writes).waves = _
    rw [hkept]
    exact ⟨rfl, rfl⟩

theorem exec_transactionCommit {id : Nat} : exec (.transactionCommit id lane) s = execTransactionCommit id lane s := by rfl

/-- TRANSACTION_COMMIT of a lane whose turn it is and that has nothing to wait for (R117, R347). -/
theorem transactionCommit_of_turn (hw : s.wave? w.id = some w) (hh : s.home? w = some (ga, gr)) (hturn : s.commitTurn w = some lane) (ha : w.alive = true)
    (htodo : w.txTodo.getLsbD lane = true) (hwait : s.commitWaits w lane = false) (h0 : (s.ctx gr.asid).ordlog.getLsbD 0 = false) (h1 : (s.ctx gr.asid).ordlog.getLsbD 1 = false)
    (hvalid : s.validates gr.asid ((w.txSet.filter fun x => x.lane = lane).filter fun x => !x.write) = (ok, s1)) :
    ∃ m, exec (.transactionCommit w.id lane) s = .next (((s1.withLast m).laneCommitted w gr.asid lane ok).modWave w.id fun y => (y.lanesOver lane ok).endCommit) := by
  obtain ⟨m, hcommit⟩ := commitLane_of_turn hw hh htodo hwait h0 h1 hvalid
  refine ⟨m, ?_⟩
  rw [exec_transactionCommit]
  refine event_some ?_
  rw [hw, Option.bind_some, if_neg (by simp [hturn]), hcommit, Option.map_some, if_pos ha]

end

end Sys2Proof.Machine
end

section
/-! PROOFS. Transactions (O32). -/

namespace Sys2Proof.Machine

section
variable {c : Ctx} {f : FmtDA} {s t : State}

/-- What a clear read of some lanes leaves (R346). -/
theorem txld_gives (h : Issues (.txld f) s c t) (hc : t.committing c.w.id = false) (ha : c.act ≠ 0) (hclear : c.txReadClear f t) (hop : c.unheld (c.txReadOp f t) t = true) :
    ∃ v : Wave → SMap 32, Completes (exec (.txld f) s) c (((c.flown (c.txReadOp f t) 1 t).modWave c.w.id fun w => { w with v := v w }).reportFlight t.nextId) ∧
      ∀ (w : Wave) (l n : Nat), l < 32 → n ≤ 111 → SMap.get (v w) (vKey l n) =
        if f.d.toNat ≤ 110 ∧ c.act.getLsbD l = true ∧ c.txHit t l (c.txAddr f l) = true ∧ n = f.d.toNat then lo32 (c.txValue t l (c.txAddr f l))
        else if f.d.toNat ≤ 110 ∧ c.act.getLsbD l = true ∧ c.txHit t l (c.txAddr f l) = true ∧ n = f.d.toNat + 1 then hi32 (c.txValue t l (c.txAddr f l)) else w.getV l n :=
  ⟨fun w => c.txGiven f t w.v, txld_reads h hc ha hclear hop, fun w _ _ => get_txGiven w.v⟩

end

/-- Settles O32: the words at issue by what each lane's access comes to, the return and the commit by what the home gives and takes. -/
theorem transactionsRun : Obligations.TransactionsRun := by
  unfold Obligations.TransactionsRun
  refine ⟨⟨fun f s t c hc hr => ⟨txb_opens hc hr, txa_drops hc hr⟩, fun f s t c hc hout => ⟨fun h hu => txst_of_outside h hc hout hu, fun h => ⟨txld_of_inactive h hc, txld_of_outside h hc hout⟩⟩,
    ?one, fun f s t c l h hc hr hu hd hl hone hfew => txc_of_one h hc hr hu hd hl hone hfew, fun f s t c h => ⟨txc_of_inactive h, fun ha hc hr hu hd hnone => txc_of_none h ha hc hr hu hd hnone⟩⟩,
    ⟨?lanes, ?returns⟩, ?commit⟩
  case one =>
    intro f s t t1 c l tr hc hone hin hab va halign hcanon htr hforbid hown ht1 hroom hnew hu h
    exact txst_of_one hc hone hin hab halign hcanon htr hforbid hown ht1 hroom hnew hu h
  case lanes =>
    intro f s t c hc ha va tr pa bad held live good hit due value full over_ limit
    refine ⟨fun h => ⟨txld_limit h hc, fun hclear hop => txld_gives h hc ha hclear hop⟩, fun h => ⟨txst_limit h hc, fun hclear hop => txst_puts h hc hclear hop⟩⟩
  case returns =>
    intro s a w ga gr l ha hw hh hr hl hlane hfence hk hready hloc hstore hheld hd h0 h1
    exact txRead_returns ha hw hr hl hlane hfence hk hready hloc hstore hheld h0 h1
  case commit =>
    intro s s1 w ga gr lane ok hw hh hlane hturn ha htodo hwait h0 h1 words hvalid
    obtain ⟨m, hexec⟩ := transactionCommit_of_turn hw hh hturn ha htodo hwait h0 h1 hvalid
    obtain ⟨hmem, hwaves⟩ := laneCommitted_homes (s1 := s1) (w := w) (asid := gr.asid) (lane := lane) (ok := ok) m
    exact ⟨_, _, hexec, hmem, hwaves, fun y => endCommit_lanesOver y lane ok⟩

end Sys2Proof.Machine
end

section
/-! PROOFS. The package after reset (O5, O6). -/

namespace Sys2Proof.Machine

/-- Settles O5: each component is read off the state after reset, the quanta one class at a time. -/
theorem resetLeaves : Obligations.ResetLeaves := by
  unfold Obligations.ResetLeaves
  refine ⟨fun _ => rfl, rfl, rfl, fun _ => ⟨rfl, rfl⟩, rfl, fun k hk => ?_, rfl, rfl, rfl, fun _ => rfl⟩
  have hquanta : ∀ k < 4, State.reset.quanta.get k = 8 := by decide
  exact hquanta k hk

/-- Settles O6: the memory after reset lists nothing. -/
theorem resetCanonical : Obligations.ResetCanonical := by
  unfold Obligations.ResetCanonical State.Canonical
  have hempty : State.reset.mem = [] := rfl
  rw [hempty]
  rfl

end Sys2Proof.Machine
end

section
/-! PROOFS. Answers, and what they hold of the memory's canonical form (O7). -/

namespace Sys2Proof.Machine

/-! ### Answers with something held of them -/

/-- What holds of a refusal, and what of a value, holds of an answer. -/
def Answers {ε α : Type} (p : ε → Prop) (q : α → Prop) : Except ε α → Prop
  | .error x => p x
  | .ok x => q x

/-- A value, where there is one, has a property. -/
def Given {α : Type} (p : α → Prop) : Option α → Prop
  | none => True
  | some x => p x

section
variable {ε α β : Type} {p : ε → Prop} {q : α → Prop} {q' : β → Prop}

theorem Answers.bind {r : Except ε α} {k : α → Except ε β} (h : Answers p q r) (hk : ∀ x, q x → Answers p q' (k x)) : Answers p q' (r >>= k) := by
  cases r with
  | error x => exact h
  | ok x => exact hk x h

theorem Answers.ite {c : Prop} [Decidable c] {a b : Except ε α} (ha : Answers p q a) (hb : Answers p q b) : Answers p q (if c then a else b) := by
  split <;> assumption

theorem Answers.map {r : Except ε α} {f : α → β} (h : Answers p q r) (hf : ∀ x, q x → q' (f x)) : Answers p q' (r.map f) := by
  cases r with
  | error x => exact h
  | ok x => exact hf x h

/-- Steps each of which keeps what holds of an answer keep it together. -/
theorem Answers.foldl {r : Except ε α} {f : Except ε α → β → Except ε α} (h : Answers p q r) (hf : ∀ x b, Answers p q x → Answers p q (f x b)) (l : List β) :
    Answers p q (l.foldl f r) := List.foldlRecOn l f h fun x hx b _ => hf x b hx

theorem Answers.foldlM {x : α} {f : α → β → Except ε α} (h : q x) (hf : ∀ x b, q x → Answers p q (f x b)) (l : List β) : Answers p q (l.foldlM f x) := by
  induction l generalizing x with
  | nil => exact h
  | cons b l ih => exact (hf x b h).bind fun y hy => ih hy

theorem Answers.ok {r : Except ε α} {x : α} (h : Answers p q r) (e : r = .ok x) : q x := by rw [e] at h; exact h

theorem Answers.error {r : Except ε α} {x : ε} (h : Answers p q r) (e : r = .error x) : p x := by rw [e] at h; exact h

theorem Given.of {q : α → Prop} {r : Option α} (h : ∀ x, r = Option.some x → q x) : Given q r := by
  cases r with
  | none => trivial
  | some x => exact h x rfl

theorem Given.some {q : α → Prop} {r : Option α} {x : α} (h : Given q r) (e : r = some x) : q x := by rw [e] at h; exact h

theorem Given.map {q : α → Prop} {r : Option α} {f : α → β} (h : Given q r) (hf : ∀ x, q x → q' (f x)) : Given q' (r.map f) := by
  cases r with
  | none => trivial
  | some x => exact hf x h

/-- Whatever a search that finds something goes on to has a property if each thing it can find leads to one. -/
theorem Given.bind {q : α → Prop} {r : Option α} {k : α → Option β} (h : Given q r) (hk : ∀ x, q x → Given q' (k x)) : Given q' (r.bind k) := by
  cases r with
  | none => trivial
  | some x => exact hk x h

/-- Whatever a search answers, a default stands for nothing. -/
theorem Given.getD {q : α → Prop} {r : Option α} {x : α} (h : Given q r) (hx : q x) : q (r.getD x) := by
  cases r with
  | none => exact hx
  | some y => exact h

theorem Given.any (r : Option α) : Given (fun _ => True) r := by cases r <;> trivial

end

/-- A fault that comes with no state, or a value beside a state in canonical form. -/
abbrev Reads {ε α : Type} (r : Except ε (α × State)) : Prop := Answers (fun _ => True) (fun x => x.2.Canonical) r

/-- A fault with a state, or a value beside a state, in canonical form. -/
abbrev Tries {α : Type} (r : Except Failed (α × State)) : Prop := Answers (fun f => f.2.2.Canonical) (fun x => x.2.Canonical) r

/-- The next state that a step answers is in canonical form. -/
def Kept : Result → Prop
  | .next t => t.Canonical
  | _ => True

theorem Kept.next {r : Result} {t : State} (h : Kept r) (e : r = .next t) : t.Canonical := by rw [e] at h; exact h

/-- An event answers the state that comes about. -/
theorem Kept.event {row : String} {o : Option State} (h : Given State.Canonical o) : Kept (Machine.event row o) := by
  cases o with
  | none => trivial
  | some t => exact h

/-- The state that a meaning leaves is in canonical form. -/
def Body.Canonical : Body → Prop
  | .ok t => t.Canonical
  | .failed _ t => t.Canonical
  | _ => True

/-- The state from which a meaning acts, or that stands instead of it, is in canonical form. -/
def Front.Canonical : Front → Prop
  | .other t => t.Canonical
  | .run _ t => t.Canonical
  | _ => True

/-- The state that a fetch leaves is in canonical form. -/
def Fetched.Canonical : Fetched → Prop
  | .nothing => True
  | .trapped t => t.Canonical
  | .instr _ t => t.Canonical

/-- The state that a home's answer leaves is in canonical form. -/
def HomeTurn.Canonical : HomeTurn → Prop
  | .held => True
  | .full t => t.Canonical
  | .go t => t.Canonical

theorem HomeTurn.Canonical.go {r : HomeTurn} {t : State} (h : r.Canonical) (e : r = .go t) : t.Canonical := by rw [e] at h; exact h

theorem HomeTurn.Canonical.full {r : HomeTurn} {t : State} (h : r.Canonical) (e : r = .full t) : t.Canonical := by rw [e] at h; exact h

/-! ### Searches and outcomes -/

/-- What a list's members lead to has a property, so the first that comes to something has. -/
theorem Given.findSome {α β : Type} {q : β → Prop} {f : α → Option β} (hf : ∀ x, Given q (f x)) (l : List α) : Given q (l.findSome? f) :=
  Given.of fun y hy => by
    obtain ⟨x, -, hx⟩ := List.exists_of_findSome?_eq_some hy
    exact (hf x).some hx

theorem Given.orElse {β : Type} {q : β → Prop} {a : Option β} {b : Unit → Option β} (ha : Given q a) (hb : Given q (b ())) : Given q (a.orElse b) := by
  cases a with
  | none => exact hb
  | some x => exact ha

theorem Kept.goesOn {r : Result} (hr : Kept r) : Given State.Canonical (Machine.goesOn r) := by
  cases r with
  | next t => exact hr
  | fault f => trivial
  | refused f => trivial

/-! ### Stores with their keys moved -/

/-- A store whose keys are moved without a change of their order. -/
theorem SMap.wf_mapKey {w : Nat} {m : SMap w} (h : m.wf = true) {f : Nat → Nat} (hf : ∀ a ∈ m, ∀ b ∈ m, a.1 < b.1 → f a.1 < f b.1) :
    SMap.wf (m.map fun c => (f c.1, c.2)) = true := by
  obtain ⟨hrising, hnz⟩ := (SMap.wf_iff m).mp h
  refine (SMap.wf_iff _).mpr ⟨?_, ?_⟩
  · rw [List.pairwise_map]
    exact hrising.imp_of_mem fun ha hb hab => hf _ ha _ hb hab
  · intro e he
    obtain ⟨c, hc, rfl⟩ := List.mem_map.mp he
    exact hnz c hc

theorem copyOut_wf {m : Memory} (h : m.wf = true) (dest : Nat) (pages : Option (List Nat)) : Memory.wf (copyOut m dest pages) = true := by
  unfold copyOut
  cases pages with
  | some ps => exact List.foldlRecOn (motive := fun x : Memory => x.wf = true) ps _ h fun x hx p _ => SMap.wf_setRange hx _ _
  | none =>
    have hdevice : SMap.wf ((m.filter fun c => c.1 < 2 ^ 39).map fun c => (dest + c.1, c.2)) = true :=
      SMap.wf_mapKey (SMap.wf_filter h _) fun a _ b _ hab => Nat.add_lt_add_left hab dest
    refine SMap.wf_append (SMap.wf_append (SMap.wf_filter h _) hdevice ?_) (SMap.wf_filter h _) ?_
    · intro a ha b hb
      obtain ⟨c, -, rfl⟩ := List.mem_map.mp hb
      have hlow : a.1 < dest := of_decide_eq_true (List.mem_filter.mp ha).2
      exact Nat.lt_of_lt_of_le hlow (Nat.le_add_right ..)
    · intro a ha b hb
      have hhigh : dest + 2 ^ 39 ≤ b.1 := of_decide_eq_true (List.mem_filter.mp hb).2
      rcases List.mem_append.mp ha with ha | ha
      · have hlow : a.1 < dest := of_decide_eq_true (List.mem_filter.mp ha).2
        omega
      · obtain ⟨c, hc, rfl⟩ := List.mem_map.mp ha
        have hc : c.1 < 2 ^ 39 := of_decide_eq_true (List.mem_filter.mp hc).2
        omega

theorem copyBack_wf {m : Memory} (h : m.wf = true) (dest : Nat) : Memory.wf (copyBack m dest) = true := by
  unfold copyBack
  have hrange (c : Nat × Byte) (hc : c ∈ m.filter fun c => dest ≤ c.1 && c.1 < dest + 2 ^ 39) : dest ≤ c.1 ∧ c.1 < dest + 2 ^ 39 := by
    simpa using (List.mem_filter.mp hc).2
  refine SMap.wf_append (SMap.wf_mapKey (f := fun k => k - dest) (SMap.wf_filter h _) fun a ha b hb hab => ?_) (SMap.wf_filter h _) ?_
  · have := (hrange a ha).1
    omega
  · intro a ha b hb
    obtain ⟨c, hc, rfl⟩ := List.mem_map.mp ha
    have hhigh : 2 ^ 39 ≤ b.1 := of_decide_eq_true (List.mem_filter.mp hb).2
    have := hrange c hc
    dsimp only
    omega

/-! ### States in canonical form -/

/-- What a read answers beside the address and the state at which it was made. -/
theorem Answers.atVa {α : Type} {r : Except Flt (α × State)} {s : State} {va : Nat} (h : Reads r) (hs : s.Canonical) : Tries (Machine.atVa va s r) := by
  cases r with
  | error f => exact hs
  | ok x => exact h

namespace State.Canonical
variable {s t : State}

/-- Only memory counts. -/
theorem congr (h : s.Canonical) (e : t.mem = s.mem) : t.Canonical := by unfold State.Canonical; rw [e]; exact h

/-- A state that stands beside a value. -/
theorem beside {α : Type} {x : α} {r : α × State} (h : r.2.Canonical) (e : r = (x, t)) : t.Canonical := by rw [e] at h; exact h

/-- A state that stands beside two values. -/
theorem beside2 {α β : Type} {x : α} {y : β} {r : α × β × State} (h : r.2.2.Canonical) (e : r = (x, y, t)) : t.Canonical := by rw [e] at h; exact h

/-- A state that stands beside three values. -/
theorem beside3 {α β γ : Type} {x : α} {y : β} {z : γ} {r : α × β × γ × State} (h : r.2.2.2.Canonical) (e : r = (x, y, z, t)) : t.Canonical := by rw [e] at h; exact h

theorem ite {c : Prop} [Decidable c] (hs : s.Canonical) (ht : t.Canonical) : (if c then s else t).Canonical := by split <;> assumption

/-- One of two states that stand beside a value. -/
theorem iteBeside {α : Type} {c : Prop} [Decidable c] {x y : α × State} (hx : x.2.Canonical) (hy : y.2.Canonical) : (if c then x else y).2.Canonical := by split <;> assumption

/-- One of two states that stand beside two values. -/
theorem iteBeside2 {α β : Type} {c : Prop} [Decidable c] {x y : α × β × State} (hx : x.2.2.Canonical) (hy : y.2.2.Canonical) : (if c then x else y).2.2.Canonical := by
  split <;> assumption

/-- Steps each of which keeps the form keep it together. -/
theorem foldl {β : Type} {f : State → β → State} (h : s.Canonical) (hf : ∀ t b, t.Canonical → (f t b).Canonical) (l : List β) : (l.foldl f s).Canonical :=
  List.foldlRecOn l f h fun t ht b _ => hf t b ht

/-- The same of states that stand beside a value. -/
theorem foldlBeside {α β : Type} {r : α × State} {f : α × State → β → α × State} (h : r.2.Canonical) (hf : ∀ x b, x.2.Canonical → (f x b).2.Canonical) (l : List β) :
    (l.foldl f r).2.Canonical := List.foldlRecOn (motive := fun x => x.2.Canonical) l f h fun x hx b _ => hf x b hx

theorem putBytes (h : s.Canonical) (pa : Nat) (bs : List Byte) : (s.putBytes pa bs).Canonical := SMap.wf_setRange h _ _

end State.Canonical

end Sys2Proof.Machine
end

section
/-! PROOFS. The operations of Machine/Regs keep the canonical form (O7). -/

namespace Sys2Proof.Machine

namespace State.Canonical
variable {s t : State}

theorem modWave (h : s.Canonical) (id : Nat) (f : Wave → Wave) : (s.modWave id f).Canonical := h.congr rfl

theorem modGang (h : s.Canonical) (id : Nat) (f : Gang → Gang) : (s.modGang id f).Canonical := h.congr rfl

theorem modGrid (h : s.Canonical) (id : Nat) (f : Grid → Grid) : (s.modGrid id f).Canonical := h.congr rfl

theorem modCtx (h : s.Canonical) (asid : Nat) (f : Context → Context) : (s.modCtx asid f).Canonical := h.congr rfl

theorem modFlight (h : s.Canonical) (id : Nat) (f : Access → Access) : (s.modFlight id f).Canonical := h.congr rfl

theorem newId (h : s.Canonical) : s.newId.2.Canonical := h.congr rfl

theorem modCaches (h : s.Canonical) (f : Caches → Caches) : (s.modCaches f).Canonical := h.congr rfl

theorem modEng (h : s.Canonical) (f : Engines → Engines) : (s.modEng f).Canonical := h.congr rfl

theorem modHost (h : s.Canonical) (f : HostQueues → HostQueues) : (s.modHost f).Canonical := h.congr rfl

theorem modKiln (h : s.Canonical) (f : Kiln → Kiln) : (s.modKiln f).Canonical := h.congr rfl

theorem modMatrix (h : s.Canonical) (f : Matrix → Matrix) : (s.modMatrix f).Canonical := h.modEng ..

end State.Canonical

end Sys2Proof.Machine
end

section
/-! PROOFS. The operations of Machine/Memory keep the canonical form (O7). -/

namespace Sys2Proof.Machine

namespace State.Canonical
variable {s t : State}

theorem putNat (h : s.Canonical) (pa n x : Nat) : (s.putNat pa n x).Canonical := h.putBytes ..

theorem markAccessed (h : s.Canonical) (t : Trans) : (s.markAccessed t).Canonical := h.ite (h.putNat ..)

theorem writeEvent (h : s.Canonical) (e : Event) : (s.writeEvent e).Canonical := by
  unfold State.writeEvent
  cases e.fault with
  | none => exact ((h.putNat ..).putNat ..).modHost ..
  | some f => exact (((((h.putBytes ..).modCtx ..).modHost ..).putNat ..).putNat ..).modHost ..

theorem postEvent (h : s.Canonical) (e : Event) : (s.postEvent e).Canonical := (h.writeEvent ..).ite (h.modHost ..)

theorem postSimple (h : s.Canonical) (type asid data : Nat) : (s.postSimple type asid data).Canonical := h.postEvent ..

theorem logEvent (h : s.Canonical) (code asid arg0 arg1 arg2 : Nat) : (s.logEvent code asid arg0 arg1 arg2).Canonical := by
  unfold State.logEvent
  extract_lets _
  split
  · exact (h.modHost ..).ite ((h.postSimple ..).modHost ..)
  · exact (h.postSimple ..).modHost ..

theorem tlbInsert (h : s.Canonical) (quad asid va : Nat) (t : Trans) (run : Bool) : (s.tlbInsert quad asid va t run).Canonical := by
  unfold State.tlbInsert
  extract_lets _ _
  exact h.modCaches ..

theorem meetPoison (h : s.Canonical) (asid line : Nat) : (s.meetPoison asid line).Canonical := (h.postSimple ..).modKiln ..

theorem noteWalk (h : s.Canonical) (asid va : Nat) : (s.noteWalk asid va).Canonical := h.ite (h.foldl (fun _ _ ht => ht.meetPoison ..) _)

theorem walked (h : s.Canonical) (asid va : Nat) (need : Need) (priv : Bool) : (s.walked asid va need priv).2.Canonical := by
  unfold State.walked
  split
  · exact h.noteWalk ..
  · exact (h.noteWalk ..).markAccessed ..

theorem translate (h : s.Canonical) (quad asid va : Nat) (need : Need) (priv : Bool) (how : Nat) : (s.translate quad asid va need priv how).2.Canonical := by
  unfold State.translate
  split
  · exact h
  · split
    · exact h
    · split
      next e1 => exact (h.walked ..).beside e1
      next e1 => exact ((h.walked ..).beside e1).tlbInsert ..

theorem through (h : s.Canonical) (core : Option Nat) (asid va : Nat) (need : Need) (priv : Bool) : (s.through core asid va need priv).2.Canonical := by
  unfold State.through
  split
  · exact h.translate ..
  · exact h.walked ..

theorem notePin (h : s.Canonical) (asid pa leaf : Nat) : (s.notePin asid pa leaf).Canonical := (h.logEvent ..).ite ((h.logEvent ..).ite h)

theorem freeBytes (h : s.Canonical) (n : Nat) : (s.freeBytes n).2.Canonical := h.congr rfl

theorem readHome (h : s.Canonical) (asid pa leaf n : Nat) : (s.readHome asid pa leaf n).2.Canonical := by
  unfold State.readHome
  extract_lets s1
  have hs1 : s1.Canonical := h.notePin ..
  split
  · exact (hs1.meetPoison ..).freeBytes ..
  · exact iteBeside (hs1.freeBytes ..) hs1

theorem setDirty (h : s.Canonical) (side page : Nat) : (s.setDirty side page).Canonical := h.ite (h.putNat ..)

theorem writeBack (h : s.Canonical) (d : DirtyLine) : (s.writeBack d).Canonical := (h.foldl (fun _ _ ht => ht.setDirty ..) _).modCaches ..

theorem sliceRoom (h : s.Canonical) (slice : Nat) : (s.sliceRoom slice).Canonical := by
  unfold State.sliceRoom
  extract_lets _
  refine h.foldl (fun t b ht => ?_) _
  exact ht.writeBack ..

theorem noteDirty (h : s.Canonical) (asid va pa leaf side : Nat) : (s.noteDirty asid va pa leaf side).Canonical := by
  unfold State.noteDirty
  extract_lets _ _ _ s1
  have hs1 : s1.Canonical := (h.setDirty ..).ite h
  exact hs1.ite ((hs1.modCaches ..).sliceRoom ..)

theorem storeHome (h : s.Canonical) (asid va pa leaf side : Nat) (bs : List Byte) : (s.storeHome asid va pa leaf side bs).Canonical := ((h.putBytes ..).noteDirty ..).modCaches ..

theorem writeHome (h : s.Canonical) (asid va pa leaf side : Nat) (bs : List Byte) : (s.writeHome asid va pa leaf side bs).Canonical := (h.notePin ..).storeHome ..

theorem invalidateL1 (h : s.Canonical) (core : Nat) : (s.invalidateL1 core).Canonical := by
  unfold State.invalidateL1
  extract_lets src
  have hsrc : src.Canonical := h.modCaches ..
  exact hsrc.congr rfl

theorem homeRead (h : s.Canonical) (core : Option Nat) (asid va n : Nat) (need : Need) (priv : Bool) : Reads (s.homeRead core asid va n need priv) := by
  unfold State.homeRead
  refine Answers.foldl (show Reads (.ok ([], s)) from h) (fun acc p ha => Answers.bind ha ?_) _
  rintro ⟨bs, s1⟩ h1
  dsimp only at h1 ⊢
  split
  · trivial
  next e => exact ((h1.through ..).beside e).readHome ..

theorem ctxRead (h : s.Canonical) (asid va n : Nat) (need : Need) (priv : Bool) : Reads (s.ctxRead asid va n need priv) := h.homeRead ..

theorem ctxWrite (h : s.Canonical) (asid va : Nat) (bs : List Byte) (need : Need) (priv : Bool) (core : Option Nat) :
    Answers (fun _ => True) State.Canonical (s.ctxWrite asid va bs need priv core) := by
  unfold State.ctxWrite
  split
  · trivial
  · refine State.Canonical.foldl h (fun t p ht => ?_) _
    split
    · exact ht
    next e =>
      have h2 := ((ht.through core asid p.1 need priv).beside e).writeHome
      extract_lets b s3
      split
      · exact (h2 ..).modCaches ..
      · exact h2 ..

theorem ctxNat (h : s.Canonical) (asid va n : Nat) (need : Need) (priv : Bool) : Reads (s.ctxNat asid va n need priv) := (h.ctxRead ..).map fun _ h => h

theorem noteLook (h : s.Canonical) (asid : Nat) (l : Look) : (s.noteLook asid l).2.Canonical := by
  unfold State.noteLook
  refine foldlBeside h (fun acc p ha => ?_) _
  split
  · exact ha
  · split
    next e => exact (ha.through ..).beside e
    next e =>
      have h1 := (ha.through ..).beside e
      exact h1.ite (h1.readHome ..)

theorem noteReads (h : s.Canonical) (asid : Nat) (l : List Look) : (s.noteReads asid l).Canonical := by
  unfold State.noteReads
  refine foldlBeside h (fun acc x ha => ?_) _
  split
  · exact ha.noteLook ..
  · exact ha

theorem kilnRead (h : s.Canonical) (asid pa n : Nat) : (s.kilnRead asid pa n).2.Canonical := by
  unfold State.kilnRead
  split
  · exact (h.meetPoison ..).freeBytes ..
  · exact h

end State.Canonical

end Sys2Proof.Machine
end

section
/-! PROOFS. The operations of Machine/Owners keep the canonical form (O7). -/

namespace Sys2Proof.Machine

namespace State.Canonical
variable {s t : State}

theorem stage (h : s.Canonical) (gang va : Nat) (bs : List Byte) (lti : Nat) : (s.stage gang va bs lti).Canonical := h.modGang ..

theorem keepBefore (h : s.Canonical) (gang va pa n : Nat) : (s.keepBefore gang va pa n).Canonical := by
  unfold State.keepBefore
  split
  · exact h
  · split
    · exact h
    · split
      · exact h
      · extract_lets _
        exact h.modGang ..

theorem useOrder (h : s.Canonical) (asid idx : Nat) : (s.useOrder asid idx).Canonical := by
  unfold State.useOrder
  extract_lets _ _ _
  exact (h.modCaches ..).modCtx ..

theorem orderTurn (h : s.Canonical) (asid line lw time : Nat) (det : Bool) : (s.orderTurn asid line lw time det).Canonical := by
  unfold State.orderTurn
  extract_lets c me noted at_ s1
  split
  · exact (h.modCaches ..).ite h
  split
  · exact h
  split
  · split
    · trivial
    · split
      · exact (h.useOrder ..).modCaches ..
      · trivial
  split
  · exact h
  split
  · exact h.logEvent ..
  · have hs1 : s1.Canonical := by
      unfold s1
      split
      next e => exact (h.ctxWrite ..).ok e
      · exact h
    exact (hs1.modCtx ..).modCaches ..

end State.Canonical

end Sys2Proof.Machine
end

section
/-! PROOFS. The operations of Machine/Lod keep the canonical form (O7). -/

namespace Sys2Proof.Machine

namespace State.Canonical
variable {s t : State}

theorem keeps (h : s.Canonical) : s.keeps.2.Canonical := h.congr rfl

theorem lineHome (h : s.Canonical) (asid pa leaf : Nat) : (s.lineHome asid pa leaf).2.Canonical := by
  unfold State.lineHome
  split
  next e => exact (h.readHome ..).beside e

theorem readTurn (h : s.Canonical) (who : Option Reader) (asid pa : Nat) : Answers (fun _ => True) State.Canonical (s.readTurn who asid pa) := by
  unfold State.readTurn
  split
  · exact h
  · trivial
  · trivial
  next e =>
    obtain ⟨r, -, hr⟩ := Option.bind_eq_some_iff.mp e
    obtain ⟨k, -, e⟩ := Option.map_eq_some_iff.mp hr
    exact (h.orderTurn ..).go e

theorem l1Read (h : s.Canonical) (core asid va n : Nat) (priv always node noFill : Bool) (who : Option Reader) :
    Reads (s.l1Read core asid va n priv always node noFill who) := by
  unfold State.l1Read
  split
  · trivial
  extract_lets det hit tr
  have htr : Given (fun x => x.2.Canonical) tr := by
    unfold tr
    split
    exacts [h.translate .., trivial]
  clear_value hit tr
  match tr, hit, htr with
  | none, some l, _ => exact h
  | some (.error f, _), none, _ | some (.error f, _), some l, _ => trivial
  | some (.ok _, s1), some l, h1 => exact h1
  | some (.ok t, s1), none, h1 =>
    dsimp only
    split
    · trivial
    split
    · trivial
    next e =>
      have h2 := (State.Canonical.readTurn h1 ..).ok e
      exact ((h2.lineHome ..).modCaches ..).ite (h2.lineHome ..)
  | none, none, _ => trivial

theorem nodeRead (h : s.Canonical) (core asid va : Nat) (priv : Bool) (who : Option Reader) : Tries (s.nodeRead core asid va priv who) := by
  unfold State.nodeRead
  split
  · exact h
  split
  · exact h
  extract_lets read
  have hread (x : State) (hx : x.Canonical) : Tries (read x) := by
    refine Answers.bind ((hx.l1Read ..).atVa hx) fun r hr => ?_
    exact hr.modCaches ..
  split
  · split
    · exact hread s h
    · split
      next e =>
        have h1 := h.keeps.beside e
        split
        exacts [h1, hread _ h1]
  · exact hread s h

theorem resource (h : s.Canonical) (gr : Grid) (core idx : Nat) (priv : Bool) : Tries (s.resource gr core idx priv) := by
  unfold State.resource
  extract_lets _
  split
  · exact h
  · refine ((h.l1Read ..).atVa h).bind ?_
    rintro ⟨x, u⟩ hu
    dsimp only at hu ⊢
    split
    · exact hu
    · exact hu

theorem blockTexel (h : s.Canonical) (core asid : Nat) (e : Entry) (x y l : Nat) (priv always : Bool) (who : Option Reader) :
    Tries (s.blockTexel core asid e x y l priv always who) := by
  unfold State.blockTexel
  extract_lets ofs va det line off hit
  split
  · exact h
  have htr : Given (fun x => x.2.Canonical) (if (always || hit.isNone) = true then some (s.translate (quadOf core) asid va needRead priv 0) else none) := by
    split
    exacts [h.translate .., trivial]
  generalize (if (always || hit.isNone) = true then some (s.translate (quadOf core) asid va needRead priv 0) else none) = tr at htr ⊢
  clear_value hit
  match tr, hit, htr with
  | none, some c, _ => exact h
  | some (.error f, _), none, _ | some (.error f, _), some c, _ => exact h
  | some (.ok _, s1), some c, h1 => exact h1
  | some (.ok t, s1), none, h1 =>
    dsimp only
    split
    · exact h1
    split
    · exact h1
    next e =>
      have h2 := (State.Canonical.readTurn h1 ..).ok e
      exact ((h2.readHome ..).modCaches ..).ite (h2.readHome ..)
  | none, none, _ => exact h

theorem texelRead (h : s.Canonical) (core asid : Nat) (e : Entry) (x y l n : Nat) (priv always buffered : Bool) (who : Option Reader) :
    Tries (s.texelRead core asid e x y l n priv always buffered who) := by
  unfold State.texelRead
  split
  · exact (h.blockTexel ..).map fun _ hr => hr
  extract_lets va fill
  split
  · exact h
  have hfill (z : State) (hz : z.Canonical) : Tries (fill z) := by
    refine Answers.bind ((hz.l1Read ..).atVa hz) ?_
    rintro ⟨bs, z1⟩ h1
    dsimp only at h1 ⊢
    split
    · split
      exacts [h1.modCaches .., h1]
    · exact h1
  split
  · split
    · exact hfill s h
    · split
      next e1 =>
        have h1 := h.keeps.beside e1
        split
        exacts [h1, hfill _ h1]
  · exact hfill s h

theorem conePush (h : s.Canonical) (core asid res level page kind group : Nat) : (s.conePush core asid res level page kind group).Canonical := by
  unfold State.conePush
  extract_lets _ _
  exact h.congr rfl

theorem pushedBy (h : s.Canonical) (start origin lane : Nat) : (s.pushedBy start origin lane).Canonical := h.modEng ..

theorem filterPush (h : s.Canonical) (p : Push) : (s.filterPush p).Canonical := by
  unfold State.filterPush
  split
  · exact h.modEng ..
  · extract_lets _ _
    exact (h.modCaches ..).modEng ..

theorem settlePushes (h : s.Canonical) : s.settlePushes.Canonical := h.foldl (fun _ _ ht => ht.foldl (fun _ _ ht1 => ht1.ite (ht1.filterPush ..)) _) _

theorem mapByteAs (h : s.Canonical) (sees : State → List Byte → List Byte) (core asid : Nat) (e : Entry) (g : Nat) (priv : Bool) (who : Option Reader) :
    Tries (s.mapByteAs sees core asid e g priv who) := by
  unfold State.mapByteAs
  extract_lets _
  split
  · exact h
  · split
    next e2 => exact (h.translate ..).beside e2
    next e2 =>
      split
      · exact (h.translate ..).beside e2
      · split
        · exact (h.translate ..).beside e2
        next e3 =>
          split
          next e4 => exact (((((h.translate ..).beside e2).readTurn ..).ok e3).readHome ..).beside e4

theorem mapByte (h : s.Canonical) (core asid : Nat) (e : Entry) (g : Nat) (priv : Bool) (who : Option Reader) : Tries (s.mapByte core asid e g priv who) := h.mapByteAs ..

theorem lodLoop {read : State → Nat → Except Failed (List Byte × State)} (hread : ∀ z m, z.Canonical → Tries (read z m)) (core asid : Nat) (e : Entry) (g : Nat)
    (priv : Bool) (who : Option Reader) (fuel m : Nat) (h : s.Canonical) :
    Answers (fun f => f.2.2.Canonical) (fun x => x.2.2.Canonical) (lodLoop core asid e g priv who read fuel m s) := by
  induction fuel generalizing m s with
  | zero => exact h
  | succ fuel ih =>
    unfold Machine.lodLoop
    split
    next e1 => exact (hread s m h).ok e1
    next f e1 =>
      have hf := (hread s m h).error e1
      split
      · refine Answers.bind (hf.mapByte ..) fun x hx => ?_
        exact ih _ hx
      · exact hf

theorem lodRead (h : s.Canonical) {read : State → Nat → Except Failed (List Byte × State)} (hread : ∀ z m, z.Canonical → Tries (read z m)) (core asid : Nat) (e : Entry)
    (l last g ofs : Nat) (priv : Bool) (who : Option Reader) : Tries (s.lodRead core asid e l last g ofs priv read who) := by
  unfold State.lodRead
  extract_lets l1
  split
  · refine Answers.bind (hread s l1 h) ?_
    rintro ⟨bs, u⟩ hu
    exact hu
  · refine Answers.bind (h.mapByte ..) ?_
    rintro ⟨b, u⟩ hu
    refine Answers.bind (lodLoop hread _ _ _ _ _ _ _ _ hu) ?_
    rintro ⟨bs, m, v⟩ hv
    exact hv

theorem lodTexel (h : s.Canonical) (core asid : Nat) (e : Entry) (x y l n : Nat) (priv buffered : Bool) (who : Option Reader) :
    Tries (s.lodTexel core asid e x y l n priv buffered who) := h.lodRead (fun _ _ hz => hz.texelRead ..) ..

theorem tensorBits (h : s.Canonical) (core asid : Nat) (e : Entry) (i : Nat) (priv : Bool) (who : Option Reader) (k : Nat) :
    Tries (s.tensorBits core asid e i priv who k) := by
  induction k with
  | zero => exact h
  | succ k ih =>
    refine Answers.bind ih ?_
    rintro ⟨v, s1⟩ h1
    refine Answers.bind ((State.Canonical.l1Read h1 ..).atVa h1) fun r hr => ?_
    exact hr

theorem lodElement (h : s.Canonical) (core asid : Nat) (e : Entry) (i l : Nat) (priv : Bool) (who : Option Reader) :
    Tries (s.lodElement core asid e i l priv who) := by
  unfold State.lodElement
  split
  · exact h
  · exact h.lodRead (fun z m hz => (hz.tensorBits core asid e i priv who (e.planes - m)).map fun _ hr => hr) ..

end State.Canonical

end Sys2Proof.Machine
end

section
/-! PROOFS. The operations of Machine/Nodes keep the canonical form (O7). -/

namespace Sys2Proof.Machine

namespace State.Canonical
variable {s t : State}

theorem lodNode (h : s.Canonical) (core asid : Nat) (e : Entry) (n c : Nat) (priv : Bool) (who : Option Reader) :
    Tries (s.lodNode core asid e n c priv who) := by
  unfold State.lodNode
  extract_lets none_
  split
  · exact h
  refine Answers.bind (h.nodeRead ..) ?_
  rintro ⟨p, s1⟩ h1
  dsimp only at h1 ⊢
  split
  · exact h1
  refine Answers.bind (h1.lodRead (fun z m hz => ?_) ..) ?_
  · split
    exacts [(hz.l1Read ..).atVa hz, hz]
  · rintro ⟨r, s2⟩ h2
    dsimp only at h2 ⊢
    split <;> exact h2

theorem ldlodLane (h : s.Canonical) (core asid : Nat) (e : Entry) (res size level : Nat) (x y : Word) (priv : Bool) (who : Option Reader) :
    Answers (fun f => f.2.2.Canonical) (fun x => x.2.2.Canonical) (s.ldlodLane core asid e res size level x y priv who) := by
  unfold State.ldlodLane
  split
  · exact h
  extract_lets n ends
  have hends (x : LodResult × State) (hx : x.2.Canonical) : Answers (fun f => f.2.2.Canonical) (fun x => x.2.2.Canonical) (ends x) := by
    have hpush : (match x.1.push with | some (l, page, g) => x.2.conePush core asid res l page 0 g | none => x.2).Canonical := by
      split
      exacts [hx.conePush .., hx]
    exact hpush
  split
  · exact Answers.bind (h.lodTexel ..) hends
  · exact Answers.bind (h.lodElement ..) hends
  · exact Answers.bind (h.lodNode ..) hends

end State.Canonical

end Sys2Proof.Machine
end

section
/-! PROOFS. The operations of Machine/Flights keep the canonical form (O7). -/

namespace Sys2Proof.Machine

namespace State.Canonical
variable {s t : State}

theorem lodRead? (h : s.Canonical) (a : Access) (w : Wave) (l : AccLane) : Answers (fun f => f.2.2.Canonical) (fun x => x.2.2.Canonical) (s.lodRead? a w l) := by
  unfold State.lodRead?
  split
  · extract_lets _ s0
    have hs0 : s0.Canonical := h.congr rfl
    split
    next e1 => exact ((hs0.ldlodLane ..).error e1).congr rfl
    next e1 => exact ((hs0.ldlodLane ..).ok e1).congr rfl
  · exact h

theorem park (h : s.Canonical) (wave : Nat) : (s.park wave).Canonical := by
  unfold State.park
  extract_lets _
  exact h.congr rfl

theorem storeHit (h : s.Canonical) (a : Access) (priv : Bool) (l : AccLane) (pa n : Nat) : (storeHit a priv s l pa n).2.Canonical := by
  unfold Machine.storeHit
  split
  · exact h
  · extract_lets _
    exact h.modCaches ..

theorem enterOrder (h : s.Canonical) (a : Access) (w : Wave) (l : AccLane) : (enterOrder a w s l).2.Canonical := by
  unfold Machine.enterOrder
  extract_lets _ s1
  have hs1 : s1.Canonical := h.congr rfl
  split
  · exact h
  · split
    · exact hs1.storeHit ..
    · exact hs1

theorem translateLane (h : s.Canonical) (a : Access) (w : Wave) (how : Nat) (l : AccLane) : (translateLane a w how s l).2.Canonical := by
  unfold Machine.translateLane
  extract_lets _
  split
  · split
    next e1 => exact iteBeside h ((h.lodRead? ..).error e1)
    · exact h
  · split
    · exact h
    · split
      · exact h
      · split
        next e1 => exact (h.translate ..).beside e1
        next e1 => exact ((h.translate ..).beside e1).enterOrder ..

theorem translateLanes (h : s.Canonical) (a : Access) (w : Wave) (lanes : Lanes) (how : Nat) (ls : List AccLane) : (translateLanes a w lanes how s ls).2.Canonical := by
  induction ls generalizing s with
  | nil => exact h
  | cons l ls ih =>
    unfold Machine.translateLanes
    dsimp only
    refine ih ?_
    rw [apply_ite Prod.snd]
    refine h.ite ?_
    split
    exacts [h.translateLane .., h.enterOrder .., h]

theorem report (h : s.Canonical) (a : Access) (lanes : Lanes) (how : Nat) : (s.report a lanes how).Canonical := by
  unfold State.report
  split
  · exact h
  · have h1 := h.translateLanes a
    exact ((h1 ..).ite ((h1 ..).modWave ..)).modFlight ..

theorem accept (h : s.Canonical) (core : Nat) (ids : List Nat) : (s.accept core ids).Canonical := by
  unfold State.accept
  extract_lets _ _
  exact h.congr rfl

theorem acceptAll (h : s.Canonical) (wave core scope : Nat) : (s.acceptAll wave core scope).Canonical := (h.accept ..).ite h

theorem settleFences (h : s.Canonical) : s.settleFences.Canonical := by
  unfold State.settleFences
  refine h.foldl (fun t b ht => ?_) _
  split
  · split
    · extract_lets t1
      have ht1 : t1.Canonical := ht.congr rfl
      exact (ht1.accept ..).ite ht1
    · exact ht
  · exact ht

theorem settleAcquires (h : s.Canonical) : s.settleAcquires.Canonical := by
  unfold State.settleAcquires
  refine h.foldl (fun t b ht => ?_) _
  split
  · exact ht
  · split
    · extract_lets t1
      have ht1 : t1.Canonical := ht.congr rfl
      split
      · exact (ht1.invalidateL1 ..).ite ht1
      · exact ht1
    · exact ht

theorem finishAccess (h : s.Canonical) (id : Nat) : (s.finishAccess id).Canonical := by
  unfold State.finishAccess
  extract_lets s1
  have hs1 : s1.Canonical := by
    unfold s1
    split
    · exact h
    · exact ((h.modWave ..).modFlight ..).ite h
  exact hs1.settleAcquires.settleFences

end State.Canonical

end Sys2Proof.Machine
end

section
/-! PROOFS. The operations of Machine/Ops keep the canonical form (O7). -/

namespace Sys2Proof.Machine

namespace State.Canonical
variable {s t : State}

theorem modWaves (h : s.Canonical) (ids : List Nat) (f : Wave → Wave) : (s.modWaves ids f).Canonical := h.congr rfl

theorem memberEnded (h : s.Canonical) (w : Wave) : (s.memberEnded w).Canonical := by
  unfold State.memberEnded
  extract_lets _ s1 _ _ _ _ s2
  have hs1 : s1.Canonical := h.modWaves ..
  have hs2 : s2.Canonical := hs1.modWaves ..
  exact hs1.ite (hs2.modMatrix ..)

theorem mergeStaging (h : s.Canonical) (gang : Nat) : (s.mergeStaging gang).Canonical := by
  unfold State.mergeStaging
  split
  · exact h
  · split
    · exact h
    · split
      · exact h
      · extract_lets _ s1
        have hs1 : s1.Canonical := by
          unfold s1
          refine h.foldl (fun t b ht => ?_) _
          split
          next e2 => exact ((((ht.through ..).beside e2).notePin ..).ite ((ht.through ..).beside e2)).storeHome ..
          next e2 => exact (((ht.through ..).beside e2).logEvent ..).ite ((ht.through ..).beside e2)
        exact hs1.modGang ..

theorem releaseWaves (h : s.Canonical) (ws : List Wave) (scope now : Nat) : (s.releaseWaves ws scope now).Canonical := by
  unfold State.releaseWaves
  extract_lets _ s1 _ s2
  have hs1 : s1.Canonical := (h.foldl (fun _ _ ht => ht.mergeStaging ..) _).ite h
  have hs2 : s2.Canonical := hs1.modWaves ..
  exact (hs2.foldl (fun _ _ ht => ht.invalidateL1 ..) _).ite hs2

theorem tryRelease (h : s.Canonical) (w : Wave) : (s.tryRelease w).Canonical := by
  unfold State.tryRelease
  extract_lets _ _ _ _ s1
  have hs1 : s1.Canonical := h.releaseWaves ..
  split
  · exact (h.releaseWaves ..).ite h
  · split
    · split
      · split
        · exact hs1.modGrid ..
        · exact hs1
      · exact hs1
    · exact h
  · exact h

theorem releaseBarriers (h : s.Canonical) : s.releaseBarriers.Canonical := by
  unfold State.releaseBarriers
  refine h.foldl (fun t b ht => ?_) _
  split
  · exact (ht.tryRelease ..).ite ht
  · exact ht

theorem gangEnded (h : s.Canonical) (gang : Nat) : (s.gangEnded gang).Canonical := by
  unfold State.gangEnded
  extract_lets s1 _ _
  have hs1 : s1.Canonical := h.mergeStaging ..
  exact hs1.congr rfl

theorem dropLogged (h : s.Canonical) (p : Access → Bool) : (s.dropLogged p).Canonical := h.foldl (fun _ _ ht => (ht.modFlight ..).finishAccess ..) _

theorem sweepGang (h : s.Canonical) (gang : Nat) : (s.sweepGang gang).Canonical := by
  unfold State.sweepGang
  extract_lets _
  exact (h.gangEnded ..).ite h

theorem endLanes (h : s.Canonical) (id : Nat) (lanes : Lanes) : (s.endLanes id lanes).Canonical := by
  unfold State.endLanes
  extract_lets s1
  have hs1 : s1.Canonical := h.modWave ..
  split
  · exact hs1
  · split
    · exact hs1
    · extract_lets s2
      have hs2 : s2.Canonical := (((hs1.modWave ..).dropLogged ..).park ..).memberEnded ..
      exact hs2.releaseBarriers.sweepGang ..

theorem putWords (h : s.Canonical) (wave lane d : Nat) (ws : List Word) : (s.putWords wave lane d ws).Canonical := h.modWave ..

theorem discardQuery (h : s.Canonical) (q : Query) : (s.discardQuery q).Canonical := ((h.modEng ..).foldl (fun _ _ ht => ht.putWords ..) _).modWave ..

theorem discardQueries (h : s.Canonical) (asid : Nat) : (s.discardQueries asid).Canonical := by
  unfold State.discardQueries
  extract_lets _ s1
  have hs1 : s1.Canonical := by
    unfold s1
    refine State.Canonical.settleFences ?_
    refine State.Canonical.settleAcquires ?_
    refine State.Canonical.settlePushes ?_
    refine h.foldl (fun t b ht => ?_) _
    exact ht.discardQuery ..
  refine hs1.foldl (fun t b ht => ?_) _
  split
  · exact ht.sweepGang ..
  · exact ht

theorem endWorkgroup (h : s.Canonical) (asid gang wg : Nat) : (s.endWorkgroup asid gang wg).Canonical := by
  unfold State.endWorkgroup
  extract_lets _ s1
  have hs1 : s1.Canonical := (h.dropLogged ..).discardQueries ..
  exact hs1.foldl (fun _ _ ht => ht.endLanes ..) _

theorem recordBytes (h : s.Canonical) (asid rec : Nat) : (s.recordBytes asid rec).2.Canonical := by
  unfold State.recordBytes
  split
  next e => exact (h.ctxRead ..).ok e
  · exact h

theorem faultEvent (h : s.Canonical) (asid : Nat) (record nested : List Byte) : (s.faultEvent asid record nested).Canonical := by
  unfold State.faultEvent
  extract_lets _
  exact h.postEvent ..

theorem wakePresent (h : s.Canonical) (gang : Nat) : (s.wakePresent gang).Canonical := h.congr rfl

theorem stopLeaving (h : s.Canonical) (gang : Nat) : (s.stopLeaving gang).Canonical := (h.modGang ..).wakePresent ..

theorem takeLogged (h : s.Canonical) (wave : Nat) : (s.takeLogged wave).Canonical := by
  unfold State.takeLogged
  refine State.Canonical.park ?_ ..
  exact h.congr rfl

theorem trapEntry (h : s.Canonical) (w : Wave) (t : TrapInfo) : (s.trapEntry w t).Canonical := by
  unfold State.trapEntry
  extract_lets s1 asid rec_ written
  have hs : s1.Canonical := State.Canonical.ite (h.modWave ..) h
  split
  · exact ((hs.recordBytes ..).faultEvent ..).endWorkgroup ..
  have hw : Answers (fun _ => True) State.Canonical written :=
    Answers.foldl (show Answers (fun _ => True) State.Canonical (.ok s1) from hs) (fun _ _ ha => Answers.bind ha fun _ hx => hx.ctxWrite ..) _
  clear_value written
  cases written with
  | error f => exact (hs.faultEvent ..).endWorkgroup ..
  | ok t1 =>
    have h1 : t1.Canonical := hw
    dsimp only
    split
    · exact (h1.faultEvent ..).endWorkgroup ..
    next e1 =>
      have h2 := (h1.ctxNat ..).ok e1
      split
      · exact ((State.Canonical.recordBytes h2 ..).faultEvent ..).endWorkgroup ..
      · exact ((State.Canonical.modWave h2 ..).stopLeaving ..).takeLogged ..

theorem reportAll (h : s.Canonical) (wave : Nat) : (s.reportAll wave).Canonical := by
  unfold State.reportAll
  refine h.foldl (fun t b ht => ?_) _
  split
  · exact ht
  · exact ht.report ..

theorem preciseTrap (h : s.Canonical) (id : Nat) (lanes : Lanes) (t : TrapInfo) (issued : Bool) : (s.preciseTrap id lanes t issued).Canonical := by
  unfold State.preciseTrap
  extract_lets s1
  have hs1 : s1.Canonical := h.modWave ..
  split
  · exact hs1
  · split
    · exact hs1.trapEntry ..
    · exact ((hs1.modWave ..).ite hs1).trapEntry ..

theorem coreRead (h : s.Canonical) (core asid va n : Nat) (priv : Bool) : Reads (s.coreRead core asid va n priv) := by
  unfold State.coreRead
  refine Answers.foldl ?_ (fun acc b ha => ?_) _
  · exact h
  refine ha.bind ?_
  rintro ⟨x, u⟩ hu
  dsimp only at hu ⊢
  split
  · exact hu
  · split
    · trivial
    next e1 => exact ((hu.translate ..).beside e1).readHome ..

theorem dropLines (h : s.Canonical) (core asid : Nat) (vas : List Nat) : (s.dropLines core asid vas).Canonical := h.modCaches ..

theorem removeLines (h : s.Canonical) (core asid : Nat) (vas : List Nat) : (s.removeLines core asid vas).Canonical := by
  unfold State.removeLines
  extract_lets src
  have hsrc : src.Canonical := h.dropLines ..
  exact hsrc.congr rfl

theorem replayLog (h : s.Canonical) (w : Wave) (mask : Nat) (replay : Bool) : (s.replayLog w mask replay).Canonical := by
  unfold State.replayLog
  extract_lets _ s0 s1
  have hs0 : s0.Canonical := h.dropLogged ..
  have hs1 : s1.Canonical := hs0.removeLines ..
  refine State.Canonical.park ?_ ..
  exact hs1.congr rfl

theorem trapReturn (h : s.Canonical) (w : Wave) (replay : Bool) (word : Word) (pc : Quad) (active : Lanes) : (s.trapReturn w replay word pc active).Canonical := by
  unfold State.trapReturn
  extract_lets _
  split
  · exact (h.faultEvent ..).endWorkgroup ..
  next e =>
    extract_lets _ s2
    have hs2 : s2.Canonical := ((h.coreRead ..).ok e).replayLog ..
    exact (hs2.modWave ..).endLanes ..

end State.Canonical

end Sys2Proof.Machine
end

section
/-! PROOFS. The operations of Machine/Place keep the canonical form (O7). -/

namespace Sys2Proof.Machine

namespace State.Canonical
variable {s t : State}

theorem placeWave (h : s.Canonical) (gr : Grid) (gang wg core index : Nat) : (s.placeWave gr gang wg core index).Canonical := by
  unfold State.placeWave
  split
  next e =>
    extract_lets _
    exact (h.newId.beside e).congr rfl

theorem placeGang (h : s.Canonical) (gr : Grid) (gang first : Nat) : (s.placeGang gr gang first).Canonical := by
  unfold State.placeGang
  extract_lets s1 s2
  have hs1 : s1.Canonical := h.modGang ..
  have hs2 : s2.Canonical := hs1.foldl (fun _ _ ht => ht.foldl (fun _ _ ht1 => ht1.placeWave ..) _) _
  split
  · exact hs2.congr rfl
  · exact hs2

theorem placeHead (h : s.Canonical) : Given State.Canonical s.placeHead := by
  have hplace (rest : List Runnable) (gr : Grid) (id c : Nat) : ({ s with fifo := rest }.placeGang gr id c).Canonical := by
    refine State.Canonical.placeGang ?_ ..
    exact h.congr rfl
  unfold State.placeHead
  split
  · split
    · exact h.congr rfl
    split
    · trivial
    split
    · exact h.congr rfl
    · exact (Given.any _).map fun c _ => hplace ..
  · split
    · exact h.congr rfl
    split
    · exact h.congr rfl
    refine (Given.any _).map fun c _ => ?_
    have h1 (l : List Gang) : ({ s.newId.2 with gangs := l } : State).Canonical := h.newId.congr rfl
    dsimp only
    split
    · refine State.Canonical.congr ?_ rfl
      exact ((h1 _).modGrid ..).placeGang ..
    · exact ((h1 _).modGrid ..).placeGang ..
  · trivial

theorem placeLoop (h : s.Canonical) (n : Nat) : (placeLoop n s).Canonical := by
  induction n generalizing s with
  | zero => exact h
  | succ n ih =>
    unfold Machine.placeLoop
    split
    · exact h
    next e => exact ih (h.placeHead.some e)

theorem distribute (h : s.Canonical) : s.distribute.Canonical := h.ite (h.placeLoop ..)

end State.Canonical

end Sys2Proof.Machine
end

section
/-! PROOFS. The operations of Machine/Ports keep the canonical form (O7). -/

namespace Sys2Proof.Machine

namespace State.Canonical
variable {s t : State}

theorem putDesc (h : s.Canonical) (asid desc ofs x : Nat) : (s.putDesc asid desc ofs x).Canonical := by
  unfold State.putDesc
  split
  next e => exact (h.ctxWrite ..).ok e
  · exact h

theorem notePort (h : s.Canonical) (gr : Grid) (queue : Nat × Nat) (t : Quad) : (s.notePort gr queue t).Canonical := h.congr rfl

theorem pop (h : s.Canonical) (ga : Gang) (gr : Grid) (w : Wave) (port n : Nat) : (s.pop ga gr w port n).2.Canonical := by
  unfold State.pop
  split
  · split
    · split
      · exact h
      · extract_lets _ _ s0 s1
        have hs0 : s0.Canonical := h.noteReads ..
        have hs1 : s1.Canonical := hs0.putDesc ..
        exact (hs1.invalidateL1 ..).notePort ..
    · extract_lets _ _
      exact h.modGang ..
    · extract_lets _
      exact h.modGrid ..

theorem launchBatches (h : s.Canonical) (qid : Nat) : (s.launchBatches qid).Canonical := by
  unfold State.launchBatches
  split
  · exact h
  · split
    · exact h
    · split
      · exact h.congr rfl
      · refine h.foldl (fun t b ht => ?_) _
        split
        next e2 =>
          extract_lets _ _
          exact (ht.newId.beside e2).congr rfl

theorem push (h : s.Canonical) (gr : Grid) (w : Wave) (port : Nat) (vals : List Word) : (s.push gr w port vals).Canonical := by
  unfold State.push
  split
  · split
    · split
      · exact h
      · extract_lets s1
        have hs1 : s1.Canonical := by
          unfold s1
          refine (h.noteReads ..).foldl (fun t b ht => ?_) _
          split
          next e2 => exact (ht.ctxWrite ..).ok e2
          · exact ht
        exact (hs1.putDesc ..).notePort ..
    · split
      · exact h
      · extract_lets _
        refine State.Canonical.distribute ?_
        refine State.Canonical.notePort ?_ ..
        refine State.Canonical.launchBatches ?_ ..
        exact h.congr rfl
    · exact ((h.foldl (fun _ _ ht => ht.conePush ..) _).pushedBy ..).settlePushes
    · exact h

end State.Canonical

end Sys2Proof.Machine
end

section
/-! PROOFS. The operations of Machine/Operands keep the canonical form (O7). -/

namespace Sys2Proof.Machine

namespace State.Canonical
variable {s t : State}

theorem ctxPutV (h : s.Canonical) (c : Ctx) (num : Nat) (f : Nat → Word) : (c.putV num f s).Canonical := (h.modWave ..).ite ((h.push ..).ite h)

theorem ctxPutV2 (h : s.Canonical) (c : Ctx) (num : Nat) (f : Nat → Quad) : (c.putV2 num f s).Canonical := (h.modWave ..).ite h

theorem ctxPutS (h : s.Canonical) (c : Ctx) (num : Nat) (f : Lanes → Word) :
    (c.putS num f s).Canonical := (h.foldl (fun _ _ ht => ht.ite (ht.modWave ..)) _).ite (h.ite ((h.modWave ..).ite ((h.push ..).ite h)))

theorem ctxPutS2 (h : s.Canonical) (c : Ctx) (num : Nat) (x : Quad) : (c.putS2 num x s).Canonical := (h.modWave ..).ite h

theorem ctxPutP (h : s.Canonical) (c : Ctx) (n : Nat) (f : Nat → Bool) : (c.putP n f s).Canonical := h.modWave ..

end State.Canonical

end Sys2Proof.Machine
end

section
/-! PROOFS. The operations of Machine/Issue keep the canonical form (O7). -/

namespace Sys2Proof.Machine

namespace State.Canonical
variable {s t : State}

theorem trapAt (h : s.Canonical) (id : Nat) (lanes : Lanes) (t : TrapInfo) (issued : Bool) : (s.trapAt id lanes t issued).Canonical := by
  unfold State.trapAt
  split
  · exact h
  · split
    · exact (h.preciseTrap ..).distribute
    · extract_lets s1
      have hs1 : s1.Canonical := h.reportAll ..
      exact hs1.ite ((hs1.preciseTrap ..).distribute)

theorem trap (h : s.Canonical) (id : Nat) (lanes : Lanes) (t : TrapInfo) : (s.trap id lanes t).Canonical := h.trapAt ..

theorem pullProof (h : s.Canonical) : s.pullProof.Canonical := h.modKiln ..

theorem watchPull (h : s.Canonical) (asid n : Nat) : (s.watchPull asid n).Canonical := h.pullProof.ite h

theorem popAll (h : s.Canonical) (ga : Gang) (gr : Grid) (w : Wave) (served : Lanes) (us : List PortUse) : (popAll ga gr w served us s).2.Canonical := by
  induction us generalizing s with
  | nil => exact h
  | cons u us ih =>
    unfold Machine.popAll
    split
    · exact ih h
    · exact ih (h.pop ..)

theorem block (h : s.Canonical) (id kind arg : Nat) (i : Instr) : (s.block id kind arg i).Canonical := h.modWave ..

theorem go (h : s.Canonical) (i : Instr) (c : Ctx) : (s.go i c).Canonical := h.modWave ..

theorem portPolls (h : s.Canonical) (gr : Grid) (us : List PortUse) (n : Nat) : (s.portPolls gr us n).Canonical := by
  unfold State.portPolls
  extract_lets s1
  have hs1 : s1.Canonical := h.noteReads ..
  split
  · exact hs1.logEvent ..
  · exact hs1

theorem viaPorts (h : s.Canonical) (i : Instr) (c : Ctx) (us : List PortUse) : (s.viaPorts i c us).Canonical := by
  unfold State.viaPorts
  extract_lets _ _ _ s0 _ _
  have hs0 : s0.Canonical := h.portPolls ..
  split
  · exact h.go ..
  · split
    · exact h.block ..
    · split
      · exact h
      · split
        · split
          · exact h
          · exact hs0.block ..
        · split
          next e =>
            extract_lets s2
            have hs2 : s2.Canonical := (((hs0.ite h).popAll ..).beside e).modWave ..
            exact hs2.go ..

theorem watchTrap (h : s.Canonical) (c : Ctx) (r : TrapInfo) : (s.watchTrap c r).Canonical := (h.watchPull ..).trap ..

theorem checks (h : s.Canonical) (i : Instr) (c : Ctx) : (s.checks i c).Canonical := by
  unfold State.checks
  split
  · split
    · exact h.watchTrap ..
    · split
      · exact h
      · trivial
  · split
    · exact h.trap ..
    · split
      · exact h
      · split
        · exact h.trap ..
        · split
          · exact h.go ..
          · exact h.viaPorts ..

theorem front (h : s.Canonical) (i : Instr) : (s.front i).Canonical := by
  unfold State.front
  split
  · trivial
  · split
    · trivial
    · split
      · exact h
      · split
        · exact h
        · exact h.checks ..

theorem arriveAt (h : s.Canonical) (id kind arg : Nat) (i : Instr) : (s.arriveAt id kind arg i).Canonical := by
  unfold State.arriveAt
  extract_lets s1
  have hs1 : s1.Canonical := h.block ..
  split
  · exact ((hs1.acceptAll ..).ite hs1).tryRelease ..
  · exact hs1

theorem tookReads (h : t.Canonical) (s : State) : (s.tookReads t).Canonical := h.congr rfl

theorem watched (h : s.Canonical) (n : Nat) (c : Ctx) (b : Body) : (s.watched n c b).Canonical := h.watchTrap ..

/-- An instruction keeps the form if its meaning does. -/
theorem issue {i : Instr} {body : Ctx → State → Body} (h : s.Canonical) (hb : ∀ c t, t.Canonical → (body c t).Canonical) : Kept (issue i s body) := by
  have hf := h.front i
  unfold Machine.issue
  split
  next => trivial
  next t e => rw [e] at hf; exact hf
  next => exact h.watched ..
  next c t e =>
    rw [e] at hf
    have hbody := hb c t hf
    split
    next u e1 => rw [e1] at hbody; exact State.Canonical.modWave hbody ..
    next => exact (h.watchTrap ..).ite (h.trap ..)
    next r u e1 => rw [e1] at hbody; exact (State.Canonical.tookReads hbody s).trap ..
    next => exact h.block ..
    next => exact h.arriveAt ..
    next => exact h

theorem issueOk {i : Instr} {effect : Ctx → State → State} (h : s.Canonical) (he : ∀ c t, t.Canonical → (effect c t).Canonical) : Kept (issueOk i s effect) :=
  h.issue he

theorem ctxFailOn (h : s.Canonical) (c : Ctx) (f : Flt) (fault : Lanes) (faddr : Nat) : (c.failOn f fault faddr s).Canonical := h

end State.Canonical

end Sys2Proof.Machine
end

section
/-! PROOFS. The operations of Machine/Perform keep the canonical form (O7). -/

namespace Sys2Proof.Machine

namespace State.Canonical
variable {s t : State}

theorem modLane (h : s.Canonical) (id lane dest : Nat) (f : AccLane → AccLane) : (s.modLane id lane dest f).Canonical := h.modFlight ..

theorem laneTo (h : s.Canonical) (id lane dest : Nat) (st : LaneState) : (s.laneTo id lane dest st).Canonical := h.modLane ..

theorem atHome {k : State → Option State} (h : s.Canonical) (hk : ∀ t, t.Canonical → Given State.Canonical (k t)) (w : Wave) (asid pa : Nat) :
    Given State.Canonical (s.atHome w asid pa k) := by
  unfold State.atHome
  split
  · exact hk s h
  next ga gr _ =>
    have ho := h.orderTurn asid (s.localPa pa / 64) (logicalWave gr ga w) w.time.toNat gr.det
    split
    · trivial
    next e => exact ho.full e
    next e => exact hk _ (ho.go e)

theorem deliver (h : s.Canonical) (a : Access) (lane : Nat) (x : Quad) : (s.deliver a lane x).Canonical := by
  unfold State.deliver
  split
  · exact h
  · exact h.modWave ..

theorem install (h : s.Canonical) (l : CacheLine) (victim : Option Nat) : (s.install l victim).Canonical := by
  unfold State.install
  extract_lets _ _ s1
  have hs1 : s1.Canonical := h.modCaches ..
  exact hs1.congr rfl

theorem readLane {k : List Byte → State → Option State} (h : s.Canonical) (hk : ∀ bs t, t.Canonical → Given State.Canonical (k bs t)) (a : Access) (w : Wave) (l : AccLane)
    (n : Nat) (atHome noFill : Bool) (victim : Option Nat) : Given State.Canonical (s.readLane a w l n atHome noFill victim k) := by
  unfold State.readLane
  split
  · exact hk _ s h
  split
  · trivial
  refine h.atHome (fun t ht => ?_) ..
  have h2 := ht.lineHome a.asid l.pa l.leaf.toNat
  exact hk _ _ ((h2.install ..).ite h2)

theorem setLock (h : s.Canonical) (core asid line : Nat) (b : Bool) : (s.setLock core asid line b).Canonical := h.modCaches ..

theorem lockLane (h : s.Canonical) (a : Access) (w : Wave) (l : AccLane) (victim : Option Nat) : Given State.Canonical (s.lockLane a w l victim) := by
  unfold State.lockLane
  extract_lets decide_
  have hdecide (t : State) (ht : t.Canonical) : Given State.Canonical (decide_ t) :=
    (((ht.setLock ..).ite ht).deliver ..).laneTo ..
  split
  · trivial
  split
  · exact hdecide s h
  refine h.readLane (fun bs t ht => ?_) ..
  split
  · exact ht.modFlight ..
  split
  · exact hdecide t ht
  · trivial

theorem lodLane (h : s.Canonical) (a : Access) (w : Wave) (l : AccLane) (pred : Nat) : Given State.Canonical (s.lodLane a w l pred) := by
  unfold State.lodLane
  split
  · trivial
  · split
    · split
      · exact h.logEvent ..
      · split
        · trivial
        · exact (h.laneTo ..).report ..
    next e => exact (((((h.lodRead? ..).ok e).pushedBy ..).deliver ..).modWave ..).laneTo ..

theorem unsided (h : s.Canonical) (gang o : Nat) (bs : List Byte) : (s.unsided gang o bs).2.Canonical := by
  unfold State.unsided
  split
  · exact h.congr rfl
  · exact h

theorem wakeRecords (h : s.Canonical) (gang : Nat) (by_ : Quad) : (s.wakeRecords gang by_).Canonical := by
  unfold State.wakeRecords
  refine h.foldl (fun t b ht => ?_) _
  split
  · exact ht
  · split
    · exact ht.modWave ..
    · exact ((ht.mergeStaging ..).modWave ..).invalidateL1 ..

theorem putLocal (h : s.Canonical) (gang o : Nat) (bs : List Byte) : (s.putLocal gang o bs).Canonical := h.modGang ..

theorem arriveRecord (h : s.Canonical) (a : Access) (w : Wave) (l : AccLane) (noting : Bool) : (s.arriveRecord a w l noting).Canonical := by
  unfold State.arriveRecord
  split
  · exact h
  next g _ =>
    have h0 := h.unsided g.id l.va (g.bytes.getRange l.va 16)
    generalize s.unsided g.id l.va (g.bytes.getRange l.va 16) = r at h0
    obtain ⟨rec_, s0⟩ := r
    dsimp -zeta only at h0 ⊢
    extract_lets s1 left put s2
    have h1 : s1.Canonical := (State.Canonical.modWave h0 ..).ite h0
    have hput (t : State) (ht : t.Canonical) (o : Nat) (bs : List Byte) : (put t o bs).Canonical := (ht.unsided ..).modGang ..
    have h2 : s2.Canonical := (hput _ (hput _ h1 ..) ..).ite (hput _ h1 ..)
    exact (h2.laneTo ..).wakeRecords ..

theorem loadWhole (h : s.Canonical) (a : Access) (g : Gang) (n : Nat) : (s.loadWhole a g n).Canonical := by
  unfold State.loadWhole
  refine h.foldl (fun t b ht => ?_) _
  split
  next e => exact (((ht.unsided ..).beside e).deliver ..).laneTo ..

theorem storeWhole (h : s.Canonical) (a : Access) (g : Gang) (n : Nat) : (s.storeWhole a g n).Canonical := by
  unfold State.storeWhole
  extract_lets s1
  have hs1 : s1.Canonical := by
    unfold s1
    split
    · exact h.congr rfl
    · exact h
  refine hs1.foldl (fun t b ht => ?_) _
  split
  next e => exact (ht.ite (((ht.unsided ..).beside e).putLocal ..)).laneTo ..

theorem onLane {k : Access → Wave → AccLane → Option State} (_h : s.Canonical) (hk : ∀ a w l, Given State.Canonical (k a w l)) (id lane dest : Nat) :
    Given State.Canonical (s.onLane id lane dest k) := by
  unfold State.onLane
  split
  · trivial
  split
  · split
    exacts [hk .., trivial]
  · trivial

theorem loadLane (h : s.Canonical) (id lane : Nat) (victim : Option Nat) : Given State.Canonical (s.loadLane id lane victim) := by
  unfold State.loadLane
  refine h.onLane (fun a w l => ?_) ..
  extract_lets ended
  have hended (x : Quad) (t : State) (ht : t.Canonical) : Given State.Canonical (ended x t) := (ht.deliver ..).laneTo ..
  split
  · exact (Given.any _).map fun g _ => h.loadWhole ..
  split
  · trivial
  split
  · exact h.readLane (fun bs t ht => hended _ t ht) ..
  · refine h.readLane (fun bs t ht => ?_) ..
    exact ht.laneTo ..
  · exact h.lockLane ..
  · split
    · trivial
    split
    exacts [hended _ _ (h.setLock ..), hended _ _ h]
  · refine h.readLane (fun bs t ht => ?_) ..
    exact hended _ _ ((ht.modWave ..).ite ht)
  · exact h.lodLane ..
  · trivial

theorem storeLane (h : s.Canonical) (id lane dest : Nat) : Given State.Canonical (s.storeLane id lane dest) := by
  unfold State.storeLane
  refine h.onLane (fun a w l => ?_) ..
  extract_lets write
  have hwrite (n : Nat) (shadowed : Bool) (clear : State → State) (hc : ∀ t, t.Canonical → (clear t).Canonical) : Given State.Canonical (write n shadowed clear) := by
    unfold write
    split
    · exact (Given.any _).map fun x _ => (h.stage ..).laneTo ..
    · refine h.atHome (fun t ht => ?_) ..
      exact (hc _ (ht.ite (ht.writeHome ..))).laneTo ..
  clear_value write
  split
  · trivial
  split
  · exact hwrite _ _ _ fun t ht => ht
  · refine hwrite _ _ _ fun t ht => ?_
    exact ht.dropLines ..
  · trivial

theorem atomicLane (h : s.Canonical) (id lane dest : Nat) : Given State.Canonical (s.atomicLane id lane dest) := by
  unfold State.atomicLane
  refine h.onLane (fun a w l => ?_) ..
  split
  · trivial
  extract_lets go
  have hgo (n : Nat) (f : Nat → Option Nat) (ret : Bool) : Given State.Canonical (go n f ret) := by
    unfold go
    refine State.Canonical.atHome h (fun t ht => ?_) w a.asid l.pa
    have hr := ht.readHome a.asid l.pa l.leaf.toNat n
    generalize t.readHome a.asid l.pa l.leaf.toNat n = r at hr
    obtain ⟨bs, t1⟩ := r
    dsimp only at hr ⊢
    have hold (f : Nat → Option Nat) : (match f (natOfBytes bs) with
        | some x => (t1.keepBefore w.gang l.va l.pa n).storeHome a.asid l.va l.pa l.leaf.toNat l.side (bytesOfNat n x)
        | none => t1).Canonical := by
      split
      exacts [(State.Canonical.keepBefore hr ..).storeHome .., hr]
    exact ((((hold f).dropLines ..).deliver ..).laneTo ..).ite (((hold f).dropLines ..).laneTo ..)
  clear_value go
  split
  · exact hgo ..
  · exact hgo ..
  · exact hgo ..
  · trivial

theorem ackLane (h : s.Canonical) (id lane dest : Nat) : Given State.Canonical (s.ackLane id lane dest) := by
  unfold State.ackLane
  refine h.onLane (fun a w l => ?_) ..
  split
  · exact (Given.any _).map fun g _ => h.storeWhole ..
  · exact (Given.any _).map fun _ _ => h.arriveRecord ..
  · split
    exacts [h.laneTo .., trivial]

theorem performLane (h : s.Canonical) (kind : AccKind) (id lane dest : Nat) : (s.performLane kind id lane dest).Canonical := by
  unfold State.performLane
  extract_lets acked
  have hacked (o : Option State) (ho : Given State.Canonical o) : (acked o).Canonical := by
    cases o with
    | none => exact h
    | some t => exact (State.Canonical.ackLane ho ..).getD ho
  split
  · exact hacked _ (h.storeLane ..)
  · exact hacked _ (h.storeLane ..)
  · exact hacked _ (h.atomicLane ..)
  · exact hacked _ (h.atomicLane ..)
  · exact hacked _ (h.atomicLane ..)
  · exact (h.loadLane ..).getD h

theorem performAll (h : s.Canonical) (id : Nat) : (s.performAll id).Canonical := by
  unfold State.performAll
  split
  · exact h
  · extract_lets s1
    have hs1 : s1.Canonical := h.report ..
    exact ((hs1.foldl (fun _ _ ht => ht.performLane ..) _).finishAccess ..).settlePushes

end State.Canonical

end Sys2Proof.Machine
end

section
/-! PROOFS. The operations of Machine/Access keep the canonical form (O7). -/

namespace Sys2Proof.Machine

namespace State.Canonical
variable {s t : State}

theorem addFence (h : s.Canonical) (w : Wave) (asid scope : Nat) : (s.addFence w asid scope).Canonical := by
  unfold State.addFence
  extract_lets _ _
  refine State.Canonical.settleFences ?_
  exact h.congr rfl

theorem ctxFly (h : s.Canonical) (c : Ctx) (op : MemOp) (counter scope : Nat) : (c.fly op counter scope s).Canonical := by
  unfold Ctx.fly
  extract_lets s1 s2 _ s3
  have hs1 : s1.Canonical := (h.addFence ..).ite h
  have hs2 : s2.Canonical := by
    unfold s2
    split
    · exact hs1.removeLines ..
    · exact hs1.removeLines ..
    · exact hs1.removeLines ..
    · exact hs1
  have hs3 : s3.Canonical := hs2.congr rfl
  exact (hs3.finishAccess ..).ite ((hs3.performAll ..).ite hs3)

theorem ctxLaunch (h : s.Canonical) (c : Ctx) (op : MemOp) (counter : Nat) : (c.launch op counter s).Canonical := by
  unfold Ctx.launch
  split
  · exact h
  · split
    · trivial
    · split
      · trivial
      · split
        · trivial
        · split
          · trivial
          · extract_lets _
            split
            · trivial
            · exact h.ctxFly ..

end State.Canonical

end Sys2Proof.Machine
end

section
/-! PROOFS. The operations of Machine/IntAlu keep the canonical form (O7). -/

namespace Sys2Proof.Machine

namespace State.Canonical
variable {s t : State}

theorem aluR (h : s.Canonical) (i : Instr) (f : FmtR) (op : Ctx → Word → Word → Word → Word) : Kept (aluR i f s op) := by
  unfold Machine.aluR
  refine h.issueOk fun c t ht => ?_
  exact ht.ctxPutV ..

theorem aluR64 (h : s.Canonical) (i : Instr) (f : FmtR) (op : Ctx → Quad → Quad → Quad → Quad) : Kept (aluR64 i f s op) := by
  unfold Machine.aluR64
  refine h.issueOk fun c t ht => ?_
  exact ht.ctxPutV2 ..

theorem aluU (h : s.Canonical) (i : Instr) (f : FmtU) (op : Ctx → Word → Word) : Kept (aluU i f s op) := by
  unfold Machine.aluU
  refine h.issueOk fun c t ht => ?_
  exact ht.ctxPutV ..

theorem aluU64 (h : s.Canonical) (i : Instr) (f : FmtU) (op : Ctx → Quad → Quad) : Kept (aluU64 i f s op) := by
  unfold Machine.aluU64
  refine h.issueOk fun c t ht => ?_
  exact ht.ctxPutV2 ..

theorem shift32 (h : s.Canonical) (i : Instr) (form : BitVec 2) (f : FmtSh) (op : Word → Nat → Word) : Kept (shift32 i form f s op) := by
  unfold Machine.shift32
  refine h.issueOk fun c t ht => ?_
  exact ht.ctxPutV ..

theorem shift64 (h : s.Canonical) (i : Instr) (f : FmtSh64) (op : Quad → Nat → Quad) : Kept (shift64 i f s op) := by
  unfold Machine.shift64
  refine h.issueOk fun c t ht => ?_
  exact ht.ctxPutV2 ..

theorem execIadd (h : s.Canonical) (f : FmtR) : Kept (execIadd f s) := h.aluR ..

theorem execIsub (h : s.Canonical) (f : FmtR) : Kept (execIsub f s) := h.aluR ..

theorem execImul (h : s.Canonical) (f : FmtR) : Kept (execImul f s) := h.aluR ..

theorem execImulhI (h : s.Canonical) (f : FmtR) : Kept (execImulhI f s) := h.aluR ..

theorem execImulhZ (h : s.Canonical) (f : FmtR) : Kept (execImulhZ f s) := h.aluR ..

theorem execImad (h : s.Canonical) (f : FmtR) : Kept (execImad f s) := h.aluR ..

theorem execAnd (h : s.Canonical) (f : FmtR) : Kept (execAnd f s) := h.aluR ..

theorem execOr (h : s.Canonical) (f : FmtR) : Kept (execOr f s) := h.aluR ..

theorem execXor (h : s.Canonical) (f : FmtR) : Kept (execXor f s) := h.aluR ..

theorem execShl (h : s.Canonical) (f : FmtR) : Kept (execShl f s) := h.aluR ..

theorem execShr (h : s.Canonical) (f : FmtR) : Kept (execShr f s) := h.aluR ..

theorem execSar (h : s.Canonical) (f : FmtR) : Kept (execSar f s) := h.aluR ..

theorem execRol (h : s.Canonical) (f : FmtR) : Kept (execRol f s) := h.aluR ..

theorem execBfe (h : s.Canonical) (f : FmtR) : Kept (execBfe f s) := h.aluR ..

theorem execBfi (h : s.Canonical) (f : FmtR) : Kept (execBfi f s) := h.aluR ..

theorem execIminI (h : s.Canonical) (f : FmtR) : Kept (execIminI f s) := h.aluR ..

theorem execIminZ (h : s.Canonical) (f : FmtR) : Kept (execIminZ f s) := h.aluR ..

theorem execImaxI (h : s.Canonical) (f : FmtR) : Kept (execImaxI f s) := h.aluR ..

theorem execImaxZ (h : s.Canonical) (f : FmtR) : Kept (execImaxZ f s) := h.aluR ..

theorem execIcmp (h : s.Canonical) (f : FmtP) : Kept (execIcmp f s) := by
  unfold Machine.execIcmp
  refine h.issueOk fun c t ht => ?_
  exact ht.ctxPutP ..

theorem execSel (h : s.Canonical) (f : FmtSel) : Kept (execSel f s) := by
  unfold Machine.execSel
  refine h.issueOk fun c t ht => ?_
  exact ht.ctxPutV ..

theorem execLadd (h : s.Canonical) (f : FmtR) : Kept (execLadd f s) := by
  unfold Machine.execLadd
  refine h.issueOk fun c t ht => ?_
  exact ht.ctxPutV2 ..

theorem execIadd64 (h : s.Canonical) (f : FmtR) : Kept (execIadd64 f s) := h.aluR64 ..

theorem execIsub64 (h : s.Canonical) (f : FmtR) : Kept (execIsub64 f s) := h.aluR64 ..

theorem execIcmp64 (h : s.Canonical) (f : FmtP) : Kept (execIcmp64 f s) := by
  unfold Machine.execIcmp64
  refine h.issueOk fun c t ht => ?_
  exact ht.ctxPutP ..

theorem execShlImm (h : s.Canonical) (f : FmtSh) : Kept (execShlImm f s) := h.shift32 ..

theorem execShrImm (h : s.Canonical) (f : FmtSh) : Kept (execShrImm f s) := h.shift32 ..

theorem execSarImm (h : s.Canonical) (f : FmtSh) : Kept (execSarImm f s) := h.shift32 ..

theorem execRolImm (h : s.Canonical) (f : FmtSh) : Kept (execRolImm f s) := h.shift32 ..

theorem execShlImm64 (h : s.Canonical) (f : FmtSh64) : Kept (execShlImm64 f s) := h.shift64 ..

theorem execShrImm64 (h : s.Canonical) (f : FmtSh64) : Kept (execShrImm64 f s) := h.shift64 ..

theorem execSarImm64 (h : s.Canonical) (f : FmtSh64) : Kept (execSarImm64 f s) := h.shift64 ..

theorem execRolImm64 (h : s.Canonical) (f : FmtSh64) : Kept (execRolImm64 f s) := h.shift64 ..

theorem execIaddImm (h : s.Canonical) (f : FmtI) : Kept (execIaddImm f s) := by
  unfold Machine.execIaddImm
  refine h.issueOk fun c t ht => ?_
  exact ht.ctxPutV ..

theorem execAndImm (h : s.Canonical) (f : FmtI) : Kept (execAndImm f s) := by
  unfold Machine.execAndImm
  refine h.issueOk fun c t ht => ?_
  exact ht.ctxPutV ..

theorem execMovi (h : s.Canonical) (f : FmtMovi) : Kept (execMovi f s) := by
  unfold Machine.execMovi
  refine h.issueOk fun c t ht => ?_
  exact ht.ctxPutV ..

theorem execMov (h : s.Canonical) (f : FmtU) : Kept (execMov f s) := h.aluU ..

theorem execMov64 (h : s.Canonical) (f : FmtU) : Kept (execMov64 f s) := h.aluU64 ..

theorem execPopc (h : s.Canonical) (f : FmtU) : Kept (execPopc f s) := h.aluU ..

theorem execPopc64 (h : s.Canonical) (f : FmtU) : Kept (execPopc64 f s) := by
  unfold Machine.execPopc64
  refine h.issueOk fun c t ht => ?_
  exact ht.ctxPutV ..

theorem execClz (h : s.Canonical) (f : FmtU) : Kept (execClz f s) := h.aluU ..

theorem execClz64 (h : s.Canonical) (f : FmtU) : Kept (execClz64 f s) := by
  unfold Machine.execClz64
  refine h.issueOk fun c t ht => ?_
  exact ht.ctxPutV ..

theorem execImul64 (h : s.Canonical) (f : FmtR) : Kept (execImul64 f s) := h.aluR64 ..

end State.Canonical

end Sys2Proof.Machine
end

section
/-! PROOFS. The operations of Machine/Float keep the canonical form (O7). -/

namespace Sys2Proof.Machine

namespace State.Canonical
variable {s t : State}

theorem fpu32 (h : s.Canonical) (i : Instr) (f : FmtR) (op : Ctx → Nat → Nat → Nat → Nat) : Kept (fpu32 i f s op) := h.aluR ..

theorem fpuU32 (h : s.Canonical) (i : Instr) (f : FmtU) (op : Ctx → Nat → Nat) : Kept (fpuU32 i f s op) := h.aluU ..

theorem fpu64 (h : s.Canonical) (i : Instr) (f : FmtR) (op : Ctx → Nat → Nat → Nat → Nat) : Kept (fpu64 i f s op) := h.aluR64 ..

theorem fpuU64 (h : s.Canonical) (i : Instr) (f : FmtU) (op : Ctx → Nat → Nat) : Kept (fpuU64 i f s op) := h.aluU64 ..

theorem fcompare (h : s.Canonical) (i : Instr) (f : FmtP) (fmt : FFmt) (a b : Ctx → Nat → Nat) : Kept (fcompare i f s fmt a b) := by
  unfold Machine.fcompare
  refine h.issueOk fun c t ht => ?_
  exact ht.ctxPutP ..

theorem execFadd (h : s.Canonical) (f : FmtR) : Kept (execFadd f s) := h.fpu32 ..

theorem execFsub (h : s.Canonical) (f : FmtR) : Kept (execFsub f s) := h.fpu32 ..

theorem execFmul (h : s.Canonical) (f : FmtR) : Kept (execFmul f s) := h.fpu32 ..

theorem execFfma (h : s.Canonical) (f : FmtR) : Kept (execFfma f s) := h.fpu32 ..

theorem execFmin (h : s.Canonical) (f : FmtR) : Kept (execFmin f s) := h.fpu32 ..

theorem execFmax (h : s.Canonical) (f : FmtR) : Kept (execFmax f s) := h.fpu32 ..

theorem execFcmp (h : s.Canonical) (f : FmtP) : Kept (execFcmp f s) := h.fcompare ..

theorem execFdiv (h : s.Canonical) (f : FmtR) : Kept (execFdiv f s) := h.fpu32 ..

theorem execFrcp (h : s.Canonical) (f : FmtU) : Kept (execFrcp f s) := h.fpuU32 ..

theorem execFrsq (h : s.Canonical) (f : FmtU) : Kept (execFrsq f s) := h.fpuU32 ..

theorem execFsqrt (h : s.Canonical) (f : FmtU) : Kept (execFsqrt f s) := h.fpuU32 ..

theorem execFex2 (h : s.Canonical) (f : FmtU) : Kept (execFex2 f s) := h.fpuU32 ..

theorem execFlg2 (h : s.Canonical) (f : FmtU) : Kept (execFlg2 f s) := h.fpuU32 ..

theorem execFsin (h : s.Canonical) (f : FmtU) : Kept (execFsin f s) := h.fpuU32 ..

theorem execFcos (h : s.Canonical) (f : FmtU) : Kept (execFcos f s) := h.fpuU32 ..

theorem execFrnd (h : s.Canonical) (f : FmtU) : Kept (execFrnd f s) := h.fpuU32 ..

theorem execDadd (h : s.Canonical) (f : FmtR) : Kept (execDadd f s) := h.fpu64 ..

theorem execDsub (h : s.Canonical) (f : FmtR) : Kept (execDsub f s) := h.fpu64 ..

theorem execDmul (h : s.Canonical) (f : FmtR) : Kept (execDmul f s) := h.fpu64 ..

theorem execDffma (h : s.Canonical) (f : FmtR) : Kept (execDffma f s) := h.fpu64 ..

theorem execDmin (h : s.Canonical) (f : FmtR) : Kept (execDmin f s) := h.fpu64 ..

theorem execDmax (h : s.Canonical) (f : FmtR) : Kept (execDmax f s) := h.fpu64 ..

theorem execDcmp (h : s.Canonical) (f : FmtP) : Kept (execDcmp f s) := h.fcompare ..

theorem execDdiv (h : s.Canonical) (f : FmtR) : Kept (execDdiv f s) := h.fpu64 ..

theorem execDsqrt (h : s.Canonical) (f : FmtU) : Kept (execDsqrt f s) := h.fpuU64 ..

theorem execDrnd (h : s.Canonical) (f : FmtU) : Kept (execDrnd f s) := h.fpuU64 ..

theorem execHadd2 (h : s.Canonical) (f : FmtR) : Kept (execHadd2 f s) := h.fpu32 ..

theorem execHfma2 (h : s.Canonical) (f : FmtR) : Kept (execHfma2 f s) := h.fpu32 ..

theorem execBfma2 (h : s.Canonical) (f : FmtR) : Kept (execBfma2 f s) := h.fpu32 ..

end State.Canonical

end Sys2Proof.Machine
end

section
/-! PROOFS. The operations of Machine/CrossLane keep the canonical form (O7). -/

namespace Sys2Proof.Machine

namespace State.Canonical
variable {s t : State}

theorem shuffle (h : s.Canonical) (i : Instr) (f : FmtR) (source : Nat → Nat → Nat → Int) : Kept (shuffle i f s source) := by
  unfold Machine.shuffle
  refine h.issueOk fun c t ht => ?_
  exact ht.ctxPutV ..

theorem execShflIdx (h : s.Canonical) (f : FmtR) : Kept (execShflIdx f s) := h.shuffle ..

theorem execShflXor (h : s.Canonical) (f : FmtR) : Kept (execShflXor f s) := h.shuffle ..

theorem execShflUp (h : s.Canonical) (f : FmtR) : Kept (execShflUp f s) := h.shuffle ..

theorem execShflDown (h : s.Canonical) (f : FmtR) : Kept (execShflDown f s) := h.shuffle ..

theorem execVote (h : s.Canonical) (f : FmtVote) : Kept (execVote f s) := by
  unfold Machine.execVote
  refine h.issueOk fun c t ht => ?_
  exact ht.ctxPutS ..

theorem execBcast (h : s.Canonical) (f : FmtR) : Kept (execBcast f s) := by
  unfold Machine.execBcast
  refine h.issueOk fun c t ht => ?_
  refine State.Canonical.ctxPutS ?_ ..
  split
  · exact ht
  · exact ht.congr rfl

theorem execRedux (h : s.Canonical) (f : FmtRdx) : Kept (execRedux f s) := by
  unfold Machine.execRedux
  refine h.issueOk fun c t ht => ?_
  exact ht.ctxPutS ..

theorem execScan (h : s.Canonical) (f : FmtRdx) : Kept (execScan f s) := by
  unfold Machine.execScan
  refine h.issueOk fun c t ht => ?_
  exact ht.ctxPutV ..

end State.Canonical

end Sys2Proof.Machine
end

section
/-! PROOFS. The operations of Machine/Atomics keep the canonical form (O7). -/

namespace Sys2Proof.Machine

namespace State.Canonical
variable {s t : State}

theorem execAtom32 (h : s.Canonical) (f : FmtA) : Kept (execAtom32 f s) := by
  unfold Machine.execAtom32
  refine h.issue fun c t ht => ?_
  exact ht.ctxLaunch ..

theorem execAtom64 (h : s.Canonical) (f : FmtA) : Kept (execAtom64 f s) := by
  unfold Machine.execAtom64
  refine h.issue fun c t ht => ?_
  exact ht.ctxLaunch ..

theorem execAcas (h : s.Canonical) (f : FmtAcas) : Kept (execAcas f s) := by
  unfold Machine.execAcas
  refine h.issue fun c t ht => ?_
  exact ht.ctxLaunch ..

theorem execRed (h : s.Canonical) (f : FmtRed) : Kept (execRed f s) := by
  unfold Machine.execRed
  refine h.issue fun c t ht => ?_
  extract_lets _
  exact ht.ctxLaunch ..

theorem ctxMulti (h : s.Canonical) (c : Ctx) (op : Option Nat) (list d : BitVec 7) (wide release : Bool) : (c.multi op list d wide release s).Canonical := by
  unfold Ctx.multi
  extract_lets _ _ _
  split
  · trivial
  · exact h.ctxLaunch ..

theorem execMcst (h : s.Canonical) (f : FmtMcst) : Kept (execMcst f s) := by
  unfold Machine.execMcst
  refine h.issue fun c t ht => ?_
  exact ht.ctxMulti ..

theorem execRdst (h : s.Canonical) (f : FmtRdst) : Kept (execRdst f s) := by
  unfold Machine.execRdst
  refine h.issue fun c t ht => ?_
  exact ht.ctxMulti ..

end State.Canonical

end Sys2Proof.Machine
end

section
/-! PROOFS. The operations of Machine/CacheOps keep the canonical form (O7). -/

namespace Sys2Proof.Machine

namespace State.Canonical
variable {s t : State}

theorem execLck (h : s.Canonical) (f : FmtDA) : Kept (execLck f s) := by
  unfold Machine.execLck
  refine h.issue fun c t ht => ?_
  exact ht.ctxLaunch ..

theorem execUlk (h : s.Canonical) (f : FmtDA) : Kept (execUlk f s) := by
  unfold Machine.execUlk
  refine h.issue fun c t ht => ?_
  exact ht.ctxLaunch ..

theorem execPref (h : s.Canonical) (f : FmtA1) : Kept (execPref f s) := by
  unfold Machine.execPref
  refine h.issue fun c t ht => ?_
  exact ht.ctxLaunch ..

theorem cinvLines (h : s.Canonical) (core asid : Nat) (vas : List Nat) (locked : Bool) : (s.cinvLines core asid vas locked).Canonical := by
  unfold State.cinvLines
  extract_lets _ src
  have hsrc : src.Canonical := h.modCaches ..
  exact hsrc.congr rfl

theorem execCinvLine (h : s.Canonical) (f : FmtA1) : Kept (execCinvLine f s) := by
  unfold Machine.execCinvLine
  refine h.issueOk fun c t ht => ?_
  exact ht.cinvLines ..

theorem execCinvUnl (h : s.Canonical) (f : FmtA1) : Kept (execCinvUnl f s) := by
  unfold Machine.execCinvUnl
  refine h.issueOk fun c t ht => ?_
  exact ht.cinvLines ..

theorem execCinvAll (h : s.Canonical) (f : FmtG0) : Kept (execCinvAll f s) := by
  unfold Machine.execCinvAll
  refine h.issueOk fun c t ht => ?_
  exact ht.ite (ht.invalidateL1 ..)

theorem execCinvIline (h : s.Canonical) (f : FmtA1) : Kept (execCinvIline f s) := by
  unfold Machine.execCinvIline
  refine h.issueOk fun c t ht => ?_
  exact ht.modCaches ..

theorem execCinvIall (h : s.Canonical) (f : FmtG0) : Kept (execCinvIall f s) := by
  unfold Machine.execCinvIall
  refine h.issueOk fun c t ht => ?_
  exact ht.ite (ht.modCaches ..)

end State.Canonical

end Sys2Proof.Machine
end

section
/-! PROOFS. The operations of Machine/Translate keep the canonical form (O7). -/

namespace Sys2Proof.Machine

namespace State.Canonical
variable {s t : State}

theorem useCode (h : s.Canonical) (n : Nat) : (s.useCode n).Canonical := h.congr rfl

end State.Canonical

end Sys2Proof.Machine
end

section
/-! PROOFS. The operations of Machine/Fetch keep the canonical form (O7). -/

namespace Sys2Proof.Machine

namespace State.Canonical
variable {s t : State}

theorem fetch (h : s.Canonical) (core asid pc : Nat) (priv : Bool) : (s.fetch core asid pc priv).2.Canonical := by
  unfold State.fetch
  split
  · exact h
  · split
    · exact h
    · split
      next e1 => exact (h.translate ..).beside e1
      next e1 =>
        split
        next e2 =>
          extract_lets _
          exact ((((h.translate ..).beside e1).lineHome ..).beside e2).modCaches ..

theorem fetchWord (h : s.Canonical) (w : Wave) (gr : Grid) (pc : Nat) : (s.fetchWord w gr pc).2.Canonical := by
  unfold State.fetchWord
  split
  · exact h
  · exact h.fetch ..

theorem badWord (h : s.Canonical) (w : Wave) (gr : Grid) (pc : Quad) (lanes : Lanes) (word : Word) : (s.badWord w gr pc lanes word).Canonical := by
  unfold State.badWord
  split
  · exact (h.watchPull ..).trap ..
  · exact h.trap ..

theorem fetchNext (h : s.Canonical) (wave : Nat) : (s.fetchNext wave).Canonical := by
  unfold State.fetchNext
  split
  · trivial
  split
  · trivial
  split
  · trivial
  split
  · trivial
  split
  next e => exact ((h.fetchWord ..).beside e).trapAt ..
  next e =>
    have h1 := (h.fetchWord ..).beside e
    split
    · exact h1.badWord ..
    · exact h1.congr rfl

end State.Canonical

end Sys2Proof.Machine
end

section
/-! PROOFS. The operations of Machine/FenceWait keep the canonical form (O7). -/

namespace Sys2Proof.Machine

namespace State.Canonical
variable {s t : State}

theorem acquireAt (h : s.Canonical) (core scope : Nat) : (s.acquireAt core scope).Canonical := (h.invalidateL1 ..).ite h

theorem ctxFence (h : s.Canonical) (c : Ctx) (order scope : Nat) : (c.fence order scope s).Canonical := by
  unfold Ctx.fence
  split
  · exact h
  · split
    · split
      · exact h.acquireAt ..
      · trivial
    · split
      · exact h.addFence ..
      · trivial
    · split
      · exact (h.acceptAll ..).acquireAt ..
      · trivial

theorem execFence (h : s.Canonical) (f : FmtFence) : Kept (execFence f s) := by
  unfold Machine.execFence
  refine h.issue fun c t ht => ?_
  exact ht.ctxFence ..

theorem execWait (h : s.Canonical) (f : FmtWait) : Kept (execWait f s) := by
  unfold Machine.execWait
  refine h.issue fun c t ht => ?_
  split
  · exact ht
  · split
    · extract_lets _
      exact ((ht.invalidateL1 ..).ite ht).modWave ..
    · trivial

end State.Canonical

end Sys2Proof.Machine
end

section
/-! PROOFS. The operations of Machine/LoadStore keep the canonical form (O7). -/

namespace Sys2Proof.Machine

namespace State.Canonical
variable {s t : State}

theorem ctxLoad (h : s.Canonical) (c : Ctx) (f : FmtM) (n : Nat) (signed : Bool) : (c.load f n signed s).Canonical := h.ctxLaunch ..

theorem ctxStore (h : s.Canonical) (c : Ctx) (f : FmtM) (n : Nat) : (c.store f n s).Canonical := h.ctxLaunch ..

theorem execLdZ8 (h : s.Canonical) (f : FmtM) : Kept (execLdZ8 f s) := by
  unfold Machine.execLdZ8
  refine h.issue fun c t ht => ?_
  exact ht.ctxLoad ..

theorem execLdI8 (h : s.Canonical) (f : FmtM) : Kept (execLdI8 f s) := by
  unfold Machine.execLdI8
  refine h.issue fun c t ht => ?_
  exact ht.ctxLoad ..

theorem execLdZ16 (h : s.Canonical) (f : FmtM) : Kept (execLdZ16 f s) := by
  unfold Machine.execLdZ16
  refine h.issue fun c t ht => ?_
  exact ht.ctxLoad ..

theorem execLdI16 (h : s.Canonical) (f : FmtM) : Kept (execLdI16 f s) := by
  unfold Machine.execLdI16
  refine h.issue fun c t ht => ?_
  exact ht.ctxLoad ..

theorem execLd32 (h : s.Canonical) (f : FmtM) : Kept (execLd32 f s) := by
  unfold Machine.execLd32
  refine h.issue fun c t ht => ?_
  exact ht.ctxLoad ..

theorem execLd64 (h : s.Canonical) (f : FmtM) : Kept (execLd64 f s) := by
  unfold Machine.execLd64
  refine h.issue fun c t ht => ?_
  exact ht.ctxLoad ..

theorem execSt8 (h : s.Canonical) (f : FmtM) : Kept (execSt8 f s) := by
  unfold Machine.execSt8
  refine h.issue fun c t ht => ?_
  exact ht.ctxStore ..

theorem execSt16 (h : s.Canonical) (f : FmtM) : Kept (execSt16 f s) := by
  unfold Machine.execSt16
  refine h.issue fun c t ht => ?_
  exact ht.ctxStore ..

theorem execSt32 (h : s.Canonical) (f : FmtM) : Kept (execSt32 f s) := by
  unfold Machine.execSt32
  refine h.issue fun c t ht => ?_
  exact ht.ctxStore ..

theorem execSt64 (h : s.Canonical) (f : FmtM) : Kept (execSt64 f s) := by
  unfold Machine.execSt64
  refine h.issue fun c t ht => ?_
  exact ht.ctxStore ..

theorem ctxEntries (h : s.Canonical) (c : Ctx) (r : Nat) : Answers (fun f => f.1.2.2.Canonical) (fun x => x.2.Canonical) (c.entries r s) := by
  unfold Ctx.entries
  refine Answers.foldl (show Answers (fun f : Failed × Lanes => f.1.2.2.Canonical) (fun x => x.2.Canonical) (.ok (([] : List (Nat × BitVec 512)), s)) from h) (fun acc idx ha => ?_) _
  split
  · exact ha
  next t =>
    have ht : t.Canonical := ha
    split
    next e => exact (ht.resource ..).error e
    next e => exact (ht.resource ..).ok e

theorem ctxLdlod (h : s.Canonical) (c : Ctx) (f : FmtL) : (c.ldlod f s).Canonical := by
  unfold Ctx.ldlod
  split
  · exact h
  split
  next e =>
    split
    exacts [trivial, (h.ctxEntries ..).error e]
  next e =>
    split
    · trivial
    · exact State.Canonical.ctxFly ((h.ctxEntries ..).ok e) ..

theorem execLdlod (h : s.Canonical) (f : FmtL) : Kept (execLdlod f s) := by
  unfold Machine.execLdlod
  refine h.issue fun c t ht => ?_
  exact ht.ctxLdlod ..

end State.Canonical

end Sys2Proof.Machine
end

section
/-! PROOFS. The operations of Machine/Local keep the canonical form (O7). -/

namespace Sys2Proof.Machine

namespace State.Canonical
variable {s t : State}

theorem ctxLocalChecks {c : Ctx} {ofs : Nat → Nat} {k : Gang → Body} (hk : ∀ g, (k g).Canonical) : (c.localChecks ofs s k).Canonical := by
  unfold Ctx.localChecks
  split
  · trivial
  split
  · trivial
  split
  exacts [trivial, hk _]

theorem ctxClobberChecks {c : Ctx} {ofs : Nat → Nat} {bad : Nat → Bool} {k : Body} (hk : k.Canonical) : (c.clobberChecks ofs bad k).Canonical := by
  unfold Ctx.clobberChecks
  split
  exacts [trivial, hk]

theorem ctxLoadLocal (h : s.Canonical) (c : Ctx) (f : FmtM) (n : Nat) : (c.loadLocal f n s).Canonical := by
  unfold Ctx.loadLocal
  refine ctxLocalChecks fun g => ?_
  exact h.ctxLaunch ..

theorem ctxStoreLocal (h : s.Canonical) (c : Ctx) (f : FmtM) (n : Nat) : (c.storeLocal f n s).Canonical := by
  unfold Ctx.storeLocal
  refine ctxLocalChecks fun g => ctxClobberChecks ?_
  extract_lets tagged op
  have hl := h.ctxLaunch c { op with release := false } 2
  split
  · exact h.ctxLaunch ..
  split
  · trivial
  split
  next u e =>
    rw [e] at hl
    exact State.Canonical.finishAccess (State.Canonical.foldl hl (fun v l hv => (hv.ackLane ..).getD hv) _) _
  · exact hl

theorem execLds32 (h : s.Canonical) (f : FmtM) : Kept (execLds32 f s) := by
  unfold Machine.execLds32
  refine h.issue fun c t ht => ?_
  exact ht.ctxLoadLocal ..

theorem execLds64 (h : s.Canonical) (f : FmtM) : Kept (execLds64 f s) := by
  unfold Machine.execLds64
  refine h.issue fun c t ht => ?_
  exact ht.ctxLoadLocal ..

theorem execSts32 (h : s.Canonical) (f : FmtM) : Kept (execSts32 f s) := by
  unfold Machine.execSts32
  refine h.issue fun c t ht => ?_
  exact ht.ctxStoreLocal ..

theorem execSts64 (h : s.Canonical) (f : FmtM) : Kept (execSts64 f s) := by
  unfold Machine.execSts64
  refine h.issue fun c t ht => ?_
  exact ht.ctxStoreLocal ..

theorem execBarInit (h : s.Canonical) (f : FmtDA) : Kept (execBarInit f s) := by
  unfold Machine.execBarInit
  refine h.issue fun c t ht => ?_
  extract_lets ofs count wrong
  split
  · exact ht
  split
  · trivial
  refine ctxLocalChecks fun g => ctxClobberChecks ?_
  split
  · trivial
  · exact ht.foldl (fun u l hu => ((hu.unsided ..).putLocal ..).modGang ..) _

theorem ctxArrivals (h : s.Canonical) (c : Ctx) (ofs : Nat → Nat) (noting : Bool) : (c.arrivals ofs noting s).Canonical := h.ctxLaunch ..

theorem ctxRecordChecks {c : Ctx} {ofs : Nat → Nat} {k : Gang → Body} (hk : ∀ g, (k g).Canonical) : (c.recordChecks ofs s k).Canonical :=
  ctxLocalChecks fun g => ctxClobberChecks (hk g)

theorem execBarArrive (h : s.Canonical) (f : FmtA1) : Kept (execBarArrive f s) := by
  unfold Machine.execBarArrive
  refine h.issue fun c t ht => ?_
  refine ctxRecordChecks fun g => ?_
  exact ht.ctxArrivals ..

theorem execBarWait (h : s.Canonical) (f : FmtDA) : Kept (execBarWait f s) := by
  unfold Machine.execBarWait
  refine h.issue fun c t ht => ?_
  split
  · exact ht
  · refine ctxRecordChecks fun g => ?_
    split
    · trivial
    · split
      · trivial
      · exact (ht.mergeStaging ..).invalidateL1 ..

theorem ctxWaitSync (h : s.Canonical) (c : Ctx) (i : Instr) (ofs : Nat → Nat) : (c.waitSync i ofs s).Canonical := h.modWave ..

theorem execBarSync (h : s.Canonical) (f : FmtA1) : Kept (execBarSync f s) := by
  unfold Machine.execBarSync
  refine h.issue fun c t ht => ?_
  split
  · exact ht
  refine ctxRecordChecks fun g => ?_
  have ha := ht.ctxArrivals c (c.record f.a) true
  split
  · trivial
  split
  next u e => rw [e] at ha; exact State.Canonical.ctxWaitSync ha ..
  · exact ha

end State.Canonical

end Sys2Proof.Machine
end

section
/-! PROOFS. The operations of Machine/Matrix keep the canonical form (O7). -/

namespace Sys2Proof.Machine

namespace State.Canonical
variable {s t : State}

theorem scaleBase (h : s.Canonical) (gr : Grid) (core : Nat) (priv : Bool) (sl : Slot) : Tries (s.scaleBase gr core priv sl) := by
  unfold State.scaleBase
  split
  · exact h
  split
  next e => exact (h.resource ..).error e
  next e =>
    split
    exacts [(h.resource ..).ok e, (h.resource ..).ok e]

theorem drainPages (h : s.Canonical) (w0 : Wave) (asid : Nat) (vas : List Nat) : (s.drainPages w0 asid vas).2.2.Canonical := by
  unfold State.drainPages
  refine List.foldlRecOn (motive := fun x : List TlbEntry × List FltAt × State => x.2.2.Canonical) _ _ h fun acc ha va _ => ?_
  dsimp only
  split
  next e => exact (State.Canonical.translate ha ..).beside e
  next e => exact (State.Canonical.translate ha ..).beside e

theorem unlatch (h : s.Canonical) (ms : List Wave) : (s.unlatch ms).Canonical := by
  unfold State.unlatch
  extract_lets _ _
  exact h.modWaves ..

theorem postEntry (h : s.Canonical) (gr : Grid) (gang : Nat) (w0 : Wave) (ms : List Wave) (i : Instr) (p : MxPlan) : (s.postEntry gr gang w0 ms i p).Canonical := by
  unfold State.postEntry
  extract_lets _
  exact ((h.modMatrix ..).unlatch ..).modWaves ..

theorem formTeam (h : s.Canonical) (ms : List Wave) (v : Quad) : (s.formTeam ms v).Canonical := (h.modWaves ..).unlatch ..

/-- A plan with its state in canonical form, or a fault with one. -/
abbrev Plans (r : Except Failed MxPlan) : Prop := Answers (fun f => f.2.2.Canonical) (fun p => p.st.Canonical) r

/-- A condition that fails answers the state at which it was checked. -/
theorem must (h : s.Canonical) (b : Bool) : Answers (fun f => f.2.2.Canonical) (fun _ => True) (must s b) := by
  unfold Machine.must
  split
  exacts [trivial, h]

theorem inside (h : s.Canonical) (o : Option Nat) : Answers (fun f => f.2.2.Canonical) (fun _ => True) (inside s o) := by
  unfold Machine.inside
  split
  exacts [h, trivial]

theorem checkBeg (h : s.Canonical) (gr : Grid) (w0 : Wave) (gang : Nat) (team : Quad) (f : FmtBeg) (regs : List Word) : Plans (s.checkBeg gr w0 gang team f regs) := by
  unfold State.checkBeg
  refine (must h _).bind fun _ _ => (must h _).bind fun _ _ => (h.scaleBase ..).bind ?_
  rintro ⟨a, s1⟩ h1
  refine (State.Canonical.scaleBase h1 ..).bind ?_
  rintro ⟨b, s2⟩ h2
  exact (inside h2 _).bind fun _ _ => h2

theorem checkOp (h : s.Canonical) (gr : Grid) (gang : Nat) (team : Quad) (zero : Bool) (f : FmtX) (regs : List Word) : Plans (s.checkOp gr gang team zero f regs) := by
  unfold State.checkOp
  split
  · exact (must h _).bind fun _ _ => (inside h _).bind fun _ _ => h
  · exact h

theorem checkDrain (h : s.Canonical) (gr : Grid) (w0 : Wave) (gang : Nat) (team : Quad) (i : Instr) (float : Bool) (regs : List Word) :
    Plans (s.checkDrain gr w0 gang team i float regs) := by
  unfold State.checkDrain
  generalize drainDest regs = x
  obtain ⟨dest, stride, loc⟩ := x
  dsimp -zeta only
  extract_lets size n starts ends
  have hends (d : Decl) : Plans (ends d) := by
    refine (must h _).bind fun _ _ => ?_
    split
    · exact (inside h _).bind fun _ _ => h
    split
    · exact h
    have hp (starts : List Nat) (n : Nat) : (s.drainPages w0 gr.asid (pagesOf starts n)).2.2.Canonical := h.drainPages ..
    split
    exacts [hp .., hp ..]
  clear_value ends
  split
  exacts [hends _, h]

theorem checkFold (h : s.Canonical) (gr : Grid) (gang : Nat) (team : Quad) (regs : List Word) : Plans (s.checkFold gr gang team regs) := by
  unfold State.checkFold
  extract_lets base stride ends
  have hends (d : Decl) : Plans (ends d) := by
    refine (must h _).bind fun _ _ => (inside h _).bind fun _ _ => ?_
    exact h
  clear_value ends
  split
  exacts [hends _, h]

theorem latchCheck (h : s.Canonical) (gr : Grid) (w0 : Wave) (gang : Nat) (team : Quad) (i : Instr) (regs : List Word) : Plans (s.latchCheck gr w0 gang team i regs) := by
  unfold State.latchCheck
  split
  · exact checkBeg h ..
  · exact checkOp h ..
  · exact checkOp h ..
  · exact checkDrain h ..
  · exact checkDrain h ..
  · exact checkDrain h ..
  · exact checkFold h ..
  · split
    · split
      exacts [h, h]
    · exact h
  · split
    exacts [h, h]

theorem tryLatch (h : s.Canonical) (id : Nat) : (s.tryLatch id).Canonical := by
  unfold State.tryLatch
  split
  · exact h
  split
  · split
    · exact (h.formTeam ..).ite h
    · extract_lets ms
      clear_value ms
      split
      · split
        · exact h
        split
        next e => exact h.ite (State.Canonical.modWaves ((latchCheck h ..).error e) ..)
        next e =>
          have hp := (latchCheck h ..).ok e
          exact (State.Canonical.postEntry hp ..).ite hp
      · exact h
  · exact h

theorem ctxHold (h : s.Canonical) (c : Ctx) (i : Instr) : (c.hold i s).Canonical := (h.modWave ..).block ..

theorem ctxEnterLatch (h : s.Canonical) (c : Ctx) (i : Instr) : (c.enterLatch i s).Canonical := (h.ctxHold ..).tryLatch ..

theorem ctxConflict (h : s.Canonical) (c : Ctx) (i : Instr) (victims : List Wave) : (c.conflict i victims s).Canonical := (h.ctxHold ..).modWaves ..

theorem ctxMatrix (h : s.Canonical) (c : Ctx) (i : Instr) : (c.matrix i s).Canonical := by
  unfold Ctx.matrix
  extract_lets _ _
  split
  · trivial
  · split
    · exact h.ctxConflict ..
    · split
      · trivial
      · exact h.ctxEnterLatch ..

theorem ctxLeaveTeam (h : s.Canonical) (c : Ctx) : (c.leaveTeam s).Canonical := (h.modWaves ..).modWave ..

theorem ctxTeam (h : s.Canonical) (c : Ctx) (i : Instr) (v : Quad) : (c.team i v s).Canonical := by
  unfold Ctx.team
  extract_lets _
  split
  · trivial
  · split
    · exact h.ctxConflict ..
    · split
      · split
        · trivial
        · exact h.ctxLeaveTeam ..
      · split
        · exact h.ctxConflict ..
        · split
          · trivial
          · exact h.ctxEnterLatch ..

theorem execTeam (h : s.Canonical) (n : BitVec 5) : Kept (execTeam n s) := by
  unfold Machine.execTeam
  refine h.issue fun c t ht => ?_
  exact ht.ctxTeam ..

theorem execMxbeg (h : s.Canonical) (f : FmtBeg) : Kept (execMxbeg f s) := by
  unfold Machine.execMxbeg
  refine h.issue fun c t ht => ?_
  exact ht.ctxMatrix ..

theorem execMxop (h : s.Canonical) (f : FmtX) : Kept (execMxop f s) := by
  unfold Machine.execMxop
  refine h.issue fun c t ht => ?_
  exact ht.ctxMatrix ..

theorem execMxopZero (h : s.Canonical) (f : FmtX) : Kept (execMxopZero f s) := by
  unfold Machine.execMxopZero
  refine h.issue fun c t ht => ?_
  exact ht.ctxMatrix ..

theorem execMxfold (h : s.Canonical) (d : BitVec 5) : Kept (execMxfold d s) := by
  unfold Machine.execMxfold
  refine h.issue fun c t ht => ?_
  exact ht.ctxMatrix ..

theorem execMxres (h : s.Canonical) : Kept (execMxres s) := by
  unfold Machine.execMxres
  refine h.issue fun c t ht => ?_
  exact ht.ctxMatrix ..

theorem execMxend (h : s.Canonical) : Kept (execMxend s) := by
  unfold Machine.execMxend
  refine h.issue fun c t ht => ?_
  exact ht.ctxMatrix ..

theorem execMxdrnI32 (h : s.Canonical) (d n : BitVec 5) : Kept (execMxdrnI32 d n s) := by
  unfold Machine.execMxdrnI32
  refine h.issue fun c t ht => ?_
  exact ht.ctxMatrix ..

theorem execMxdrnI64 (h : s.Canonical) (d n : BitVec 5) : Kept (execMxdrnI64 d n s) := by
  unfold Machine.execMxdrnI64
  refine h.issue fun c t ht => ?_
  exact ht.ctxMatrix ..

theorem execMxdrnF32 (h : s.Canonical) (d n : BitVec 5) : Kept (execMxdrnF32 d n s) := by
  unfold Machine.execMxdrnF32
  refine h.issue fun c t ht => ?_
  exact ht.ctxMatrix ..

theorem execReservationPost (h : s.Canonical) (wave : Nat) : Kept (execReservationPost wave s) := by
  unfold Machine.execReservationPost
  split
  · trivial
  dsimp only
  split
  exacts [h.tryLatch wave, trivial]

end State.Canonical

end Sys2Proof.Machine
end

section
/-! PROOFS. The operations of Machine/Tx keep the canonical form (O7). -/

namespace Sys2Proof.Machine

namespace State.Canonical
variable {s t : State}

theorem execTxb (h : s.Canonical) (f : FmtG0) : Kept (execTxb f s) := by
  unfold Machine.execTxb
  refine h.issue fun c t ht => ?_
  split
  · trivial
  · exact ht.modWave ..

theorem execTxa (h : s.Canonical) (f : FmtG0) : Kept (execTxa f s) := by
  unfold Machine.execTxa
  refine h.issue fun c t ht => ?_
  split
  · trivial
  · exact ht.modWave ..

theorem ctxTxChecks {c : Ctx} {what : Nat → TxLane} {ea : Nat → Nat} {k : Body} (hk : k.Canonical) : (c.txChecks what ea k).Canonical := by
  unfold Ctx.txChecks
  split
  · trivial
  split
  exacts [trivial, hk]

theorem reportFlight (h : s.Canonical) (id : Nat) : (s.reportFlight id).Canonical := by
  unfold State.reportFlight
  split
  · exact h.report ..
  · exact h

theorem execTxld (h : s.Canonical) (f : FmtDA) : Kept (execTxld f s) := by
  unfold Machine.execTxld
  refine h.issue fun c t ht => ?_
  extract_lets ea what found op
  split
  · trivial
  refine State.Canonical.ctxTxChecks ?_
  have hl := ht.ctxLaunch c op 1
  split
  next u e =>
    rw [e] at hl
    exact State.Canonical.reportFlight (State.Canonical.foldl hl (fun v p hv => (hv.modWave ..).ite hv) _) _
  · exact hl

theorem execTxst (h : s.Canonical) (f : FmtDA) : Kept (execTxst f s) := by
  unfold Machine.execTxst
  refine h.issue fun c t ht => ?_
  extract_lets _ _ _ _ _ t0 u
  have ht0 : t0.Canonical := ht.removeLines ..
  have hu : u.Canonical := by
    unfold u
    refine ht0.foldl (fun t b ht => ?_) _
    split
    · exact (ht.translate ..).modWave ..
    · exact ht.modWave ..
  split
  · trivial
  · refine ctxTxChecks ?_
    split
    · split
      · exact hu
      · exact (hu.ctxFly ..).reportFlight ..
    · exact ht.ctxLaunch ..

theorem askToken (h : s.Canonical) (w : Wave) (lane : Nat) : (s.askToken w lane).Canonical := by
  unfold State.askToken
  split
  · exact h
  · split
    · exact h.modCaches ..
    · exact h

theorem validates (h : s.Canonical) (asid : Nat) (ws : List TxWord) : (s.validates asid ws).2.Canonical := by
  induction ws generalizing s with
  | nil => exact h
  | cons x xs ih =>
    unfold State.validates
    dsimp only
    split
    exacts [ih (h.readHome ..), h.readHome ..]

theorem turnsFor {k : State → Option State} (h : s.Canonical) (hk : ∀ t, t.Canonical → Given State.Canonical (k t)) (w : Wave) (asid : Nat) (ws : List TxWord) :
    Given State.Canonical (s.turnsFor w asid k ws) := by
  induction ws generalizing s with
  | nil => exact hk s h
  | cons x xs ih =>
    unfold State.turnsFor
    split
    · exact hk s h
    next ga gr _ =>
      have ho := h.orderTurn asid (x.pa / 64) (logicalWave gr ga w) w.time.toNat gr.det
      split
      · trivial
      next e => exact ho.full e
      next e => exact ih (ho.go e)

theorem commitLane (h : s.Canonical) (wave lane : Nat) : Given State.Canonical (s.commitLane wave lane) := by
  unfold State.commitLane
  split
  · trivial
  split
  · trivial
  next w _ _ =>
    refine h.turnsFor (fun t ht => ?_) ..
    have hv := ht.validates (s.asidOf w) ((w.txSet.filter fun x => x.lane = lane).filter fun x => !x.write)
    exact ((((hv.foldl (fun u x hu => (hu.keepBefore ..).writeHome ..) _).removeLines ..).ite hv).modCaches ..).modWave ..

theorem execTxc (h : s.Canonical) (f : FmtTxc) : Kept (execTxc f s) := by
  unfold Machine.execTxc
  refine h.issue fun c t ht => ?_
  split
  · exact ht
  · split
    · trivial
    · extract_lets _ _ _ _ _ begun asked
      have hbegun : begun.Canonical := ht.modWave ..
      have hasked : asked.Canonical := hbegun.foldl (fun _ _ ht1 => ht1.askToken ..) _
      split
      · trivial
      · split
        · trivial
        · exact (hasked.foldl (fun _ _ ht1 => (ht1.commitLane ..).getD ht1) _).ite hasked

end State.Canonical

end Sys2Proof.Machine
end

section
/-! PROOFS. The operations of Machine/MemEvents keep the canonical form (O7). -/

namespace Sys2Proof.Machine

namespace State.Canonical
variable {s t : State}

theorem afterAccess (h : s.Canonical) (a : Access) : (s.afterAccess a).Canonical := by
  unfold State.afterAccess
  extract_lets s1
  have hs1 : s1.Canonical := (h.finishAccess ..).settlePushes
  split
  · exact hs1.ite ((hs1.sweepGang ..).distribute)
  · exact hs1

theorem lanesDo {f : State → Nat → Option State} (h : s.Canonical) (hf : ∀ t l, t.Canonical → Given State.Canonical (f t l)) (ls : List Nat) :
    Given State.Canonical (lanesDo f ls s) := by
  induction ls generalizing s with
  | nil => exact h
  | cons l ls ih => exact (hf s l h).bind fun t ht => ih ht

theorem accessStep {row : String} {id : Nat} {lanes : Lanes} {f : State → Nat → Option State} (h : s.Canonical) (hf : ∀ t l, t.Canonical → Given State.Canonical (f t l)) :
    Kept (accessStep row id lanes f s) := by
  refine Kept.event ((Given.any _).bind fun a _ => ?_)
  split
  · trivial
  · exact (h.lanesDo hf _).map fun t ht => ht.afterAccess a

theorem execWalkComplete (h : s.Canonical) (id : Nat) (lanes : Lanes) (how : Nat) : Kept (execWalkComplete id lanes how s) := by
  unfold Machine.execWalkComplete
  refine Kept.event ?_
  refine (Given.any _).bind ?_
  rintro u hu
  dsimp only at hu ⊢
  split
  · trivial
  · exact (h.report ..).afterAccess ..

theorem execLoadReturn (h : s.Canonical) (id : Nat) (lanes : Lanes) (victim : Option Nat) : Kept (execLoadReturn id lanes victim s) := by
  unfold Machine.execLoadReturn
  refine h.accessStep fun t l ht => ?_
  exact ht.loadLane ..

theorem execHomeSliceWrite (h : s.Canonical) (id : Nat) (lanes : Lanes) (dest : Nat) : Kept (execHomeSliceWrite id lanes dest s) := by
  unfold Machine.execHomeSliceWrite
  refine h.accessStep fun t l ht => ?_
  exact ht.storeLane ..

theorem execStoreAcknowledge (h : s.Canonical) (id : Nat) (lanes : Lanes) (dest : Nat) : Kept (execStoreAcknowledge id lanes dest s) := by
  unfold Machine.execStoreAcknowledge
  refine h.accessStep fun t l ht => ?_
  exact ht.ackLane ..

theorem execAtomicPerform (h : s.Canonical) (id lane dest : Nat) : Kept (execAtomicPerform id lane dest s) := by
  unfold Machine.execAtomicPerform
  refine h.accessStep fun t l ht => ?_
  exact ht.atomicLane ..

theorem execTransactionCommit (h : s.Canonical) (id lane : Nat) : Kept (execTransactionCommit id lane s) := by
  unfold Machine.execTransactionCommit
  refine Kept.event ?_
  refine (Given.any _).bind ?_
  rintro u hu
  split
  · trivial
  · refine (h.commitLane ..).map ?_
    rintro u1 hu1
    exact hu1.ite ((hu1.sweepGang ..).distribute)

theorem execSliceWriteback (h : s.Canonical) (line : Nat) : Kept (execSliceWriteback line s) := by
  unfold Machine.execSliceWriteback
  refine Kept.event ?_
  refine (Given.any _).map ?_
  rintro u hu
  exact (h.foldl (fun _ _ ht => ht.setDirty ..) _).modCaches ..

theorem boundaryTrap (h : s.Canonical) (w : Wave) : Given State.Canonical (s.boundaryTrap w) := by
  unfold State.boundaryTrap
  extract_lets s0 s1
  have hs0 : s0.Canonical := h.reportAll ..
  have hs1 : s1.Canonical := hs0.modWave ..
  split
  · split
    · trivial
    · exact hs0
  · refine (Given.any _).bind ?_
    rintro u hu
    split
    · exact (hs1.modWave ..).trapEntry ..
    · refine (Given.any _).map ?_
      rintro u1 hu1
      exact (hs1.modWave ..).trapEntry ..

theorem execTrapEntry (h : s.Canonical) (wave : Nat) : Kept (execTrapEntry wave s) := by
  unfold Machine.execTrapEntry
  refine Kept.event ?_
  refine (Given.any _).bind ?_
  rintro u hu
  split
  · trivial
  · refine (h.boundaryTrap ..).map ?_
    rintro u1 hu1
    exact hu1.distribute

theorem deliverPush (h : s.Canonical) (p : Push) : (s.deliverPush p).Canonical := by
  unfold State.deliverPush
  extract_lets c base put
  split
  · exact h
  split
  · exact h.logEvent ..
  next s1 e =>
    have h1 : s1.Canonical := (h.ctxNat ..).ok e
    extract_lets prod cons drop log2 full at_ dropped
    have hput (t : State) (ht : t.Canonical) (bs : List Byte) : (put t bs).Canonical := by
      unfold put
      split
      next e2 => exact (ht.ctxWrite ..).ok e2
      · exact ht
    have hdropped (t : State) (ht : t.Canonical) : (dropped t).Canonical := (hput t ht _).congr rfl
    split
    · exact hdropped _ h1
    split
    · exact hdropped _ (h1.logEvent ..)
    next e2 => exact hput _ ((h1.ctxWrite ..).ok e2) _

theorem execConePush (h : s.Canonical) (id : Nat) : Kept (execConePush id s) := by
  unfold Machine.execConePush
  refine Kept.event ?_
  refine (Given.any _).map ?_
  rintro u hu
  exact (h.deliverPush ..).modEng ..

theorem execDropNotice (h : s.Canonical) (id : Nat) : Kept (execDropNotice id s) := by
  unfold Machine.execDropNotice
  refine Kept.event ?_
  refine (Given.any _).map ?_
  rintro u hu
  exact (h.modCaches ..).modEng ..

theorem execPartialBatchTimeout (h : s.Canonical) (queue bin : Nat) : Kept (execPartialBatchTimeout queue bin s) := by
  unfold Machine.execPartialBatchTimeout
  refine Kept.event ((Given.any _).bind fun q _ => (Given.any _).bind fun b _ => ?_)
  split
  · refine State.Canonical.distribute (State.Canonical.launchBatches ?_ _)
    exact h.congr rfl
  · trivial

end State.Canonical

end Sys2Proof.Machine
end

section
/-! PROOFS. The operations of Machine/MatrixEvents keep the canonical form (O7). -/

namespace Sys2Proof.Machine

namespace State.Canonical
variable {s t : State}

theorem lowerTeam (h : s.Canonical) (gang : Nat) (team : Quad) (n : Nat) : (s.lowerTeam gang team n).Canonical := h.modWaves ..

theorem dropEntry (h : s.Canonical) (e : MxEntry) : (s.dropEntry e).Canonical := h.modMatrix ..

theorem engineEvent {row : String} {o : Option State} (h : Given State.Canonical o) : Kept (engineEvent row o) := Kept.event (h.map fun _ ht => ht.distribute)

theorem execMxbegAdmission (h : s.Canonical) (quad : Nat) : Kept (execMxbegAdmission quad s) := by
  unfold Machine.execMxbegAdmission
  refine State.Canonical.engineEvent ((Given.any _).bind fun e _ => ?_)
  split
  · trivial
  refine (Given.any _).map fun gr _ => ?_
  refine State.Canonical.lowerTeam ?_ ..
  refine State.Canonical.congr ?_ rfl
  exact (h.dropEntry e).modMatrix fun m => { m with tiles := m.tiles ++ [s.openTile gr e] }

theorem execPassGrant (h : s.Canonical) (quad : Nat) : Kept (execPassGrant quad s) := by
  unfold Machine.execPassGrant
  refine engineEvent ?_
  refine (Given.any _).bind ?_
  rintro u hu
  split
  · trivial
  · exact (h.dropEntry ..).modMatrix ..

theorem setPresent (h : s.Canonical) (gang : Nat) (lines : List Nat) : (s.setPresent gang lines).Canonical := by
  unfold State.setPresent
  extract_lets s1
  have hs1 : s1.Canonical := h.modGang ..
  exact (hs1.wakePresent ..).ite hs1

theorem engineWrite (h : s.Canonical) (gang o : Nat) (bs : List Byte) : (s.engineWrite gang o bs).2.Canonical := by
  unfold State.engineWrite
  refine State.Canonical.foldlBeside h (fun acc p ha => ?_) _
  dsimp only
  split
  exacts [ha.setPresent .., ha.putLocal ..]

theorem engineWrites (h : s.Canonical) (gang : Nat) (ws : List (Nat × List Byte)) : (s.engineWrites gang ws).2.Canonical := by
  unfold State.engineWrites
  refine foldlBeside ?_ (fun acc b ha => ?_) _
  · exact h
  split
  next e => exact (ha.engineWrite ..).beside e

theorem addCount (h : s.Canonical) (gang o : Nat) (count : Int) : (s.addCount gang o count).2.Canonical := h.engineWrite ..

theorem addCounts (h : s.Canonical) (gang : Nat) (l : List (Nat × Int)) : (s.addCounts gang l).2.Canonical := by
  unfold State.addCounts
  refine foldlBeside ?_ (fun acc b ha => ?_) _
  · exact h
  split
  next e => exact (ha.addCount ..).beside e

theorem teamTrap (h : s.Canonical) (gang : Nat) (team : Quad) (code : Nat) (word : Word) (pcs : SMap 64) (addr aux : Nat) :
    (s.teamTrap gang team code word pcs addr aux).Canonical := h.modWaves ..

theorem clobberTrap (h : s.Canonical) (e : MxEntry) (lines : List Nat) : (s.clobberTrap e lines).Canonical := by
  unfold State.clobberTrap
  split
  · exact h
  · exact h.teamTrap ..

theorem scaleAt (h : s.Canonical) (quad asid : Nat) (priv : Bool) (base : Option Nat) (idx : Nat) : (s.scaleAt quad asid priv base idx).2.Canonical := by
  unfold State.scaleAt
  split
  · exact h
  · split
    next e => exact (h.homeRead ..).ok e
    · exact h.congr rfl

theorem scalesAt (h : s.Canonical) (quad asid : Nat) (priv : Bool) (base : Option Nat) (idxs : List Nat) : (s.scalesAt quad asid priv base idxs).2.Canonical := by
  unfold State.scalesAt
  refine foldlBeside ?_ (fun acc b ha => ?_) _
  · exact h
  split
  next e => exact (ha.scaleAt ..).beside e

theorem slotScales (h : s.Canonical) (quad asid : Nat) (priv : Bool) (sl : Slot) (base : Option Nat) (strip : Bool) (n block : Nat) :
    (s.slotScales quad asid priv sl base strip n block).2.Canonical := by
  unfold State.slotScales
  split
  · split
    · exact h.scalesAt ..
    · split
      next e1 => exact (h.scalesAt ..).beside e1
  · split
    next e => exact (h.scaleAt ..).beside e

theorem foldBlock (h : s.Canonical) (gr : Grid) (priv : Bool) (t : Tile) (block : Nat) : (s.foldBlock gr priv t block).2.2.Canonical := by
  unfold State.foldBlock
  split
  next e =>
    split
    next e1 =>
      extract_lets _
      split
      next e2 => exact (((((h.slotScales ..).beside e).slotScales ..).beside e1).engineWrites ..).beside e2

theorem putTile (h : s.Canonical) (t : Tile) : (s.putTile t).Canonical := h.modMatrix ..

theorem arrayFree (h : s.Canonical) (e : MxEntry) : (s.arrayFree e).Canonical := by
  unfold State.arrayFree
  extract_lets s1 s2
  have hs1 : s1.Canonical := h.modMatrix ..
  have hs2 : s2.Canonical := (hs1.modMatrix ..).ite hs1
  exact hs2.sweepGang ..

theorem zeroTile (h : s.Canonical) (t : Tile) : (s.zeroTile t).2.2.Canonical := by
  unfold State.zeroTile
  extract_lets _
  split
  · split
    next e1 => exact (h.engineWrite ..).beside e1
  · exact h

theorem runPass (h : s.Canonical) (gr : Grid) (e : MxEntry) (t : Tile) (w : PassWork) : (s.runPass gr e t w).Canonical := by
  unfold State.runPass
  split
  · split
    · extract_lets _ _ _ _ _ _ _ _ s0 _ _
      have hs0 : s0.Canonical := h.congr rfl
      split
      next e5 =>
        split
        · extract_lets _
          exact (((((hs0.addCounts ..).beside e5).putTile ..).lowerTeam ..).clobberTrap ..).ite ((((((hs0.addCounts ..).beside e5).putTile ..).lowerTeam ..).clobberTrap ..).teamTrap ..)
        · split
          next e7 => exact ((((iteBeside2 (((hs0.addCounts ..).beside e5).foldBlock ..) ((hs0.addCounts ..).beside e5)).beside2 e7).putTile ..).lowerTeam ..).clobberTrap ..
  · exact h.lowerTeam ..

theorem runFold (h : s.Canonical) (e : MxEntry) (t : Tile) : (s.runFold e t).Canonical := by
  unfold State.runFold
  extract_lets _ _ _
  split
  next e1 => exact ((((h.addCounts ..).beside e1).putTile ..).lowerTeam ..).clobberTrap ..

theorem runEntry (h : s.Canonical) (e : MxEntry) : Given State.Canonical (s.runEntry e) := by
  unfold State.runEntry
  split
  · exact h
  · split
    · trivial
    · split
      · exact h.lowerTeam ..
      · split
        · trivial
        · split
          · split
            · trivial
            · split
              next e4 => exact (((h.zeroTile ..).beside2 e4).clobberTrap ..).runPass ..
          · split
            · trivial
            · exact h.runPass ..
          · split
            · exact h.lowerTeam ..
            · split
              · trivial
              · exact h.runPass ..
          · exact h.runFold ..
          · exact (h.modMatrix ..).lowerTeam ..
          · trivial

theorem execPassComplete (h : s.Canonical) (quad : Nat) : Kept (execPassComplete quad s) := by
  unfold Machine.execPassComplete
  refine engineEvent ?_
  refine (Given.any _).bind ?_
  rintro u hu
  refine (h.runEntry ..).map ?_
  rintro u1 hu1
  exact hu1.arrayFree ..

theorem drainRow (h : s.Canonical) (gang quad asid : Nat) (priv : Bool) (pages : List TlbEntry) (va : Nat) (bs : List Byte) :
    (s.drainRow gang quad asid priv pages va bs).Canonical := by
  unfold State.drainRow
  refine h.foldl (fun t b ht => ?_) _
  extract_lets _
  split
  · exact (ht.keepBefore ..).writeHome ..
  · split
    next e1 => exact (((ht.translate ..).beside e1).keepBefore ..).writeHome ..
    next e1 => exact (ht.translate ..).beside e1

theorem runDrain (h : s.Canonical) (gr : Grid) (e : MxEntry) (t0 : Tile) : (s.runDrain gr e t0).Canonical := by
  unfold State.runDrain
  extract_lets _ _
  split
  · split
    next e2 =>
      split
      next e3 =>
        split
        next e4 =>
          extract_lets _
          split
          next e5 =>
            have h1 := (iteBeside2 (h.foldBlock ..) h).beside2 e2
            have h2 := (iteBeside (h1.scaleAt ..) h1).beside e3
            have h3 := (iteBeside (h2.scaleAt ..) h2).beside e4
            have h4 := (iteBeside (h3.engineWrites ..) (h3.foldl (fun _ _ ht => ht.drainRow ..) _)).beside e5
            exact ((h4.putTile ..).lowerTeam ..).clobberTrap ..

theorem execDrainComplete (h : s.Canonical) (quad : Nat) : Kept (execDrainComplete quad s) := by
  unfold Machine.execDrainComplete
  refine engineEvent ?_
  refine (Given.any _).bind ?_
  rintro u hu
  split
  · split
    · trivial
    · split
      · split
        · trivial
        · exact (h.runDrain ..).arrayFree ..
      · exact (h.lowerTeam ..).arrayFree ..
  · split
    · trivial
    · split
      · split
        · trivial
        · exact (h.runDrain ..).arrayFree ..
      · exact (h.lowerTeam ..).arrayFree ..
  · split
    · trivial
    · split
      · split
        · trivial
        · exact (h.runDrain ..).arrayFree ..
      · exact (h.lowerTeam ..).arrayFree ..
  · trivial

end State.Canonical

end Sys2Proof.Machine
end

section
/-! PROOFS. The operations of Machine/SchedEvents keep the canonical form (O7). -/

namespace Sys2Proof.Machine

namespace State.Canonical
variable {s t : State}

theorem expire (h : s.Canonical) (gang : Nat) : (s.expire gang).Canonical := by
  unfold State.expire
  extract_lets src
  have hsrc : src.Canonical := h.modGang ..
  exact hsrc.congr rfl

theorem execQuantumExpiry (h : s.Canonical) (gang : Nat) : Kept (execQuantumExpiry gang s) := by
  unfold Machine.execQuantumExpiry
  refine Kept.event ?_
  refine (Given.any _).bind ?_
  rintro u hu
  refine (Given.any _).bind ?_
  rintro u1 hu1
  split
  · exact h.expire ..
  · trivial

theorem withdrawEntries (h : s.Canonical) (gang : Nat) : (s.withdrawEntries gang).Canonical := h.modMatrix ..

theorem putAway (h : s.Canonical) (gang area size : Nat) : (s.putAway gang area size).Canonical := by
  unfold State.putAway
  extract_lets _ _ src
  have hsrc : src.Canonical := h.modGang ..
  exact hsrc.congr rfl

theorem stayOn (h : s.Canonical) (gr : Grid) (ga : Gang) (size : Nat) : (s.stayOn gr ga size).Canonical := by
  unfold State.stayOn
  extract_lets s1 _
  have hs1 : s1.Canonical := h.modGang ..
  exact ((hs1.modWaves ..).wakePresent ..).logEvent ..

theorem evict (h : s.Canonical) (gang : Nat) (full : Bool) : (s.evict gang full).Canonical := by
  unfold State.evict
  split
  · exact h
  · split
    · exact h
    · extract_lets s1 _
      have hs1 : s1.Canonical := (h.modWaves ..).withdrawEntries ..
      split
      · exact h.stayOn ..
      · split
        · exact h.stayOn ..
        next e3 => exact ((((hs1.noteReads ..).ctxWrite ..).ok e3).putAway ..).distribute

theorem leave (h : s.Canonical) (ga : Gang) (full : Bool) : Given State.Canonical (s.leave ga full) := by
  unfold State.leave
  split
  · exact h.evict ..
  · split
    · trivial
    · exact h.modGang ..

theorem request (h : s.Canonical) (gang : Nat) : Given State.Canonical (s.request gang) := by
  unfold State.request
  split
  · exact h.congr rfl
  · trivial

theorem execGangEviction (h : s.Canonical) (gang : Nat) : Kept (execGangEviction gang s) := by
  unfold Machine.execGangEviction
  refine Kept.event ?_
  refine (Given.any _).bind ?_
  rintro u hu
  split
  · split
    · exact h.request ..
    · exact h.leave ..
  · trivial

theorem execForcedSave (h : s.Canonical) (gang : Nat) : Kept (execForcedSave gang s) := by
  unfold Machine.execForcedSave
  refine Kept.event ?_
  refine (Given.any _).bind ?_
  rintro u hu
  refine (Given.any _).bind ?_
  rintro u1 hu1
  split
  · split
    · exact h.request ..
    · exact h.leave ..
  · trivial

theorem execPreemptHoldTimeout (h : s.Canonical) (gang : Nat) : Kept (execPreemptHoldTimeout gang s) := by
  unfold Machine.execPreemptHoldTimeout
  refine Kept.event ?_
  refine (Given.any _).bind ?_
  rintro u hu
  split
  · exact h.leave ..
  · trivial

theorem bringWave (h : s.Canonical) (gr : Grid) (first : Nat) (w : Wave) (bs : List Byte) : (s.bringWave gr first w bs).Canonical := by
  unfold State.bringWave
  extract_lets _ _ _ _ _ _
  exact h.modWave ..

theorem bringLog (h : s.Canonical) (core : Nat) (a : Access) (bs : List Byte) : (s.bringLog core a bs).Canonical := by
  unfold State.bringLog
  extract_lets _ _
  exact h.modFlight ..

theorem bringRecords (h : s.Canonical) (asid : Nat) (old : List Access) (rs : List (Wave × List Byte)) : Given State.Canonical (s.bringRecords asid old rs) := by
  induction rs generalizing s with
  | nil => exact h
  | cons r rest ih =>
    unfold State.bringRecords
    split
    · exact ih h
    extract_lets mask
    split
    · trivial
    next e => exact ih ((h.ctxWrite ..).ok e)

theorem bringMatrix (h : s.Canonical) (gang quad : Nat) : (s.bringMatrix gang quad).Canonical := h.modMatrix ..

theorem bringBack (h : s.Canonical) (gr : Grid) (ga : Gang) (first : Nat) (area : List Byte) : Given State.Canonical (s.bringBack gr ga first area) := by
  unfold State.bringBack
  extract_lets _ _ _ _ s1 away s2 moved fresh s3 _ _
  have hs1 : s1.Canonical := h.modGang ..
  have haway : away.Canonical := hs1.congr rfl
  have hs2 : s2.Canonical := by
    unfold s2
    refine haway.foldl (fun t b ht => ?_) _
    split
    · exact ht.bringWave ..
    · exact ht
  have hmoved : moved.Canonical := hs2.congr rfl
  have hfresh : fresh.Canonical := hmoved.foldl (fun _ _ ht => ht.invalidateL1 ..) _
  have hs3 : s3.Canonical := by
    unfold s3
    refine hfresh.foldl (fun t b ht => ?_) _
    split
    · split
      · exact ht.bringLog ..
      · exact ht
    · exact ht
  refine (hs3.bringRecords ..).map ?_
  rintro u hu
  exact hu.bringMatrix ..

theorem execGangRestore (h : s.Canonical) (gang : Nat) : Kept (execGangRestore gang s) := by
  unfold Machine.execGangRestore
  refine Kept.event ?_
  split
  · split
    · trivial
    refine (Given.any _).bind fun ga _ => (Given.any _).bind fun at_ _ => (Given.any _).bind fun gr _ => (Given.any _).bind fun first _ => ?_
    split
    · trivial
    next e =>
      refine Given.map (State.Canonical.bringBack ?_ ..) fun t ht => ht.distribute
      exact State.Canonical.congr ((h.ctxRead ..).ok e) rfl
  · trivial

end State.Canonical

end Sys2Proof.Machine
end

section
/-! PROOFS. The operations of Machine/Completions keep the canonical form (O7). -/

namespace Sys2Proof.Machine

namespace State.Canonical
variable {s t : State}

theorem modComp (h : s.Canonical) (id : Nat) (f : CompQueue → CompQueue) : (s.modComp id f).Canonical := h.modHost ..

theorem signal (h : s.Canonical) (vector : Nat) : (s.signal vector).Canonical := h.modHost ..

theorem writeEntry (h : s.Canonical) (q : CompQueue) (e : BitVec 128) : (s.writeEntry q e).Canonical := by
  unfold State.writeEntry
  extract_lets s1 _ s2
  have hs1 : s1.Canonical := (h.putNat ..).putNat ..
  have hs2 : s2.Canonical := hs1.modComp ..
  exact (hs2.signal ..).ite hs2

theorem flushComp (h : s.Canonical) (id n : Nat) : (s.flushComp id n).Canonical := by
  induction n generalizing s with
  | zero => exact h
  | succ n ih =>
    unfold State.flushComp
    split
    · exact h
    split
    · exact h
    split
    exacts [ih ((h.modComp ..).writeEntry ..), h]

theorem complete (h : s.Canonical) (cq : Nat) (e : BitVec 128) : (s.complete cq e).Canonical := by
  unfold State.complete
  extract_lets s1
  have hs1 : s1.Canonical := h.modComp ..
  exact hs1.flushComp ..

theorem execHeldCompletion (h : s.Canonical) (queue : Nat) : Kept (execHeldCompletion queue s) := by
  unfold Machine.execHeldCompletion
  refine Kept.event ?_
  refine (Given.any _).bind ?_
  rintro u hu
  split
  · exact h.flushComp ..
  · trivial

theorem execCqTimer (h : s.Canonical) (queue : Nat) : Kept (execCqTimer queue s) := by
  unfold Machine.execCqTimer
  refine Kept.event ?_
  refine (Given.any _).bind ?_
  rintro u hu
  split
  · exact (h.modComp ..).signal ..
  · trivial

theorem execHeldEventWrite (h : s.Canonical) : Kept (execHeldEventWrite s) := by
  unfold Machine.execHeldEventWrite
  refine Kept.event ?_
  split
  · split
    · exact (h.modHost ..).writeEvent ..
    · trivial
  · trivial

theorem execCommandClaim (h : s.Canonical) (queue : Nat) : Kept (execCommandClaim queue s) := by
  unfold Machine.execCommandClaim
  refine Kept.event ?_
  refine (Given.any _).bind ?_
  rintro u hu
  dsimp only at hu ⊢
  split
  · split
    · exact h.kilnRead ..
    · trivial
  · exact ((((h.kilnRead ..).kilnRead ..).newId).putNat ..).modHost ..

theorem answer (h : s.Canonical) (queue tag addr cstat : Nat) : (s.answer queue tag addr cstat).Canonical := h.complete ..

theorem runCommand {row : String} {id : Nat} {ok : Command → Bool} {run : Command → State → Option State} (h : s.Canonical)
    (hr : ∀ c t, t.Canonical → Given State.Canonical (run c t)) : Kept (runCommand row id ok run s) := by
  refine Kept.event ((Given.any _).bind fun c _ => ?_)
  split
  · trivial
  · exact hr c _ (h.modHost ..)

theorem execUnlistedOp (h : s.Canonical) (id : Nat) : Kept (execUnlistedOp id s) := by
  unfold Machine.execUnlistedOp
  refine h.runCommand fun c t ht => ?_
  exact ht.answer ..

end State.Canonical

end Sys2Proof.Machine
end

section
/-! PROOFS. The operations of Machine/Convert keep the canonical form (O7). -/

namespace Sys2Proof.Machine

namespace State.Canonical
variable {s t : State}

theorem ctxPutCvt (h : s.Canonical) (c : Ctx) (code d : Nat) (f : Nat → Quad) : (c.putCvt code d f s).Canonical := (h.ctxPutV2 ..).ite (h.ctxPutV ..)

theorem execCvtFromInteger (h : s.Canonical) (f : FmtCvt) : Kept (execCvtFromInteger f s) := by
  unfold Machine.execCvtFromInteger
  refine h.issueOk fun c t ht => ?_
  exact ht.ctxPutCvt ..

theorem execCvtFromFloat (h : s.Canonical) (f : FmtCvtF) : Kept (execCvtFromFloat f s) := by
  unfold Machine.execCvtFromFloat
  refine h.issueOk fun c t ht => ?_
  exact ht.ctxPutCvt ..

theorem execPack (h : s.Canonical) (f : FmtR) : Kept (execPack f s) := h.aluR ..

theorem execUnpk (h : s.Canonical) (f : FmtUnpk) : Kept (execUnpk f s) := by
  unfold Machine.execUnpk
  refine h.issueOk fun c t ht => ?_
  split
  · exact ht
  · extract_lets _
    exact ht.foldl (fun _ _ ht1 => ht1.ctxPutV ..) _

end State.Canonical

end Sys2Proof.Machine
end

section
/-! PROOFS. The operations of Machine/Copy keep the canonical form (O7). -/

namespace Sys2Proof.Machine

namespace State.Canonical
variable {s t : State}

theorem copyScaleEntry (h : s.Canonical) (c : Copy) (gr : Grid) (core : Nat) : Tries (c.scaleEntry gr core s) := by
  unfold Copy.scaleEntry
  split
  · exact h
  split
  next e =>
    split
    exacts [(h.resource ..).error e, h]
  next s1 e =>
    have h1 : s1.Canonical := (h.resource ..).ok e
    split
    · exact h1
    split
    exacts [h1, h1]

theorem copyCheck (h : s.Canonical) (c : Copy) (gr : Grid) (core d a : Nat) : Tries (c.check gr core d a s) := by
  unfold Copy.check
  refine (must h _).bind fun _ _ => ?_
  split
  · extract_lets ends
    have hends (u : PUnit) : Tries (ends u) := by
      refine (inside h _).bind fun _ _ => (inside h _).bind fun _ _ => ?_
      exact h
    clear_value ends
    split
    exacts [h, hends _]
  extract_lets ends
  have hends (u : PUnit) : Tries (ends u) := by
    refine (inside h _).bind fun _ _ => (h.copyScaleEntry ..).bind ?_
    rintro ⟨e, s1⟩ h1
    dsimp only
    split
    · refine (State.Canonical.resource h1 ..).bind ?_
      rintro ⟨e, s2⟩ h2
      refine (must h2 _).bind fun _ _ => ?_
      exact h2
    · exact h1
  clear_value ends
  split
  exacts [h, hends _]

theorem engineRead (h : s.Canonical) (c : Copy) (w : Wave) (va n : Nat) : Reads (s.engineRead c w va n) := by
  unfold State.engineRead
  split
  · trivial
  · split
    · trivial
    next e =>
      split
      next e1 => exact (((h.translate ..).beside e).readHome ..).beside e1

theorem engineStore (h : s.Canonical) (c : Copy) (w : Wave) (va : Nat) (bs : List Byte) : Answers (fun _ => True) State.Canonical (s.engineStore c w va bs) := by
  unfold State.engineStore
  split
  · trivial
  · split
    · trivial
    next e =>
      split
      · exact ((h.translate ..).beside e).stage ..
      · exact ((h.translate ..).beside e).writeHome ..

theorem copyPart (h : s.Canonical) (c : Copy) (w : Wave) (src dst n : Nat) : (s.copyPart c w src dst n).2.Canonical := by
  unfold State.copyPart
  extract_lets got out
  have hgot : Reads got := by
    unfold got
    split
    exacts [h.engineRead .., h]
  have hout (bs : List Byte) (t : State) (ht : t.Canonical) : (out bs t).2.Canonical := by
    unfold out
    split
    · split
      next e => exact (ht.engineStore ..).ok e
      · exact ht
    · exact ht.engineWrite ..
  clear_value got
  cases got with
  | ok r => exact hout _ _ (State.Canonical.congr hgot rfl)
  | error f =>
    dsimp only
    split
    · split
      next e => exact (h.translate ..).beside e
      next e => exact (h.translate ..).beside e
    · exact h

theorem copyPiece (h : s.Canonical) (c : Copy) (w : Wave) (p : Nat × Nat) : (s.copyPiece c w p).2.Canonical := by
  unfold State.copyPiece
  extract_lets _
  refine foldlBeside ?_ (fun acc b ha => ?_) _
  · exact h
  exact ha.copyPart ..

theorem readElem (h : s.Canonical) (c : Copy) (w : Wave) (i k : Nat) : (s.readElem c w i k).2.2.Canonical := by
  unfold State.readElem
  refine List.foldlRecOn (motive := fun x : Option Nat × Copy × State => x.2.2.Canonical) _ _ h fun acc ha p _ => ?_
  split
  · exact ha
  next e => exact (State.Canonical.engineRead ha ..).ok e

theorem maxAbs (h : s.Canonical) (c : Copy) (w : Wave) (es : List (Nat × Nat)) : (s.maxAbs c w es).2.2.Canonical := by
  unfold State.maxAbs
  exact List.foldlRecOn (motive := fun x : Nat × Copy × State => x.2.2.Canonical) _ _ h fun acc ha e _ => State.Canonical.readElem ha ..

theorem scaleFor (h : s.Canonical) (c : Copy) (w : Wave) (i j : Nat) : (s.scaleFor c w i j).2.2.Canonical := by
  unfold State.scaleFor
  split
  · exact h
  extract_lets idx va
  split
  · exact h
  split
  · split
    next e => exact (h.engineRead ..).ok e
    · exact h.congr rfl
  · have hm := h.maxAbs c w (c.blockElems i j)
    dsimp only
    split
    next e => exact (State.Canonical.engineStore hm ..).ok e
    · exact hm

theorem convBit (h : s.Canonical) (c : Copy) (w : Wave) (i k p : Nat) : (s.convBit c w i k p).2.2.Canonical := by
  unfold State.convBit
  have hr := h.readElem c w i k
  dsimp only
  split
  · exact hr
  split
  · exact hr
  · exact State.Canonical.scaleFor hr ..

theorem setLim (h : s.Canonical) (gang k x : Nat) : (s.setLim gang k x).Canonical := h.modGang ..

theorem copyMap (h : s.Canonical) (c : Copy) (w : Wave) (g : Nat) : Tries (s.copyMap c w g) := by
  unfold State.copyMap
  extract_lets _
  split
  · exact h
  · exact h.mapByteAs ..

theorem readMaps (h : s.Canonical) (c : Copy) (w : Wave) : (s.readMaps c w).2.2.Canonical := by
  unfold State.readMaps
  refine List.foldlRecOn (motive := fun x : List (Nat × Nat × Bool) × Copy × State => x.2.2.Canonical) _ _ h fun acc ha g _ => ?_
  split
  next e => exact (State.Canonical.copyMap ha ..).ok e
  next e => exact (State.Canonical.copyMap ha ..).error e

theorem startTensor (h : s.Canonical) (c : Copy) (w : Wave) : (s.startTensor c w).2.Canonical := by
  unfold State.startTensor
  split
  · exact h
  split
  · exact h
  split
  · exact h
  have hr := h.readMaps c w
  dsimp only
  refine State.Canonical.settlePushes (State.Canonical.foldl (State.Canonical.setLim hr ..) (fun t x ht => ?_) _)
  split
  · refine State.Canonical.foldl ht (fun u q hu => ?_) _
    split
    exacts [hu.conePush .., hu]
  · exact ht

theorem losePlanes (h : s.Canonical) (c : Copy) (q : Nat) : (s.losePlanes c q).2.Canonical := by
  unfold State.losePlanes
  extract_lets s1
  have hs1 : s1.Canonical := h.setLim ..
  split
  next e => exact (hs1.engineWrites ..).beside e

theorem refusedPlane (h : s.Canonical) (c : Copy) (w : Wave) (g p : Nat) : (s.refusedPlane c w g p).2.Canonical := by
  unfold State.refusedPlane
  extract_lets _
  split
  next e => exact ((h.copyMap ..).ok e).losePlanes ..
  next e => exact ((h.copyMap ..).error e).losePlanes ..

theorem tensorBit (h : s.Canonical) (c : Copy) (w : Wave) (i k p : Nat) : (s.tensorBit c w i k p).2.2.Canonical := by
  unfold State.tensorBit
  extract_lets _ _
  split
  · exact h
  · split
    next e => exact (h.engineRead ..).ok e
    · split
      · split
        next e2 => exact (h.refusedPlane ..).beside e2
      · exact h

theorem chunkBits (h : s.Canonical) (c : Copy) (w : Wave) (k : Chunk) : (s.chunkBits c w k).2.2.2.Canonical := by
  unfold State.chunkBits
  refine List.foldlRecOn (motive := fun x : Nat × Nat × Copy × State => x.2.2.2.Canonical) _ _ h fun acc ha n _ => ?_
  obtain ⟨v, keep, c0, s0⟩ := acc
  have hb : (if c.conv = 3 then s0.tensorBit c0 w k.i (64 * k.j + n) k.p else s0.convBit c0 w k.i (64 * k.j + n) k.p).2.2.Canonical :=
    iteBeside2 (State.Canonical.tensorBit ha ..) (State.Canonical.convBit ha ..)
  dsimp only
  split
  exacts [hb, hb, hb]

theorem convChunk (h : s.Canonical) (c : Copy) (w : Wave) (all : List Nat) (k : Chunk) : (s.convChunk c w all k).2.Canonical := by
  unfold State.convChunk
  split
  next e =>
    extract_lets _ _
    split
    next e1 =>
      split
      next e2 => exact (((iteBeside (((h.chunkBits ..).beside3 e).freeBytes ..) ((h.chunkBits ..).beside3 e)).beside e1).engineWrite ..).beside e2

theorem convPiece (h : s.Canonical) (c : Copy) (w : Wave) (p : Nat × Nat) : (s.convPiece c w p).2.Canonical := by
  unfold State.convPiece
  split
  next e =>
    extract_lets _
    refine foldlBeside ?_ (fun acc b ha => ?_) _
    · exact (h.startTensor ..).beside e
    exact ha.convChunk ..

theorem putCopy (h : s.Canonical) (c : Copy) : (s.putCopy c).Canonical := h.modEng ..

theorem arrivePiece (h : s.Canonical) (c : Copy) (w : Wave) (k : Nat) (p : Nat × Nat) : (s.arrivePiece c w k p).Canonical := by
  unfold State.arrivePiece
  extract_lets s1
  have hs1 : s1.Canonical := by
    unfold s1
    split
    · exact h.acceptAll ..
    · exact h
  split
  next e =>
    extract_lets s2
    have hs2 : s2.Canonical := ((iteBeside (hs1.copyPiece ..) (hs1.convPiece ..)).beside e).putCopy ..
    exact hs2.ite (hs2.setPresent ..)

theorem arrival (h : s.Canonical) (cmd k : Nat) : Given State.Canonical (s.arrival cmd k) := by
  unfold State.arrival
  refine (Given.any _).bind ?_
  rintro u hu
  refine (Given.any _).bind ?_
  rintro u1 hu1
  refine (Given.any _).bind ?_
  rintro ⟨x, u2⟩ hu2
  split
  · trivial
  · exact h.arrivePiece ..

theorem execCopyLineArrival (h : s.Canonical) (cmd k : Nat) : Kept (execCopyLineArrival cmd k s) := by
  unfold Machine.execCopyLineArrival
  refine Kept.event ?_
  exact h.arrival ..

theorem finishCopy (h : s.Canonical) (c : Copy) : (s.finishCopy c).Canonical := by
  unfold State.finishCopy
  extract_lets s1 s2
  have hs1 : s1.Canonical := (h.modEng ..).setPresent ..
  have hs2 : s2.Canonical := hs1.modWave ..
  exact (hs2.sweepGang ..).distribute

theorem completion (h : s.Canonical) (cmd : Nat) : Given State.Canonical (s.completion cmd) := by
  unfold State.completion
  refine (Given.any _).bind ?_
  rintro u hu
  split
  · trivial
  · exact h.finishCopy ..

theorem execCopyComplete (h : s.Canonical) (cmd : Nat) : Kept (execCopyComplete cmd s) := by
  unfold Machine.execCopyComplete
  refine Kept.event ?_
  exact h.completion ..

theorem execQueueFenceComplete (h : s.Canonical) (cmd : Nat) : Kept (execQueueFenceComplete cmd s) := by
  unfold Machine.execQueueFenceComplete
  refine Kept.event ?_
  refine (Given.any _).bind ?_
  rintro u hu
  refine (Given.any _).bind ?_
  rintro u1 hu1
  split
  · exact h.finishCopy ..
  · trivial

theorem copyWhole (h : s.Canonical) (cmd n : Nat) : (s.copyWhole cmd n).Canonical := by
  unfold State.copyWhole
  extract_lets s1
  have hs1 : s1.Canonical := h.foldl (fun _ _ ht => (ht.arrival ..).getD ht) _
  exact (hs1.completion ..).getD hs1

theorem ctxEnqueue (h : s.Canonical) (c : Ctx) (k : Copy) : (c.enqueue k s).Canonical := by
  unfold Ctx.enqueue
  extract_lets s1 src
  have hs1 : s1.Canonical := h.modGang ..
  have hsrc : src.Canonical := (hs1.modEng ..).modWave ..
  exact hsrc.congr rfl

theorem ctxCpy (h : s.Canonical) (c : Ctx) (f : FmtK) : (c.cpy f s).Canonical := by
  unfold Ctx.cpy
  split
  · exact h
  · split
    · trivial
    · extract_lets _
      split
      next e =>
        split
        · trivial
        · exact ((h.copyCheck ..).error e).ctxFailOn ..
      next e =>
        extract_lets _
        split
        · exact ((h.copyCheck ..).ok e).modWave ..
        · split
          · trivial
          · split
            · split
              · trivial
              · split
                · trivial
                · exact (((h.copyCheck ..).ok e).ctxEnqueue ..).copyWhole ..
            · exact ((h.copyCheck ..).ok e).ctxEnqueue ..

theorem execCpy (h : s.Canonical) (f : FmtK) : Kept (execCpy f s) := by
  unfold Machine.execCpy
  refine h.issue fun c t ht => ?_
  exact ht.ctxCpy ..

theorem execCpyf (h : s.Canonical) (f : FmtKf) : Kept (execCpyf f s) := by
  unfold Machine.execCpyf
  refine h.issue fun c t ht => ?_
  split
  · exact ht
  · split
    · trivial
    · exact ht.ctxEnqueue ..

end State.Canonical

end Sys2Proof.Machine
end

section
/-! PROOFS. The operations of Machine/Launches keep the canonical form (O7). -/

namespace Sys2Proof.Machine

namespace State.Canonical
variable {s t : State}

theorem openBins (h : s.Canonical) (fuel : Nat) (g : Grid) : (State.openBins fuel g s).Canonical := by
  induction fuel generalizing s g with
  | zero => exact h
  | succ fuel ih =>
    unfold State.openBins
    refine h.foldl (fun t p ht => ?_) _
    split
    · exact ht
    split
    · exact ht
    dsimp only
    split
    · exact ht
    · refine ih ?_ _
      refine State.Canonical.noteReads ?_ ..
      exact State.Canonical.congr (ht.newId.newId) rfl

theorem launchAnswer (h : s.Canonical) (g : Grid) (status cstat : Nat) : (s.launchAnswer g status cstat).Canonical := h.complete ..

theorem unreadLaunch (h : s.Canonical) (queue tag : Nat) : (s.unreadLaunch queue tag).Canonical := by
  unfold State.unreadLaunch
  split
  next e => exact ((h.freeBytes ..).beside e).complete ..

theorem begin (h : s.Canonical) (g : Grid) : (s.begin g).Canonical := by
  unfold State.begin
  extract_lets _ _ s1
  have hs1 : s1.Canonical := by
    unfold s1
    refine State.Canonical.openBins ?_ ..
    exact h.congr rfl
  split
  · exact hs1
  · refine State.Canonical.distribute ?_
    exact hs1.congr rfl

theorem launch (h : s.Canonical) (g : Grid) : (s.launch g).Canonical := by
  unfold State.launch
  split
  · exact h.begin ..
  · exact h.launchAnswer ..

/-- What a command's reads leave, and then what it does. -/
theorem afterReads {k : State → State} (h : s.Canonical) (hk : ∀ t, t.Canonical → (k t).Canonical) (asid : Nat) (l : List Look) : (s.afterReads asid l k).Canonical := by
  unfold State.afterReads
  exact (hk _ (h.noteReads ..)).congr rfl

theorem execLaunch (h : s.Canonical) (id : Nat) : Kept (execLaunch id s) := by
  unfold Machine.execLaunch
  refine h.runCommand fun c t ht => ?_
  refine afterReads ht (fun u hu => ?_) ..
  split
  exacts [hu.unreadLaunch .., hu.newId.launch ..]

theorem acquireAll (h : s.Canonical) : s.acquireAll.Canonical := by
  unfold State.acquireAll
  extract_lets src
  have hsrc : src.Canonical := h.modCaches ..
  exact hsrc.congr rfl

theorem execSignalCheck (h : s.Canonical) (grid : Nat) : Kept (execSignalCheck grid s) := by
  unfold Machine.execSignalCheck
  refine Kept.event ((Given.any _).bind fun g _ => ?_)
  split
  · trivial
  extract_lets u
  have hu : u.Canonical := h.noteReads ..
  split
  · refine State.Canonical.launchAnswer ?_ ..
    exact hu.congr rfl
  · split
    exacts [trivial, hu]
  · refine State.Canonical.distribute ?_
    refine State.Canonical.congr (s := u.acquireAll.modGrid grid fun x => { x with phase := .running }) ?_ rfl
    exact hu.acquireAll.modGrid ..

theorem addSigout (h : s.Canonical) (g : Grid) : (s.addSigout g).2.Canonical := by
  unfold State.addSigout
  split
  · exact h
  split
  · exact h.logEvent ..
  next e =>
    have h1 := (h.ctxNat ..).ok e
    split
    next e2 => exact (State.Canonical.ctxWrite h1 ..).ok e2
    · exact h1

theorem producerEnded (h : s.Canonical) (g : Grid) : (s.producerEnded g).Canonical := by
  unfold State.producerEnded
  extract_lets _ _
  exact h.congr rfl

theorem closeGrid (h : s.Canonical) (g : Grid) : (s.closeGrid g).Canonical := by
  unfold State.closeGrid
  extract_lets s1
  have hs1 : s1.Canonical := by
    unfold s1
    refine State.Canonical.producerEnded ?_ ..
    exact h.congr rfl
  split
  next e =>
    split
    · exact (iteBeside hs1 (hs1.addSigout ..)).beside e
    · split
      · exact ((iteBeside hs1 (hs1.addSigout ..)).beside e).launchAnswer ..
      · exact ((iteBeside hs1 (hs1.addSigout ..)).beside e).launchAnswer ..

theorem execLaunchComplete (h : s.Canonical) (grid : Nat) : Kept (execLaunchComplete grid s) := by
  unfold Machine.execLaunchComplete
  refine Kept.event ?_
  refine (Given.any _).bind ?_
  rintro u hu
  split
  · exact (h.closeGrid ..).distribute
  · trivial

theorem endResident (h : s.Canonical) (ga : Gang) : (s.endResident ga).Canonical := by
  unfold State.endResident
  extract_lets _ s1 s2
  have hs1 : s1.Canonical := (h.modGang ..).dropLogged ..
  have hs2 : s2.Canonical := (hs1.modEng ..).modMatrix ..
  exact hs2.foldl (fun _ _ ht => ht.endLanes ..) _

theorem endAway (h : s.Canonical) (ga : Gang) : (s.endAway ga).Canonical := by
  unfold State.endAway
  extract_lets _
  refine State.Canonical.gangEnded ?_ ..
  refine State.Canonical.modGang ?_ ..
  exact h.congr rfl

theorem endLaunch (h : s.Canonical) (g : Grid) (cstat : Nat) : (s.endLaunch g cstat).Canonical := by
  unfold State.endLaunch
  extract_lets s1 s2
  have hs1 : s1.Canonical := by
    unfold s1
    refine State.Canonical.modGrid ?_ ..
    exact h.congr rfl
  have hs2 : s2.Canonical := hs1.foldl (fun _ _ ht => (ht.endResident ..).ite (ht.endAway ..)) _
  split
  · exact hs2.congr rfl
  · exact hs2

theorem execCancel (h : s.Canonical) (id : Nat) : Kept (execCancel id s) := by
  unfold Machine.execCancel
  refine h.runCommand fun c t ht => ?_
  split
  · exact ht.answer ..
  · refine State.Canonical.answer (State.Canonical.ite ?_ (ht.endLaunch ..).distribute) ..
    refine State.Canonical.launchAnswer ?_ ..
    exact ht.congr rfl

end State.Canonical

end Sys2Proof.Machine
end

section
/-! PROOFS. The operations of Machine/Queries keep the canonical form (O7). -/

namespace Sys2Proof.Machine

namespace State.Canonical
variable {s t : State}

theorem askerNode (h : s.Canonical) (q : Asker) (n : Nat) : Tries (q.node s n) := by
  unfold Asker.node
  split
  · exact h
  · split
    · exact h
    · exact (h.nodeRead ..).map fun _ h => h

theorem askerBlock (h : s.Canonical) (q : Asker) (ns : List Nat) : Tries (q.block ns s) := by
  induction ns generalizing s with
  | nil => exact h
  | cons n ns ih =>
    refine (h.askerNode q n).bind ?_
    rintro ⟨b, s1⟩ h1
    refine (ih h1).bind ?_
    rintro ⟨r, s2⟩ h2
    exact h2

theorem askerSettle {α : Type} {qa : α → Prop} {r : Except Failed α} {k : α → Got × State} (hr : Answers (fun f => f.2.2.Canonical) qa r) (hk : ∀ x, qa x → (k x).2.Canonical)
    (q : Asker) (node : Nat) (nodes : List Nat) : Reads (q.settle node nodes r k) := by
  cases r with
  | ok x => exact hk x hr
  | error f =>
    unfold Asker.settle
    dsimp only
    split
    · trivial
    split
    · trivial
    · exact hr

theorem askerReadRoot (h : s.Canonical) (q : Asker) : Reads (q.readRoot s) := askerSettle (h.askerNode ..) (fun _ hr => hr) ..

theorem askerLod (h : s.Canonical) (q : Asker) (level group node : Nat) (nodes : List Nat) : Reads (q.lod s level group node nodes) := by
  unfold Asker.lod
  split
  · exact askerSettle (askerBlock h ..) (fun _ hr => hr) ..
  split
  · exact h
  refine askerSettle (h.lodRead (fun z m hz => ?_) ..) (fun x hx => ?_) ..
  · split
    exacts [askerBlock hz .., hz]
  · dsimp only
    split
    exacts [hx.conePush .., hx]

/-- A traversal whose state is in canonical form, or no answer. -/
abbrev Traces (r : Except (Option Nat) Trace) : Prop := Answers (fun _ => True) (fun t => t.s.Canonical) r

theorem traceProxy {x : Trace} (hx : x.s.Canonical) (d : RayDesc) (low node mat ninst : Nat) (lods : List Word) : (x.proxy d low node mat ninst lods).s.Canonical := by
  unfold Trace.proxy
  extract_lets at_
  split
  exacts [hx, hx]

theorem traceTriangles {x : Trace} (hx : x.s.Canonical) (d : RayDesc) (path : List Ray) (node ninst : Nat) (lods : List Word) (words : List Nat) :
    (x.triangles d path node ninst lods words).s.Canonical := by
  unfold Trace.triangles
  refine List.foldlRecOn (motive := fun y : Trace => y.s.Canonical) _ _ hx fun y hy j _ => ?_
  dsimp only
  split
  · split
    exacts [hy, hy]
  · exact hy

/-- What a read at a node that is not exact leaves of a traversal. -/
theorem notedAs {x : Trace} (hx : x.s.Canonical) (st : Word) (low : Nat) (m : Met) : (if codeOf st = 0 then x else x.note low m).s.Canonical := by
  split
  exacts [hx, hx]

theorem askerLeaf {x : Trace} (hx : x.s.Canonical) (q : Asker) (d : RayDesc) (n : Nat) (y : Node) (path : List Ray) (low ninst : Nat) (lods : List Word) :
    Traces (q.leaf d x n y path low ninst lods) := by
  unfold Asker.leaf
  split
  · exact traceTriangles hx ..
  refine (askerLod hx ..).bind ?_
  rintro ⟨g, s1⟩ h1
  cases g with
  | fault k => exact h1
  | read bs st =>
    have h2 (m : Met) := notedAs (x := { x with s := s1 }) h1 st low m
    dsimp only
    split
    · exact h2 _
    split
    · exact traceProxy (h2 _) ..
    · exact traceTriangles (h2 _) ..

theorem askerEnter {visit : Trace → Nat → Node → List Ray → Nat → List Word → Except (Option Nat) Trace}
    (hv : ∀ t n y p l ls, t.s.Canonical → Traces (visit t n y p l ls)) {x : Trace} (hx : x.s.Canonical) (q : Asker) (d : RayDesc) (deep : Bool) (y : Node) (path : List Ray)
    (ninst : Nat) (lods : List Word) (c : ChildEntry) : Traces (q.enter d deep y path ninst lods visit x c) := by
  unfold Asker.enter
  split
  · exact hx
  split
  · exact hx
  extract_lets low child
  split
  · exact hx
  refine (askerLod hx ..).bind ?_
  rintro ⟨g, s1⟩ h1
  cases g with
  | fault k => exact h1
  | read bs st =>
    have h2 (m : Met) := notedAs (x := { x with s := s1 }) h1 st low m
    dsimp only
    split
    · exact h2 _
    split
    · exact traceProxy (h2 _) ..
    split
    · exact h2 _
    split
    · exact h2 _
    · exact hv _ _ _ _ _ _ (h2 _)

theorem askerVisit (q : Asker) (d : RayDesc) (fuel ninst : Nat) {x : Trace} (hx : x.s.Canonical) (n : Nat) (y : Node) (path : List Ray) (low : Nat) (lods : List Word) :
    Traces (q.visit d fuel ninst x n y path low lods) := by
  induction fuel generalizing ninst x n y path low lods with
  | zero => exact hx
  | succ fuel ih =>
    unfold Asker.visit
    split
    · exact hx
    split
    · exact Answers.foldlM (q := fun t : Trace => t.s.Canonical) hx (fun t c ht => askerEnter (fun _ _ _ _ _ _ hu => ih _ hu _ _ _ _ _) ht ..) _
    · exact askerLeaf hx ..
    · split
      · exact hx
      split
      · exact hx
      · exact askerEnter (fun _ _ _ _ _ _ hu => ih _ hu _ _ _ _ _) hx ..
    · exact traceProxy hx ..

theorem askerTrav (h : s.Canonical) (q : Asker) (ops : List Word) : Reads (q.trav ops s) := by
  unfold Asker.trav
  extract_lets d
  split
  · exact h
  split
  · exact h
  split
  · exact h
  refine (askerReadRoot h _).bind ?_
  rintro ⟨g, s1⟩ h1
  cases g with
  | fault n => exact h1
  | read bs st =>
    dsimp only
    split
    · exact h1
    split
    · exact h1
    · exact (askerVisit _ _ _ _ (x := ⟨s1, [], []⟩) h1 ..).bind fun t ht => ht

theorem askerIsect (h : s.Canonical) (q : Asker) (ops : List Word) : Reads (q.isect ops s) := by
  unfold Asker.isect
  extract_lets _ _
  split
  · exact h
  · split
    · exact h
    · refine (h.askerReadRoot ..).bind ?_
      rintro ⟨x, u⟩ hu
      dsimp only at hu ⊢
      split
      · exact hu
      · split
        · exact hu
        · split
          · exact hu
          · split
            · exact hu
            · split
              · exact hu
              · split
                · exact hu
                · exact hu

/-- A walk whose state is in canonical form, or no answer. -/
abbrev Walks (r : Except (Option Nat) Walk) : Prop := Answers (fun _ => True) (fun t => t.s.Canonical) r

theorem walkOffer {x : Walk} (hx : x.s.Canonical) (c : Option Path) (p : Path) (node d3 outcome : Nat) (lods : List Word) (deep : Bool) :
    (x.offer c p node d3 outcome lods deep).s.Canonical := by
  unfold Walk.offer
  split
  exacts [hx, hx]

theorem walkHollow {x : Walk} (hx : x.s.Canonical) (c : Option Path) (p : Path) : (x.hollow c p).s.Canonical := by
  unfold Walk.hollow
  split
  exacts [hx, hx]

theorem askerItem {visit : Walk → Nat → Node → Path → List Word → Except (Option Nat) Walk} (hv : ∀ t n y p ls, t.s.Canonical → Walks (visit t n y p ls)) {x : Walk}
    (hx : x.s.Canonical) (q : Asker) (c : Option Path) (y : Node) (p : Path) (lods : List Word) (i : Nat) : Walks (q.item c y p lods visit x i) := by
  unfold Asker.item
  extract_lets e child p2
  split
  · exact hx
  split
  · exact walkHollow hx ..
  refine (askerLod hx ..).bind ?_
  rintro ⟨g, s1⟩ h1
  cases g with
  | fault k => exact h1
  | read bs st =>
    dsimp only
    split
    · exact h1
    split
    · exact walkOffer h1 ..
    split
    · exact walkHollow h1 ..
    · exact hv _ _ _ _ _ h1

theorem askerItems (q : Asker) (c : Option Path) (fuel : Nat) {x : Walk} (hx : x.s.Canonical) (n : Nat) (y : Node) (p : Path) (lods : List Word) :
    Walks (q.items c fuel x n y p lods) := by
  induction fuel generalizing x n y p lods with
  | zero =>
    unfold Asker.items
    split
    · exact walkHollow hx ..
    split
    all_goals exact walkOffer hx ..
  | succ fuel ih =>
    unfold Asker.items
    split
    · exact walkHollow hx ..
    split
    · exact Answers.foldlM (q := fun t : Walk => t.s.Canonical) hx (fun t i ht => askerItem (fun _ _ _ _ _ hu => ih hu _ _ _ _) ht ..) _
    · exact walkOffer hx ..
    · exact walkOffer hx ..
    · exact walkOffer hx ..

theorem askerTrnx (h : s.Canonical) (q : Asker) (ops : List Word) : Reads (q.trnx ops s) := by
  unfold Asker.trnx
  split
  · exact h
  split
  · exact h
  refine (askerReadRoot h _).bind ?_
  rintro ⟨g, s1⟩ h1
  cases g with
  | fault n => exact h1
  | read bs st => exact (askerItems _ _ _ (x := ⟨s1, false, .nothing⟩) h1 ..).bind fun t ht => ht

theorem askerCover (h : s.Canonical) (q : Asker) (x : Node) (cam : CamData) (tri : Nat) (x0 y0 : Int) : Reads (q.cover x cam tri x0 y0 s) := by
  unfold Asker.cover
  extract_lets done
  have hdone (w : Nat) (z : State) (hz : z.Canonical) : (done w z).2.Canonical := by
    unfold done
    split
    · exact hz
    · dsimp only
      split
      exacts [hz, hz]
  clear_value done
  refine Answers.ite h (Answers.ite (hdone _ _ h) ((askerLod h ..).bind ?_))
  rintro ⟨g, s1⟩ h1
  cases g with
  | fault k => exact h1
  | read bs st =>
    dsimp only
    split
    exacts [h1, hdone _ _ h1]

theorem askerRastWalk (h : s.Canonical) (q : Asker) (tri : Nat) (x0 y0 : Int) (p : Path) (x : Node) (cam : CamData) : Reads (q.rastWalk tri x0 y0 p x cam s) := by
  induction p generalizing s x cam with
  | nil =>
    unfold Asker.rastWalk
    split
    exacts [h, askerCover h ..]
  | cons i p ih =>
    unfold Asker.rastWalk
    split
    · exact h
    dsimp only
    split
    · exact h
    split
    · exact h
    refine (askerLod h ..).bind ?_
    rintro ⟨g, s1⟩ h1
    cases g with
    | fault k => exact h1
    | read bs st =>
      dsimp only
      split
      · exact h1
      split
      · exact h1
      · exact ih h1 ..

/-- The function is unfolded before it is applied: the kernel would else evaluate the cursor of the operands. -/
theorem askerRast (h : s.Canonical) (q : Asker) (ops : List Word) : Reads (q.rast ops s) := by
  have unfolded (f : Asker → List Word → State → Except (Option Nat) (List Word × State)) (hf : f = Asker.rast) : Reads (f q ops s) := by
    delta Asker.rast at hf
    subst hf
    beta_reduce
    extract_lets r
    clear_value r
    generalize cursorOf (r 14 + r 15 * 2 ^ 32) = cursor
    rcases cursor with _ | _ | p
    · exact h
    · exact h
    refine Answers.ite h (Answers.ite h ((askerReadRoot h _).bind ?_))
    rintro ⟨g, s1⟩ h1
    cases g with
    | fault n => exact h1
    | read bs st => exact askerRastWalk h1 ..
  exact unfolded _ rfl

end State.Canonical

end Sys2Proof.Machine
end

section
/-! PROOFS. The operations of Machine/Geometry keep the canonical form (O7). -/

namespace Sys2Proof.Machine

namespace State.Canonical
variable {s t : State}

theorem ctxPose (h : s.Canonical) (c : Ctx) (i : Instr) (r a n d words : Nat) : (c.pose i r a n d words s).Canonical := by
  unfold Ctx.pose
  split
  · exact h
  split
  · trivial
  split
  next e =>
    split
    exacts [trivial, (h.ctxEntries ..).error e]
  next e =>
    extract_lets lanes
    split
    · trivial
    split
    · trivial
    · exact State.Canonical.congr ((h.ctxEntries ..).ok e) rfl

theorem execTrav (h : s.Canonical) (f : FmtG) : Kept (execTrav f s) := by
  unfold Machine.execTrav
  refine h.issue fun c t ht => ?_
  exact ht.ctxPose ..

theorem execTrnx (h : s.Canonical) (f : FmtG) : Kept (execTrnx f s) := by
  unfold Machine.execTrnx
  refine h.issue fun c t ht => ?_
  exact ht.ctxPose ..

theorem execIsect (h : s.Canonical) (f : FmtG) : Kept (execIsect f s) := by
  unfold Machine.execIsect
  refine h.issue fun c t ht => ?_
  exact ht.ctxPose ..

theorem execRast (h : s.Canonical) (f : FmtG) : Kept (execRast f s) := by
  unfold Machine.execRast
  refine h.issue fun c t ht => ?_
  exact ht.ctxPose ..

theorem queryWalked (h : s.Canonical) (q : Query) (l : QueryLane) (seeking : Bool) : Reads (q.walked l seeking s) := by
  unfold Query.walked
  split
  · exact h.askerTrav ..
  · exact h.askerTrnx ..
  · exact h.askerIsect ..
  · exact h.askerRast ..

theorem queryAnswer (h : s.Canonical) (q : Query) (l : QueryLane) : Reads (q.answer l s) := h.queryWalked ..

theorem stepQuery (h : s.Canonical) (id lane : Nat) : (s.stepQuery id lane).Canonical := by
  unfold State.stepQuery
  split
  · exact h
  · split
    · exact h
    · split
      · split
        next e3 => exact ((h.nodeRead ..).ok e3).modEng ..
        · exact h
      · exact h

theorem queryLane (h : s.Canonical) (id lane : Nat) : Given State.Canonical (s.queryLane id lane) := by
  unfold State.queryLane
  split
  · trivial
  · split
    · trivial
    · split
      · trivial
      next e2 => exact ((((h.queryAnswer ..).ok e2).pushedBy ..).putWords ..).modEng ..

theorem finishQuery (h : s.Canonical) (q : Query) : (s.finishQuery q).Canonical := by
  unfold State.finishQuery
  split
  · exact h.settlePushes
  · extract_lets s1
    have hs1 : s1.Canonical := (((h.settlePushes.modEng ..).modWave ..).settleAcquires).settleFences
    split
    · exact hs1.ite ((hs1.sweepGang ..).distribute)
    · exact hs1

theorem execQueryComplete (h : s.Canonical) (id : Nat) (lanes : Lanes) : Kept (execQueryComplete id lanes s) := by
  unfold Machine.execQueryComplete
  refine Kept.event ((Given.any _).bind fun q _ => ?_)
  split
  · trivial
  · exact (h.lanesDo (fun t l ht => ht.queryLane ..) _).map fun t ht => ht.finishQuery q

theorem execGeosync (h : s.Canonical) (f : FmtGs) : Kept (execGeosync f s) := by
  unfold Machine.execGeosync
  refine h.issue fun c t ht => ?_
  split
  · exact ht
  · split
    · trivial
    · split
      · trivial
      · exact ht.congr rfl

theorem dropNodes (h : s.Canonical) (asid : Nat) (units : List Nat) : (s.dropNodes asid units).Canonical := h.modCaches ..

theorem execGeosyncDone (h : s.Canonical) (id : Nat) : Kept (execGeosyncDone id s) := by
  unfold Machine.execGeosyncDone
  refine Kept.event ?_
  refine (Given.any _).map ?_
  rintro u hu
  exact (h.dropNodes ..).modEng ..

end State.Canonical

end Sys2Proof.Machine
end

section
/-! PROOFS. The operations of Machine/System keep the canonical form (O7). -/

namespace Sys2Proof.Machine

namespace State.Canonical
variable {s t : State}

theorem setCtxReg (h : s.Canonical) (asid n : Nat) (cores : List Nat) (x : Quad) : (s.setCtxReg asid n cores x).Canonical := by
  unfold State.setCtxReg
  extract_lets s1
  have hs1 : s1.Canonical := h.modCtx ..
  exact (hs1.modCaches ..).ite ((hs1.modCaches ..).ite hs1)

theorem ctxCsrr (h : s.Canonical) (c : Ctx) (n r : Nat) : (c.csrr n r s).Canonical := by
  unfold Ctx.csrr
  split
  · trivial
  · split
    · exact h
    · split
      · trivial
      · split
        · trivial
        · exact h.ctxPutS2 ..

theorem issueCsrr (h : s.Canonical) (f : FmtY) : Kept (issueCsrr f s) := by
  unfold Machine.issueCsrr
  refine h.issue fun c t ht => ?_
  exact ht.ctxCsrr ..

theorem execCsrr (h : s.Canonical) (f : FmtY) : Kept (execCsrr f s) := h.issueCsrr ..

theorem readDesc (h : s.Canonical) (asid va : Nat) (priv : Bool) : Reads (s.readDesc asid va priv) := by
  unfold State.readDesc
  split
  · trivial
  · split
    · trivial
    next e => exact (h.ctxNat ..).ok e

theorem putStatus (h : s.Canonical) (asid va status : Nat) : (s.putStatus asid va status).Canonical := by
  unfold State.putStatus
  split
  next e => exact (h.ctxWrite ..).ok e
  · exact h

theorem postSweep (h : s.Canonical) (clean : Bool) (poster : Poster) (asid va d : Nat) : (s.postSweep clean poster asid va d).2.Canonical := by
  unfold State.postSweep
  split
  · split
    · exact h.putStatus ..
    · split
      next e1 =>
        extract_lets _
        exact (h.newId.beside e1).modEng ..
  · split
    · exact h.putStatus ..
    · split
      next e =>
        extract_lets _
        exact (h.newId.beside e).modEng ..

theorem ctxPost (h : s.Canonical) (c : Ctx) (clean : Bool) (va : Nat) : (c.post clean va s).Canonical := by
  unfold Ctx.post
  split
  · trivial
  next e =>
    split
    · split
      · trivial
      · exact ((h.readDesc ..).ok e).postSweep ..
    · split
      · trivial
      · exact ((h.readDesc ..).ok e).postSweep ..

theorem setPinsize (h : s.Canonical) (core : Nat) (x : Quad) : (s.setPinsize core x).Canonical := by
  unfold State.setPinsize
  split
  · exact h.congr rfl
  · exact h

theorem ctxCsrWrite (h : s.Canonical) (c : Ctx) (n : Nat) (x : Quad) : (c.csrWrite n x s).Canonical := by
  unfold Ctx.csrWrite
  split
  · exact (h.setCtxReg ..).modGang ..
  · exact h.modWave ..
  · trivial
  · exact h.modGang ..
  · exact h.setPinsize ..
  · exact h.ctxPost ..
  · exact h.ctxPost ..
  · exact h.pullProof
  · exact h.setCtxReg ..

theorem ctxCsrw (h : s.Canonical) (c : Ctx) (n r : Nat) : (c.csrw n r s).Canonical := by
  unfold Ctx.csrw
  split
  · trivial
  · split
    · exact h
    · split
      · trivial
      · exact h.ctxCsrWrite ..

theorem issueCsrw (h : s.Canonical) (f : FmtY) : Kept (issueCsrw f s) := by
  unfold Machine.issueCsrw
  refine h.issue fun c t ht => ?_
  exact ht.ctxCsrw ..

theorem execCsrw (h : s.Canonical) (f : FmtY) : Kept (execCsrw f s) := h.issueCsrw ..

theorem csrwOf (h : s.Canonical) (row : String) (n : Nat) (f : FmtY) : Kept (csrwOf row n f s) := by
  unfold Machine.csrwOf
  split
  · exact h.issueCsrw ..
  · trivial

theorem execSdpost (h : s.Canonical) (f : FmtY) : Kept (execSdpost f s) := h.csrwOf ..

theorem execClpost (h : s.Canonical) (f : FmtY) : Kept (execClpost f s) := h.csrwOf ..

theorem execSwtrap (h : s.Canonical) (f : FmtY) : Kept (execSwtrap f s) := h.csrwOf ..

theorem execFpcWrite (h : s.Canonical) (f : FmtY) : Kept (execFpcWrite f s) := h.csrwOf ..

theorem execProofPullWrite (h : s.Canonical) (f : FmtY) : Kept (execProofPullWrite f s) := h.csrwOf ..

theorem execLegacyRegisterAccess (h : s.Canonical) (write : Bool) (f : FmtY) : Kept (execLegacyRegisterAccess write f s) := by
  unfold Machine.execLegacyRegisterAccess
  split
  · trivial
  · split
    · exact h.issueCsrw ..
    · exact h.issueCsrr ..

theorem execTrapret (h : s.Canonical) (f : FmtTret) : Kept (execTrapret f s) := by
  unfold Machine.execTrapret
  refine h.issue fun c t ht => ?_
  split
  · trivial
  · split
    · exact ht
    · split
      · trivial
      · extract_lets _ u
        have hu : u.Canonical := ht.trapReturn ..
        split
        · trivial
        · exact ((hu.foldl (fun _ _ ht1 => (ht1.performAll ..).ite ht1) _).ite hu).distribute

theorem execSmask (h : s.Canonical) (f : FmtSmask) : Kept (execSmask f s) := by
  unfold Machine.execSmask
  refine h.issue fun c t ht => ?_
  split
  · trivial
  · split
    · exact ht
    · exact ht.modWave ..

theorem execClock (h : s.Canonical) (f : FmtD) : Kept (execClock f s) := by
  unfold Machine.execClock
  refine h.issueOk fun c t ht => ?_
  exact ht.ite (ht.ctxPutS2 ..)

theorem execRng (h : s.Canonical) (f : FmtRng) : Kept (execRng f s) := by
  unfold Machine.execRng
  refine h.issueOk fun c t ht => ?_
  extract_lets _
  exact (ht.ctxPutV ..).modWave ..

end State.Canonical

end Sys2Proof.Machine
end

section
/-! PROOFS. The operations of Machine/Sweeps keep the canonical form (O7). -/

namespace Sys2Proof.Machine

namespace State.Canonical
variable {s t : State}

theorem postCommand (h : s.Canonical) (clean : Bool) (c : Command) : Given State.Canonical (s.postCommand clean c) := by
  unfold State.postCommand
  split
  · exact h.answer ..
  next e =>
    split
    · split
      · trivial
      · split
        next e2 => exact (((((h.readDesc ..).ok e).postSweep ..).beside e2).answer ..).ite ((((h.readDesc ..).ok e).postSweep ..).beside e2)
    · split
      · trivial
      · split
        next e1 => exact (((((h.readDesc ..).ok e).postSweep ..).beside e1).answer ..).ite ((((h.readDesc ..).ok e).postSweep ..).beside e1)

theorem execShootdown (h : s.Canonical) (id : Nat) : Kept (execShootdown id s) := by
  unfold Machine.execShootdown
  refine h.runCommand fun c t ht => ?_
  exact ht.postCommand ..

theorem execClean (h : s.Canonical) (id : Nat) : Kept (execClean id s) := by
  unfold Machine.execClean
  refine h.runCommand fun c t ht => ?_
  exact ht.postCommand ..

theorem sweepOut (h : s.Canonical) (w : Sweep) : (s.sweepOut w).Canonical := by
  unfold State.sweepOut
  extract_lets _ src
  have hsrc : src.Canonical := h.modCaches ..
  exact hsrc.congr rfl

theorem irqOf (h : s.Canonical) (p : Poster) : (s.irqOf p).Canonical := by
  unfold State.irqOf
  extract_lets via
  have hvia (cq : Nat) : (via cq).Canonical := by
    unfold via
    split
    exacts [h.signal .., h]
  split
  exacts [hvia _, hvia _, h]

theorem finishPost (h : s.Canonical) (w : Sweep) : (s.finishPost w).Canonical := by
  unfold State.finishPost
  extract_lets written s1
  have hwritten : written.2.Canonical := by
    unfold written
    split
    next e => exact (h.ctxWrite ..).ok e
    · exact h
  have hs1 : s1.Canonical := (hwritten.irqOf ..).ite hwritten
  split
  · exact hs1.answer ..
  · exact hs1

theorem closeReset (h : s.Canonical) (asid : Nat) : (s.closeReset asid).Canonical := h.foldl (fun _ _ ht => ht.closeGrid ..) _

theorem mailboxDone (h : s.Canonical) (result : Nat) : (s.mailboxDone result).Canonical := h.modKiln ..

theorem kilnSweep (h : s.Canonical) (asid : Nat) (p : Poster) : (s.kilnSweep asid p).Canonical := by
  unfold State.kilnSweep
  split
  next e => exact (h.newId.beside e).modEng ..

theorem afterMailboxSweep (h : s.Canonical) (asid : Nat) : (s.afterMailboxSweep asid).Canonical := by
  unfold State.afterMailboxSweep
  split
  · split
    · exact ((h.modCtx ..).putNat ..).mailboxDone ..
    · exact ((h.putNat ..).modKiln ..).kilnSweep ..
  · exact h.mailboxDone ..

theorem completeSweep (h : s.Canonical) (w : Sweep) : (s.completeSweep w).Canonical := by
  unfold State.completeSweep
  extract_lets s1
  have hs1 : s1.Canonical := (h.sweepOut ..).modEng ..
  split
  · exact hs1.finishPost ..
  · exact hs1.finishPost ..
  · exact (hs1.closeReset ..).afterMailboxSweep ..
  · exact hs1.closeReset ..

theorem execShootdownComplete (h : s.Canonical) (id : Nat) : Kept (execShootdownComplete id s) := by
  unfold Machine.execShootdownComplete
  refine Kept.event ?_
  refine (Given.any _).bind ?_
  rintro u hu
  split
  · exact (h.completeSweep ..).distribute
  · trivial

theorem cleanLines (h : s.Canonical) (w : Sweep) : (s.cleanLines w).Canonical := by
  unfold State.cleanLines
  extract_lets _ _
  exact (h.foldl (fun _ _ ht => ht.foldl (fun _ _ ht1 => ht1.setDirty ..) _) _).modCaches ..

theorem execCleanComplete (h : s.Canonical) (id : Nat) : Kept (execCleanComplete id s) := by
  unfold Machine.execCleanComplete
  refine Kept.event ?_
  refine (Given.any _).map ?_
  rintro u hu
  exact ((h.cleanLines ..).modEng ..).finishPost ..

theorem startReset (h : s.Canonical) (asid : Nat) (p : Poster) : (s.startReset asid p).Canonical := by
  unfold State.startReset
  extract_lets s1
  have hs1 : s1.Canonical := (h.discardQueries ..).foldl (fun _ _ ht => ht.endLaunch ..) _
  exact (hs1.kilnSweep ..).distribute

end State.Canonical

end Sys2Proof.Machine
end

section
/-! PROOFS. The operations of Machine/Checkpoint keep the canonical form (O7). -/

namespace Sys2Proof.Machine

namespace State.Canonical
variable {s t : State}

theorem beginCheckpoint (h : s.Canonical) (restore : Bool) (c : Command) : Given State.Canonical (s.beginCheckpoint restore c) := by
  unfold State.beginCheckpoint
  split
  · exact h.answer ..
  next e =>
    split
    · exact ((h.ctxNat ..).ok e).answer ..
    · split
      · trivial
      · split
        next e1 =>
          extract_lets s3
          have hs3 : s3.Canonical := ((((h.ctxNat ..).ok e).newId).beside e1).modEng ..
          exact hs3.foldl (fun _ _ ht => ht.expire ..) _

theorem execCkpt (h : s.Canonical) (id : Nat) : Kept (execCkpt id s) := by
  unfold Machine.execCkpt
  refine h.runCommand fun c t ht => ?_
  exact ht.beginCheckpoint ..

theorem execRestore (h : s.Canonical) (id : Nat) : Kept (execRestore id s) := by
  unfold Machine.execRestore
  refine h.runCommand fun c t ht => ?_
  exact ht.beginCheckpoint ..

theorem takeImage (h : s.Canonical) (c : Checkpoint) : (s.takeImage c).Canonical := by
  unfold State.takeImage
  refine State.Canonical.modKiln ?_ _
  exact copyOut_wf (h.cleanLines _) ..

theorem putImage (h : s.Canonical) (c : Checkpoint) : (s.putImage c).Canonical := by
  have hback : (copyBack s.mem c.dest).wf = true := copyBack_wf h _
  unfold State.putImage
  dsimp only
  split
  exacts [hback, hback]

theorem execCheckpointComplete (h : s.Canonical) (id : Nat) : Kept (execCheckpointComplete id s) := by
  unfold Machine.execCheckpointComplete
  refine Kept.event ((Given.any _).bind fun c _ => ?_)
  split
  · trivial
  extract_lets s1
  have h1 : s1.Canonical := ((h.putImage c).ite (h.takeImage c)).modEng _
  refine State.Canonical.distribute ?_
  split
  exacts [h1.answer .., h1]

end State.Canonical

end Sys2Proof.Machine
end

section
/-! PROOFS. The operations of Machine/Control keep the canonical form (O7). -/

namespace Sys2Proof.Machine

namespace State.Canonical
variable {s t : State}

theorem expiredYield (h : s.Canonical) (c : Ctx) : (s.expiredYield c).Canonical := by
  unfold State.expiredYield
  split
  · exact (h.modWave ..).ite h
  · exact h

theorem ctxJump (h : s.Canonical) (c : Ctx) (call : Bool) (target : Nat → Quad) : (c.jump call target s).Canonical := by
  unfold Ctx.jump
  extract_lets s1
  have hs1 : s1.Canonical := h.modWave ..
  exact ((hs1.modWave ..).expiredYield ..).ite hs1

theorem execBra (h : s.Canonical) (f : FmtBra) : Kept (execBra f s) := by
  unfold Machine.execBra
  refine h.issueOk fun c t ht => ?_
  exact ht.ctxJump ..

theorem execBrx (h : s.Canonical) (f : FmtA1) : Kept (execBrx f s) := by
  unfold Machine.execBrx
  refine h.issueOk fun c t ht => ?_
  exact ht.ctxJump ..

theorem execCall (h : s.Canonical) (f : FmtC) : Kept (execCall f s) := by
  unfold Machine.execCall
  refine h.issueOk fun c t ht => ?_
  exact (ht.ctxPutV2 ..).ctxJump ..

theorem execRet (h : s.Canonical) (f : FmtA1) : Kept (execRet f s) := by
  unfold Machine.execRet
  refine h.issueOk fun c t ht => ?_
  exact ht.ctxJump ..

theorem execCalli (h : s.Canonical) (f : FmtR) : Kept (execCalli f s) := by
  unfold Machine.execCalli
  refine h.issue fun c t ht => ?_
  extract_lets _
  split
  · trivial
  · exact (ht.ctxPutV2 ..).ctxJump ..

theorem ctxSetMeet (h : s.Canonical) (c : Ctx) (d : BitVec 7) (m : Nat → Quad) : (c.setMeet d m s).Canonical := (h.ctxPutV2 ..).modWave ..

theorem execMeetLabel (h : s.Canonical) (f : FmtC) : Kept (execMeetLabel f s) := by
  unfold Machine.execMeetLabel
  refine h.issueOk fun c t ht => ?_
  exact ht.ctxSetMeet ..

theorem execMeetRegister (h : s.Canonical) (f : FmtDA) : Kept (execMeetRegister f s) := by
  unfold Machine.execMeetRegister
  refine h.issueOk fun c t ht => ?_
  exact ht.ctxSetMeet ..

theorem execExit (h : s.Canonical) (f : FmtG0) : Kept (execExit f s) := by
  unfold Machine.execExit
  refine h.issueOk fun c t ht => ?_
  exact (ht.endLanes ..).distribute

theorem ctxSegmentEnd (h : s.Canonical) (c : Ctx) (m : VoxModule) : (c.segmentEnd m s).Canonical := by
  unfold Ctx.segmentEnd
  extract_lets _ _
  split
  · trivial
  · exact h.modWave ..

theorem execYield (h : s.Canonical) (f : FmtG0) : Kept (execYield f s) := by
  unfold Machine.execYield
  refine h.issue fun c t ht => ?_
  split
  · exact ht.ctxSegmentEnd ..
  · have hb : (match t.gang? c.ga.id with
        | some g => if c.act ≠ 0 && (g.expired.isSome || t.headNeeds g.id) then t.modWave c.w.id fun w => { w with wake := wakeOf 9 0 } else t
        | none => t).Canonical := by
      split
      exacts [(ht.modWave ..).ite ht, ht]
    exact hb

theorem execNop (h : s.Canonical) (f : FmtG0) : Kept (execNop f s) := by
  unfold Machine.execNop
  refine h.issueOk fun c t ht => ?_
  exact ht

theorem execBar (h : s.Canonical) (f : FmtBar) : Kept (execBar f s) := by
  unfold Machine.execBar
  refine h.issue fun c t ht => ?_
  split
  · trivial
  · split
    · exact ht
    · split
      · trivial
      · trivial

theorem execBarnet (h : s.Canonical) (f : FmtNet) : Kept (execBarnet f s) := by
  unfold Machine.execBarnet
  refine h.issue fun c t ht => ?_
  split
  · exact ht
  · split
    · trivial
    · trivial

theorem issueHint (h : s.Canonical) (i : Instr) (stall : Nat) : Kept (issueHint i stall s) := by
  unfold Machine.issueHint
  split
  · trivial
  · split
    · trivial
    · split
      · exact h
      · split
        · exact h
        · extract_lets _
          split
          · exact (h.watchPull ..).trap ..
          · split
            · exact h.trap ..
            · exact h.modWave ..

theorem execHintExt (h : s.Canonical) (e : BitVec 24) : Kept (execHintExt e s) := h.issueHint ..

theorem execHintStall (h : s.Canonical) (n : BitVec 4) : Kept (execHintStall n s) := h.issueHint ..

theorem execHintNeg (h : s.Canonical) : Kept (execHintNeg s) := h.issueHint ..

theorem execHintRnd (h : s.Canonical) (m : BitVec 2) : Kept (execHintRnd m s) := h.issueHint ..

theorem execHintSat (h : s.Canonical) (p : BitVec 1) : Kept (execHintSat p s) := h.issueHint ..

theorem execHintCache (h : s.Canonical) (y x : BitVec 1) : Kept (execHintCache y x s) := h.issueHint ..

theorem execHintNb (h : s.Canonical) : Kept (execHintNb s) := h.issueHint ..

theorem execHintDtree (h : s.Canonical) : Kept (execHintDtree s) := h.issueHint ..

end State.Canonical

end Sys2Proof.Machine
end

section
/-! PROOFS. The operations of Machine/Mailbox keep the canonical form (O7). -/

namespace Sys2Proof.Machine

namespace State.Canonical
variable {s t : State}

theorem doorbell {row : String} {op : Nat} {run : State → Nat × State} (h : s.Canonical) (hr : ∀ t, t.Canonical → (run t).2.Canonical) : Kept (doorbell row op s run) := by
  refine Kept.event ?_
  split
  · trivial
  · exact ((hr s h).mailboxDone ..).distribute

theorem mailboxRuns (h : s.Canonical) (asid : Nat) (entry : Option (Nat × Option Context)) : (s.mailboxRuns asid entry).Canonical := h.modKiln ..

theorem longDoorbell {row : String} {op : Nat} {check : State → Option Nat} {run : State → State} (h : s.Canonical) (hr : ∀ t, t.Canonical → (run t).Canonical) :
    Kept (longDoorbell row op s check run) := by
  refine Kept.event ?_
  split
  · trivial
  split
  exacts [h.mailboxDone .., hr s h]

theorem execCtxcreate (h : s.Canonical) : Kept (execCtxcreate s) := by
  refine h.longDoorbell fun t ht => ?_
  exact (ht.mailboxRuns ..).kilnSweep ..

theorem execCtxset (h : s.Canonical) : Kept (execCtxset s) := by
  unfold Machine.execCtxset
  refine h.doorbell fun t ht => ?_
  exact iteBeside ht (ht.setCtxReg ..)

theorem execCtxreset (h : s.Canonical) : Kept (execCtxreset s) := by
  refine h.longDoorbell fun t ht => ?_
  exact (ht.mailboxRuns ..).startReset ..

theorem execCtxdestroy (h : s.Canonical) : Kept (execCtxdestroy s) := by
  refine h.longDoorbell fun t ht => ?_
  exact (ht.mailboxRuns ..).startReset ..

theorem execSqcreate (h : s.Canonical) : Kept (execSqcreate s) := by
  unfold Machine.execSqcreate
  refine h.doorbell fun t ht => ?_
  extract_lets _ _
  exact iteBeside ht (iteBeside ht ((ht.putNat ..).modHost ..))

theorem execCqcreate (h : s.Canonical) : Kept (execCqcreate s) := by
  unfold Machine.execCqcreate
  refine h.doorbell fun t ht => ?_
  extract_lets _ _
  exact iteBeside ht (iteBeside ht ((ht.putNat ..).modHost ..))

theorem execQdelete (h : s.Canonical) : Kept (execQdelete s) := by
  unfold Machine.execQdelete
  refine h.doorbell fun t ht => ?_
  extract_lets _
  split
  · exact iteBeside ht (ht.modHost ..)
  · split
    · split
      · exact ht
      · exact iteBeside ht (ht.modHost ..)
    · exact ht

theorem execQuantum (h : s.Canonical) : Kept (execQuantum s) := by
  unfold Machine.execQuantum
  refine h.doorbell fun t ht => ?_
  split
  · exact ht
  · exact ht.congr rfl

theorem slicesRoom (h : s.Canonical) : s.slicesRoom.Canonical := by
  unfold State.slicesRoom
  refine h.foldl (fun t b ht => ?_) _
  exact ht.sliceRoom ..

theorem execPin (h : s.Canonical) : Kept (execPin s) := by
  refine h.doorbell fun t ht => ?_
  split
  · exact ht
  · extract_lets owner pages
    refine iteBeside ht ?_
    dsimp only
    exact (ht.modCaches _).slicesRoom

theorem execUnpin (h : s.Canonical) : Kept (execUnpin s) := by
  refine h.doorbell fun t ht => ?_
  split
  · exact ht
  · refine iteBeside ht ?_
    dsimp only
    exact (ht.modCaches _).slicesRoom

theorem execProofread (h : s.Canonical) : Kept (execProofread s) := by
  unfold Machine.execProofread
  refine h.doorbell fun t ht => ?_
  split
  · exact ht
  · extract_lets _
    exact ht.modKiln ..

theorem execProofpull (h : s.Canonical) : Kept (execProofpull s) := by
  unfold Machine.execProofpull
  refine h.doorbell fun t ht => ?_
  exact ht.pullProof

theorem execEvring (h : s.Canonical) : Kept (execEvring s) := by
  unfold Machine.execEvring
  refine h.doorbell fun t ht => ?_
  exact iteBeside ht ((ht.putNat ..).modHost ..)

theorem renameLines (h : s.Canonical) : s.renameLines.Canonical := h.modCaches ..

theorem execPeernum (h : s.Canonical) : Kept (execPeernum s) := by
  unfold Machine.execPeernum
  refine h.doorbell fun t ht => ?_
  exact iteBeside ht ((ht.modKiln ..).renameLines)

theorem execFwstage (h : s.Canonical) : Kept (execFwstage s) := by
  unfold Machine.execFwstage
  refine h.doorbell fun t ht => ?_
  split
  · exact ht
  · split
    · exact ht
    · extract_lets _
      exact ht.modKiln ..

theorem execFwcommit (h : s.Canonical) : Kept (execFwcommit s) := by
  unfold Machine.execFwcommit
  refine h.doorbell fun t ht => ?_
  split
  · exact ht
  · split
    · exact ht
    · extract_lets _
      exact iteBeside (ht.modKiln ..) (ht.modKiln ..)

theorem execMailboxBadcmd (h : s.Canonical) : Kept (execMailboxBadcmd s) := by
  unfold Machine.execMailboxBadcmd
  refine Kept.event ?_
  split
  · trivial
  · exact h.mailboxDone ..

theorem execDoorbellWhileBusy (h : s.Canonical) : Kept (execDoorbellWhileBusy s) := by
  unfold Machine.execDoorbellWhileBusy
  refine Kept.event ?_
  split
  · exact h.modKiln ..
  · trivial

theorem writeRegister (h : s.Canonical) (addr : Nat) (value : Quad) : Given State.Canonical (s.writeRegister addr value) := by
  unfold State.writeRegister
  split
  · exact h.modKiln ..
  · split
    · exact h.modKiln ..
    · split
      · exact h.modKiln ..
      · split
        · trivial
        · split
          · extract_lets _
            split
            · exact h
            · split
              · trivial
              · exact h.modKiln ..
          · trivial
          · exact h

theorem execRegisterWrite (h : s.Canonical) (addr : Nat) (value : BitVec 64) : Kept (execRegisterWrite addr value s) := by
  unfold Machine.execRegisterWrite
  refine Kept.event ?_
  exact h.writeRegister ..

end State.Canonical

end Sys2Proof.Machine
end

section
/-! PROOFS. The operations of Machine/HostAccess keep the canonical form (O7). -/

namespace Sys2Proof.Machine

namespace State.Canonical
variable {s t : State}

theorem execHostRead (h : s.Canonical) (addr size : Nat) : Kept (execHostRead addr size s) := by
  unfold Machine.execHostRead
  refine Kept.event ?_
  split
  · trivial
  · split
    · exact h.modHost ..
    · exact h.modHost ..

theorem execHostWrite (h : s.Canonical) (addr : Nat) (bytes : List Byte) : Kept (execHostWrite addr bytes s) := by
  unfold Machine.execHostWrite
  refine Kept.event ?_
  split
  · trivial
  · split
    · exact (h.putBytes ..).modHost ..
    · split
      · exact h.putBytes ..
      · trivial

theorem execSofterr (h : s.Canonical) (line : Nat) : Kept (execSofterr line s) := by
  unfold Machine.execSofterr
  refine Kept.event ?_
  split
  · exact h.postSimple ..
  · trivial

theorem execPatrolScrub (h : s.Canonical) (line : Nat) : Kept (execPatrolScrub line s) := by
  unfold Machine.execPatrolScrub
  refine Kept.event ?_
  split
  · trivial
  · extract_lets _
    exact h.congr rfl

theorem execFirmwareStagingWrite (h : s.Canonical) (offset : Nat) (bytes : List Byte) : Kept (execFirmwareStagingWrite offset bytes s) := by
  unfold Machine.execFirmwareStagingWrite
  refine Kept.event ?_
  split
  · trivial
  · exact h.modKiln ..

theorem boot (h : s.Canonical) (slotA slotB : FwSlot) : (s.boot slotA slotB).Canonical := SMap.wf_filter h _

theorem execResetBoot (h : s.Canonical) : Kept (execResetBoot s) := by
  unfold Machine.execResetBoot
  refine Kept.event ?_
  exact h.boot ..

theorem execRecoveryCommand (h : s.Canonical) : Kept (execRecoveryCommand s) := by
  unfold Machine.execRecoveryCommand
  refine Kept.event ?_
  split
  · trivial
  · extract_lets _
    exact (h.boot ..).ite h

theorem execSpdmMessage (h : s.Canonical) (bytes : List Byte) : Kept (execSpdmMessage bytes s) := by
  unfold Machine.execSpdmMessage
  refine Kept.event ?_
  exact h.modKiln ..

end State.Canonical

end Sys2Proof.Machine
end

section
/-! PROOFS. The operations of Machine/Power keep the canonical form (O7). -/

namespace Sys2Proof.Machine

namespace State.Canonical
variable {s t : State}

theorem setQpstat (h : s.Canonical) (q state busy cause : Nat) : (s.setQpstat q state busy cause).Canonical := h.modKiln ..

theorem quiesce (h : s.Canonical) (q : Nat) : (s.quiesce q).Canonical := h.foldl (fun _ _ ht => ht.expire ..) _

theorem startMove (h : s.Canonical) (q target : Nat) : (s.startMove q target).Canonical := by
  unfold State.startMove
  extract_lets s1
  have hs1 : s1.Canonical := (h.setQpstat ..).modKiln ..
  exact (hs1.quiesce ..).ite hs1

theorem goTo (h : s.Canonical) (row : String) (target q : Nat) : Kept (goTo row target q s) := by
  unfold Machine.goTo
  refine Kept.event ?_
  split
  · trivial
  · split
    · exact h
    · extract_lets s1
      have hs1 : s1.Canonical := h.modKiln ..
      split
      · exact hs1.setQpstat ..
      · exact hs1.startMove ..

theorem execGoRun (h : s.Canonical) (quad : Nat) : Kept (execGoRun quad s) := h.goTo ..

theorem execGoClockGated (h : s.Canonical) (quad : Nat) : Kept (execGoClockGated quad s) := h.goTo ..

theorem execGoRetention (h : s.Canonical) (quad : Nat) : Kept (execGoRetention quad s) := h.goTo ..

theorem execQwake (h : s.Canonical) (quad : Nat) : Kept (execQwake quad s) := by
  unfold Machine.execQwake
  refine Kept.event ?_
  split
  · trivial
  · split
    · exact h
    · exact h.startMove ..

theorem emptyQuad (h : s.Canonical) (q : Nat) : (s.emptyQuad q).Canonical := by
  unfold State.emptyQuad
  extract_lets _
  exact h.modCaches ..

theorem takeoverEvent (h : s.Canonical) (q spare : Nat) : (s.takeoverEvent q spare).Canonical := h.postSimple ..

theorem takeOver (h : s.Canonical) (q : Nat) : (s.takeOver q).Canonical := by
  unfold State.takeOver
  extract_lets _ _ s1
  have hs1 : s1.Canonical := (h.emptyQuad ..).modKiln ..
  exact (hs1.setQpstat ..).takeoverEvent ..

theorem execQuadMoveDone (h : s.Canonical) (quad : Nat) : Kept (execQuadMoveDone quad s) := by
  unfold Machine.execQuadMoveDone
  refine Kept.event ?_
  refine (Given.any _).bind ?_
  rintro ⟨x, u⟩ hu
  dsimp only at hu ⊢
  split
  · exact ((h.modKiln ..).setQpstat ..).distribute
  · split
    · trivial
    · split
      · exact ((h.modKiln ..).takeOver ..).distribute
      · split
        · exact (h.emptyQuad ..).setQpstat ..
        · exact ((h.emptyQuad ..).modKiln ..).setQpstat ..

theorem execTakeover (h : s.Canonical) (quad spare : Nat) : Kept (execTakeover quad spare s) := by
  unfold Machine.execTakeover
  refine Kept.event ?_
  split
  · trivial
  · exact h.startMove ..

theorem failGang (h : s.Canonical) (ga : Gang) : (s.failGang ga).Canonical := by
  unfold State.failGang
  split
  · exact h
  · extract_lets s1 s2
    have hs1 : s1.Canonical := (h.modEng ..).modMatrix ..
    have hs2 : s2.Canonical := hs1.modGang ..
    refine hs2.foldl (fun t b ht => ?_) _
    split
    · exact ht
    · split
      next e2 => exact (((ht.recordBytes ..).beside e2).faultEvent ..).endWorkgroup ..

theorem execQuadFailure (h : s.Canonical) (quad : Nat) : Kept (execQuadFailure quad s) := by
  unfold Machine.execQuadFailure
  refine Kept.event ?_
  split
  · trivial
  · extract_lets s1
    have hs1 : s1.Canonical := h.foldl (fun _ _ ht => ht.failGang ..) _
    exact ((hs1.modKiln ..).takeOver ..).distribute

theorem execLaneSparing (h : s.Canonical) (port : Nat) : Kept (execLaneSparing port s) := by
  unfold Machine.execLaneSparing
  refine Kept.event ?_
  split
  · trivial
  · refine State.Canonical.postSimple (State.Canonical.modKiln ?_ _) ..
    exact h.congr rfl

theorem unitAtPeer (h : s.Canonical) (id : Nat) : Given (fun x => x.2.Canonical) (s.unitAtPeer id) := by
  unfold State.unitAtPeer
  split
  · exact h.modEng ..
  · split
    · exact h.modEng ..
    · split
      · exact (h.modHost ..).answer ..
      · refine (Given.any _).bind ?_
        rintro u hu
        dsimp only at hu ⊢
        refine (Given.any _).map ?_
        rintro u1 hu1
        dsimp only at hu1 ⊢
        exact h.modEng ..

theorem discardAtPeer (h : s.Canonical) (id : Nat) : Given (fun x => x.2.Canonical) (s.discardAtPeer id) := by
  unfold State.discardAtPeer
  split
  · split
    · exact (h.modFlight ..).finishAccess ..
    · trivial
  · exact h.unitAtPeer ..

theorem execPeerUnreachable (h : s.Canonical) (id : Nat) : Kept (execPeerUnreachable id s) := by
  unfold Machine.execPeerUnreachable
  refine Kept.event ?_
  refine (h.discardAtPeer ..).map ?_
  rintro ⟨x, u⟩ hu
  dsimp only at hu ⊢
  refine State.Canonical.distribute ?_
  refine State.Canonical.postSimple ?_ ..
  refine State.Canonical.startReset ?_ ..
  exact hu.congr rfl

end State.Canonical

end Sys2Proof.Machine
end

section
/-! PROOFS. The operations of Machine/Texture keep the canonical form (O7). -/

namespace Sys2Proof.Machine

namespace State.Canonical
variable {s t : State}

theorem sampleTaps (h : s.Canonical) (core asid res : Nat) (e : Entry) (priv : Bool) (who : Option Reader) (ts : List Tap) (acc : List Chan) (worst : Word) :
    Answers (fun f => f.2.2.Canonical) (fun x => x.2.2.Canonical) (sampleTaps core asid res e priv who ts acc worst s) := by
  induction ts generalizing s acc worst with
  | nil => exact h
  | cons t ts ih =>
    unfold Machine.sampleTaps
    refine Answers.bind (q := fun x : List Byte × Word × State => x.2.2.Canonical) ?_ ?_
    · split
      · refine (h.lodTexel ..).map fun r hr => ?_
        split
        exacts [hr.conePush .., hr]
      · exact (h.texelRead ..).map fun _ hr => hr
    · rintro ⟨bs, st, s1⟩ h1
      exact ih h1 ..

theorem texSample (h : s.Canonical) (core asid res : Nat) (e : Entry) (u v lambda : Word) (priv : Bool) (who : Option Reader) :
    Tries (s.texSample core asid res e u v lambda priv who) := by
  unfold State.texSample
  split
  · exact h
  · refine (h.sampleTaps ..).bind ?_
    rintro ⟨x, y, u1⟩ hu1
    dsimp only at hu1 ⊢
    exact hu1

theorem laneResults {f : Nat → State → Except Failed (List Word × State)} (h : s.Canonical) (hf : ∀ l t, t.Canonical → Tries (f l t)) (origin : Nat) (ls : List Nat) :
    (laneResults f origin ls s).2.Canonical := by
  induction ls generalizing s with
  | nil => exact h
  | cons l ls ih =>
    unfold Machine.laneResults
    split
    next e => exact ih (State.Canonical.pushedBy ((hf l s h).ok e) ..)
    next e => exact ih ((hf l s h).error e)

theorem ctxFilter {lane : Nat → Entry → Nat → State → Except Failed (List Word × State)} (h : s.Canonical) (hl : ∀ i e l t, t.Canonical → Tries (lane i e l t)) (c : Ctx)
    (r d : Nat) : (c.filter r d lane s).Canonical := by
  unfold Ctx.filter
  split
  · exact h
  split
  next e =>
    split
    exacts [trivial, (h.ctxEntries ..).error e]
  next s1 e =>
    have h1 : s1.Canonical := (h.ctxEntries ..).ok e
    extract_lets entry bad
    split
    · trivial
    have h2 := laneResults (f := fun l z => lane (c.resIndex r l) (entry l) l z) h1 (fun l t ht => hl _ _ _ t ht) s1.nextId (laneList c.act)
    dsimp only
    split
    · split
      exacts [trivial, h2]
    · refine State.Canonical.settlePushes (State.Canonical.modWave (State.Canonical.foldl h2 (fun t x ht => ?_) _) ..)
      split
      exacts [ht.modWave .., ht]

theorem execTex (h : s.Canonical) (f : FmtG) : Kept (execTex f s) := by
  refine h.issue fun c t ht => ht.ctxFilter (fun i e l z hz => ?_) ..
  exact hz.texSample ..

theorem texSize (h : s.Canonical) (core asid : Nat) (e : Entry) (l y : Nat) (priv : Bool) (who : Option Reader) : Tries (s.texSize core asid e l y priv who) := by
  unfold State.texSize
  split
  · exact h
  · extract_lets _ _ _
    split
    · exact (h.mapByte ..).map fun _ h => h
    · exact h

theorem execTexq (h : s.Canonical) (f : FmtG) : Kept (execTexq f s) := by
  refine h.issue fun c t ht => ht.ctxFilter (fun i e l z hz => ?_) ..
  exact hz.texSize ..

end State.Canonical

end Sys2Proof.Machine
end

section
/-! PROOFS. The operations of Machine/Vox keep the canonical form (O7). -/

namespace Sys2Proof.Machine

namespace State.Canonical
variable {s t : State}

theorem wakeTranslated (h : s.Canonical) : s.wakeTranslated.Canonical := h.congr rfl

theorem putSegment (h : s.Canonical) (e : CodeEntry) : (s.putSegment e).Canonical := by
  unfold State.putSegment
  extract_lets _ _ t
  have ht : t.Canonical := ((h.putBytes ..).putBytes ..).useCode ..
  exact ht.congr rfl

theorem translateSegment (h : s.Canonical) (e : CodeEntry) : (s.translateSegment e).Canonical := by
  unfold State.translateSegment
  refine State.Canonical.wakeTranslated ?_
  split
  · exact h.useCode ..
  · exact h.putSegment ..

theorem execSegmentTranslation (h : s.Canonical) (grid segment : Nat) : Kept (execSegmentTranslation grid segment s) := by
  unfold Machine.execSegmentTranslation
  refine Kept.event ?_
  refine (Given.any _).bind ?_
  rintro u hu
  refine (Given.any _).bind ?_
  rintro u1 hu1
  refine (Given.any _).bind ?_
  rintro u2 hu2
  split
  · trivial
  · exact h.translateSegment ..

theorem voxStatus (h : s.Canonical) (asid desc status : Nat) (at_ : Option (Nat × Nat)) : (s.voxStatus asid desc status at_).Canonical := by
  unfold State.voxStatus
  extract_lets _
  split
  next e => exact (h.ctxWrite ..).ok e
  · exact h

theorem voxBegin (h : s.Canonical) (g : Grid) (desc : Nat) (vh : VoxHeader) (m : VoxModule) : (s.voxBegin g desc vh m).Canonical := by
  unfold State.voxBegin
  extract_lets s1 entry
  have h1 : s1.Canonical := by
    unfold s1
    split
    exacts [h.translateSegment .., h]
  split
  · exact (h1.voxStatus ..).launchAnswer ..
  extract_lets record
  split
  · exact (h1.voxStatus ..).launchAnswer ..
  next e =>
    have h2 := (h1.ctxWrite ..).ok e
    exact State.Canonical.afterReads (State.Canonical.voxStatus h2 ..).newId (fun u hu => hu.launch ..) ..

theorem execVxlaunch (h : s.Canonical) (id : Nat) : Kept (execVxlaunch id s) := by
  unfold Machine.execVxlaunch
  refine h.runCommand fun c t ht => ?_
  refine State.Canonical.afterReads ht (fun u hu => ?_) ..
  split
  · exact hu.unreadLaunch ..
  split
  · exact (hu.voxStatus ..).unreadLaunch ..
  split
  · exact (hu.voxStatus ..).launchAnswer ..
  · exact hu.voxBegin ..

theorem execNext (h : s.Canonical) (n : BitVec 22) : Kept (execNext n s) := by
  unfold Machine.execNext
  refine h.issueOk fun c t ht => ?_
  exact ht.ctxPutV ..

theorem execNextVa (h : s.Canonical) (a : BitVec 7) : Kept (execNextVa a s) := by
  unfold Machine.execNextVa
  refine h.issueOk fun c t ht => ?_
  exact ht.ctxPutV ..

theorem gatherConflict (h : s.Canonical) (ws : List Wave) (vox : Grid) : (s.gatherConflict ws vox).Canonical := by
  unfold State.gatherConflict
  refine h.foldl (fun t b ht => ?_) _
  split
  · exact ht
  · split
    · exact ht
    · extract_lets _ _
      exact ht.trap ..

theorem execRegroup (h : s.Canonical) (gang wg : Nat) : Kept (execRegroup gang wg s) := by
  unfold Machine.execRegroup
  refine Kept.event ((Given.any _).bind fun ga _ => (Given.any _).bind fun gr _ => (Given.any _).bind fun m _ => (Given.any _).bind fun g _ => ?_)
  extract_lets ws live blocks succs gathers sorted used
  split
  · trivial
  split
  · exact h.gatherConflict ..
  · refine State.Canonical.congr (s := used.foldl State.useCode (s.modWaves (ws.map (·.id)) (s.regroupWave gr m sorted gathers))) ?_ rfl
    exact (h.modWaves ..).foldl (fun t n ht => ht.useCode n) _

end State.Canonical

end Sys2Proof.Machine
end

section
/-! PROOFS. The operations of Machine/Reissue keep the canonical form (O7). -/

namespace Sys2Proof.Machine

namespace State.Canonical
variable {s t : State}

theorem performWord (h : s.Canonical) (i : Instr) : Kept (performWord i s) := by
  cases i
  exacts [h.execIadd .., h.execIsub .., h.execImul .., h.execImulhI .., h.execImulhZ .., h.execImad .., h.execAnd .., h.execOr .., h.execXor .., h.execShl ..,
    h.execShr .., h.execSar .., h.execRol .., h.execBfe .., h.execBfi .., h.execIminI .., h.execIminZ .., h.execImaxI .., h.execImaxZ .., h.execIcmp ..,
    h.execSel .., h.execLadd .., h.execIadd64 .., h.execIsub64 .., h.execIcmp64 .., h.execShlImm .., h.execShrImm .., h.execSarImm .., h.execRolImm ..,
    h.execShlImm64 .., h.execShrImm64 .., h.execSarImm64 .., h.execRolImm64 .., h.execIaddImm .., h.execAndImm .., h.execMovi .., h.execMov ..,
    h.execMov64 .., h.execPopc .., h.execPopc64 .., h.execClz .., h.execClz64 .., h.execImul64 .., h.execFadd .., h.execFsub .., h.execFmul ..,
    h.execFfma .., h.execFmin .., h.execFmax .., h.execFcmp .., h.execFdiv .., h.execFrcp .., h.execFrsq .., h.execFsqrt .., h.execFex2 ..,
    h.execFlg2 .., h.execFsin .., h.execFcos .., h.execFrnd .., h.execDadd .., h.execDsub .., h.execDmul .., h.execDffma .., h.execDmin ..,
    h.execDmax .., h.execDcmp .., h.execDdiv .., h.execDsqrt .., h.execDrnd .., h.execHadd2 .., h.execHfma2 .., h.execBfma2 .., h.execCvtFromInteger ..,
    h.execCvtFromFloat .., h.execPack .., h.execUnpk .., h.execShflIdx .., h.execShflXor .., h.execShflUp .., h.execShflDown .., h.execVote ..,
    h.execBcast .., h.execRedux .., h.execScan .., h.execBra .., h.execBrx .., h.execCall .., h.execCalli .., h.execRet .., h.execMeetLabel ..,
    h.execMeetRegister .., h.execExit .., h.execYield .., h.execBar .., h.execBarnet .., h.execNop .., h.execBarInit .., h.execBarArrive ..,
    h.execBarWait .., h.execBarSync .., h.execLdZ8 .., h.execLdI8 .., h.execLdZ16 .., h.execLdI16 .., h.execLd32 .., h.execLd64 .., h.execSt8 ..,
    h.execSt16 .., h.execSt32 .., h.execSt64 .., h.execLds32 .., h.execLds64 .., h.execSts32 .., h.execSts64 .., h.execLdlod .., h.execLck ..,
    h.execUlk .., h.execPref .., h.execCinvLine .., h.execCinvUnl .., h.execCinvAll .., h.execCinvIline .., h.execCinvIall .., h.execAtom32 ..,
    h.execAtom64 .., h.execAcas .., h.execRed .., h.execMcst .., h.execRdst .., h.execTxb .., h.execTxld .., h.execTxst .., h.execTxc .., h.execTxa ..,
    h.execFence .., h.execWait .., h.execMxop .., h.execMxopZero .., h.execMxdrnI32 .., h.execMxdrnI64 .., h.execMxdrnF32 .., h.execTeam ..,
    h.execMxbeg .., h.execMxend, h.execMxfold .., h.execMxres, h.execCpy .., h.execCpyf .., h.execTrav .., h.execTrnx .., h.execIsect .., h.execRast ..,
    h.execGeosync .., h.execTex .., h.execTexq .., h.execCsrr .., h.execCsrw .., h.execTrapret .., h.execSmask .., h.execClock .., h.execRng ..,
    h.execHintExt .., h.execHintStall .., h.execHintNeg, h.execHintRnd .., h.execHintSat .., h.execHintCache .., h.execHintNb, h.execHintDtree,
    h.execNext .., h.execNextVa .., trivial, trivial, trivial, trivial, trivial, trivial, trivial, trivial, trivial, trivial, trivial, trivial, trivial,
    trivial, trivial, trivial, trivial, trivial, trivial, trivial, trivial, trivial, trivial, trivial, trivial, trivial, trivial, trivial, trivial,
    trivial, trivial, trivial, trivial, trivial, trivial, trivial, trivial, trivial, trivial, trivial, trivial, trivial, trivial, trivial, trivial,
    trivial, trivial, trivial, trivial, trivial, trivial, trivial, trivial, trivial, trivial, trivial, trivial, trivial, trivial, trivial, trivial,
    trivial, trivial, trivial, trivial, trivial, trivial, trivial, trivial, trivial, trivial, trivial, trivial, trivial, trivial, trivial, trivial,
    trivial, trivial, trivial, trivial, trivial, trivial, trivial, trivial, trivial, trivial, trivial, trivial]

theorem performWaiting (h : s.Canonical) (wave kind : Nat) (later : Bool) : Given State.Canonical (s.performWaiting wave kind later) := by
  unfold State.performWaiting
  refine (Given.any _).bind fun w _ => ?_
  split
  · trivial
  extract_lets freed s1
  have hfreed : freed.Canonical := h.modWave ..
  have h1 : s1.Canonical := hfreed.congr rfl
  split
  · exact h1
  next i _ =>
    split
    next e =>
      split
      exacts [trivial, (h1.performWord i).next e]
    · trivial

theorem unmappedWait (h : s.Canonical) (w : Wave) : Given State.Canonical (s.unmappedWait w) := by
  unfold State.unmappedWait
  split
  next x _ _ _ _ _ _ _ _ _ _ =>
    extract_lets _
    refine (Given.any _).bind ?_
    rintro ⟨x, u⟩ hu
    dsimp only at hu ⊢
    split
    · trivial
    · exact h.portPolls ..
  · trivial

theorem execPortWake (h : s.Canonical) (wave : Nat) : Kept (execPortWake wave s) := by
  unfold Machine.execPortWake
  refine Kept.event ?_
  refine (Given.any _).bind ?_
  rintro u hu
  split
  · trivial
  · split
    · exact h.performWaiting ..
    · exact h.unmappedWait ..

theorem execTicketTurn (h : s.Canonical) (wave : Nat) : Kept (execTicketTurn wave s) := by
  unfold Machine.execTicketTurn
  refine Kept.event ?_
  exact h.performWaiting ..

end State.Canonical

end Sys2Proof.Machine
end

section
/-! PROOFS. The operations of Machine/Dispatch keep the canonical form (O7). -/

namespace Sys2Proof.Machine

namespace State.Canonical
variable {s t : State}

theorem exec (h : s.Canonical) (i : Instr) : Kept (exec i s) := by
  unfold Machine.exec
  split
  exacts [h.execIadd .., h.execIsub .., h.execImul .., h.execImulhI .., h.execImulhZ .., h.execImad .., h.execAnd .., h.execOr .., h.execXor .., h.execShl ..,
    h.execShr .., h.execSar .., h.execRol .., h.execBfe .., h.execBfi .., h.execIminI .., h.execIminZ .., h.execImaxI .., h.execImaxZ .., h.execIcmp ..,
    h.execSel .., h.execLadd .., h.execIadd64 .., h.execIsub64 .., h.execIcmp64 .., h.execShlImm .., h.execShrImm .., h.execSarImm .., h.execRolImm ..,
    h.execShlImm64 .., h.execShrImm64 .., h.execSarImm64 .., h.execRolImm64 .., h.execIaddImm .., h.execAndImm .., h.execMovi .., h.execMov ..,
    h.execMov64 .., h.execPopc .., h.execPopc64 .., h.execClz .., h.execClz64 .., h.execImul64 .., h.execFadd .., h.execFsub .., h.execFmul ..,
    h.execFfma .., h.execFmin .., h.execFmax .., h.execFcmp .., h.execFdiv .., h.execFrcp .., h.execFrsq .., h.execFsqrt .., h.execFex2 ..,
    h.execFlg2 .., h.execFsin .., h.execFcos .., h.execFrnd .., h.execDadd .., h.execDsub .., h.execDmul .., h.execDffma .., h.execDmin ..,
    h.execDmax .., h.execDcmp .., h.execDdiv .., h.execDsqrt .., h.execDrnd .., h.execHadd2 .., h.execHfma2 .., h.execBfma2 .., h.execCvtFromInteger ..,
    h.execCvtFromFloat .., h.execPack .., h.execUnpk .., h.execShflIdx .., h.execShflXor .., h.execShflUp .., h.execShflDown .., h.execVote ..,
    h.execBcast .., h.execRedux .., h.execScan .., h.execBra .., h.execBrx .., h.execCall .., h.execCalli .., h.execRet .., h.execMeetLabel ..,
    h.execMeetRegister .., h.execExit .., h.execYield .., h.execBar .., h.execBarnet .., h.execNop .., h.execBarInit .., h.execBarArrive ..,
    h.execBarWait .., h.execBarSync .., h.execLdZ8 .., h.execLdI8 .., h.execLdZ16 .., h.execLdI16 .., h.execLd32 .., h.execLd64 .., h.execSt8 ..,
    h.execSt16 .., h.execSt32 .., h.execSt64 .., h.execLds32 .., h.execLds64 .., h.execSts32 .., h.execSts64 .., h.execLdlod .., h.execLck ..,
    h.execUlk .., h.execPref .., h.execCinvLine .., h.execCinvUnl .., h.execCinvAll .., h.execCinvIline .., h.execCinvIall .., h.execAtom32 ..,
    h.execAtom64 .., h.execAcas .., h.execRed .., h.execMcst .., h.execRdst .., h.execTxb .., h.execTxld .., h.execTxst .., h.execTxc .., h.execTxa ..,
    h.execFence .., h.execWait .., h.execMxop .., h.execMxopZero .., h.execMxdrnI32 .., h.execMxdrnI64 .., h.execMxdrnF32 .., h.execTeam ..,
    h.execMxbeg .., h.execMxend, h.execMxfold .., h.execMxres, h.execCpy .., h.execCpyf .., h.execTrav .., h.execTrnx .., h.execIsect .., h.execRast ..,
    h.execGeosync .., h.execTex .., h.execTexq .., h.execCsrr .., h.execCsrw .., h.execTrapret .., h.execSmask .., h.execClock .., h.execRng ..,
    h.execHintExt .., h.execHintStall .., h.execHintNeg, h.execHintRnd .., h.execHintSat .., h.execHintCache .., h.execHintNb, h.execHintDtree,
    h.execNext .., h.execNextVa .., h.execSdpost .., h.execClpost .., h.execSwtrap .., h.execLegacyRegisterAccess .., h.execFpcWrite ..,
    h.execProofPullWrite .., h.execWalkComplete .., h.execLoadReturn .., h.execHomeSliceWrite .., h.execStoreAcknowledge .., h.execAtomicPerform ..,
    h.execTransactionCommit .., h.execSliceWriteback .., h.execTrapEntry .., h.execCopyLineArrival .., h.execCopyComplete ..,
    h.execQueueFenceComplete .., h.execReservationPost .., h.execMxbegAdmission .., h.execPassGrant .., h.execPassComplete .., h.execDrainComplete ..,
    h.execPortWake .., h.execPartialBatchTimeout .., h.execConePush .., h.execDropNotice .., h.execTicketTurn .., h.execQueryComplete ..,
    h.execGeosyncDone .., h.execQuantumExpiry .., h.execForcedSave .., h.execPreemptHoldTimeout .., h.execGangEviction .., h.execGangRestore ..,
    h.execCommandClaim .., h.execLaunch .., h.execVxlaunch .., h.execShootdown .., h.execClean .., h.execCancel .., h.execCkpt .., h.execRestore ..,
    h.execUnlistedOp .., h.execSignalCheck .., h.execLaunchComplete .., h.execHeldCompletion .., h.execCqTimer .., h.execShootdownComplete ..,
    h.execCleanComplete .., h.execCheckpointComplete .., h.execRegroup .., h.execSegmentTranslation .., h.execHostRead .., h.execHostWrite ..,
    h.execCtxcreate, h.execCtxset, h.execCtxreset, h.execCtxdestroy, h.execSqcreate, h.execCqcreate, h.execQdelete, h.execQuantum, h.execPin,
    h.execUnpin, h.execProofread, h.execProofpull, h.execEvring, h.execPeernum, h.execFwstage, h.execFwcommit, h.execMailboxBadcmd,
    h.execDoorbellWhileBusy, h.execRegisterWrite .., h.execHeldEventWrite, h.execGoRun .., h.execGoClockGated .., h.execGoRetention .., h.execQwake ..,
    h.execQuadMoveDone .., h.execResetBoot, h.execRecoveryCommand, h.execSpdmMessage .., h.execLaneSparing .., h.execPeerUnreachable ..,
    h.execTakeover .., h.execQuadFailure .., h.execSofterr .., h.execPatrolScrub .., h.execFirmwareStagingWrite ..]

end State.Canonical

end Sys2Proof.Machine
end

section
/-! PROOFS. The operations of Machine/Agenda keep the canonical form (O7). -/

namespace Sys2Proof.Machine

namespace State.Canonical
variable {s t : State}

theorem issueWord (h : s.Canonical) (wave : Nat) : Kept (issueWord wave s) := by
  have hf := h.fetchNext wave
  unfold Machine.issueWord
  split
  · exact h
  next e => rw [e] at hf; exact hf
  next e => rw [e] at hf; exact State.Canonical.exec hf _

theorem passCycles (h : s.Canonical) (n : Nat) : (s.passCycles n).Canonical := h.congr rfl

theorem moveRotations (h : s.Canonical) (old : State) : (s.moveRotations old).Canonical := h.congr rfl

theorem slotFor (h : s.Canonical) (w : Wave) : (s.slotFor w).Canonical := (h.passCycles ..).ite h

theorem issueTurn (h : s.Canonical) (wave : Nat) : Kept (issueTurn wave s) := by
  unfold Machine.issueTurn
  split
  · exact h
  extract_lets s1
  split
  · refine State.Canonical.issueWord ?_ wave
    exact State.Canonical.congr (h.slotFor _) rfl
  · exact h

theorem takeTurn (h : s.Canonical) (t : Turn) : Kept (takeTurn t s) := by
  unfold Machine.takeTurn
  split
  · exact h.issueTurn _
  split
  · exact h
  split
  · exact h
  · exact h.exec _

theorem podTurn (h : s.Canonical) : s.podTurn.Canonical := by
  unfold State.podTurn
  split
  · exact (h.modGrid ..).releaseBarriers
  · exact h

theorem queryTurn (h : s.Canonical) : s.queryTurn.Canonical := by
  unfold State.queryTurn
  split
  · exact h
  · split
    · exact h.stepQuery ..
    · exact h

theorem agentTurn (h : s.Canonical) : s.agentTurn.Canonical := h.congr rfl

theorem linkTurn (h : s.Canonical) : s.linkTurn.Canonical := h.modHost ..

theorem tick (h : s.Canonical) : s.tick.Canonical := by
  unfold State.tick
  extract_lets src
  have hsrc : src.Canonical := h.passCycles ..
  exact hsrc.congr rfl

theorem engineTurn (h : s.Canonical) : Given State.Canonical s.engineTurn := by
  unfold State.engineTurn
  refine Given.orElse (Given.findSome (fun i => (h.exec i).goesOn) _) (Given.findSome (fun m => ?_) _)
  exact (h.execQuadMoveDone m.1).goesOn

theorem waveTurn (h : s.Canonical) : Given State.Canonical s.waveTurn := by
  unfold State.waveTurn
  refine Given.findSome (fun w => ?_) _
  split
  exacts [(h.issueTurn w.id).goesOn, trivial]

theorem defaultTurn (h : s.Canonical) : s.defaultTurn.Canonical := by
  unfold State.defaultTurn
  extract_lets s1 r
  have h1 : s1.Canonical := h.congr rfl
  have hr : Given State.Canonical r := by
    unfold r
    split
    exacts [Given.orElse h1.engineTurn h1.waveTurn, Given.orElse h1.waveTurn h1.engineTurn]
  exact hr.getD (h1.passCycles 1)

end State.Canonical

end Sys2Proof.Machine
end

section
/-! PROOFS. The operations of Machine/Placed keep the canonical form (O7). -/

namespace Sys2Proof.Machine

namespace State.Canonical
variable {s t : State}

theorem startResets (h : s.Canonical) : s.startResets.Canonical := (h.modKiln ..).foldl (fun _ _ ht => ht.startReset ..) _

end State.Canonical

end Sys2Proof.Machine
end

section
/-! PROOFS. The operations of Machine/Step keep the canonical form (O7). -/

namespace Sys2Proof.Machine

namespace State.Canonical
variable {s t : State}

theorem afterTurn {r : Result} (hr : Kept r) (old : State) : Kept (afterTurn old r) := by
  cases r with
  | next t =>
    have hmoved := State.Canonical.moveRotations (State.Canonical.startResets hr) old
    exact hmoved.podTurn.queryTurn.agentTurn.linkTurn.tick
  | fault f => trivial
  | refused f => trivial

theorem step (h : s.Canonical) : Kept (step s) := by
  unfold Machine.step
  split
  next ts _ =>
    have h1 : ({ s with turns := ts } : State).Canonical := h.congr rfl
    exact afterTurn (h1.takeTurn _) s
  · exact afterTurn (r := .next s.defaultTurn) h.defaultTurn s

end State.Canonical

/-- Settles O7: each operation of the model keeps the canonical form, which its writes of bytes keep, and so does the step that is made of them. -/
theorem stepKeepsMemoryCanonical : Obligations.StepKeepsMemoryCanonical := by
  unfold Obligations.StepKeepsMemoryCanonical
  intro s t hs hstep
  exact hs.step.next hstep

end Sys2Proof.Machine
end


section
/-! PROOFS. Completion entries and events (O52). -/

namespace Sys2Proof.Machine

/-! ### Memory below the peers' windows -/

section
variable {s t : State}

/-- An address of local memory or of the host window is served as it stands (R16, R17). -/
theorem localPa_low {pa : Nat} (h : pa < 2 ^ 51) : s.localPa pa = pa := by
  have hwindow : bitsOf pa 50 2 ≠ 2 := by unfold bitsOf; omega
  unfold State.localPa
  rw [if_neg fun hpeer => hwindow hpeer.1]

/-- Bytes apart from those written read as before. -/
theorem bytesAt_putBytes_apart {pa a n : Nat} {bs : List Byte} (h : s.localPa a + n ≤ s.localPa pa ∨ s.localPa pa + bs.length ≤ s.localPa a) :
    (s.putBytes pa bs).bytesAt a n = s.bytesAt a n := SMap.getRange_setRange_other _ _ _ _ _ h

/-- A number apart from the one written reads as before. -/
theorem natAt_putNat_apart {pa a n k x : Nat} (hpa : pa < 2 ^ 51) (ha : a < 2 ^ 51) (h : a + n ≤ pa ∨ pa + k ≤ a) : (s.putNat pa k x).natAt a n = s.natAt a n := by
  refine congrArg natOfBytes (bytesAt_putBytes_apart ?_)
  rw [localPa_low ha, localPa_low hpa, bytesOfNat_length]
  exact h

/-- A number is written at its bytes alone. -/
theorem get_putNat_apart {pa k x a : Nat} (h : ¬(s.localPa pa ≤ a ∧ a < s.localPa pa + k)) : (s.putNat pa k x).mem.get a = s.mem.get a := by
  have hget := s.putBytes_get pa (bytesOfNat k x) a
  rw [bytesOfNat_length, if_neg h] at hget
  exact hget

end

/-! ### Completion queues -/

section
variable {s : State} {q : CompQueue}

theorem exec_heldCompletion (hq : s.comp? q.id = some q) (hheld : q.held ≠ []) (hroom : s.compRoom q = true) :
    exec (.heldCompletion q.id) s = .next (s.flushComp q.id q.held.length) := by
  refine event_some ?_
  rw [hq, Option.bind_some, if_pos (by simp [hheld, hroom])]

theorem exec_cqTimer (hq : s.comp? q.id = some q) (hun : q.unsignalled ≠ 0) (hdue : q.oldest + q.timer * 1300 ≤ s.cycle.toNat) :
    exec (.cqTimer q.id) s = .next ((s.modComp q.id fun x => { x with unsignalled := 0 }).signal q.vector) := by
  refine event_some ?_
  rw [hq, Option.bind_some, if_pos (by simp [hun, hdue])]

theorem exec_heldEventWrite {e : Event} {es : List Event} (he : s.host.events = e :: es) (hready : s.eventReady e = true) :
    exec .heldEventWrite s = .next ((s.modHost fun h => { h with events := es }).writeEvent e) := by
  refine event_some ?_
  rw [he]
  exact if_pos hready

/-- The two writes of a completion entry: the entry in its slot, then DTAIL. -/
def State.entryPut (s : State) (q : CompQueue) (e : BitVec 128) : State :=
  (s.putNat (q.header + 64 + 16 * (q.tail % 2 ^ q.log2)) 16 (e.toNat + phaseOf q.tail q.log2)).putNat (q.header + 4) 4 (q.tail + 1)

theorem writeEntry_mem (e : BitVec 128) : (s.writeEntry q e).mem = (s.entryPut q e).mem := by
  unfold State.writeEntry
  dsimp only
  split <;> rfl

theorem writeEntry_kiln (e : BitVec 128) : (s.writeEntry q e).kiln = s.kiln := by
  unfold State.writeEntry
  dsimp only
  split <;> rfl

theorem writeEntry_natAt (e : BitVec 128) (pa n : Nat) : (s.writeEntry q e).natAt pa n = (s.entryPut q e).natAt pa n := by
  unfold State.natAt State.bytesAt
  rw [localPa_congr (writeEntry_kiln e), writeEntry_mem]
  rfl

/-- The vector is signalled exactly when COUNT entries stand unsignalled. -/
theorem writeEntry_msix (e : BitVec 128) :
    (s.writeEntry q e).host.msix = if q.count ≤ q.unsignalled + 1 then s.host.msix.set q.vector (s.host.msix.get q.vector + 1) else s.host.msix := by
  unfold State.writeEntry
  dsimp only
  by_cases hfull : q.count ≤ q.unsignalled + 1
  · simp only [hfull, if_true]
    rfl
  · simp only [hfull, if_false]
    rfl

/-- A slot's index in a ring of at most 2^16 entries. -/
theorem slot_lt (i : Nat) {k : Nat} (hk : k ≤ 16) : i % 2 ^ k < 2 ^ 16 :=
  Nat.lt_of_lt_of_le (Nat.mod_lt _ (Nat.two_pow_pos k)) (Nat.pow_le_pow_right (by decide) hk)

theorem writeEntry_tail (e : BitVec 128) : (s.writeEntry q e).natAt (q.header + 4) 4 = (q.tail + 1) % 2 ^ 32 := by
  rw [writeEntry_natAt]
  exact natAt_putNat ..

theorem writeEntry_slot (e : BitVec 128) (hlog : q.log2 ≤ 16) (hlow : q.header + 2 ^ 21 ≤ 2 ^ 51) :
    (s.writeEntry q e).natAt (q.header + 64 + 16 * (q.tail % 2 ^ q.log2)) 16 = (e.toNat + (q.tail / 2 ^ q.log2 + 1) % 2) % 2 ^ 128 := by
  have hslot := slot_lt q.tail hlog
  rw [writeEntry_natAt]
  unfold State.entryPut
  rw [natAt_putNat_apart (by omega) (by omega) (.inr (by omega)), natAt_putNat]
  rfl

theorem writeEntry_outside (e : BitVec 128) : SameBytesOutside s (s.writeEntry q e) (fun a =>
    (s.localPa (q.header + 64 + 16 * (q.tail % 2 ^ q.log2)) ≤ a ∧ a < s.localPa (q.header + 64 + 16 * (q.tail % 2 ^ q.log2)) + 16) ∨
      (s.localPa (q.header + 4) ≤ a ∧ a < s.localPa (q.header + 4) + 4)) := by
  intro a ha
  rw [not_or] at ha
  rw [writeEntry_mem]
  exact (get_putNat_apart (s := s.putNat (q.header + 64 + 16 * (q.tail % 2 ^ q.log2)) 16 (e.toNat + phaseOf q.tail q.log2)) ha.2).trans (get_putNat_apart ha.1)

end

/-! ### Events -/

section
variable {s : State} {e : Event}

/-- The address of the slot that the next event takes in the ring (R487). -/
def State.eventSlot (s : State) : Nat := s.host.ring + 64 + 64 * (s.host.ringTail % 2 ^ s.host.ringLog2)

/-- The two writes of an event's record, made after its fault block: the record in its slot, then DTAIL. -/
def State.recordPut (s t : State) (x : Nat) : State := ((t.putNat s.eventSlot 64 x).putNat (s.host.ring + 4) 4 (s.host.ringTail + 1)).modHost fun h => { h with ringTail := (s.host.ringTail + 1) % 2 ^ 32 }

/-- The fault block in its context's next slot, and the note of the record that names it. -/
def State.blockPut (s : State) (asid : Nat) (block : List Byte) : State :=
  ((s.putBytes ((s.ctx asid).faultbuf.toNat + 2048 * ((s.ctx asid).nextFault % 2 ^ (s.ctx asid).fblog2n)) block).modCtx asid fun c => { c with nextFault := c.nextFault + 1 }).modHost fun h =>
    { h with slots := h.slots.filter (fun (x : Nat × Nat × Nat) => !(x.1 = asid && x.2.1 = (s.ctx asid).nextFault % 2 ^ (s.ctx asid).fblog2n)) ++
      [(asid, (s.ctx asid).nextFault % 2 ^ (s.ctx asid).fblog2n, s.host.ringTail)] }

theorem writeEvent_of_plain (h : e.fault = none) : s.writeEvent e = s.recordPut s (e.record.toNat + 0 + (s.host.ringTail / 2 ^ s.host.ringLog2 + 1) % 2) := by
  unfold State.writeEvent
  rw [h]
  rfl

theorem writeEvent_of_fault {asid : Nat} {block : List Byte} (h : e.fault = some (asid, block)) :
    s.writeEvent e = s.recordPut (s.blockPut asid block) (e.record.toNat +
      ((s.ctx asid).faultbuf.toNat + 2048 * ((s.ctx asid).nextFault % 2 ^ (s.ctx asid).fblog2n)) * 2 ^ 84 + (s.host.ringTail / 2 ^ s.host.ringLog2 + 1) % 2) := by
  unfold State.writeEvent
  rw [h]
  rfl

theorem recordPut_ctx (t : State) (x asid : Nat) : (s.recordPut t x).ctx asid = t.ctx asid := by
  unfold State.recordPut
  rfl

theorem recordPut_slots (t : State) (x : Nat) : (s.recordPut t x).host.slots = t.host.slots := by
  unfold State.recordPut
  rfl

theorem recordPut_tail (t : State) (x : Nat) : (s.recordPut t x).natAt (s.host.ring + 4) 4 = (s.host.ringTail + 1) % 2 ^ 32 := natAt_putNat ..

theorem eventSlot_bounds (hlog : s.host.ringLog2 ≤ 16) : s.host.ring + 64 ≤ s.eventSlot ∧ s.eventSlot + 64 ≤ s.host.ring + 2 ^ 23 := by
  have hslot := slot_lt s.host.ringTail hlog
  unfold State.eventSlot
  omega

theorem recordPut_slot (t : State) (x : Nat) (hlog : s.host.ringLog2 ≤ 16) (hlow : s.host.ring + 2 ^ 23 ≤ 2 ^ 51) : (s.recordPut t x).natAt s.eventSlot 64 = x % 2 ^ 512 := by
  obtain ⟨habove, hbelow⟩ := eventSlot_bounds hlog
  have hdrop : (s.recordPut t x).natAt s.eventSlot 64 = ((t.putNat s.eventSlot 64 x).putNat (s.host.ring + 4) 4 (s.host.ringTail + 1)).natAt s.eventSlot 64 := rfl
  rw [hdrop, natAt_putNat_apart (by omega) (by omega) (.inr (by omega)), natAt_putNat]

/-- A record's writes leave the bytes outside the ring as they are. -/
theorem recordPut_bytesAt (t : State) (x : Nat) {a n : Nat} (hlog : s.host.ringLog2 ≤ 16) (hlow : s.host.ring + 2 ^ 23 ≤ 2 ^ 51) (ha : a < 2 ^ 51)
    (h : a + n ≤ s.host.ring ∨ s.host.ring + 2 ^ 23 ≤ a) : (s.recordPut t x).bytesAt a n = t.bytesAt a n := by
  obtain ⟨habove, hbelow⟩ := eventSlot_bounds hlog
  have hdrop : (s.recordPut t x).bytesAt a n = ((t.putNat s.eventSlot 64 x).putNat (s.host.ring + 4) 4 (s.host.ringTail + 1)).bytesAt a n := rfl
  rw [hdrop]
  refine (bytesAt_putBytes_apart ?_).trans (bytesAt_putBytes_apart ?_)
  · rw [localPa_low ha, localPa_low (by omega), bytesOfNat_length]
    omega
  · rw [localPa_low ha, localPa_low (by omega), bytesOfNat_length]
    omega

theorem blockPut_ctx (asid : Nat) (block : List Byte) : (s.blockPut asid block).ctx asid = { s.ctx asid with nextFault := (s.ctx asid).nextFault + 1 } := by
  have hctx := State.ctx_modCtx (s.putBytes ((s.ctx asid).faultbuf.toNat + 2048 * ((s.ctx asid).nextFault % 2 ^ (s.ctx asid).fblog2n)) block) asid
    (fun c => { c with nextFault := c.nextFault + 1 }) (fun _ => rfl) asid
  rw [if_pos rfl] at hctx
  exact hctx

/-- The record that last named the slot is not below HEAD: the event is held. -/
theorem eventReady_of_slotInUse {asid : Nat} {block : List Byte} (h : e.fault = some (asid, block))
    (huse : ∃ x ∈ s.host.slots, x.1 = asid ∧ x.2.1 = (s.ctx asid).nextFault % 2 ^ (s.ctx asid).fblog2n ∧ 2 ^ 31 ≤ (s.natAt s.host.ring 4 + 2 ^ 32 - (x.2.2 + 1)) % 2 ^ 32) :
    s.eventReady e = false := by
  obtain ⟨x, hx, hasid, hslot, hhead⟩ := huse
  have hused : (s.faultSlot asid).2 = false := by
    refine List.all_eq_false.mpr ⟨x, hx, ?_⟩
    simp only [hasid, hslot, decide_true, Bool.and_true, Bool.not_true, Bool.false_or, decide_eq_true_eq]
    exact Nat.not_lt.mpr hhead
  unfold State.eventReady
  rw [h]
  simp [hused]

end

/-- Settles O52: the entries and records by the writes that they are made of, each apart from the others. -/
theorem completionsAndEvents : Obligations.CompletionsAndEvents := by
  unfold Obligations.CompletionsAndEvents
  refine ⟨fun s q hq => ⟨exec_heldCompletion hq, exec_cqTimer hq⟩, fun s e es he hready => exec_heldEventWrite he hready, ?entry, ?fault, fun s e asid block h huse => eventReady_of_slotInUse h huse, ?plain⟩
  case entry =>
    intro s q e hlog hlow
    refine ⟨writeEntry_tail e, writeEntry_slot e hlog hlow, writeEntry_outside e, fun hfull => ?_, fun hless => ?_⟩
    · rw [writeEntry_msix, if_pos hfull]
    · rw [writeEntry_msix, if_neg (by omega)]
  case fault =>
    intro s e asid block h hlog hlow u slot base hlen hbase hapart
    have hu : u = _ := writeEvent_of_fault h
    rw [hu]
    refine ⟨?_, ?_, recordPut_tail .., recordPut_slot _ _ hlog hlow, ?_⟩
    · rw [recordPut_bytesAt _ _ hlog hlow (by omega) (by omega)]
      exact State.bytesAt_putBytes ..
    · rw [recordPut_ctx, blockPut_ctx]
    · rw [recordPut_slots]
      exact List.mem_append_right _ (List.mem_singleton_self _)
  case plain =>
    intro s e h hlog hlow
    rw [writeEvent_of_plain h]
    exact ⟨recordPut_tail .., recordPut_slot _ _ hlog hlow, rfl⟩

end Sys2Proof.Machine
end


section
/-! PROOFS. Answers of queries, and the end of geosync (O48). -/

namespace Sys2Proof.Machine

/-! ### A query whose root lies outside its pool (R396) -/

section
variable {q : Asker} (h : q.entry.nodes ≤ q.root) (ops : List Word) (s : State)
include h

theorem trav_of_rootOutside : ∃ ws, q.trav ops s = .ok (ws, s) := by
  unfold Asker.trav
  dsimp only
  split
  · exact ⟨_, rfl⟩
  split
  · exact ⟨_, rfl⟩
  exact ⟨_, rfl⟩

theorem trnx_of_rootOutside : ∃ ws, q.trnx ops s = .ok (ws, s) := by
  unfold Asker.trnx
  split
  · exact ⟨_, rfl⟩
  rw [if_pos h]
  exact ⟨_, rfl⟩

theorem isect_of_rootOutside : ∃ ws, q.isect ops s = .ok (ws, s) := by
  unfold Asker.isect
  dsimp only
  split
  · exact ⟨_, rfl⟩
  exact ⟨_, rfl⟩

/-- The function is unfolded before it is applied: the kernel would else evaluate the cursor of the operands. -/
theorem rast_of_rootOutside : ∃ ws, q.rast ops s = .ok (ws, s) := by
  have unfolded (f : Asker → List Word → State → Except (Option Nat) (List Word × State)) (hf : f = Asker.rast) : ∃ ws, f q ops s = .ok (ws, s) := by
    delta Asker.rast at hf
    subst hf
    beta_reduce
    extract_lets r
    clear_value r
    generalize cursorOf (r 14 + r 15 * 2 ^ 32) = cursor
    rcases cursor with _ | _ | p
    · exact ⟨_, rfl⟩
    · exact ⟨_, rfl⟩
    dsimp only
    split
    · exact ⟨_, rfl⟩
    exact ⟨_, rfl⟩
  exact unfolded _ rfl

end

/-- Whatever memory holds, such a query is answered, and reads nothing. -/
theorem answer_of_rootOutside (q : Query) {l : QueryLane} (h : Entry.nodes l.entry ≤ l.root) (s : State) : ∃ ws, q.answer l s = .ok (ws, s) := by
  unfold Query.answer Query.walked
  split
  · exact trav_of_rootOutside h ..
  · exact trnx_of_rootOutside h ..
  · exact isect_of_rootOutside h ..
  · exact rast_of_rootOutside h ..

/-- QUERY_COMPLETE of one lane (R395). -/
theorem exec_queryComplete {s t : State} {q : Query} {l : QueryLane} {ws : List Word} (hq : s.eng.queries.find? (fun x => x.id = q.id) = some q)
    (hl : q.lanes.find? (fun x => x.lane = l.lane) = some l) (hlane : l.lane < 32) (hans : q.answer l s = .ok (ws, t)) :
    exec (.queryComplete q.id (laneBit l.lane)) s = .next ((((t.pushedBy s.nextId q.id l.lane).putWords q.wave l.lane q.dst ws).modEng fun e =>
      { e with queries := e.queries.map fun x => if x.id = q.id then { x with lanes := x.lanes.filter fun y => y.lane ≠ l.lane } else x }).finishQuery q) := by
  refine event_some ?_
  have hone : s.queryLane q.id l.lane = some (((t.pushedBy s.nextId q.id l.lane).putWords q.wave l.lane q.dst ws).modEng fun e =>
      { e with queries := e.queries.map fun x => if x.id = q.id then { x with lanes := x.lanes.filter fun y => y.lane ≠ l.lane } else x }) := by
    unfold State.queryLane
    rw [hq]
    dsimp only
    rw [hl]
    dsimp only
    rw [hans]
  rw [hq, Option.bind_some, if_neg (laneBit_ne_zero hlane), laneList_laneBit hlane]
  simp only [lanesDo, hone, Option.bind_some, Option.map_some]

/-! ### Result registers -/

/-- A wave with a lane's result registers written. -/
def Wave.withWords (w : Wave) (lane d : Nat) (ws : List Word) (n : Nat) : Wave := (List.range n).foldl (fun x k => x.setV lane (d + k) (ws.getD k 0)) w

section
variable (w : Wave) (lane d : Nat) (ws : List Word)

theorem withWords_succ (n : Nat) : w.withWords lane d ws (n + 1) = (w.withWords lane d ws n).setV lane (d + n) (ws.getD n 0) := by
  unfold Wave.withWords
  rw [List.range_succ, List.foldl_append]
  rfl

/-- Result registers are all that the write changes. -/
theorem withWords_frame (n : Nat) : ∃ v, w.withWords lane d ws n = { w with v } := by
  induction n with
  | zero => exact ⟨w.v, rfl⟩
  | succ n ih =>
    obtain ⟨v, hv⟩ := ih
    rw [withWords_succ, hv]
    exact ⟨_, rfl⟩

theorem withWords_id (n : Nat) : (w.withWords lane d ws n).id = w.id := by
  obtain ⟨v, hv⟩ := withWords_frame w lane d ws n
  rw [hv]

theorem getV_withWords {n : Nat} (hd : d + n ≤ 112) (l : Nat) {r : Nat} (hr : r ≤ 111) :
    (w.withWords lane d ws n).getV l r = if l = lane ∧ d ≤ r ∧ r < d + n then ws.getD (r - d) 0 else w.getV l r := by
  induction n with
  | zero => exact (if_neg (by omega)).symm
  | succ n ih =>
    rw [withWords_succ, Wave.getV_setV _ _ _ _ _ _ (by omega) (by omega)]
    by_cases hlast : l = lane ∧ r = d + n
    · obtain ⟨rfl, rfl⟩ := hlast
      rw [if_pos ⟨rfl, rfl⟩, if_pos ⟨rfl, by omega, by omega⟩, Nat.add_sub_cancel_left]
    · rw [if_neg hlast, ih (by omega)]
      exact if_congr (by omega) rfl rfl

end

theorem wave?_putWords (s : State) (wave lane d : Nat) (ws : List Word) :
    (s.putWords wave lane d ws).wave? wave = (s.wave? wave).map fun w => w.withWords lane d ws ws.length := by
  refine (State.wave?_modWave s wave _ (fun w => withWords_id w lane d ws ws.length) wave).trans ?_
  simp only [if_true, Wave.withWords]

/-! ### Discarded words (R399) -/

section
variable (q : Query)

/-- A wave with LOST written in the lanes of a list. -/
def Query.lostIn (ls : List QueryLane) (w : Wave) : Wave := ls.foldl (fun x l => x.withWords l.lane q.dst q.lostWords q.lostWords.length) w

theorem lostIn_frame (ls : List QueryLane) (w : Wave) : ∃ v, q.lostIn ls w = { w with v } := by
  induction ls generalizing w with
  | nil => exact ⟨w.v, rfl⟩
  | cons l ls ih =>
    obtain ⟨v, hhead⟩ := withWords_frame w l.lane q.dst q.lostWords q.lostWords.length
    obtain ⟨v', htail⟩ := ih { w with v }
    refine ⟨v', ?_⟩
    unfold Query.lostIn at htail ⊢
    rw [List.foldl_cons, hhead, htail]

/-- Every lane of the list reads the words of a lost query. -/
theorem getV_lostIn (hd : q.dst + q.lostWords.length ≤ 112) {k : Nat} (hk : k < q.lostWords.length) (ls : List QueryLane) (w : Wave) (n : Nat)
    (h : n ∈ ls.map (fun l => l.lane) ∨ w.getV n (q.dst + k) = q.lostWords.getD k 0) : (q.lostIn ls w).getV n (q.dst + k) = q.lostWords.getD k 0 := by
  induction ls generalizing w with
  | nil => exact h.resolve_left List.not_mem_nil
  | cons l ls ih =>
    refine ih _ ?_
    have hput := getV_withWords w l.lane q.dst q.lostWords hd n (r := q.dst + k) (by omega)
    rw [Nat.add_sub_cancel_left] at hput
    by_cases hn : n = l.lane
    · exact .inr (hput.trans (if_pos ⟨hn, by omega, by omega⟩))
    · rw [if_neg fun hc => hn hc.1] at hput
      rw [hput]
      exact h.imp_left fun hmem => (List.mem_cons.mp hmem).resolve_left hn

theorem wave?_lostFold (ls : List QueryLane) (s : State) :
    (ls.foldl (fun t l => t.putWords q.wave l.lane q.dst q.lostWords) s).wave? q.wave = (s.wave? q.wave).map (q.lostIn ls) := by
  induction ls generalizing s with
  | nil => exact Option.map_id'.symm
  | cons l ls ih =>
    rw [List.foldl_cons, ih, wave?_putWords, Option.map_map]
    rfl

theorem eng_lostFold (ls : List QueryLane) (s : State) : (ls.foldl (fun t l => t.putWords q.wave l.lane q.dst q.lostWords) s).eng = s.eng := by
  induction ls generalizing s with
  | nil => rfl
  | cons l ls ih => exact ih _

/-- The status word of a lost query, its last, has OUTCOME 8. -/
theorem lostWords_outcome : (q.lostWords.getD (q.lostWords.length - 1) 0).toNat / 2 ^ 16 = 8 := by
  unfold Query.lostWords
  split <;> rfl

theorem wave?_discardQuery (s : State) : (s.discardQuery q).wave? q.wave =
    ((s.wave? q.wave).map (q.lostIn q.lanes)).map fun w => if w.alive then { w.lower 1 with rayLost := true } else w := by
  refine (State.wave?_modWave _ q.wave _ (fun w => ?_) q.wave).trans ?_
  · split <;> rfl
  · simp only [if_true]
    rw [wave?_lostFold]
    rfl

theorem queries_discardQuery (s : State) : (s.discardQuery q).eng.queries = s.eng.queries.filter fun x => x.id ≠ q.id :=
  congrArg Engines.queries (eng_lostFold q q.lanes _)

end

/-! ### geosync (R407) -/

theorem exec_geosyncDone {s : State} {g : GeoSync} (hg : s.eng.syncs.find? (fun x => x.id = g.id) = some g) :
    exec (.geosyncDone g.id) s = .next ((s.dropNodes g.asid g.units).modEng fun e => { e with syncs := e.syncs.filter fun x => x.id ≠ g.id }) := by
  refine event_some ?_
  rw [hg]
  rfl

/-- Settles O48: a lane's answer by the step of that lane, a discarded word by the fold over its lanes. -/
theorem queriesAnswer : Obligations.QueriesAnswer := by
  unfold Obligations.QueriesAnswer
  refine ⟨fun s t q l ws hq hl hlane hans => exec_queryComplete hq hl hlane hans, ?outside, ?words, ?lost, ?sync⟩
  case outside =>
    intro s q l hq hl hlane hroot
    obtain ⟨ws, hws⟩ := answer_of_rootOutside q hroot s
    exact ⟨ws, hws, exec_queryComplete hq hl hlane hws⟩
  case words =>
    intro s wave lane d ws w hw _ hd
    obtain ⟨v, hv⟩ := withWords_frame w lane d ws ws.length
    refine ⟨w.withWords lane d ws ws.length, ?_, fun l n _ hn => getV_withWords w lane d ws hd l hn, ?_, ?_, ?_, rfl⟩
    · rw [wave?_putWords, hw, Option.map_some]
    all_goals rw [hv]
  case lost =>
    intro s q w hw halive hd _
    obtain ⟨v, hframe⟩ := lostIn_frame q q.lanes w
    have hstill : (q.lostIn q.lanes w).alive = true := by
      rw [hframe]
      exact halive
    refine ⟨{ (q.lostIn q.lanes w).lower 1 with rayLost := true }, ?_, rfl, ?_, lostWords_outcome q, ?_, ?_⟩
    · rw [wave?_discardQuery, hw, Option.map_some, Option.map_some, if_pos hstill]
    · rw [hframe]
      rfl
    · intro l hl _ k hk
      exact getV_lostIn q hd hk q.lanes w l.lane (.inl (List.mem_map_of_mem hl))
    · intro x hx
      rw [queries_discardQuery, List.mem_filter] at hx
      exact of_decide_eq_true hx.2
  case sync =>
    intro s g hg
    refine ⟨_, _, exec_geosyncDone hg, fun x => ?_, fun x => ?_⟩
    · simp [-not_and, not_and_or]
    · simp [-not_and, not_and_or, or_assoc]

end Sys2Proof.Machine
end


section
/-! PROOFS. Words that pose queries, geosync, and the words of the filter unit (O39). -/

namespace Sys2Proof.Machine

/-! ### Posing queries (R394 to R396, R399) -/

section
variable {c : Ctx} {i : Instr} {r a n d words : Nat} {t u : State} {es : List (Nat × BitVec 512)}

theorem pose_of_inactive (h : c.act = 0) : c.pose i r a n d words t = .ok t := if_pos h

theorem pose_of_rayLost (h : c.act ≠ 0) (hlost : c.w.rayLost = true) : c.pose i r a n d words t = c.trapOn 11 0 c.act 0 0 := (if_neg h).trans (if_pos hlost)

/-- The entry that a lane's register names, as it was read. -/
def Ctx.namedEntry (c : Ctx) (es : List (Nat × BitVec 512)) (r l : Nat) : BitVec 512 := ((es.find? fun e => e.1 = c.resIndex r l).map (·.2)).getD 0

/-- The queries of a word as they come under way. -/
def Ctx.posed (c : Ctx) (i : Instr) (es : List (Nat × BitVec 512)) (r a n d words id : Nat) : Query :=
  { id, wave := c.w.id, core := c.w.core, asid := c.gr.asid, instr := i, privileged := c.w.priv, lanes := c.queryLanes es r a n, dst := d, words }

theorem queryLanes_pools (h : ∀ l, l < 32 → c.act.getLsbD l = true → Entry.noPool (c.namedEntry es r l) = false) :
    (c.queryLanes es r a n).filter (fun l => Entry.noPool l.entry) = [] := by
  refine List.filter_eq_nil_iff.mpr fun x hx => ?_
  obtain ⟨l, hl, rfl⟩ := List.mem_map.mp hx
  obtain ⟨hlt, hact⟩ := (mem_laneList ..).mp hl
  exact Bool.eq_false_iff.mp (h l hlt hact)

theorem pose_of_pools (h : c.act ≠ 0) (hlost : c.w.rayLost = false) (hes : c.entries r t = .ok (es, u))
    (hpool : ∀ l, l < 32 → c.act.getLsbD l = true → Entry.noPool (c.namedEntry es r l) = false) (hroom : t.slotsUsed c.w.core + laneCount c.act ≤ 2048) :
    c.pose i r a n d words t =
      .ok { u with nextId := u.nextId + 1, eng := { u.eng with queries := u.eng.queries ++ [c.posed i es r a n d words u.nextId] } } := by
  unfold Ctx.pose
  simp only [if_neg h, hlost, hes, queryLanes_pools hpool, if_neg (Nat.not_lt.mpr hroom), Bool.false_eq_true, if_false]
  rfl

end

/-! ### geosync (R407) -/

/-- The units that a scope word names, where the table allows it. -/
theorem geoUnits_of_allowed {core : Nat} {x : Word} (hx : x.toNat < 2 ^ 11) (hc : x.toNat / 4 % 2 ^ 9 ≤ 383) : geoUnits core x =
    some (if x.toNat % 4 = 0 then [core] else if x.toNat % 4 = 1 then (List.range 4).map (4 * quadOf core + ·) else if x.toNat % 4 = 2 then List.range 384
      else [x.toNat / 4 % 2 ^ 9]) := by
  have hhigh : bitsOf x.toNat 11 21 = 0 := by unfold bitsOf; omega
  have hcore : bitsOf x.toNat 2 9 = x.toNat / 4 % 2 ^ 9 := rfl
  have hkind : bitsOf x.toNat 0 2 = x.toNat % 4 := bitsOf_zero ..
  unfold geoUnits
  simp only [hhigh, hcore, hkind, Nat.not_lt.mpr hc, ne_eq, not_true_eq_false, decide_false, Bool.or_self, Bool.false_eq_true, if_false]
  congr 1
  split
  · rename_i h0
    rw [if_pos h0]
  · rename_i h1
    rw [h1]
    rfl
  · rename_i h2
    rw [h2]
    rfl
  · rename_i h0 h1 h2
    rw [if_neg h0, if_neg h1, if_neg h2]

theorem geoUnits_of_refused {core : Nat} {x : Word} (h : 2 ^ 11 ≤ x.toNat ∨ 383 < x.toNat / 4 % 2 ^ 9) : geoUnits core x = none := by
  have hbad : (bitsOf x.toNat 11 21 ≠ 0 || 383 < bitsOf x.toNat 2 9) = true := by
    rw [Bool.or_eq_true, decide_eq_true_eq, decide_eq_true_eq]
    have hlt := x.isLt
    unfold bitsOf
    omega
  unfold geoUnits
  exact if_pos hbad

theorem exec_geosync (f : FmtGs) (s : State) : exec (.geosync f) s = issue (.geosync f) s fun c t =>
    if c.act = 0 then .ok t
    else match geoUnits c.w.core (c.ssrc f.s.toNat 0 (lowestLane c.act)) with
      | none => c.illop
      | some units => if t.fencesOf c.w.id ≠ [] then .stay
        else .ok { t with nextId := t.nextId + 1, eng := { t.eng with syncs := t.eng.syncs ++ [⟨t.nextId, c.w.id, c.gr.asid, units⟩] } } := rfl

/-! ### The filter unit (R411 to R415) -/

/-- A wave with the words of some lanes written from a register on. -/
def Wave.withLanes (w : Wave) (d : Nat) (words : Nat → List Word) (ls : List Nat) : Wave := ls.foldl (fun x l => x.withWords l d (words l) (words l).length) w

section
variable (d : Nat) (words : Nat → List Word)

theorem withLanes_frame (ls : List Nat) (w : Wave) : ∃ v, w.withLanes d words ls = { w with v } := by
  induction ls generalizing w with
  | nil => exact ⟨w.v, rfl⟩
  | cons l ls ih =>
    obtain ⟨v, hhead⟩ := withWords_frame w l d (words l) (words l).length
    obtain ⟨v', htail⟩ := ih { w with v }
    refine ⟨v', ?_⟩
    unfold Wave.withLanes at htail ⊢
    rw [List.foldl_cons, hhead, htail]

theorem withLanes_eq (ls : List Nat) (w : Wave) : w.withLanes d words ls = { w with v := (w.withLanes d words ls).v } := by
  obtain ⟨v, hv⟩ := withLanes_frame d words ls w
  rw [hv]

theorem withLanes_id (ls : List Nat) (w : Wave) : (w.withLanes d words ls).id = w.id := by
  obtain ⟨v, hv⟩ := withLanes_frame d words ls w
  rw [hv]

/-- Each lane of the list reads its own words, and everything else as before. -/
theorem getV_withLanes {n : Nat} (hn : ∀ l, (words l).length = n) (hd : d + n ≤ 112) (l : Nat) {k : Nat} (hk : k ≤ 111) (ls : List Nat) (w : Wave) :
    (w.withLanes d words ls).getV l k = if l ∈ ls ∧ d ≤ k ∧ k < d + n then (words l).getD (k - d) 0 else w.getV l k := by
  induction ls generalizing w with
  | nil => exact (if_neg fun hmem => List.not_mem_nil hmem.1).symm
  | cons m ls ih =>
    have hstep : w.withLanes d words (m :: ls) = (w.withWords m d (words m) (words m).length).withLanes d words ls := rfl
    rw [hstep, ih, getV_withWords _ _ _ _ (by rw [hn]; exact hd) _ hk, hn]
    by_cases hin : d ≤ k ∧ k < d + n
    · by_cases hl : l = m
      · subst hl
        simp [hin]
      · simp [hin, hl]
    · simp [hin]

end

section
variable {c : Ctx} {r d n : Nat} {lane : Nat → Entry → Nat → State → Except Failed (List Word × State)} {t u u1 : State} {es : List (Nat × BitVec 512)} {words : Nat → List Word}

theorem filter_of_inactive (h : c.act = 0) : c.filter r d lane t = .ok t := if_pos h

theorem modWave_unchanged (s : State) (id : Nat) : (s.modWave id fun w => w) = s := by
  unfold State.modWave
  simp only [ite_self, List.map_id']

/-- The registers of every lane written, one lane after another. -/
theorem putLanes_eq {id d : Nat} {put : State → Nat × Except FltAt (List Word) → State}
    (hput : ∀ t l ws, put t (l, .ok ws) = t.modWave id fun w => w.withWords l d ws ws.length) (words : Nat → List Word) (ls : List Nat) (s : State) :
    (ls.map fun l => (l, .ok (words l))).foldl put s = s.modWave id fun w => w.withLanes d words ls := by
  induction ls generalizing s with
  | nil => exact (modWave_unchanged s id).symm
  | cons l ls ih =>
    rw [List.map_cons, List.foldl_cons, ih, hput]
    exact modWave_modWave fun w => withWords_id ..

/-- Where every lane has its words, no lane has a fault. -/
theorem noFaults {fault : Nat × Except FltAt (List Word) → Option (Nat × FltAt)} (hfault : ∀ l ws, fault (l, .ok ws) = none) (words : Nat → List Word) (ls : List Nat) :
    (ls.map fun l => (l, .ok (words l))).filterMap fault = [] := by
  refine List.filterMap_eq_nil_iff.mpr fun x hx => ?_
  obtain ⟨l, _, rfl⟩ := List.mem_map.mp hx
  exact hfault l _

theorem lanesWhere_eq_zero {f : Nat → Bool} (h : ∀ l, l < 32 → f l = false) : lanesWhere f = 0 := by
  refine BitVec.eq_of_getLsbD_eq fun l hl => ?_
  rw [lanesWhere_getLsbD, h l hl, Bool.and_false]
  exact (BitVec.getLsbD_zero).symm

theorem filter_of_textures (h : c.act ≠ 0) (hes : c.entries r t = .ok (es, u))
    (htex : ∀ l, l < 32 → c.act.getLsbD l = true → Entry.noTexture (c.namedEntry es r l) = false)
    (hwork : laneResults (fun l z => lane (c.resIndex r l) (c.namedEntry es r l) l z) u.nextId (laneList c.act) u = ((laneList c.act).map fun l => (l, .ok (words l)), u1)) :
    c.filter r d lane t = .ok ((u1.modWave c.w.id fun w => w.withLanes d words (laneList c.act)).modWave c.w.id fun w => w.lower 1).settlePushes := by
  have hgood : (lanesWhere fun l => c.act.getLsbD l && Entry.noTexture (c.namedEntry es r l)) = 0 := by
    refine lanesWhere_eq_zero fun l hl => ?_
    by_cases hact : c.act.getLsbD l = true
    · rw [htex l hl hact, Bool.and_false]
    · rw [Bool.eq_false_iff.mpr hact, Bool.false_and]
  unfold Ctx.namedEntry at hgood hwork
  unfold Ctx.filter
  simp only [if_neg h, hes, hgood, hwork, ne_eq, not_true_eq_false, if_false]
  rw [noFaults fun _ _ => rfl]
  dsimp only
  rw [putLanes_eq fun _ _ _ => rfl]

end

/-- Settles O39: the words that pose queries by one lemma of `pose`, those of the filter unit by one of `filter`. -/
theorem queryAndTextureWordsAct : Obligations.QueryAndTextureWordsAct := by
  unfold Obligations.QueryAndTextureWordsAct
  refine ⟨⟨?pose, ?geosync⟩, ?filter⟩
  case pose =>
    intro f i n words s t c hi h
    have hexec : exec i s = issue i s fun c t => c.pose i f.s.toNat f.a.toNat n f.d.toNat words t := by
      rcases hi with ⟨rfl, rfl, rfl⟩ | ⟨rfl, rfl, rfl⟩ | ⟨rfl, rfl, rfl⟩ | ⟨rfl, rfl, rfl⟩ <;> rfl
    rw [hexec]
    refine ⟨fun ha => issue_ok h (pose_of_inactive ha), fun ha hlost => issue_trap h (pose_of_rayLost ha hlost) (show 11 ≠ 12 by decide), ?_⟩
    intro es u ha hlost hes entry hpool hroom _
    exact ⟨c.posed i es f.s.toNat f.a.toNat n f.d.toNat words u.nextId, issue_ok h (pose_of_pools ha hlost hes hpool hroom), rfl, rfl, rfl, rfl, rfl, rfl, rfl, rfl, rfl⟩
  case geosync =>
    intro f s t c h x core units
    rw [exec_geosync]
    refine ⟨fun ha => issue_ok h (if_pos ha), fun ha hx hc hfence => issue_ok h ?_, fun ha hbad => issue_trap (r := precise 0 0 c.word c.pc c.act c.act 0 0) h ?_ (show 0 ≠ 12 by decide)⟩
    · simp only [if_neg ha, geoUnits_of_allowed hx hc, hfence, ne_eq, not_true_eq_false, if_false]
      rfl
    · simp only [if_neg ha, geoUnits_of_refused hbad]
      rfl
  case filter =>
    intro f i n lane s t c hi h
    have hexec : exec i s = issue i s fun c t => c.filter f.s.toNat f.d.toNat (lane c) t := by
      rcases hi with ⟨rfl, rfl, rfl⟩ | ⟨rfl, rfl, rfl⟩ <;> rfl
    rw [hexec]
    refine ⟨fun ha => issue_ok h (filter_of_inactive ha), ?_⟩
    intro es u u1 rs words ha hd hes entry htex hwork hrs hlen
    subst hrs
    refine ⟨fun w => (w.withLanes f.d.toNat words (laneList c.act)).v, ?_, fun w l k hl hk => ?_⟩
    · have hdone : Completes (issue i s fun c t => c.filter f.s.toNat f.d.toNat (lane c) t) c _ := issue_ok h (filter_of_textures ha hes htex hwork)
      rw [modWave_modWave fun w => withLanes_id ..] at hdone
      simpa only [← withLanes_eq] using hdone
    · refine (getV_withLanes f.d.toNat words hlen hd l hk (laneList c.act) w).trans (if_congr ?_ rfl rfl)
      rw [mem_laneList]
      simp [hl]

end Sys2Proof.Machine
end


section
/-! PROOFS. The rendezvous latch: entry, completion and teams (O37). -/

namespace Sys2Proof.Machine

/-! ### Entry into the latch (R153, R356, R361) -/

theorem modWaves_nil (s : State) (f : Wave → Wave) : s.modWaves [] f = s := by
  unfold State.modWaves
  simp only [List.contains_nil, Bool.false_eq_true, if_false, List.map_id']

section
variable {c : Ctx} {i : Instr} {t : State} {v : Quad}

theorem matrix_enters (hcommit : t.committing c.w.id = false) (hasked : t.teamsNaming c.w = []) (hsame : ∀ x ∈ t.heldWith c.w, x.waiting = some i)
    (hteam : teamList c.w.team ≠ []) (hwhole : t.teamBroken c.ga.id c.w.team = false) : c.matrix i t = .ok ((c.hold i t).tryLatch c.w.id) := by
  have hother : (t.heldWith c.w).any (fun x => x.waiting ≠ some i) = false := List.any_eq_false.mpr fun x hx => by simp [hsame x hx]
  unfold Ctx.matrix
  simp only [hcommit, hasked, hother, hteam, hwhole, ne_eq, not_true_eq_false, decide_false, Bool.or_self, Bool.false_eq_true, if_false]
  rfl

theorem matrix_refused (hcommit : t.committing c.w.id = false) (hasked : t.teamsNaming c.w = []) (hsame : ∀ x ∈ t.heldWith c.w, x.waiting = some i)
    (hbroken : teamList c.w.team = [] ∨ t.teamBroken c.ga.id c.w.team = true) : c.matrix i t = c.illop := by
  have hother : (t.heldWith c.w).any (fun x => x.waiting ≠ some i) = false := List.any_eq_false.mpr fun x hx => by simp [hsame x hx]
  have hbad : (teamList c.w.team = [] || t.teamBroken c.ga.id c.w.team) = true := by simpa using hbroken
  unfold Ctx.matrix
  simp only [hcommit, hasked, hother, hbad, ne_eq, not_true_eq_false, decide_false, Bool.or_self, Bool.false_eq_true, if_false, if_true]

/-- A matrix word other than team, and what gives it its meaning. -/
theorem exec_matrixWord {s : State} (hi : (∃ f, i = .mxbeg f) ∨ (∃ f, i = .mxop f) ∨ (∃ f, i = .mxopZero f) ∨ (∃ d, i = .mxfold d) ∨ i = .mxres ∨ i = .mxend ∨
    (∃ d n, i = .mxdrnI32 d n) ∨ (∃ d n, i = .mxdrnI64 d n) ∨ ∃ d n, i = .mxdrnF32 d n) : exec i s = issue i s fun c t => c.matrix i t := by
  rcases hi with ⟨_, rfl⟩ | ⟨_, rfl⟩ | ⟨_, rfl⟩ | ⟨_, rfl⟩ | rfl | rfl | ⟨_, _, rfl⟩ | ⟨_, _, rfl⟩ | ⟨_, _, rfl⟩ <;> rfl

/-- No other value is asked for than this one. -/
theorem othersAsked_nil {s : State} {w : Wave} (h : ∀ x ∈ s.teamsNaming w, x = v) : (s.teamsNaming w).filter (fun x => x ≠ v) = [] :=
  List.filter_eq_nil_iff.mpr fun x hx => by simp [h x hx]

theorem team_leaves (hcommit : t.committing c.w.id = false) (hmine : t.heldWith c.w = []) (hasked : ∀ x ∈ t.teamsNaming c.w, x = 0) (hopen : t.teamOpen c.w = false) :
    c.team i 0 t = .ok (t.modWave c.w.id fun w => { w with team := 0 }) := by
  have hnone : teamList 0 = [] := rfl
  unfold Ctx.team
  simp only [hcommit, othersAsked_nil hasked, hnone, hopen, ne_eq, not_true_eq_false, decide_false, Bool.or_self, Bool.false_eq_true, if_false, if_true]
  unfold Ctx.leaveTeam
  rw [hmine, List.map_nil, modWaves_nil]

theorem team_enters (hcommit : t.committing c.w.id = false) (hmine : t.heldWith c.w = []) (hasked : ∀ x ∈ t.teamsNaming c.w, x = v) (hteam : teamList v ≠ [])
    (hgood : t.teamWrong c.w v = false) : c.team i v t = .ok ((c.hold i t).tryLatch c.w.id) := by
  unfold Ctx.team
  simp only [hcommit, othersAsked_nil hasked, hteam, hmine, hgood, ne_eq, not_true_eq_false, Bool.false_eq_true, if_false]
  rfl

end

/-! ### A wave in the latch (R160) -/

theorem wave?_replaced {s : State} {w x : Wave} (hw : s.wave? x.id = some w) : (s.modWave x.id fun _ => x).wave? x.id = some x := by
  have hguard : (s.modWave x.id fun _ => x) = s.modWave x.id fun y => if y.id = x.id then x else y := by
    unfold State.modWave
    congr 1
    refine List.map_congr_left fun y _ => ?_
    by_cases hy : y.id = x.id <;> simp [hy]
  have hfound : s.waves.find? (fun y => y.id = x.id) = some w := hw
  have hid : w.id = x.id := by simpa using List.find?_some hfound
  rw [hguard, State.wave?_modWave, hw, Option.map_some, if_pos rfl, if_pos hid]
  intro y
  by_cases hy : y.id = x.id
  · rw [if_pos hy, hy]
  · rw [if_neg hy]

theorem wave?_hold {c : Ctx} {i : Instr} {t : State} {w : Wave} (hw : t.wave? c.w.id = some w) :
    (c.hold i t).wave? c.w.id = some { c.w.withdraw.raise i.counter with wake := wakeOf 7 0, waiting := some i, releaser := 0 } := by
  have hkeep (x : Wave) : (x.heldAt 7 0 i).id = x.id := (modCounter_place x.withdraw i.counter (· + 1)).1.trans x.withdraw_id
  unfold Ctx.hold
  rw [block_eq, State.wave?_modWave _ _ _ hkeep, wave?_replaced hw, Option.map_some, if_pos rfl]
  rfl

/-! ### Completion (R153, R355, R182) -/

section
variable {s : State} {w w0 : Wave} {ga : Gang} {gr : Grid} {i : Instr} {ms : List Wave}

/-- What a latch with every listed member there comes to: the check on the member at position 0 fails, must wait or passes, and a word that passes is posted where the table has room. -/
def State.latchChecked (s : State) (gr : Grid) (gang : Nat) (w0 : Wave) (ms : List Wave) (i : Instr) : State :=
  match s.latchCheck gr w0 gang (teamKey w0.team) i ((mxRegs i).map w0.getS) with
  | .error (f, a, u) => if f.held then s else u.modWaves (ms.map fun x => x.id) fun x => x.latchTrap f.code f.cause a f.lod
  | .ok p => if s.tableRoom (quadOf w0.core) then p.st.postEntry gr gang w0 ms i p else p.st

/-- The latch of a wave that waits on a matrix word: nothing until every listed member is there. -/
theorem tryLatch_of_word (hw : s.wave? w.id = some w) (hh : s.home? w = some (ga, gr)) (hi : w.waiting = some i) (hasked : w.teamAsked = none)
    (hms : s.members ga.id w.team = w0 :: ms) :
    s.tryLatch w.id = if (w0 :: ms).length = (teamList w.team).length ∧ allHeld (w0 :: ms) i = true then s.latchChecked gr ga.id w0 (w0 :: ms) i else s := by
  unfold State.tryLatch
  simp only [hw, hh, hi, hasked, hms, Bool.and_eq_true, decide_eq_true_eq]
  rfl

section
variable {gang : Nat}

theorem latchChecked_of_error {f : Flt} {a : Nat} {u : State} (h : s.latchCheck gr w0 gang (teamKey w0.team) i ((mxRegs i).map w0.getS) = .error (f, a, u)) :
    s.latchChecked gr gang w0 ms i = if f.held then s else u.modWaves (ms.map fun x => x.id) fun x => x.latchTrap f.code f.cause a f.lod := by
  unfold State.latchChecked
  rw [h]

theorem latchChecked_of_ok {p : MxPlan} (h : s.latchCheck gr w0 gang (teamKey w0.team) i ((mxRegs i).map w0.getS) = .ok p) :
    s.latchChecked gr gang w0 ms i = if s.tableRoom (quadOf w0.core) then p.st.postEntry gr gang w0 ms i p else p.st := by
  unfold State.latchChecked
  rw [h]

end

theorem tryLatch_of_team {v : Quad} (hw : s.wave? w.id = some w) (hh : s.home? w = some (ga, gr)) (hi : w.waiting = some i) (hasked : w.teamAsked = some v)
    (hall : (s.members ga.id v).length = (teamList v).length)
    (hready : ∀ x ∈ s.members ga.id v, x.alive = true ∧ x.teamAsked = some v ∧ ∀ e ∈ x.engineTraps, e.precise = false) : s.tryLatch w.id = s.formTeam (s.members ga.id v) v := by
  have hthere : ((s.members ga.id v).all fun x => x.alive && x.teamAsked = some v && x.engineTraps.all fun t => !t.precise) = true := by
    refine List.all_eq_true.mpr fun x hx => ?_
    obtain ⟨halive, hsame, htraps⟩ := hready x hx
    have hnone : x.engineTraps.all (fun t => !t.precise) = true := List.all_eq_true.mpr fun e he => by rw [htraps e he]; rfl
    rw [halive, hsame, hnone]
    simp
  unfold State.tryLatch
  simp only [hw, hh, hi, hasked, hall, hthere, decide_true, Bool.and_self, if_true]

end

/-- Settles O37: entry by the lemmas of `matrix` and `team`, completion by the equation of `tryLatch` for a wave that waits on a word. -/
theorem matrixWordsMeet : Obligations.MatrixWordsMeet := by
  unfold Obligations.MatrixWordsMeet
  refine ⟨⟨?word, ?team, fun c i t w hw => ⟨_, wave?_hold hw, rfl⟩⟩, ?latch⟩
  case word =>
    intro i s t c hi h hcommit hasked hsame
    rw [exec_matrixWord hi]
    exact ⟨fun hteam hwhole => issue_ok h (matrix_enters hcommit hasked hsame hteam hwhole),
      fun hbroken => issue_trap h (matrix_refused hcommit hasked hsame hbroken) (show 0 ≠ 12 by decide)⟩
  case team =>
    intro n s t c h hcommit hmine v hasked
    have hexec : exec (.team n) s = issue (.team n) s fun c t => c.team (.team n) (pairOf (c.w.getS n.toNat) (c.w.getS (n.toNat + 1))) t := rfl
    rw [hexec]
    refine ⟨fun hv hopen => issue_ok h ?_, fun hteam hgood => issue_ok h (team_enters hcommit hmine hasked hteam hgood)⟩
    have hzero : pairOf (c.w.getS n.toNat) (c.w.getS (n.toNat + 1)) = 0 := hv
    rw [hzero]
    exact team_leaves hcommit hmine (fun x hx => (hasked x hx).trans hv) hopen
  case latch =>
    intro s w w0 ga gr i ms hw hh hi ids past
    refine ⟨fun hasked hms => ?_, fun v hasked hms hall hready => ?_⟩
    · rw [tryLatch_of_word hw hh hi hasked hms]
      refine ⟨fun hnot => if_neg fun hc => hnot.elim (fun hf => by simp [hf] at hc) (fun hne => hne hc.1), fun hheld hlen => ?_⟩
      rw [if_pos ⟨hlen, hheld⟩]
      refine ⟨fun f a u hfail => ?_, fun p hok => ?_⟩
      · rw [latchChecked_of_error hfail]
        exact ⟨fun hf => if_pos hf, fun hf => if_neg (by simp [hf])⟩
      · rw [latchChecked_of_ok hok]
        exact ⟨fun hfull => if_neg (by simp [hfull]), fun hroom => ⟨_, if_pos hroom, rfl, rfl, rfl, rfl, rfl, rfl, rfl, rfl, rfl, rfl, rfl⟩⟩
    · rw [← hms] at hall hready
      rw [tryLatch_of_team hw hh hi hasked hall hready, hms]
      rfl

end Sys2Proof.Machine
end


section
/-! PROOFS. Voxunet launches: their checks, the code cache, and the regrouping of threads (O55). -/

namespace Sys2Proof.Machine

/-! ### VXLAUNCH (R426) -/

/-- What a VXLAUNCH does once its reads are noted. -/
def State.voxLaunch (u : State) (c : Command) : State :=
  match u.readTable c.asid c.addr 16 1 with
  | none => u.unreadLaunch c.queue c.tag
  | some l =>
    match u.readRecord c.asid (bitsOf (l.headD 0) 64 64) c.queue c.tag with
    | none => (u.voxStatus c.asid c.addr 7 none).unreadLaunch c.queue c.tag
    | some g => match u.checkModule c.asid (bitsOf (l.headD 0) 0 64) g.wgthr with
      | .bad st at_ => (u.voxStatus c.asid c.addr st at_).launchAnswer g (if st = 7 then 5 else 1) 3
      | .ok h m => u.voxBegin g c.addr h m

theorem exec_vxlaunch {s : State} {c : Command} (h : Oldest s c) (hgood : c.bad = false) (hop : c.op = 2) :
    exec (.vxlaunch c.id) s = .next ((s.taken c).afterReads c.asid ((s.taken c).voxLooks c) fun u => u.voxLaunch c) := by
  change execVxlaunch c.id s = _
  unfold execVxlaunch
  exact h.runs (accepts_of_op (by simp [hgood]) hop) rfl

/-! ### The code cache (R440, R441) -/

section
variable {s : State} {e : CodeEntry}

theorem cached_of_not_mem (h : e ∉ s.code) : s.cached e = none :=
  List.findIdx?_eq_none_iff.mpr fun _ hx => decide_eq_false fun heq => h (heq ▸ hx)

/-- SEGMENT_TRANSLATION of a segment that is not in the cache. -/
theorem exec_segmentTranslation {g : Grid} {m : VoxModule} {k : Nat} (hg : s.grid? g.id = some g) (hm : g.vox = some m) (he : m.segs[k]? = some e) (hnew : e ∉ s.code) :
    exec (.segmentTranslation g.id k) s = .next (s.putSegment e).wakeTranslated := by
  have hnone := cached_of_not_mem hnew
  refine event_some ?_
  rw [hg, Option.bind_some, hm, Option.bind_some, he, Option.bind_some, hnone]
  unfold State.translateSegment
  rw [hnone]
  rfl

/-- A translation takes a new place, or one in which no PC lies (R441). -/
theorem newPlace_cases (s : State) : s.newPlace = s.code.length ∨ (s.newPlace < s.code.length ∧ s.placeKept s.newPlace = false) := by
  unfold State.newPlace
  split
  · exact .inl rfl
  cases hfree : s.codeUse.find? fun n => n < s.code.length && !s.placeKept n with
  | none => exact .inl rfl
  | some n =>
    have hn := List.find?_some hfree
    rw [Bool.and_eq_true, decide_eq_true_eq, Bool.not_eq_true'] at hn
    exact .inr hn

theorem putSegment_code (s : State) (e : CodeEntry) : (s.putSegment e).code = if s.newPlace < s.code.length then s.code.set s.newPlace e else s.code ++ [e] := rfl

theorem putSegment_place (s : State) (e : CodeEntry) : (s.putSegment e).code[s.newPlace]? = some e := by
  rw [putSegment_code]
  rcases newPlace_cases s with hnew | ⟨hlt, _⟩
  · rw [if_neg (by omega), hnew, List.getElem?_concat_length]
  · rw [if_pos hlt, List.getElem?_set_self hlt]

theorem putSegment_others (s : State) (e : CodeEntry) {j : Nat} (hj : j ≠ s.newPlace) : (s.putSegment e).code[j]? = s.code[j]? := by
  rw [putSegment_code]
  rcases newPlace_cases s with hnew | ⟨hlt, _⟩
  · rw [if_neg (by omega)]
    rcases Nat.lt_or_ge j s.code.length with hin | hout
    · rw [List.getElem?_append_left hin]
    · rw [List.getElem?_eq_none hout, List.getElem?_eq_none]
      rw [List.length_append, List.length_singleton]
      omega
  · rw [if_pos hlt, List.getElem?_set_ne (Ne.symm hj)]

end

/-! ### Regrouping (R431, R432) -/

/-- A wave that waits for a translation, and waited for nothing else, waits at the segment's end (R431). -/
theorem settle_waits {w : Wave} (hfree : w.wake = 0) (h : w.settle.untranslatedWait = true) : w.settle.wakeKind = 9 := by
  have hwait : w.untranslatedWait = true := h
  have hkind : w.wakeKind = 0 := by
    unfold Wave.wakeKind
    rw [hfree]
    rfl
  have hwake : w.settle.wake = wakeOf 9 0 := if_pos (by simp [hwait, hkind])
  unfold Wave.wakeKind
  rw [hwake]
  rfl

/-- Predicates written one after another leave the wake condition. -/
theorem foldl_setP_wake (vals : Nat → Lanes) (ns : List Nat) (w : Wave) : (ns.foldl (fun x n => x.setP (BitVec.allOnes 32) (n + 1) (vals n)) w).wake = w.wake := by
  induction ns generalizing w with
  | nil => rfl
  | cons n ns ih => rw [List.foldl_cons, ih, Wave.setP_wake]

theorem regroupWave_waits (s : State) (gr : Grid) (m : VoxModule) (sorted : List VoxBlock) (release : Bool) (w : Wave)
    (h : (s.regroupWave gr m sorted release w).untranslatedWait = true) : (s.regroupWave gr m sorted release w).wakeKind = 9 := by
  refine settle_waits ?_ h
  rw [Wave.setMeets_wake, Wave.setPcs_wake]
  exact foldl_setP_wake _ _ _

/-- Where the successors of a workgroup's threads agree on gathering, or one does not gather, nothing conflicts (R432). -/
theorem noConflict {succs : List Nat} {gathers : Nat → Bool} (h : succs.length ≤ 1 ∨ ∃ k ∈ succs, gathers k = false) : (succs.all gathers && 1 < succs.length) = false := by
  rcases h with hfew | ⟨k, hk, hno⟩
  · rw [decide_eq_false (Nat.not_lt.mpr hfew), Bool.and_false]
  · rw [List.all_eq_false.mpr ⟨k, hk, by simp [hno]⟩, Bool.false_and]

/-- Something keeps a workgroup from being regrouped: its gang is not there or has expired, no wave of it is left, one is not at its segment's end, or an access is out. -/
def State.regroupHeld (s : State) (ga : Gang) (ws : List Wave) : Bool :=
  !ga.resident || ga.expired.isSome || ws.filter Wave.alive = [] || !((ws.filter Wave.alive).all fun w => w.atEnd && w.wakeKind = 9 && !s.trapDue w) ||
    ws.any fun w => w.ld ≠ 0 || w.st ≠ 0 || w.cp ≠ 0

theorem regroupHeld_of_quiet {s : State} {ga : Gang} {ws : List Wave} (hres : ga.resident = true) (hexp : ga.expired = none) (hlive : ∃ w ∈ ws, w.alive = true)
    (hquiet : ∀ w ∈ ws, w.ld = 0 ∧ w.st = 0 ∧ w.cp = 0) (hend : ∀ w ∈ ws, w.alive = true → w.atEnd = true ∧ w.wakeKind = 9 ∧ s.trapDue w = false) : s.regroupHeld ga ws = false := by
  obtain ⟨w, hw, halive⟩ := hlive
  have hsome : ws.filter Wave.alive ≠ [] := List.ne_nil_of_mem (List.mem_filter.mpr ⟨hw, halive⟩)
  have hall : (ws.filter Wave.alive).all (fun w => w.atEnd && w.wakeKind = 9 && !s.trapDue w) = true := by
    refine List.all_eq_true.mpr fun x hx => ?_
    obtain ⟨hx, hxalive⟩ := List.mem_filter.mp hx
    obtain ⟨hat, hkind, htrap⟩ := hend x hx hxalive
    simp [hat, hkind, htrap]
  have hout : ws.any (fun w => w.ld ≠ 0 || w.st ≠ 0 || w.cp ≠ 0) = false := by
    refine List.any_eq_false.mpr fun x hx => ?_
    obtain ⟨hld, hst, hcp⟩ := hquiet x hx
    simp [hld, hst, hcp]
  unfold State.regroupHeld
  rw [hres, hexp, decide_eq_false hsome, hall, hout]
  rfl

/-- What a regroup comes to. -/
def State.regrouped (s : State) (ga : Gang) (gr : Grid) (m : VoxModule) (g : VoxGroup) : State :=
  let blocks := s.blocksOf ga.id g m.width
  let succs := (blocks.flatMap fun b => b.succ m.width (gr.regs - 16)).eraseDups
  let gathers := succs.all fun k => (m.segs[k]?).any fun e => e.gather
  let sorted := sortBlocks m.width (gr.regs - 16) blocks
  let ws := s.wavesOfWg ga.id g.wg
  if gathers && 1 < succs.length then s.gatherConflict (ws.filter Wave.alive) gr
  else { (succs.filterMap fun k => (m.segs[k]?).bind s.cached).foldl State.useCode (s.modWaves (ws.map fun w => w.id) (s.regroupWave gr m sorted gathers)) with
    groups := s.groups.map fun x => if x.gang = ga.id && x.wg = g.wg then { x with order := sorted.map fun b => b.k } else x }

/-- Whether every successor gathers, by any function that says it of each (R432). -/
theorem all_gathers (m : VoxModule) {succs : List Nat} {f : Nat → Bool} (hf : ∀ k, f k = (m.segs[k]?).any fun e => e.gather) :
    succs.all f = succs.all fun k => (m.segs[k]?).any fun e => e.gather := by
  rw [funext hf]

theorem exec_regroup {s : State} {ga : Gang} {gr : Grid} {m : VoxModule} {g : VoxGroup} (hga : s.gang? ga.id = some ga) (hgr : s.grid? ga.grid = some gr) (hm : gr.vox = some m)
    (hg : s.groups.find? (fun x => x.gang = ga.id && x.wg = g.wg) = some g) (hfree : s.regroupHeld ga (s.wavesOfWg ga.id g.wg) = false) :
    exec (.regroup ga.id g.wg) s = .next (s.regrouped ga gr m g) := by
  refine event_some ?_
  rw [hga, Option.bind_some, hgr, Option.bind_some, hm, Option.bind_some, hg, Option.bind_some]
  unfold State.regroupHeld at hfree
  dsimp only
  rw [hfree, if_neg Bool.false_ne_true, all_gathers m]
  · unfold State.regrouped
    exact (apply_ite some _ _ _).symm
  · intro k
    cases m.segs[k]? <;> rfl

/-- Settles O55: VXLAUNCH by its reads, the cache by the place that a translation takes, REGROUP by its guards. -/
theorem voxLaunchesRun : Obligations.VoxLaunchesRun := by
  unfold Obligations.VoxLaunchesRun
  refine ⟨?launch, ?translation, ?regroup⟩
  case launch =>
    intro s c hfound hfirst hgood hop t read launches
    have hexec (v : State) (hv : read.voxLaunch c = v) : launches v := hv ▸ exec_vxlaunch ⟨hfound, hfirst⟩ hgood hop
    have hhigh (x : Nat) : bitsOf x 64 64 = x / 2 ^ 64 % 2 ^ 64 := rfl
    have hlow (x : Nat) : bitsOf x 0 64 = x % 2 ^ 64 := bitsOf_zero ..
    refine ⟨fun hnone => hexec _ ?_, fun l hl => ⟨fun hnone => hexec _ ?_, fun g hg => ⟨fun st at_ hbad => hexec _ ?_, fun h m hok => hexec _ ?_⟩⟩⟩
    · simp only [State.voxLaunch, hnone]
    · simp only [State.voxLaunch, hhigh, hl, hnone]
    · simp only [State.voxLaunch, hhigh, hlow, hl, hg, hbad]
    · simp only [State.voxLaunch, hhigh, hlow, hl, hg, hok]
  case translation =>
    intro s g m k e hg hm he hnew
    exact ⟨exec_segmentTranslation hg hm he hnew, newPlace_cases s, putSegment_place s e, fun j hj => putSegment_others s e hj, rfl⟩
  case regroup =>
    intro s ga gr m g hga hgr hm hg hres hexp ws hlive hquiet hend blocks succs sorted place
    refine ⟨fun w hw => regroupWave_waits s gr m sorted _ w hw, fun hagree => ?_⟩
    rw [exec_regroup hga hgr hm hg (regroupHeld_of_quiet hres hexp hlive hquiet hend)]
    unfold State.regrouped
    exact congrArg Host.Outcome.next (if_neg (Bool.eq_false_iff.mp (noConflict hagree)))

end Sys2Proof.Machine
end


section
/-! PROOFS. Checkpoints and restores (O54). -/

namespace Sys2Proof.Machine

/-! ### The image (R497) -/

section
variable {w : Nat} {m : SMap w}

/-- A store with its keys moved holds at a moved key what it held, where no other key moves there. -/
theorem get_mapKeys {f : Nat → Nat} {a : Nat} (h : ∀ e ∈ m, f e.1 = f a → e.1 = a) : SMap.get (m.map fun c => (f c.1, c.2)) (f a) = m.get a := by
  induction m with
  | nil => rfl
  | cons e r ih =>
    obtain ⟨k, v⟩ := e
    rw [List.map_cons, SMap.get_cons, SMap.get_cons, ih fun e he => h e (List.mem_cons_of_mem _ he)]
    exact if_congr ⟨fun heq => h (k, v) List.mem_cons_self heq, fun heq => congrArg f heq⟩ rfl rfl

theorem getD_getRange (m : SMap w) (k : Nat) {n j : Nat} (hj : j < n) : (m.getRange k n).getD j 0 = m.get (k + j) := by
  unfold SMap.getRange
  rw [List.getD_eq_getElem?_getD, List.getElem?_map, List.getElem?_range hj]
  rfl

/-- A store filtered by its keys holds what it held at a key that is kept. -/
theorem get_filter_kept {p : Nat → Bool} {k : Nat} (h : p k = true) : SMap.get (m.filter fun e => p e.1) k = m.get k := by
  rw [SMap.get_filter, if_pos h]

end

section
variable {mem : Memory} {dest a : Nat}

/-- The device's bytes at the destination. -/
def deviceImage (mem : Memory) (dest : Nat) : Memory := (mem.filter fun c => c.1 < 2 ^ 39).map fun c => (dest + c.1, c.2)

theorem deviceImage_keys {e : Nat × BitVec 8} (he : e ∈ deviceImage mem dest) : dest ≤ e.1 ∧ e.1 < dest + 2 ^ 39 := by
  obtain ⟨c, hc, rfl⟩ := List.mem_map.mp he
  have hlt : c.1 < 2 ^ 39 := of_decide_eq_true (List.mem_filter.mp hc).2
  exact ⟨Nat.le_add_right .., Nat.add_lt_add_left hlt dest⟩

theorem copyOut_all (mem : Memory) (dest : Nat) :
    copyOut mem dest none = (mem.filter fun c => c.1 < dest) ++ (deviceImage mem dest ++ mem.filter fun c => dest + 2 ^ 39 ≤ c.1) := List.append_assoc ..

/-- The whole image: a device byte at the destination (R497). -/
theorem get_copyOut_image (ha : a < 2 ^ 39) : (copyOut mem dest none).get (dest + a) = mem.get a := by
  rw [copyOut_all, SMap.get_append_absent, SMap.get_append_left]
  · refine (get_mapKeys fun e _ heq => ?_).trans (get_filter_kept (p := fun k => decide (k < 2 ^ 39)) (decide_eq_true ha))
    omega
  · intro e he
    have hge : dest + 2 ^ 39 ≤ e.1 := of_decide_eq_true (List.mem_filter.mp he).2
    omega
  · intro e he
    have hlt : e.1 < dest := of_decide_eq_true (List.mem_filter.mp he).2
    omega

theorem get_copyOut_below (ha : a < dest) : (copyOut mem dest none).get a = mem.get a := by
  rw [copyOut_all, SMap.get_append_left]
  · exact get_filter_kept (p := fun k => decide (k < dest)) (decide_eq_true ha)
  · intro e he
    rcases List.mem_append.mp he with he | he
    · obtain ⟨hge, _⟩ := deviceImage_keys he
      omega
    · have hge : dest + 2 ^ 39 ≤ e.1 := of_decide_eq_true (List.mem_filter.mp he).2
      omega

theorem get_copyOut_above (ha : dest + 2 ^ 39 ≤ a) : (copyOut mem dest none).get a = mem.get a := by
  rw [copyOut_all, SMap.get_append_absent, SMap.get_append_absent]
  · exact get_filter_kept (p := fun k => decide (dest + 2 ^ 39 ≤ k)) (decide_eq_true ha)
  · intro e he
    obtain ⟨_, hlt⟩ := deviceImage_keys he
    omega
  · intro e he
    have hlt : e.1 < dest := of_decide_eq_true (List.mem_filter.mp he).2
    omega

/-- The image's bytes as they return to the device. -/
def imageBack (mem : Memory) (dest : Nat) : Memory := (mem.filter fun c => dest ≤ c.1 && c.1 < dest + 2 ^ 39).map fun c => (c.1 - dest, c.2)

/-- What the image's filter keeps lies at the destination. -/
theorem image_bounds {e : Nat × BitVec 8} (he : e ∈ mem.filter fun c => dest ≤ c.1 && c.1 < dest + 2 ^ 39) : dest ≤ e.1 ∧ e.1 < dest + 2 ^ 39 := by
  simpa using (List.mem_filter.mp he).2

theorem get_copyBack_device (ha : a < 2 ^ 39) : (copyBack mem dest).get a = mem.get (dest + a) := by
  have himage : (imageBack mem dest).get (dest + a - dest) = mem.get (dest + a) := by
    refine (get_mapKeys (f := fun k => k - dest) fun e he heq => ?_).trans (get_filter_kept (p := fun k => decide (dest ≤ k) && decide (k < dest + 2 ^ 39)) (by simpa using ha))
    obtain ⟨hge, _⟩ := image_bounds he
    omega
  rw [Nat.add_sub_cancel_left] at himage
  refine (SMap.get_append_left fun e he => ?_).trans himage
  have hge : 2 ^ 39 ≤ e.1 := of_decide_eq_true (List.mem_filter.mp he).2
  omega

theorem get_copyBack_rest (ha : 2 ^ 39 ≤ a) : (copyBack mem dest).get a = mem.get a := by
  refine (SMap.get_append_absent fun e he => ?_).trans (get_filter_kept (p := fun k => decide (2 ^ 39 ≤ k)) (decide_eq_true ha))
  obtain ⟨c, hc, rfl⟩ := List.mem_map.mp he
  obtain ⟨_, hlt⟩ := image_bounds hc
  omega

/-- Pages copied one after another from an unchanged source: those of the list arrive, the others stand as they were. -/
theorem get_copyPages (pages : List Nat) (m : Memory) :
    (pages.foldl (fun m p => m.setRange (dest + p * 4096) (mem.getRange (p * 4096) 4096)) m).get (dest + a) = if a / 4096 ∈ pages then mem.get a else m.get (dest + a) := by
  induction pages generalizing m with
  | nil => exact (if_neg List.not_mem_nil).symm
  | cons p ps ih =>
    have hlen : (mem.getRange (p * 4096) 4096).length = 4096 := by simp [SMap.getRange]
    rw [List.foldl_cons, ih, SMap.get_setRange_getD, hlen]
    by_cases hps : a / 4096 ∈ ps
    · rw [if_pos hps, if_pos (List.mem_cons_of_mem _ hps)]
    by_cases hp : a / 4096 = p
    · have hin : dest + p * 4096 ≤ dest + a ∧ dest + a < dest + p * 4096 + 4096 := by omega
      have hofs : dest + a - (dest + p * 4096) = a - p * 4096 := by omega
      have hback : p * 4096 + (a - p * 4096) = a := by omega
      rw [if_neg hps, if_pos hin, if_pos (hp ▸ List.mem_cons_self), hofs, getD_getRange _ _ (by omega), hback]
    · have hout : ¬(dest + p * 4096 ≤ dest + a ∧ dest + a < dest + p * 4096 + 4096) := by omega
      rw [if_neg hps, if_neg hout, if_neg fun hmem => (List.mem_cons.mp hmem).elim hp hps]

end

/-- A dirty page is one of device memory. -/
theorem dirtyPages_lt (s : State) {p : Nat} (h : p ∈ s.dirtyPages) : p < 2 ^ 27 := by
  obtain ⟨n, _, hn⟩ := List.mem_filterMap.mp h
  dsimp only at hn
  split at hn
  · injection hn with hn
    omega
  · cases hn

/-! ### CKPT and RESTORE (R482, R497) -/

section
variable {s t u : State} {c : Command} {restore : Bool} {d : Nat}

theorem badCheckpoint_iff : badCheckpoint d = false ↔ d / 2 ^ 129 % 2 ^ 383 = 0 ∧ d % 2 ^ 12 = 0 ∧ d / 2 ^ 50 % 2 ^ 14 = 1 ∧ 2 ^ 39 + 2 ^ 26 ≤ d / 2 ^ 64 % 2 ^ 64 := by
  have hlow : bitsOf d 0 12 = d % 2 ^ 12 := bitsOf_zero ..
  unfold badCheckpoint
  rw [hlow]
  simp only [Bool.or_eq_false_iff, decide_eq_false_iff_not, ne_eq, not_not, Nat.not_lt, and_assoc]
  rfl

/-- CKPT, and RESTORE where `restore`. -/
def checkpointRow (restore : Bool) (id : Nat) : Instr := if restore = true then .restore id else .ckpt id

theorem exec_checkpointRow (h : Oldest s c) (hgood : c.bad = false) (hop : c.op = if restore = true then 7 else 6) (hrun : (s.taken c).beginCheckpoint restore c = some u) :
    exec (checkpointRow restore c.id) s = .next u := by
  have hbad : ¬c.bad = true := by simp [hgood]
  cases restore with
  | false =>
    change execCkpt c.id s = _
    unfold execCkpt
    exact h.runs (accepts_of_op hbad hop) hrun
  | true =>
    change execRestore c.id s = _
    unfold execRestore
    exact h.runs (accepts_of_op hbad hop) hrun

theorem beginCheckpoint_unread {f : FltAt} (hread : t.ctxNat c.asid c.addr 64 needRead true = .error f) : t.beginCheckpoint restore c = some (t.answer c.queue c.tag c.addr 3) := by
  unfold State.beginCheckpoint
  rw [hread]

theorem beginCheckpoint_bad (hread : t.ctxNat c.asid c.addr 64 needRead true = .ok (d, u)) (hbad : badCheckpoint d = true) :
    t.beginCheckpoint restore c = some (u.answer c.queue c.tag c.addr 3) := by
  unfold State.beginCheckpoint
  rw [hread]
  exact if_pos hbad

/-- The state with a checkpoint or a restore begun, its gangs still to expire. -/
def State.withCheckpoint (u : State) (restore : Bool) (c : Command) (d since : Nat) : State :=
  ({ u with nextId := u.nextId + 1 } : State).modEng fun e =>
    { e with checkpoints := [{ id := u.nextId, poster := .command c.queue c.tag (BitVec.ofNat 64 c.addr), restore, dest := d % 2 ^ 52, incr := d.testBit 128, since }] }

theorem beginCheckpoint_good (hread : t.ctxNat c.asid c.addr 64 needRead true = .ok (d, u)) (hgood : badCheckpoint d = false) (hnone : t.eng.checkpoints = []) :
    let v := u.withCheckpoint restore c d t.cycle.toNat
    t.beginCheckpoint restore c = some ((v.gangs.filter fun g => g.resident && g.expired.isNone).foldl (fun x g => x.expire g.id) v) := by
  have hlow : bitsOf d 0 52 = d % 2 ^ 52 := bitsOf_zero ..
  unfold State.beginCheckpoint State.withCheckpoint
  rw [hread, ← hlow]
  simp only [hgood, hnone, Bool.false_eq_true, if_false, ne_eq, not_true_eq_false]
  rfl

theorem exec_checkpointComplete {k : Checkpoint} {queue tag : Nat} {addr : Quad} (hk : s.eng.checkpoints.find? (fun x => x.id = k.id) = some k) (hdrained : s.drained = true)
    (hposter : k.poster = .command queue tag addr) : exec (.checkpointComplete k.id) s = .next ((((if k.restore = true then s.putImage k else s.takeImage k).modEng fun e =>
      { e with checkpoints := e.checkpoints.filter fun x => x.id ≠ k.id }).answer queue tag addr.toNat 0).distribute) := by
  refine event_some ?_
  rw [hk, Option.bind_some, hdrained]
  simp only [hposter, Bool.not_true, Bool.false_eq_true, if_false]

end

/-- Settles O54: the commands by `beginCheckpoint`, the image by reads of the filtered and moved store. -/
theorem checkpointsCopyMemory : Obligations.CheckpointsCopyMemory := by
  unfold Obligations.CheckpointsCopyMemory
  refine ⟨?commands, fun s k queue tag addr hk hdrained hposter => exec_checkpointComplete hk hdrained hposter, ?image, fun mem dest pages _ _ a _ => get_copyPages pages mem, ?state⟩
  case commands =>
    intro s c hfound hfirst hgood t row restore hop
    have hrow {v : State} (hrun : t.beginCheckpoint restore c = some v) : exec (row restore) s = .next v := exec_checkpointRow ⟨hfound, hfirst⟩ hgood hop hrun
    refine ⟨fun f hread => hrow (beginCheckpoint_unread hread), fun d u hread => ⟨fun hnot => hrow (beginCheckpoint_bad hread ?_), fun hgood hnone => hrow (beginCheckpoint_good hread ?_ hnone)⟩⟩
    · exact Bool.ne_false_iff.mp fun hf => hnot (badCheckpoint_iff.mp hf)
    · exact badCheckpoint_iff.mpr hgood
  case image =>
    intro mem dest a hdest
    exact ⟨fun ha => ⟨get_copyOut_image ha, get_copyOut_below (Nat.lt_of_lt_of_le ha hdest), get_copyBack_device ha⟩, get_copyBack_rest, fun hout => hout.elim get_copyOut_below get_copyOut_above⟩
  case state =>
    intro s k clean
    refine ⟨rfl, fun p hp => dirtyPages_lt clean hp, ?_⟩
    unfold State.putImage
    dsimp only
    split <;> rfl

end Sys2Proof.Machine
end


section
/-! PROOFS. Mailbox commands on contexts and queues (O56). -/

namespace Sys2Proof.Machine

/-! ### Commands that go on with a shootdown (R480, R481) -/

theorem longDoorbell_refuses {s : State} {row : String} {op r : Nat} {check : State → Option Nat} {run : State → State} (h : s.Idle op) (hr : check s = some r) :
    longDoorbell row op s check run = .next (s.mailboxDone r) := by
  refine event_some ?_
  simp [h.posture, h.free, h.op, hr]

section
variable {s : State}

/-! ### Contexts (R18, R481, R488) -/

/-- What CTXCREATE's arguments leave in a fresh context: each register by its own mask. -/
theorem newContext_registers (s : State) (asid : Nat) : (s.newContext asid).fpc = s.kiln.mbarg.get 2 &&& 0x3F ∧ (s.newContext asid).tvbase = s.kiln.mbarg.get 3 &&& 0x0FFFFFFFFFFFFF80 ∧
    (s.newContext asid).trbase = s.kiln.mbarg.get 4 &&& 0x0FFFFFFFFF000000 ∧ (s.newContext asid).svbase = s.kiln.mbarg.get 5 &&& 0x0FFFFFFFFFFFF000 ∧
    (s.newContext asid).svsize = s.kiln.mbarg.get 6 &&& 0xFFFF ∧ (s.newContext asid).crbase = s.kiln.mbarg.get 7 &&& 0x0FFFFFFFFFFFFFC1 :=
  ⟨rfl, rfl, rfl, rfl, rfl, rfl⟩

/-- A value written on every core is read on each. -/
theorem get_onAllCores {m : SMap 64} {k : Nat} (x : Quad) (hk : k < 384) : (m.setMany allCores (fun k => k) fun _ => x).get k = x := by
  have hget : (m.setMany (List.range 384) (fun k => k) fun _ => x).get k = x := get_setMany_range.trans (if_pos hk)
  exact hget

theorem newContext_lkpbase (s : State) (asid : Nat) :
    (s.newContext asid).lkpbase = SMap.setMany [] allCores (fun k => k) fun _ => s.kiln.mbarg.get 9 &&& 0x0FFFFFFFFFE00000 := by
  unfold State.newContext
  generalize allCores = cores
  rfl

theorem newContext_lkpsize (s : State) (asid : Nat) : (s.newContext asid).lkpsize = SMap.setMany [] allCores (fun k => k) fun _ => s.kiln.mbarg.get 10 &&& 0xFFFF := by
  unfold State.newContext
  generalize allCores = cores
  rfl

theorem newContext_cores (s : State) (asid : Nat) {k : Nat} (hk : k < 384) : (s.newContext asid).lkpbase.get k = s.kiln.mbarg.get 9 &&& 0x0FFFFFFFFFE00000 ∧
    (s.newContext asid).lkpsize.get k = s.kiln.mbarg.get 10 &&& 0xFFFF := by
  rw [newContext_lkpbase, newContext_lkpsize]
  exact ⟨get_onAllCores _ hk, get_onAllCores _ hk⟩

theorem exec_ctxcreate_refused {r : Nat} (h : s.Idle 0x01) (hr : s.createRefused = some r) : exec .ctxcreate s = .next (s.mailboxDone r) :=
  (longDoorbell_refuses h hr : execCtxcreate s = _)

theorem exec_ctxcreate_runs (h : s.Idle 0x01) (hr : s.createRefused = none) :
    exec .ctxcreate s = .next ((s.mailboxRuns (s.arg 0) (some (s.arg 1, some (s.newContext (s.arg 0))))).kilnSweep (s.arg 0) .mailbox) :=
  (longDoorbell_runs h.posture h.free h.op hr : execCtxcreate s = _)

theorem notValid_of_invalid (hv : s.valid (s.arg 0) = false) : s.notValid = some 2 := if_neg (by simp [hv])

theorem notValid_of_valid (hv : s.valid (s.arg 0) = true) : s.notValid = none := if_pos hv

theorem exec_ctxreset_refused (h : s.Idle 0x03) (hv : s.valid (s.arg 0) = false) : exec .ctxreset s = .next (s.mailboxDone 2) :=
  (longDoorbell_refuses h (notValid_of_invalid hv) : execCtxreset s = _)

theorem exec_ctxreset_runs (h : s.Idle 0x03) (hv : s.valid (s.arg 0) = true) : exec .ctxreset s = .next ((s.mailboxRuns (s.arg 0) none).startReset (s.arg 0) .mailbox) :=
  (longDoorbell_runs h.posture h.free h.op (notValid_of_valid hv) : execCtxreset s = _)

theorem exec_ctxdestroy_refused (h : s.Idle 0x04) (hv : s.valid (s.arg 0) = false) : exec .ctxdestroy s = .next (s.mailboxDone 2) :=
  (longDoorbell_refuses h (notValid_of_invalid hv) : execCtxdestroy s = _)

theorem exec_ctxdestroy_runs (h : s.Idle 0x04) (hv : s.valid (s.arg 0) = true) :
    exec .ctxdestroy s = .next ((s.mailboxRuns (s.arg 0) (some (s.ctxEntry (s.arg 0) - 1, none))).startReset (s.arg 0) .mailbox) :=
  (longDoorbell_runs h.posture h.free h.op (notValid_of_valid hv) : execCtxdestroy s = _)

theorem exec_ctxset_refused (h : s.Idle 0x02) (hv : s.valid (s.arg 0) = false) : exec .ctxset s = .next (s.mailboxDone 2).distribute :=
  (doorbell_answers h (if_pos (by simp [hv])) : execCtxset s = _)

theorem exec_ctxset_writes (h : s.Idle 0x02) (hv : s.valid (s.arg 0) = true) (hreg : s.arg 1 = 0x000 ∨ (0x020 ≤ s.arg 1 ∧ s.arg 1 ≤ 0x02A) ∨ (0x050 ≤ s.arg 1 ∧ s.arg 1 ≤ 0x057)) :
    exec .ctxset s = .next ((s.setCtxReg (s.arg 0) (s.arg 1) allCores (s.kiln.mbarg.get 2)).mailboxDone 0).distribute := by
  have hctx : isCtxReg (s.arg 1) = true := by simpa [isCtxReg, or_assoc] using hreg
  exact (doorbell_answers h (if_neg (by simp [hv, hctx])) : execCtxset s = _)

/-- After its shootdown, CTXCREATE's context has its registers on every core, and then its entry. -/
theorem afterMailboxSweep_create {n e : Nat} {c : Context} (h : s.kiln.pending = some (n, some (e, some c))) :
    s.afterMailboxSweep n = ((s.modCtx n fun _ => c).putNat (s.ctxBase + 8 * n) 8 e).mailboxDone 0 := by
  unfold State.afterMailboxSweep
  rw [h]

/-- After its shootdown, CTXDESTROY's entry has V clear, and the context is shot down again. -/
theorem afterMailboxSweep_destroy {n e : Nat} (h : s.kiln.pending = some (n, some (e, none))) :
    s.afterMailboxSweep n = ((s.putNat (s.ctxBase + 8 * n) 8 e).modKiln fun k => { k with pending := some (n, none) }).kilnSweep n .mailbox := by
  unfold State.afterMailboxSweep
  rw [h]

/-! ### Queues (R482, R484, R486) -/

/-- The header that a queue command names. -/
def State.queueHeader (s : State) : Nat := s.natAt (s.arg 1) 64

/-- SQCREATE's arguments and header are as R482 and R486 allow. -/
theorem sqcreate_allowed (h0 : s.arg 0 ≤ 255) (hpa : namedPa (s.arg 1) = true) (h3 : s.arg 3 ≤ 4095) (hcq : (s.comp? (s.arg 2)).isSome = true)
    (hlog : 4 ≤ headerLog2 s.queueHeader ∧ headerLog2 s.queueHeader ≤ 16) (hrest : s.queueHeader / 2 ^ 69 = 0) :
    (255 < s.arg 0 || !namedPa (s.arg 1) || 4095 < s.arg 3 || (s.comp? (s.arg 2)).isNone || headerLog2 s.queueHeader < 4 || 16 < headerLog2 s.queueHeader || bitsOf s.queueHeader 69 443 ≠ 0) = false := by
  have hbits : bitsOf s.queueHeader 69 443 = 0 := by
    unfold bitsOf
    rw [hrest, Nat.zero_mod]
  have hnone : (s.comp? (s.arg 2)).isNone = false := by rw [← Option.not_isSome, hcq]; rfl
  simp [h0, hpa, h3, hnone, hlog, hbits]

theorem exec_sqcreate_exists (h : s.Idle 0x10) (h0 : s.arg 0 ≤ 255) (hpa : namedPa (s.arg 1) = true) (h3 : s.arg 3 ≤ 4095) (hcq : (s.comp? (s.arg 2)).isSome = true)
    (hlog : 4 ≤ headerLog2 s.queueHeader ∧ headerLog2 s.queueHeader ≤ 16) (hrest : s.queueHeader / 2 ^ 69 = 0) (hsub : (s.sub? (s.arg 0)).isSome = true) :
    exec .sqcreate s = .next (s.mailboxDone 3).distribute :=
  (doorbell_answers h ((if_neg (Bool.eq_false_iff.mp (sqcreate_allowed h0 hpa h3 hcq hlog hrest))).trans (if_pos hsub)) : execSqcreate s = _)

theorem exec_sqcreate_new (h : s.Idle 0x10) (h0 : s.arg 0 ≤ 255) (hpa : namedPa (s.arg 1) = true) (h3 : s.arg 3 ≤ 4095) (hcq : (s.comp? (s.arg 2)).isSome = true)
    (hlog : 4 ≤ headerLog2 s.queueHeader ∧ headerLog2 s.queueHeader ≤ 16) (hrest : s.queueHeader / 2 ^ 69 = 0) (hsub : s.sub? (s.arg 0) = none) :
    exec .sqcreate s = .next (((s.putNat (s.arg 1 + 4) 4 (bitsOf s.queueHeader 0 32)).modHost fun x =>
      { x with subs := x.subs ++ [⟨s.arg 0, s.arg 1, headerLog2 s.queueHeader, s.arg 2, s.arg 3⟩] }).mailboxDone 0).distribute :=
  (doorbell_answers h ((if_neg (Bool.eq_false_iff.mp (sqcreate_allowed h0 hpa h3 hcq hlog hrest))).trans (if_neg (by simp [hsub]))) : execSqcreate s = _)

/-- CQCREATE's arguments and header are as R484 and R486 allow. -/
theorem cqcreate_allowed (h0 : s.arg 0 ≤ 255) (hpa : namedPa (s.arg 1) = true) (h2 : s.arg 2 ≤ 255) (h3 : 1 ≤ s.arg 3 ∧ s.arg 3 ≤ 256) (h4 : 1 ≤ s.arg 4 ∧ s.arg 4 ≤ 1023)
    (hhead : bitsOf s.queueHeader 0 32 = 0) (hlog : 4 ≤ headerLog2 s.queueHeader ∧ headerLog2 s.queueHeader ≤ 16) :
    (255 < s.arg 0 || !namedPa (s.arg 1) || 255 < s.arg 2 || s.arg 3 = 0 || 256 < s.arg 3 || s.arg 4 = 0 || 1023 < s.arg 4 || bitsOf s.queueHeader 0 32 ≠ 0 || headerLog2 s.queueHeader < 4 ||
      16 < headerLog2 s.queueHeader) = false := by
  obtain ⟨h3low, h3high⟩ := h3
  obtain ⟨h4low, h4high⟩ := h4
  simp [h0, hpa, h2, Nat.ne_of_gt h3low, h3high, Nat.ne_of_gt h4low, h4high, hhead, hlog]

/-- The completion queue of CQCREATE's arguments. -/
def State.newComp (s : State) : CompQueue :=
  ⟨s.arg 0, s.arg 1, headerLog2 s.queueHeader, s.arg 2, s.arg 3, s.arg 4, 0, 0, 0, []⟩

theorem exec_cqcreate_exists (h : s.Idle 0x11) (h0 : s.arg 0 ≤ 255) (hpa : namedPa (s.arg 1) = true) (h2 : s.arg 2 ≤ 255) (h3 : 1 ≤ s.arg 3 ∧ s.arg 3 ≤ 256)
    (h4 : 1 ≤ s.arg 4 ∧ s.arg 4 ≤ 1023) (hhead : bitsOf s.queueHeader 0 32 = 0) (hlog : 4 ≤ headerLog2 s.queueHeader ∧ headerLog2 s.queueHeader ≤ 16)
    (hcomp : (s.comp? (s.arg 0)).isSome = true) : exec .cqcreate s = .next (s.mailboxDone 3).distribute :=
  (doorbell_answers h ((if_neg (Bool.eq_false_iff.mp (cqcreate_allowed h0 hpa h2 h3 h4 hhead hlog))).trans (if_pos hcomp)) : execCqcreate s = _)

theorem exec_cqcreate_new (h : s.Idle 0x11) (h0 : s.arg 0 ≤ 255) (hpa : namedPa (s.arg 1) = true) (h2 : s.arg 2 ≤ 255) (h3 : 1 ≤ s.arg 3 ∧ s.arg 3 ≤ 256)
    (h4 : 1 ≤ s.arg 4 ∧ s.arg 4 ≤ 1023) (hhead : bitsOf s.queueHeader 0 32 = 0) (hlog : 4 ≤ headerLog2 s.queueHeader ∧ headerLog2 s.queueHeader ≤ 16) (hcomp : s.comp? (s.arg 0) = none) :
    exec .cqcreate s = .next (((s.putNat (s.arg 1 + 4) 4 0).modHost fun x => { x with comps := x.comps ++ [s.newComp] }).mailboxDone 0).distribute :=
  (doorbell_answers h ((if_neg (Bool.eq_false_iff.mp (cqcreate_allowed h0 hpa h2 h3 h4 hhead hlog))).trans (if_neg (by simp [hcomp]))) : execCqcreate s = _)

/-- A command of the submission queue is not finished. -/
def State.subNeeded (s : State) (n : Nat) : Bool := s.unfinished.any fun x => x.1 = n

theorem subNeeded_iff {n : Nat} : s.subNeeded n = true ↔ ∃ x ∈ s.unfinished, x.1 = n := by
  unfold State.subNeeded
  simp only [List.any_eq_true, decide_eq_true_eq]

/-- A queue with an entry that no agent has claimed is needed: its command is only posted. -/
theorem subNeeded_of_posted {n : Nat} {q : SubQueue} (hq : s.sub? n = some q) (hposted : s.natAt q.header 4 ≠ s.natAt (q.header + 4) 4) : s.subNeeded n = true := by
  have hfound : s.host.subs.find? (fun q => q.id = n) = some q := hq
  have hid : q.id = n := by simpa using List.find?_some hfound
  have hin : q ∈ s.host.subs.filter s.posted := List.mem_filter.mpr ⟨List.mem_of_find?_eq_some hfound, decide_eq_true hposted⟩
  refine subNeeded_iff.mpr ⟨(q.id, q.cq), ?_, hid⟩
  unfold State.unfinished
  simp only [List.mem_append]
  exact .inl (.inl (.inl (.inl (List.mem_map.mpr ⟨q, hin, rfl⟩))))

theorem exec_qdelete_sub {q : SubQueue} (h : s.Idle 0x12) (h0 : s.arg 0 = 0) (hq : s.sub? (s.arg 1) = some q) : exec .qdelete s =
    if s.subNeeded (s.arg 1) = true then .next (s.mailboxDone 3).distribute
    else .next ((s.modHost fun h => { h with subs := h.subs.filter fun q => q.id ≠ s.arg 1 }).mailboxDone 0).distribute := by
  have hsub : (s.arg 0 = 0 && (s.sub? (s.arg 1)).isSome) = true := by simp [h0, hq]
  split
  · rename_i hneeded
    exact (doorbell_answers h ((if_pos hsub).trans (if_pos hneeded)) : execQdelete s = _)
  · rename_i hfree
    exact (doorbell_answers h ((if_pos hsub).trans (if_neg hfree)) : execQdelete s = _)

theorem exec_qdelete_comp {q : CompQueue} (h : s.Idle 0x12) (h0 : s.arg 0 = 1) (hq : s.comp? (s.arg 1) = some q) : exec .qdelete s =
    if s.compNeeded q = true then .next (s.mailboxDone 3).distribute
    else .next ((s.modHost fun h => { h with comps := h.comps.filter fun x => x.id ≠ s.arg 1 }).mailboxDone 0).distribute := by
  refine (doorbell_next h.posture h.free h.op : execQdelete s = _).trans ?_
  simp only [h0, hq, Nat.one_ne_zero, decide_false, Bool.false_and, Bool.false_eq_true, if_false, if_true]
  split <;> rfl

theorem exec_evring_new (h : s.Idle 0x40) (hpa : namedPa (s.arg 0) = true) (hlow : 4 ≤ s.arg 1) (hhigh : s.arg 1 ≤ 16) :
    exec .evring s = .next (((s.putNat (s.arg 0 + 4) 4 0).modHost fun h => { h with ring := s.arg 0, ringLog2 := s.arg 1, ringTail := 0, slots := [] }).mailboxDone 0).distribute :=
  (doorbell_answers h (if_neg (by simp [hpa, hlow, hhigh])) : execEvring s = _)

theorem exec_evring_bad (h : s.Idle 0x40) (hbad : s.arg 1 < 4 ∨ 16 < s.arg 1) : exec .evring s = .next (s.mailboxDone 2).distribute := by
  have htest : (!namedPa (s.arg 0) || s.arg 1 < 4 || 16 < s.arg 1) = true := by
    rcases hbad with hlow | hhigh
    · simp [hlow]
    · simp [hhigh]
  exact (doorbell_answers h (if_pos htest) : execEvring s = _)

end

/-- Settles O56: each command by its equation where its arguments are allowed, and where they are not. -/
theorem contextAndQueueCommandsRun : Obligations.ContextAndQueueCommandsRun := by
  unfold Obligations.ContextAndQueueCommandsRun
  refine ⟨?contexts, ?queues⟩
  case contexts =>
    intro s hposture hfree op a running ends
    have idle {n : Nat} (h : op = n) : s.Idle n := idle_of_op hposture hfree h
    refine ⟨fun h => ⟨fun r hr => exec_ctxcreate_refused (idle h) hr, fun hr => ?_⟩, fun t n e c hp => afterMailboxSweep_create hp, fun t n e hp => afterMailboxSweep_destroy hp,
      fun h => ⟨exec_ctxreset_refused (idle h), exec_ctxreset_runs (idle h)⟩, fun h => ⟨exec_ctxdestroy_refused (idle h), exec_ctxdestroy_runs (idle h)⟩,
      fun h => ⟨exec_ctxset_refused (idle h), exec_ctxset_writes (idle h)⟩⟩
    obtain ⟨hfpc, htv, htr, hsv, hsz, hcr⟩ := newContext_registers s (s.arg 0)
    exact ⟨s.newContext (s.arg 0), hfpc, htv, htr, hsv, hsz, hcr, fun k hk => newContext_cores s _ hk, rfl, rfl, rfl, exec_ctxcreate_runs (idle h) hr⟩
  case queues =>
    intro s hposture hfree op a ends h log2
    have idle {n : Nat} (h : op = n) : s.Idle n := idle_of_op hposture hfree h
    have hlow : bitsOf h 0 32 = h % 2 ^ 32 := bitsOf_zero ..
    refine ⟨fun hop h0 hpa h3 hcq h4 h16 hrest => ⟨?_, ?_⟩, fun hop h0 hpa h2 h3 h3' h4 h4' hhead hl hl' => ⟨?_, ?_⟩, fun hop => ⟨fun q h0 hq hnone => ?_, fun q h0 hq hneeded => ?_,
      fun q h0 hq hno => ?_, fun q h0 hq hyes => ?_⟩, fun hop => ⟨exec_evring_new (idle hop), exec_evring_bad (idle hop)⟩⟩
    · exact exec_sqcreate_exists (idle hop) h0 hpa h3 hcq ⟨h4, h16⟩ hrest
    · rw [← hlow]
      exact exec_sqcreate_new (idle hop) h0 hpa h3 hcq ⟨h4, h16⟩ hrest
    · exact exec_cqcreate_exists (idle hop) h0 hpa h2 ⟨h3, h3'⟩ ⟨h4, h4'⟩ (hlow.trans hhead) ⟨hl, hl'⟩
    · exact exec_cqcreate_new (idle hop) h0 hpa h2 ⟨h3, h3'⟩ ⟨h4, h4'⟩ (hlow.trans hhead) ⟨hl, hl'⟩
    · refine (exec_qdelete_sub (idle hop) h0 hq).trans (if_neg fun hneeded => ?_)
      obtain ⟨x, hx, hid⟩ := subNeeded_iff.mp hneeded
      exact hnone x hx hid
    · exact (exec_qdelete_sub (idle hop) h0 hq).trans (if_pos (hneeded.elim subNeeded_iff.mpr (subNeeded_of_posted hq)))
    · exact (exec_qdelete_comp (idle hop) h0 hq).trans (if_neg (by simp [hno]))
    · exact (exec_qdelete_comp (idle hop) h0 hq).trans (if_pos hyes)

end Sys2Proof.Machine
end


section
/-! PROOFS. Power moves of quads, takeovers, failures and links (O59). -/

namespace Sys2Proof.Machine

/-! ### Moves (R493, R494) -/

section
variable {s : State} {q n : Nat}

theorem quadState_eq (s : State) (q : Nat) : s.quadState q = (s.kiln.qpstat.get q).toNat % 4 := bitsOf_zero ..

/-- A quad that is there: one of the 96, and not disabled. -/
structure State.HasQuad (s : State) (q : Nat) : Prop where
  inRange : q ≤ 95
  enabled : s.kiln.disabled.contains q = false

theorem State.HasQuad.present (h : s.HasQuad q) : ¬(95 < q || s.kiln.disabled.contains q) = true := by
  simp only [h.enabled, Bool.or_false, decide_eq_true_eq, Nat.not_lt]
  exact h.inRange

theorem goTo_of_busy {row : String} (h : s.HasQuad q) (hbusy : s.quadBusy q = true) : goTo row n q s = .next s := event_some ((if_neg h.present).trans (if_pos hbusy))

theorem exec_qwake_of_busy (h : s.HasQuad q) (hbusy : s.quadBusy q = true) : exec (.qwake q) s = .next s := event_some ((if_neg h.present).trans (if_pos hbusy))

theorem exec_qwake_of_free (h : s.HasQuad q) (hfree : s.quadBusy q = false) : exec (.qwake q) s = .next (s.startMove q 0) :=
  event_some ((if_neg h.present).trans (if_neg (by simp [hfree])))

/-- TARGET noted in QPCTL. -/
def State.noteTarget (s : State) (q n : Nat) : State := s.modKiln fun k => { k with qpctl := k.qpctl.set q (BitVec.ofNat 64 n) }

/-- A core of the quad has a pinned region. -/
def State.quadPinned (s : State) (q : Nat) : Bool := (List.range 4).any fun j => s.pinsize.get (4 * q + j) ≠ 0

theorem goTo_begins {row : String} (h : s.HasQuad q) (hfree : s.quadBusy q = false) (hn : n ≠ 2 ∨ s.quadPinned q = false) : goTo row n q s = .next ((s.noteTarget q n).startMove q n) := by
  have hallowed : ¬(decide (n = 2) && s.quadPinned q) = true := by
    rcases hn with hn | hn
    · simp [hn]
    · simp [hn]
  exact event_some ((if_neg h.present).trans ((if_neg (by simp [hfree])).trans (if_neg hallowed)))

theorem goTo_refused {row : String} (h : s.HasQuad q) (hfree : s.quadBusy q = false) (hpinned : s.quadPinned q = true) :
    goTo row 2 q s = .next ((s.noteTarget q 2).setQpstat q (s.quadState q) 0 1) :=
  event_some ((if_neg h.present).trans ((if_neg (by simp [hfree])).trans (if_pos ((Bool.true_and _).trans hpinned))))

/-- A move noted in QPSTAT and on the list of moves. -/
def State.moving (s : State) (q n : Nat) : State :=
  s.modKiln fun k => { k with qpstat := k.qpstat.set q (BitVec.ofNat 64 ((s.kiln.qpstat.get q).toNat % 4 + 4)), moves := k.moves ++ [(q, n)] }

/-- A move begins, and one out of state 0 quiesces the quad (R494). -/
theorem startMove_eq (s : State) (q n : Nat) :
    s.startMove q n = if n ≠ 0 ∧ (s.kiln.qpstat.get q).toNat % 4 = 0 then (s.moving q n).quiesce q else s.moving q n := by
  unfold State.startMove
  rw [quadState_eq]
  exact if_congr (by simp) rfl rfl

theorem mem_emptyQuad_l1 {x : CacheLine} (hx : x ∈ (s.emptyQuad q).caches.l1) : x ∈ s.caches.l1 ∧ quadOf x.core ≠ q := by
  have hkept : x ∈ s.caches.l1.filter fun l => !inQuad q l.core := hx
  simpa [inQuad] using hkept

theorem mem_emptyQuad_tlb {e : TlbEntry} (he : e ∈ (s.emptyQuad q).caches.tlb) : e ∈ s.caches.tlb ∧ e.quad ≠ q := by
  have hkept : e ∈ s.caches.tlb.filter fun e => e.quad ≠ q := he
  simpa using hkept

/-- A move taken off the list. -/
def State.moveOver (s : State) (q : Nat) : State := s.modKiln fun k => { k with moves := k.moves.filter fun x => x.1 ≠ q }

/-- What ends a move, by its target and the quad's state. -/
theorem exec_quadMoveDone (hmove : s.kiln.moves.find? (fun m => m.1 = q) = some (q, n)) : exec (.quadMoveDone q) s = event "QUAD_MOVE_DONE" (
    if n = 0 then some ((s.moveOver q).setQpstat q 0 0 0).distribute
    else if (!s.quadQuiet q) = true then none
    else if 4 ≤ n then some ((s.moveOver q).takeOver q).distribute
    else if (n = 2 && s.quadState q = 0) = true then some ((s.emptyQuad q).setQpstat q 1 1 0)
    else some (((s.emptyQuad q).moveOver q).setQpstat q n 0 0)) := by
  change execQuadMoveDone q s = _
  unfold execQuadMoveDone
  rw [hmove]
  rfl

theorem quadMoveDone_wakes (hmove : s.kiln.moves.find? (fun m => m.1 = q) = some (q, 0)) : exec (.quadMoveDone q) s = .next ((s.moveOver q).setQpstat q 0 0 0).distribute := by
  rw [exec_quadMoveDone hmove]
  rfl

theorem quadMoveDone_takesOver (hmove : s.kiln.moves.find? (fun m => m.1 = q) = some (q, n)) (hquiet : s.quadQuiet q = true) (hn : 4 ≤ n) :
    exec (.quadMoveDone q) s = .next ((s.moveOver q).takeOver q).distribute := by
  rw [exec_quadMoveDone hmove, if_neg (by omega), if_neg (by simp [hquiet]), if_pos hn]
  rfl

theorem quadMoveDone_stopsClocks (hmove : s.kiln.moves.find? (fun m => m.1 = q) = some (q, 2)) (hquiet : s.quadQuiet q = true) (hstate : s.quadState q = 0) :
    exec (.quadMoveDone q) s = .next ((s.emptyQuad q).setQpstat q 1 1 0) := by
  rw [exec_quadMoveDone hmove, if_neg (by omega), if_neg (by simp [hquiet]), if_neg (by omega), if_pos (by simp [hstate])]
  rfl

theorem quadMoveDone_stands (hmove : s.kiln.moves.find? (fun m => m.1 = q) = some (q, n)) (hquiet : s.quadQuiet q = true) (hn : n = 1 ∨ n = 2 ∧ s.quadState q ≠ 0) :
    exec (.quadMoveDone q) s = .next (((s.emptyQuad q).moveOver q).setQpstat q n 0 0) := by
  have hthrough : ¬(n = 2 && s.quadState q = 0) = true := by
    rw [Bool.and_eq_true, decide_eq_true_eq, decide_eq_true_eq]
    omega
  rw [exec_quadMoveDone hmove, if_neg (by omega), if_neg (by simp [hquiet]), if_neg (by omega), if_neg hthrough]
  rfl

/-! ### Takeovers and failures (R496) -/

theorem exec_takeover (h : s.HasQuad q) (hfree : s.quadBusy q = false) : exec (.takeover q (s.nextSpare q)) s = .next (s.startMove q (4 + s.nextSpare q)) := by
  have hgood : (95 < q || s.kiln.disabled.contains q || s.quadBusy q || s.nextSpare q ≠ s.nextSpare q) = false := by
    rw [h.enabled, hfree, decide_eq_false (Nat.not_lt.mpr h.inRange), decide_eq_false (not_not_intro rfl)]
    rfl
  exact event_some (if_neg (Bool.eq_false_iff.mp hgood))

theorem exec_quadFailure (h : s.HasQuad q) : exec (.quadFailure q) s = .next ((((s.gangsOn q).foldl (fun t g => t.failGang g) s).moveOver q).takeOver q).distribute :=
  event_some (if_neg h.present)

/-- What a takeover leaves of the spares and of the disabled quads. -/
theorem takeOver_kiln (s : State) (q : Nat) : ∃ qpstat, (s.takeOver q).kiln = { (if (s.kiln.spares.get (q / 24)).toNat < 2
    then { s.kiln with spares := s.kiln.spares.set (q / 24) (BitVec.ofNat 8 ((s.kiln.spares.get (q / 24)).toNat + 1)) }
    else { s.kiln with disabled := s.kiln.disabled ++ [q] }) with qpstat } := ⟨_, postEvent_kiln _ _⟩

theorem takeOver_of_spare (h : (s.kiln.spares.get (q / 24)).toNat < 2) :
    (s.takeOver q).kiln.spares = s.kiln.spares.set (q / 24) (BitVec.ofNat 8 ((s.kiln.spares.get (q / 24)).toNat + 1)) ∧ (s.takeOver q).kiln.disabled = s.kiln.disabled := by
  obtain ⟨qpstat, hkiln⟩ := takeOver_kiln s q
  rw [hkiln, if_pos h]
  exact ⟨rfl, rfl⟩

theorem takeOver_of_none (h : 2 ≤ (s.kiln.spares.get (q / 24)).toNat) : (s.takeOver q).kiln.spares = s.kiln.spares ∧ (s.takeOver q).kiln.disabled = s.kiln.disabled ++ [q] := by
  obtain ⟨qpstat, hkiln⟩ := takeOver_kiln s q
  rw [hkiln, if_neg (Nat.not_lt.mpr h)]
  exact ⟨rfl, rfl⟩

end

/-! ### The peer links (R489) -/

section
variable {s t : State} {id asid : Nat}

theorem exec_laneSparing {port : Nat} (hport : port ≤ 11) (hlanes : s.kiln.lanes.get port = 8) : exec (.laneSparing port) s =
    .next ((({ s with fresh := s.fresh + 1 } : State).modKiln fun k => { k with lanes := k.lanes.set port 7 }).postSimple 6 0 (port + (255 - 2 ^ ((Config.freeByte s.fresh).toNat % 8)) * 16)) := by
  refine event_some (if_neg ?_)
  simp [hport, hlanes]

/-- An access on its way to a peer that cannot be reached: it is discarded, its context is reset, and the port and the lanes of PEERLOST are free values. -/
theorem exec_peerUnreachable (h : s.discardAtPeer id = some (asid, t)) : ∃ port mask, port < 12 ∧ mask < 256 ∧
    exec (.peerUnreachable id) s = .next (((({ t with fresh := t.fresh + 2 } : State).startReset asid .kiln).postSimple 7 asid (port + mask * 2 ^ 4)).distribute) := by
  refine ⟨(Config.freeByte t.fresh).toNat % 12, (Config.freeByte (t.fresh + 1)).toNat, Nat.mod_lt _ (by decide), BitVec.isLt _, event_some ?_⟩
  rw [h]
  rfl

theorem discardAtPeer_access {a : Access} (ha : s.flight? a.id = some a) (hat : ∃ l ∈ a.lanes, l.status = .ready ∧ windowOf (s.localPa l.pa) = 2) :
    s.discardAtPeer a.id = some (a.asid, (s.modFlight a.id fun x => { x with lanes := x.lanes.map fun l => { l with status := .done } }).finishAccess a.id) := by
  obtain ⟨l, hl, hready, hwindow⟩ := hat
  have hpeer : s.atPeer a = true := List.any_eq_true.mpr ⟨l, hl, by simp [hready, hwindow]⟩
  unfold State.discardAtPeer
  rw [ha]
  exact if_pos hpeer

theorem discardAtPeer_unit (hnone : s.flight? id = none) (h : s.unitAtPeer id = some (asid, t)) : s.discardAtPeer id = some (asid, t) := by
  unfold State.discardAtPeer
  rw [hnone]
  exact h

theorem unitAtPeer_copy {c : Copy} (hcopies : s.eng.copies = [c]) (hout : c.allArrived = false) (hat : ∃ va ∈ c.globals, s.peerVa c.asid va = true) :
    s.unitAtPeer c.id = some (c.asid, s.modEng fun e => { e with copies := [] }) := by
  have hglobals : c.globals.any (s.peerVa c.asid) = true := List.any_eq_true.mpr hat
  have hfound : s.eng.copies.find? (fun x => x.id = c.id && !x.allArrived && x.globals.any (s.peerVa x.asid)) = some c := by
    rw [hcopies]
    exact List.find?_cons_of_pos (by simp only [hout, hglobals, decide_true, Bool.not_false, Bool.and_self])
  have hgone : s.eng.copies.filter (fun x => x.id ≠ c.id) = [] := by simp [hcopies]
  unfold State.unitAtPeer
  rw [hfound]
  unfold State.modEng
  dsimp only
  rw [hgone]

end

/-- Settles O59: the moves by `goTo`, `startMove` and what ends them, the rest by the row of each failure. -/
theorem quadsMoveAndFailuresAreServed : Obligations.QuadsMoveAndFailuresAreServed := by
  unfold Obligations.QuadsMoveAndFailuresAreServed
  refine ⟨?moves, ?failures, ?links, ?peers⟩
  case moves =>
    intro s q hq hen state noted moving begins pinned
    have h : s.HasQuad q := ⟨hq, hen⟩
    have hbegins (t : State) (n : Nat) (ht : t.kiln.qpstat = s.kiln.qpstat) : t.startMove q n = begins t n := by
      rw [startMove_eq]
      unfold State.moving
      rw [ht]
    refine ⟨fun hbusy => ⟨goTo_of_busy h hbusy, goTo_of_busy h hbusy, goTo_of_busy h hbusy, exec_qwake_of_busy h hbusy⟩, fun hfree => ⟨?_, ?_, ?_, fun hp => ?_, fun hp => ?_⟩, ?_⟩
    · rw [← hbegins (noted 0) 0 rfl]
      exact goTo_begins h hfree (.inl (by decide))
    · rw [← hbegins (noted 1) 1 rfl]
      exact goTo_begins h hfree (.inl (by decide))
    · rw [← hbegins s 0 rfl]
      exact exec_qwake_of_free h hfree
    · rw [← hbegins (noted 2) 2 rfl]
      exact goTo_begins h hfree (.inr hp)
    · refine (goTo_refused h hfree hp).trans ?_
      rw [quadState_eq]
      rfl
    · intro n hmove stands over_
      refine ⟨?_, fun hquiet => ⟨fun hn => ?_, ?_, quadMoveDone_takesOver hmove hquiet⟩, fun x => mem_emptyQuad_l1, fun e => mem_emptyQuad_tlb⟩
      · rintro rfl
        exact quadMoveDone_wakes hmove
      · exact quadMoveDone_stands hmove hquiet (by rwa [quadState_eq])
      · rintro rfl hstate
        exact quadMoveDone_stopsClocks hmove hquiet ((quadState_eq s q).trans hstate)
  case failures =>
    intro s q hq hen used
    have h : s.HasQuad q := ⟨hq, hen⟩
    exact ⟨exec_takeover h, exec_quadFailure h, fun hspare => ⟨_, rfl, takeOver_of_spare hspare⟩, fun hnone => ⟨_, rfl, takeOver_of_none hnone⟩⟩
  case links =>
    intro s port hport hlanes
    exact ⟨_, Nat.mod_lt _ (by decide), exec_laneSparing hport hlanes⟩
  case peers =>
    intro s lost
    exact ⟨fun a ha hat => exec_peerUnreachable (discardAtPeer_access ha hat),
      fun c hnone hcopies hout hat => exec_peerUnreachable (discardAtPeer_unit hnone (unitAtPeer_copy hcopies hout hat)),
      fun id asid t hnone hunit => exec_peerUnreachable (discardAtPeer_unit hnone hunit)⟩

end Sys2Proof.Machine
end
